-- ==== Sys2Proof/Word.lean ====
section
/-! DEFINITION. Word types and the finite maps that hold every indexed part of the state as plain data. -/

namespace Sys2Proof

/-- A byte of memory (spec/00_scope.md R3). -/
abbrev Byte := BitVec 8
/-- An instruction word (spec/03_formats.md R35). -/
abbrev Word := BitVec 32
/-- A scalar register value (spec/01_machine.md R11 and the chapter's engine section). -/
abbrev XWord := BitVec 64
/-- A vector register value (spec/01_machine.md R11). -/
abbrev VWord := BitVec 1024
/-- A mask register value (spec/13_vector.md R298). -/
abbrev MWord := BitVec 128

/-- A finite map from numbers, as a list of key and value pairs with rising keys. -/
abbrev Map (α : Type) := List (Nat × α)

/-- The value at key `k`, or `d` where the map lists none. -/
def Map.get {α : Type} (d : α) : Map α → Nat → α
  | [], _ => d
  | (a, b) :: t, k => if a = k then b else Map.get d t k

/-- Put `v` at key `k`, keeping the keys in rising order. -/
def Map.put {α : Type} : Map α → Nat → α → Map α
  | [], k, v => [(k, v)]
  | (a, b) :: t, k, v =>
    if k < a then (k, v) :: (a, b) :: t
    else if k = a then (k, v) :: t
    else (a, b) :: Map.put t k v

/-- Remove key `k`. -/
def Map.del {α : Type} : Map α → Nat → Map α
  | [], _ => []
  | (a, b) :: t, k => if a = k then Map.del t k else (a, b) :: Map.del t k

/-- Whether key `k` is listed. -/
def Map.has {α : Type} : Map α → Nat → Bool
  | [], _ => false
  | (a, _) :: t, k => a == k || Map.has t k

/-- The keys of a map rise strictly. -/
def Map.sorted {α : Type} : Map α → Bool
  | [] => true
  | [_] => true
  | (a, _) :: (b, y) :: t => decide (a < b) && Map.sorted ((b, y) :: t)

end Sys2Proof
end

