-- ==== Sys2Proof/Config.lean ====
section
/-! DEFINITION. What the spec leaves open as a value: constants with no body, so that no proof sees a number, and
the fixed sizes of the device (spec/01_machine.md R7). -/

namespace Sys2Proof.Config

/-- For f32, which of the two representable values that enclose the exact result `vexp2` (op 0), `vrcp` (op 1) or
`vrsqrt` (op 2) gives on the input pattern: true for the one farther from zero. A fixed function of the input
(spec/13_vector.md R313) (DESIGN CHOICE, notes/assumptions/5.md): a free value. -/
opaque upperNeighbour : Nat → BitVec 32 → Bool

/-- DELAY of a reply in core cycles (spec/19_debug.md R456): hop and queue delays, which the model does not time.
A free value, applied to the counter `State.free` (DESIGN CHOICE, notes/assumptions/6.md). -/
opaque freeDelay : Nat → BitVec 24

/-- A word the spec leaves open and that no other free value covers, applied to the counter `State.free`
(DESIGN CHOICE, notes/assumptions/4.md). -/
opaque freeWord : Nat → BitVec 64

/-- The skew of a die's DTIME against the device count, in ticks before the range of spec/01_machine.md R14 is
applied (DESIGN CHOICE, notes/assumptions/7.md). A free value. -/
opaque dieSkew : Nat → Nat

/-- What the central balancer commands at its n-th reading of the occupancy vectors, one of six numbers for each core: source core, destination
core, count (spec/10_actors.md R240). Its thresholds are Fleiz's own: a free value (DESIGN CHOICE, notes/assumptions/9.md). -/
opaque balancer : Nat → List (List Nat) → List (Nat × Nat × Nat)

/-- The cluster at which a peer homes a line of its memory (spec/06_memory.md R120): the peer's own masks decide. By peer number and line: a free
value (DESIGN CHOICE, notes/assumptions/94.md). -/
opaque peerHome : Nat → Nat → Nat

/-- SHA-384 of a byte string (spec/18_frontend.md R442, R444). The function is outside the spec: a free value
(DESIGN CHOICE, notes/assumptions/8.md). -/
opaque sha384 : List Byte → BitVec 384

/-- Whether an ECDSA P-384 signature verifies: public key, digest, signature (spec/18_frontend.md R442). The function is
outside the spec: a free value (DESIGN CHOICE, notes/assumptions/8.md). -/
opaque ecdsaVerify : List Byte → BitVec 384 → List Byte → Bool

/-- The ECDSA P-384 signature of a byte string under the device attestation key, 96 bytes as r and s
(spec/18_frontend.md R444). A free value (DESIGN CHOICE, notes/assumptions/8.md). -/
opaque attestSignature : List Byte → BitVec 768

/-- Compute dies, clusters of a die, clusters, cores (spec/01_machine.md R7). -/
def dies : Nat := 8
/-- Clusters of the device (spec/01_machine.md R7). -/
def clusters : Nat := 768
/-- Ticks without a reply after which an access fails, and after which holes and retain entries are given up
(spec/06_memory.md R135, spec/17_network.md R406, R408). -/
def giveUp : Nat := 1000000

end Sys2Proof.Config
end

