-- ==== Sys2Proof/Syntax.lean ====
section
/-! DEFINITION. The syntax of the part: one constructor of `Instr` for each row of the operation table, the encoded
instructions with the operands their words hold, the events with the unit or packet they act on. -/

namespace Sys2Proof

/-- A scalar source operand: the register and its E bit (spec/03_formats.md R39). -/
structure Src where
  n : BitVec 5
  e : Bool
  deriving DecidableEq, Repr, Inhabited

/-- Access sizes (spec/03_formats.md R48). -/
inductive Size where
  | b | h | w | d
  deriving DecidableEq, Repr, Inhabited

/-- Size and extension of the displacement loads, fn3 0 to 6 (spec/03_formats.md R48). -/
inductive LdSize where
  | bs | hs | ws | d | bz | hz | wz
  deriving DecidableEq, Repr, Inhabited

/-- Scalar precision (spec/03_formats.md R47). -/
inductive Prec where
  | s | d
  deriving DecidableEq, Repr, Inhabited

/-- Source of a conversion to floating point (spec/03_formats.md R47). -/
inductive FSrc where
  | other | s64 | z64
  deriving DecidableEq, Repr, Inhabited

/-- Conditions of `fcmp` (spec/03_formats.md R47). -/
inductive FCond where
  | eq | lt | le | un
  deriving DecidableEq, Repr, Inhabited

/-- Element types of the vector majors 0x20 to 0x2A (spec/03_formats.md R54). -/
inductive VType where
  | f32 | bf | hf | s8 | s16 | s32 | s64 | z8 | z16 | z32 | z64
  deriving DecidableEq, Repr, Inhabited

/-- Conditions of `vcmp` (spec/03_formats.md R54). -/
inductive VCond where
  | eq | ne | lt | le | gt | ge
  deriving DecidableEq, Repr, Inhabited

/-- The sixteen type codes of conversions (spec/03_formats.md R55). -/
inductive NumType where
  | f32 | bf | hf | f8a | f8b | f6a | f6b | f4 | s8 | s16 | s32 | s64 | z8 | z16 | z32 | z64
  deriving DecidableEq, Repr, Inhabited

/-- Rounding modes (spec/03_formats.md R55). -/
inductive RMode where
  | rne | rtz | sr
  deriving DecidableEq, Repr, Inhabited

/-- Element formats of the MX instructions (spec/03_formats.md R56). -/
inductive MxElem where
  | f8a | f8b | f6a | f6b | f4 | i8
  deriving DecidableEq, Repr, Inhabited

/-- Wide types of the MX instructions (spec/03_formats.md R56). -/
inductive MxWide where
  | f32 | bf | hf
  deriving DecidableEq, Repr, Inhabited

/-- Format pairs of `mma`, majors 0x50 to 0x5E (spec/03_formats.md R58). -/
inductive MmaPair where
  | bfbf | hfhf | f8af8a | f8af8b | f8bf8a | f8bf8b | f6af6a | f6bf6b | f6af6b | f6bf6a | f4f4 | f8af4 | f4f8a | i8i8 | sfsf
  deriving DecidableEq, Repr, Inhabited

/-- What an inspection of Nernath names in a held activation (spec/19_debug.md R452): a scalar register, a doubleword of a vector register, a control and
status register, a scratchpad doubleword, a doubleword of a mask, a word of a view, an accumulator's element or its OVF, an element or a scale of the
B latch, a copy-engine register. -/
inductive Inspect where
  | x (n : BitVec 5)
  | v (n : BitVec 5) (dw : Nat)
  | csr (n : BitVec 11)
  | pad (addr : Nat)
  | m (n : BitVec 3) (dw : Nat)
  | q (n : BitVec 4) (word : Nat)
  | acc (a : BitVec 2) (i : Nat)
  | ovf (a : BitVec 2)
  | latch (i : Nat)
  | scale (i : Nat)
  | ce (n : Nat)
  deriving DecidableEq, Repr, Inhabited

/-- The operations and events of the part, one constructor per row of the operation table. Each docstring gives the row's rule. The
rows that no part of the model builds as terms stand last: a compiled program holds at most 245 constructors with fields. -/
inductive Instr where
  /-- R71: Writes the 64-bit sum of xa and xb to xd. -/
  | add (rd : BitVec 5) (sa : Src) (sb : Src)
  /-- R71: Writes xa minus xb to xd. -/
  | sub (rd : BitVec 5) (sa : Src) (sb : Src)
  /-- R71: Writes the bitwise and of xa and xb to xd. -/
  | and (rd : BitVec 5) (sa : Src) (sb : Src)
  /-- R71: Writes the bitwise or of xa and xb to xd. -/
  | or (rd : BitVec 5) (sa : Src) (sb : Src)
  /-- R71: Writes the bitwise xor of xa and xb to xd. -/
  | xor (rd : BitVec 5) (sa : Src) (sb : Src)
  /-- R71: Writes xa and not xb to xd. -/
  | andn (rd : BitVec 5) (sa : Src) (sb : Src)
  /-- R71: Shifts xa left by xb[5:0] places. -/
  | sll (rd : BitVec 5) (sa : Src) (sb : Src)
  /-- R71: Shifts xa right logically by xb[5:0] places. -/
  | srl (rd : BitVec 5) (sa : Src) (sb : Src)
  /-- R71: Shifts xa right arithmetically by xb[5:0] places. -/
  | sra (rd : BitVec 5) (sa : Src) (sb : Src)
  /-- R71: Rotates xa left by xb[5:0] places. -/
  | rol (rd : BitVec 5) (sa : Src) (sb : Src)
  /-- R71: Writes 1 if xa is signed-less than xb, else 0. -/
  | slt (rd : BitVec 5) (sa : Src) (sb : Src)
  /-- R71: Writes 1 if xa is unsigned-less than xb, else 0. -/
  | sltz (rd : BitVec 5) (sa : Src) (sb : Src)
  /-- R71: Writes the low 64 bits of xa times xb. -/
  | mul (rd : BitVec 5) (sa : Src) (sb : Src)
  /-- R71: Writes the high 64 bits of the signed product. -/
  | mulh (rd : BitVec 5) (sa : Src) (sb : Src)
  /-- R71: Writes the high 64 bits of the unsigned product. -/
  | mulhz (rd : BitVec 5) (sa : Src) (sb : Src)
  /-- R71: Signed division with saturated quotients and no fault. -/
  | div (rd : BitVec 5) (sa : Src) (sb : Src)
  /-- R71: Unsigned division with saturated quotient on zero divisor. -/
  | divz (rd : BitVec 5) (sa : Src) (sb : Src)
  /-- R71: Signed remainder, 0 where the quotient saturates. -/
  | rem (rd : BitVec 5) (sa : Src) (sb : Src)
  /-- R71: Unsigned remainder, 0 on zero divisor. -/
  | remz (rd : BitVec 5) (sa : Src) (sb : Src)
  /-- R71: Writes the signed lesser of xa and xb. -/
  | min (rd : BitVec 5) (sa : Src) (sb : Src)
  /-- R71: Writes the signed greater of xa and xb. -/
  | max (rd : BitVec 5) (sa : Src) (sb : Src)
  /-- R71: Writes the unsigned lesser of xa and xb. -/
  | minz (rd : BitVec 5) (sa : Src) (sb : Src)
  /-- R71: Writes the unsigned greater of xa and xb. -/
  | maxz (rd : BitVec 5) (sa : Src) (sb : Src)
  /-- R71: Counts leading zero bits of xa. -/
  | clz (rd : BitVec 5) (sa : Src)
  /-- R71: Counts trailing zero bits of xa. -/
  | ctz (rd : BitVec 5) (sa : Src)
  /-- R71: Counts one bits of xa. -/
  | popc (rd : BitVec 5) (sa : Src)
  /-- R71: Inserts a bitfield of xa into xd at position and width from xb. -/
  | ins (rd : BitVec 5) (sa : Src) (sb : Src)
  /-- R71: Extracts a zero-extended bitfield of xa. -/
  | ext (rd : BitVec 5) (sa : Src) (sb : Src)
  /-- R73: Adds the sign-extended 11-bit immediate to xa. -/
  | addi (rd : BitVec 5) (sa : Src) (imm : BitVec 11)
  /-- R73: Bitwise and with the immediate. -/
  | andi (rd : BitVec 5) (sa : Src) (imm : BitVec 11)
  /-- R73: Bitwise or with the immediate. -/
  | ori (rd : BitVec 5) (sa : Src) (imm : BitVec 11)
  /-- R73: Bitwise xor with the immediate. -/
  | xori (rd : BitVec 5) (sa : Src) (imm : BitVec 11)
  /-- R73: Signed compare of xa with the immediate. -/
  | slti (rd : BitVec 5) (sa : Src) (imm : BitVec 11)
  /-- R73: Unsigned compare of xa with the sign-extended immediate. -/
  | sltzi (rd : BitVec 5) (sa : Src) (imm : BitVec 11)
  /-- R74: Shifts xa left by an immediate amount. -/
  | slli (rd : BitVec 5) (sa : Src) (sh : BitVec 6)
  /-- R74: Shifts xa right logically by an immediate amount. -/
  | srli (rd : BitVec 5) (sa : Src) (sh : BitVec 6)
  /-- R74: Shifts xa right arithmetically by an immediate amount. -/
  | srai (rd : BitVec 5) (sa : Src) (sh : BitVec 6)
  /-- R75: Writes sext(imm20) times 2,048 to xd. -/
  | liu (rd : BitVec 5) (imm : BitVec 20)
  /-- R75: Writes PC plus sext(imm20) times 2,048 to xd. -/
  | addpc (rd : BitVec 5) (imm : BitVec 20)
  /-- R76: Writes xa if xc is non-zero, else xb. -/
  | csel (rd : BitVec 5) (sa : Src) (sb : Src) (sc : Src)
  /-- R77: Branches if xa equals xb. -/
  | beq (sa : Src) (sb : Src) (disp : BitVec 10)
  /-- R77: Branches if xa differs from xb. -/
  | bne (sa : Src) (sb : Src) (disp : BitVec 10)
  /-- R77: Branches if xa is signed-less than xb. -/
  | blt (sa : Src) (sb : Src) (disp : BitVec 10)
  /-- R77: Branches if xa is signed-greater or equal to xb. -/
  | bge (sa : Src) (sb : Src) (disp : BitVec 10)
  /-- R77: Branches if xa is unsigned-less than xb. -/
  | bltz (sa : Src) (sb : Src) (disp : BitVec 10)
  /-- R77: Branches if xa is unsigned-greater or equal to xb. -/
  | bgez (sa : Src) (sb : Src) (disp : BitVec 10)
  /-- R79: Jumps PC-relative by sext(imm25) times 4. -/
  | j (imm : BitVec 25)
  /-- R80: Jumps to the address in xa. -/
  | jr (sa : Src)
  /-- R94: Creates a new window frame, writes the link to x31 and jumps. -/
  | call (imm : BitVec 25)
  /-- R94: Windowed call to the address in xa. -/
  | callr (sa : Src)
  /-- R83: Scalar FP add of precision P. -/
  | fadd (p : Prec) (rd : BitVec 5) (sa : Src) (sb : Src)
  /-- R83: Scalar FP subtract. -/
  | fsub (p : Prec) (rd : BitVec 5) (sa : Src) (sb : Src)
  /-- R83: Scalar FP multiply. -/
  | fmul (p : Prec) (rd : BitVec 5) (sa : Src) (sb : Src)
  /-- R83: Scalar FP divide on the unpipelined divide unit. -/
  | fdiv (p : Prec) (rd : BitVec 5) (sa : Src) (sb : Src)
  /-- R83: Scalar FP square root. -/
  | fsqrt (p : Prec) (rd : BitVec 5) (sa : Src)
  /-- R83: Scalar FP minimum with -0 < +0. -/
  | fmin (p : Prec) (rd : BitVec 5) (sa : Src) (sb : Src)
  /-- R83: Scalar FP maximum with -0 < +0. -/
  | fmax (p : Prec) (rd : BitVec 5) (sa : Src) (sb : Src)
  /-- R85: Scalar FP compare writing 0 or 1. -/
  | fcmp (p : Prec) (cond : FCond) (rd : BitVec 5) (sa : Src) (sb : Src)
  /-- R86: Writes the class word of a scalar FP value. -/
  | fclass (p : Prec) (rd : BitVec 5) (sa : Src)
  /-- R87: Converts to FP of precision P from the other precision, s64 or z64. -/
  | fcvtToFp (p : Prec) (src : FSrc) (rd : BitVec 5) (sa : Src)
  /-- R88: Converts FP to a signed 64-bit integer. -/
  | fcvtS64 (p : Prec) (rtz : Bool) (rd : BitVec 5) (sa : Src)
  /-- R88: Converts FP to an unsigned 64-bit integer. -/
  | fcvtZ64 (p : Prec) (rtz : Bool) (rd : BitVec 5) (sa : Src)
  /-- R84: Fused binary32 multiply-add. -/
  | fmaS (rd : BitVec 5) (sa : Src) (sb : Src) (sc : Src)
  /-- R84: Fused binary64 multiply-add. -/
  | fmaD (rd : BitVec 5) (sa : Src) (sb : Src) (sc : Src)
  /-- R128: Relaxed load in displacement form. -/
  | ld (sz : LdSize) (rd : BitVec 5) (sa : Src) (imm : BitVec 11)
  /-- R128: Load in ordered form with an ordering code, no displacement. -/
  | ldOrdered (sz : Size) (zx : Bool) (ord : BitVec 4) (rd : BitVec 5) (sa : Src)
  /-- R132: Reads bytes at an offset of a parameter window. -/
  | ldp (sz : Size) (zx : Bool) (win : BitVec 2) (rd : BitVec 5) (sa : Src)
  /-- R130: Relaxed store in displacement form, posted if not own scratchpad. -/
  | st (sz : Size) (sb : Src) (sa : Src) (imm : BitVec 10)
  /-- R130: Store in ordered form with a release ordering code. -/
  | stOrdered (sz : Size) (ord : BitVec 4) (sb : Src) (sa : Src)
  /-- R142: Atomic add at the target, returning the old value. -/
  | amoAdd (ord : BitVec 4) (dbl : Bool) (rd : BitVec 5) (sa : Src) (sb : Src)
  /-- R142: Atomic and. -/
  | amoAnd (ord : BitVec 4) (dbl : Bool) (rd : BitVec 5) (sa : Src) (sb : Src)
  /-- R142: Atomic or. -/
  | amoOr (ord : BitVec 4) (dbl : Bool) (rd : BitVec 5) (sa : Src) (sb : Src)
  /-- R142: Atomic xor. -/
  | amoXor (ord : BitVec 4) (dbl : Bool) (rd : BitVec 5) (sa : Src) (sb : Src)
  /-- R142: Atomic signed minimum. -/
  | amoMin (ord : BitVec 4) (dbl : Bool) (rd : BitVec 5) (sa : Src) (sb : Src)
  /-- R142: Atomic signed maximum. -/
  | amoMax (ord : BitVec 4) (dbl : Bool) (rd : BitVec 5) (sa : Src) (sb : Src)
  /-- R142: Atomic swap. -/
  | amoSwap (ord : BitVec 4) (dbl : Bool) (rd : BitVec 5) (sa : Src) (sb : Src)
  /-- R142: Atomic FP32 add. -/
  | amoFaddW (ord : BitVec 4) (rd : BitVec 5) (sa : Src) (sb : Src)
  /-- R142: Atomic 64-bit compare-and-swap with a register pair. -/
  | amoCasD (ord : BitVec 4) (rd : BitVec 5) (sa : Src) (sb : Src)
  /-- R144: Release then acquire at its scope. -/
  | fence (scope : BitVec 3)
  /-- R126: Marks a scratchpad line empty. -/
  | lmarkE (sa : Src)
  /-- R126: Marks a scratchpad line full. -/
  | lmarkF (sa : Src)
  /-- R126: Waits until an own-scratchpad line is full. -/
  | lwaitf (sa : Src)
  /-- R126: Writes the full/empty bit of a line to xd. -/
  | ltest (rd : BitVec 5) (sa : Src)
  /-- R145: Writes back and invalidates L1 lines of a range. -/
  | l1Inv (sa : Src) (sb : Src)
  /-- R145: Writes back dirty L1 bytes of a range. -/
  | l1Wb (sa : Src) (sb : Src)
  /-- R148: Clears V of instruction-store blocks of a code range. -/
  | iinv (sa : Src) (sb : Src)
  /-- R133: Split-phase remote load marking xd empty until the reply. -/
  | rld (sz : LdSize) (rd : BitVec 5) (sa : Src) (imm : BitVec 11)
  /-- R347: Reads a control and status register. -/
  | csrr (rd : BitVec 5) (csr : BitVec 11)
  /-- R347: Writes the writable fields of a CSR. -/
  | csrw (csr : BitVec 11) (sa : Src)
  /-- R347: Sets bits in the settable fields of a CSR. -/
  | csrs (csr : BitVec 11) (sa : Src)
  /-- R347: Clears bits in the clearable fields of a CSR. -/
  | csrc (csr : BitVec 11) (sa : Src)
  /-- R159: Sets a view's base and header, retiring it first if live, and enters it. -/
  | vwSet (q : BitVec 4) (sa : Src) (sb : Src)
  /-- R159: Sets one dimension word of a live view. -/
  | vwDim (q : BitVec 4) (n : BitVec 2) (sa : Src) (sb : Src)
  /-- R159: Sets type and companion scale fields of a live view. -/
  | vwFmt (q : BitVec 4) (sa : Src)
  /-- R168: Reads one word of a view. -/
  | vwGet (rd : BitVec 5) (q : BitVec 4) (n : BitVec 3)
  /-- R169: Loads one run of elements through a view into a vector register. -/
  | vwLd (vd : BitVec 5) (q : BitVec 4) (sb : Src)
  /-- R169: Stores one run of elements through a view. -/
  | vwSt (vd : BitVec 5) (q : BitVec 4) (sb : Src)
  /-- R168: Writes the intersection verdict of two views. -/
  | vwMeet (rd : BitVec 5) (qa : BitVec 4) (qb : BitVec 4)
  /-- R172: Retires a view with a release at its scope. -/
  | vwRet (q : BitVec 4)
  /-- R183: Writes a copy engine register. -/
  | cpw (ce : BitVec 5) (sa : Src)
  /-- R183: Reads a copy engine register. -/
  | cpr (rd : BitVec 5) (ce : BitVec 5)
  /-- R184: Launches a copy and returns its transfer id. -/
  | cpgo (rd : BitVec 5) (sa : Src) (sb : Src)
  /-- R193: Cancels the held copy with a given transfer id. -/
  | cpcancel (sa : Src)
  /-- R196: Returns a set tag of a mask, or marks xd empty until one sets. -/
  | tagWany (rd : BitVec 5) (sa : Src)
  /-- R196: Waits until no tag of a mask is busy. -/
  | tagWall (sa : Src)
  /-- R196: Returns the first set tag of a mask, or 64. -/
  | tagFfr (rd : BitVec 5) (sa : Src)
  /-- R196: Clears TAGS bits of non-busy tags of a mask. -/
  | tagClr (sa : Src)
  /-- R196: Returns the status word of one tag. -/
  | tagTest (rd : BitVec 5) (sa : Src)
  /-- R202: Sends a message from a send block to (class, key). -/
  | msgSend (flags : BitVec 3) (sa : Src) (sb : Src)
  /-- R208: Sends a message whose payload comes through a view. -/
  | msgSendv (flags : BitVec 3) (sa : Src) (q : BitVec 4)
  /-- R207: Sends one message to each key of a key list. -/
  | msgMcast (flags : BitVec 3) (sa : Src) (sb : Src)
  /-- R210: Sends a reply, exempt from quota and refusal. -/
  | msgReply (flags : BitVec 3) (sa : Src) (sb : Src)
  /-- R209: Sends a timed message with a delivery time. -/
  | msgAt (flags : BitVec 3) (sa : Src) (sb : Src)
  /-- R211: Forwards the starting message to another key of the class. -/
  | msgFwd (sa : Src)
  /-- R246: Asks the home to retire an actor. -/
  | actRetire (sa : Src) (sb : Src)
  /-- R246: Asks the home to pin an actor, activating it if needed. -/
  | actPin (sa : Src) (sb : Src)
  /-- R246: Asks the home to clear an actor's pin. -/
  | actUnpin (sa : Src) (sb : Src)
  /-- R246: Asks the home to move an actor to a destination core. -/
  | actMove (sa : Src) (sb : Src)
  /-- R246: Asks the home for an actor's state word. -/
  | actProbe (rd : BitVec 5) (sa : Src) (sb : Src)
  /-- R256: Pushes a task onto the core's deque with a device release. -/
  | fork (sa : Src) (sb : Src)
  /-- R259: Initialises a join counter record. -/
  | jcInit (sa : Src) (sb : Src)
  /-- R260: Decrements a join counter. -/
  | jcArrive (sa : Src)
  /-- R259: Initialises a dependency counter record. -/
  | depInit (sa : Src) (sb : Src)
  /-- R260: Decrements a dependency counter. -/
  | depDec (sa : Src)
  /-- R260: Reads DW0 of a counter record into xd. -/
  | depRead (rd : BitVec 5) (sa : Src)
  /-- R264: Arrives at a cluster barrier with a cluster release. -/
  | barArrive (rd : BitVec 5) (n : BitVec 4)
  /-- R264: Waits until the barrier phase differs from the given bit. -/
  | barWait (sa : Src) (n : BitVec 4)
  /-- R271: Waits until the job floor passes a stamp, then acquires. -/
  | floorWait (sa : Src)
  /-- R268: Raises the STAMP CSR. -/
  | stampSet (sa : Src)
  /-- R357: Raises the trap cause with TVAL from xa. -/
  | trap (sa : Src)
  /-- R122: Invalidates TLB entries device-wide and waits for all acknowledgements. -/
  | tlbi (sa : Src) (sb : Src)
  /-- R104: Records a pending carve-out for the cluster tied to a barrier. -/
  | allotSet (sa : Src) (n : BitVec 4)
  /-- R111: Grows the vector allotment by n registers. -/
  | allotGrow (n : BitVec 3)
  /-- R111: Shrinks the vector allotment by n registers. -/
  | allotShrink (n : BitVec 3)
  /-- R112: Mirrors a vector register in a second bank. -/
  | allotMirror (vb : BitVec 5)
  /-- R106: Returns the pending or current carve-out word. -/
  | allotQuery (rd : BitVec 5)
  /-- R304: Element-wise vector add. -/
  | vadd (t : VType) (vd : BitVec 5) (va : BitVec 5) (vb : BitVec 5) (m : BitVec 3)
  /-- R304: Element-wise vector subtract. -/
  | vsub (t : VType) (vd : BitVec 5) (va : BitVec 5) (vb : BitVec 5) (m : BitVec 3)
  /-- R304: Element-wise vector multiply. -/
  | vmul (t : VType) (vd : BitVec 5) (va : BitVec 5) (vb : BitVec 5) (m : BitVec 3)
  /-- R304: Element-wise fused multiply-add into vd. -/
  | vfma (t : VType) (vd : BitVec 5) (va : BitVec 5) (vb : BitVec 5) (m : BitVec 3)
  /-- R304: Element-wise minimum. -/
  | vmin (t : VType) (vd : BitVec 5) (va : BitVec 5) (vb : BitVec 5) (m : BitVec 3)
  /-- R304: Element-wise maximum. -/
  | vmax (t : VType) (vd : BitVec 5) (va : BitVec 5) (vb : BitVec 5) (m : BitVec 3)
  /-- R304: Element-wise absolute value. -/
  | vabs (t : VType) (vd : BitVec 5) (va : BitVec 5) (m : BitVec 3)
  /-- R304: Element-wise negation. -/
  | vneg (t : VType) (vd : BitVec 5) (va : BitVec 5) (m : BitVec 3)
  /-- R304: Element-wise bitwise and. -/
  | vand (t : VType) (vd : BitVec 5) (va : BitVec 5) (vb : BitVec 5) (m : BitVec 3)
  /-- R304: Element-wise bitwise or. -/
  | vor (t : VType) (vd : BitVec 5) (va : BitVec 5) (vb : BitVec 5) (m : BitVec 3)
  /-- R304: Element-wise bitwise xor. -/
  | vxor (t : VType) (vd : BitVec 5) (va : BitVec 5) (vb : BitVec 5) (m : BitVec 3)
  /-- R304: Element-wise shift left. -/
  | vsll (t : VType) (vd : BitVec 5) (va : BitVec 5) (vb : BitVec 5) (m : BitVec 3)
  /-- R304: Element-wise logical shift right. -/
  | vsrl (t : VType) (vd : BitVec 5) (va : BitVec 5) (vb : BitVec 5) (m : BitVec 3)
  /-- R304: Element-wise arithmetic shift right. -/
  | vsra (t : VType) (vd : BitVec 5) (va : BitVec 5) (vb : BitVec 5) (m : BitVec 3)
  /-- R307: Element-wise compare writing a mask. -/
  | vcmp (cond : VCond) (t : VType) (md : BitVec 3) (va : BitVec 5) (vb : BitVec 5) (m : BitVec 3)
  /-- R307: Selects lanes of va or vb by a mask. -/
  | vsel (t : VType) (vd : BitVec 5) (va : BitVec 5) (vb : BitVec 5) (m : BitVec 3)
  /-- R308: Sum reduction of active lanes into lane 0. -/
  | vredsum (t : VType) (vd : BitVec 5) (va : BitVec 5) (m : BitVec 3)
  /-- R308: Maximum reduction of active lanes. -/
  | vredmax (t : VType) (vd : BitVec 5) (va : BitVec 5) (m : BitVec 3)
  /-- R308: Minimum reduction of active lanes. -/
  | vredmin (t : VType) (vd : BitVec 5) (va : BitVec 5) (m : BitVec 3)
  /-- R308: Maximum and its lowest lane index. -/
  | vmaxidx (t : VType) (vd : BitVec 5) (va : BitVec 5) (m : BitVec 3)
  /-- R309: Permutes lanes of va by indices in vb. -/
  | vperm (t : VType) (vd : BitVec 5) (va : BitVec 5) (vb : BitVec 5) (m : BitVec 3)
  /-- R309: Broadcasts a scalar to active lanes. -/
  | vbcast (t : VType) (vd : BitVec 5) (xa : BitVec 5) (m : BitVec 3)
  /-- R309: Inserts a scalar into one lane. -/
  | vins (t : VType) (vd : BitVec 5) (xa : BitVec 5) (xb : BitVec 5) (m : BitVec 3)
  /-- R309: Extracts one lane to a scalar register. -/
  | vext (t : VType) (xd : BitVec 5) (va : BitVec 5) (xb : BitVec 5)
  /-- R310: Loads active lanes from 128 bytes at an address. -/
  | vld (t : VType) (vd : BitVec 5) (xa : BitVec 5) (m : BitVec 3)
  /-- R310: Stores active lanes to 128 bytes at an address. -/
  | vst (t : VType) (vd : BitVec 5) (xa : BitVec 5) (m : BitVec 3)
  /-- R312: Evaluates a piecewise-linear table from parameter window 1. -/
  | vlut (t : VType) (vd : BitVec 5) (va : BitVec 5) (xb : BitVec 5) (m : BitVec 3)
  /-- R313: Computes 2 to the power of each lane. -/
  | vexp2 (t : VType) (vd : BitVec 5) (va : BitVec 5) (m : BitVec 3)
  /-- R313: Computes the reciprocal of each lane. -/
  | vrcp (t : VType) (vd : BitVec 5) (va : BitVec 5) (m : BitVec 3)
  /-- R313: Computes the reciprocal square root of each lane. -/
  | vrsqrt (t : VType) (vd : BitVec 5) (va : BitVec 5) (m : BitVec 3)
  /-- R306: Dot products of narrow lane pairs or quads into wide lanes. -/
  | vdot (t : VType) (vd : BitVec 5) (va : BitVec 5) (vb : BitVec 5) (m : BitVec 3)
  /-- R314: Bitwise and of two masks. -/
  | mand (md : BitVec 3) (ma : BitVec 3) (mb : BitVec 3)
  /-- R314: Bitwise or of two masks. -/
  | mor (md : BitVec 3) (ma : BitVec 3) (mb : BitVec 3)
  /-- R314: Inverts a mask. -/
  | mnot (md : BitVec 3) (ma : BitVec 3)
  /-- R314: Counts the one bits of a mask into xd. -/
  | mpop (xd : BitVec 5) (ma : BitVec 3)
  /-- R315: Converts vector lanes between number formats. -/
  | cvt (dst : NumType) (src : NumType) (rm : RMode) (inf : Bool) (vd : BitVec 5) (va : BitVec 5) (m : BitVec 3)
  /-- R316: Packs wide lanes into MX blocks and scales. -/
  | mxPack (e : MxElem) (w : MxWide) (rm : RMode) (vd : BitVec 5) (va : BitVec 5) (vb : BitVec 5) (m : BitVec 3)
  /-- R316: Unpacks MX elements and scales into wide lanes. -/
  | mxUnpack (w : MxWide) (e : MxElem) (rm : RMode) (vd : BitVec 5) (va : BitVec 5) (vb : BitVec 5) (m : BitVec 3)
  /-- R316: Multiplies wide lanes by block scales. -/
  | mxScale (w : MxWide) (vd : BitVec 5) (va : BitVec 5) (vb : BitVec 5) (m : BitVec 3)
  /-- R331: Command zeroing an accumulator and its OVF. -/
  | matZero (acc : BitVec 2)
  /-- R332: Command writing an accumulator through a view with conversion. -/
  | matRd (q : BitVec 4) (acc : BitVec 2)
  /-- R339: Writes the pending slot table or arms a switch. -/
  | matSlot (sa : Src) (sb : Src)
  /-- R333: Command filling the core's B latch through a view. -/
  | matLdb (q : BitVec 4)
  /-- R334: Command rotating the B latches of a ring group. -/
  | matRing (sa : Src)
  /-- R335: Waits for matrix commands naming an accumulator and reports their events. -/
  | matWait (acc : BitVec 2)
  /-- R336: Command reading an accumulator's overflow count into xd. -/
  | matSatc (rd : BitVec 5) (acc : BitVec 2)
  /-- R327: Matrix multiply-accumulate command over K blocks into an accumulator. -/
  | mma (pr : MmaPair) (tall : Bool) (ovr : Bool) (latch : Bool) (acc : BitVec 2) (qa : BitVec 4) (qb : BitVec 4) (sc : Src)
  /-- R61: An undefined word raises the illegal-instruction trap before reading operands. -/
  | illegalInstruction (w : Word)
  /-- R362: After the back-off a retried message or task becomes a candidate again. -/
  | retryRedelivery (id : Nat)
  /-- R97: Once frame O's registers are full, writes its image and frees the slot. -/
  | spill (k : Nat)
  /-- R97: Once earlier remote accesses are good, refills frame O-1 from its image. -/
  | fill (k : Nat)
  /-- R105: A core between activations applies an accepted carve-out. -/
  | carveOutApply (k : Nat)
  /-- R121: A TLB miss walk completes, filling the TLB or raising the page fault. -/
  | pageWalk (id : Nat)
  /-- R122: A cluster drops matching TLB entries and acknowledges. -/
  | tlbInvalidation (id : Nat) (g : Nat)
  /-- R136: Once older accesses are good, a failing reply rolls back the log and traps. -/
  | remoteLoadFailure (k : Nat)
  /-- R135: No reply within 1,000,000 ticks fails the access with cause 4. -/
  | replyTimeout (k : Nat) (id : Nat)
  /-- R353: A fetch miss posts a code-miss event to the front-end pool and holds the fetch. -/
  | codeMissEvent (k : Nat)
  /-- R353: Fleiz loads the block and the held fetch is made again. -/
  | codeBlockLoaded (k : Nat)
  /-- R353: Fleiz reports the code absent and the core raises the code-miss trap. -/
  | codeMissTrap (k : Nat)
  /-- R185: A queued copy starts, writing back source L1 bytes and marking lines. -/
  | copyStart (k : Nat)
  /-- R189: A copy completes: L1 invalidation, tag set and completion action. -/
  | copyComplete (k : Nat) (id : Nat)
  /-- R191: A faulting copy stops, fills its lines, records an error and sets FAIL. -/
  | copyFail (k : Nat) (id : Nat)
  /-- R221: After the back-off the sender's interface resends a refused or returned message. -/
  | hardwareResend (ep : Nat) (id : Nat)
  /-- R209: A timed message falls due when DTIME reaches its delivery time. -/
  | timedMessageDue (k : Nat) (id : Nat)
  /-- R216: A core between activations starts the best candidate with its entry state. -/
  | activationStart (k : Nat)
  /-- R232: Curd in place and init done: the entry goes LIVE and waiting messages are released. -/
  | activationGoLive (g : Nat) (id : Nat)
  /-- R236: An idle actor's IDLE timer reaches the class threshold and retirement starts. -/
  | idleTimerExpiry (g : Nat) (id : Nat)
  /-- R232: The cave write's META is acknowledged; lines freed, entry to HINT or ACTIVATING. -/
  | caveWriteAck (g : Nat) (id : Nat)
  /-- R239: Fleiz allocates a bucket for a full chain or marks the class cave-exhausted. -/
  | caveFullEvent (id : Nat)
  /-- R240: A source core chooses idle actors and sends move requests to their homes. -/
  | migrationCommand (src : Nat) (dst : Nat) (n : Nat)
  /-- R241: The source core reports its messages settled and the curd is copied. -/
  | moveSourceReport (id : Nat)
  /-- R241: The curd copy ends; HOST and INCARN change and messages are released. -/
  | moveComplete (g : Nat) (id : Nat)
  /-- R253: An idle core with no candidate searches cluster, die and device for a task. -/
  | steal (k : Nat)
  /-- R265: ARRIVED equals PARTIES: the phase flips and PENDING moves to ARRIVED. -/
  | barrierPhaseComplete (g : Nat) (n : Nat)
  /-- R292: Forwarded flags or clears reach the group home. -/
  | groupFlagForward (id : Nat)
  /-- R296: The group home grants the first report while armed and refuses others. -/
  | firstNanReport (id : Nat)
  /-- R302: A queued vector instruction completes and its flags and counts join. -/
  | vectorCommandComplete (k : Nat)
  /-- R321: A queued matrix command begins once earlier commands allow. -/
  | matrixCommandBegin (k : Nat)
  /-- R322: The fetch of one block's operands through the port completes. -/
  | operandFetch (k : Nat)
  /-- R340: At a decision point the engine grants a block step, holds, or runs a filler. -/
  | blockStepDecision (g : Nat)
  /-- R327: A matrix command completes; flags join, reports sent, reason-7 failure recorded. -/
  | matrixCommandComplete (k : Nat)
  /-- R334: Once every group member has begun, the latches rotate in one event. -/
  | matRingRotation (g : Nat)
  /-- R339: At a step boundary with DTIME past the armed time, the pending table becomes current. -/
  | slotTableSwitch (g : Nat)
  /-- R365: Fleiz requests pre-emption of a core for a better-priority job. -/
  | preemptionRequest (k : Nat) (job : Nat)
  /-- R368: At a pre-emption point with queues drained, the context save starts. -/
  | preemption (k : Nat)
  /-- R367: DIST exceeds GAP + 2,048 under a request; pre-emption is forced with a KIND 9 record. -/
  | forcedPreemption (k : Nat)
  /-- R370: The last record line is acknowledged and the core runs better-priority work. -/
  | contextSaveComplete (k : Nat)
  /-- R370: The core restores the most recently pre-empted activation and sets RESUMED. -/
  | resumption (k : Nat)
  /-- R399: A router switches a head flit toward an output and judges trimming. -/
  | packetHeadSwitch (pid : Nat)
  /-- R406: A hole's timer expires and a pull is sent. -/
  | pull (ep : Nat) (id : Nat)
  /-- R408: After 1,000,000 ticks the hole is abandoned. -/
  | holeTimeout (ep : Nat) (id : Nat)
  /-- R408: The holder drops an unacknowledged entry after 1,000,000 ticks and reports the failure. -/
  | retainTimeout (ep : Nat) (id : Nat)
  /-- R420: A PCIe CAS on CLAIM claims ownership or accepts an offer. -/
  | claimCas (f : Nat) (old : XWord) (new : XWord)
  /-- R430: A doorbell write is accepted, moving TAIL, or discarded. -/
  | doorbell (f : Nat) (v : XWord)
  /-- R426: A write of STATE 1 activates a queue or sets it to error. -/
  | queueActivate (f : Nat) (q : Nat) (v : XWord)
  /-- R436: A write of STATE 2 drains an active queue. -/
  | queueDrain (f : Nat) (q : Nat) (v : XWord)
  /-- R418: A write to a BAR0 register with no row of its own. -/
  | registerWrite (f : Nat) (off : Nat) (v : XWord)
  /-- R434: A front-end core takes a tail event and dispatches packets. -/
  | tailEvent (q : Nat)
  /-- R428: A TYPE 0 packet is injected as one message per key. -/
  | actorMessage (q : Nat)
  /-- R428: A TYPE 1 packet is injected as a class 0 message. -/
  | addressOwnedActiveMessage (q : Nat)
  /-- R428: Job control completing once the job's floor passes the stamp. -/
  | jobControlFence (q : Nat)
  /-- R428: Job control writing 16 barrier words of one cluster. -/
  | barrierLoad (q : Nat)
  /-- R428: Job control killing the job. -/
  | killJob (q : Nat)
  /-- R452: Fleiz sets the job's HOLD bit when Nernath attaches. -/
  | nernathAttach (job : Nat)
  /-- R452: Every core of the job comes to a between-activations stop. -/
  | jobStop (job : Nat)
  /-- R452: Resumes every stopped core of the job. -/
  | go (job : Nat)
  /-- R452: Executes one instruction of a held activation and stops again. -/
  | step (k : Nat)
  /-- R451: Fleiz patches or restores a code word in every instruction store holding it. -/
  | softwareBreakpointPatch (job : Nat) (addr : BitVec 32) (on : Bool)
  /-- R95: Discards the current frame and returns through x15. -/
  | ret
  /-- R141: Waits until every posted operation is acknowledged. -/
  | rstSync
  /-- R213: Ends the activation after its waits and retires its views. -/
  | msgDone
  /-- R356: Returns from a trap handler or passes a declined fault to containment. -/
  | eret
  /-- R354: Raises the breakpoint trap, or stops the core under a debugger. -/
  | ebreak
  /-- R366: Pre-emption point; resets PPTGAP.DIST. -/
  | ppt
  /-- R59: A hint-region word executes as a no-operation. -/
  | nop
  /-- R374: A read request is served at its place and a reply returned. -/
  | readRequest (pid : Nat)
  /-- R133: A load reply fills its destination and frees undo-log entries. -/
  | loadReply (pid : Nat)
  /-- R139: A posted store, mark or write-back is performed at its target and acknowledged. -/
  | postedOperation (pid : Nat)
  /-- R402: An acknowledgement frees the holder's retain entries and buffer entries. -/
  | acknowledgement (pid : Nat)
  /-- R142: An atomic reads and writes its place as one event and replies. -/
  | atomicRequest (pid : Nat)
  /-- R143: An atomic reply fills xd and joins its flags. -/
  | atomicReply (pid : Nat)
  /-- R185: A copy line read returns and its data is written toward the destination. -/
  | copyReadReply (pid : Nat)
  /-- R232: The home slice decides an arriving message: place, wait, activate or refuse. -/
  | homeMessageArrival (pid : Nat)
  /-- R220: A refusal reaches a task or copy sender core, which keeps the message for resend. -/
  | refusalArrival (pid : Nat)
  /-- R232: An activation's completion decrements PEND and releases waiting messages. -/
  | activationDoneAtHome (pid : Nat)
  /-- R240: Every 2 µs the balancer reads occupancy vectors and issues migration commands. -/
  | balancerPeriod
  /-- R241: The home sets an actor MOVING and stops placing its messages. -/
  | moveRequest (pid : Nat)
  /-- R246: An actor request is applied at the home in stream order. -/
  | actorRequest (pid : Nat)
  /-- R246: The state word fills the act.probe destination. -/
  | probeReply (pid : Nat)
  /-- R258: A counter operation is performed at its record's place. -/
  | counterOperation (pid : Nat)
  /-- R261: A counter reply; at zero it sends the continuation or pushes the task. -/
  | counterReply (pid : Nat)
  /-- R270: At each 64-tick multiple the floor tree publishes every job's floor. -/
  | floorPublish
  /-- R292: At each 64-tick multiple the home broadcasts group FLAGS. -/
  | groupFlagBroadcast
  /-- R344: At each 128-engine-cycle window end the level rises, falls or stays. -/
  | rampWindowEnd
  /-- R405: A whey reaches its destination and a hole is recorded. -/
  | wheyArrival (pid : Nat)
  /-- R406: The holder retransmits, answers GONE, or the place re-reads. -/
  | pullReceived (pid : Nat)
  /-- R403: A retransmission fills a matching hole or is discarded as a duplicate. -/
  | retransmissionArrival (pid : Nat)
  /-- R408: A GONE report abandons the hole. -/
  | goneReport (pid : Nat)
  /-- R414: An UNREACH report fails the read, atomic or posted operation. -/
  | unreachReport (pid : Nat)
  /-- R416: A flit whose GCM tag fails is discarded and replayed; eight mark the link failed. -/
  | flitTagFailure (port : Nat) (rx : Bool)
  /-- R416: Management cores install the next link key in the shadow slot. -/
  | keyInstall (port : Nat) (rx : Bool) (key : BitVec 256) (salt : BitVec 48)
  /-- R417: The flit counter reaches 2^48 - 1 with no next key; the link idles. -/
  | keyExhaustion (port : Nat)
  /-- R420: The owner offers or releases ownership by a plain write. -/
  | claimWrite (f : Nat) (v : XWord)
  /-- R420: An FLR of the owner sets CLAIM to 0. -/
  | functionLevelReset (f : Nat)
  /-- R422: Mailbox command creating a job from its descriptor. -/
  | createJob
  /-- R422: Mailbox command killing and freeing a job. -/
  | destroyJob
  /-- R422: Mailbox command building a class descriptor from its image. -/
  | defineClass
  /-- R422: Mailbox command writing a homing mask and core mask. -/
  | writePlacementDomain
  /-- R422: Mailbox command copying bytes between host and device memory. -/
  | copy
  /-- R422: Mailbox command binding a numerics group to a job. -/
  | assignNumericsGroup
  /-- R422: Mailbox command opening a system class to a job. -/
  | openSystemClass
  /-- R422: A command block with an unknown OP completes with result 4. -/
  | unknownOp
  /-- R444: A write to ATTREQ makes Fleiz fill and sign an attestation buffer. -/
  | attestationRequest (f : Nat) (v : XWord)
  /-- R441: A write to NOTIFY sets the ring and zeroes both indices. -/
  | notify (f : Nat) (v : XWord)
  /-- R441: The owner moves the consumer index, unless past the tail. -/
  | notifyhead (f : Nat) (v : XWord)
  /-- R445: The owner sets the lowest-numbered power state allowed. -/
  | pwrcap (f : Nat) (v : XWord)
  /-- R431: Every 10,000 ticks the front end reads each queue's tail shadow. -/
  | shadowReconcile
  /-- R433: The front end handles a refused host part and stops the queue behind it. -/
  | hostPartRefusal (pid : Nat)
  /-- R437: An ECC error fences a front-end core and returns its event. -/
  | frontEndCoreFence (n : Nat)
  /-- R438: An error in a queue descriptor sets STATE 3 and stops dispatch. -/
  | queueDescriptorError (q : Nat)
  /-- R442: At power-on the secure ROM verifies and starts a Fleiz image. -/
  | secureBoot
  /-- R446: At 100 °C junction Fleiz moves to a lower-power state. -/
  | thermalThrottle
  /-- R446: Below 95 °C Fleiz moves back toward CAP one state per ms. -/
  | thermalRecovery
  /-- R446: At 110 °C Fleiz kills every job and gates the clocks. -/
  | thermalTrip
  /-- R447: Every 1,000 ticks LEVELSUM samples the sum of ramp levels. -/
  | levelsumSample
  /-- R452: A breakpoint match or ebreak under HOLD stops the core and requests a job stop. -/
  | breakpointStop (k : Nat)
  /-- R455: Fleiz replays an actor from a checkpoint to a given instruction count. -/
  | reverseStep (job : Nat) (id : Nat) (k : Nat) (n : Nat)
  /-- R123: The device writes back dirty L1 bytes at a moment of its own choosing. -/
  | l1ExtraWriteBack (k : Nat) (line : Nat)
  /-- R210: A reply that the home could not hold is returned to its sender core, which keeps it for a later resend. -/
  | returnedReply (pid : Nat)
  /-- R452: Through Fleiz, Nernath writes a held activation's register, CSR or scratchpad, waiting for any outstanding fill. -/
  | inspectionWrite (k : Nat) (what : Inspect) (v : XWord)
  /-- R353: An uncorrectable error in storage that no instruction reads is reported to Fleiz without a trap. -/
  | unreadEccError (what : Nat)
  deriving DecidableEq, Repr

end Sys2Proof
end

