-- ==== Sys2Proof/Machine/Types.lean ====
section
/-! DEFINITION. The records the state is made of: registers and views, messages and tasks, accesses and posted
operations, copies and matrix commands, flow-table entries and packets, jobs, classes and queues. Plain data only. -/

namespace Sys2Proof.Machine

/-! Registers of an activation. -/

/-- A carve-out (spec/05_windows.md R103). -/
structure Carve where
  rb : Nat := 2
  lb : Nat := 4
  sk : Nat := 16
  deriving DecidableEq, Repr, Inhabited

/-- A scalar register: value and full/empty bit (spec/04_scalar.md R66). -/
structure Reg where
  val : XWord := 0
  full : Bool := true
  deriving DecidableEq, Repr, Inhabited

/-- A vector register: value and full/empty bit. -/
structure VReg where
  val : VWord := 0
  full : Bool := true
  deriving DecidableEq, Repr, Inhabited

/-- A dimension word of a view (spec/07_views.md R153). -/
structure Dim where
  stride : BitVec 32 := 0
  origin : BitVec 16 := 0
  extent : BitVec 16 := 0
  deriving DecidableEq, Repr, Inhabited

/-- A view register (spec/07_views.md R150, R151). -/
structure View where
  live : Bool := false
  base : XWord := 0
  scope : BitVec 3 := 0
  kdim : BitVec 2 := 0
  sce : Bool := false
  scv : BitVec 4 := 0
  rankm1 : BitVec 2 := 0
  perm : BitVec 2 := 0
  ty : BitVec 5 := 0
  d0 : Dim := {}
  d1 : Dim := {}
  d2 : Dim := {}
  d3 : Dim := {}
  deriving DecidableEq, Repr, Inhabited

/-- STATUS, without PREQ, which the request of the core gives (spec/15_system.md R348). -/
structure Status where
  tdepth : BitVec 16 := 0
  resumed : Bool := false
  retry : BitVec 2 := 0
  jprio : BitVec 2 := 0
  wrange : Bool := false
  init : Bool := false
  task : Bool := false
  decline : Bool := false
  intrap : Bool := false
  deriving DecidableEq, Repr, Inhabited

/-- A pending `tag.wany` destination: its register key and its mask (spec/08_copy.md R196). -/
structure Wany where
  key : Nat
  mask : XWord
  deriving DecidableEq, Repr, Inhabited

/-- What an activation holds beside its numbered registers and its memory: every field an instruction changes here is
restored by a rollback (spec/06_memory.md R134, R136). -/
structure Ctx where
  status : Status := {}
  cause : BitVec 8 := 0
  epc : BitVec 32 := 0
  tval : XWord := 0
  tvecEn : Bool := false
  tvecAddr : BitVec 30 := 0
  stamp : BitVec 32 := 0
  entryStamp : BitVec 32 := 0
  flags : BitVec 5 := 0
  satcnt : XWord := 0
  gen : BitVec 32 := 1
  instret : XWord := 0
  depth : Nat := 0
  spilled : Nat := 0
  spillBase : BitVec 12 := 0xA00
  spillLim : BitVec 12 := 0xA80
  spillTop : BitVec 12 := 0xA80
  allotV : Nat := 0
  mirror : BitVec 32 := 0
  views : Map View := []
  ce : Map XWord := []
  tags : XWord := 0
  rot : BitVec 6 := 0
  wany : List Wany := []
  /-- What is not yet forwarded to the group's home, oldest first: flags set and flags cleared (spec/12_numbers.md R291, R292). -/
  fevs : List (BitVec 5 × BitVec 5) := []
  /-- The core cycle from which PPTGAP.DIST counts (spec/15_system.md R367). -/
  distBase : Nat := 0
  deriving DecidableEq, Repr, Inhabited

/-- A pending carve-out before and after `allot.set` (spec/05_windows.md R104): the carve-out and the core that asked. -/
structure CarveUndo where
  before : Option (Carve × Nat)
  after : Option (Carve × Nat)
  deriving DecidableEq, Repr, Inhabited

/-- A `mat.slot` write (spec/14_matrix.md R339): its identity, its index, and the pending codes, weights, armed time and its arrival before. -/
structure SlotUndo where
  id : Nat
  idx : Nat
  pend : Map Nat
  pendW : Map Nat
  armed : Option XWord
  armedAt : Nat
  deriving DecidableEq, Repr, Inhabited

/-- What an instruction changes of its cluster outside memory: the pending carve-out of `allot.set` (spec/05_windows.md R104) and the valid bits
that `iinv` clears (spec/06_memory.md R148), the write of `mat.slot` (spec/14_matrix.md R339), the group record that `csrs` of NGROUP arms
(spec/12_numbers.md R294). -/
structure Shared where
  carve : Option CarveUndo := none
  /-- Block tags whose V was cleared, as they were. -/
  tags : List (Nat × Nat) := []
  slot : Option SlotUndo := none
  /-- The group whose FNARM was set. -/
  arm : Option Nat := none
  deriving DecidableEq, Repr, Inhabited

/-- One undo-log entry: the old values of what one instruction changed (spec/06_memory.md R134). Log: DEDUCED, notes/assumptions/53.md. -/
structure UndoEntry where
  xs : List (Nat × Reg)
  vs : List (Nat × VReg)
  ms : List (Nat × MWord)
  lat : List (Nat × BitVec 64)
  ctx : Ctx
  /-- Lines of the own scratchpad whose full/empty bit changed, and whether each was empty. -/
  lines : List (Nat × Bool) := []
  /-- What it changed of the cluster, as it was. -/
  shared : Option Shared := none
  /-- How many accesses had been issued when it was made. -/
  issued : Nat
  deriving DecidableEq, Repr, Inhabited

/-! Messages, tasks and activations. -/

/-- The forwarder word (spec/09_messages.md R211). -/
structure Fwd where
  cls : BitVec 12
  key : XWord
  core : Nat
  deriving DecidableEq, Repr, Inhabited

/-- A message: the header fields of spec/09_messages.md R197, the delivery time, the forwarder word, the physical
address of an address-owned key (spec/10_actors.md R227), the redelivery count (spec/15_system.md R362), the payload. -/
structure Msg where
  key : XWord := 0
  stamp : BitVec 32 := 0
  len : Nat := 0
  reply : Bool := false
  timed : Bool := false
  refusal : Bool := false
  flags : BitVec 3 := 0
  sel : BitVec 6 := 0
  cls : BitVec 12 := 0
  skey : XWord := 0
  job : Nat := 0
  seq : Nat := 0
  score : Nat := 0
  kind : Nat := 0
  scls : BitVec 12 := 0
  time : XWord := 0
  fwd : Option Fwd := none
  pa : Option Nat := none
  retry : Nat := 0
  payload : List Byte := []
  deriving DecidableEq, Repr, Inhabited

/-- A task: a deque entry (spec/11_tasks.md R250, R251), with its parent's class for containment (spec/15_system.md R359), its redelivery
count and the tick before which it is passed over (R362). -/
structure Task where
  word : XWord := 0
  arg : XWord := 0
  stamp : BitVec 32 := 0
  pusher : Nat := 0
  tid : XWord := 0
  parent : XWord := 0
  parentCls : BitVec 12 := 0
  job : Nat := 0
  retry : Nat := 0
  readyAt : Nat := 0
  deriving DecidableEq, Repr, Inhabited

/-- A class descriptor (spec/10_actors.md R224), with the cave-exhausted mark of R239. Log: that of class 0 DESIGN CHOICE, notes/assumptions/18.md. -/
structure ClassDesc where
  valid : Bool := false
  job : Nat := 0
  hbase : BitVec 48 := 0
  init : BitVec 32 := 0
  trapv : BitVec 32 := 0
  caveb : BitVec 48 := 0
  constlen : BitVec 16 := 0
  nbkt : BitVec 32 := 0
  constb : BitVec 48 := 0
  allot : BitVec 3 := 0
  stream : Bool := false
  wrt : Bool := false
  explicit : Bool := false
  quota : BitVec 5 := 0
  prio : BitVec 2 := 0
  pol : BitVec 2 := 0
  ngrp : BitVec 8 := 0
  domain : BitVec 6 := 0
  curdl : BitVec 8 := 0
  mirror : BitVec 32 := 0
  idle : BitVec 32 := 0
  exhausted : Bool := false
  deriving DecidableEq, Repr, Inhabited

/-- What started an activation. -/
inductive ActKind where
  | actor | init | task
  deriving DecidableEq, Repr, Inhabited

/-- The running activation of a core (spec/09_messages.md R198, spec/11_tasks.md R254). -/
structure Act where
  kind : ActKind := .actor
  job : Nat := 0
  cls : BitVec 12 := 0
  key : XWord := 0
  msg : Msg := {}
  task : Task := {}
  incarn : BitVec 16 := 0
  curd : Nat := 0
  home : Nat := 0
  entry : BitVec 32 := 0
  desc : ClassDesc := {}
  forwarded : Bool := false
  retry : Nat := 0
  uid : Nat := 0
  /-- The flow-table entry it was placed for. -/
  eid : Nat := 0
  /-- Where in the replay region its replay begins, counted in lines written: the actor's last checkpoint before it, or a task's own entry
  (spec/19_debug.md R455). -/
  ck : Option Nat := none
  /-- The inbox slot of its message, by acceptance order. -/
  slot : Nat := 0
  deriving DecidableEq, Repr, Inhabited

/-- A message in an inbox: its acceptance order, the core cycle its waiting counts from, whether its delivery time
has been reached (spec/09_messages.md R216, R217), the redelivery tick, and whether its activation runs. -/
structure InMsg where
  msg : Msg
  order : Nat
  since : Nat
  due : Bool
  running : Bool := false
  readyAt : Nat := 0
  deriving DecidableEq, Repr, Inhabited

/-! Accesses. -/

/-- Where a reply goes: nowhere, a scalar register key with its width in bits and extension, or a vector register
with the bits it keeps. -/
inductive Dest where
  | none
  | x (key : Nat) (bits : Nat) (sext : Bool)
  | v (n : Nat) (keep : BitVec 1024)
  deriving DecidableEq, Repr, Inhabited

/-- Bits of one line reply that go to one place of the destination. -/
structure Piece where
  part : Nat
  src : Nat
  width : Nat
  dst : Nat
  deriving DecidableEq, Repr, Inhabited

/-- One line an access needs: the place address of the line (or of the scratchpad line), and what has come back. -/
structure Part where
  line : Nat
  ep : Nat := 0
  own : Bool := false
  got : Option (BitVec 1024) := Option.none
  deriving DecidableEq, Repr, Inhabited

/-- The counter operations (spec/11_tasks.md R260). -/
inductive CtrKind where
  | arrive | dec | read
  deriving DecidableEq, Repr, Inhabited

/-- The state of an outstanding access; `answered` is a counter operation on a record of the own scratchpad whose answer is on its
way (spec/11_tasks.md R260), `acting` a decrement that reached zero and whose send or push waits for room (R251, R261). Log: DEDUCED,
notes/assumptions/71.md. -/
inductive AccState where
  | pending
  | good
  | failed (cause : Nat)
  | underflow (reason : Nat)
  | answered (kind : CtrKind) (under : Nat) (val : XWord) (zero : Bool) (dw1 dw2 dw3 : XWord)
  | acting (kind : CtrKind) (dw1 dw2 dw3 : XWord)
  deriving DecidableEq, Repr, Inhabited

/-- An outstanding `rld`, remote `ld`, vector load, atomic, counter operation or probe (spec/06_memory.md R133,
R134): the parts it waits for, its destination with the recorded old value, its hull for meeting tests, its own
instruction address, the tick of issue and the state of its reply. -/
structure Access where
  id : Nat
  dest : Dest := .none
  parts : List Part := []
  pieces : List Piece := []
  oldX : Reg := {}
  oldV : VReg := {}
  va : XWord := 0
  lo : Int := 0
  hi : Int := 0
  view : Option View := Option.none
  vq : Nat := 16
  writes : Bool := false
  pc : BitVec 32 := 0
  issued : Nat := 0
  st : AccState := .pending
  acq : Bool := false
  /-- INSTRET before the access. -/
  instret : XWord := 0
  flags : BitVec 5 := 0
  act : Nat := 0
  /-- The line it brings may not be kept: the L1 was invalidated after its issue (spec/16_model.md R374). -/
  stale : Bool := false
  /-- The read of a state word by `act.probe`, which never fails (spec/10_actors.md R246). -/
  probe : Bool := false
  /-- An atomic or counter operation on the own scratchpad through the core's own aperture (spec/16_model.md R373). -/
  here : Bool := false
  /-- The line that an atomic or counter operation acts on at its place. -/
  line : Option Nat := Option.none
  /-- The last moment at which another read of one of its lines took its value: what comes from an earlier moment is not kept (spec/16_model.md R376). -/
  after : Nat := 0
  deriving DecidableEq, Repr, Inhabited

/-- An instruction in the vector command queue (spec/13_vector.md R300, R302): the registers it names, its flags and saturations, and INSTRET
before it. -/
structure VecCmd where
  /-- The vector registers it names. -/
  regs : List (BitVec 5) := []
  flags : BitVec 5 := 0
  sat : Nat := 0
  instret : XWord := 0
  deriving DecidableEq, Repr, Inhabited

/-- A store whose bytes lie dirty in an L1 line or in a write-back: its hull, its view, its activation (spec/07_views.md R166, spec/16_model.md R376). -/
structure Stored where
  lo : Int
  hi : Int
  view : Option View := Option.none
  act : Nat := 0
  deriving DecidableEq, Repr, Inhabited

/-- A posted operation not yet acknowledged (spec/06_memory.md R139, R140). KIND is 0 store, 1 and 2 marks, 3 an L1 write-back;
copy writes carry KIND 5 and their copy. -/
structure Posted where
  id : Nat := 0
  kind : Nat := 0
  va : XWord := 0
  line : Nat := 0
  mask : BitVec 128 := 0
  data : BitVec 1024 := 0
  lo : Int := 0
  hi : Int := 0
  view : Option View := Option.none
  vq : Nat := 16
  core : Nat := 0
  job : Nat := 0
  cls : BitVec 12 := 0
  incarn : BitVec 16 := 0
  stamp : BitVec 32 := 0
  act : Nat := 0
  copy : Option Nat := Option.none
  last : Bool := false
  ep : Nat := 0
  /-- The stores that a write-back carries. -/
  stores : List Stored := []
  deriving DecidableEq, Repr, Inhabited

/-- The operations of an atomic (spec/06_memory.md R142). -/
inductive AmoOp where
  | add | and | or | xor | min | max | swap | fadd | cas
  deriving DecidableEq, Repr, Inhabited

/-- A line of an L1 (spec/06_memory.md R123): `moment` tells its fill from later reads of the line at its place (spec/16_model.md R374, R376). -/
structure L1Line where
  line : Nat
  ep : Nat := 0
  data : BitVec 1024
  moment : Nat := 0
  dirty : BitVec 128 := 0
  /-- The stores whose bytes are dirty there. -/
  stores : List Stored := []
  stamp : BitVec 32 := 0
  job : Nat := 0
  cls : BitVec 12 := 0
  incarn : BitVec 16 := 0
  act : Nat := 0
  deriving DecidableEq, Repr, Inhabited

/-! Copies and tags. -/

/-- The stages of a copy (spec/08_copy.md R183, R185, R191, R193): one that fails keeps the cause, the address, whether a write failed and the bytes
concerned; one that is `acting` has ended but for its completion action, which waits (R189 step 3). -/
inductive CopyState where
  | queued | running | failing (cause : Nat) (va : XWord) (wr : Bool) (bytes : Nat) | cancelling | acting (status : BitVec 16)
  deriving DecidableEq, Repr, Inhabited

/-- A read of a copy that is not answered (spec/08_copy.md R185, spec/06_memory.md R135): its first access, how many accesses it is for, the tick at which it
was sent. -/
structure CopyRead where
  part : Nat
  n : Nat := 1
  sent : Nat := 0
  deriving DecidableEq, Repr, Inhabited

/-- One side of a copy: its base, the extent, stride in bytes and origin of four dimensions, and its view snapshot. -/
structure Side where
  base : XWord := 0
  ext : List Nat := []
  str : List Int := []
  org : List Nat := []
  view : Option View := Option.none
  vq : Nat := 16
  deriving DecidableEq, Repr, Inhabited

/-- A held copy (spec/08_copy.md R184 to R193). -/
structure Copy where
  id : XWord := 0
  tag : Nat := 0
  ctl : XWord := 0
  mesh : XWord := 0
  acls : XWord := 0
  akey : XWord := 0
  atask : XWord := 0
  aarg : XWord := 0
  src : Side := {}
  dst : Side := {}
  esize : Nat := 1
  count : Nat := 0
  st : CopyState := .queued
  /-- The accesses of a running copy not yet issued, by number. -/
  todo : List Nat := []
  asked : List CopyRead := []
  writes : Nat := 0
  marked : List Nat := []
  left : Map Nat := []
  detached : Bool := false
  job : Nat := 0
  cls : BitVec 12 := 0
  key : XWord := 0
  incarn : BitVec 16 := 0
  stamp : BitVec 32 := 0
  entryStamp : BitVec 32 := 0
  task : Bool := false
  tid : XWord := 0
  act : Nat := 0
  order : Nat := 0
  deriving DecidableEq, Repr, Inhabited

/-! The matrix engine. -/

/-- An accumulator: 1,024 FP32 elements, OVF and the shape tag (spec/14_matrix.md R318). -/
structure Acc where
  el : Map (BitVec 32) := []
  ovf : BitVec 32 := 0
  tall : Bool := false
  deriving DecidableEq, Repr, Inhabited

/-- A B latch that is not empty (spec/14_matrix.md R320): element patterns by position `k + 2048 * j`, scale codes by
`block + 64 * j`. -/
structure Latch where
  el : Map (BitVec 32) := []
  sc : Map (BitVec 8) := []
  ty : BitVec 5 := 0
  kl : Nat := 0
  nl : Nat := 0
  scl : Bool := false
  deriving DecidableEq, Repr, Inhabited

/-- The matrix commands (spec/14_matrix.md R321). -/
inductive MOp where
  | mma (pr : MmaPair) (tall ovr latch : Bool) (acc : BitVec 2)
  | zero (acc : BitVec 2)
  | rd (acc : BitVec 2)
  | ldb
  | ring (mask : BitVec 8)
  | satc (key : Nat) (acc : BitVec 2)
  deriving DecidableEq, Repr, Inhabited

/-- A first NaN: K block, row, column (spec/12_numbers.md R296). -/
structure NanMark where
  kb : Nat
  row : Nat
  col : Nat
  deriving DecidableEq, Repr, Inhabited

/-- The operands of one block step (spec/14_matrix.md R322): 32 element patterns for each row of A and each column of B, and the scale codes. -/
structure MBlock where
  a : List (List Nat) := []
  b : List (List Nat) := []
  sa : List Nat := []
  sb : List Nat := []
  deriving DecidableEq, Repr, Inhabited

/-- A queued matrix command with its snapshots and progress (spec/14_matrix.md R321 to R327). -/
structure MCmd where
  id : Nat := 0
  op : MOp := .ldb
  a : View := {}
  b : View := {}
  ac : View := {}
  bc : View := {}
  aq : Nat := 16
  bq : Nat := 16
  uniform : Bool := false
  scales : BitVec 16 := 0
  markable : Bool := false
  begun : Bool := false
  failed : Bool := false
  nk : Nat := 0
  staged : Nat := 0
  issued : Nat := 0
  ended : Bool := false
  flags : BitVec 5 := 0
  sat : Nat := 0
  nan : Option NanMark := Option.none
  blocks : List MBlock := []
  act : Nat := 0
  order : Nat := 0
  deriving DecidableEq, Repr, Inhabited

/-- What became of a first-NaN report (spec/12_numbers.md R296) or of a latch check (spec/14_matrix.md R327). -/
inductive MEvKind where
  | reportPending | granted | reason7
  deriving DecidableEq, Repr, Inhabited

/-- An event of a completed command, until it is reported (spec/14_matrix.md R335). -/
structure MEvent where
  id : Nat
  acc : BitVec 2
  kind : MEvKind
  tall : Bool
  nan : NanMark
  deriving DecidableEq, Repr, Inhabited

/-- A `mat.slot` write on its way to the engine (spec/14_matrix.md R339): its identity, when it arrives as `State.cyc10` counts, the core that sent it,
the index and the value. -/
structure SlotWrite where
  id : Nat
  due : Nat
  core : Nat
  idx : Nat
  val : XWord
  deriving DecidableEq, Repr, Inhabited

/-- A cluster's engine (spec/14_matrix.md R338, R344). -/
structure Engine where
  cur : Map Nat := []
  curW : Map Nat := []
  pend : Map Nat := []
  pendW : Map Nat := []
  armed : Option XWord := Option.none
  /-- The engine cycle in which the arming write arrived. -/
  armedAt : Nat := 0
  p : Nat := 0
  credit : Map Nat := []
  r : Nat := 0
  level : Nat := 0
  busy : Nat := 0
  /-- The time, as `State.cyc10` counts, at which the array is free again. -/
  freeAt : Nat := 0
  heldBack : Bool := false
  filler : Bool := false
  /-- Writes of `mat.slot` on their way, in issue order. -/
  coming : List SlotWrite := []
  /-- The engine cycle at which the level last moved, none before. -/
  movedAt : Option Nat := none
  deriving DecidableEq, Repr, Inhabited

/-! Flow tables and homes. -/

/-- States of a flow-table entry (spec/10_actors.md R230); FREE is an entry that is not listed. -/
inductive FState where
  | activating | live | moving | retiring | hint
  deriving DecidableEq, Repr, Inhabited

/-- A sender stream (spec/09_messages.md R217). -/
inductive StreamId where
  | actor (cls : BitVec 12) (key : XWord)
  | core (k : Nat)
  | queue (q : Nat)
  | fleiz
  deriving DecidableEq, Repr, Inhabited

/-- A flow-table entry (spec/10_actors.md R230) with the stage of its activation, move or retirement. -/
structure FEntry where
  id : Nat := 0
  cls : BitVec 12 := 0
  key : XWord := 0
  job : Nat := 0
  st : FState := .hint
  host : Nat := 0
  hosted : Bool := false
  incarn : BitVec 16 := 0
  pend : Nat := 0
  idleSince : Nat := 0
  pin : Bool := false
  retq : Bool := false
  slot : Nat := 0
  curd : Nat := 0
  initDue : Bool := false
  initDone : Bool := false
  initStamp : BitVec 32 := 0
  initRetry : Nat := 0
  initAt : Nat := 0
  moveTo : Option Nat := Option.none
  reported : Bool := false
  /-- The stream of the request whose move, retirement, deferred retirement or pin's activation is in progress (spec/10_actors.md R246). -/
  byReq : Option StreamId := Option.none
  seqn : Nat := 0
  /-- The actor whose miss waits for this retirement (spec/10_actors.md R233, R234). -/
  press : Option (BitVec 12 × XWord) := Option.none
  /-- Where in the replay region the actor's last checkpoint stands (spec/19_debug.md R453). -/
  ck : Option Nat := Option.none
  deriving DecidableEq, Repr, Inhabited

/-- The actor requests (spec/10_actors.md R246). -/
inductive AReqKind where
  | retire | pin | unpin | move | probe
  deriving DecidableEq, Repr, Inhabited

/-- An actor request on its way to, or waiting at, a home, with the sender's stream. -/
structure AReq where
  sid : StreamId
  kind : AReqKind
  cls : BitVec 12
  key : XWord
  dst : Nat
  job : Nat
  core : Nat
  acc : Nat
  stamp : BitVec 32
  deriving DecidableEq, Repr, Inhabited

/-- What a home holds waiting, in arrival order (spec/10_actors.md R232, R235, R246): an accepted message with the core cycle of its acceptance,
from which it counts as waiting (spec/09_messages.md R216), or a request. -/
inductive Waiting where
  | msg (m : Msg) (since : Nat)
  | req (r : AReq)
  deriving DecidableEq, Repr, Inhabited

/-- A sticky refusal: sender stream and target actor (spec/09_messages.md R219); one of class 0 by its job's address space too (R226). -/
structure Sticky where
  sid : StreamId
  cls : BitVec 12
  key : XWord
  space : Nat := 0
  deriving DecidableEq, Repr, Inhabited

/-- A barrier word (spec/11_tasks.md R263). -/
structure Bar where
  en : Bool := false
  job : BitVec 8 := 0
  phase : Bool := false
  parties : BitVec 8 := 0
  arrived : BitVec 8 := 0
  pending : BitVec 8 := 0
  deriving DecidableEq, Repr, Inhabited

/-- A breakpoint register (spec/19_debug.md R450). -/
structure Bp where
  en : Bool := false
  anyc : Bool := false
  job : BitVec 8 := 0
  cls : BitVec 12 := 0
  addr : BitVec 30 := 0
  deriving DecidableEq, Repr, Inhabited

/-- A TLB entry (spec/06_memory.md R117, R121): job, page base and size, the leaf. -/
structure Tlb where
  job : Nat
  page : Nat
  size : Nat
  leaf : XWord
  deriving DecidableEq, Repr, Inhabited

/-! Packets. -/

/-- A read request of one line: the reader's endpoint (a core, or a home slice), its access, copy or curd transfer, the part, the place and
the job. -/
structure ReadReq where
  core : Nat
  copy : Bool
  owner : Nat
  part : Nat
  line : Nat
  job : Nat := 0
  deriving DecidableEq, Repr, Inhabited

/-- An atomic request (spec/06_memory.md R142). -/
structure AtomReq where
  core : Nat
  acc : Nat
  op : AmoOp
  dbl : Bool
  addr : Nat
  b : XWord
  c : XWord
  job : Nat
  va : XWord := 0
  stamp : BitVec 32 := 0
  deriving DecidableEq, Repr, Inhabited

/-- A counter request. -/
structure CtrReq where
  core : Nat
  acc : Nat
  kind : CtrKind
  addr : Nat
  va : XWord
  job : Nat := 0
  stamp : BitVec 32 := 0
  deriving DecidableEq, Repr, Inhabited

/-- A pull (spec/17_network.md R403, R406): the hole it is for, the stream and number of the packet wanted, RTAG and GEN where they are known, and
the request that a read reply answers. Log: DEDUCED, notes/assumptions/104.md. -/
structure Pull where
  hole : Nat
  src : Nat := 0
  seq : Nat := 0
  inorder : Bool := false
  known : Bool := true
  rtag : Nat := 0
  gen : Nat := 0
  re : Option ReadReq := Option.none
  deriving DecidableEq, Repr, Inhabited

/-- What a packet carries (spec/17_network.md R395, R400). -/
inductive Body where
  | msg (m : Msg)
  | areq (r : AReq)
  | probeRep (acc : Nat) (w : XWord)
  | read (r : ReadReq)
  | readRep (r : ReadReq) (fail : Nat) (data : BitVec 1024)
  | posted (p : Posted)
  | atomic (r : AtomReq)
  | atomicRep (acc : Nat) (fail : Nat) (old : XWord) (flags : BitVec 5) (va : XWord)
  | counter (r : CtrReq)
  | counterRep (acc : Nat) (fail under : Nat) (val : XWord) (zero : Bool) (d1 d2 d3 : XWord) (kind : CtrKind) (va : XWord)
  | ack (rtag gen seq : Nat) (fail : Nat)
  | refuse (rtag gen seq : Nat)
  | returned (rtag gen : Nat)
  | whey (pkind oclass olen : Nat) (what : XWord) (re : Option ReadReq)
  | pull (q : Pull)
  | gone (hole : Nat)
  | unreach (ent : Option (Nat × Nat)) (re : Option ReadReq)
  /-- The end of an activation of an actor, with the identity of the entry it was placed for. -/
  | done (cls : BitVec 12) (key : XWord) (eid : Nat)
  | move (cls : BitVec 12) (key : XWord) (dst : Nat)
  deriving DecidableEq, Repr, Inhabited

/-- Output ports of a router (spec/17_network.md R397, R398). -/
inductive Port where
  | loc | north | east | south | west | fabric
  deriving DecidableEq, Repr, Inhabited

/-- Where a packet stands: at its source, in an output queue of a router, held at its destination behind a hole, or
delivered to its endpoint without the mesh. -/
inductive Loc where
  | source
  | queue (router : Nat) (port : Port)
  | arrived
  deriving DecidableEq, Repr, Inhabited

/-- A further destination of a multicast packet: its endpoint, the sequence number of its copy, its key and, for class 0, its
physical address (spec/17_network.md R410). Log: DEDUCED, notes/assumptions/16.md. -/
structure Leg where
  dst : Nat
  seq : Nat
  key : XWord
  pa : Option Nat
  deriving DecidableEq, Repr, Inhabited

/-- A packet (spec/17_network.md R394, R400): identity, traffic class, endpoints, stream sequence number, retain tag and generation,
holder, payload bytes, whether it is a retransmission, the further destinations of a multicast. -/
structure Packet where
  id : Nat := 0
  cls : Nat := 2
  src : Nat := 0
  dst : Nat := 0
  seq : Nat := 0
  rtag : Nat := 0
  gen : Nat := 0
  holder : Nat := 0
  len : Nat := 0
  pkind : Nat := 15
  job : Nat := 0
  loc : Loc := .source
  again : Bool := false
  detour : Bool := false
  /-- The Utfen port it leaves by, once that is chosen (spec/17_network.md R414). -/
  out : Option Nat := Option.none
  /-- For a packet that a peer injects, the Utfen port it comes in by. -/
  came : Option Nat := Option.none
  inorder : Bool := false
  trimBy : BitVec 16 := 0
  ttick : BitVec 32 := 0
  legs : List Leg := []
  /-- Core cycles that the hole it fills has waited, which DELAY counts (spec/19_debug.md R456). -/
  waited : Nat := 0
  body : Body := .gone 0
  deriving DecidableEq, Repr, Inhabited

/-- A retain-buffer entry (spec/09_messages.md R203, spec/17_network.md R401 to R403) with the resend of a refused or
returned message (spec/09_messages.md R221). -/
structure Retain where
  rtag : Nat
  gen : Nat
  bytes : Nat
  pkt : Packet
  born : Nat
  waits : Nat := 1
  refusals : Nat := 0
  resendAt : Option Nat := Option.none
  /-- The place of its first sending among the sends of its endpoint; the entries that refused copies of one multicast get share it, and with it one
  charge (spec/09_messages.md R207). -/
  order : Nat := 0
  /-- Which copy of a multicast it holds, in list order. -/
  leg : Nat := 0
  /-- The copies of a multicast that have been accepted, or have entries of their own: destination and number (spec/17_network.md R410). -/
  done : List (Nat × Nat) := []
  /-- For a part of a host queue, its packet (spec/18_frontend.md R432). -/
  slot : Nat := 0
  deriving DecidableEq, Repr, Inhabited

/-- A hole record (spec/17_network.md R406). -/
structure Hole where
  id : Nat
  src : Nat
  seq : Nat
  inorder : Bool
  holder : Nat
  rtag : Nat
  gen : Nat
  known : Bool
  n : Nat := 0
  timer : Nat
  born : Nat
  /-- The core cycle of its making (spec/19_debug.md R456). -/
  cyc : Nat := 0
  pkind : Nat := 15
  what : XWord := 0
  re : Option ReadReq := Option.none
  job : Nat := 0
  deriving DecidableEq, Repr, Inhabited

/-- The receiving side of an in-order stream (spec/17_network.md R407). -/
structure Stream where
  expect : Nat := 0
  held : List Packet := []
  done : List Nat := []
  deriving DecidableEq, Repr, Inhabited

/-- The endpoint counters (spec/17_network.md R411). -/
structure EpCount where
  holes : BitVec 64 := 0
  pulls : BitVec 64 := 0
  repulls : BitVec 64 := 0
  dups : BitVec 64 := 0
  lost : BitVec 64 := 0
  deriving DecidableEq, Repr, Inhabited

/-- An endpoint of the network: a core, a home slice, the host port or a fabric peer. -/
structure Endpoint where
  retain : List Retain := []
  gens : Map Nat := []
  nextSeq : Map Nat := []
  streams : Map Stream := []
  holes : List Hole := []
  count : EpCount := {}
  /-- The pairs of stream and target whose refusal a message resent with RESUME has ended, with the packet that was last sent so
  (spec/09_messages.md R220). -/
  resumed : List (Sticky × Nat) := []
  deriving DecidableEq, Repr, Inhabited

/-- Trim counters of one output port and class, and the share of classes 2 and 3 (spec/17_network.md R396, R411). -/
structure PortCount where
  trims : BitVec 64 := 0
  trimb : BitVec 64 := 0
  deriving DecidableEq, Repr, Inhabited

/-! Jobs, queues and the rest of the device. -/

/-- An error record (spec/06_memory.md R140). -/
structure ErrRec where
  addr : XWord := 0
  time : XWord := 0
  peer : BitVec 32 := 0
  cause : BitVec 16 := 0
  kind : BitVec 8 := 0
  size : BitVec 8 := 0
  src : BitVec 16 := 0
  cls : BitVec 16 := 0
  incarn : BitVec 32 := 0
  deriving DecidableEq, Repr, Inhabited

/-- A trace record, its four doublewords (spec/19_debug.md R449). -/
structure TraceRec where
  dw0 : XWord
  dw1 : XWord
  dw2 : XWord
  dw3 : XWord
  deriving DecidableEq, Repr, Inhabited

/-- The trace set-up of a job (spec/19_debug.md R448). -/
structure Trace where
  on : Bool := false
  log : Nat := 10
  mask : BitVec 16 := 0
  cls : Option (BitVec 12) := Option.none
  /-- Where the ring begins in device memory. -/
  base : Nat := 0
  /-- Records written. -/
  next : Nat := 0
  deriving DecidableEq, Repr, Inhabited

/-- The capture set-up of a job (spec/19_debug.md R453): the classes, and the replay region, a ring of lines of device memory, with the lines written so
far. Log: DESIGN CHOICE, notes/assumptions/46.md. -/
structure Capture where
  classes : List (BitVec 12) := []
  base : Nat := 0
  lines : Nat := 0
  next : Nat := 0
  deriving DecidableEq, Repr, Inhabited

/-- A software breakpoint (spec/19_debug.md R451): the code address, the word that stood there, whether it is being patched or removed, the clusters
whose stores are still to be written, and the mark of the stores on their way. -/
structure Patch where
  addr : BitVec 32
  word : Word
  on : Bool := true
  todo : List Nat := []
  id : Nat := 0
  deriving DecidableEq, Repr, Inhabited

/-- A job (spec/18_frontend.md R422, R423, R435, R439; spec/19_debug.md R452, R453). -/
structure Job where
  live : Bool := false
  root : Nat := 0
  code : XWord := 0
  codelen : Nat := 0
  jpar : XWord := 0
  jparlen : Nat := 0
  steal : BitVec 2 := 0
  pol : BitVec 2 := 0
  slotRight : Bool := false
  codeRight : Bool := false
  errLog : Nat := 6
  poolLines : Nat := 0
  poolBase : Nat := 0
  cset : BitVec 768 := 0
  opened : List Nat := []
  prio : BitVec 2 := 0
  gap : BitVec 32 := 0xFFFFFFFF
  errs : List ErrRec := []
  errTotal : Nat := 0
  errOver : BitVec 64 := 0
  floorEmpty : Bool := true
  floorMin : BitVec 32 := 0xFFFFFFFF
  hold : Bool := false
  stopping : Bool := false
  /-- The cores that have come to the between-activations stop of a job stop (spec/19_debug.md R452). -/
  halted : List Nat := []
  stopReq : Bool := false
  /-- Being destroyed: killed, its last operations awaited (spec/18_frontend.md R422). -/
  dying : Bool := false
  trace : Trace := {}
  capture : Capture := {}
  patches : List Patch := []
  deriving DecidableEq, Repr, Inhabited

/-- A placement domain (spec/10_actors.md R228). -/
structure Domain where
  mask : BitVec 768 := 0
  cores : BitVec 8 := 0
  deriving DecidableEq, Repr, Inhabited

/-- A numerics group record (spec/12_numbers.md R290) and the job it is bound to. -/
structure Group where
  job : Option Nat := Option.none
  satsum : BitVec 48 := 0
  fnarm : Bool := false
  fnten : Bool := false
  flags : BitVec 5 := 0
  /-- FLAGS as last broadcast. -/
  sent : BitVec 5 := 0
  deriving DecidableEq, Repr, Inhabited

/-- A forwarded flag set or a clear on its way to a group's home (spec/12_numbers.md R291, R292). -/
structure FlagFwd where
  id : Nat
  group : Nat
  set : BitVec 5
  clear : BitVec 5
  /-- The tick at which it became due (spec/12_numbers.md R292). -/
  born : Nat := 0
  deriving DecidableEq, Repr, Inhabited

/-- A first-NaN report on its way (spec/12_numbers.md R296). -/
structure NanReport where
  id : Nat
  group : Nat
  core : Nat
  cmd : Nat
  act : Nat
  deriving DecidableEq, Repr, Inhabited

/-- Who waits for a walk: a core instruction with the TVAL of its page fault, or a copy with its
address, whether it writes, and how many bytes (spec/06_memory.md R121). -/
inductive Waiter where
  | core (k : Nat) (tval : XWord)
  | copy (k : Nat) (id : XWord) (va : XWord) (wr : Bool) (n : Nat)
  deriving DecidableEq, Repr, Inhabited

/-- A walk in progress on a die (spec/06_memory.md R121). -/
structure Walk where
  id : Nat
  die : Nat
  job : Nat
  page : Nat
  waiters : List (Nat × Waiter)
  deriving DecidableEq, Repr, Inhabited

/-- An invalidation on its way to the clusters (spec/06_memory.md R122). -/
structure Inval where
  id : Nat
  core : Nat
  job : Nat
  all : Bool
  va : Nat
  size : Nat
  left : List Nat
  deriving DecidableEq, Repr, Inhabited

/-- A dispatched packet of a queue (spec/18_frontend.md R432): parts injected and accepted, whether all are injected, its status, and the
stamp a fence waits for. -/
structure QPacket where
  id : Nat := 0
  injected : Nat := 0
  accepted : Nat := 0
  whole : Bool := false
  status : Nat := 0
  fence : Option (BitVec 32) := Option.none
  deriving DecidableEq, Repr, Inhabited

/-- A queue descriptor (spec/18_frontend.md R425) with what the front end keeps for it (R432 to R434). -/
structure Queue where
  state : BitVec 3 := 0
  prio : BitVec 2 := 0
  loc : Bool := false
  job : BitVec 8 := 0
  base : BitVec 48 := 0
  log : BitVec 5 := 0
  pptgap : BitVec 32 := 0xFFFFFFFF
  head : BitVec 16 := 0
  tail : BitVec 16 := 0
  lseq : BitVec 16 := 0
  shadow : BitVec 48 := 0
  compl : BitVec 48 := 0
  part : BitVec 5 := 0
  dbdrop : BitVec 32 := 0
  count : BitVec 16 := 0
  /-- Status of the last packet counted. -/
  status : Nat := 0
  open_ : List QPacket := []
  /-- The front-end core that holds the ordering lock. -/
  lock : Option Nat := none
  deriving DecidableEq, Repr, Inhabited

/-- Events of the hardware event queue, in arrival order (spec/18_frontend.md R434). Those other than tail events beyond the 256th are at
producers that wait. Log: DESIGN CHOICE, notes/assumptions/50.md. -/
inductive FeEvent where
  | tail (q : Nat)
  | caveFull (g entry : Nat) (last : Nat)
  | codeMiss (k : Nat) (job : Nat) (addr : BitVec 32)
  | reconcile
  /-- An error reported to Fleiz: 0 an unread ECC error, 1 a failed link, with what it names (spec/15_system.md R353, spec/17_network.md R416). -/
  | report (kind what : Nat)
  /-- A part of a queue was refused (spec/18_frontend.md R433): its retain entry. -/
  | refused (q rtag gen : Nat)
  deriving DecidableEq, Repr, Inhabited

/-- A Fleiz image a boot source offers (spec/18_frontend.md R442). -/
structure Image where
  version : BitVec 32
  bytes : List Byte
  digest : BitVec 384
  pubkey : List Byte
  sig : List Byte
  deriving DecidableEq, Repr, Inhabited

/-- Boot inputs and BOOTSTAT (spec/18_frontend.md R442, R443). -/
structure Boot where
  bootsel : Bool := false
  flash : Option Image := Option.none
  nvme : Option Image := Option.none
  minVersion : BitVec 32 := 0
  keyHash : BitVec 384 := 0
  rom : List Byte := []
  fwver : BitVec 32 := 0
  source : BitVec 4 := 0
  state : BitVec 4 := 0
  digest : BitVec 384 := 0
  deriving DecidableEq, Repr, Inhabited

/-- One direction of a fabric link (spec/17_network.md R416, R417). -/
structure LinkDir where
  key : Option (BitVec 256) := Option.none
  salt : BitVec 48 := 0
  ctr : BitVec 48 := 0
  next : Option (BitVec 256 × BitVec 48) := Option.none
  fails : Nat := 0
  idle : Bool := false
  /-- A key-exhaustion event has been raised and not yet taken (spec/17_network.md R417). -/
  due : Bool := false
  /-- Flits of a packet that have crossed ahead of the rest of it, and which packet that is (spec/17_network.md R416, R417). -/
  part : Nat := 0
  of : Nat := 0
  deriving DecidableEq, Repr, Inhabited

/-- A fabric port: its two directions, the failed mark and the detour (spec/17_network.md R414). -/
structure Link where
  tx : LinkDir := {}
  rx : LinkDir := {}
  failed : Bool := false
  detour : Option Nat := Option.none
  deriving DecidableEq, Repr, Inhabited

/-- BAR0 and the management registers (spec/18_frontend.md R418 to R421, R441, R445 to R447). -/
structure Bar0 where
  claim : XWord := 0
  mboxAddr : BitVec 56 := 0
  mboxLast : BitVec 16 := 0
  mboxState : BitVec 2 := 0
  block : Option (List XWord) := none
  notifyBase : BitVec 56 := 0
  notifyLog : BitVec 4 := 0
  notifyHead : BitVec 32 := 0
  notifyTail : BitVec 32 := 0
  lost : Nat := 0
  msix0 : Map Nat := []
  msix1 : Map Nat := []
  cap : BitVec 2 := 0
  levelsum : BitVec 16 := 0
  deriving DecidableEq, Repr, Inhabited

/-- A message being redelivered under retry (spec/15_system.md R362): the tick it is due, its actor's home, the actor. -/
structure Redeliver where
  id : Nat
  due : Nat
  g : Nat
  cls : BitVec 12
  key : XWord
  msg : Msg
  deriving DecidableEq, Repr, Inhabited

/-- What a home slice's copy engine works for: an activation, a cave write, a migration, a chain without a free slot, the end of a discarded actor's
slot (spec/10_actors.md R234, R237, R239, R241, R244). -/
inductive XferKind where
  | fetch | cave | move | look | clear
  deriving DecidableEq, Repr, Inhabited

/-- A transfer of a curd by a home slice (spec/10_actors.md R234, R237, R241, spec/17_network.md R395, R401): home, entry, the cave slot, for a
migration the destination and its first byte; the bucket headers it has still to read, one after another, before anything else; where each
line comes from and where it goes (place and endpoint), which lines are not yet read, how many writes are not acknowledged, and the header write that
follows the last line: place, endpoint, bytes, value; `full` is the last bucket of a chain found full, of which an event follows. Log: DESIGN CHOICE,
notes/assumptions/95.md; DESIGN CHOICE, notes/assumptions/98.md. -/
structure Xfer where
  id : Nat := 0
  g : Nat
  entry : Nat
  kind : XferKind := .cave
  slot : Nat := 0
  host : Nat := 0
  curd : Nat := 0
  job : Nat := 0
  heads : List (Nat × Nat) := []
  srcs : List (Nat × Nat) := []
  dsts : List (Nat × Nat) := []
  reads : List Nat := []
  writes : Nat := 0
  last : Option (Nat × Nat × Nat × Nat) := Option.none
  full : Option Nat := Option.none
  deriving DecidableEq, Repr, Inhabited

/-- The event counters of a core (spec/19_debug.md R457). -/
structure Counters where
  acts : BitVec 64 := 0
  steals : BitVec 64 := 0
  refused : BitVec 64 := 0
  logstall : BitVec 64 := 0
  bankx : BitVec 64 := 0
  retwait : BitVec 64 := 0
  msteps : BitVec 64 := 0
  capstall : BitVec 64 := 0
  trdrop : BitVec 64 := 0
  deriving DecidableEq, Repr, Inhabited

/-- The state of the spill engine (spec/05_windows.md R97). -/
inductive SpillEng where
  | idle | spilling | filling
  deriving DecidableEq, Repr, Inhabited

/-- A held fetch (spec/15_system.md R353): the address, whether its event has been posted, whether Fleiz reported the code absent. -/
structure FetchHold where
  addr : BitVec 32
  taken : Bool := false
  deriving DecidableEq, Repr, Inhabited

/-- A log entry of a captured activation (spec/19_debug.md R453, R454): its job, the activation, INSTRET before its instruction, what it is and of
what, the value. Log: DESIGN CHOICE, notes/assumptions/46.md. -/
structure LogEntry where
  job : Nat
  act : Nat
  at_ : Nat
  kind : Nat
  where_ : Nat
  value : BitVec 1024
  deriving DecidableEq, Repr, Inhabited

end Sys2Proof.Machine
end

