-- ==== Sys2Proof/Machine/State.lean ====
section
/-! DEFINITION. The state of the part, its faults and refusals, and the state right after reset. Every piece of state that
INVENTORY.md lists under State stands here; no field has a function type. -/

namespace Sys2Proof.Machine

/-- A pre-empted activation's context (spec/15_system.md R369), held field by field beside the context record in device memory, which no job maps; the
record is the core's one for a job priority from 1 to 3. Log: DESIGN CHOICE, notes/assumptions/76.md. -/
structure Saved where
  record : Nat := 1
  act : Act := {}
  pc : BitVec 32 := 0
  xs : Map Reg := []
  vs : Map VReg := []
  ms : Map MWord := []
  ctx : Ctx := {}
  accs : Map Acc := []
  latch : Option Latch := none
  events : List MEvent := []
  gap : BitVec 32 := 0xFFFFFFFF
  tagBusy : XWord := 0
  tagStat : Map (BitVec 16) := []
  spills : List (Nat × Byte) := []
  logged : List Nat := []
  entering : Bool := false
  deriving DecidableEq, Repr, Inhabited

/-- An `enter` of a view that waits for another core's view (spec/07_views.md R160): its view number and new geometry. -/
structure EnterWait where
  q : Nat
  view : View
  deriving DecidableEq, Repr, Inhabited

/-- A timer read under way: destination key and whether it reads FLOOR (spec/11_tasks.md R272). -/
structure TimerRead where
  key : Nat
  floor : Bool
  /-- INSTRET before the read. -/
  at_ : Nat := 0
  deriving DecidableEq, Repr, Inhabited

/-- A forced done under way (spec/15_system.md R360): the address of the faulting instruction, its cause, whether the message or task is
redelivered, and the tick of the fault, from which the back-off counts (R362). -/
structure Finish where
  addr : BitVec 32
  cause : Nat
  retry : Bool
  at_ : Nat := 0
  deriving DecidableEq, Repr, Inhabited

/-- A core: its activation, registers, queues, engines and buffers. -/
structure Core where
  act : Option Act := none
  pc : BitVec 32 := 0
  /-- The word fetched last, which the illegal-instruction trap of a register access reports. -/
  ir : BitVec 32 := 0
  xs : Map Reg := []
  vs : Map VReg := []
  ms : Map MWord := []
  ctx : Ctx := {}
  carve : Carve := {}
  accepted : Option Carve := none
  eng : SpillEng := .idle
  empty : List Nat := []
  l1 : List L1Line := []
  out : List Access := []
  undo : List UndoEntry := []
  blocked : Option Nat := none
  posted : List Posted := []
  drain : Bool := false
  timers : List TimerRead := []
  tlbi : Option Nat := none
  enterWait : Option EnterWait := none
  copies : List Copy := []
  copySeq : BitVec 32 := 0
  tagBusy : XWord := 0
  tagStat : Map (BitVec 16) := []
  cmdq : List XWord := []
  accs : Map Acc := []
  latch : Option Latch := none
  mq : List MCmd := []
  events : List MEvent := []
  /-- Instructions in the vector command queue, oldest first (spec/13_vector.md R300). -/
  vq : List VecCmd := []
  /-- What a vector store has yet to post: it waits for entries of the 32 (spec/06_memory.md R139). -/
  storing : List Posted := []
  inbox : List InMsg := []
  deque : List Task := []
  pushes : Nat := 0
  fetch : Option FetchHold := none
  /-- The core is held at a boundary (spec/19_debug.md R452): the CODE of its STOP record. -/
  held : Option Nat := none
  /-- PC, INSTRET and DEPTH of the boundary at which a held core was let go: its instruction is executed without matching again. -/
  resumeAt : Option (BitVec 32 × XWord × Nat) := none
  stepping : Bool := false
  /-- The activation is a replay (spec/19_debug.md R455). -/
  replay : Bool := false
  preq : Option Nat := none
  preempting : Bool := false
  gap : BitVec 32 := 0xFFFFFFFF
  heldSince : Nat := 0
  saved : List Saved := []
  saving : Bool := false
  finish : Option Finish := none
  latacc : Map (BitVec 64) := []
  accEcc : List Nat := []
  /-- Failing lines of the register partition: which slot, its bank and its line (spec/15_system.md R353). -/
  regEcc : List (Nat × Nat × Nat) := []
  /-- A trap that waits for a window slot or for undo-log room: its cause and TVAL (spec/15_system.md R355). -/
  trapWait : Option (Nat × XWord) := none
  ckAt : Nat := 0
  /-- The checkpoint period, in ticks (spec/19_debug.md R453). -/
  ckPeriod : Nat := 0
  /-- Register writes made: the model's own field, by which an instruction that writes is told from one that does not. -/
  writes : Nat := 0
  logged : List Nat := []
  /-- The capture buffer: log entries in program order (spec/19_debug.md R453). -/
  capBuf : List LogEntry := []
  /-- The activation has not issued its first instruction (spec/19_debug.md R449). -/
  entering : Bool := false
  count : Counters := {}
  deriving DecidableEq, Repr, Inhabited

/-- A cluster: barriers, pending carve-out, flow-table slice and hold queue, TLB, engine, breakpoints, L2 tags,
the trace buffer and group records. -/
structure Cluster where
  bars : Map Bar := []
  pendCarve : Option (Carve × Nat) := none
  flow : List FEntry := []
  hold : List Waiting := []
  sticky : List Sticky := []
  tlb : List Tlb := []
  engine : Engine := {}
  bps : Map Bp := []
  l2 : Map (List Nat) := []
  trbuf : List (Nat × TraceRec) := []
  /-- The numerics-group records that live here (spec/12_numbers.md R290). -/
  groups : Map Group := []
  deriving DecidableEq, Repr, Inhabited

/-- A boundary of a captured activation, for reverse stepping (spec/19_debug.md R455): the job, the activation, its
INSTRET, the core at that boundary, and the private lines that are not zero. Log: DESIGN CHOICE, notes/assumptions/46.md. -/
structure Snap where
  job : Nat
  uid : Nat
  instret : Nat
  core : Core
  priv : List (Nat × Byte)
  deriving DecidableEq, Repr, Inhabited

/-- What comes to the part from outside its cores and units (spec/17_network.md R411, R412, R414 to R416, spec/19_debug.md R448, R450, R453, R457):
Fleiz clears the counters of a port in a class or of an endpoint, writes the node's address and the dimension sizes, or a port's failed mark and detour;
the mark of a peer's transmitter is seen on a link; a packet of a peer stands at a port; one flit of a packet crosses a link ahead of the rest; Fleiz
sets up the trace ring or the capture of a job or the checkpoint period of a core, writes a breakpoint register, or clears a counter of a core. Log:
DEDUCED, notes/assumptions/29.md; DEDUCED, notes/assumptions/79.md. -/
inductive Outside where
  | clearPort (router : Nat) (port : Port) (cls : Nat)
  | clearEp (ep : Nat)
  | address (peer ring0 ring1 mesh0 mesh1 : Nat)
  | detour (port : Nat) (failed : Bool) (by_ : Option Nat)
  | rxMark (port : Nat)
  | inbound (port : Nat) (p : Packet)
  | flit (port : Nat) (rx : Bool)
  | trace (job : Nat) (t : Trace)
  | capture (job base lines : Nat) (classes : List (BitVec 12))
  | period (k ticks : Nat)
  | breakpoint (g n : Nat) (v : XWord)
  | clearCore (k n : Nat)
  deriving DecidableEq, Repr

/-- What a step may move: a core's next instruction, an instruction of Fleiz at a control core, an event, a timer read's fill, a copy engine's next
request (`pick` chooses the copy and its access), a packet's arrival, the oldest record of a trace buffer or entry of a capture buffer, the write-back of
a dirty line that a matrix command waits for, a front-end core's taking of a report or a refusal, the taking of a link's key-exhaustion event, something from outside, or nothing but time. Log: DESIGN CHOICE,
notes/assumptions/88.md. -/
inductive Move where
  | core (k : Nat)
  | control (i : Nat) (w : Word)
  | event (i : Instr)
  | fill (k : Nat)
  | pump (k pick : Nat)
  | arrive (pid : Nat)
  | flush (g : Nat)
  | drain (k : Nat)
  | writeBack (k line : Nat)
  | serve
  | exhaust (port : Nat)
  | outside (x : Outside)
  | idle
  deriving DecidableEq, Repr

/-- The state of the part. -/
structure State where
  /-- The core whose instruction is executed. The model's own field. -/
  cur : Nat := 0
  /-- Which moves come next; when empty, the model's fixed order decides. The model's own field. -/
  schedule : List Move := []
  turn : Nat := 0
  /-- Counter of free values drawn. The model's own field. -/
  free : Nat := 0
  nextId : Nat := 1
  /-- Ticks per step. The model's own field. -/
  pace : Nat := 1
  dtime : Nat := 0
  /-- Ten times the core cycles since device reset, and the engine cycles. -/
  cyc10 : Nat := 0
  mem : List Host.Cell := []
  ecc : List Nat := []
  poison : List Nat := []
  unreachable : List Nat := []
  cores : Map Core := []
  clusters : Map Cluster := []
  eps : Map Endpoint := []
  net : List Packet := []
  ports : Map PortCount := []
  /-- Flits of class 2 sent ahead of their share with class 3, by output port (spec/17_network.md R396). -/
  share : Map Int := []
  jobs : Map Job := []
  classes : Map ClassDesc := []
  domains : Map Domain := []
  fwds : List FlagFwd := []
  nanReports : List NanReport := []
  walks : List Walk := []
  invals : List Inval := []
  redel : List Redeliver := []
  /-- Transfers of curds under way (spec/10_actors.md R234, R237, R241). -/
  xfers : List Xfer := []
  /-- Pages of the cave reserve in use: the job, the page's place in the reserve (spec/10_actors.md R239). -/
  reserve : List (Nat × Nat) := []
  caveRoom : Map (Nat × Nat) := []
  migr : List (Nat × Nat × Nat) := []
  queues : Map Queue := []
  feEvents : List FeEvent := []
  fenced : List Nat := []
  /-- Pre-emption requests that Fleiz has to make: a core and the job (spec/18_frontend.md R435). -/
  requests : List (Nat × Nat) := []
  bar0 : Bar0 := {}
  boot : Boot := {}
  power : Nat := 0
  hotAt : Nat := 0
  coolAt : Nat := 0
  tripped : Bool := false
  links : Map Link := []
  peer : Nat := 0
  ring0 : Nat := 16
  ring1 : Nat := 16
  mesh0 : Nat := 4
  mesh1 : Nat := 4
  nextBalance : Nat := 2000
  nextFloor : Nat := 64
  nextFlags : Nat := 64
  nextLevel : Nat := 1000
  nextShadow : Nat := 10000
  nextWindow : Nat := 128
  snaps : List Snap := []
  deriving DecidableEq, Repr

/-- Reasons a step stops with a fault. -/
inductive Fault where
  /-- Raised by `step` when the schedule names a core id that names no core (spec/01_machine.md R8), or a control core beyond the sixteen (R7). Safe:
  nothing is executed. -/
  | noSuchCore
  deriving DecidableEq, Repr

/-- Reasons a meaning is refused. -/
inductive Refusal where
  /-- Raised by an arm of `exec` that has no meaning yet. Safe: nothing is claimed of it. -/
  | notModelled (mnemonic : String)
  deriving DecidableEq, Repr

/-- The engine at device reset (spec/14_matrix.md R338): open slots, weights and credits of 1 are the defaults of its
maps, so the empty maps hold them. -/
def Engine.reset : Engine := {}

/-- The machine right after reset: nothing listed, every register at its reset value (INVENTORY.md, State). -/
def State.reset : State := {}

end Sys2Proof.Machine
end

