-- ==== Sys2Proof/Machine/Mem.lean ====
section
/-! DEFINITION. Numbering of cores and clusters, places of bytes, the one memory and its canonical form, bytes and
lines read and written there (spec/01_machine.md R8, R9; spec/16_model.md R374; spec/00_scope.md R3). -/

namespace Sys2Proof.Machine

/-! Numbering (spec/01_machine.md R8, R9). -/

/-- The die, the cluster within the die and the core within the cluster of a core id. -/
def coreDie (k : Nat) : Nat := k / 1024
/-- Cluster field of a core id. -/
def coreC (k : Nat) : Nat := k / 8 % 128
/-- Core field of a core id. -/
def coreK (k : Nat) : Nat := k % 8
/-- Whether a number is a core id that names a core. -/
def isCore (k : Nat) : Bool := decide (k < 8192) && decide (coreC k < 96)
/-- The number of control core `i` of the control cluster, of which 0 to 3 are management cores and 4 to 15 front-end cores (spec/01_machine.md R7).
A core id of 13 bits names none of them. Log: DESIGN CHOICE, notes/assumptions/88.md. -/
def controlCore (i : Nat) : Nat := 0x4000 + i
/-- Whether a number is that of a control core. Log: DESIGN CHOICE, notes/assumptions/88.md. -/
def isControl (k : Nat) : Bool := decide (0x4000 ≤ k) && decide (k < 0x4010)
/-- Global cluster number 96*d + c (spec/06_memory.md R117). Log: of a control core DESIGN CHOICE, notes/assumptions/88.md. -/
def coreCluster (k : Nat) : Nat := 96 * coreDie k + coreC k
/-- The core id of core `i` of cluster `g`. -/
def clusterCore (g i : Nat) : Nat := 1024 * (g / 96) + 8 * (g % 96) + i
/-- Core 0 of a cluster. -/
def core0 (g : Nat) : Nat := clusterCore g 0
/-- Router column of a cluster. -/
def clx (g : Nat) : Nat := 12 * (g / 96 % 4) + g % 96 % 12
/-- Router row of a cluster. -/
def cly (g : Nat) : Nat := 8 * (g / 96 / 4) + g % 96 / 12
/-- Core mesh X. -/
def meshX (k : Nat) : Nat := 2 * clx (coreCluster k) + coreK k % 2
/-- Core mesh Y. -/
def meshY (k : Nat) : Nat := 4 * cly (coreCluster k) + coreK k / 2
/-- The core at mesh coordinates (spec/08_copy.md R180). -/
def meshCore (mx my : Nat) : Nat :=
  let x := mx / 2
  let y := my / 4
  1024 * (x / 12 + 4 * (y / 8)) + 8 * (x % 12 + 12 * (y % 8)) + (mx % 2 + 2 * (my % 4))
/-- The cluster whose router stands at (x, y). -/
def routerCluster (x y : Nat) : Nat := 96 * (x / 12 + 4 * (y / 8)) + (x % 12 + 12 * (y % 8))

/-! Endpoints of the network: a core's own number, homes, the host port, peers. -/

/-- The endpoint of a home slice. -/
def epHome (g : Nat) : Nat := 0x2000 + g
/-- The endpoint of the host port. -/
def epHost : Nat := 0x3000
/-- An endpoint of fabric peer `q`: its core, home slice or host port `e` (spec/17_network.md R404). -/
def epPeer (q e : Nat) : Nat := 0x10000 * (q + 1) + e
/-- The peer of an endpoint. -/
def epPeerOf (e : Nat) : Nat := e / 0x10000 - 1
/-- Whether an endpoint is a core. -/
def epIsCore (e : Nat) : Bool := decide (e < 0x2000)
/-- Whether an endpoint is a core or a control core: it takes the replies to its own accesses. -/
def epRuns (e : Nat) : Bool := epIsCore e || isControl e
/-- Whether an endpoint is a home slice. -/
def epIsHome (e : Nat) : Bool := decide (0x2000 ≤ e) && decide (e < 0x3000)
/-- Whether an endpoint is a fabric peer's. -/
def epIsPeer (e : Nat) : Bool := decide (0x10000 ≤ e)
/-- The core id by which routes and wheys name an endpoint (spec/17_network.md R400, R413): that of a home slice is its cluster's core 0, that of the
host port 0x1FFF. -/
def epCoreId (e : Nat) : Nat :=
  let x := e % 0x10000
  if epIsCore x then x else if epIsHome x then core0 (x - 0x2000) else 0x1FFF
/-- The router of an endpoint: a cluster's own, router (0, 8) for the host port (spec/19_debug.md R456), router (0, 0) for
a peer, whose port is chosen by `Net`. -/
def epRouter (e : Nat) : Nat :=
  if epIsCore e then coreCluster e else if epIsHome e then e - 0x2000 else if e = epHost then routerCluster 0 8 else 0

/-! Places (spec/16_model.md R374). -/

/-- Place of byte `o` of core `k`'s array. Log: DESIGN CHOICE, notes/assumptions/3.md. -/
def placePad (k o : Nat) : Nat := 2 ^ 40 + k * 2 ^ 20 + o
/-- Place of byte `o` of the instruction store of cluster `g` (offsets 0x8_0000 and tags 0x9_0000 of spec/06_memory.md R115). Log: DESIGN CHOICE,
notes/assumptions/3.md. -/
def placeStore (g o : Nat) : Nat := placePad (core0 g) o
/-- Place of a device-memory byte; an address at or above 512 GiB names no byte of device memory and has a place of its own, where nothing is. Log:
DESIGN CHOICE, notes/assumptions/3.md. -/
def placeDev (pa : Nat) : Nat := if pa < 2 ^ 39 then pa else 2 ^ 70 + pa
/-- Place of a host-memory byte. Log: DESIGN CHOICE, notes/assumptions/3.md. -/
def placeHost (pa : Nat) : Nat := 2 ^ 65 + pa
/-- Place of a byte of peer `q`. Log: DESIGN CHOICE, notes/assumptions/3.md. -/
def placePeer (q pa : Nat) : Nat := 2 ^ 66 + q * 2 ^ 48 + pa
/-- The address of a place: its aperture address for an array or an instruction store, else its physical address (spec/06_memory.md R115, R120). -/
def placeAddr (p : Nat) : Nat :=
  if decide (2 ^ 40 ≤ p) && decide (p < 2 ^ 41) then 2 ^ 32 + (p - 2 ^ 40)
  else if p < 2 ^ 65 then p else if p < 2 ^ 66 then p - 2 ^ 65 else p % 2 ^ 48
/-- Whether a place is a byte of some core's array or of an instruction store. -/
def isPad (p : Nat) : Bool := decide (2 ^ 40 ≤ p) && decide (p < 2 ^ 41)
/-- The core a place of the arrays belongs to. -/
def padCore (p : Nat) : Nat := (p - 2 ^ 40) / 2 ^ 20
/-- The offset of a place of the arrays. -/
def padOff (p : Nat) : Nat := (p - 2 ^ 40) % 2 ^ 20
/-- Whether a place is device memory. -/
def isDev (p : Nat) : Bool := decide (p < 2 ^ 39)

/-! The one memory. -/

/-- What an address that memory does not list reads as. (DESIGN CHOICE, notes/assumptions/1.md). -/
def Memory.unlisted : Byte := 0

/-- A memory: address and byte pairs in canonical form. -/
abbrev Memory := List Host.Cell

/-- The canonical form: addresses strictly rising, no entry equal to what an unlisted address reads as. -/
def Memory.wf : Memory → Bool
  | [] => true
  | (a, b) :: t => decide (b ≠ Memory.unlisted) && (match t with | [] => true | (a', _) :: _ => decide (a < a')) && Memory.wf t

/-- The byte at a place. Log: DESIGN CHOICE, notes/assumptions/1.md; DESIGN CHOICE, notes/assumptions/3.md. -/
def Memory.read : Memory → Nat → Byte
  | [], _ => Memory.unlisted
  | (a, b) :: t, p => if a = p then b else if p < a then Memory.unlisted else Memory.read t p

/-- Write one byte, keeping the canonical form. -/
def Memory.write : Memory → Nat → Byte → Memory
  | [], p, v => if v = Memory.unlisted then [] else [(p, v)]
  | (a, b) :: t, p, v =>
    if p < a then (if v = Memory.unlisted then (a, b) :: t else (p, v) :: (a, b) :: t)
    else if p = a then (if v = Memory.unlisted then t else (p, v) :: t)
    else (a, b) :: Memory.write t p v

/-- Write the bytes of a list from place `p` on. -/
def Memory.writeList (m : Memory) (p : Nat) : List Byte → Memory
  | [] => m
  | b :: t => Memory.writeList (m.write p b) (p + 1) t

/-- The `n` bytes from place `p` on. -/
def Memory.readList (m : Memory) (p : Nat) : Nat → List Byte
  | 0 => []
  | n + 1 => m.read p :: Memory.readList m (p + 1) n

/-- Put `n` bytes from place `p` on back to what an unlisted address reads as. -/
def Memory.clear (m : Memory) (p n : Nat) : Memory := m.filter fun c => !(decide (p ≤ c.1) && decide (c.1 < p + n))

/-- The little-endian number of a byte list (spec/00_scope.md R3). -/
def leNat : List Byte → Nat
  | [] => 0
  | b :: t => b.toNat + 256 * leNat t

/-- The `n` little-endian bytes of a number. -/
def leBytes : Nat → Nat → List Byte
  | 0, _ => []
  | n + 1, v => BitVec.ofNat 8 v :: leBytes n (v / 256)

/-- The byte at place `p`. -/
def State.byte (s : State) (p : Nat) : Byte := Memory.read s.mem p
/-- The little-endian number of `n` bytes at place `p`. -/
def State.load (s : State) (p n : Nat) : Nat := leNat (Memory.readList s.mem p n)
/-- Write the low `n` bytes of a number at place `p`. -/
def State.store (s : State) (p n v : Nat) : State := { s with mem := Memory.writeList s.mem p (leBytes n v) }
/-- Write a byte list at place `p`. -/
def State.storeList (s : State) (p : Nat) (bs : List Byte) : State := { s with mem := Memory.writeList s.mem p bs }
/-- Zero `n` bytes at place `p`. -/
def State.zero (s : State) (p n : Nat) : State := { s with mem := Memory.clear s.mem p n }
/-- Copy `n` bytes between places. -/
def State.copyBytes (s : State) (src dst n : Nat) : State := s.storeList dst (Memory.readList s.mem src n)

/-- The 128 bytes of the line at place `p`, which is a multiple of 128. -/
def State.line (s : State) (p : Nat) : BitVec 1024 := BitVec.ofNat 1024 (s.load p 128)

/-- Byte `i` of a line. -/
def lineByte (d : BitVec 1024) (i : Nat) : Byte := BitVec.ofNat 8 (d.toNat >>> (8 * i))

/-- Write those bytes of a line that a mask names, from byte `i` on. -/
def Memory.writeMasked (m : Memory) (p : Nat) (mask : BitVec 128) (d : BitVec 1024) : Nat → Memory
  | 0 => m
  | n + 1 =>
    let m' := Memory.writeMasked m p mask d n
    if mask.getLsbD n then m'.write (p + n) (lineByte d n) else m'

/-- Write the masked bytes of a line at its place. -/
def State.writeLine (s : State) (p : Nat) (mask : BitVec 128) (d : BitVec 1024) : State :=
  { s with mem := Memory.writeMasked s.mem p mask d 128 }

/-- The mask of `n` bytes from byte `o` of a line. -/
def byteMask (o n : Nat) : BitVec 128 := BitVec.ofNat 128 ((2 ^ n - 1) * 2 ^ o)

/-- Those bytes of `d` that `mask` names, over the bytes of `old`. -/
def mergeLine (old d : BitVec 1024) (mask : BitVec 128) : BitVec 1024 :=
  let rec go : Nat → Nat
    | 0 => 0
    | n + 1 => go n + ((if mask.getLsbD n then lineByte d n else lineByte old n).toNat <<< (8 * n))
  BitVec.ofNat 1024 (go 128)

/-- The line a place lies in. -/
def lineOf (p : Nat) : Nat := p / 128 * 128

/-- Reads of a copy in flight. -/
def Copy.reads (x : Copy) : Nat := x.asked.length

/-! Components of the state. -/

/-- The record of a core. -/
def State.core (s : State) (k : Nat) : Core := Map.get {} s.cores k
/-- Replace the record of a core. -/
def State.setCore (s : State) (k : Nat) (c : Core) : State := { s with cores := Map.put s.cores k c }
/-- Change the record of a core. -/
def State.modCore (s : State) (k : Nat) (f : Core → Core) : State := s.setCore k (f (s.core k))
/-- The record of a cluster. -/
def State.cluster (s : State) (g : Nat) : Cluster := Map.get {} s.clusters g
/-- Messages in a home's hold queue (spec/10_actors.md R232). -/
def Cluster.waiting (c : Cluster) : Nat := (c.hold.filter fun w => match w with | .msg _ _ => true | .req _ => false).length
/-- Replace the record of a cluster. -/
def State.setCluster (s : State) (g : Nat) (c : Cluster) : State := { s with clusters := Map.put s.clusters g c }
/-- Change the record of a cluster. -/
def State.modCluster (s : State) (g : Nat) (f : Cluster → Cluster) : State := s.setCluster g (f (s.cluster g))
/-- The record of an endpoint. -/
def State.ep (s : State) (e : Nat) : Endpoint := Map.get {} s.eps e
/-- Change the record of an endpoint. -/
def State.modEp (s : State) (e : Nat) (f : Endpoint → Endpoint) : State := { s with eps := Map.put s.eps e (f (s.ep e)) }
/-- The record of a job. -/
def State.job (s : State) (j : Nat) : Job := Map.get {} s.jobs j
/-- Change the record of a job. -/
def State.modJob (s : State) (j : Nat) (f : Job → Job) : State := { s with jobs := Map.put s.jobs j (f (s.job j)) }
/-- A class descriptor. -/
def State.cls (s : State) (c : BitVec 12) : ClassDesc := Map.get {} s.classes c.toNat
/-- Change a class descriptor. -/
def State.modCls (s : State) (c : BitVec 12) (f : ClassDesc → ClassDesc) : State :=
  { s with classes := Map.put s.classes c.toNat (f (s.cls c)) }
/-- A placement domain, which is also a homing mask (spec/10_actors.md R228). -/
def State.domain (s : State) (d : Nat) : Domain := Map.get {} s.domains d
/-- The home of a numerics group (spec/12_numbers.md R290). -/
def groupHome (n : Nat) : Nat := 3 * n % 768
/-- A numerics group record, which lives at its home. -/
def State.group (s : State) (n : Nat) : Group := Map.get {} (s.cluster (groupHome n)).groups n
/-- Change a numerics group record. -/
def State.modGroup (s : State) (n : Nat) (f : Group → Group) : State :=
  s.modCluster (groupHome n) fun c => { c with groups := Map.put c.groups n (f (s.group n)) }
/-- Change every numerics group record. -/
def State.mapGroups (s : State) (f : Group → Group) : State :=
  { s with clusters := s.clusters.map fun c => (c.1, { c.2 with groups := c.2.groups.map fun g => (g.1, f g.2) }) }
/-- A queue. -/
def State.queue (s : State) (q : Nat) : Queue := Map.get {} s.queues q
/-- Change a queue. -/
def State.modQueue (s : State) (q : Nat) (f : Queue → Queue) : State := { s with queues := Map.put s.queues q (f (s.queue q)) }
/-- The record of the core that executes. -/
def State.c (s : State) : Core := s.core s.cur
/-- Replace the record of the core that executes. -/
def State.setC (s : State) (c : Core) : State := s.setCore s.cur c
/-- Change the record of the core that executes. -/
def State.modC (s : State) (f : Core → Core) : State := s.modCore s.cur f
/-- Tenths of a core cycle in one tick, by power state. Log: DESIGN CHOICE, notes/assumptions/73.md. -/
def State.rate (s : State) : Nat :=
  if s.tripped then 0 else if s.power = 0 then 18 else if s.power = 1 then 15 else if s.power = 2 then 12 else 0

/-- Core cycles since device reset. -/
def State.cycles (s : State) : Nat := s.cyc10 / 10
/-- A fresh identity. -/
def State.fresh (s : State) : Nat × State := (s.nextId, { s with nextId := s.nextId + 1 })

/-! Pending words of a matrix engine (spec/14_matrix.md R339). -/

/-- A `mat.slot` write takes effect: 16 slot codes, the weights, or the time of a switch. -/
def Engine.write (e : Engine) (w : SlotWrite) : Engine :=
  let nib (n : Nat) : Nat := w.val.toNat / 16 ^ n % 16
  if w.idx < 4 then { e with pend := (List.range 16).foldl (fun (m : Map Nat) n => Map.put m (16 * w.idx + n) (nib n)) e.pend }
  else if w.idx = 4 then { e with pendW := (List.range 8).foldl (fun (m : Map Nat) n => Map.put m n (nib n)) e.pendW }
  else { e with armed := some w.val, armedAt := w.due / 20 }

/-- A `mat.slot` write is taken back: off its way, or, where it has arrived, the words it replaced are put back. Log: DEDUCED, notes/assumptions/37.md. -/
def Engine.undoSlot (e : Engine) (u : SlotUndo) : Engine :=
  if e.coming.any fun w => decide (w.id = u.id) then { e with coming := e.coming.filter fun w => decide (w.id ≠ u.id) }
  else if u.idx < 4 then
    { e with pend := (List.range 16).foldl (fun (m : Map Nat) n => Map.put m (16 * u.idx + n) (Map.get 8 u.pend (16 * u.idx + n))) e.pend }
  else if u.idx = 4 then { e with pendW := (List.range 8).foldl (fun (m : Map Nat) n => Map.put m n (Map.get 1 u.pendW n)) e.pendW }
  else { e with armed := u.armed, armedAt := u.armedAt }

/-! Clusters of masks, homes. -/

/-- The clusters set in a mask, in ascending order. -/
def maskClusters (m : BitVec 768) : List Nat := (List.range 768).filter fun g => m.getLsbD g

/-- The hash of a physical line (spec/06_memory.md R120). -/
def lineHash (pa : Nat) : Nat :=
  let l := pa / 128
  (l % 65536) ^^^ (l / 65536 % 65536) ^^^ (l / 2 ^ 32 % 512)

/-- The `h mod n`-th cluster of a mask, or 0 for an empty one. -/
def maskPick (m : BitVec 768) (h : Nat) : Nat :=
  let cs := maskClusters m
  cs.getD (h % cs.length) 0

/-- The table home of a page-table entry (spec/06_memory.md R121). -/
def tableHome (pa : Nat) : Nat := lineHash pa % 768

/-- The L2 home of a line of a TGT 0 page with leaf entry `leaf` (spec/06_memory.md R117, R120). -/
def State.leafHome (s : State) (leaf : XWord) (pa : Nat) : Nat :=
  if leaf.getLsbD 5 then maskPick (s.domain ((leaf.extractLsb' 6 6).toNat)).mask (lineHash pa)
  else (leaf.extractLsb' 6 10).toNat

/-- An L2 slice touches the line at its home (spec/06_memory.md R477): most recently used first, 16 ways. Log: DESIGN CHOICE,
notes/assumptions/11.md; DEDUCED, notes/assumptions/75.md. -/
def State.l2Touch (s : State) (g pa : Nat) : State :=
  s.modCluster g fun c =>
    let set := pa / 128 % 512
    let ways := Map.get [] c.l2 set
    { c with l2 := Map.put c.l2 set ((lineOf pa :: ways.filter (· ≠ lineOf pa)).take 16) }

/-- Touch the L2 home of a device-memory place. -/
def State.touchPlace (s : State) (ep p : Nat) : State := if isDev p && epIsHome ep then s.l2Touch (ep - 0x2000) p else s

end Sys2Proof.Machine
end

