-- ==== Sys2Proof/Machine/Pool.lean ====
section
/-! DEFINITION. The front-end pool: its idle cores, the event they take next, and the completion of a queue's packets (spec/18_frontend.md
R432 to R437). -/

namespace Sys2Proof.Machine

/-- Front-end cores. Log: DESIGN CHOICE, notes/assumptions/88.md. -/
def poolSize : Nat := 12

/-- The front-end cores that hold a queue's lock. -/
def State.poolBusy (s : State) : List Nat := s.queues.filterMap fun q => q.2.lock

/-- An idle front-end core that is not fenced out: the lowest. -/
def State.poolIdle (s : State) : Option Nat :=
  (List.range poolSize).find? fun i => !s.fenced.contains i && !s.poolBusy.contains i

/-- The events that stand in the queue: every tail event, and `n` others at most; later ones wait at their producers, in their order
(spec/18_frontend.md R434). -/
def inQueue : Nat → List FeEvent → List FeEvent
  | _, [] => []
  | n, .tail q :: t => .tail q :: inQueue n t
  | 0, _ :: t => inQueue 0 t
  | n + 1, e :: t => e :: inQueue n t

/-- Whether an event names no queue whose ordering lock is held. -/
def State.unlocked (s : State) (e : FeEvent) : Bool :=
  match e with | .tail q => (s.queue q).lock.isNone | .refused q _ _ => (s.queue q).lock.isNone | _ => true

/-- The event an idle front-end core takes next: the oldest in the queue that names no queue whose lock is held. -/
def State.poolNext (s : State) : Option FeEvent := (inQueue 256 s.feEvents).find? s.unlocked

/-- Whether an idle front-end core could take an event now. -/
def State.poolTakes (s : State) (e : FeEvent) : Bool := s.poolIdle.isSome && decide (s.poolNext = some e)

/-- Take an event off the queue. -/
def State.poolDrop (s : State) (e : FeEvent) : State := { s with feEvents := s.feEvents.erase e }

/-- The reconcile timer raises its event every 10,000 ticks, while none is pending (spec/18_frontend.md R431, R434). -/
def State.raiseReconcile (s : State) : State :=
  if s.dtime < s.nextShadow ∨ s.boot.state ≠ 3 then s
  else
    { s with
      nextShadow := (s.dtime / 10000 + 1) * 10000
      feEvents := if s.feEvents.contains .reconcile then s.feEvents else s.feEvents ++ [.reconcile] }

/-- An idle front-end core takes the report of an error, or the refusal of a part, whose resend may now go (spec/18_frontend.md R433, R434). What it does
with a report is Fleiz's own (DESIGN CHOICE, notes/assumptions/50.md). -/
def State.serve (s : State) : State :=
  match s.poolIdle, s.poolNext with
  | some _, some (.report a b) => if s.boot.state = 3 then s.poolDrop (.report a b) else s
  | some _, some (.refused q t g) => if s.boot.state = 3 then s.poolDrop (.refused q t g) else s
  | _, _ => s

/-! Queues (spec/18_frontend.md R432 to R436). -/

/-- A tail event of a queue: one is pending at most. -/
def State.raiseTail (s : State) (q : Nat) : State :=
  if s.feEvents.contains (.tail q) then s else { s with feEvents := s.feEvents ++ [.tail q] }

/-- Whether a refused part of a queue is not accepted yet (spec/18_frontend.md R433). -/
def State.hostRefused (s : State) (q : Nat) : Bool :=
  (s.ep epHost).retain.any fun r => decide (0 < r.refusals) && match r.pkt.body with | .msg m => decide (m.kind = 2) && decide (m.skey.toNat = q) | _ => false

/-- Whether a packet of a queue has completed. -/
def QPacket.complete (p : QPacket) : Bool := p.whole && decide (p.accepted = p.injected) && p.fence.isNone

/-- The completed packets at the front of a queue leave it, in ring order, and are counted. -/
def Queue.reported (x : Queue) : Queue :=
  match x.open_.takeWhile QPacket.complete with
  | [] => x
  | l => { x with open_ := x.open_.drop l.length, count := x.count + BitVec.ofNat 16 l.length, status := ((l.map (·.status)).getLast?).getD 0 }

/-- Write a queue's completion word (spec/18_frontend.md R432). Log: DEDUCED, notes/assumptions/41.md. -/
def State.writeCompletion (s : State) (q : Nat) : State :=
  let x := s.queue q
  s.store (placeHost (x.compl.toNat / 8 * 8)) 8 (x.status * 2 ^ 16 + x.count.toNat)

/-- Whether every part a queue has injected has been accepted. -/
def Queue.quiet (x : Queue) : Bool := x.open_.all fun p => decide (p.accepted = p.injected)

/-- What follows when a part is accepted, a packet ends or a drain starts: completed packets are reported, a drain ends, and work left behind
raises a tail event (spec/18_frontend.md R432, R433, R436). -/
def State.settleQueue (s : State) (q : Nat) : State :=
  let x := s.queue q
  let y := x.reported
  let s := if x.open_.length = y.open_.length then s else (s.modQueue q fun _ => y).writeCompletion q
  if y.state = 2 ∧ y.lock.isNone ∧ y.quiet then (s.modQueue q fun z => { z with state := 0 }).writeCompletion q
  else if y.state = 1 ∧ y.lock.isNone ∧ y.head ≠ y.tail ∧ !s.hostRefused q then s.raiseTail q
  else s

/-- The drain stops a dispatch (spec/18_frontend.md R436): the rest of the packet is discarded, which completes with PARTIAL if a part was injected;
undispatched packets are discarded. -/
def State.stopDispatch (s : State) (q : Nat) : State :=
  (s.modQueue q fun x =>
    { x with head := x.tail, part := 0, lock := none
             open_ := x.open_.map fun p => if p.whole then p else { p with whole := true, status := 1 } }).settleQueue q

/-- A draining queue that no front-end core serves is stopped at once. -/
def State.stopIdle (s : State) (q : Nat) : State :=
  if (s.queue q).state = 2 ∧ (s.queue q).lock.isNone then s.stopDispatch q else s

end Sys2Proof.Machine
end

