-- ==== Sys2Proof/Machine/Regs.lean ====
section
/-! DEFINITION. The named operations over a core's registers: windows (spec/05_windows.md R90 to R92), full/empty bits
(spec/04_scalar.md R66 to R69), vector and mask registers, views and copy-engine registers. -/

namespace Sys2Proof.Machine

/-- The physical key of scalar register `n` in frame `d`: globals keep their number, the ins, locals and outs of a frame
slide, so that a frame's outs are the next frame's ins (spec/05_windows.md R90, R91). -/
def physX (n d : Nat) : Nat := if n < 8 then n else 16 * d + n

/-- The key of register `n` now. -/
def Core.key (c : Core) (n : Nat) : Nat := physX n c.ctx.depth

/-- The register at a key. -/
def Core.regAt (c : Core) (key : Nat) : Reg := Map.get {} c.xs key

/-- Register `n` now; x0 is zero and full (spec/02_notation.md R29, spec/04_scalar.md R66). -/
def Core.reg (c : Core) (n : Nat) : Reg := if n = 0 then {} else c.regAt (c.key n)

/-- The value of register `n`. -/
def Core.x (c : Core) (n : BitVec 5) : XWord := (c.reg n.toNat).val

/-- Put a register at a key; key 0 is x0 and keeps its zero. -/
def Core.putKey (c : Core) (key : Nat) (r : Reg) : Core := if key = 0 then c else { c with xs := Map.put c.xs key r, writes := c.writes + 1 }

/-- Write register `n` and mark it full; writes of x0 are discarded (spec/04_scalar.md R70). -/
def Core.setX (c : Core) (n : BitVec 5) (v : XWord) : Core := c.putKey (if n.toNat = 0 then 0 else c.key n.toNat) ⟨v, true⟩

/-- The destination key of register `n`; 0 for x0. -/
def Core.destKey (c : Core) (n : BitVec 5) : Nat := if n.toNat = 0 then 0 else c.key n.toNat

/-- Mark a destination empty, keeping its old value (spec/06_memory.md R133). -/
def Core.setEmptyKey (c : Core) (key : Nat) : Core := c.putKey key { c.regAt key with full := false }

/-- Put locals and outs 16 to 31 of a new frame at zero and full (spec/05_windows.md R91, R94). -/
def Core.freshFrame (c : Core) (d : Nat) : Core :=
  { c with xs := (List.range 16).foldl (fun m i => Map.put m (16 * d + 16 + i) {}) c.xs }

/-- The vector register `n`. -/
def Core.v (c : Core) (n : Nat) : VReg := Map.get {} c.vs n
/-- Put vector register `n`. -/
def Core.putV (c : Core) (n : Nat) (r : VReg) : Core := { c with vs := Map.put c.vs n r, writes := c.writes + 1 }
/-- Write vector register `n` and mark it full. -/
def Core.setV (c : Core) (n : Nat) (v : VWord) : Core := c.putV n ⟨v, true⟩

/-- Mask register `n`; m0 reads as 128 ones (spec/13_vector.md R298). -/
def Core.mask (c : Core) (n : BitVec 3) : MWord := if n = 0 then BitVec.allOnes 128 else Map.get 0 c.ms n.toNat
/-- Write mask register `n`; a write of m0 is discarded. -/
def Core.setMask (c : Core) (n : BitVec 3) (v : MWord) : Core :=
  if n = 0 then c else { c with ms := Map.put c.ms n.toNat v, writes := c.writes + 1 }

/-- View register `q`. -/
def Core.view (c : Core) (q : Nat) : View := Map.get {} c.ctx.views q
/-- Change the context. -/
def Core.modCtx (c : Core) (f : Ctx → Ctx) : Core := { c with ctx := f c.ctx }
/-- Put view register `q`. -/
def Core.setView (c : Core) (q : Nat) (v : View) : Core :=
  { c with ctx := { c.ctx with views := Map.put c.ctx.views q v }, writes := c.writes + 1 }
/-- Change STATUS. -/
def Core.modStatus (c : Core) (f : Status → Status) : Core := c.modCtx fun x => { x with status := f x.status }

/-- A change that no rollback undoes: it reaches the context and every undo-log entry (an engine's flags, a copy's tag). -/
def Core.modCtxAll (c : Core) (f : Ctx → Ctx) : Core :=
  { c with ctx := f c.ctx, undo := c.undo.map fun e => { e with ctx := f e.ctx } }

/-! Windows (spec/05_windows.md R92, R97, R99). -/

/-- Number of mirrored registers. -/
def popCount (n : Nat) : Nat → Nat
  | 0 => 0
  | k + 1 => (if n.testBit k then 1 else 0) + popCount n k

/-- NWIN = 64 * RBANKS - 1 - V - M. -/
def Core.nwin (c : Core) : Int := 64 * c.carve.rb - 1 - c.ctx.allotV - popCount c.ctx.mirror.toNat 32

/-- Window slots not in use. -/
def Core.freeSlots (c : Core) : Int := c.nwin - (c.ctx.depth - c.ctx.spilled + 2)

/-- Whether the next spill image fits: SPILLBASE + 128 * (O + 1) at most SPILLLIM, counted in lines. -/
def Core.spillFits (c : Core) : Bool := decide (c.ctx.spillBase.toNat + c.ctx.spilled + 1 ≤ c.ctx.spillLim.toNat)

/-- The first image from frame `o` on that does not fit: its address (spec/05_windows.md R97, R113). -/
def Core.imageOut (c : Core) : XWord := BitVec.ofNat 64 (128 * max (c.ctx.spillBase.toNat + c.ctx.spilled) c.ctx.spillLim.toNat)

/-- Whether every spill that `m` further slots need fits (spec/05_windows.md R99): the frames below DEPTH + 2 + m − NWIN have left. -/
def Core.spillsFit (c : Core) (m : Nat) : Bool :=
  decide ((c.ctx.spillBase.toNat : Int) + (c.ctx.depth + 2 + m - c.nwin) ≤ c.ctx.spillLim.toNat)

/-- Start a spill when no slot is free and the image fits (spec/05_windows.md R97). Log: DESIGN CHOICE, notes/assumptions/107.md. -/
def Core.startSpill (c : Core) : Core :=
  if decide (c.freeSlots ≤ 0) && c.eng == .idle && c.spillFits && decide (c.ctx.spilled < c.ctx.depth) then { c with eng := .spilling }
  else c

/-- Whether a spill is started or running, or starts when the fill under way ends (spec/05_windows.md R94, R97). -/
def Core.spillDue (c : Core) : Bool :=
  decide (c.eng = .spilling) || (decide (c.eng = .filling) && c.spillFits && decide (c.ctx.spilled < c.ctx.depth))

/-- Start a fill when only the current frame is resident (spec/05_windows.md R97). A spill that has been started and finds its frame the running one
has nothing to move: it is dropped, and the fill takes its place. Log: DESIGN CHOICE, notes/assumptions/90.md; DESIGN CHOICE,
notes/assumptions/107.md. -/
def Core.startFill (c : Core) : Core :=
  if c.ctx.spilled ≠ c.ctx.depth then c
  else if 0 < c.ctx.spilled then { c with eng := .filling }
  else if c.eng = .spilling then { c with eng := .idle }
  else c

/-- Whether a producer is outstanding for one of x16 to x31 (spec/05_windows.md R95). -/
def Core.outPending (c : Core) : Bool := (List.range 16).any fun i => !(c.reg (16 + i)).full

/-- Enter a new frame: the interrupted or calling frame's outs become the ins (spec/05_windows.md R94, spec/15_system.md R355). -/
def Core.pushFrame (c : Core) : Core :=
  let d := c.ctx.depth + 1
  ((c.modCtx fun x => { x with depth := d }).freshFrame d).startSpill

/-- Leave the current frame (spec/05_windows.md R95). -/
def Core.popFrame (c : Core) : Core := (c.modCtx fun x => { x with depth := x.depth - 1 }).startFill

/-! Carve-out (spec/05_windows.md R103, R114 of spec/06_memory.md). -/

/-- SPSIZE of a carve-out in bytes. -/
def Carve.spsize (v : Carve) : Nat := (48 - v.rb - v.lb) * 8192
/-- SPSIZE of a core. -/
def Core.spsize (c : Core) : Nat := c.carve.spsize
/-- SPILLBASE at activation entry, as a line (spec/05_windows.md R103). -/
def Carve.spillLine (v : Carve) : Nat := (v.spsize - 1024 * v.sk) / 128
/-- The carve-out word. -/
def Carve.word (v : Carve) : XWord := BitVec.ofNat 64 (v.rb + v.lb * 2 ^ 4 + v.sk * 2 ^ 16)
/-- The fields of a carve-out word. -/
def Carve.ofWord (w : XWord) : Carve :=
  { rb := (w.extractLsb' 0 3).toNat, lb := (w.extractLsb' 4 5).toNat, sk := (w.extractLsb' 16 7).toNat }
/-- Whether the fields lie in their ranges. -/
def Carve.ok (v : Carve) : Bool :=
  decide (2 ≤ v.rb) && decide (v.rb ≤ 6) && decide (v.lb ≤ 16) && decide (1 ≤ v.sk) && decide (v.sk ≤ 64)

/-- Whether an acquire's write-backs are still on their way (spec/06_memory.md R131). -/
def Core.draining (c : Core) : Bool := c.drain && c.posted.any fun p => decide (p.kind = 3)

/-- Whether the own scratchpad line of byte `o` is full (spec/06_memory.md R125). -/
def Core.lineFull (c : Core) (o : Nat) : Bool := !(c.empty.contains (o / 128))
/-- Mark a line empty. -/
def Core.markEmpty (c : Core) (l : Nat) : Core := { c with empty := if c.empty.contains l then c.empty else l :: c.empty }
/-- Mark a line full. -/
def Core.markFull (c : Core) (l : Nat) : Core := { c with empty := c.empty.filter (· ≠ l) }

/-! Copy-engine registers (spec/08_copy.md R173 to R177). -/

/-- The defined bits of copy-engine register `n`. -/
def ceMask (n : Nat) : XWord :=
  if n = 0 then 0x3FF77F3F else if n ≤ 8 then 0xFFFFFFFF0000FFFF
  else if n = 9 then 0x0000FFFF7F7F3F7F else if n = 10 then 0x0073FFFF else BitVec.allOnes 64
/-- Reset value of register `n`. -/
def ceReset (n : Nat) : XWord := if 1 ≤ n ∧ n ≤ 8 then 1 else 0
/-- Register `n` of the engine. -/
def Ctx.ceReg (x : Ctx) (n : Nat) : XWord := Map.get (ceReset n) x.ce n

/-- Whether the engine holds a copy (spec/08_copy.md R183): one that has completed or failed is held no more, but while its push waits for room in the
deque (spec/11_tasks.md R251). -/
def Copy.held (x : Copy) : Bool := match x.st with | .acting _ => decide (x.ctl.extractLsb' 4 2 = 2) | _ => true

/-- Copies the engine holds, at most 64. -/
def Core.heldCopies (c : Core) : Nat := (c.copies.filter (·.held)).length

/-- CSTAT (spec/08_copy.md R178). -/
def Core.cstat (c : Core) : XWord :=
  c.copySeq ++ (0 : BitVec 17) ++ BitVec.ofNat 7 c.heldCopies ++ (0 : BitVec 2) ++ c.ctx.rot

/-! Views as words (spec/07_views.md R151, R153). -/

/-- One bit. -/
def bb (b : Bool) : BitVec 1 := if b then 1 else 0

/-- The header word of a view. -/
def View.header (v : View) : XWord :=
  bb v.live ++ (0 : BitVec 40) ++ v.scope ++ (0 : BitVec 1) ++ v.kdim ++ bb v.sce ++ v.scv ++ (0 : BitVec 2)
    ++ v.rankm1 ++ v.perm ++ (0 : BitVec 1) ++ v.ty

/-- A dimension word. -/
def Dim.word (d : Dim) : XWord := d.stride ++ d.origin ++ d.extent

/-- Dimension `n` of a view. -/
def View.dim (v : View) (n : Nat) : Dim := match n with | 0 => v.d0 | 1 => v.d1 | 2 => v.d2 | _ => v.d3
/-- Replace dimension `n`. -/
def View.setDim (v : View) (n : Nat) (d : Dim) : View :=
  match n with | 0 => { v with d0 := d } | 1 => { v with d1 := d } | 2 => { v with d2 := d } | _ => { v with d3 := d }
/-- The rank. -/
def View.rank (v : View) : Nat := v.rankm1.toNat + 1

/-! Status word (spec/15_system.md R348). -/

/-- STATUS as software reads it. -/
def Status.word (t : Status) (preq : Bool) : XWord :=
  t.tdepth ++ (0 : BitVec 31) ++ bb t.resumed ++ (0 : BitVec 2) ++ t.retry ++ (0 : BitVec 1) ++ t.jprio ++ bb t.wrange
    ++ (0 : BitVec 3) ++ bb t.init ++ bb t.task ++ bb preq ++ bb t.decline ++ bb t.intrap

/-! Gates: what an instruction checks, in order, before it has its effect. -/

/-- A check's answer: go on, wait at R, wait with the work the wait begins already begun, or a trap with its cause
and TVAL (spec/02_notation.md R29, R32). -/
inductive Gate where
  | go
  | wait
  | waitWith (s : State)
  | trap (cause : Nat) (tval : XWord)

/-- The first check of a list that does not let the instruction go on (spec/02_notation.md R32: the first in the fault
table's order is taken). -/
def firstStop : List Gate → Gate
  | [] => .go
  | .go :: t => firstStop t
  | g :: _ => g

/-- A wait unless the condition holds. -/
def waitUntil (b : Bool) : Gate := if b then .go else .wait
/-- A trap when the condition holds. -/
def trapIf (b : Bool) (cause : Nat) (tval : XWord) : Gate := if b then .trap cause tval else .go

/-- What an instruction's own rule answers: its completed effect, after which PC moves on by 4 or to a target; an effect after
which the instruction stays where it is and does not complete; a wait; a trap. -/
inductive Ans where
  | done (s : State)
  | jump (s : State) (target : BitVec 32)
  | put (s : State)
  | wait (s : State)
  | trap (cause : Nat) (tval : XWord) (s : State)

/-- The checks in their order, and the effect when all let it go on. -/
def checked (s : State) (gs : List Gate) (k : State) : Ans :=
  match firstStop gs with
  | .go => .done k
  | .wait => .wait s
  | .waitWith s' => .wait s'
  | .trap c v => .trap c v s

/-- As `checked`, where what follows may stop too. -/
def checkedThen (s : State) (gs : List Gate) (k : Unit → Ans) : Ans :=
  match firstStop gs with
  | .go => k ()
  | .wait => .wait s
  | .waitWith s' => .wait s'
  | .trap c v => .trap c v s

/-- TVAL of the empty-operand trap (spec/04_scalar.md R69). -/
def emptyTval (n : BitVec 5) (field : Nat) : XWord := BitVec.ofNat 64 (n.toNat + 256 * field)

/-- E = 1 for a register that another source names with E = 1 (spec/04_scalar.md R67). -/
def effE (srcs : List (Src × Nat)) (r : Src) : Bool := srcs.any fun p => p.1.e && decide (p.1.n = r.n)

/-- The slot of the register partition that holds scalar register `n`: 0 the global line, `1 + f` the slot of frame `f`
(spec/05_windows.md R92). -/
def Core.slotOf (c : Core) (n : Nat) : Nat := if n < 8 then 0 else 1 + (c.key n - 8) / 16
/-- The name of a vector register's line among the slots. -/
def vecSlot (n : Nat) : Nat := 2 ^ 20 + n

/-- First bank of the register partition (spec/05_windows.md R103). -/
def Carve.regBank (v : Carve) : Nat := 48 - v.rb

/-- Bank and line of a failing line: the global line is line 0 of the partition's first bank, a vector register lies in bank n mod RBANKS of the
partition, or in the next where its mirror copy is the one that fails (spec/05_windows.md R103, R109); the rest is as the storage has it, which the
spec leaves open. Log: DESIGN CHOICE, notes/assumptions/101.md. -/
def Core.eccPlace (c : Core) (e : Nat × Nat × Nat) : Nat × Nat :=
  let b := c.carve.regBank
  if e.1 = 0 then (b, 0)
  else if vecSlot 0 ≤ e.1 then
    let n := e.1 - vecSlot 0
    let own := b + n % c.carve.rb
    let copy := b + (n + 1) % c.carve.rb
    (if c.ctx.mirror.getLsbD n && decide (e.2.1 = copy) then copy else own, e.2.2)
  else e.2

/-- The trap of a register that lies in a failing line (spec/15_system.md R353): bit 63, the bank and the line. -/
def Core.eccGate (c : Core) (slot : Nat) : Gate :=
  match c.regEcc.find? fun e => decide (e.1 = slot) with
  | some e => .trap 17 (BitVec.ofNat 64 (2 ^ 63 + (c.eccPlace e).1 * 2 ^ 16 + (c.eccPlace e).2))
  | none => .go

/-- The sources' test (spec/04_scalar.md R67): the first empty one with E = 1 traps; else wait until all are full; a read of failing
storage traps (spec/15_system.md R353). -/
def srcGates (c : Core) (srcs : List (Src × Nat)) : List Gate :=
  (srcs.map fun p => trapIf (!(c.reg p.1.n.toNat).full && effE srcs p.1) 3 (emptyTval p.1.n p.2))
    ++ waitUntil (srcs.all fun p => (c.reg p.1.n.toNat).full)
    :: (srcs.filter fun p => decide (p.1.n ≠ 0)).map fun p => c.eccGate (c.slotOf p.1.n.toNat)

/-- The destination's test (spec/04_scalar.md R68). -/
def destGate (c : Core) (rd : BitVec 5) : Gate := waitUntil (c.reg rd.toNat).full

/-- The wait until every earlier `rld` and atomic has returned good (spec/06_memory.md R134). -/
def goodGate (c : Core) : Gate := waitUntil c.out.isEmpty

end Sys2Proof.Machine
end

