-- ==== Sys2Proof/Machine/Addr.lean ====
section
/-! DEFINITION. Virtual addresses: the regions, the page table, the TLB, and `check`, which every access applies
(spec/06_memory.md R114 to R121). -/

namespace Sys2Proof.Machine

/-- Kinds of access (spec/06_memory.md R116). -/
inductive AKind where
  | read | write | atomic
  deriving DecidableEq, Repr, Inhabited

/-- Where an address lies (spec/06_memory.md R114, R115, R120). -/
inductive Region where
  | own | pad | store | dev | host | peer
  deriving DecidableEq, Repr, Inhabited

/-- A checked target: its region, the place of its byte, the endpoint that serves it, and the TLB page it was translated
through, with its size (0 for none). -/
structure Tgt where
  region : Region
  place : Nat
  ep : Nat
  page : Nat := 0
  size : Nat := 0
  deriving DecidableEq, Repr, Inhabited

/-- The answer of `check`. -/
inductive Chk where
  | ok (t : Tgt)
  | trap (cause : Nat) (tval : XWord)
  | miss
  deriving DecidableEq, Repr, Inhabited

/-- TVAL of a page or permission fault (spec/06_memory.md R116). -/
def accTval (a : XWord) (kind : AKind) (reason : Nat) : XWord :=
  BitVec.ofNat 64 ((if kind = .read then 0 else 2 ^ 63) + (if kind = .atomic then 2 ^ 62 else 0)
    + reason * 2 ^ 56 + a.toNat % 2 ^ 48)

/-! The page table (spec/06_memory.md R117, R118). -/

/-- A page: its virtual base, its size in bytes and its leaf. -/
structure Leaf where
  page : Nat
  size : Nat
  leaf : XWord
  deriving DecidableEq, Repr, Inhabited

/-- Whether a leaf is one that a walk accepts at virtual address `va` (spec/06_memory.md R118). -/
def State.leafOk (s : State) (va size : Nat) (e : XWord) : Bool :=
  let tgt := (e.extractLsb' 60 4).toNat
  let ppn := (e.extractLsb' 16 32).toNat * 65536
  let devRange := decide (2 ^ 40 ≤ va) && decide (va < 0x018000000000)
  decide (tgt < 3) && decide (tgt = 0 ↔ devRange = true) && (decide (tgt ≠ 0) || decide (ppn + size ≤ 2 ^ 39))
    && decide (ppn % size = 0)
    && (if e.getLsbD 5 then decide ((s.domain ((e.extractLsb' 6 6).toNat)).mask ≠ 0) else decide ((e.extractLsb' 6 10).toNat < 768))

/-- Index bits and page size of a level (spec/06_memory.md R117). -/
def levelShift (l : Nat) : Nat := if l = 0 then 39 else if l = 1 then 30 else if l = 2 then 21 else 16
/-- Entries of a level's table. -/
def levelCount (l : Nat) : Nat := if l = 3 then 32 else 512

/-- The entry address of level `l` in the table at `tbl`. -/
def entryAt (tbl va l : Nat) : Nat := tbl + 8 * (va / 2 ^ levelShift l % levelCount l)

/-- The walk from level `l` on, with `fuel` levels left: the leaf, or none for the page fault. Log: DESIGN CHOICE, notes/assumptions/3.md. -/
def State.walkFrom (s : State) (va tbl l : Nat) : Nat → Option Leaf
  | 0 => none
  | fuel + 1 =>
    let e : XWord := BitVec.ofNat 64 (s.load (placeDev (entryAt tbl va l)) 8)
    if !e.getLsbD 0 then none
    else if l = 3 ∨ (e.getLsbD 1 ∧ l ≠ 0) then
      let size := 2 ^ levelShift l
      if s.leafOk va size e then some ⟨va / size * size, size, e⟩ else none
    else if e.getLsbD 1 then none
    else s.walkFrom va ((e.extractLsb' 8 40).toNat * 256) (l + 1) fuel

/-- The walk of an address through a job's page table. -/
def State.walk (s : State) (job va : Nat) : Option Leaf := s.walkFrom va (s.job job).root 0 4

/-- The table entries a walk of `va` reads, for the L2 (spec/06_memory.md R121, R477). -/
def State.walkReads (s : State) (va tbl l : Nat) : Nat → List Nat
  | 0 => []
  | fuel + 1 =>
    let a := entryAt tbl va l
    let e : XWord := BitVec.ofNat 64 (s.load (placeDev a) 8)
    if !e.getLsbD 0 ∨ l = 3 ∨ e.getLsbD 1 then [a]
    else a :: s.walkReads va ((e.extractLsb' 8 40).toNat * 256) (l + 1) fuel

/-- The physical byte of a leaf. -/
def Leaf.pa (e : Leaf) (va : Nat) : Nat := (e.leaf.extractLsb' 16 32).toNat * 65536 + va % e.size

/-- The target of a translated address through a leaf (spec/06_memory.md R120). -/
def State.leafTgt (s : State) (e : Leaf) (va : Nat) : Tgt :=
  let pa := e.pa va
  match (e.leaf.extractLsb' 60 4).toNat with
  | 0 => ⟨.dev, placeDev pa, epHome (s.leafHome e.leaf pa), e.page, e.size⟩
  | 1 => ⟨.host, placeHost pa, epHost, e.page, e.size⟩
  | _ => let q := (e.leaf.extractLsb' 48 12).toNat
         ⟨.peer, placePeer q pa, epPeer q (epHome (Config.peerHome q (pa / 128) % 768)), e.page, e.size⟩

/-- The reason a leaf forbids an access, 0 for none (spec/06_memory.md R119). An atomic other than add, swap and cas names
itself with `amoHost = false`. -/
def leafPerm (e : XWord) (kind : AKind) (amoHost : Bool) : Nat :=
  if kind = .read then 0
  else if !e.getLsbD 2 then 1
  else if e.getLsbD 4 then 2
  else if decide (kind = .atomic) && decide ((e.extractLsb' 60 4).toNat = 1) && !amoHost then 5
  else 0

/-- The TLB entry of a job's address. -/
def tlbFind (l : List Tlb) (job va : Nat) : Option Tlb :=
  l.find? fun t => decide (t.job = job) && decide (t.page ≤ va) && decide (va < t.page + t.size)

/-- The job whose page table and rights an activation uses. -/
def Core.jobNum (c : Core) : Nat := match c.act with | some a => a.job | none => 0

/-- `check` for one access of `n` bytes under a job (spec/06_memory.md R114 to R119): misaligned, local range, page, permission. -/
def State.checkAs (s : State) (k jobNum : Nat) (a : XWord) (n : Nat) (kind : AKind) (amoHost : Bool := true) : Chk :=
  let c := s.core k
  let v := a.toNat
  let job := s.job jobNum
  if v % n ≠ 0 then .trap 4 a
  else if 2 ^ 48 ≤ v then .trap 5 a
  else if v < 0x60000 then (if v + n ≤ c.spsize then .ok ⟨.own, placePad k v, k, 0, 0⟩ else .trap 5 a)
  else if v < 2 ^ 32 then .trap 5 a
  else if v < 0x000300000000 then
    let t := (v - 2 ^ 32) / 2 ^ 20
    let o := (v - 2 ^ 32) % 2 ^ 20
    let pad := decide (o < 0x60000)
    let st := decide (0x80000 ≤ o) && decide (o < 0x90000)
    let tg := decide (0x90000 ≤ o) && decide (o < 0x90080)
    if !(isCore t) || !(pad || st || tg) then .trap 5 a
    else if !job.cset.getLsbD (coreCluster t) then .trap 7 (accTval a kind 3)
    else if !pad && (decide (kind = .atomic) || (decide (kind = .write) && !job.codeRight)) then .trap 7 (accTval a kind 4)
    else if pad then .ok ⟨.pad, placePad t o, t, 0, 0⟩
    else .ok ⟨.store, placeStore (coreCluster t) o, core0 (coreCluster t), 0, 0⟩
  else if v < 2 ^ 40 then .trap 6 (accTval a kind 0)
  else
    match tlbFind (s.cluster (coreCluster k)).tlb jobNum v with
    | none => .miss
    | some t =>
      let r := leafPerm t.leaf kind amoHost
      if r ≠ 0 then .trap 7 (accTval a kind r) else .ok (s.leafTgt ⟨t.page, t.size, t.leaf⟩ v)

/-- `check` for an access of the running activation. -/
def State.check (s : State) (k : Nat) (a : XWord) (n : Nat) (kind : AKind) (amoHost : Bool := true) : Chk :=
  s.checkAs k (s.core k).jobNum a n kind amoHost

/-- A TLB entry of a job becomes the most recently used (spec/06_memory.md R121). -/
def State.tlbTouchAs (s : State) (k jobNum page size : Nat) : State :=
  if size = 0 then s
  else s.modCluster (coreCluster k) fun g =>
    match g.tlb.find? fun t => decide (t.job = jobNum) && decide (t.page = page) with
    | some t => { g with tlb := t :: g.tlb.filter fun u => !(decide (u.job = t.job) && decide (u.page = t.page)) }
    | none => g

/-- A TLB entry of the running activation becomes the most recently used. Log: DEDUCED, notes/assumptions/75.md. -/
def State.tlbTouch (s : State) (k page size : Nat) : State := s.tlbTouchAs k (s.core k).jobNum page size

/-- Start, or join, the walk of an address (spec/06_memory.md R121): misses to one page of a die, whatever its size, share a walk; while all 32
walkers of the die are busy the miss waits. -/
def State.startWalk (s : State) (k job va : Nat) (w : Waiter) : State :=
  let die := coreDie k
  let page := va / 65536 * 65536
  let g := coreCluster k
  let mate (x : Walk) : Bool :=
    match s.walk job va with
    | some e => decide (e.page ≤ x.page) && decide (x.page < e.page + e.size)
    | none => decide (x.page = page)
  match s.walks.find? fun x => decide (x.die = die) && decide (x.job = job) && mate x with
  | some x =>
    if x.waiters.contains (g, w) then s
    else { s with walks := s.walks.map fun y => if y.id = x.id then { y with waiters := y.waiters ++ [(g, w)] } else y }
  | none =>
    if (s.walks.filter fun x => decide (x.die = die)).length < 32 then
      { s with walks := s.walks ++ [⟨s.nextId, die, job, page, [(g, w)]⟩], nextId := s.nextId + 1 }
    else s

/-- A core no longer waits for a walk: its instruction starts again, or never. Log: DEDUCED, notes/assumptions/47.md. -/
def State.dropWaits (s : State) (k : Nat) : State :=
  { s with
    walks := s.walks.map fun x =>
      { x with waiters := x.waiters.filter fun w => match w.2 with | .core i _ => decide (i ≠ k) | .copy _ _ _ _ _ => true } }

/-- The gate of one checked access. -/
def State.chkGate (s : State) (k : Nat) (a : XWord) (kind : AKind) (r : Chk) : Gate :=
  match r with
  | .ok _ => .go
  | .trap c v => .trap c v
  | .miss => .waitWith (s.startWalk k (s.core k).jobNum a.toNat (.core k (accTval a kind 0)))

/-- The gate of an access of `n` bytes. -/
def State.checkGate (s : State) (k : Nat) (a : XWord) (n : Nat) (kind : AKind) (amoHost : Bool := true) : Gate :=
  s.chkGate k a kind (s.check k a n kind amoHost)

/-- The target where the check passes. -/
def State.target (s : State) (k : Nat) (a : XWord) (n : Nat) (kind : AKind) (amoHost : Bool := true) : Tgt :=
  match s.check k a n kind amoHost with
  | .ok t => t
  | _ => default

/-- The place of a translated virtual address through the page table alone, for Fleiz's own reads. -/
def State.placeOf? (s : State) (job va : Nat) : Option (Nat × Nat) :=
  if va < 2 ^ 40 then none else (s.walk job va).map fun e => let t := s.leafTgt e va; (t.place, t.ep)

end Sys2Proof.Machine
end

