-- ==== Sys2Proof/Machine/View.lean ====
section
/-! DEFINITION. View geometry: element addresses, hulls, the companion scale view, the verdict of the intersection unit, and the
test of an access against the earlier ones of its activation (spec/07_views.md R152 to R157, R164 to R166). -/

namespace Sys2Proof.Machine

/-- Element width of a type code (spec/07_views.md R152). -/
def typeBits (t : Nat) : Nat :=
  if t = 0 ∨ t = 10 ∨ t = 14 then 32
  else if t = 1 ∨ t = 2 ∨ t = 9 ∨ t = 13 then 16
  else if t = 5 ∨ t = 6 then 6
  else if t = 7 then 4
  else if t = 11 ∨ t = 15 then 64
  else 8

/-- Element width of a view. -/
def View.eb (v : View) : Nat := typeBits v.ty.toNat
/-- Stride of dimension `n` in elements. -/
def Dim.step (d : Dim) : Int := d.stride.toInt

/-- Whether an index lies inside a view (spec/07_views.md R154). -/
def View.inside (v : View) (i : Nat → Nat) : Bool :=
  (List.range 4).all fun k => if k < v.rank then decide (i k < (v.dim k).extent.toNat) else decide (i k = 0)

/-- The dimension that reason 3 names (spec/07_views.md R171): of several whose index lies outside, the lowest-numbered. Log: DESIGN CHOICE,
notes/assumptions/89.md. -/
def View.outsideDim (v : View) (i : Nat → Nat) : Nat :=
  ((List.range 4).find? fun k => if k < v.rank then decide (¬ i k < (v.dim k).extent.toNat) else decide (i k ≠ 0)).getD 0

/-- The bit address of an element (spec/07_views.md R154). -/
def View.bitAddr (v : View) (i : Nat → Nat) : Int :=
  8 * (v.base.toNat : Int) + v.eb * ((List.range v.rank).foldl
    (fun e k => e + (((v.dim k).origin.toNat + i k : Nat) : Int) * (v.dim k).step) 0)

/-- Lowest and highest element number (spec/07_views.md R155). -/
def View.span (v : View) : Int × Int :=
  (List.range v.rank).foldl (fun (e : Int × Int) k =>
    let d := v.dim k
    let p0 := (d.origin.toNat : Int) * d.step
    let p1 := ((d.origin.toNat : Int) + d.extent.toNat - 1) * d.step
    (e.1 + min p0 p1, e.2 + max p0 p1)) (0, 0)

/-- The hull of a view: its first and last byte (spec/07_views.md R155). -/
def View.hull (v : View) : Int × Int :=
  let e := v.span
  ((v.base.toNat : Int) + (v.eb * e.1) / 8, (v.base.toNat : Int) + (v.eb * e.2 + v.eb - 1) / 8)

/-- Whether C is a valid companion of D (spec/07_views.md R157): both given with their numbers. -/
def companionOk (d c : View) (dq cq : Nat) : Bool :=
  c.live && decide (dq ≠ cq) && decide (c.ty = 17) && decide (c.rank = d.rank) && decide (d.kdim.toNat < d.rank)
    && (List.range d.rank).all fun k =>
      let e := (d.dim k).extent.toNat
      decide ((c.dim k).extent.toNat = if k = d.kdim.toNat then (e + 31) / 32 else e)

/-- The index of the scale of an element (spec/07_views.md R157). -/
def scaleIndex (d : View) (i : Nat → Nat) : Nat → Nat := fun k => if k = d.kdim.toNat then i k / 32 else i k

/-! The intersection unit. -/

/-- An access the unit judges: the core, the hull, the view it is made through and whether it writes. -/
structure Span where
  k : Nat
  lo : Int
  hi : Int
  view : Option View
  writes : Bool
  deriving DecidableEq, Repr, Inhabited

/-- An access through a view. -/
def View.toSpan (v : View) (k : Nat) (writes : Bool) : Span := ⟨k, v.hull.1, v.hull.2, some v, writes⟩

/-- The parts of a hull after normalisation (spec/07_views.md R156). -/
def normalise (k : Nat) (lo hi : Int) : List (Int × Int) :=
  let sh : Int := 2 ^ 32 + k * 2 ^ 20
  let own : List (Int × Int) := if lo < 0x60000 ∧ 0 ≤ hi then [(max lo 0 + sh, min hi 0x5FFFF + sh)] else []
  let below : List (Int × Int) := if lo < 0 then [(lo, min hi (-1))] else []
  let above : List (Int × Int) := if 0x60000 ≤ hi then [(max lo 0x60000, hi)] else []
  own ++ below ++ above

/-- Level 1: whether two hulls have a byte in common. -/
def Span.hullsMeet (p q : Span) : Bool :=
  (normalise p.k p.lo p.hi).any fun a => (normalise q.k q.lo q.hi).any fun b => decide (a.1 ≤ b.2) && decide (b.1 ≤ a.2)

/-- Period and row width of a row-periodic view (spec/07_views.md R165). -/
def View.period (v : View) : Option (Nat × Nat) :=
  if v.rank = 1 ∧ 0 < v.d0.step then some (v.d0.step.toNat, 1)
  else if v.rank = 2 ∧ v.d0.step = 1 ∧ 0 < v.d1.step ∧ (v.d0.extent.toNat : Int) ≤ v.d1.step then
    some (v.d1.step.toNat, v.d0.extent.toNat)
  else none

/-- The base that level 2 uses: as written, or, where the two accesses lie in different coordinates (one in the own scratchpad
region, one not), normalised (spec/07_views.md R156) (DEDUCED, notes/assumptions/13.md). -/
def levelBase (k b other : Nat) : Nat := if b < 0x60000 ∧ ¬ other < 0x60000 then 2 ^ 32 + k * 2 ^ 20 + b else b

/-- First residue of the rows of a view with base `b` (spec/07_views.md R165). -/
def View.residue (v : View) (b s : Nat) : Nat :=
  (((8 * b / v.eb : Nat) : Int) + v.d0.origin.toNat * v.d0.step).emod s |>.toNat

/-- Whether rows from `r` of width `w` and rows from `r'` of width `w'` share a residue modulo `s`: the distance from
either start to the other lies inside the row. -/
def residuesMeet (s r w r' w' : Nat) : Bool := decide ((r' + s - r) % s < w) || decide ((r + s - r') % s < w')

/-- Level 2: whether the residue test finds the accesses disjoint. Log: DEDUCED, notes/assumptions/13.md. -/
def Span.residuesApart (p q : Span) : Bool :=
  match p.view, q.view with
  | some a, some b =>
    let x := levelBase p.k a.base.toNat b.base.toNat
    let y := levelBase q.k b.base.toNat a.base.toNat
    match a.period, b.period with
    | some (s, w), some (s', w') =>
      decide (s = s') && decide (a.eb = b.eb) && decide (8 * x % a.eb = 0) && decide (8 * y % b.eb = 0)
        && !residuesMeet s (a.residue x s) w (b.residue y s) w'
    | _, _ => false
  | _, _ => false

/-- The verdict (spec/07_views.md R164). -/
def Span.verdict (p q : Span) : Nat := if !p.hullsMeet q then 1 else if p.residuesApart q then 2 else 3

/-- Two accesses that `meets` holds of, one of them a write (spec/07_views.md R166). -/
def Span.ordered (p q : Span) : Bool := (p.writes || q.writes) && decide (p.verdict q = 3)

/-- The activation running on a core, by its own number. -/
def Core.uid (c : Core) : Nat := match c.act with | some a => a.uid | none => 0

/-- The span of an outstanding access. -/
def Access.toSpan (a : Access) (k : Nat) : Span := ⟨k, a.lo, a.hi, a.view, a.writes⟩
/-- The span of a posted operation. -/
def Posted.toSpan (p : Posted) (k : Nat) : Span := ⟨k, p.lo, p.hi, p.view, true⟩
/-- The span of a store whose bytes are dirty. -/
def Stored.toSpan (x : Stored) (k : Nat) : Span := ⟨k, x.lo, x.hi, x.view, true⟩

/-- The stores of an activation that a posted operation performs: its own, or those whose bytes a write-back carries. -/
def Posted.spans (p : Posted) (k act : Nat) : List Span :=
  if p.kind = 3 then (p.stores.filter fun x => decide (x.act = act)).map (·.toSpan k)
  else if p.kind = 0 ∧ p.act = act ∧ p.copy.isNone then [p.toSpan k] else []

/-- The stores of an activation whose bytes are dirty in an L1 line, and so not performed (spec/07_views.md R166, spec/16_model.md R374). -/
def L1Line.spans (x : L1Line) (k act : Nat) : List Span :=
  if x.dirty = 0 then [] else (x.stores.filter fun y => decide (y.act = act)).map (·.toSpan k)

/-- Whether a line holds a dirty store of an activation that meets a span. -/
def L1Line.meets (x : L1Line) (act : Nat) (p : Span) : Bool := (x.spans p.k act).any fun q => decide (q.verdict p = 3)

/-- Byte range of a side of a copy: base and strides give the lowest and the highest byte. -/
def Side.hull (d : Side) (esize : Nat) : Int × Int :=
  let r := (List.range 4).foldl (fun (e : Int × Int) n =>
    let p0 := ((d.org.getD n 0 : Nat) : Int) * d.str.getD n 0
    let p1 := ((d.org.getD n 0 + d.ext.getD n 1 - 1 : Nat) : Int) * d.str.getD n 0
    (e.1 + min p0 p1, e.2 + max p0 p1)) (0, 0)
  ((d.base.toNat : Int) + r.1, (d.base.toNat : Int) + r.2 + esize - 1)

/-- A bit field of a word as a number. -/
def fieldOf (w : XWord) (lo n : Nat) : Nat := w.toNat / 2 ^ lo % 2 ^ n

/-- The fields of MESH: X0, Y0, W, H, BS. -/
structure Mesh where
  x0 : Nat
  y0 : Nat
  w : Nat
  h : Nat
  bs : Nat
  deriving DecidableEq, Repr, Inhabited

/-- MESH's fields. -/
def meshOf (m : XWord) : Mesh := ⟨fieldOf m 0 7, fieldOf m 8 6, fieldOf m 16 7, fieldOf m 24 7, fieldOf m 32 16⟩

/-- The cores of the rectangle. -/
def Mesh.cores (m : Mesh) : List Nat := (List.range (m.w * m.h)).map fun c => meshCore (m.x0 + c % m.w) (m.y0 + c / m.w)

/-- Whether the copy's destination is laid over the mesh. -/
def Copy.meshOn (x : Copy) : Bool := x.ctl.getLsbD 18
/-- MD. -/
def Copy.md (x : Copy) : Nat := fieldOf x.ctl 28 2
/-- How many positions along the laid dimension core `c` of the rectangle gets of `n`: its last block may be short (spec/08_copy.md R180). -/
def Mesh.share (m : Mesh) (n c : Nat) : Nat :=
  let last := (n - 1) / m.bs
  if n = 0 ∨ last < c then 0
  else
    let b := last - (last - c) % (m.w * m.h)
    b / (m.w * m.h) * m.bs + (if b = last then (n - 1) % m.bs + 1 else m.bs)

/-- The hull of a side whose dimension `d` has extent `n`. -/
def Side.hullWith (x : Side) (esize d n : Nat) : Int × Int := ({ x with ext := x.ext.set d n }).hull esize

/-- The cores a mesh destination reaches, in rectangle order, each with the hull of its offsets. -/
def Copy.meshHulls (x : Copy) : List (Nat × Int × Int) :=
  let m := meshOf x.mesh
  m.cores.zipIdx.filterMap fun p =>
    let n := m.share (x.dst.ext.getD x.md 1) p.2
    if n = 0 then none else some (p.1, x.dst.hullWith x.esize x.md n)

/-- The destination hulls: one, or one for each aperture range a mesh destination covers (spec/08_copy.md R186). -/
def Copy.dstHulls (x : Copy) : List (Int × Int) :=
  if x.meshOn then x.meshHulls.map fun h => (h.2.1 + 2 ^ 32 + h.1 * 2 ^ 20, h.2.2 + 2 ^ 32 + h.1 * 2 ^ 20)
  else [x.dst.hull x.esize]

/-- Whether a copy has read every source byte, or will read no more (spec/08_copy.md R186). -/
def Copy.readAll (x : Copy) : Bool :=
  match x.st with
  | .queued => false
  | .running => x.todo.isEmpty && decide (x.reads = 0)
  | _ => decide (x.reads = 0)

/-- Whether a copy has ended but for its action. -/
def Copy.ended (x : Copy) : Bool := match x.st with | .acting _ => true | _ => false

/-- The accesses of a copy that are not performed: its read until every source byte is read, its write, over every aperture range it covers, until
it ends (spec/08_copy.md R186). -/
def Copy.spans (x : Copy) (k : Nat) : List Span :=
  if x.ended then []
  else
    let h := x.src.hull x.esize
    (if x.readAll then [] else [⟨k, h.1, h.2, x.src.view, false⟩]) ++ x.dstHulls.map fun h => ⟨k, h.1, h.2, x.dst.view, true⟩

/-- Whether a matrix command has performed its accesses before it completes: a multiply whose last block is staged (spec/14_matrix.md R325). -/
def MCmd.performed (m : MCmd) : Bool :=
  match m.op with
  | .mma _ _ _ _ _ => m.ended || (m.begun && decide (m.nk ≤ m.staged))
  | _ => false

/-- The accesses of a matrix command that are not performed. -/
def MCmd.spans (m : MCmd) (k : Nat) : List Span :=
  if m.performed then [] else
  let rd (v : View) : List Span := if v.live then [v.toSpan k false] else []
  let wr (v : View) : List Span := if v.live then [v.toSpan k true] else []
  match m.op with
  | .rd _ => wr m.a ++ wr m.ac
  | _ => rd m.a ++ rd m.b ++ rd m.ac ++ rd m.bc

/-- The earlier accesses of the running activation that are under way and not performed. -/
def Core.underWay (c : Core) (k : Nat) : List Span :=
  (c.out.filter fun a => decide (a.st = .pending)).map (·.toSpan k)
    ++ c.posted.flatMap (·.spans k c.uid)
    ++ (c.copies.filter fun x => !x.detached && decide (x.act = c.uid)).flatMap (·.spans k)
    ++ (c.mq.filter fun m => decide (m.act = c.uid)).flatMap (·.spans k)

/-- The earlier accesses of the running activation that are not performed. A store dirty in the L1 counts against writes alone, since a read gets its
value from the L1 (spec/16_model.md R376); it stands here as what a write must not meet. -/
def Core.pendingSpans (c : Core) (k : Nat) : List Span :=
  c.underWay k ++ (c.l1.flatMap (·.spans k c.uid)).map fun p => { p with writes := false }

/-- The wait of the meeting rule (spec/07_views.md R166, spec/06_memory.md R139) for what is under way. Log: DEDUCED, notes/assumptions/87.md. -/
def State.meetGate (s : State) (p : Span) : Gate := waitUntil (!((s.core p.k).underWay p.k).any p.ordered)

/-- The span of a plain access of `n` bytes. -/
def plainSpan (k : Nat) (a : XWord) (n : Nat) (writes : Bool) : Span := ⟨k, a.toNat, a.toNat + n - 1, none, writes⟩

/-- TVAL of a view fault (spec/07_views.md R171). -/
def viewTval (reason q : Nat) (dim : Nat := 0) (idx : Nat := 0) : XWord :=
  BitVec.ofNat 64 (reason * 2 ^ 60 + q * 2 ^ 56 + dim * 2 ^ 52 + idx)

end Sys2Proof.Machine
end

