-- ==== Sys2Proof/Machine/Report.lean ====
section
/-! DEFINITION. What the device reports: error records (spec/06_memory.md R140, spec/18_frontend.md R439), notifications (R440, R441), trace
records (spec/19_debug.md R448, R449) and logged external values (R454). -/

namespace Sys2Proof.Machine

/-- DTIME as a die sees it: the device count and a skew of at most two ticks (spec/01_machine.md R14; DESIGN CHOICE, notes/assumptions/7.md). Log:
DESIGN CHOICE, notes/assumptions/106.md. -/
def State.dieTime (s : State) (die : Nat) : Nat := s.dtime + Config.dieSkew die % 3
/-- DTIME at a core. -/
def State.coreTime (s : State) (k : Nat) : Nat := s.dieTime (coreDie k)

/-- The 32 bytes of an error record (spec/06_memory.md R140). -/
def ErrRec.word (r : ErrRec) : BitVec 256 := r.incarn ++ r.cls ++ r.src ++ r.size ++ r.kind ++ r.cause ++ r.peer ++ r.time ++ r.addr

/-- Where the error ring of a job lies in device memory, 2 MiB to a job below the context records. Log: DESIGN CHOICE, notes/assumptions/105.md. -/
def errPlace (job n : Nat) : Nat := placeDev (0x7B00000000 + 0x200000 * job + 32 * n)

/-- Append a record to a job's error queue: to the ring in device memory, and to what the ring holds; a full ring loses its oldest record
(spec/18_frontend.md R439). Log: DESIGN CHOICE, notes/assumptions/105.md. -/
def State.appendErr (s : State) (job : Nat) (r : ErrRec) : State :=
  (s.modJob job fun j =>
    if j.errs.length < 2 ^ j.errLog then { j with errs := j.errs ++ [r], errTotal := j.errTotal + 1 }
    else { j with errs := j.errs.drop 1 ++ [r], errTotal := j.errTotal + 1, errOver := j.errOver + 1 }).store
    (errPlace job ((s.job job).errTotal % 2 ^ (s.job job).errLog)) 32 r.word.toNat

/-- The target number of a place (spec/06_memory.md R140); for a byte of an instruction store it is the id of the cluster's core 0. Log: DESIGN CHOICE,
notes/assumptions/93.md. -/
def peerOf (ep place : Nat) : Nat :=
  if isPad place then padCore place
  else if epIsHome ep then 0x20000 + (ep - 0x2000)
  else if epIsPeer ep then 0x10000 + epPeerOf ep
  else 0xFFFFFFFF

/-- The record of a failed posted operation or write-back (spec/06_memory.md R140); a mark concerns the 128 bytes of its line. Log: DEDUCED,
notes/assumptions/102.md. -/
def State.postedErr (s : State) (p : Posted) (cause : Nat) : State :=
  let bytes := if p.kind = 1 ∨ p.kind = 2 then 128 else popCount p.mask.toNat 128
  s.appendErr p.job
    { addr := if p.kind = 3 then BitVec.ofNat 64 (2 ^ 63 + p.line) else p.va
      time := BitVec.ofNat 64 (s.coreTime p.core)
      peer := BitVec.ofNat 32 (peerOf p.ep p.line)
      cause := BitVec.ofNat 16 cause
      kind := BitVec.ofNat 8 p.kind
      size := BitVec.ofNat 8 bytes
      src := BitVec.ofNat 16 p.core
      cls := BitVec.ofNat 16 p.cls.toNat
      incarn := BitVec.ofNat 32 p.incarn.toNat }

/-- The record of a message (KIND 6, 7, 8 and 13 of spec/06_memory.md R140). -/
def State.msgErr (s : State) (kind : Nat) (m : Msg) (home : Nat) : State :=
  s.appendErr m.job
    { addr := m.key, time := BitVec.ofNat 64 s.dtime, peer := BitVec.ofNat 32 (0x20000 + home), kind := BitVec.ofNat 8 kind
      src := BitVec.ofNat 16 m.score, cls := BitVec.ofNat 16 m.scls.toNat }

/-- The record of an activation (KIND 9 to 12 of spec/06_memory.md R140). -/
def State.actErr (s : State) (kind k : Nat) (a : Act) (addr : XWord) (cause : Nat) : State :=
  s.appendErr a.job
    { addr := addr, time := BitVec.ofNat 64 (s.coreTime k), peer := 0xFFFFFFFF, cause := BitVec.ofNat 16 cause
      kind := BitVec.ofNat 8 kind, src := BitVec.ofNat 16 k, cls := BitVec.ofNat 16 a.cls.toNat
      incarn := BitVec.ofNat 32 a.incarn.toNat }

/-- MSI-X vector 0 of the owner is signalled: of the function that CLAIM names, of none while the device has no owner. Log: DEDUCED,
notes/assumptions/117.md. -/
def Bar0.tellOwner (b : Bar0) : Map Nat :=
  if b.claim.getLsbD 63 then
    let f := (b.claim.extractLsb' 0 2).toNat
    Map.put b.msix0 f (Map.get 0 b.msix0 f + 1)
  else b.msix0

/-- Append a notification and signal MSI-X vector 0 (spec/18_frontend.md R440, R441); a full or disabled ring only counts. Log: DESIGN CHOICE,
notes/assumptions/4.md. -/
def State.notification (s : State) (kind who : Nat) : State :=
  let b := s.bar0
  let n := b.notifyLog.toNat
  if n < 4 ∨ 12 < n ∨ (b.notifyTail - b.notifyHead).toNat = 2 ^ n then { s with bar0 := { b with lost := b.lost + 1 } }
  else
    let p := placeHost (b.notifyBase.toNat * 256 + 32 * (b.notifyTail.toNat % 2 ^ n))
    let s := s.zero p 32
    let s := s.store p 2 kind
    let s := s.store (p + 8) 8 who
    let s := s.store (p + 16) 8 s.dtime
    let s := s.store (p + 24) 1 (min b.lost 255)
    { s with bar0 := { b with lost := 0, notifyTail := b.notifyTail + 1, msix0 := b.tellOwner } }

/-- The routing tag of a key (spec/19_debug.md R449). -/
def khash (k : XWord) : BitVec 16 := k.extractLsb' 0 16 ^^^ k.extractLsb' 16 16 ^^^ k.extractLsb' 32 16 ^^^ k.extractLsb' 48 16

/-- The key, or TID, of an activation. -/
def Act.tag (a : Act) : XWord := if a.kind = .task then a.task.tid else a.key

/-- Produce a trace record of a core for an activation with an entry stamp (spec/19_debug.md R448, R449): a full buffer drops it and counts. Log:
DEDUCED, notes/assumptions/83.md. -/
def State.traceOf (s : State) (k job : Nat) (a : Act) (stamp : BitVec 32) (kind code aux : Nat) : State :=
  let t := (s.job job).trace
  let pass := match t.cls with | some c => decide (c = a.cls) | none => true
  if !t.on || !t.mask.getLsbD kind || !pass then s
  else
    let g := coreCluster k
    if (s.cluster g).trbuf.length < 64 then
      let r : TraceRec :=
        { dw0 := BitVec.ofNat 64 (s.coreTime k)
          dw1 := BitVec.ofNat 4 kind ++ a.cls ++ khash a.tag ++ a.incarn ++ BitVec.ofNat 8 (meshY k) ++ BitVec.ofNat 8 (meshX k)
          dw2 := stamp ++ a.entry
          dw3 := BitVec.ofNat 8 job ++ BitVec.ofNat 8 code ++ BitVec.ofNat 6 a.msg.sel.toNat ++ (0 : BitVec 10) ++ BitVec.ofNat 32 aux }
      s.modCluster g fun x => { x with trbuf := x.trbuf ++ [(job, r)] }
    else s.modCore k fun c => { c with count := { c.count with trdrop := c.count.trdrop + 1 } }

/-- A trace record of a core with the entry stamp that its context holds. Log: DEDUCED, notes/assumptions/83.md. -/
def State.traceAct (s : State) (k job : Nat) (a : Act) (kind code aux : Nat) : State := s.traceOf k job a (s.core k).ctx.entryStamp kind code aux

/-- A trace record of the running activation. -/
def State.trace (s : State) (k kind code aux : Nat) : State :=
  match (s.core k).act with
  | some a => s.traceAct k a.job a kind code aux
  | none => s

/-- Whether the running activation is captured (spec/19_debug.md R453). -/
def State.captured (s : State) (k : Nat) : Bool :=
  match (s.core k).act with
  | some a => (s.job a.job).capture.classes.contains a.cls
  | none => false

/-! Capture (spec/19_debug.md R453, R454). An entry's KIND is 0 a line, 1 a reply, 2 a failing reply, 3 a copy write, 4 a register, 5 a result, 6 a
checkpoint, 7 an entry. -/

/-- An entry enters a capture buffer behind the entries of its activation's earlier instructions. Log: DESIGN CHOICE, notes/assumptions/15.md. -/
def insertLog (e : LogEntry) : List LogEntry → List LogEntry
  | [] => [e]
  | x :: t => if x.act = e.act ∧ e.at_ < x.at_ then e :: x :: t else x :: insertLog e t

/-- Log an external value of an activation of a captured class, for the instruction that found INSTRET at `at_`. -/
def State.logOf (s : State) (k : Nat) (a : Act) (at_ kind where_ : Nat) (v : BitVec 1024) : State :=
  if (s.job a.job).capture.classes.contains a.cls then s.modCore k fun c => { c with capBuf := insertLog ⟨a.job, a.uid, at_, kind, where_, v⟩ c.capBuf } else s

/-- Log an external value of the running activation. -/
def State.logAt (s : State) (k at_ kind where_ : Nat) (v : BitVec 1024) : State :=
  match (s.core k).act with
  | some a => s.logOf k a at_ kind where_ v
  | none => s

/-- Log an external value of the instruction that a core executes. -/
def State.logExt (s : State) (k kind where_ : Nat) (v : BitVec 1024) : State := s.logAt k (s.core k).ctx.instret.toNat kind where_ v

/-- Entries that the 2 KiB of a capture buffer hold: a header line and a data line to each. Log: DESIGN CHOICE, notes/assumptions/15.md. -/
def capEntries : Nat := 8

/-- The places of a core's capture buffer in use: its entries and, for an activation that is captured, one for each reply that will be logged. Log:
DESIGN CHOICE, notes/assumptions/15.md. -/
def State.capUsed (s : State) (k : Nat) : Nat :=
  let c := s.core k
  c.capBuf.length + (if s.captured k then c.out.length + c.timers.length else 0)

/-- The header line of a log entry. Log: DESIGN CHOICE, notes/assumptions/46.md. -/
def LogEntry.header (e : LogEntry) : BitVec 1024 :=
  (BitVec.ofNat 64 e.where_ ++ BitVec.ofNat 64 e.kind ++ BitVec.ofNat 64 e.at_ ++ BitVec.ofNat 64 e.act).setWidth 1024

/-- Lines are written to the replay region of a job, a ring that wraps (spec/19_debug.md R453). Log: DESIGN CHOICE, notes/assumptions/46.md. -/
def State.putReplay (s : State) (job : Nat) (lines : List (BitVec 1024)) : State :=
  lines.foldl (fun (s : State) v =>
    let r := (s.job job).capture
    if r.lines = 0 then s
    else (s.writeLine (placeDev (r.base + 128 * (r.next % r.lines))) (BitVec.allOnes 128) v).modJob job fun j => { j with capture := { r with next := r.next + 1 } }) s

/-- The oldest entry of a capture buffer reaches the replay region, once every access and timer read of an earlier instruction of its activation has
been answered. Log: DESIGN CHOICE, notes/assumptions/15.md. -/
def State.drainLog (s : State) (k : Nat) : State :=
  let c := s.core k
  match c.capBuf with
  | [] => s
  | e :: rest =>
    if decide (e.act = c.uid) && ((c.out.any fun a => decide (a.instret.toNat < e.at_)) || c.timers.any fun t => decide (t.at_ < e.at_)) then s
    else (s.modCore k fun c => { c with capBuf := rest }).putReplay e.job [e.header, e.value]

/-- A line's logged bit is cleared for a pre-empted activation (spec/19_debug.md R454). -/
def Saved.unlog (x : Saved) (l : Nat) : Saved := { x with logged := x.logged.filter fun y => decide (y ≠ l) }

/-- The running activation of a core writes a line of its own scratchpad: the line's logged bit is cleared for those it has pre-empted
(spec/19_debug.md R454). -/
def State.unlogSaved (s : State) (k l : Nat) : State :=
  if (s.core k).saved.isEmpty then s else s.modCore k fun c => { c with saved := c.saved.map fun x => x.unlog l }

/-- What a rollback to INSTRET `n` leaves of the log: the entries of later instructions go, and lines whose reads they logged are not logged. -/
def Core.unlog (c : Core) (n : Nat) : Core :=
  let late (e : LogEntry) : Bool := decide (e.act = c.uid) && decide (n < e.at_)
  { c with capBuf := c.capBuf.filter fun e => !late e
           logged := c.logged.filter fun l => !c.capBuf.any fun e => late e && decide (e.kind = 0) && decide (e.where_ = l) }

/-- Whether an own-scratchpad line is private: a curd line of the actor, or a line from SPILLBASE to the entry value of
SPILLLIM (spec/19_debug.md R454). -/
def Core.privateLine (c : Core) (l : Nat) : Bool :=
  (match c.act with
   | some a => decide (a.curd / 128 ≤ l) && decide (l < a.curd / 128 + a.desc.curdl.toNat) && decide (a.kind ≠ .task)
   | none => false)
  || (decide (c.ctx.spillBase.toNat ≤ l) && decide (l < c.ctx.spillTop.toNat))

/-- Log a result of a running activation (spec/19_debug.md R454). -/
def State.logResult (s : State) (k : Nat) (v : XWord) : State := s.logExt k 5 0 (v.setWidth 1024)

/-- Log the first read of a line that is not private while its logged bit is clear (spec/19_debug.md R454), for the instruction that found INSTRET at
`at_`. -/
def State.logLineAt (s : State) (k at_ l : Nat) : State :=
  let c := s.core k
  if c.privateLine l || c.logged.contains l || !s.captured k then s
  else (s.logAt k at_ 0 l (s.line (placePad k (128 * l)))).modCore k fun c => { c with logged := l :: c.logged }

/-- A line that is private to a pre-empted activation. -/
def Saved.privateLine (x : Saved) (l : Nat) : Bool := ({ act := some x.act, ctx := x.ctx } : Core).privateLine l

/-- The pre-empted activation of a core with an identity. -/
def State.savedOf (s : State) (k uid : Nat) : Option Saved := (s.core k).saved.find? fun x => decide (x.act.uid = uid)

/-- Log the first read of a line by the instruction that a core executes. -/
def State.logLine (s : State) (k l : Nat) : State := s.logLineAt k (s.core k).ctx.instret.toNat l

/-- Log the first read of a line by a copy of a running or a pre-empted activation (spec/19_debug.md R454). -/
def State.logCopyRead (s : State) (k uid l : Nat) : State :=
  if (s.core k).uid = uid then s.logLine k l
  else match s.savedOf k uid with
    | none => s
    | some y =>
      if y.privateLine l || y.logged.contains l || !(s.job y.act.job).capture.classes.contains y.act.cls then s
      else (s.logOf k y.act y.ctx.instret.toNat 0 l (s.line (placePad k (128 * l)))).modCore k fun c =>
        { c with saved := c.saved.map fun x => if x.act.uid = uid then { x with logged := l :: x.logged } else x }

/-- Log the bytes that a copy of a running or a pre-empted activation writes into a line of its core that is not private (spec/19_debug.md R454). -/
def State.logCopyWrite (s : State) (k uid l : Nat) (d : BitVec 1024) : State :=
  if (s.core k).uid = uid then (if (s.core k).privateLine l then s else s.logExt k 3 l d)
  else match s.savedOf k uid with
    | none => s
    | some y => if y.privateLine l then s else s.logOf k y.act y.ctx.instret.toNat 3 l d

/-- The bytes of a core's private lines that are not zero. -/
def State.privateBytes (s : State) (k : Nat) : List (Nat × Byte) :=
  let c := s.core k
  (((List.range (c.spsize / 128)).filter fun l => c.privateLine l).flatMap fun l => (List.range 128).map fun i => 128 * l + i).filterMap fun o =>
    let b := s.byte (placePad k o)
    if b = 0 then none else some (o, b)

/-- A boundary of a captured activation is kept for reverse stepping (spec/19_debug.md R455). Log: DESIGN CHOICE, notes/assumptions/46.md. -/
def State.snapshot (s : State) (k : Nat) : State :=
  if s.captured k then
    let c := s.core k
    { s with snaps := s.snaps ++ [{ job := c.jobNum, uid := c.uid, instret := c.ctx.instret.toNat, core := c, priv := s.privateBytes k }] }
  else s

/-- Boundaries of an activation that a rollback to INSTRET `n` undoes are kept no more. -/
def State.dropSnaps (s : State) (uid n : Nat) : State :=
  { s with snaps := s.snaps.filter fun x => !(decide (x.uid = uid) && decide (n < x.instret)) }

end Sys2Proof.Machine
end

