-- ==== Sys2Proof/Machine/Net.lean ====
section
/-! DEFINITION. The network: packets and their classes, routes, credits and trimming, retention, streams, holes and pulls
(spec/17_network.md R394 to R417). -/

namespace Sys2Proof.Machine

/-! Packets. -/

/-- PKIND of a body (spec/17_network.md R400). -/
def Body.pkind : Body → Nat
  | .msg _ => 0
  | .posted p => if p.kind = 3 then 5 else 1
  | .atomic _ => 2
  | .counter _ => 2
  | .readRep _ _ _ => 3
  | .atomicRep _ _ _ _ _ => 4
  | .counterRep _ _ _ _ _ _ _ _ _ _ => 4
  | _ => 15

/-- WHAT of a body (spec/17_network.md R400): KEY of a message, the address otherwise, which for a read reply is that of its line. Log: DEDUCED,
notes/assumptions/104.md. -/
def Body.what : Body → XWord
  | .msg m => m.key
  | .posted p => p.va
  | .atomic r => r.va
  | .counter r => r.va
  | .readRep r _ _ => BitVec.ofNat 64 (placeAddr r.line)
  | .atomicRep _ _ _ _ va => va
  | .counterRep _ _ _ _ _ _ _ _ _ va => va
  | _ => 0

/-- The request a reply answers. -/
def Body.request : Body → Option ReadReq
  | .readRep r _ _ => some r
  | .whey _ _ _ _ re => re
  | _ => none

/-- Whether a packet may be trimmed (spec/17_network.md R395). -/
def Packet.trimmable (p : Packet) : Bool := (decide (p.cls = 2) || decide (p.cls = 3)) && decide (p.body.pkind < 6) && decide (0 < p.len)

/-- Flits of a packet on the mesh, or on a fabric port (spec/17_network.md R394). Log: DEDUCED, notes/assumptions/14.md. -/
def Packet.flits (p : Packet) (fabric : Bool) : Nat := if fabric then 1 + (p.len + 63) / 64 else 1 + (p.len + 31) / 32

/-- Bytes a payload holds in a retain buffer (spec/09_messages.md R203). Log: DEDUCED, notes/assumptions/14.md. -/
def retainBytes (len : Nat) : Nat := 32 * ((32 + len + 31) / 32)

/-! Routes (spec/17_network.md R397, R398, R412 to R414). -/

/-- The router at which a Utfen port attaches. -/
def portRouter (p : Nat) : Nat := if p < 8 then routerCluster (6 * p) 0 else routerCluster (6 * (p - 8)) 15

/-- A torus dimension of a fabric route: whether it must move, and whether it moves in the negative direction: the shorter way around, ties going +. -/
def ringStep (from_ to_ size : Nat) : Option Bool :=
  if from_ = to_ then none
  else let d := (to_ + size - from_ % size) % size
       some (decide (size < 2 * d))

/-- A chassis dimension of a fabric route: a mesh without wrap. -/
def meshStep (from_ to_ : Nat) : Option Bool := if from_ = to_ then none else some (decide (to_ < from_))

/-- The dimensions in which a route from one peer to another must move, in the order it takes them, each with its first port and whether it moves in
the negative direction (spec/17_network.md R412, R413). -/
def State.routeDims (s : State) (a b : Nat) : List (Nat × Bool) :=
  [(0, ringStep (a / 16 % 16) (b / 16 % 16) s.ring0), (4, ringStep (a / 256 % 16) (b / 256 % 16) s.ring1),
   (8, meshStep (a % 4) (b % 4)), (12, meshStep (a / 4 % 4) (b / 4 % 4))].filterMap fun d => d.2.map fun n => (d.1, n)

/-- Which of the two ports of one direction a packet uses: bit 0 of its source core id and of its destination peer (spec/17_network.md R413). -/
def portPair (src q : Nat) : Nat := (epCoreId src % 2 + q % 2) % 2

/-- The Utfen port a packet to peer `q` takes (spec/17_network.md R413). Log: DEDUCED, notes/assumptions/79.md. -/
def State.fabricPort (s : State) (src q : Nat) : Nat :=
  let d := ((s.routeDims s.peer q).head?).getD (12, false)
  d.1 + (if d.2 then 2 else 0) + portPair src q

/-- The Utfen port a packet from a peer comes in by: that of the last dimension its route moved in, on the side it came from, or the one it is said to
come in by. Log: DEDUCED, notes/assumptions/79.md. -/
def State.entryPort (s : State) (p : Packet) : Nat :=
  match p.came with
  | some a => a
  | none =>
    let d := ((s.routeDims (epPeerOf p.src) s.peer).getLast?).getD (12, false)
    d.1 + (if d.2 then 0 else 2) + portPair p.src (if epIsPeer p.dst then epPeerOf p.dst else s.peer)

/-- Whether `h` lies on the way from `a` to `b` in a dimension: a ring's shorter way, or a mesh of no wrap. -/
def wayHas (a h b : Nat) (ring : Option Nat) : Bool :=
  match ring with
  | some n =>
    let up (x y : Nat) : Nat := (y + n - x % n) % n
    match ringStep a b n with
    | none => decide (h = a)
    | some false => decide (up a h ≤ up a b)
    | some true => decide (up h a ≤ up b a)
  | none => (decide (a ≤ h) && decide (h ≤ b)) || (decide (b ≤ h) && decide (h ≤ a))

/-- Whether a dimension-ordered route passes a node, by the coordinates of its source, the node and its destination in the order of the dimensions:
those before the one it moves in are the destination's, those after it the source's. -/
def routeHas : List (Nat × Nat × Nat × Option Nat) → Bool
  | [] => true
  | (a, h, b, n) :: t => if h = b then routeHas t else wayHas a h b n && t.all fun x => decide (x.2.1 = x.1)

/-- Whether this node lies on the route of a peer's packet (spec/17_network.md R412, R413). Log: DEDUCED, notes/assumptions/79.md. -/
def State.onRoute (s : State) (p : Packet) : Bool :=
  let a := epPeerOf p.src
  let b := if epIsPeer p.dst then epPeerOf p.dst else s.peer
  let q := s.peer
  decide (a ≠ q) && decide (b ≠ q || !epIsPeer p.dst)
    && routeHas [(a / 16 % 16, q / 16 % 16, b / 16 % 16, some s.ring0), (a / 256 % 16, q / 256 % 16, b / 256 % 16, some s.ring1),
                 (a % 4, q % 4, b % 4, none), (a / 4 % 4, q / 4 % 4, b / 4 % 4, none)]

/-- A packet of one peer for another, which only crosses this node (spec/17_network.md R413). -/
def Packet.transit (p : Packet) : Bool := epIsPeer p.src && epIsPeer p.dst

/-- The record of a link. -/
def State.link (s : State) (p : Nat) : Link := Map.get {} s.links p

/-- The port a packet leaves the device by, after the detour table (spec/17_network.md R414): none where it is discarded. Log: DEDUCED,
notes/assumptions/79.md. -/
def State.exitPort (s : State) (p : Packet) : Option (Nat × Bool) :=
  let a := p.out.getD (s.fabricPort p.src (epPeerOf p.dst))
  if !(s.link a).failed then some (a, p.detour)
  else if p.detour then none
  else match (s.link a).detour with
    | some b => if (s.link b).failed then none else some (b, true)
    | none => none

/-- The router of an endpoint: a peer's is that of its port. -/
def State.router (s : State) (e src : Nat) : Nat := if epIsPeer e then portRouter (s.fabricPort src (epPeerOf e)) else epRouter e

/-- The router at which a packet enters the mesh. -/
def State.entryRouter (s : State) (p : Packet) : Nat := if epIsPeer p.src then portRouter (s.entryPort p) else epRouter p.src

/-- The router a packet travels to. -/
def State.goal (s : State) (p : Packet) : Nat :=
  if epIsPeer p.dst then (match s.exitPort p with | some (a, _) => portRouter a | none => s.router p.dst p.src)
  else epRouter p.dst

/-- The output port at a router toward a goal: X first, then Y. -/
def nextPort (r goal : Nat) (fabric : Bool) : Port :=
  if clx r < clx goal then .east
  else if clx goal < clx r then .west
  else if cly r < cly goal then .south
  else if cly goal < cly r then .north
  else if fabric then .fabric else .loc

/-- The router on the far side of a port. -/
def neighbour (r : Nat) : Port → Nat
  | .north => routerCluster (clx r) (cly r - 1)
  | .south => routerCluster (clx r) (cly r + 1)
  | .east => routerCluster (clx r + 1) (cly r)
  | .west => routerCluster (clx r - 1) (cly r)
  | _ => r

/-- A number for a port. -/
def Port.code : Port → Nat
  | .loc => 0 | .north => 1 | .east => 2 | .south => 3 | .west => 4 | .fabric => 5

/-! Streams and holes as they stand (spec/17_network.md R404 to R407). -/

/-- The key of a stream: in-order streams apart from the others (spec/17_network.md R404). -/
def streamKey (e : Nat) (inorder : Bool) : Nat := if inorder then e else e + 2 ^ 24

/-- One destination of a multicast as a packet of its own. -/
def Packet.withLeg (p : Packet) (l : Leg) : Packet :=
  { p with
    dst := l.dst, seq := l.seq, legs := []
    body := match p.body with
      | .msg m => .msg { m with key := l.key, seq := l.seq, pa := l.pa }
      | .whey a b c _ e => .whey a b c l.key e
      | b => b }

/-- The destinations of a packet, each as a packet of its own. Log: DEDUCED, notes/assumptions/16.md. -/
def Packet.copies (p : Packet) : List Packet := { p with legs := [] } :: p.legs.map p.withLeg

/-- The receiving side of a stream. -/
def Endpoint.stream (e : Endpoint) (src : Nat) (inorder : Bool) : Stream := Map.get {} e.streams (streamKey src inorder)

/-- Packets held behind holes at an endpoint. -/
def Endpoint.heldCount (e : Endpoint) : Nat := e.streams.foldl (fun n x => n + x.2.held.length) 0

/-- The hole a packet belongs to. -/
def Endpoint.holeOf (e : Endpoint) (p : Packet) : Option Hole :=
  e.holes.find? fun h => decide (h.src = p.src) && decide (h.seq = p.seq) && decide (h.inorder = p.inorder)

/-- How far `a` lies past `b` in a stream. -/
def seqDist (a b : Nat) : Nat := (a + 65536 - b % 65536) % 65536

/-- The numbers of a packet's in-order stream that it skips: neither arrived nor recorded (spec/17_network.md R405). -/
def State.missing (s : State) (p : Packet) : List Nat :=
  let e := s.ep p.dst
  let st := e.stream p.src true
  ((List.range (seqDist p.seq st.expect)).map fun i => (st.expect + i) % 65536).filter fun q =>
    !(st.held.any (fun x => decide (x.seq = q)) || st.done.contains q
      || e.holes.any fun h => decide (h.src = p.src) && h.inorder && decide (h.seq = q))

/-- Whether a packet of an in-order stream has been accepted, given up or held already. -/
def State.old (s : State) (p : Packet) : Bool :=
  let st := (s.ep p.dst).stream p.src true
  decide (32768 ≤ seqDist p.seq st.expect) || st.done.contains p.seq || st.held.any fun x => decide (x.seq = p.seq)

/-- Whether a packet behind a hole finds a hold place: 4 of its stream, for messages in the hold queue (spec/17_network.md R407, R409). -/
def State.holdPlace (s : State) (p : Packet) : Bool :=
  decide (((s.ep p.dst).stream p.src true).held.length < 4)
    && (!epIsHome p.dst || decide ((s.cluster (p.dst - 0x2000)).waiting + (s.ep p.dst).heldCount < 256))

/-- Hole records that the arrival of a packet makes (spec/17_network.md R405). -/
def State.newHoles (s : State) (p : Packet) : Nat :=
  if ((s.ep p.dst).holeOf p).isSome then 0
  else
    match p.body with
    | .whey _ _ _ _ _ => if !p.inorder then 1 else if s.old p then 0 else 1 + (s.missing p).length
    | _ =>
      if !p.inorder || p.again || s.old p || decide (p.seq = ((s.ep p.dst).stream p.src true).expect) then 0
      else (s.missing p).length + (if s.holdPlace p then 0 else 1)

/-- The endpoint's hole table (spec/17_network.md R405). -/
def holeCap (e : Nat) : Nat := if e = epHost then 256 else 64

/-- Whether an endpoint's hole table has room for what an arriving packet records: it waits while it has not. Log: DESIGN CHOICE,
notes/assumptions/130.md. -/
def State.holeRoom (s : State) (p : Packet) : Bool :=
  decide ((s.ep p.dst).holes.length + p.copies.foldl (fun n q => n + s.newHoles q) 0 ≤ holeCap p.dst) || decide (p.copies.all fun q => s.newHoles q = 0)

/-! Buffers and credits (spec/17_network.md R395, R396, R399). -/

/-- The buffer of a packet: class, and wheys apart from other control. -/
def Packet.lane (p : Packet) : Nat := if p.cls = 0 then (match p.body with | .whey _ _ _ _ _ => 4 | _ => 0) else p.cls

/-- Flits of a buffer. -/
def laneSize (lane : Nat) (fabric : Bool) : Nat := if lane = 2 ∨ lane = 3 then (if fabric then 128 else 64) else 16

/-- Flits an output queue holds in one buffer. -/
def State.queued (s : State) (r : Nat) (o : Port) (lane : Nat) : Nat :=
  s.net.foldl (fun n p => if p.loc = .queue r o ∧ p.lane = lane then n + p.flits (decide (o = .fabric)) else n) 0

/-- Whether a buffer has room for some flits. -/
def State.room (s : State) (r : Nat) (o : Port) (lane flits : Nat) : Bool :=
  decide (s.queued r o lane + flits ≤ laneSize lane (decide (o = .fabric)))

/-! What an endpoint can take (spec/17_network.md R401). -/

/-- Bytes held in a retain buffer: the entries of one multicast's copies share one charge (spec/09_messages.md R207, spec/17_network.md R410). -/
def Endpoint.held (e : Endpoint) : Nat :=
  (e.retain.foldl (fun (p : Nat × List Nat) r => if p.2.contains r.order then p else (p.1 + r.bytes, r.order :: p.2)) (0, [])).1

/-- Size of a retain buffer (spec/17_network.md R401). -/
def retainCap (e : Nat) : Nat := if e = epHost then 65536 else 16384

/-- Whether a retain buffer has room. -/
def State.retainRoom (s : State) (e bytes : Nat) : Bool := decide ((s.ep e).held + bytes ≤ retainCap e)

/-- Unacknowledged replies a serving place keeps (spec/17_network.md R401). -/
def State.repliesHeld (s : State) (ep : Nat) : Nat := ((s.ep ep).retain.filter fun r => decide (r.pkt.pkind = 4)).length

/-- Events that are no tail events (spec/18_frontend.md R434). -/
def State.otherEvents (s : State) : Nat := (s.feEvents.filter fun e => match e with | .tail _ => false | _ => true).length
/-- Whether one of the 256 slots for such events is free: a producer waits while none is. -/
def State.eventRoom (s : State) : Bool := decide (s.otherEvents < 256)

/-- Whether a home slice has room for what the giving up of a hole may send: refusals of messages held behind it, the write of a transfer whose read
has failed. Log: DESIGN CHOICE, notes/assumptions/100.md. -/
def State.giveUpRoom (s : State) (ep : Nat) (h : Hole) : Bool :=
  !epIsHome ep
    || s.retainRoom ep ((if h.inorder then 64 * ((s.ep ep).stream h.src true).held.length else 0) + (if h.re.isSome then retainBytes 128 else 0))

/-- Packets held behind a hole of a packet's stream: they may be accepted with it. -/
def State.heldBehind (s : State) (p : Packet) : Nat := ((s.ep p.dst).stream p.src true).held.length

/-- Whether the destination can take a packet now: a place keeps at most 32 unacknowledged replies (spec/17_network.md R401); a reply to a copy or to a
slice's transfer needs retain room for its write (spec/08_copy.md R187), what comes to a home, or a hole's end there, room for the refusals it may call
for, those of each of its copies and of what is held behind it, and the refusal of a part a slot of the event queue (spec/18_frontend.md R434). Log: DESIGN CHOICE, notes/assumptions/100.md. -/
def State.takes (s : State) (p : Packet) : Bool :=
  match p.body with
  | .atomic _ => decide (s.repliesHeld p.dst < 32)
  | .counter _ => decide (s.repliesHeld p.dst < 32)
  | .readRep r _ _ => if epIsHome r.core || r.copy then s.retainRoom p.dst (retainBytes 128) else true
  | .msg _ => s.retainRoom p.dst (64 * (1 + p.legs.length + s.heldBehind p))
  | .areq _ => s.retainRoom p.dst (64 * s.heldBehind p)
  | .gone i => match (s.ep p.dst).holes.find? fun h => decide (h.id = i) with | some h => s.giveUpRoom p.dst h | none => true
  | .refuse _ _ _ => decide (p.dst ≠ epHost) || s.eventRoom
  | _ => true

/-- Where the head of a packet goes next: the router and output port, or its end. -/
inductive Hop where
  | to (r : Nat) (o : Port)
  | arrive
  deriving DecidableEq, Repr

/-- The next place of a packet. Log: DEDUCED, notes/assumptions/84.md. -/
def State.hop (s : State) (p : Packet) : Hop :=
  let fab := epIsPeer p.dst
  match p.loc with
  | .arrived => .arrive
  | .source => let r := s.entryRouter p; .to r (nextPort r (s.goal p) fab)
  | .queue _ .loc => .arrive
  | .queue r .fabric =>
    (match s.exitPort p with
     | some (a, _) => if portRouter a = r then .arrive else .to r (nextPort r (portRouter a) true)
     | none => .arrive)
  | .queue r o => let r' := neighbour r o; .to r' (nextPort r' (s.goal p) fab)

/-- Whether a packet would be trimmed at an output port now (spec/17_network.md R399). Log: DEDUCED, notes/assumptions/84.md. -/
def State.trims (s : State) (p : Packet) (r : Nat) (o : Port) : Bool :=
  p.trimmable && decide ((if o = .fabric then 96 else 48) < s.queued r o p.cls)

/-- Where the destinations of a packet go next, each place once (spec/17_network.md R410). Log: DEDUCED, notes/assumptions/16.md. -/
def State.hops (s : State) (p : Packet) : List Hop :=
  p.legs.foldl (fun hs l => let h := s.hop (p.withLeg l); if hs.contains h then hs else hs ++ [h]) [s.hop p]

/-- The destinations of a packet that go to one place, as one packet. Log: DEDUCED, notes/assumptions/16.md. -/
def State.branch (s : State) (p : Packet) (h : Hop) : Option Packet :=
  let ls := p.legs.filter fun l => decide (s.hop (p.withLeg l) = h)
  if s.hop p = h then some { p with legs := ls }
  else match ls with
    | [] => none
    | l :: rest => some { p.withLeg l with legs := rest }

/-- Whether the next place of a packet that goes one way has room for it, as it would enter it; at its end, whether it is taken there. -/
def State.credit1 (s : State) (p : Packet) : Bool :=
  match s.hop p with
  | .arrive => p.transit || (s.holeRoom p && s.takes p)
  | .to r o => if s.trims p r o then s.room r o 4 1 else s.room r o p.lane (p.flits (decide (o = .fabric)))

/-- Whether a packet that comes over a link can: the receiver has a key, and the link is not marked failed (spec/17_network.md R416). -/
def State.linkIn (s : State) (p : Packet) : Bool :=
  if p.loc = .source ∧ epIsPeer p.src then let l := s.link (s.entryPort p); l.rx.key.isSome && !l.failed else true

/-- Whether every next place of a packet has room for what goes there. Log: DEDUCED, notes/assumptions/16.md. -/
def State.credit (s : State) (p : Packet) : Bool := s.linkIn p && (s.hops p).all fun h => match s.branch p h with | some q => s.credit1 q | none => true

/-- Whether a packet is the oldest of its buffer. -/
def State.oldest (s : State) (p : Packet) : Bool :=
  match s.net.find? fun q => decide (q.loc = p.loc) && decide (q.lane = p.lane)
      && (decide (p.loc ≠ .source ∧ p.loc ≠ .arrived) || decide (q.src = p.src)) with
  | some q => decide (q.id = p.id)
  | none => false

/-- Whether a packet could go on if its port served it. Log: DEDUCED, notes/assumptions/84.md. -/
def State.ready (s : State) (p : Packet) : Bool := s.oldest p && s.credit p

/-- A number for the output queue a packet stands in. -/
def Packet.share (p : Packet) : Option Nat :=
  match p.loc with
  | .queue r o => some (8 * r + o.code)
  | _ => none

/-- Whether a packet of a class could go on from where a packet stands. -/
def State.waits (s : State) (p : Packet) (c : Nat) : Bool := s.net.any fun q => decide (q.loc = p.loc) && decide (q.cls = c) && s.ready q

/-- The packet part of which has crossed the link of the fabric port in whose queue a packet stands, 0 for none (spec/17_network.md R394). -/
def State.partOf (s : State) (p : Packet) : Nat :=
  match p.loc with
  | .queue _ .fabric => (match s.exitPort p with | some (a, _) => (s.link a).tx.of | none => 0)
  | _ => 0

/-- Whether the port serves a packet now: class 0 first, class 1 second, three flits of class 2 for each of class 3
(spec/17_network.md R396); a packet part of which has crossed a link goes on before any other there (R394). -/
def State.served (s : State) (p : Packet) : Bool :=
  s.ready p &&
    match p.share with
    | none => true
    | some n =>
      if s.partOf p ≠ 0 then decide (s.partOf p = p.id)
      else
      let due3 := decide (3 ≤ Map.get 0 s.share n)
      if p.cls = 0 then true
      else if p.cls = 1 then !s.waits p 0
      else if s.waits p 0 || s.waits p 1 then false
      else if p.cls = 2 then !(s.waits p 3 && due3)
      else !(s.waits p 2 && !due3)

/-- The share of a port after it has sent a packet: its flits of class 2 less three for each of class 3, counted while both wait
(spec/17_network.md R396). -/
def State.countShare (s : State) (p : Packet) : State :=
  match p.share with
  | none => s
  | some n =>
    let f : Int := p.flits (match p.loc with | .queue _ .fabric => true | _ => false)
    let v : Int := Map.get 0 s.share n
    if p.cls = 2 then { s with share := Map.put s.share n (if s.waits p 3 then v + f else 0) }
    else if p.cls = 3 then { s with share := Map.put s.share n (if s.waits p 2 then v - 3 * f else 0) }
    else s

/-- The input port by which the head of a packet reaches the router it is switched at: local, north, east, south, west, fabric
(spec/17_network.md R399). -/
def Packet.inPort (p : Packet) : Nat :=
  match p.loc with
  | .queue _ .south => 1
  | .queue _ .west => 2
  | .queue _ .north => 3
  | .queue _ .east => 4
  | .queue _ .fabric => 5
  | _ => if epIsPeer p.src then 5 else 0

/-- Whether no head that could be switched to the same output stands at an earlier input port (spec/17_network.md R399). Log: DEDUCED,
notes/assumptions/84.md. -/
def State.firstIn (s : State) (p : Packet) (h : Hop) : Bool :=
  !s.net.any fun q => decide (q.inPort < p.inPort) && (s.hops q).contains h && s.served q

/-- A packet of an identity. -/
def State.packet (s : State) (id : Nat) : Option Packet := s.net.find? fun p => decide (p.id = id)

/-- Replace a packet and put it last, behind those that stand where it goes. -/
def State.requeue (s : State) (p : Packet) : State := { s with net := s.net.filter (fun q => decide (q.id ≠ p.id)) ++ [p] }

/-- Take a packet out. -/
def State.dropPacket (s : State) (id : Nat) : State := { s with net := s.net.filter fun q => decide (q.id ≠ id) }

/-- A trimmed packet: its head rewritten as a whey (spec/17_network.md R399, R400). -/
def State.wheyOf (s : State) (p : Packet) (r : Nat) (o : Port) : Packet :=
  let by_ : BitVec 16 :=
    if o = .fabric then BitVec.ofNat 16 (2 ^ 15 + s.peer % 256 * 16 + (match s.exitPort p with | some (a, _) => a | none => 0))
    else BitVec.ofNat 16 (clx r * 16 + cly r)
  { p with
    cls := 0, len := 0, loc := .queue r o, trimBy := by_, ttick := BitVec.ofNat 32 s.dtime
    body := .whey p.body.pkind p.cls p.len p.body.what p.body.request }

/-- The four doublewords of a whey (spec/17_network.md R400), on the device whose peer number is `self`. -/
def Packet.wheyWords (p : Packet) (self : Nat) : List XWord :=
  match p.body with
  | .whey pkind oclass olen what _ =>
    let own := epIsCore (p.holder % 0x10000)
    let holder : BitVec 16 :=
      if own then 0 else if epIsHome (p.holder % 0x10000) then BitVec.ofNat 16 (p.holder % 0x10000 - 0x2000) else 0xFFFF
    [(1 : BitVec 1) ++ BitVec.ofNat 4 pkind ++ BitVec.ofNat 3 oclass ++ BitVec.ofNat 8 p.gen ++ BitVec.ofNat 16 p.rtag ++ (0 : BitVec 8)
       ++ BitVec.ofNat 8 olen ++ p.trimBy,
     BitVec.ofNat 16 p.seq ++ (0 : BitVec 3) ++ BitVec.ofNat 13 (epCoreId p.dst) ++ (0 : BitVec 3)
       ++ BitVec.ofNat 13 (if own then p.holder else 0x1FFF) ++ (0 : BitVec 4)
       ++ BitVec.ofNat 12 (if epIsPeer p.src then epPeerOf p.src else if epIsPeer p.dst then self else 0),
     what, (0 : BitVec 16) ++ holder ++ p.ttick]
  | _ => []

/-- Count a trim (spec/17_network.md R411). -/
def State.countTrim (s : State) (p : Packet) (r : Nat) (o : Port) : State :=
  let n := 16 * r + 2 * o.code + (p.cls - 2)
  let c := Map.get {} s.ports n
  { s with ports := Map.put s.ports n { trims := c.trims + 1, trimb := c.trimb + BitVec.ofNat 64 p.len } }

/-! Sending. -/

/-- A retain entry's number: the first not in use. -/
def Endpoint.freeTag (e : Endpoint) : Nat :=
  ((List.range (e.retain.length + 1)).find? fun t => e.retain.all fun r => decide (r.rtag ≠ t)).getD 0

/-- The next sequence number of a stream. -/
def State.nextSeq (s : State) (src dst : Nat) (inorder : Bool) : Nat := Map.get 0 (s.ep src).nextSeq (streamKey dst inorder)

/-- Advance a stream. -/
def State.bumpSeq (s : State) (src dst : Nat) (inorder : Bool) : State :=
  s.modEp src fun e =>
    { e with nextSeq := Map.put e.nextSeq (streamKey dst inorder) ((Map.get 0 e.nextSeq (streamKey dst inorder) + 1) % 65536) }

/-- What a sender says of a packet. -/
structure Send where
  src : Nat
  dst : Nat
  cls : Nat := 2
  body : Body
  len : Nat := 0
  inorder : Bool := false
  retain : Option Nat := none
  job : Nat := 0
  legs : List Leg := []
  deriving DecidableEq, Repr, Inhabited

/-- Send a packet: sequence number, retain entry with its generation, identity (spec/17_network.md R401 to R404). -/
def State.send (s : State) (x : Send) : State :=
  let seq := s.nextSeq x.src x.dst x.inorder
  let s1 := s.bumpSeq x.src x.dst x.inorder
  let e := s1.ep x.src
  let tag := e.freeTag
  let gen := Map.get 0 e.gens tag % 256
  let p : Packet :=
    { id := s1.nextId, cls := x.cls, src := x.src, dst := x.dst, seq := seq, holder := x.src, len := x.len
      pkind := x.body.pkind, job := x.job, inorder := x.inorder, legs := x.legs, body := x.body
      rtag := if x.retain.isSome then tag else 0, gen := if x.retain.isSome then gen else 0 }
  let s2 := { s1 with net := s1.net ++ [p], nextId := s1.nextId + 1 }
  match x.retain with
  | none => s2
  | some bytes =>
    s2.modEp x.src fun e =>
      { e with
        retain := e.retain ++ [{ rtag := tag, gen := gen, bytes := bytes, pkt := p, born := s.dtime, waits := 1 + x.legs.length, order := p.id }]
        gens := Map.put e.gens tag (gen + 1) }

/-- Send a class 0 packet. Log: DESIGN CHOICE, notes/assumptions/131.md. -/
def State.control (s : State) (src dst : Nat) (b : Body) : State := s.send { src := src, dst := dst, cls := 0, body := b }

/-- Acknowledge a packet to its holder (spec/17_network.md R402); the failure of a write travels with it (spec/06_memory.md R139). -/
def State.ack (s : State) (p : Packet) (fail : Nat) : State := s.control p.dst p.holder (.ack p.rtag p.gen p.seq fail)

/-! Links (spec/17_network.md R416, R417). -/

/-- The switch to the next key, whose counter starts at 0: a transmitter's at its next flit boundary (DEDUCED, notes/assumptions/29.md), a receiver's
at the transmitter's mark, until when it holds both keys. -/
def LinkDir.switched (d : LinkDir) : LinkDir :=
  match d.next with
  | some (k, salt) => { d with key := some k, salt := salt, next := none, ctr := 0, idle := false }
  | none => d

/-- Counter values a key has left (spec/17_network.md R417). -/
def LinkDir.left (d : LinkDir) : Nat := if d.idle then 0 else 2 ^ 48 - d.ctr.toNat

/-- Count flits of a transmitter (spec/17_network.md R416, R417): after the flit at the last counter value it idles and raises a key-exhaustion event. -/
def LinkDir.counted (d : LinkDir) (n : Nat) : LinkDir :=
  if n < d.left then { d with ctr := d.ctr + BitVec.ofNat 48 n } else { d with ctr := BitVec.allOnes 48, idle := true, due := true }

/-- Whether a transmitter sends packets: it has a key and does not idle. Log: DEDUCED, notes/assumptions/29.md. -/
def LinkDir.sends (d : LinkDir) : Bool := (d.key.isSome || d.next.isSome) && (!d.idle || d.next.isSome)

/-- The flits of a packet of `n` that have still to cross. -/
def LinkDir.rest (d : LinkDir) (id n : Nat) : Nat := if d.of = id then n - d.part else n

/-- Whether no part of another packet has crossed: the flits of one packet travel together (spec/17_network.md R394). -/
def LinkDir.freeFor (d : LinkDir) (id : Nat) : Bool := decide (d.of = 0) || decide (d.of = id)

/-- Whether the rest of a packet of `n` flits can cross under the key in force, behind no other packet's. -/
def LinkDir.fits (d : LinkDir) (id n : Nat) : Bool := d.freeFor id && d.sends && decide (d.rest id n ≤ d.switched.left)

/-- The rest of a packet has crossed. Log: DEDUCED, notes/assumptions/29.md. -/
def LinkDir.crossed (d : LinkDir) (id n : Nat) : LinkDir :=
  { d.switched.counted (d.rest id n) with fails := 0, part := if d.of = id then 0 else d.part, of := if d.of = id then 0 else d.of }

/-- Some flits of a packet cross ahead of the rest (spec/17_network.md R416, R417): a link that carries part of another packet first carries the rest of
that. -/
def LinkDir.ahead (d : LinkDir) (id k : Nat) : LinkDir :=
  { d.switched.counted k with fails := 0, part := (if d.of = id then d.part else 0) + k, of := id }

/-- The key ends within a packet: the flits it has values for are sent, and the link idles (spec/17_network.md R417). -/
def LinkDir.exhausted (d : LinkDir) (id : Nat) : LinkDir := d.ahead id d.switched.left

/-- A packet from a peer has crossed the link it enters by: the receiving direction counts its flits, and its failures in a row end. -/
def State.enterLink (s : State) (p : Packet) : State :=
  if p.loc = .source ∧ epIsPeer p.src then
    let a := s.entryPort p
    let l := s.link a
    { s with links := Map.put s.links a { l with rx := { l.rx with ctr := l.rx.ctr + BitVec.ofNat 48 (p.flits true - l.rx.part), part := 0, fails := 0 } } }
  else s

/-! Switching (spec/17_network.md R396, R399, R410). -/

/-- A packet that meets a failed hop is discarded at a router, and its source told (spec/17_network.md R414): of a read its request, of what a holder
keeps its entry. Log: DEDUCED, notes/assumptions/79.md. -/
def State.discard (s : State) (p : Packet) (r : Nat) : State :=
  let req := match p.body with | .areq _ => true | _ => false
  let ent := if (p.pkind < 6 ∧ p.pkind ≠ 3) ∨ req = true then some (p.rtag, p.gen) else none
  (s.dropPacket p.id).control (epHome r) p.src (.unreach ent (match p.body with | .read r => some r | _ => none))

/-- At the end of a fabric queue: a packet whose link has failed is discarded, and one that outlasts its link's key is sent in part
(spec/17_network.md R414, R417). -/
def State.fabricEnd (s : State) (p : Packet) : State :=
  match p.loc with
  | .queue r .fabric =>
    if !s.served p then s
    else match s.exitPort p with
      | none => s.discard p r
      | some (a, _) =>
        let l := s.link a
        if l.tx.sends && !l.tx.fits p.id (p.flits true) && l.tx.freeFor p.id then
          { s with links := Map.put s.links a { l with tx := l.tx.exhausted p.id } }
        else s
  | _ => s

/-- A packet enters an output queue, whole or as a whey, judged against that queue alone (spec/17_network.md R399, R410); a fabric port's is that of the
port chosen, and at a failed hop without a detour the packet is discarded and the source told (R414). -/
def State.enter (s : State) (p : Packet) (r : Nat) (o : Port) : State :=
  if o = .fabric then
    match s.exitPort p with
    | none => s.discard p r
    | some (a, d) =>
      let q := { p with detour := d, out := some a }
      if s.trims q r o then (s.countTrim q r o).requeue (s.wheyOf q r o) else s.requeue { q with loc := .queue r o }
  else if s.trims p r o then (s.countTrim p r o).requeue (s.wheyOf p r o)
  else s.requeue { p with loc := .queue r o }

/-- The destinations of a packet that go to one place enter its queue: those of the first go on as the packet, the others, where the routes part, as a
packet of their own. -/
def State.enterBranch (s : State) (id : Nat) (b : Hop × Packet) : State :=
  match b.1 with
  | .arrive => s
  | .to r o =>
    if s.net.any fun q => decide (q.id = id) && decide (q.loc = b.2.loc) then s.enter b.2 r o
    else ({ s with nextId := s.nextId + 1 }).enter { b.2 with id := s.nextId } r o

/-- PACKET_HEAD_SWITCH (spec/17_network.md R396, R397, R399, R410): a served head moves one hop; a multicast whose routes part here moves to every output
at once. Log: DEDUCED, notes/assumptions/84.md. -/
def State.headSwitch (s : State) (id : Nat) : State :=
  match s.packet id with
  | none => s
  | some p =>
    match s.hop p with
    | .arrive => s.fabricEnd p
    | .to r o =>
      if !(s.served p && (s.hops p).all fun h => s.firstIn p h) then s
      else
        let s1 := (s.countShare p).enterLink p
        match p.legs with
        | [] => s1.enter p r o
        | _ => ((s.hops p).filterMap fun h => (s.branch p h).map fun q => (h, q)).foldl (fun s b => s.enterBranch id b) s1

/-! Arrival. -/

/-- Whether a packet stands served at its end, so that its arrival may come (spec/17_network.md R396). Log: DEDUCED, notes/assumptions/84.md. -/
def State.atEnd (s : State) (p : Packet) : Bool :=
  decide (s.hop p = .arrive) && s.served p &&
    (match p.loc with
     | .queue _ .fabric => (match s.exitPort p with | some (a, _) => (s.link a).tx.fits p.id (p.flits true) | none => false)
     | _ => true)

/-- Count the flits a fabric packet takes on its link. Log: DEDUCED, notes/assumptions/29.md. -/
def State.crossLink (s : State) (p : Packet) : State :=
  match p.loc with
  | .queue _ .fabric =>
    match s.exitPort p with
    | none => s
    | some (a, _) =>
      let l := s.link a
      { s with links := Map.put s.links a { l with tx := l.tx.crossed p.id (p.flits true) } }
  | _ => s

/-- Take an arriving packet off the network. -/
def State.takePacket (s : State) (p : Packet) : State := ((s.countShare p).crossLink p).dropPacket p.id

/-- Record a hole (spec/17_network.md R405, R406). -/
def State.addHole (s : State) (ep : Nat) (h : Hole) : State :=
  let s := s.modEp ep fun e =>
    { e with holes := e.holes ++ [{ h with id := s.nextId, timer := s.dtime + 64, born := s.dtime, cyc := s.cycles, n := 0 }]
             count := { e.count with holes := e.count.holes + 1 } }
  { s with nextId := s.nextId + 1 }

/-- The holes of the numbers a packet skips: whose packets they are is not known, until their wheys come. -/
def State.addSkipped (s : State) (p : Packet) : State :=
  (s.missing p).foldl (fun s q =>
    s.addHole p.dst { id := 0, src := p.src, seq := q, inorder := true, holder := p.holder, rtag := 0, gen := 0, known := false, timer := 0, born := 0 }) s

/-- The hole that a whole packet, discarded for want of a hold place, leaves (spec/17_network.md R405). -/
def Packet.asHole (p : Packet) : Hole :=
  { id := 0, src := p.src, seq := p.seq, inorder := p.inorder, holder := p.holder, rtag := p.rtag, gen := p.gen, known := true
    timer := 0, born := 0, pkind := p.body.pkind, what := p.body.what, re := p.body.request, job := p.job }

/-- The next number of a stream, where it has been held or counts as accepted: the stream past it, and the held packet. -/
def Stream.next (st : Stream) : Option (Stream × Option Packet) :=
  let st1 := { st with expect := (st.expect + 1) % 65536 }
  match st.held.find? fun q => decide (q.seq = st.expect) with
  | some q => some ({ st1 with held := st.held.filter fun x => decide (x.seq ≠ q.seq) }, some q)
  | none => if st.done.contains st.expect then some ({ st1 with done := st.done.filter fun x => decide (x ≠ st.expect) }, none) else none

/-- Steps in which a stream goes past what it holds. -/
def Stream.steps (st : Stream) : Nat := st.held.length + st.done.length + 1

/-- Put the receiving side of a stream. -/
def State.putStream (s : State) (ep src : Nat) (inorder : Bool) (st : Stream) : State :=
  s.modEp ep fun e => { e with streams := Map.put e.streams (streamKey src inorder) st }

/-- Drop a hole record. -/
def State.dropHole (s : State) (ep id : Nat) : State :=
  s.modEp ep fun e => { e with holes := e.holes.filter fun h => decide (h.id ≠ id) }

/-- Count a duplicate (spec/17_network.md R403). -/
def State.countDup (s : State) (ep : Nat) : State :=
  s.modEp ep fun e => { e with count := { e.count with dups := e.count.dups + 1 } }

/-- A packet reaches its place in an in-order stream: accepted, upon which those held behind it follow one by one (`State.drain`), held, or discarded as
a hole (spec/17_network.md R407). -/
def State.orderIn (s : State) (p : Packet) : State × Option Packet :=
  let st := (s.ep p.dst).stream p.src true
  if p.seq = st.expect then (s.putStream p.dst p.src true { st with expect := (st.expect + 1) % 65536 }, some p)
  else
    let room := s.holdPlace p
    let s := s.addSkipped p
    if room then (s.putStream p.dst p.src true { st with held := st.held ++ [p] }, none)
    else (s.addHole p.dst p.asHole, none)

/-- Whether a packet matches a hole (spec/17_network.md R403): holder, RTAG and GEN; a hole of a skipped number knows the last two from its whey only.
Log: DEDUCED, notes/assumptions/104.md. -/
def Hole.matches (h : Hole) (p : Packet) : Bool :=
  decide (h.holder = p.holder) && (!h.known || (decide (h.rtag = p.rtag) && decide (h.gen = p.gen)))

/-- An arriving packet (one destination): whether its destination accepts it now (spec/17_network.md R403, R405, R407). -/
def State.streamIn (s : State) (p : Packet) : State × Option Packet :=
  let e := s.ep p.dst
  match e.holeOf p with
  | some h =>
    if !h.matches p then (s.countDup p.dst, none)
    else
      let s := s.dropHole p.dst h.id
      let p := { p with waited := s.cycles - h.cyc }
      if p.inorder then s.orderIn p else (s, some p)
  | none =>
    if p.again then (s.countDup p.dst, none)
    else if !p.inorder then (s, some p)
    else if s.old p then (s.countDup p.dst, none)
    else s.orderIn p

/-- WHEY_ARRIVAL (spec/17_network.md R405): a hole is recorded, or the hole of a skipped number learns its holder. -/
def State.wheyIn (s : State) (p : Packet) : State :=
  match p.body with
  | .whey pkind _ _ what re =>
    match (s.ep p.dst).holeOf p with
    | some h =>
      s.modEp p.dst fun e => { e with holes := e.holes.map fun x =>
        if x.id = h.id then { x with holder := p.holder, rtag := p.rtag, gen := p.gen, known := true, pkind := pkind, what := what, re := re, job := p.job } else x }
    | none =>
      if p.inorder && s.old p then s.countDup p.dst
      else
        let s := if p.inorder then s.addSkipped p else s
        s.addHole p.dst { p.asHole with pkind := pkind, what := what, re := re }
  | _ => s

/-- Abandon a hole (spec/17_network.md R408): its number counts as accepted. -/
def State.abandon (s : State) (ep : Nat) (h : Hole) : State :=
  let s := (s.dropHole ep h.id).modEp ep fun e => { e with count := { e.count with lost := e.count.lost + 1 } }
  if !h.inorder then s
  else
    let st := (s.ep ep).stream h.src true
    s.putStream ep h.src true { st with done := h.seq :: st.done }

/-- The wait after `n` pulls (spec/17_network.md R406). -/
def pullWait (n : Nat) : Nat := min (64 * 2 ^ n) 8000

/-- PULL (spec/17_network.md R406): at the timer, a pull to the holder, or to the serving place for a read reply. -/
def State.sendPull (s : State) (ep id : Nat) : State :=
  match (s.ep ep).holes.find? fun h => decide (h.id = id) with
  | none => s
  | some h =>
    if s.dtime < h.timer then s
    else
      let s := s.modEp ep fun e =>
        { e with
          holes := e.holes.map fun x => if x.id = id then { x with n := x.n + 1, timer := s.dtime + pullWait (x.n + 1) } else x
          count := { e.count with pulls := e.count.pulls + 1, repulls := e.count.repulls + (if h.n = 0 then 0 else 1) } }
      s.control ep h.holder
        (.pull { hole := id, src := h.src, seq := h.seq, inorder := h.inorder, known := h.known, rtag := h.rtag, gen := h.gen, re := h.re })

/-- What a holder sends again: the entry's packet, or that one of a multicast's copies. -/
def Retain.copyFor (r : Retain) (dst seq : Nat) : Option Packet :=
  r.pkt.copies.find? fun q => decide (q.dst = dst) && decide (q.seq = seq)

/-- PULL_RECEIVED at a holder of retained payloads (spec/17_network.md R406): the packet again in class 1 if the holder still has the entry the
pull names, or GONE. The reader of a read reply is served by `State.serveRead`. -/
def State.answerPull (s : State) (p : Packet) (q : Pull) : State :=
  let entry := (s.ep p.dst).retain.find? fun r =>
    (!q.known || (decide (r.rtag = q.rtag) && decide (r.gen = q.gen))) && (r.copyFor p.src q.seq).isSome && decide (r.pkt.inorder = q.inorder)
  match entry.bind fun r => r.copyFor p.src q.seq with
  | some x => { s with net := s.net ++ [{ x with id := s.nextId, cls := 1, loc := .source, again := true, legs := [] }], nextId := s.nextId + 1 }
  | none => s.control p.dst p.src (.gone q.hole)

/-- A retain entry of an acknowledgement (spec/17_network.md R402, R403, R410): one copy fewer, and the entry is freed with the last. -/
def State.freeRetain (s : State) (ep rtag gen dst seq : Nat) : State :=
  s.modEp ep fun e =>
    let rs := e.retain.map fun r => if r.rtag = rtag ∧ r.gen = gen then { r with waits := r.waits - 1, done := (dst, seq) :: r.done } else r
    { e with retain := rs.filter fun r => decide (0 < r.waits) }

/-- The entry an acknowledgement names. -/
def State.retained (s : State) (ep rtag gen : Nat) : Option Retain :=
  (s.ep ep).retain.find? fun r => decide (r.rtag = rtag) && decide (r.gen = gen)

/-- Add DELAY of a reply to the LATACC register of its bank group (spec/19_debug.md R456): a free value and what the hole it filled has waited, held;
the group is that of the cluster that served it, or of the port or the host port it came in by. A reply of the core's own scratchpad is not counted. Log:
DESIGN CHOICE, notes/assumptions/6.md. -/
def State.latAdd (s : State) (k : Nat) (p : Packet) : State :=
  if p.src = k then s else
  let g := (if epIsPeer p.src then portRouter (s.entryPort p) else epRouter p.src) / 12
  let d := min ((Config.freeDelay s.free).toNat + p.waited) (2 ^ 24 - 1)
  let s := { s with free := s.free + 1 }
  s.modCore k fun c =>
    let v := Map.get 0 c.latacc g
    let n := min (v.toNat / 2 ^ 40 + 1) (2 ^ 24 - 1)
    let t := min (v.toNat % 2 ^ 40 + d) (2 ^ 40 - 1)
    { c with latacc := Map.put c.latacc g (BitVec.ofNat 64 (n * 2 ^ 40 + t)) }

/-! What Fleiz reads and clears, and what it writes (spec/17_network.md R411, R412, R414). -/

/-- The two counters of an output port of a router in class 2 or 3. -/
def State.portCount (s : State) (r : Nat) (o : Port) (c : Nat) : PortCount := Map.get {} s.ports (16 * r + 2 * o.code + (c - 2))

/-- Clear the counters of an output port in a class. -/
def State.clearPort (s : State) (r : Nat) (o : Port) (c : Nat) : State :=
  { s with ports := s.ports.filter fun x => decide (x.1 ≠ 16 * r + 2 * o.code + (c - 2)) }

/-- Clear the counters of an endpoint. -/
def State.clearEp (s : State) (e : Nat) : State := s.modEp e fun x => { x with count := {} }

/-- Write the node's own address and the dimension sizes. -/
def State.writeAddress (s : State) (peer ring0 ring1 mesh0 mesh1 : Nat) : State :=
  { s with peer := peer % 4096, ring0 := ring0, ring1 := ring1, mesh0 := mesh0, mesh1 := mesh1 }

/-- A link marked failed (spec/17_network.md R414, R416): what had crossed of a packet is lost, and the packet goes whole or not at all. -/
def Link.fail (l : Link) : Link := { l with failed := true, tx := { l.tx with part := 0, of := 0 }, rx := { l.rx with part := 0 } }

/-- Write a port's failed mark and its row of the detour table. -/
def State.writeDetour (s : State) (a : Nat) (failed : Bool) (by_ : Option Nat) : State :=
  let l := s.link a
  { s with links := Map.put s.links a { (if failed then l.fail else { l with failed := false }) with detour := by_ } }

/-- The traffic classes in which a packet may cross the fabric (spec/17_network.md R395, R415): a retransmission in 1; control in 0; the data of copies in
2 or 3; all else in 2. -/
def Packet.crosses (p : Packet) : Bool :=
  if p.again then decide (p.cls = 1)
  else match p.body with
    | .ack _ _ _ _ => decide (p.cls = 0)
    | .whey _ _ _ _ _ => decide (p.cls = 0)
    | .pull _ => decide (p.cls = 0)
    | .gone _ => decide (p.cls = 0)
    | .unreach _ _ => decide (p.cls = 0)
    | .posted q => decide (p.cls = 2) || (q.copy.isSome && decide (p.cls = 3))
    | .read r => decide (p.cls = 2) || (r.copy && decide (p.cls = 3))
    | .readRep r _ _ => decide (p.cls = 2) || (r.copy && decide (p.cls = 3))
    | _ => decide (p.cls = 2)

/-- Whether a packet may come from a peer: from one of its endpoints, in a traffic class of its kind, messages and what is posted to a core in order
(spec/17_network.md R404, R415), and what it asks for is asked for the peer itself. Log: DEDUCED, notes/assumptions/79.md. -/
def Packet.foreign (p : Packet) : Bool :=
  epIsPeer p.src && p.crosses && p.legs.isEmpty &&
    match p.body with
    | .msg _ => p.inorder && epIsHome (p.dst % 0x10000)
    | .read r => decide (r.core = p.src)
    | .atomic r => decide (r.core = p.src)
    | .posted q => decide (q.core = p.src) && decide (q.ep = p.dst) && decide (p.inorder = epIsCore (p.dst % 0x10000))
    | .readRep _ _ _ => true
    | .atomicRep _ _ _ _ _ => true
    | .ack _ _ _ _ => true
    | .whey _ _ _ _ _ => true
    | .pull q => (match q.re with | some r => decide (r.core = p.src) | none => true)
    | .gone _ => true
    | .unreach _ _ => true
    | _ => false

/-- One flit crosses a link sound, ahead of the rest of its packet (spec/17_network.md R416): it ends a run of failures. A transmitter sends it of the packet
that its port serves. -/
def State.goodFlit (s : State) (a : Nat) (rx : Bool) : State :=
  let l := s.link a
  if rx then
    if l.failed || l.rx.key.isNone then s
    else { s with links := Map.put s.links a { l with rx := { l.rx with ctr := l.rx.ctr + 1, part := l.rx.part + 1, fails := 0 } } }
  else match s.net.find? fun p => s.atEnd p && (match p.loc with | .queue _ .fabric => true | _ => false)
      && (match s.exitPort p with | some x => decide (x.1 = a) | none => false) && decide (1 < l.tx.rest p.id (p.flits true)) with
    | some p => { s with links := Map.put s.links a { l with tx := l.tx.ahead p.id 1 } }
    | none => s

/-- The mark of the peer's transmitter is seen on a link: the receiver leaves the old key (spec/17_network.md R416). -/
def State.rxMark (s : State) (a : Nat) : State := { s with links := Map.put s.links a { s.link a with rx := (s.link a).rx.switched } }

end Sys2Proof.Machine
end

