-- ==== Sys2Proof/Machine/Numbers.lean ====
section
/-! DEFINITION. Number formats and rounding (spec/12_numbers.md R274 to R286) and the scalar floating-point functions
(spec/04_scalar.md R81 to R88). A value is an exact dyadic number; a quotient or root carries a mark that its exact value lies
above the digits kept. -/

namespace Sys2Proof.Machine

/-- Flags: NV, DZ, OF, UF, NX (spec/12_numbers.md R291). -/
def fNV : BitVec 5 := 1
/-- DZ. -/
def fDZ : BitVec 5 := 2
/-- OF. -/
def fOF : BitVec 5 := 4
/-- UF. -/
def fUF : BitVec 5 := 8
/-- NX. -/
def fNX : BitVec 5 := 16
/-- A flag when a condition holds. -/
def flagIf (b : Bool) (f : BitVec 5) : BitVec 5 := if b then f else 0

/-- The floating-point formats (spec/12_numbers.md R274, spec/04_scalar.md R81). -/
inductive FTy where
  | f64 | f32 | bf | hf | f8a | f8b | f6a | f6b | f4
  deriving DecidableEq, Repr, Inhabited

/-- Exponent bits. -/
def FTy.ebits : FTy → Nat
  | .f64 => 11 | .f32 => 8 | .bf => 8 | .hf => 5 | .f8a => 4 | .f8b => 5 | .f6a => 3 | .f6b => 2 | .f4 => 2
/-- Mantissa bits. -/
def FTy.mbits : FTy → Nat
  | .f64 => 52 | .f32 => 23 | .bf => 7 | .hf => 10 | .f8a => 3 | .f8b => 2 | .f6a => 2 | .f6b => 3 | .f4 => 1
/-- Bias. -/
def FTy.bias : FTy → Nat
  | .f64 => 1023 | .f32 => 127 | .bf => 127 | .hf => 15 | .f8a => 7 | .f8b => 15 | .f6a => 3 | .f6b => 1 | .f4 => 1
/-- Whether the format has infinities and the usual NaN codes. -/
def FTy.ieee : FTy → Bool
  | .f64 => true | .f32 => true | .bf => true | .hf => true | .f8b => true | _ => false
/-- Whether a NaN with the top mantissa bit clear is signaling (spec/12_numbers.md R283). -/
def FTy.signals : FTy → Bool
  | .f64 => true | .f32 => true | .bf => true | .hf => true | _ => false
/-- Width in bits. -/
def FTy.width (t : FTy) : Nat := 1 + t.ebits + t.mbits
/-- Exponent field and mantissa of the largest finite value. -/
def FTy.maxE (t : FTy) : Nat := if t.ieee then 2 ^ t.ebits - 2 else 2 ^ t.ebits - 1
/-- Mantissa of the largest finite value. -/
def FTy.maxM (t : FTy) : Nat := if t = .f8a then 6 else 2 ^ t.mbits - 1
/-- Exponent of the unit of the subnormal codes. -/
def FTy.minQ (t : FTy) : Int := 1 - (t.bias : Int) - t.mbits
/-- A code from its fields. -/
def FTy.code (t : FTy) (neg : Bool) (e m : Nat) : Nat := (if neg then 2 ^ (t.ebits + t.mbits) else 0) + e * 2 ^ t.mbits + m
/-- The canonical NaN (spec/12_numbers.md R283, spec/04_scalar.md R82). -/
def FTy.nan (t : FTy) : Nat := if t = .f8a then 0x7F else t.code false (2 ^ t.ebits - 1) (2 ^ (t.mbits - 1))
/-- An infinity. -/
def FTy.inf (t : FTy) (neg : Bool) : Nat := t.code neg (2 ^ t.ebits - 1) 0
/-- The largest finite value. -/
def FTy.max (t : FTy) (neg : Bool) : Nat := t.code neg t.maxE t.maxM

/-- A decoded value: a NaN, an infinity, or (−1)^neg · m · 2^e, plus less than one unit of 2^e when `up`. -/
inductive Val where
  | nan (sig : Bool)
  | inf (neg : Bool)
  | fin (neg : Bool) (m : Nat) (e : Int) (up : Bool)
  deriving DecidableEq, Repr, Inhabited

/-- Zero. -/
def Val.zero (neg : Bool) : Val := .fin neg 0 0 false
/-- An integer. -/
def Val.int (i : Int) : Val := .fin (decide (i < 0)) i.natAbs 0 false

/-- The value of a code (spec/12_numbers.md R274 to R276). -/
def decodeFp (t : FTy) (w : Nat) : Val :=
  let w := w % 2 ^ t.width
  let neg := decide (2 ^ (t.ebits + t.mbits) ≤ w)
  let e := w / 2 ^ t.mbits % 2 ^ t.ebits
  let m := w % 2 ^ t.mbits
  if t.ieee ∧ e = 2 ^ t.ebits - 1 then (if m = 0 then .inf neg else .nan (t.signals && decide (m < 2 ^ (t.mbits - 1))))
  else if t = .f8a ∧ e = 15 ∧ m = 7 then .nan false
  else if e = 0 then (if t = .bf then .zero neg else .fin neg m t.minQ false)
  else .fin neg (2 ^ t.mbits + m) ((e : Int) - t.bias - t.mbits) false

/-- Rounding with its draw. -/
inductive Rnd where
  | rne | rtz
  | sr (r : BitVec 32)
  deriving DecidableEq, Repr, Inhabited

/-- Overflow rules (spec/12_numbers.md R282): infinity, or the largest finite value. -/
inductive Ovf where
  | inf | sat
  deriving DecidableEq, Repr, Inhabited

/-- `m · 2^e` as a whole number of units of `2^q`, rounded, and whether it was inexact (spec/12_numbers.md R280, R281). -/
def roundUnit (m : Nat) (e q : Int) (up : Bool) (rm : Rnd) : Nat × Bool :=
  if q ≤ e then (m * 2 ^ (e - q).toNat, up)
  else
    let sh := (q - e).toNat
    let n := m / 2 ^ sh
    let r := m % 2 ^ sh
    let inexact := decide (r ≠ 0) || up
    let away := match rm with
      | .rne => decide (2 ^ sh < 2 * r) || (decide (2 * r = 2 ^ sh) && (up || decide (n % 2 = 1)))
      | .rtz => false
      | .sr d => decide (2 ^ 32 ≤ r * 2 ^ 32 / 2 ^ sh + d.toNat)
    (if inexact && away then n + 1 else n, inexact)

/-- Whether `a · 2^p` exceeds `b · 2^q`. -/
def scaledGt (a : Nat) (p : Int) (b : Nat) (q : Int) : Bool :=
  if q ≤ p then decide (b < a * 2 ^ (p - q).toNat) else decide (b * 2 ^ (q - p).toNat < a)

/-- A rounded result: its code, the flags it raises, whether the written value is a saturation, and whether a finite
value rounded to infinity. -/
structure Rounded where
  bits : Nat
  flags : BitVec 5 := 0
  sat : Bool := false
  toInf : Bool := false
  deriving DecidableEq, Repr, Inhabited

/-- `round` to a floating-point format (spec/12_numbers.md R280 to R283). -/
def roundFp (t : FTy) (rm : Rnd) (ov : Ovf) : Val → Rounded
  | .nan sig =>
    if t.ieee || t = .f8a then { bits := t.nan, flags := flagIf sig fNV }
    else { bits := t.max false, flags := fNV, sat := true }
  | .inf neg => if t.ieee then { bits := t.inf neg } else { bits := t.max neg, flags := fOF ||| fNX, sat := true }
  | .fin neg m e up =>
    if m = 0 ∧ up = false then { bits := t.code neg 0 0 }
    else
      let top : Int := e + Nat.log2 m
      let emin : Int := 1 - (t.bias : Int)
      let q := Max.max (top - t.mbits) t.minQ
      let (n, inexact) := roundUnit m e q up rm
      let free := roundUnit m e (top - t.mbits) up rm
      let tiny := decide (top < emin) && inexact && decide ((top - t.mbits) + Nat.log2 free.1 < emin)
      if scaledGt n q (2 ^ t.mbits + t.maxM) ((t.maxE : Int) - t.bias - t.mbits) then
        if t.ieee ∧ ov = .inf then { bits := t.inf neg, flags := fOF ||| fNX, toInf := true }
        else { bits := t.max neg, flags := fOF ||| fNX, sat := true }
      else if n < 2 ^ t.mbits ∧ q = t.minQ then
        if t = .bf ∨ n = 0 then { bits := t.code neg 0 0, flags := fUF ||| fNX }
        else { bits := t.code neg 0 n, flags := flagIf tiny fUF ||| flagIf inexact fNX }
      else
        let (n', q') := if n = 2 ^ (t.mbits + 1) then (2 ^ t.mbits, q + 1) else (n, q)
        { bits := t.code neg (q' + t.bias + t.mbits).toNat (n' - 2 ^ t.mbits), flags := flagIf tiny fUF ||| flagIf inexact fNX }

/-- `round` to an integer range (spec/12_numbers.md R280, R282, R283, spec/04_scalar.md R88): the value and its flags. -/
def roundInt (lo hi : Int) (rm : Rnd) : Val → Int × BitVec 5 × Bool
  | .nan _ => (0, fNV, true)
  | .inf neg => (if neg then lo else hi, fNV, true)
  | .fin neg m e up =>
    let (n, inexact) := roundUnit m e 0 up rm
    let v : Int := if neg then -(n : Int) else n
    if v < lo then (lo, fNV, true) else if hi < v then (hi, fNV, true) else (v, flagIf inexact fNX, false)

/-- `round` to the MXINT8 element (spec/12_numbers.md R286): the nearest integer of x · 2^6, limited to −127 to 127. -/
def roundI8 (rm : Rnd) : Val → Rounded
  | .nan _ => { bits := 0, flags := fNV, sat := true }
  | .inf neg => { bits := if neg then 0x81 else 0x7F, flags := fOF ||| fNX, sat := true }
  | .fin neg m e up =>
    let (n, inexact) := roundUnit m (e + 6) 0 up rm
    if 127 < n then { bits := if neg then 0x81 else 0x7F, flags := fOF ||| fNX, sat := true }
    else { bits := if neg then (256 - n) % 256 else n, flags := flagIf inexact fNX }

/-! Exact arithmetic. -/

/-- Whether a value is a NaN. -/
def Val.isNan : Val → Bool
  | .nan _ => true | _ => false
/-- Whether a value is a signaling NaN. -/
def Val.isSig : Val → Bool
  | .nan s => s | _ => false
/-- Whether a value is a zero. -/
def Val.isZero : Val → Bool
  | .fin _ m _ u => decide (m = 0) && !u | _ => false
/-- The sign. -/
def Val.neg? : Val → Bool
  | .nan _ => false | .inf n => n | .fin n _ _ _ => n
/-- The negation. -/
def Val.negate : Val → Val
  | .nan s => .nan s | .inf n => .inf (!n) | .fin n m e u => .fin (!n) m e u
/-- The magnitude. -/
def Val.abs : Val → Val
  | .nan s => .nan s | .inf _ => .inf false | .fin _ m e u => .fin false m e u

/-- The signed digits of a finite value in units of `2^q`, `q` at most its exponent. -/
def units (n : Bool) (m : Nat) (e q : Int) : Int := (if n then -1 else 1) * (m * 2 ^ (e - q).toNat : Nat)

/-- An exact value and the flags its special cases raise (spec/04_scalar.md R83, R84). -/
structure Exact where
  val : Val
  flags : BitVec 5 := 0
  deriving DecidableEq, Repr, Inhabited

/-- A NaN among the operands: NV for a signaling one. -/
def nanOf (vs : List Val) : Exact := { val := .nan false, flags := flagIf (vs.any Val.isSig) fNV }

/-- The sum of two values. -/
def addVal (a b : Val) : Exact :=
  match a, b with
  | .fin na ma ea _, .fin nb mb eb _ =>
    let q := min ea eb
    let v := units na ma ea q + units nb mb eb q
    if v = 0 then { val := .zero (na && nb) }
    else { val := .fin (decide (v < 0)) v.natAbs q false }
  | .inf n, .inf n' => if n = n' then { val := .inf n } else { val := .nan false, flags := fNV }
  | .inf n, .fin _ _ _ _ => { val := .inf n }
  | .fin _ _ _ _, .inf n => { val := .inf n }
  | a, b => nanOf [a, b]

/-- The difference. -/
def subVal (a b : Val) : Exact := addVal a b.negate

/-- The product of two values. -/
def mulVal (a b : Val) : Exact :=
  if a.isNan || b.isNan then nanOf [a, b]
  else
    let n := a.neg? ^^ b.neg?
    match a, b with
    | .fin _ ma ea _, .fin _ mb eb _ => { val := .fin n (ma * mb) (ea + eb) false }
    | _, _ => if a.isZero || b.isZero then { val := .nan false, flags := fNV } else { val := .inf n }

/-- The quotient: a NaN for 0 / 0 and ∞ / ∞, DZ for a finite value over zero. -/
def divVal (a b : Val) : Exact :=
  if a.isNan || b.isNan then nanOf [a, b]
  else
    let n := a.neg? ^^ b.neg?
    match a, b with
    | .inf _, .inf _ => { val := .nan false, flags := fNV }
    | .inf _, _ => { val := .inf n }
    | _, .inf _ => { val := .zero n }
    | .fin _ ma ea _, .fin _ mb eb _ =>
      if mb = 0 then (if ma = 0 then { val := .nan false, flags := fNV } else { val := .inf n, flags := fDZ })
      else if ma = 0 then { val := .zero n }
      else
        let s := Nat.log2 mb + 80
        { val := .fin n (ma * 2 ^ s / mb) (ea - eb - s) (decide (ma * 2 ^ s % mb ≠ 0)) }
    | _, _ => nanOf [a, b]

/-- The integer square root, from bit `k` down. -/
def isqrtFrom (n acc : Nat) : Nat → Nat
  | 0 => acc
  | k + 1 => let t := acc + 2 ^ k; isqrtFrom n (if t * t ≤ n then t else acc) k

/-- The square root of a positive `m · 2^e`. -/
def sqrtFin (m : Nat) (e : Int) : Val :=
  let e2 : Int := if e % 2 = 0 then e else e - 1
  let m2 := (if e % 2 = 0 then m else 2 * m) * 2 ^ 160
  let r := isqrtFrom m2 0 (Nat.log2 m2 / 2 + 1)
  .fin false r (e2 / 2 - 80) (decide (r * r ≠ m2))

/-- The square root. -/
def sqrtVal (a : Val) : Exact :=
  match a with
  | .nan _ => nanOf [a]
  | .inf n => if n then { val := .nan false, flags := fNV } else { val := .inf false }
  | .fin n m e _ => if m = 0 then { val := .zero n } else if n then { val := .nan false, flags := fNV } else { val := sqrtFin m e }

/-- `a · b + c`, exact (spec/04_scalar.md R84): 0 · ∞ raises NV whatever c holds. -/
def fmaVal (a b c : Val) : Exact :=
  let p := mulVal a b
  let bad := !(a.isNan || b.isNan) && p.val.isNan
  if bad then { val := .nan false, flags := fNV }
  else if a.isNan || b.isNan || c.isNan then nanOf [a, b, c]
  else addVal p.val c

/-- Order of two values that are not NaN: negative, zero or positive with a − b, zeros equal. -/
def cmpVal (a b : Val) : Int :=
  match a, b with
  | .inf n, .inf n' => if n = n' then 0 else if n then -1 else 1
  | .inf n, _ => if n then -1 else 1
  | _, .inf n => if n then 1 else -1
  | .fin na ma ea _, .fin nb mb eb _ => let q := min ea eb; units na ma ea q - units nb mb eb q
  | _, _ => 0

/-- `fmin` and `fmax` (spec/04_scalar.md R83): −0 below +0, a NaN gives way to a number. -/
def minmaxVal (wantMax : Bool) (a b : Val) : Exact :=
  let f := flagIf (a.isSig || b.isSig) fNV
  if a.isNan && b.isNan then { val := .nan false, flags := f }
  else if a.isNan then { val := b, flags := f }
  else if b.isNan then { val := a, flags := f }
  else
    let c := cmpVal a b
    let less := decide (c < 0) || (decide (c = 0) && a.neg? && !b.neg?)
    { val := if less = wantMax then b else a, flags := f }

/-- Round an exact value and join its flags. -/
def Exact.round (x : Exact) (t : FTy) : Rounded :=
  let r := roundFp t .rne .inf x.val
  { r with flags := r.flags ||| x.flags }

/-- Scalar type of a precision. -/
def precTy : Prec → FTy
  | .s => .f32 | .d => .f64

/-- A scalar floating-point source. -/
def fpIn (p : Prec) (x : XWord) : Val := decodeFp (precTy p) x.toNat

/-- A scalar result: value and flags. -/
def Rounded.scalar (r : Rounded) : XWord × BitVec 5 := (BitVec.ofNat 64 r.bits, r.flags)

/-- `fadd` (spec/04_scalar.md R83). -/
def faddFn (p : Prec) (a b : XWord) : XWord × BitVec 5 := ((addVal (fpIn p a) (fpIn p b)).round (precTy p)).scalar
/-- `fsub`. -/
def fsubFn (p : Prec) (a b : XWord) : XWord × BitVec 5 := ((subVal (fpIn p a) (fpIn p b)).round (precTy p)).scalar
/-- `fmul`. -/
def fmulFn (p : Prec) (a b : XWord) : XWord × BitVec 5 := ((mulVal (fpIn p a) (fpIn p b)).round (precTy p)).scalar
/-- `fdiv`. -/
def fdivFn (p : Prec) (a b : XWord) : XWord × BitVec 5 := ((divVal (fpIn p a) (fpIn p b)).round (precTy p)).scalar
/-- `fsqrt`. -/
def fsqrtFn (p : Prec) (a : XWord) : XWord × BitVec 5 := ((sqrtVal (fpIn p a)).round (precTy p)).scalar
/-- `fmin` and `fmax`. -/
def fminmaxFn (wantMax : Bool) (p : Prec) (a b : XWord) : XWord × BitVec 5 :=
  ((minmaxVal wantMax (fpIn p a) (fpIn p b)).round (precTy p)).scalar
/-- `fma` (spec/04_scalar.md R84). -/
def fmaFn (p : Prec) (a b c : XWord) : XWord × BitVec 5 := ((fmaVal (fpIn p a) (fpIn p b) (fpIn p c)).round (precTy p)).scalar

/-- `fcmp` (spec/04_scalar.md R85). -/
def fcmpFn (p : Prec) (cond : FCond) (a b : XWord) : XWord × BitVec 5 :=
  let x := fpIn p a
  let y := fpIn p b
  let sig := flagIf (x.isSig || y.isSig) fNV
  let nan := x.isNan || y.isNan
  match cond with
  | .eq => (if !nan && decide (cmpVal x y = 0) then 1 else 0, sig)
  | .lt => (if !nan && decide (cmpVal x y < 0) then 1 else 0, flagIf nan fNV)
  | .le => (if !nan && decide (cmpVal x y ≤ 0) then 1 else 0, flagIf nan fNV)
  | .un => (if nan then 1 else 0, sig)

/-- `fclass` (spec/04_scalar.md R86): the class word. -/
def fclassFn (p : Prec) (a : XWord) : XWord :=
  let t := (precTy p)
  let neg := a.getLsbD (t.width - 1)
  let word (kind : Nat) (exp : Int) : XWord :=
    (0 : BitVec 16) ++ BitVec.ofInt 16 exp ++ (0 : BitVec 27) ++ bb neg ++ (0 : BitVec 1) ++ BitVec.ofNat 3 kind
  match fpIn p a with
  | .nan sig => word (if sig then 5 else 4) 0
  | .inf _ => word 3 0
  | .fin _ m e _ =>
    if m = 0 then word 0 0 else word (if m < 2 ^ t.mbits then 1 else 2) (e + Nat.log2 m)

/-- `fcvt` to floating point (spec/04_scalar.md R87): .s from .d, .d from .s, or an integer source. -/
def fcvtToFpFn (p : Prec) (src : FSrc) (a : XWord) : XWord × BitVec 5 :=
  let v := match src with
    | .other => fpIn (match p with | .s => .d | .d => .s) a
    | .s64 => Val.int a.toInt
    | .z64 => Val.int a.toNat
  (roundFp (precTy p) .rne .inf v).scalar

/-- `fcvt` to s64 or z64 (spec/04_scalar.md R88). -/
def fcvtToIntFn (signed : Bool) (p : Prec) (rtz : Bool) (a : XWord) : XWord × BitVec 5 :=
  let r := roundInt (if signed then -(2 ^ 63) else 0) (if signed then 2 ^ 63 - 1 else 2 ^ 64 - 1) (if rtz then .rtz else .rne) (fpIn p a)
  (BitVec.ofInt 64 r.1, r.2.1)

/-- Rounding's generator (spec/12_numbers.md R281): one step. -/
def genStep (g : BitVec 32) : BitVec 32 := if g.getLsbD 0 then (g >>> 1) ^^^ 0x80200003 else g >>> 1
/-- Some steps. -/
def genSteps (g : BitVec 32) : Nat → BitVec 32
  | 0 => g
  | n + 1 => genSteps (genStep g) n
/-- One draw: the new value of the generator. -/
def genDraw (g : BitVec 32) : BitVec 32 := genSteps g 32

end Sys2Proof.Machine
end

