-- ==== Sys2Proof/Machine/Place.lean ====
section
/-! DEFINITION. Places and the L1: lines of the L1 and their write-back (spec/06_memory.md R123), posting (R139), what a target does with a
request (R120, R135, R142, R258), and how a core takes the replies (R133 to R136, R140). -/

namespace Sys2Proof.Machine

/-- Why an access to a line fails at its target, 0 where it does not (spec/06_memory.md R135, R115). Log: DESIGN CHOICE, notes/assumptions/58.md. -/
def State.placeFail (s : State) (ep line : Nat) : Nat :=
  if epIsPeer ep && s.unreachable.contains (epPeerOf ep) then 3
  else if isPad line && decide (padOff line < 0x60000) && decide ((s.core (padCore line)).spsize ≤ padOff line) then 2
  else if s.ecc.contains line then 1
  else if s.poison.contains line then 5
  else 0

/-! Posting. -/

/-- The running activation's labels on a posted operation. -/
def Core.label (c : Core) (k : Nat) (p : Posted) : Posted :=
  match c.act with
  | some a => { p with core := k, job := a.job, cls := a.cls, incarn := a.incarn, stamp := c.ctx.entryStamp, act := a.uid }
  | none => { p with core := k }

/-- Post an operation toward its target: a buffer entry, a packet and its retain entry (spec/06_memory.md R139, spec/17_network.md R401).
Operations to a core travel in order. -/
def State.post (s : State) (k : Nat) (p : Posted) (cls : Nat) (room : Option Nat) : State :=
  let p := { p with id := s.nextId }
  let s := ({ s with nextId := s.nextId + 1 }).modCore k fun c => { c with posted := c.posted ++ [p] }
  s.send { src := k, dst := p.ep, cls := cls, body := .posted p, len := popCount p.mask.toNat 128, inorder := epIsCore p.ep
           retain := room, job := p.job }

/-- Retain bytes of a posted operation (spec/09_messages.md R203). Log: DEDUCED, notes/assumptions/14.md. -/
def Posted.room (p : Posted) : Nat := retainBytes (popCount p.mask.toNat 128)

/-! The L1 (spec/06_memory.md R123). -/

/-- Whether a write-back of a line is still on its way (spec/16_model.md R374, R376): loads that miss, stores and atomics of the line wait for it. -/
def Core.backing (c : Core) (line : Nat) : Bool := c.posted.any fun p => decide (p.kind = 3) && decide (p.line = line)

/-- Whether a place is a byte of core `k`'s own scratchpad (spec/16_model.md R374). -/
def ownPad (k p : Nat) : Bool := isPad p && decide (padCore p = k) && decide (padOff p < 0x60000)

/-- The L1 line of a place. -/
def Core.l1Find (c : Core) (line : Nat) : Option L1Line := c.l1.find? fun x => decide (x.line = line)
/-- Make a line the most recently used. -/
def Core.l1Touch (c : Core) (line : Nat) : Core :=
  match c.l1Find line with
  | some x => { c with l1 := x :: c.l1.filter fun y => decide (y.line ≠ line) }
  | none => c
/-- Whether a line may lie in the L1: device memory, and banks carved out. -/
def Core.cacheable (c : Core) (line : Nat) : Bool := isDev line && decide (0 < c.carve.lb)

/-- Post the dirty bytes of a line (a write-back takes no counted room; DEDUCED, notes/assumptions/14.md). -/
def State.writeBack (s : State) (k : Nat) (x : L1Line) : State :=
  if x.dirty = 0 then s
  else s.post k { kind := 3, va := BitVec.ofNat 64 (placeAddr x.line), line := x.line, mask := x.dirty, data := x.data, core := k, job := x.job, stamp := x.stamp
                  cls := x.cls, incarn := x.incarn, act := x.act, ep := x.ep, stores := x.stores } 2 (some 0)

/-- Write back those dirty lines a test selects; they stay valid and clean. -/
def State.writeBackIf (s : State) (k : Nat) (sel : L1Line → Bool) : State :=
  let s' := ((s.core k).l1.filter sel).foldl (fun s x => s.writeBack k x) s
  s'.modCore k fun c => { c with l1 := c.l1.map fun x => if sel x && decide (x.dirty ≠ 0) then { x with dirty := 0, stores := [] } else x }

/-- Write back and drop those lines a test selects; one that is still on its way to the L1 is not kept when it comes (spec/16_model.md R374). -/
def State.dropLines (s : State) (k : Nat) (sel : L1Line → Bool) : State :=
  (s.writeBackIf k sel).modCore k fun c =>
    { c with
      l1 := c.l1.filter fun x => !sel x
      out := c.out.map fun a => if a.parts.any fun p => sel { line := p.line, data := 0 } then { a with stale := true } else a }

/-- Whether the L1 holds a dirty byte. -/
def Core.l1Dirty (c : Core) : Bool := c.l1.any fun x => decide (x.dirty ≠ 0)

/-- The acquire of scope `clu` or wider (spec/06_memory.md R131): dirty bytes leave, every line is dropped, and the core waits for the
write-backs. Log: DEDUCED, notes/assumptions/87.md. -/
def State.acquireL1 (s : State) (k : Nat) : State :=
  let dirty := (s.core k).l1Dirty
  (s.dropLines k fun _ => true).modCore k fun c => { c with drain := c.drain || dirty }

/-- A load miss puts a line into the L1: the least recently used line of a full set leaves. A line with a posted store of this core still
on its way is not kept (DEDUCED, notes/assumptions/17.md). -/
def State.l1Fill (s : State) (k ep line : Nat) (d : BitVec 1024) (moment : Nat) : State :=
  let c := s.core k
  if !c.cacheable line || (c.l1Find line).isSome || c.posted.any (fun p => decide (p.line = line)) then s
  else
    let set (n : Nat) : Nat := n / 128 % 64
    let mates := c.l1.filter fun x => decide (set x.line = set line)
    let s := if mates.length < c.carve.lb then s
      else match mates.getLast? with
        | some old => s.dropLines k fun x => decide (x.line = old.line)
        | none => s
    s.modCore k fun c => { c with l1 := { line := line, ep := ep, data := d, moment := moment } :: c.l1 }

/-- A read or an atomic of a core has taken its value at a place at a moment: the L1 keeps no older copy of the line, and no request under way may
bring one (spec/16_model.md R374, R376). Moments are the identities of the replies, which rise in the order in which places serve. Log: DEDUCED,
notes/assumptions/119.md. -/
def State.seenAt (s : State) (k line moment : Nat) : State :=
  let old (x : L1Line) : Bool := decide (x.line = line) && decide (x.moment < moment)
  let s := if (s.core k).l1.any old then s.dropLines k old else s
  s.modCore k fun c =>
    { c with out := c.out.map fun a => if a.parts.any fun p => decide (p.line = line) && p.got.isNone then { a with after := max a.after moment } else a }

/-- The same for an atomic or counter operation. -/
def State.seenAccess (s : State) (k : Nat) (a : Access) (moment : Nat) : State := match a.line with | some l => s.seenAt k l moment | none => s

/-- A store that hits: the line takes the bytes and marks them dirty. -/
def Core.l1Store (c : Core) (line : Nat) (mask : BitVec 128) (d : BitVec 1024) (sp : Span) : Core :=
  let c := c.l1Touch line
  let a := c.act.getD {}
  let y : Stored := ⟨sp.lo, sp.hi, sp.view, a.uid⟩
  { c with l1 := c.l1.map fun x =>
      if x.line = line then
        { x with data := mergeLine x.data d mask, dirty := x.dirty ||| mask, stamp := c.ctx.entryStamp, job := a.job, cls := a.cls
                 incarn := a.incarn, act := a.uid
                 stores := if x.stores.contains y then x.stores else x.stores ++ [y] }
      else x }

/-! At the target. -/

/-- The logged bit of an own line is cleared for the running activation and for all pre-empted ones. -/
def State.unlogLine (s : State) (k l : Nat) : State :=
  s.modCore k fun c => { c with logged := c.logged.filter fun x => decide (x ≠ l), saved := c.saved.map fun x => x.unlog l }

/-- A line of a core is written by an activation of that core: its logged bit is cleared for every other one there. -/
def State.unlogBut (s : State) (k l uid : Nat) : State :=
  s.modCore k fun c =>
    { c with
      logged := if c.uid = uid then c.logged else c.logged.filter fun x => decide (x ≠ l)
      saved := c.saved.map fun x => if x.act.uid = uid then x else x.unlog l }

/-- A write by another party clears the logged bit of a line (spec/19_debug.md R454); `act` is the activation of the core that writes. -/
def State.clearLogged (s : State) (line writer act : Nat) : State :=
  if !isPad line then s
  else if padCore line ≠ writer then s.unlogLine (padCore line) (padOff line / 128)
  else s.unlogBut writer (padOff line / 128) act

/-- Place of block tag `i` of cluster `g` (spec/06_memory.md R146). -/
def tagPlace (g i : Nat) : Nat := placeStore g (0x90000 + 8 * i)
/-- Block tag `i` of cluster `g`. -/
def State.blockTag (s : State) (g i : Nat) : Nat := s.load (tagPlace g i) 8

/-- Bits of a block tag that are not reserved (spec/06_memory.md R146): V, JOB, BLOCK. -/
def tagBits : Nat := 2 ^ 63 + 255 * 2 ^ 40 + (2 ^ 20 - 1) * 2 ^ 12

/-- Whether a place lies among the block tags of an instruction store. -/
def isTag (p : Nat) : Bool := isPad p && decide (0x90000 ≤ padOff p) && decide (padOff p < 0x90080)

/-- A line with the reserved bits of the block tags at zero. -/
def tagLine (d : BitVec 1024) : BitVec 1024 :=
  d &&& BitVec.ofNat 1024 ((List.range 16).foldl (fun n i => n + tagBits * 2 ^ (64 * i)) 0)

/-- Write the masked bytes of a line at its place: the reserved bits of block tags take no value and read zero (spec/06_memory.md R146). -/
def State.putLine (s : State) (line : Nat) (mask : BitVec 128) (d : BitVec 1024) : State :=
  s.writeLine line mask (if isTag line then tagLine d else d)

/-- POSTED_OPERATION at its target (spec/06_memory.md R126, R139, spec/08_copy.md R181): the bytes are written, or the mark made, and the last write
of a copy into a line marks it full. Answers the failure code. Log: DEDUCED, notes/assumptions/87.md. -/
def State.performPosted (s : State) (p : Posted) : State × Nat :=
  let f := s.placeFail p.ep p.line
  if f ≠ 0 then (s, f)
  else
    let t := padCore p.line
    let l := padOff p.line / 128
    let s :=
      if p.kind = 1 then s.modCore t fun c => c.markEmpty l
      else if p.kind = 2 then s.modCore t fun c => c.markFull l
      else (s.putLine p.line p.mask p.data).clearLogged p.line p.core p.act
    let s := if p.last && isPad p.line then s.modCore t fun c => c.markFull l else s
    (s.touchPlace p.ep p.line, 0)

/-- READ_REQUEST at its target (spec/06_memory.md R120, R135, R138): the line as it stands, or the failure; `again` is the SEQ of a reply that
is pulled. Log: DEDUCED, notes/assumptions/87.md. -/
def State.serveRead (s : State) (ep : Nat) (r : ReadReq) (cls : Nat) (again : Option Nat) : State :=
  let f := s.placeFail ep r.line
  let d := if f = 0 then s.line r.line else 0
  let s := s.touchPlace ep r.line
  match again with
  | some seq =>
    { s with
      net := s.net ++ [{ id := s.nextId, cls := 1, src := ep, dst := r.core, seq := seq, holder := ep, len := 128, pkind := 3, again := true
                         job := r.job, body := .readRep r f d }]
      nextId := s.nextId + 1 }
  | none => s.send { src := ep, dst := r.core, cls := cls, body := .readRep r f d, len := 128, job := r.job }

/-- The new value of an atomic (spec/06_memory.md R142), and its flags. -/
def amoNew (op : AmoOp) (dbl : Bool) (old b c : XWord) : XWord × BitVec 5 :=
  let sx (v : XWord) : Int := if dbl then v.toInt else (v.setWidth 32).toInt
  match op with
  | .add => (old + b, 0)
  | .and => (old &&& b, 0)
  | .or => (old ||| b, 0)
  | .xor => (old ^^^ b, 0)
  | .min => (if sx b < sx old then b else old, 0)
  | .max => (if sx old < sx b then b else old, 0)
  | .swap => (b, 0)
  | .fadd => faddFn .s old b
  | .cas => (if old = b then c else old, 0)

/-- Bytes of an atomic. -/
def amoBytes (dbl : Bool) : Nat := if dbl then 8 else 4

/-- The value an atomic's destination takes (spec/06_memory.md R142). -/
def amoResult (op : AmoOp) (dbl : Bool) (old : Nat) : XWord :=
  if dbl || op = .fadd then BitVec.ofNat 64 old else (BitVec.ofNat 32 old).signExtend 64

/-- An atomic at a place, as one event: the old value and the flags. -/
def State.atomicAt (s : State) (p : Nat) (op : AmoOp) (dbl : Bool) (b c : XWord) : State × Nat × BitVec 5 :=
  let n := amoBytes dbl
  let old := s.load p n
  let r := amoNew op dbl (BitVec.ofNat 64 old) b c
  (s.store p n r.1.toNat, old, r.2)

/-- ATOMIC_REQUEST at its target: performed as one event, answered by a retained reply. -/
def State.serveAtomic (s : State) (ep : Nat) (r : AtomReq) : State :=
  let f := s.placeFail ep (lineOf r.addr)
  let (s, old, fl) := if f = 0 then s.atomicAt r.addr r.op r.dbl r.b r.c else (s, 0, 0)
  let s := if f = 0 then (s.touchPlace ep (lineOf r.addr)).clearLogged (lineOf r.addr) r.core (s.core r.core).uid else s
  s.send { src := ep, dst := r.core, body := .atomicRep r.acc f (amoResult r.op r.dbl old) fl r.va, len := 8, retain := some 0, job := r.job }

/-- A counter operation at its record, as one event (spec/11_tasks.md R260): the state, the underflow reason or 0, the value read, whether it
reached zero, and DW1 to DW3. -/
def State.counterAt (s : State) (p : Nat) (kind : CtrKind) : State × Nat × XWord × Bool × XWord × XWord × XWord :=
  let w := s.load p 8
  let dw (n : Nat) : XWord := BitVec.ofNat 64 (s.load (p + 8 * n) 8)
  let want := match kind with | .arrive => 1 | .dec => 2 | .read => 0
  if kind = .read then (s, 0, BitVec.ofNat 64 w, false, 0, 0, 0)
  else if w / 2 ^ 62 ≠ want then (s, 2, 0, false, 0, 0, 0)
  else if w % 2 ^ 32 = 0 then (s, 1, 0, false, 0, 0, 0)
  else
    let zero := decide (w % 2 ^ 32 = 1)
    (s.store p 8 (w - 1), 0, 0, zero, if zero then dw 1 else 0, if zero then dw 2 else 0, if zero then dw 3 else 0)

/-- COUNTER_OPERATION at its record. -/
def State.serveCounter (s : State) (ep : Nat) (r : CtrReq) : State :=
  let f := s.placeFail ep (lineOf r.addr)
  let (s, u, v, z, d1, d2, d3) := if f = 0 then s.counterAt r.addr r.kind else (s, 0, 0, false, 0, 0, 0)
  let s := if f = 0 then (s.touchPlace ep (lineOf r.addr)).clearLogged (lineOf r.addr) r.core (s.core r.core).uid else s
  s.send { src := ep, dst := r.core, body := .counterRep r.acc f u v z d1 d2 d3 r.kind r.va, len := 32, retain := some 0, job := r.job }

/-! At the core. -/

/-- A line that an outstanding load asks for and that a posted store of the core has changed: what comes may be older than the store, and is not kept
(spec/16_model.md R374 to R376). -/
def Core.staleLine (c : Core) (line : Nat) : Core :=
  { c with out := c.out.map fun a => if a.parts.any fun p => decide (p.line = line) && p.got.isNone then { a with stale := true } else a }

/-- An acknowledged posted operation (spec/06_memory.md R139, R140, spec/08_copy.md R189, R191): a copy's write counts for its copy, a failed one fails
it (a mark of the engine is neither read nor write, notes/assumptions/102.md), and the line its failing last write was to fill stays for the engine to mark full; any other failure is a record. Log: DEDUCED,
notes/assumptions/17.md. -/
def State.postedDone (s : State) (p : Posted) (fail : Nat) : State :=
  let s := s.modCore p.core fun c =>
    { c.staleLine p.line with
      posted := c.posted.filter fun q => decide (q.id ≠ p.id)
      copies := match p.copy with
        | none => c.copies
        | some i => c.copies.map fun x =>
            if x.id.toNat ≠ i then x
            else
              { x with
                writes := x.writes - 1
                marked := if p.last ∧ fail = 0 then x.marked.filter fun l => decide (l ≠ p.line) else x.marked
                st := if fail ≠ 0 ∧ p.kind = 5 ∧ x.st = .running then .failing fail p.va true (popCount p.mask.toNat 128) else x.st } }
  if fail ≠ 0 ∧ p.copy.isNone then s.postedErr p fail else s

/-- Bits a set of replies gives a destination. -/
def Access.assemble (a : Access) : Nat :=
  a.pieces.foldl (fun n p =>
    match (a.parts[p.part]?).bind (·.got) with
    | some d => n + (d.toNat / 2 ^ p.src % 2 ^ p.width) * 2 ^ p.dst
    | none => n) 0

/-- A loaded value of `bits` bits, extended (spec/06_memory.md R128). -/
def extendTo64 (bits : Nat) (sext : Bool) (v : Nat) : XWord :=
  if sext && (v / 2 ^ (bits - 1)) % 2 = 1 then BitVec.ofNat 64 (2 ^ 64 - 2 ^ bits + v % 2 ^ bits) else BitVec.ofNat 64 (v % 2 ^ bits)

/-- Fill a destination. -/
def Core.fillDest (c : Core) (d : Dest) (v : Nat) : Core :=
  match d with
  | .none => c
  | .x key bits sext => c.putKey key ⟨extendTo64 bits sext v, true⟩
  | .v n keep => c.setV n (((c.v n).val &&& keep) ||| BitVec.ofNat 1024 v)

/-- Entries made before the next outstanding access are freed (spec/06_memory.md R134). -/
def Core.freeUndo (c : Core) : Core :=
  match c.out with
  | [] => { c with undo := [] }
  | a :: _ => { c with undo := c.undo.filter fun e => decide (a.id < e.issued) }

/-- Changed scalar registers, vector registers, masks and line bits, with their old values. -/
def Core.undoEntry (c c' : Core) (issued : Nat) : UndoEntry :=
  { xs := (c'.xs.filter fun e => !decide (c.regAt e.1 = e.2)).map fun e => (e.1, c.regAt e.1)
    vs := (c'.vs.filter fun e => !decide (c.v e.1 = e.2)).map fun e => (e.1, c.v e.1)
    ms := (c'.ms.filter fun e => !decide (Map.get 0 c.ms e.1 = e.2)).map fun e => (e.1, Map.get 0 c.ms e.1)
    lat := (c'.latacc.filter fun e => !decide (Map.get 0 c.latacc e.1 = e.2)).map fun e => (e.1, Map.get 0 c.latacc e.1)
    ctx := c.ctx, issued := issued
    lines := ((c.empty.filter fun l => !c'.empty.contains l).map fun l => (l, true))
      ++ ((c'.empty.filter fun l => !c.empty.contains l).map fun l => (l, false)) }

/-- Whether an instruction has entered the vector queue that will raise flags or saturate, so that its completion changes NFLAGS or SATCNT
(spec/13_vector.md R302). -/
def Core.willRaise (c c' : Core) : Bool :=
  decide (c.vq.length < c'.vq.length) && match c'.vq.getLast? with | some w => decide (w.flags ≠ 0) || decide (w.sat ≠ 0) | none => false

/-- Whether an instruction wrote or changed state outside memory, or will at its completion (spec/06_memory.md R134, spec/13_vector.md R300, R302): a
register write counts whatever its value. -/
def Core.changed (c c' : Core) : Bool :=
  let e := c.undoEntry c' 0
  decide (c.writes ≠ c'.writes) || c.willRaise c'
    || !(e.xs.isEmpty && e.vs.isEmpty && e.ms.isEmpty && e.lat.isEmpty && e.lines.isEmpty && decide (c.ctx = { c'.ctx with instret := c.ctx.instret }))

/-- Restore what an entry records. -/
def Core.restore (c : Core) (e : UndoEntry) : Core :=
  { c with
    xs := e.xs.foldl (fun m r => Map.put m r.1 r.2) c.xs
    vs := e.vs.foldl (fun m r => Map.put m r.1 r.2) c.vs
    ms := e.ms.foldl (fun m r => Map.put m r.1 r.2) c.ms
    latacc := e.lat.foldl (fun m r => Map.put m r.1 r.2) c.latacc
    ctx := e.ctx
    empty := e.lines.foldl (fun m r => if r.2 then (if m.contains r.1 then m else r.1 :: m) else m.filter fun l => decide (l ≠ r.1)) c.empty }

/-- The recorded destination of a failing access. -/
def Core.restoreDest (c : Core) (a : Access) : Core :=
  match a.dest with
  | .none => c
  | .x key _ _ => c.putKey key a.oldX
  | .v n _ => c.putV n a.oldV

/-- The rollback to an access (spec/06_memory.md R136): every entry, newest first, then its own destination; the replies of younger accesses
are discarded; PC names the access. Log: DEDUCED, notes/assumptions/55.md; DEDUCED, notes/assumptions/53.md; DEDUCED,
notes/assumptions/37.md; DESIGN CHOICE, notes/assumptions/107.md. -/
def Core.rollback (c : Core) (a : Access) : Core :=
  let c := (c.undo.foldl (fun c e => c.restore e) c).restoreDest a
  let c : Core :=
    { c with undo := [], out := [], blocked := none, fetch := none, pc := a.pc, trapWait := none, enterWait := none, eng := .idle
             vq := c.vq.filter (fun w => decide (w.instret < a.instret)), preempting := false
             ctx := { c.ctx with instret := a.instret }, timers := c.timers.filter fun t => !(c.regAt t.key).full }
  c.startSpill.startFill

/-- The context that no rollback goes behind: that before the oldest change which may still be undone. -/
def Core.safeCtx (c : Core) : Ctx := match c.undo.getLast? with | some e => e.ctx | none => c.ctx

/-- What a later context has still to forward once `b` has been: what was raised or cleared after `b`, again or for the first time. -/
def Ctx.forwarded (x b : Ctx) : Ctx := { x with fevs := x.fevs.diff b.fevs }

/-- Raises and clears in a row, as one clear and the flags set after it. -/
def joinFlags (l : List (BitVec 5 × BitVec 5)) : BitVec 5 × BitVec 5 :=
  l.foldl (fun (r : BitVec 5 × BitVec 5) e => ((r.1 &&& ~~~e.2) ||| e.1, r.2 ||| e.2)) (0, 0)

/-- Flags that can no longer be rolled back go to the group's home, younger accesses outstanding or not (spec/12_numbers.md R292). Log: DEDUCED,
notes/assumptions/57.md. -/
def State.forwardFlags (s : State) (k : Nat) : State :=
  let b := (s.core k).safeCtx
  match (s.core k).act with
  | some a =>
    if b.fevs ≠ [] then
      let s := s.modCore k fun c => c.modCtxAll fun x => x.forwarded b
      let f := joinFlags b.fevs
      { s with
        fwds := s.fwds ++ [{ id := s.nextId, group := a.desc.ngrp.toNat, set := f.1, clear := f.2, born := s.dtime }]
        nextId := s.nextId + 1 }
    else s
  | none => s

/-- Flags join the activation's set and wait to be forwarded, each raise by itself (spec/12_numbers.md R291, R292). -/
def Ctx.raise (x : Ctx) (f : BitVec 5) : Ctx := { x with flags := x.flags ||| f, fevs := if f = 0 then x.fevs else x.fevs ++ [(f, 0)] }

/-- Flags join the activation's set at once and wait to be forwarded (spec/12_numbers.md R291, R292). -/
def Core.raiseFlags (c : Core) (f : BitVec 5) : Core := c.modCtx fun x => x.raise f

/-- Flags and saturations join NFLAGS and SATCNT, which is held at its greatest value (spec/12_numbers.md R284, R291, R295). -/
def Ctx.numEvent (x : Ctx) (f : BitVec 5) (sat : Nat) : Ctx :=
  { x.raise f with satcnt := BitVec.ofNat 64 (min (x.satcnt.toNat + sat) (2 ^ 64 - 1)) }

/-- A vector instruction has completed (spec/13_vector.md R302): its flags and saturations reach the activation, and what a rollback to any later
instruction restores. Log: DEDUCED, notes/assumptions/39.md. -/
def Core.vecEvent (c : Core) (w : VecCmd) : Core :=
  { c with
    ctx := c.ctx.numEvent w.flags w.sat
    undo := c.undo.map fun e => if w.instret < e.ctx.instret then { e with ctx := e.ctx.numEvent w.flags w.sat } else e }

/-- The unit completes its oldest instruction (spec/13_vector.md R300, R302). -/
def Core.vecDone (c : Core) : Core :=
  match c.vq with
  | w :: rest => { c.vecEvent w with vq := rest }
  | [] => c

/-- An undo-log entry for what an instruction changed, of its core and of its cluster, while an access is outstanding (spec/06_memory.md R134): no
rollback goes before the oldest of them. -/
def Core.logEntry (c c' : Core) (issued : Nat) (shared : Option Shared := none) : Core :=
  if c.out.isEmpty || !(c.changed c' || shared.isSome) then c'
  else { c' with undo := { c.undoEntry c' issued with shared := shared } :: c'.undo }

/-- A blocked load or other instruction that waited for its reply completes: it counts in INSTRET and PC moves on. -/
def Core.unblock (c : Core) (id : Nat) : Core :=
  if c.blocked = some id then
    { c with blocked := none, pc := c.pc + 4, ctx := { c.ctx with instret := c.ctx.instret + 1 } }
  else c

/-- Whether a reply was served outside the core's own scratchpad (spec/19_debug.md R454). -/
def Access.outside (k : Nat) (a : Access) : Bool :=
  if a.parts.isEmpty then !a.here && decide (0x60000 ≤ a.va.toNat) else a.parts.any fun p => !p.own && !ownPad k p.line

/-- What a captured activation logs of a good reply (spec/19_debug.md R454): the value, or the lines of the own scratchpad that came through the core's
own aperture. -/
def State.logReply (s : State) (k : Nat) (a : Access) (v : Nat) : State :=
  if a.outside k then s.logAt k a.instret.toNat 1 a.va.toNat (BitVec.ofNat 1024 v)
  else (a.parts.filter fun p => !p.own).foldl (fun (s : State) p => s.logLineAt k a.instret.toNat (padOff p.line / 128)) s

/-- A good reply: the destination is filled, the access is outstanding no more, log entries are freed (spec/06_memory.md R133, R134). -/
def State.accessGood (s : State) (k : Nat) (a : Access) (v : Nat) : State :=
  let waited := decide ((s.core k).blocked = some a.id)
  let s := s.logReply k a v
  let s := s.modCore k fun c =>
    let rest := { c with out := c.out.filter fun b => decide (b.id ≠ a.id) }
    let c' := (rest.fillDest a.dest v).unblock a.id
    let c'' := if c.blocked = some a.id then rest.logEntry c' s.nextId else c'
    let c3 := if a.flags = 0 then c'' else c''.modCtxAll fun x => x.raise a.flags
    c3.freeUndo
  let s := if a.acq then s.acquireL1 k else s
  (if waited then s.snapshot k else s).forwardFlags k

/-- A failing reply: it is acted on once it is the oldest (spec/06_memory.md R136). -/
def State.accessFailed (s : State) (k id : Nat) (st : AccState) : State :=
  let s1 := s.modCore k fun c => { c with out := c.out.map fun a => if a.id = id then { a with st := st } else a }
  match (s.core k).out.find? fun a => decide (a.id = id) with
  | some a => s1.logAt k a.instret.toNat 2 a.va.toNat (BitVec.ofNat 1024 (match st with | .failed f => f | .underflow r => 256 + r | _ => 0))
  | none => s1

/-- LOAD_REPLY at the core (spec/06_memory.md R123, R128, R133): a part comes back; with the last, the destination is filled. -/
def State.readReply (s : State) (k : Nat) (ep : Nat) (r : ReadReq) (fail : Nat) (d : BitVec 1024) (moment : Nat) : State :=
  match (s.core k).out.find? fun a => decide (a.id = r.owner) with
  | none => s
  | some a =>
    if a.st ≠ .pending then s
    else if fail ≠ 0 then s.accessFailed k a.id (.failed fail)
    else
      let a' := { a with parts := a.parts.zipIdx.map fun p => if p.2 = r.part then { p.1 with got := some d } else p.1 }
      let s := s.modCore k fun c => { c with out := c.out.map fun b => if b.id = a.id then a' else b }
      let s := s.seenAt k r.line moment
      let s := if a.acq || a.stale || decide (moment < a.after) then s else s.l1Fill k ep r.line d moment
      if a'.parts.all fun p => p.got.isSome then s.accessGood k a' a'.assemble else s

/-- ATOMIC_REPLY at the core (spec/06_memory.md R143). -/
def State.atomicReply (s : State) (k : Nat) (p : Packet) (acc fail : Nat) (old : XWord) (fl : BitVec 5) : State :=
  let s := s.latAdd k p
  match (s.core k).out.find? fun a => decide (a.id = acc) with
  | none => s
  | some a =>
    if a.st ≠ .pending then s
    else if fail ≠ 0 then s.accessFailed k acc (.failed fail)
    else (s.seenAccess k a p.id).accessGood k { a with flags := fl } old.toNat

end Sys2Proof.Machine
end

