-- ==== Sys2Proof/Machine/Class.lean ====
section
/-! DEFINITION. Classes, homes and messages: addressability and handlers (spec/09_messages.md R202), homes (spec/10_actors.md R228), stamps
(R204 of spec/09_messages.md), the header as bytes (R197), and the sending of a message. -/

namespace Sys2Proof.Machine

/-- The code address at which Fleiz's class 0 handler lies; its one word is `jr x12` (spec/18_frontend.md R428) (DESIGN CHOICE, notes/assumptions/18.md). -/
def class0Entry : BitVec 32 := 0xFFFFFFF0
/-- Its word. Log: DESIGN CHOICE, notes/assumptions/18.md. -/
def class0Word : Word := 0x00060009

/-- Whether a job can address a class (spec/09_messages.md R202); class 0 is open to every job (DESIGN CHOICE, notes/assumptions/18.md). -/
def State.addressable (s : State) (job : Nat) (c : BitVec 12) : Bool :=
  if c = 0 then true
  else if c.toNat < 64 then (s.cls c).valid && (s.job job).opened.contains c.toNat
  else (s.cls c).valid && decide ((s.cls c).job = job)

/-- Whether the placement domain of a class names a cluster and a core (spec/10_actors.md R228). -/
def State.placeable (s : State) (c : BitVec 12) : Bool :=
  decide (c = 0) || (decide ((s.domain (s.cls c).domain.toNat).mask ≠ 0) && decide ((s.domain (s.cls c).domain.toNat).cores ≠ 0))

/-- Whether a job can send to a class: it addresses the class, and the placement domain names a place (spec/09_messages.md R202, spec/10_actors.md R228). -/
def State.reachable (s : State) (job : Nat) (c : BitVec 12) : Bool := s.addressable job c && s.placeable c

/-- A little-endian word of a job's memory, read by Fleiz or a slice through the page table, byte by byte where it crosses a 64 KiB page. -/
def State.fleizRead (s : State) (job va n : Nat) : Option Nat :=
  if va % 65536 + n ≤ 65536 then (s.placeOf? job va).map fun p => s.load p.1 n
  else (List.range n).foldr (fun i v => (s.placeOf? job (va + i)).bind fun p => v.map fun x => s.load p.1 1 + 256 * x) (some 0)

/-- The handler of a selector, none for 0xFFFF_FFFF (spec/10_actors.md R224). Log: DESIGN CHOICE, notes/assumptions/18.md. -/
def State.handler (s : State) (c : BitVec 12) (sel : BitVec 6) : Option (BitVec 32) :=
  if c = 0 then (if sel = 0 then some class0Entry else none)
  else
    let d := s.cls c
    match s.fleizRead d.job (d.hbase.toNat + 4 * sel.toNat) 4 with
    | some a => if a = 0xFFFFFFFF then none else some (BitVec.ofNat 32 a)
    | none => none

/-- The home of a class and key (spec/10_actors.md R228); for class 0 the L2 home of the address (R226), given with its physical address. -/
def State.home (s : State) (c : BitVec 12) (key : XWord) : Nat :=
  maskPick (s.domain (s.cls c).domain.toNat).mask ((khash key ^^^ c.setWidth 16).toNat)

/-- The physical address and home of class 0, held in one number. -/
def paHome (pa home : Nat) : Nat := home * 2 ^ 40 + pa

/-- The translation of a class 0 key (spec/10_actors.md R227): the physical address and the home. -/
inductive Addr0 where
  | ok (pa home : Nat)
  | reason8
  | page (tval : XWord)
  | miss
  deriving DecidableEq, Repr

/-- Translate a class 0 key as a read of one byte through the cluster's TLB (spec/10_actors.md R227). -/
def State.addr0 (s : State) (k : Nat) (key : XWord) : Addr0 :=
  if key.toNat < 2 ^ 40 ∨ 0x018000000000 ≤ key.toNat then .reason8
  else match s.check k key 1 .read with
    | .ok t => if t.region = .dev then .ok t.place (t.ep - 0x2000) else .reason8
    | .trap _ v => .page v
    | .miss => .miss

/-- The physical address and home of a class 0 key of a job as the part itself translates it, none where the key fails: outside the regions of device
memory, without a translation, or with a TGT that is not 0 (spec/10_actors.md R227). -/
def State.hostAddr0 (s : State) (job : Nat) (key : XWord) : Option Nat :=
  if key.toNat < 2 ^ 40 ∨ 0x018000000000 ≤ key.toNat then none
  else (s.walk job key.toNat).bind fun e =>
    let t := s.leafTgt e key.toNat
    if t.region = .dev then some (paHome t.place (t.ep - 0x2000)) else none

/-- The stamp a send of this class carries (spec/09_messages.md R204): STAMP in mode explicit, the entry stamp plus 1 in mode inherit, whatever
`stamp.set` has written (spec/11_tasks.md R268). -/
def stampOut (d : ClassDesc) (x : Ctx) : BitVec 32 := if d.explicit then x.stamp else x.entryStamp + 1

/-- The sender stream of a message (spec/09_messages.md R217, R211). -/
def Msg.stream (m : Msg) : StreamId :=
  match m.fwd with
  | some f => .actor f.cls f.key
  | none => match m.kind with
    | 0 => .actor m.scls m.skey
    | 1 => .core m.score
    | 2 => .queue m.skey.toNat
    | _ => .fleiz

/-- The address space that tells class 0 actors of one key apart: that of the job (spec/10_actors.md R226). -/
def Msg.space (m : Msg) : Nat := if m.cls = 0 then m.job else 0

/-- The pair of sender stream and target actor (spec/09_messages.md R219). -/
def Msg.pair (m : Msg) : Sticky := ⟨m.stream, m.cls, m.key, m.space⟩

/-- Whether a message is to an actor. -/
def Msg.isTo (m : Msg) (cls : BitVec 12) (key : XWord) (space : Nat) : Bool :=
  decide (m.cls = cls) && decide (m.key = key) && decide (m.space = space)

/-- Whether two messages are of one pair of sender stream and target actor (spec/09_messages.md R219). -/
def Msg.samePair (a b : Msg) : Bool := decide (a.pair = b.pair)

/-- The message of a packet. -/
def Packet.msg? (p : Packet) : Option Msg := match p.body with | .msg m => some m | _ => none

/-- A message that its sender keeps because it has not been accepted: the place of its first sending and its place in a multicast, the packet it was
last sent in, whether it waits to be sent again. -/
structure Unsettled where
  order : Nat
  leg : Nat
  pid : Nat
  waits : Bool
  msg : Msg

/-- The messages of a retain entry that have not been accepted. -/
def Retain.unsettled (r : Retain) : List Unsettled :=
  (r.pkt.copies.zipIdx.filter fun q => !r.done.contains (q.1.dst, q.1.seq)).filterMap fun q =>
    q.1.msg?.map fun m => ⟨r.order, r.leg + q.2, r.pkt.id, r.resendAt.isSome, m⟩

/-- Those of an endpoint that are of a message's pair. -/
def Endpoint.unsettled (e : Endpoint) (m : Msg) : List Unsettled := (e.retain.flatMap Retain.unsettled).filter fun u => u.msg.samePair m

/-- Whether a message of a message's pair was resent with RESUME after the packet of an identity was sent (spec/09_messages.md R220). Log: DEDUCED,
notes/assumptions/72.md. -/
def Endpoint.resumedAfter (e : Endpoint) (m : Msg) (pid : Nat) : Bool :=
  e.resumed.any fun x => decide (x.1 = m.pair) && decide (pid < x.2)

/-- Whether an earlier message of a message's pair has been refused, or may have been in a refusal that a resend has ended since: the later one
waits behind it, so that it does not pass it by (spec/09_messages.md R223). Log: DEDUCED, notes/assumptions/72.md. -/
def State.resendAhead (s : State) (ep : Nat) (m : Msg) : Bool :=
  ((s.ep ep).unsettled m).any fun u => u.waits || (s.ep ep).resumedAfter m u.pid

/-- Whether quota, refusal and stickiness pass a message by: replies and refusals (spec/09_messages.md R210, R220). -/
def Msg.exempt (m : Msg) : Bool := m.reply || m.refusal
/-- RESUME, URGENT and NOREPLY. -/
def Msg.resume (m : Msg) : Bool := m.flags.getLsbD 0
/-- URGENT. -/
def Msg.urgent (m : Msg) : Bool := m.flags.getLsbD 1
/-- NOREPLY. -/
def Msg.noreply (m : Msg) : Bool := m.flags.getLsbD 2

/-- The header's four doublewords (spec/09_messages.md R197). -/
def Msg.header (m : Msg) : List Byte :=
  leBytes 8 m.key.toNat
    ++ leBytes 8 (m.stamp ++ BitVec.ofNat 8 m.len ++ bb m.reply ++ bb m.timed ++ bb m.refusal ++ m.flags ++ m.sel ++ m.cls).toNat
    ++ leBytes 8 m.skey.toNat
    ++ leBytes 8 ((0 : BitVec 8) ++ BitVec.ofNat 8 m.job ++ BitVec.ofNat 16 m.seq ++ (0 : BitVec 3) ++ BitVec.ofNat 13 m.score ++ (0 : BitVec 1)
        ++ BitVec.ofNat 3 m.kind ++ m.scls).toNat

/-- The sender fields of the running activation (spec/09_messages.md R197). -/
def Msg.signed (m : Msg) (a : Act) (k : Nat) : Msg :=
  if a.kind = .task then { m with job := a.job, score := k, kind := 1, scls := 0, skey := BitVec.ofNat 64 k }
  else { m with job := a.job, score := k, kind := 0, scls := a.cls, skey := a.key }

/-- The home of a message. -/
def State.msgHome (s : State) (m : Msg) : Nat :=
  match m.pa with
  | some pa => if m.cls = 0 then pa / 2 ^ 40 else s.home m.cls m.key
  | none => s.home m.cls m.key

/-- Send one message on a stream (spec/09_messages.md R202, R203): header sequence number, packet in order to the home, retain entry. -/
def State.sendMsg (s : State) (src : Nat) (m : Msg) (room : Nat) (cls : Nat := 2) : State :=
  let dst := epHome (s.msgHome m)
  let m := { m with seq := s.nextSeq src dst true }
  s.send { src := src, dst := dst, cls := cls, body := .msg m, len := m.payload.length, inorder := true, retain := some room, job := m.job }

/-- Send the copies of a multicast (spec/09_messages.md R207, spec/17_network.md R410): one packet, one retain entry, each copy numbered in its own
stream. -/
def State.sendMcast (s : State) (src : Nat) (ms : List Msg) (room : Nat) : State :=
  match ms with
  | [] => s
  | m :: rest =>
    let dst := epHome (s.msgHome m)
    let first := { m with seq := s.nextSeq src dst true }
    let s1 := s.bumpSeq src dst true
    let sl : State × List Leg := rest.foldl (fun (p : State × List Leg) x =>
      let d := epHome (p.1.msgHome x)
      (p.1.bumpSeq src d true, p.2 ++ [⟨d, p.1.nextSeq src d true, x.key, x.pa⟩])) (s1, [])
    let s2 := sl.1
    let legs := sl.2
    let e := s2.ep src
    let tag := e.freeTag
    let gen := Map.get 0 e.gens tag % 256
    let p : Packet :=
      { id := s2.nextId, cls := 2, src := src, dst := dst, seq := first.seq, holder := src, len := first.payload.length, pkind := 0
        job := first.job, inorder := true, legs := legs, body := .msg first, rtag := tag, gen := gen }
    let s3 : State := { s2 with net := s2.net ++ [p], nextId := s2.nextId + 1 }
    s3.modEp src fun e =>
      { e with
        retain := e.retain ++ [{ rtag := tag, gen := gen, bytes := room, pkt := p, born := s.dtime, waits := 1 + legs.length, order := p.id }]
        gens := Map.put e.gens tag (gen + 1) }

end Sys2Proof.Machine
end

