-- ==== Sys2Proof/Machine/Home.lean ====
section
/-! DEFINITION. Home slices: the flow table, placement, activation on a miss, the cave, retirement, migration, waiting lines and
refusal (spec/10_actors.md R228 to R246, spec/09_messages.md R217 to R221). -/

namespace Sys2Proof.Machine

/-! Entries. -/

/-- The entry of an actor. -/
def Cluster.entryOf (c : Cluster) (cls : BitVec 12) (key : XWord) : Option FEntry :=
  c.flow.find? fun e => decide (e.cls = cls) && decide (e.key = key)

/-- The entry with a number. -/
def State.entry (s : State) (g id : Nat) : Option FEntry := (s.cluster g).flow.find? fun e => decide (e.id = id)

/-- Change an entry. -/
def State.modEntry (s : State) (g id : Nat) (f : FEntry → FEntry) : State :=
  s.modCluster g fun c => { c with flow := c.flow.map fun e => if e.id = id then f e else e }

/-- Drop an entry: it is FREE. -/
def State.freeEntry (s : State) (g id : Nat) : State :=
  s.modCluster g fun c => { c with flow := c.flow.filter fun e => decide (e.id ≠ id) }

/-- The clusters whose slice holds an entry. -/
def State.slices (s : State) : List Nat := (s.clusters.filter fun c => !c.2.flow.isEmpty || !c.2.hold.isEmpty).map (·.1)

/-- The home at which an entry with a number lies. -/
def State.entryHome (s : State) (id : Nat) : Option Nat :=
  (s.clusters.find? fun c => c.2.flow.any fun e => decide (e.id = id)).map (·.1)

/-- Whether an actor is idle (spec/10_actors.md R230). -/
def FEntry.idle (e : FEntry) : Bool := decide (e.pend = 0) && decide (e.st = .live) && e.moveTo.isNone

/-! Curd pools (spec/10_actors.md R229). -/

/-- The curds on a core, one on its way there by a migration included: first line and length. -/
def State.curdsOn (s : State) (k : Nat) : List (Nat × Nat) :=
  (s.clusters.flatMap fun c => (c.2.flow.filter fun e => e.hosted && decide (e.host = k)).map fun e =>
    (e.curd / 128, (s.cls e.cls).curdl.toNat))
    ++ (s.xfers.filter fun x => decide (x.kind = .move) && decide (x.host = k)).map fun x => (x.curd / 128, x.dsts.length)

/-- Whether a line of a core is taken by a curd, or lies beyond the scratchpad. -/
def State.lineTaken (s : State) (k : Nat) (used : List (Nat × Nat)) (l : Nat) : Bool :=
  decide ((s.core k).spsize ≤ 128 * l) || used.any fun u => decide (u.1 ≤ l) && decide (l < u.1 + u.2)

/-- The longest free run of a job's pool on a core: its first line and its length, the lowest on a tie; a core outside the job's cluster set has no pool
(spec/10_actors.md R229). -/
def State.freeRun (s : State) (job k : Nat) : Nat × Nat :=
  let j := s.job job
  let used := s.curdsOn k
  let r := (List.range (if j.cset.getLsbD (coreCluster k) then j.poolLines else 0)).foldl (fun (x : (Nat × Nat) × (Nat × Nat)) i =>
    let l := j.poolBase + i
    if s.lineTaken k used l then (x.1, (l + 1, 0))
    else
      let cur := (x.2.1, x.2.2 + 1)
      (if x.1.2 < cur.2 then cur else x.1, cur)) ((j.poolBase, 0), (j.poolBase, 0))
  r.1

/-- The host of a new curd and its first line (spec/10_actors.md R234 step 1). -/
def State.chooseHost (s : State) (g : Nat) (cls : BitVec 12) : Option (Nat × Nat) :=
  let d := s.cls cls
  let mask := (s.domain d.domain.toNat).cores
  let best := (List.range 8).foldl (fun (b : Option (Nat × Nat × Nat)) i =>
    if !mask.getLsbD i then b
    else
      let k := clusterCore g i
      let r := s.freeRun d.job k
      match b with
      | some x => if x.2.2 < r.2 then some (k, r.1, r.2) else b
      | none => some (k, r.1, r.2)) none
  match best with
  | some x => if d.curdl.toNat ≤ x.2.2 then some (x.1, x.2.1) else none
  | none => none

/-! The cave (spec/10_actors.md R237). -/

/-- Bytes of a bucket. -/
def ClassDesc.bucket (d : ClassDesc) : Nat := 128 * (1 + 7 * d.curdl.toNat)
/-- The primary bucket of a key. -/
def ClassDesc.primary (d : ClassDesc) (key : XWord) : Nat :=
  d.caveb.toNat + ((key.extractLsb' 0 32 ^^^ key.extractLsb' 32 32).toNat % d.nbkt.toNat) * d.bucket

/-- KEY, META and NEXT of a bucket. -/
def State.slotKey (s : State) (job b i : Nat) : Nat := (s.fleizRead job (b + 16 * i + 8) 8).getD 0
/-- META of a slot. -/
def State.slotMeta (s : State) (job b i : Nat) : Nat := (s.fleizRead job (b + 16 * i + 16) 8).getD 0
/-- NEXT of a bucket. -/
def State.bucketNext (s : State) (job b : Nat) : Nat := (s.fleizRead job b 8).getD 0 / 128 * 128 % 2 ^ 48

/-- Write a doubleword of a cave. -/
def State.caveStore (s : State) (job va v : Nat) : State :=
  match s.placeOf? job va with
  | some p => s.store p.1 8 v
  | none => s

/-- The valid slot of a key along a chain. Log: DESIGN CHOICE, notes/assumptions/98.md. -/
def State.findSlot (s : State) (job : Nat) (key : XWord) (b : Nat) : Nat → Option (Nat × Nat)
  | 0 => none
  | fuel + 1 =>
    if b = 0 then none
    else match (List.range 7).find? fun i => decide (2 ^ 63 ≤ s.slotMeta job b i) && decide (s.slotKey job b i = key.toNat) with
      | some i => some (b, i)
      | none => s.findSlot job key (s.bucketNext job b) fuel

/-- Whether a cave write that is under way fills a slot. -/
def State.slotBusy (s : State) (job slot : Nat) : Bool := s.xfers.any fun x => decide (x.kind = .cave) && decide (x.job = job) && decide (x.slot = slot)

/-- The first slot of a chain that is neither valid nor being filled, or the last bucket. -/
def State.freeSlot (s : State) (job b : Nat) : Nat → Nat × Option Nat
  | 0 => (b, none)
  | fuel + 1 =>
    match (List.range 7).find? fun i => decide (s.slotMeta job b i < 2 ^ 63) && !s.slotBusy job (b + i) with
    | some i => (b, some i)
    | none => if s.bucketNext job b = 0 then (b, none) else s.freeSlot job (s.bucketNext job b) fuel

/-- The buckets from one to another of a chain. -/
def State.chainTo (s : State) (job b stop : Nat) : Nat → List Nat
  | 0 => []
  | fuel + 1 => if b = 0 then [] else if b = stop then [b] else b :: s.chainTo job (s.bucketNext job b) stop fuel

/-- Where the header lines of buckets lie: place and endpoint. -/
def State.headLines (s : State) (job : Nat) (bs : List Nat) : List (Nat × Nat) := bs.filterMap fun b => s.placeOf? job b

/-- Buckets a walk follows at most: more than the 8 GiB of the cave reserve hold of the smallest, 1,024 bytes, beside the primary one
(spec/10_actors.md R237, R239). -/
def chainFuel : Nat := 0x800001

/-- Address of a slot's curd. -/
def ClassDesc.slotVa (d : ClassDesc) (b i : Nat) : Nat := b + 128 + i * d.curdl.toNat * 128

/-! Transfers of curds by the slice's copy engine: class 3 packets, kept in the slice's retain buffer until they are acknowledged
(spec/10_actors.md R234, R237, R241, spec/17_network.md R395, R401). A line that cannot be read reads as zero, and a write that fails counts as
performed (DESIGN CHOICE, notes/assumptions/95.md). -/

/-- The transfer of an entry. -/
def State.xferOf (s : State) (g id : Nat) : Option Xfer := s.xfers.find? fun x => decide (x.g = g) && decide (x.entry = id)
/-- Change a transfer. -/
def State.modXfer (s : State) (id : Nat) (f : Xfer → Xfer) : State := { s with xfers := s.xfers.map fun x => if x.id = id then f x else x }
/-- Drop an entry's transfers. -/
def State.dropXfers (s : State) (g id : Nat) : State := { s with xfers := s.xfers.filter fun x => !(decide (x.g = g) && decide (x.entry = id)) }
/-- Whether every line, and then the header, has been written and acknowledged. -/
def Xfer.complete (x : Xfer) : Bool := x.heads.isEmpty && x.reads.isEmpty && decide (x.writes = 0) && x.last.isNone && x.full.isNone
/-- Whether an entry waits for no transfer. -/
def State.xferDone (s : State) (g id : Nat) : Bool := match s.xferOf g id with | some x => x.complete | none => true

/-- The lines of a cave slot's curd: place and endpoint, those that no leaf maps left out. -/
def State.caveLines (s : State) (d : ClassDesc) (b i : Nat) : List (Nat × Nat) :=
  (List.range d.curdl.toNat).filterMap fun n => s.placeOf? d.job (d.slotVa b i + 128 * n)
/-- The lines of a curd in a core's array. -/
def curdLines (k curd n : Nat) : List (Nat × Nat) := (List.range n).map fun i => (placePad k (curd + 128 * i), k)

/-- Ask for a line of a transfer. -/
def State.xferAsk (s : State) (x : Xfer) (part : Nat) (p : Nat × Nat) : State :=
  s.send { src := epHome x.g, dst := p.2, cls := 3, job := x.job
           body := .read { core := epHome x.g, copy := false, owner := x.id, part := part, line := p.1, job := x.job } }

/-- What a transfer asks for next: the next header, or, with the headers read, all its lines; a chain found full is an event then
(spec/10_actors.md R239). Log: DESIGN CHOICE, notes/assumptions/98.md. -/
def State.xferStep (s : State) (x : Xfer) : State :=
  match x.heads with
  | h :: _ => s.xferAsk x (x.srcs.length + x.heads.length) h
  | [] =>
    match x.full with
    | some b => { s with xfers := s.xfers.filter (fun y => decide (y.id ≠ x.id)), feEvents := s.feEvents ++ [.caveFull x.g x.entry b] }
    | none => x.srcs.zipIdx.foldl (fun (s : State) l => s.xferAsk x l.2 l.1) s

/-- Begin a transfer: headers are read, then lines are asked for. Log: DESIGN CHOICE, notes/assumptions/95.md. -/
def State.startXfer (s : State) (x : Xfer) (heads : List (Nat × Nat)) (lines : List ((Nat × Nat) × (Nat × Nat))) : State :=
  let y : Xfer :=
    { x with id := s.nextId, heads := heads, srcs := lines.map (·.1), dsts := lines.map (·.2), reads := List.range lines.length }
  ({ s with nextId := s.nextId + 1, xfers := s.xfers ++ [y] } : State).xferStep y

/-- Post a write of a transfer. -/
def State.xferPost (s : State) (x : Xfer) (ep line : Nat) (mask : BitVec 128) (data : BitVec 1024) : State :=
  let n := popCount mask.toNat 128
  let p : Posted := { id := x.id, line := line, mask := mask, data := data, core := epHome x.g, job := x.job, ep := ep, va := BitVec.ofNat 64 (placeAddr line) }
  (s.modXfer x.id fun y => { y with writes := y.writes + 1 }).send
    { src := epHome x.g, dst := ep, cls := 3, body := .posted p, len := n, inorder := epIsCore ep, retain := some (retainBytes n), job := x.job }

/-- A line that was asked for comes back: a header, upon which the transfer goes on, or a line, which is written to its destination. Log: DESIGN
CHOICE, notes/assumptions/95.md. -/
def State.xferRead (s : State) (r : ReadReq) (d : BitVec 1024) : State :=
  match s.xfers.find? fun x => decide (x.id = r.owner) with
  | none => s
  | some x =>
    match x.heads with
    | _ :: t =>
      if r.part = x.srcs.length + x.heads.length then (s.modXfer x.id fun y => { y with heads := t }).xferStep { x with heads := t } else s
    | [] =>
      if !x.reads.contains r.part then s
      else match x.dsts[r.part]? with
        | some t => (s.modXfer x.id fun y => { y with reads := y.reads.filter fun i => decide (i ≠ r.part) }).xferPost x t.2 (lineOf t.1) (BitVec.allOnes 128) d
        | none => s

/-- The header writes of a slice's transfers whose lines are all acknowledged, as the retain buffer has room. Log: DESIGN CHOICE,
notes/assumptions/95.md. -/
def State.xferNext (s : State) (g : Nat) : State :=
  s.xfers.foldl (fun (s : State) x =>
    match x.last with
    | some (p, ep, n, v) =>
      if decide (x.g = g) && x.heads.isEmpty && x.reads.isEmpty && decide (x.writes = 0) && s.retainRoom (epHome g) (retainBytes n) then
        let o := p % 128
        (s.modXfer x.id fun y => { y with last := none }).xferPost { x with last := none } ep (lineOf p) (BitVec.ofNat 128 ((2 ^ n - 1) * 2 ^ o))
          (BitVec.ofNat 1024 (v * 2 ^ (8 * o)))
      else s
    | none => s) s

/-- An acknowledged write of a transfer. -/
def State.xferAcked (s : State) (g id : Nat) : State := (s.modXfer id fun y => { y with writes := y.writes - 1 }).xferNext g

/-! Waiting lines. -/

/-- The actor a waiting item names. -/
def Waiting.names (w : Waiting) (cls : BitVec 12) (key : XWord) (space : Nat) : Bool :=
  match w with
  | .msg m _ => m.isTo cls key space
  | .req _ => false

/-- Whether a redelivery of an actor is under back-off. -/
def State.redelWaits (s : State) (g : Nat) (cls : BitVec 12) (key : XWord) (space : Nat) : Bool :=
  s.redel.any fun r => decide (r.g = g) && r.msg.isTo cls key space

/-- Whether messages of an actor wait at a home, a redelivery under back-off included (spec/15_system.md R362). Log: DEDUCED, notes/assumptions/20.md. -/
def State.waitsFor (s : State) (g : Nat) (cls : BitVec 12) (key : XWord) (space : Nat) : Bool :=
  (s.cluster g).hold.any (fun w => w.names cls key space) || s.redelWaits g cls key space

/-- Whether an inbox has a free slot and the class quota allows the message (spec/09_messages.md R218); class 0 has no quota but the slots (DESIGN CHOICE,
notes/assumptions/18.md). -/
def State.inboxTakes (s : State) (k : Nat) (m : Msg) : Bool :=
  let ib := (s.core k).inbox
  decide (ib.length < 16) &&
    (m.exempt || decide (m.cls = 0) ||
      decide ((ib.filter fun x => decide (x.msg.cls = m.cls) && !x.msg.exempt).length < (s.cls m.cls).quota.toNat))

/-- A message of an inbox as it stands: a timed one falls due in the first core cycle in which the core's DTIME reaches its time, and waits from then on
(spec/09_messages.md R209, R216). -/
def State.ripe (s : State) (k : Nat) (x : InMsg) : InMsg :=
  if x.due || decide (s.coreTime k < x.msg.time.toNat) then x
  else { x with due := true, since := max x.since (s.cycles - (s.coreTime k - x.msg.time.toNat) * s.rate / 10) }

/-- Put a message into an inbox; it waits from its acceptance, or from falling due if it is timed (spec/09_messages.md R216). -/
def State.intoInbox (s : State) (k : Nat) (m : Msg) (since : Nat) : State :=
  let x : InMsg := s.ripe k { msg := m, order := s.nextId, due := !m.timed, since := since }
  ({ s with nextId := s.nextId + 1 }).modCore k fun c => { c with inbox := c.inbox ++ [x] }

/-- Place a message of a live actor (spec/10_actors.md R232). -/
def State.placeMsg (s : State) (g : Nat) (e : FEntry) (m : Msg) (since : Nat) : State :=
  (s.intoInbox e.host m since).modEntry g e.id fun e => { e with pend := e.pend + 1 }

/-- The core of a class 0 message (spec/10_actors.md R226). -/
def Msg.host0 (m : Msg) : Nat :=
  let x := m.pa.getD 0
  clusterCore (x / 2 ^ 40) (x % 2 ^ 40 / 128 % 8)

/-- Where a waiting message could be placed now: its core, none while it must wait. Log: DESIGN CHOICE, notes/assumptions/113.md. -/
def State.placeNow (s : State) (g : Nat) (m : Msg) : Option (Nat × Option FEntry) :=
  if m.cls = 0 then (if !s.redelWaits g m.cls m.key m.space && s.inboxTakes m.host0 m then some (m.host0, none) else none)
  else match (s.cluster g).entryOf m.cls m.key with
    | some e =>
      if decide (e.st = .live) && !e.retq && e.moveTo.isNone && !s.redelWaits g m.cls m.key m.space && s.inboxTakes e.host m then some (e.host, some e)
      else none
    | none => none

/-- The oldest waiting message of a home that may be placed, the first of its actor's line (spec/10_actors.md R235). Log: DEDUCED,
notes/assumptions/85.md. -/
def State.nextPlaceable (s : State) (g : Nat) : List Waiting → List (BitVec 12 × XWord × Nat) → Option (Msg × Nat × Nat × Option FEntry)
  | [], _ => none
  | .req _ :: t, seen => s.nextPlaceable g t seen
  | .msg m since :: t, seen =>
    if seen.contains (m.cls, m.key, m.space) then s.nextPlaceable g t seen
    else match s.placeNow g m with
      | some x => some (m, since, x.1, x.2)
      | none => s.nextPlaceable g t ((m.cls, m.key, m.space) :: seen)

/-- Remove the first waiting message equal to one placed. -/
def removeWaiting (m : Msg) : List Waiting → List Waiting
  | [] => []
  | .msg x a :: t => if x = m then t else .msg x a :: removeWaiting m t
  | w :: t => w :: removeWaiting m t

/-- Place at most so many waiting messages of a home, oldest first. -/
def State.offerSome (s : State) (g : Nat) : Nat → State
  | 0 => s
  | fuel + 1 =>
    match s.nextPlaceable g (s.cluster g).hold [] with
    | none => s
    | some (m, since, k, e) =>
      let s := s.modCluster g fun c => { c with hold := removeWaiting m c.hold }
      let s := match e with
        | some e => s.placeMsg g e m since
        | none => s.intoInbox k m since
      s.offerSome g fuel

/-- Offer free slots to the waiting messages of a home, oldest first, while slots remain (spec/10_actors.md R235). -/
def State.offer (s : State) (g : Nat) : State := s.offerSome g (s.cluster g).hold.length

/-- Offer at every home (a slot of a core may serve actors of several homes). Log: DEDUCED, notes/assumptions/85.md. -/
def State.offerAll (s : State) : State := s.slices.foldl (fun s g => s.offer g) s

/-! Refusal (spec/09_messages.md R205, R219, R220). -/

/-- The refusal message a home sends for a refused message of an actor, or of a forwarded one. Log: DEDUCED, notes/assumptions/19.md. -/
def refusalMsg (m : Msg) (cls : BitVec 12) (key : XWord) : Msg :=
  { key := key, stamp := m.stamp, len := 32, refusal := true, sel := 63, cls := cls, skey := m.key, job := m.job, score := 0x1FFF, kind := 0
    scls := m.cls, payload := m.header }

/-- Refuse a message that is not exempt. `p` is the packet it came in. -/
def State.refuse (s : State) (g : Nat) (p : Packet) (m : Msg) : State :=
  if m.noreply then (s.msgErr 6 m g).ack p 0
  else
    let pair := m.pair
    let s := s.modCluster g fun c => { c with sticky := if c.sticky.contains pair then c.sticky else c.sticky ++ [pair] }
    let s := s.send { src := p.dst, dst := p.holder, body := .refuse p.rtag p.gen p.seq, job := m.job }
    match m.stream with
    | .actor cls key =>
      match s.handler cls 63 with
      | some _ => s.sendMsg (epHome g) (refusalMsg m cls key) 64
      | none => s.msgErr 7 m g
    | _ => s

/-- A message that must wait but cannot, or that finds no slot: refused, or returned to its sender core if it is exempt
(spec/09_messages.md R210). -/
def State.turnAway (s : State) (g : Nat) (p : Packet) (m : Msg) : State :=
  if m.exempt then s.send { src := p.dst, dst := p.holder, body := .returned p.rtag p.gen, job := m.job } else s.refuse g p m

/-- Whether the hold queue has room. -/
def State.holdRoom (s : State) (g : Nat) : Bool :=
  decide ((s.cluster g).waiting + (s.ep (epHome g)).heldCount < 256)

/-- A message accepted with RESUME ends the sticky refusal of its pair (spec/09_messages.md R205, R219). -/
def State.clearSticky (s : State) (g : Nat) (m : Msg) : State :=
  if m.resume && !m.exempt then
    s.modCluster g fun c => { c with sticky := c.sticky.filter fun x => !decide (x = m.pair) }
  else s

/-- The message waits in the hold queue, accepted, or is turned away (spec/10_actors.md R232). -/
def State.holdMsg (s : State) (g : Nat) (p : Packet) (m : Msg) : State :=
  if s.holdRoom g then
    ((s.modCluster g fun c => { c with hold := c.hold ++ [.msg m s.cycles] }).clearSticky g m).ack p 0
  else s.turnAway g p m

/-! Retirement (spec/10_actors.md R236, R237, R239). -/

/-- Begin the cave write of an entry into a slot (spec/10_actors.md R237): the headers up to the slot's, the curd, then KEY and META. -/
def State.caveXfer (s : State) (g : Nat) (e : FEntry) (b i : Nat) : State :=
  let d := s.cls e.cls
  let last := (s.placeOf? d.job (b + 16 * i + 8)).map fun p => (p.1, p.2, 16, e.key.toNat + 2 ^ 64 * (2 ^ 63 + e.incarn.toNat))
  (s.startXfer { g := g, entry := e.id, kind := .cave, slot := b + i, job := d.job, last := last }
    (s.headLines d.job (s.chainTo d.job (d.primary e.key) b chainFuel)) ((curdLines e.host e.curd d.curdl.toNat).zip (s.caveLines d b i))).xferNext g

/-- Start the cave write of an idle actor: a slot is chosen, or a cave-full event raised with the chain read; `press` is the actor whose miss waits for
it. Log: DESIGN CHOICE, notes/assumptions/98.md. -/
def State.startRetire (s : State) (g id : Nat) (byReq : Option StreamId) (press : Option (BitVec 12 × XWord) := none) : State :=
  match s.entry g id with
  | none => s
  | some e =>
    let d := s.cls e.cls
    let s := s.modEntry g id fun e => { e with st := .retiring, retq := false, byReq := byReq, press := press }
    match s.findSlot d.job e.key (d.primary e.key) chainFuel with
    | some (b, i) => s.caveXfer g e b i
    | none =>
      match s.freeSlot d.job (d.primary e.key) chainFuel with
      | (b, some i) => s.caveXfer g e b i
      | (b, none) =>
        s.startXfer { g := g, entry := id, kind := .look, job := d.job, full := some b }
          (s.headLines d.job (s.chainTo d.job (d.primary e.key) b chainFuel)) []

/-- Whether an actor may be chosen for retirement under pressure or by its timer (spec/10_actors.md R236, R239). -/
def State.retirable (s : State) (e : FEntry) : Bool := e.idle && !e.pin && !(s.cls e.cls).exhausted

/-- The least recently idle actor of those a test allows. -/
def State.lru (s : State) (g : Nat) (ok : FEntry → Bool) : Option FEntry :=
  (s.cluster g).flow.foldl (fun (b : Option FEntry) e =>
    if s.retirable e && ok e then
      match b with
      | some x => if e.idleSince < x.idleSince then some e else b
      | none => some e
    else b) none

/-- Retire the least recently idle actor of those a test allows for the miss of an actor, unless one retires for it already
(spec/10_actors.md R233, R234). -/
def State.pressure (s : State) (g : Nat) (cls : BitVec 12) (key : XWord) (ok : FEntry → Bool) : State :=
  if (s.cluster g).flow.any fun x => decide (x.st = .retiring) && decide (x.press = some (cls, key)) then s
  else match s.lru g ok with
    | some v => s.startRetire g v.id none (some (cls, key))
    | none => s

/-! Activation (spec/10_actors.md R233, R234). -/

/-- Activate an entry that is ACTIVATING and has no host yet: choose the host, find the curd, fetch or zero it. The headers looked at are read first. Log:
DESIGN CHOICE, notes/assumptions/98.md. -/
def State.activate (s : State) (g id : Nat) : State :=
  match s.entry g id with
  | none => s
  | some e =>
    if e.st ≠ .activating ∨ e.hosted then s
    else
      let d := s.cls e.cls
      match s.chooseHost g e.cls with
      | none =>
        let mask := (s.domain d.domain.toNat).cores
        s.pressure g e.cls e.key fun x => x.hosted && decide (coreCluster x.host = g) && mask.getLsbD (coreK x.host)
      | some (k, line) =>
        let hint : Option (Nat × Nat) :=
          if e.slot = 0 then none
          else
            let b := e.slot / 128 * 128
            let i := e.slot % 128
            if 2 ^ 63 ≤ s.slotMeta d.job b i ∧ s.slotKey d.job b i = e.key.toNat then some (b, i) else none
        let p := d.primary e.key
        let found := match hint with
          | some x => some x
          | none => s.findSlot d.job e.key p chainFuel
        let hinted := if e.slot = 0 then [] else [e.slot / 128 * 128]
        match found with
        | some (b, i) =>
          let w := s.slotMeta d.job b i
          let s := s.modEntry g id fun e =>
            { e with hosted := true, host := k, curd := 128 * line, slot := b + i, incarn := BitVec.ofNat 16 w, initDue := false, initDone := true }
          let last := (s.placeOf? d.job (b + 16 * i + 16)).map fun p => (p.1, p.2, 8, 2 ^ 63 + 2 ^ 62 + w % 65536)
          (s.startXfer { g := g, entry := id, kind := .fetch, slot := b + i, job := d.job, last := last }
            (s.headLines d.job (hinted ++ if hint.isSome then [] else s.chainTo d.job p b chainFuel))
            ((s.caveLines d b i).zip (curdLines k (128 * line) d.curdl.toNat))).xferNext g
        | none =>
          let s := s.zero (placePad k (128 * line)) (128 * d.curdl.toNat)
          let init := decide (d.init ≠ 0xFFFFFFFF)
          let s := s.modEntry g id fun e =>
            { e with hosted := true, host := k, curd := 128 * line, slot := 0, incarn := 0, initDue := init, initDone := !init, initRetry := 0
                     initAt := 0 }
          s.startXfer { g := g, entry := id, kind := .fetch, job := d.job } (s.headLines d.job (hinted ++ s.chainTo d.job p 0 chainFuel)) []

/-- Take an entry for a miss: the actor's own HINT, a FREE one, or the HINT least recently made (spec/10_actors.md R233). Log: DESIGN CHOICE,
notes/assumptions/115.md. -/
def State.takeEntry (s : State) (g job : Nat) (cls : BitVec 12) (key : XWord) (stamp : BitVec 32) : Option (Nat × State) :=
  let c := s.cluster g
  match c.entryOf cls key with
  | some e =>
    some (e.id, s.modEntry g e.id fun e =>
      { e with st := .activating, hosted := false, initStamp := stamp, pend := 0, byReq := none, press := none })
  | none =>
    let new : FEntry := { id := s.nextId, cls := cls, key := key, job := job, st := .activating, initStamp := stamp }
    let add (s : State) : State :=
      ({ s with nextId := s.nextId + 1 }).modCluster g fun c => { c with flow := c.flow ++ [new] }
    if c.flow.length < 8192 then some (s.nextId, add s)
    else
      match c.flow.foldl (fun (b : Option FEntry) e =>
        if e.st = .hint then (match b with | some x => if e.seqn < x.seqn then some e else b | none => some e) else b) none with
      | some h => some (s.nextId, add (s.freeEntry g h.id))
      | none => none

/-- A miss that can take an entry starts its activation, and answers true; else pressure retires the least recently idle actor
(spec/10_actors.md R233). A pin's miss pins its entry (R246). -/
def State.startMiss (s : State) (g job : Nat) (cls : BitVec 12) (key : XWord) (stamp : BitVec 32) (pin : Option StreamId := none) : State × Bool :=
  match s.takeEntry g job cls key stamp with
  | some (id, s) => ((if pin.isSome then s.modEntry g id fun e => { e with pin := true, byReq := pin } else s).activate g id, true)
  | none => (s.pressure g cls key fun _ => true, false)

/-- Whether an actor has no entry but a HINT: its miss waits. -/
def State.lacksEntry (s : State) (g : Nat) (cls : BitVec 12) (key : XWord) : Bool :=
  match (s.cluster g).entryOf cls key with
  | some e => decide (e.st = .hint)
  | none => true

/-- What waits without an entry, in arrival order: class, key, stamp, job, the pin where it is one (spec/10_actors.md R233). -/
def State.missList (s : State) (g : Nat) : List (BitVec 12 × XWord × BitVec 32 × Nat × Option AReq) :=
  (s.cluster g).hold.filterMap fun w =>
    match w with
    | .msg m _ => if m.cls ≠ 0 ∧ s.lacksEntry g m.cls m.key then some (m.cls, m.key, m.stamp, m.job, none) else none
    | .req r => if r.kind = .pin ∧ s.lacksEntry g r.cls r.key then some (r.cls, r.key, r.stamp, r.job, some r) else none

/-- The actors whose misses wait without an entry, in arrival order (spec/10_actors.md R233, R240). -/
def State.misses (s : State) (g : Nat) : List (BitVec 12 × XWord) := ((s.missList g).map fun x => (x.1, x.2.1)).dedup

/-- Whether a slice holds 4,096 pinned entries: it ignores an `act.pin` (spec/10_actors.md R246). -/
def State.pinsFull (s : State) (g : Nat) : Bool := decide (4096 ≤ ((s.cluster g).flow.filter fun e => e.pin).length)

/-- Drop a request that waits. -/
def State.dropReq (s : State) (g : Nat) (r : AReq) : State := s.modCluster g fun c => { c with hold := c.hold.erase (.req r) }

/-- Take one waiting miss again, if the actor still has no entry: a pin that finds 4,096 entries pinned is ignored, one that takes an entry has its effect
(spec/10_actors.md R233, R246). -/
def State.retryMiss (s : State) (g : Nat) (x : BitVec 12 × XWord × BitVec 32 × Nat × Option AReq) : State :=
  if !s.lacksEntry g x.1 x.2.1 then s
  else match x.2.2.2.2 with
    | none => (s.startMiss g x.2.2.2.1 x.1 x.2.1 x.2.2.1).1
    | some q =>
      if s.pinsFull g then s.dropReq g q
      else
        let r := s.startMiss g x.2.2.2.1 x.1 x.2.1 x.2.2.1 (some q.sid)
        if r.2 then r.1.dropReq g q else r.1

/-- Take waiting misses again, in arrival order, and activations that lack a host (spec/10_actors.md R233, R234). Log: DESIGN CHOICE,
notes/assumptions/114.md. -/
def State.retryMisses (s : State) (g : Nat) : State :=
  let s := (s.missList g).foldl (fun (s : State) x => s.retryMiss g x) s
  (s.cluster g).flow.foldl (fun s e => if e.st = .activating && !e.hosted then s.activate g e.id else s) s

/-! Requests (spec/10_actors.md R246). -/

/-- The next incarnation (spec/10_actors.md R238). -/
def nextIncarn (i : BitVec 16) : BitVec 16 := if i + 1 = 0 then 1 else i + 1

/-- The state word of a probe (spec/10_actors.md R247). Log: DESIGN CHOICE, notes/assumptions/115.md. -/
def probeWord : Option FEntry → XWord
  | none => 0
  | some e =>
    let st : BitVec 3 := match e.st with | .activating => 1 | .live => 2 | .moving => 3 | .retiring => 4 | .hint => 5
    st ++ bb e.pin ++ bb e.retq ++ (0 : BitVec 6) ++ BitVec.ofNat 5 e.pend ++ (0 : BitVec 3)
      ++ (if e.st = .hint then 0 else BitVec.ofNat 13 e.host) ++ (0 : BitVec 16) ++ e.incarn

/-- The checkpoint of a captured actor's curd (spec/19_debug.md R453): the lines go to the job's replay region, whose place the actor's entry keeps; the
host core's period begins anew; a CHECKPOINT record names the place (R449). Log: DESIGN CHOICE, notes/assumptions/46.md. -/
def State.checkpoint (s : State) (k g id : Nat) (a : Act) (stamp : BitVec 32) : State :=
  let r := (s.job a.job).capture
  if r.classes.contains a.cls then
    let e : LogEntry := ⟨a.job, a.uid, 0, 6, a.curd / 128, 0⟩
    let lines := (List.range a.desc.curdl.toNat).map fun i => s.line (placePad k (a.curd + 128 * i))
    let s1 := (s.putReplay a.job (e.header :: lines)).modCore k fun c => { c with ckAt := s.dtime }
    (s1.modEntry g id fun x => { x with ck := some r.next }).traceOf k a.job a stamp 8 0 (r.next % max 1 r.lines)
  else s

/-- An actor enters LIVE (spec/19_debug.md R453). Log: DESIGN CHOICE, notes/assumptions/46.md. -/
def State.entersLive (s : State) (g id : Nat) : State :=
  match s.entry g id with
  | none => s
  | some e =>
    s.checkpoint e.host g id { job := e.job, cls := e.cls, key := e.key, curd := e.curd, desc := s.cls e.cls, incarn := e.incarn } e.initStamp

/-- Start a move (spec/10_actors.md R241 step 1); one to the present host is steps 1 and 5 only. Log: DEDUCED, notes/assumptions/20.md. -/
def State.startMove (s : State) (g id dst : Nat) (byReq : Option StreamId) : State :=
  match s.entry g id with
  | none => s
  | some e =>
    if e.host = dst then ((s.modEntry g id fun e => { e with incarn := nextIncarn e.incarn }).entersLive g id).offer g
    else s.modEntry g id fun e => { e with st := .moving, moveTo := some dst, reported := false, byReq := byReq }

/-- A request waits at the home. Log: DESIGN CHOICE, notes/assumptions/99.md. -/
def State.holdReq (s : State) (g : Nat) (r : AReq) : State := s.modCluster g fun c => { c with hold := c.hold ++ [.req r] }

/-- The effect of a request at the home, as its turn comes. A retirement of a cave-exhausted class waits for Fleiz to clear the mark: until then it
has no effect (spec/10_actors.md R239). -/
def State.applyReq (s : State) (g : Nat) (r : AReq) : State :=
  let e? := (s.cluster g).entryOf r.cls r.key
  match r.kind with
  | .probe => s.send { src := epHome g, dst := r.core, body := .probeRep r.acc (probeWord e?), len := 0, job := r.job }
  | .retire =>
    match e? with
    | some e =>
      if e.st ≠ .live || (s.cls e.cls).exhausted then s
      else if e.idle then s.startRetire g e.id (some r.sid) else s.modEntry g e.id fun e => { e with retq := true, byReq := some r.sid }
    | none => s
  | .unpin =>
    match e? with
    | some e =>
      if e.st ≠ .live then s
      else
        let s := s.modEntry g e.id fun e => { e with pin := false }
        if e.idle then s.retryMisses g else s
    | none => s
  | .move => match e? with | some e => if e.st = .live then s.startMove g e.id r.dst (some r.sid) else s | none => s
  | .pin =>
    if s.pinsFull g then s
    else if s.lacksEntry g r.cls r.key then
      let x := s.startMiss g r.job r.cls r.key r.stamp (some r.sid)
      if x.2 then x.1 else x.1.holdReq g r
    else match e? with
      | some e => s.modEntry g e.id fun e => { e with pin := true }
      | none => s

/-- The requests a home holds, in arrival order. -/
def Cluster.heldReqs (c : Cluster) : List AReq := c.hold.filterMap fun w => match w with | .req r => some r | _ => none

/-- Whether a request must wait: for one of another stream that is in progress on its actor (a move, a retirement, a deferred one, a pin's activation),
for one that waits ahead of it for the actor, or for one of its own stream that waits ahead. Log: DEDUCED, notes/assumptions/20.md. -/
def State.reqBusy (s : State) (g : Nat) (r : AReq) (ahead : List AReq) : Bool :=
  (match (s.cluster g).entryOf r.cls r.key with
   | some e => (match e.byReq with | some x => decide (x ≠ r.sid) | none => false)
   | none => false)
    || ahead.any fun q => decide (q.sid = r.sid) || (decide (q.cls = r.cls) && decide (q.key = r.key))

/-- A request arrives (spec/10_actors.md R246). Log: DEDUCED, notes/assumptions/20.md. -/
def State.homeReq (s : State) (g : Nat) (r : AReq) : State :=
  if s.reqBusy g r (s.cluster g).heldReqs then s.holdReq g r else s.applyReq g r

/-- The held requests of a home are judged again in their order: those that need not wait any more are applied. A pin whose miss waits for an entry keeps
its place. Log: DEDUCED, notes/assumptions/20.md. -/
def State.releaseFrom (s : State) (g : Nat) (ahead : List AReq) : List AReq → State
  | [] => s
  | r :: t =>
    if (decide (r.kind = .pin) && s.lacksEntry g r.cls r.key) || s.reqBusy g r ahead then s.releaseFrom g (ahead ++ [r]) t
    else ((s.dropReq g r).applyReq g r).releaseFrom g ahead t

/-- Requests that waited for an earlier one. Log: DEDUCED, notes/assumptions/20.md. -/
def State.releaseReqs (s : State) (g : Nat) : State := s.releaseFrom g [] (s.cluster g).heldReqs

/-! An arriving message (spec/10_actors.md R232, spec/09_messages.md R219). -/

/-- What a home decides of a message. Log: DESIGN CHOICE, notes/assumptions/112.md. -/
inductive Verdict where
  | ignore
  | refuse
  | hold
  | miss
  | place (k : Nat) (e : Option FEntry)
  deriving DecidableEq, Repr

/-- The decision on an accepted message (spec/10_actors.md R232, spec/09_messages.md R205, R219). Log: DESIGN CHOICE, notes/assumptions/112.md. -/
def State.verdict (s : State) (g : Nat) (m : Msg) : Verdict :=
  let pair := m.pair
  if m.cls ≠ 0 ∧ (s.cls m.cls).valid = false then .ignore
  else if !m.exempt && !m.resume && (s.cluster g).sticky.contains pair then .refuse
  else if m.cls = 0 then
    if s.waitsFor g m.cls m.key m.space then .hold
    else if s.inboxTakes m.host0 m then .place m.host0 none
    else if m.exempt then .hold else .refuse
  else match (s.cluster g).entryOf m.cls m.key with
    | some e =>
      match e.st with
      | .live =>
        if s.waitsFor g m.cls m.key m.space || e.retq || e.moveTo.isSome then .hold
        else if s.inboxTakes e.host m then .place e.host (some e)
        else if m.exempt then .hold else .refuse
      | .hint => .miss
      | _ => .hold
    | none => if s.waitsFor g m.cls m.key m.space then .hold else .miss

/-- The home carries out its decision on an accepted message. Log: DESIGN CHOICE, notes/assumptions/112.md. -/
def State.homeMsg (s : State) (g : Nat) (p : Packet) (m : Msg) : State :=
  match s.verdict g m with
  | .ignore => s.ack p 0
  | .refuse => s.refuse g p m
  | .hold => s.holdMsg g p m
  | .miss => if s.holdRoom g then ((s.holdMsg g p m).startMiss g m.job m.cls m.key m.stamp).1 else s.turnAway g p m
  | .place k e =>
    ((match e with
      | some e => s.placeMsg g e m s.cycles
      | none => s.intoInbox k m s.cycles).clearSticky g m).ack p 0

/-! Going live, completing, retiring, moving. -/

/-- What follows when an actor may have become idle: a deferred retirement, misses that wait, requests that wait. Log: DESIGN CHOICE,
notes/assumptions/114.md. -/
def State.settle (s : State) (g id : Nat) : State :=
  match s.entry g id with
  | none => s
  | some e =>
    if !e.idle then s
    else if e.retq && (s.cls e.cls).exhausted then ((s.modEntry g id fun e => { e with retq := false, byReq := none }).offer g).releaseReqs g
    else if e.retq then s.startRetire g id e.byReq
    else if e.pin then s else s.retryMisses g

/-- ACTIVATION_GO_LIVE (spec/10_actors.md R232, R235, R238): with the curd in place and any init handler completed. Log: DESIGN CHOICE,
notes/assumptions/114.md. -/
def State.goLive (s : State) (g id : Nat) : State :=
  match s.entry g id with
  | none => s
  | some e =>
    if e.st = .activating ∧ e.hosted ∧ e.initDone ∧ s.xferDone g id then
      let s := (s.dropXfers g id).modEntry g id fun e =>
        { e with st := .live, incarn := nextIncarn e.incarn, idleSince := s.dtime, pend := 0, byReq := none }
      (((s.entersLive g id).offer g).releaseReqs g).settle g id
    else s

/-- ACTIVATION_DONE_AT_HOME (spec/10_actors.md R232, R235): that of an activation of an entry the actor has no more changes no entry. -/
def State.doneAtHome (s : State) (g : Nat) (cls : BitVec 12) (key : XWord) (eid : Nat) : State :=
  match (s.cluster g).entryOf cls key with
  | none => s.offerAll
  | some e =>
    if e.id ≠ eid then s.offerAll
    else if e.st = .activating then s.modEntry g e.id fun e => { e with initDone := true }
    else
      let s := s.modEntry g e.id fun e => { e with pend := e.pend - 1, idleSince := s.dtime }
      (s.offerAll).settle g e.id

/-- Whether an idle actor's timer has reached its class's threshold (spec/10_actors.md R236): no idle retirement is taken for an actor of a stopped
job (spec/19_debug.md R452). -/
def State.idleDue (s : State) (e : FEntry) : Bool :=
  let d := s.cls e.cls
  s.retirable e && !(s.job e.job).stopping && decide (d.idle ≠ 0) && decide (e.idleSince + d.idle.toNat ≤ s.dtime)

/-- The first waiting message of an actor. -/
def State.firstFor (s : State) (g : Nat) (cls : BitVec 12) (key : XWord) : Option Msg :=
  (s.cluster g).hold.findSome? fun w => match w with | .msg m _ => if m.cls = cls ∧ m.key = key then some m else none | .req _ => none

/-- The first of the messages that wait for an actor starts its activation. -/
def State.wakeFirst (s : State) (g : Nat) (cls : BitVec 12) (key : XWord) : State :=
  match s.firstFor g cls key with
  | some m => (s.startMiss g m.job m.cls m.key m.stamp).1
  | none => s

/-- A cave write, all of it acknowledged: the lines are freed; a waiting message of the actor starts a new activation, or the entry keeps the slot's
address (spec/10_actors.md R232, R237). -/
def State.retired (s : State) (g : Nat) (e : FEntry) (slot : Nat) : State :=
  let s := (s.dropXfers g e.id).modEntry g e.id fun e =>
    { e with st := .hint, hosted := false, slot := slot, curd := 0, seqn := s.nextId, byReq := none, press := none }
  let s : State := { s with nextId := s.nextId + 1 }
  ((s.wakeFirst g e.cls e.key).releaseReqs g).retryMisses g

/-- The end of a discard (spec/10_actors.md R244): the entry becomes FREE, and the first of the actor's messages starts a creation. -/
def State.discarded (s : State) (g : Nat) (e : FEntry) : State :=
  (((((s.freeEntry g e.id).dropXfers g e.id).wakeFirst g e.cls e.key).releaseReqs g).retryMisses g).offer g

/-- CAVE_WRITE_ACK (spec/10_actors.md R232, R237, R244): the last write of an actor that retires or is discarded is acknowledged. Log: DESIGN CHOICE,
notes/assumptions/120.md. -/
def State.caveWritten (s : State) (g id : Nat) : State :=
  match s.xferOf g id, s.entry g id with
  | some x, some e =>
    if !x.complete then s
    else if x.kind = .cave then s.retired g e x.slot
    else if x.kind = .clear then s.discarded g e
    else s
  | _, _ => s

/-- The end of a move (spec/10_actors.md R241 step 5): the curd has reached the destination. -/
def State.moveDone (s : State) (g id : Nat) : State :=
  match s.xferOf g id, s.entry g id with
  | some x, some e =>
    if x.kind ≠ .move || !x.complete || e.st ≠ .moving then s
    else
      let s := (s.dropXfers g id).modEntry g id fun e =>
        { e with st := .live, moveTo := none, reported := false, byReq := none, host := x.host, curd := x.curd, incarn := nextIncarn e.incarn }
      (((s.entersLive g id).offer g).releaseReqs g).settle g id
  | _, _ => s

/-- Step 4 of a move (spec/10_actors.md R241): the copy into the destination's pool begins, or the move is abandoned for want of lines. -/
def State.moveCopy (s : State) (g : Nat) (e : FEntry) (dst : Nat) : State :=
  let d := s.cls e.cls
  let n := d.curdl.toNat
  let r := s.freeRun d.job dst
  if r.2 < n then
    let s := s.modEntry g e.id fun e => { e with st := .live, moveTo := none, reported := false, byReq := none }
    (((s.entersLive g e.id).offer g).releaseReqs g).settle g e.id
  else
    (s.modEntry g e.id fun e => { e with reported := true }).startXfer
      { g := g, entry := e.id, kind := .move, host := dst, curd := 128 * r.1, job := d.job } []
      ((curdLines e.host e.curd n).zip (curdLines dst (128 * r.1) n))

/-- Whether every message that an actor's activations sent from a core has been accepted or refused (spec/10_actors.md R241 step 3). -/
def State.sentSettled (s : State) (k : Nat) (cls : BitVec 12) (key : XWord) : Bool :=
  (s.ep k).retain.all fun r =>
    match r.pkt.body with
    | .msg m => !decide (m.stream = .actor cls key)
    | _ => true

/-- Put messages back at the head of their actor's waiting line, in their order; the hold queue may pass its 256 places by them (DESIGN CHOICE,
notes/assumptions/99.md). -/
def State.putBack (s : State) (g : Nat) (ms : List (Msg × Nat)) : State :=
  s.modCluster g fun c => { c with hold := ms.map (fun m => Waiting.msg m.1 m.2) ++ c.hold }

/-- Take an actor's messages, but for a running one, out of its host's inbox. -/
def State.pullInbox (s : State) (k : Nat) (cls : BitVec 12) (key : XWord) (space : Nat) : List (Msg × Nat) × State :=
  let mine (x : InMsg) : Bool := x.msg.isTo cls key space && !x.running
  (((s.core k).inbox.filter mine).map fun x => (x.msg, x.since), s.modCore k fun c => { c with inbox := c.inbox.filter fun x => !mine x })

/-- The discard of an actor (spec/10_actors.md R244): its messages in the inbox return to the head of its line, and its slot's VALID is cleared; until that
write is acknowledged the actor's messages and requests wait. Log: DESIGN CHOICE, notes/assumptions/120.md. -/
def State.discardActor (s : State) (g id : Nat) : State :=
  match s.entry g id with
  | none => s
  | some e =>
    let d := s.cls e.cls
    let p := d.primary e.key
    let (ms, s) := s.pullInbox e.host e.cls e.key 0
    let s := ((s.putBack g ms).dropXfers g id).modEntry g id fun e =>
      { e with st := .retiring, pend := 0, retq := false, moveTo := none, reported := false, byReq := none, press := none }
    let found := s.findSlot d.job e.key p chainFuel
    let last := found.bind fun x => (s.placeOf? d.job (x.1 + 16 * x.2 + 16)).map fun q => (q.1, q.2, 8, s.slotMeta d.job x.1 x.2 % 2 ^ 63)
    let stop := match found with | some x => x.1 | none => 0
    (s.startXfer { g := g, entry := id, kind := .clear, job := d.job, last := last } (s.headLines d.job (s.chainTo d.job p stop chainFuel)) []).xferNext g

end Sys2Proof.Machine
end

