-- ==== Sys2Proof/Machine/Act.lean ====
section
/-! DEFINITION. The scheduler of a core, the entry state of an activation and its end (spec/09_messages.md R198, R213, R216, R217;
spec/11_tasks.md R251 to R254; spec/15_system.md R370). -/

namespace Sys2Proof.Machine

/-! Tasks. -/

/-- RANK, OWNP, PRIO, CLASS and ENTRY of a task word (spec/11_tasks.md R250). -/
def taskRank (w : XWord) : Nat := (w.extractLsb' 56 8).toNat
/-- The task class. -/
def taskClass (w : XWord) : BitVec 12 := w.extractLsb' 32 12
/-- ENTRY. -/
def taskEntry (w : XWord) : BitVec 32 := w.extractLsb' 0 32
/-- A task's effective priority (spec/11_tasks.md R252). -/
def State.taskPrio (s : State) (w : XWord) : Nat :=
  if w.getLsbD 50 then (w.extractLsb' 48 2).toNat else (s.cls (taskClass w)).prio.toNat

/-- Deque entries in use; that of a running or pre-empted task is freed when it ends (spec/09_messages.md R213). Log: DEDUCED, notes/assumptions/77.md. -/
def Core.dequeUsed (c : Core) : Nat :=
  c.deque.length + (match c.act with | some a => if a.kind = .task then 1 else 0 | none => 0)
    + (c.saved.filter fun x => decide (x.act.kind = .task)).length

/-- The front task among those a test allows (spec/11_tasks.md R252): least priority, least RANK, most recent. -/
def State.frontTask (s : State) (ts : List Task) (ok : Task → Bool) : Option Task :=
  ts.foldl (fun (b : Option Task) t =>
    if !ok t then b
    else match b with
      | none => some t
      | some x =>
        let p := s.taskPrio t.word
        let q := s.taskPrio x.word
        if p < q ∨ (p = q ∧ taskRank t.word ≤ taskRank x.word) then some t else b) none

/-- Push a task of the running activation onto its core's deque (spec/11_tasks.md R251): TID from the count of pushes. -/
def State.pushTask (s : State) (k : Nat) (t : Task) : State :=
  s.modCore k fun c =>
    let t := { t with pusher := k, tid := BitVec.ofNat 64 (k * 2 ^ 32 + c.pushes % 2 ^ 32) }
    { c with deque := c.deque ++ [t], pushes := (c.pushes + 1) % 2 ^ 32 }

/-! Candidates (spec/09_messages.md R216, R217; spec/10_actors.md R234). -/

/-- What a core may start. -/
inductive Cand where
  | msg (x : InMsg)
  | task (t : Task)
  | init (g : Nat) (e : FEntry)
  deriving DecidableEq, Repr

/-- Whether a core may start work of a job now: the job is live and not stopped, and a pre-empted activation lets only better
priorities run (spec/15_system.md R370, spec/19_debug.md R452). -/
def State.mayStart (s : State) (k job : Nat) : Bool :=
  let c := s.core k
  let j := s.job job
  j.live && !j.stopping &&
    match c.saved with
    | [] => true
    | x :: _ => decide (j.prio.toNat < (s.job x.act.job).prio.toNat)

/-- Effective priority of a message (spec/09_messages.md R216). -/
def State.msgPrio (s : State) (x : InMsg) : Nat :=
  (s.cls x.msg.cls).prio.toNat - (if x.msg.urgent then 1 else 0) - (s.cycles - x.since) / 4096

/-- Whether a message in an inbox is eligible (spec/09_messages.md R217): it is due, and no untimed message of its stream to its actor that came before
it stands there. -/
def Core.eligible (c : Core) (x : InMsg) : Bool :=
  x.due && !x.running &&
    !c.inbox.any fun y => decide (y.order < x.order) && !y.msg.timed && y.msg.samePair x.msg

/-- The best message of an inbox. -/
def State.bestMsg (s : State) (k : Nat) : Option InMsg :=
  let c := { s.core k with inbox := (s.core k).inbox.map (s.ripe k) }
  c.inbox.foldl (fun (b : Option InMsg) x =>
    if !(c.eligible x && s.mayStart k x.msg.job) then b
    else match b with
      | none => some x
      | some y =>
        let p := s.msgPrio x
        let q := s.msgPrio y
        if p < q ∨ (p = q ∧ (x.msg.stamp < y.msg.stamp ∨ (x.msg.stamp = y.msg.stamp ∧ x.order < y.order))) then some x else b) none

/-- The task of a deque that is a candidate: the front task, where the core may start it; only entries in back-off are passed over
(spec/11_tasks.md R252). -/
def State.bestTask (s : State) (k : Nat) : Option Task :=
  (s.frontTask (s.core k).deque fun t => decide (t.readyAt ≤ s.dtime)).filter fun t => s.mayStart k t.job

/-- The init handler due on a core, of the best class priority, then stamp. -/
def State.bestInit (s : State) (k : Nat) : Option (Nat × FEntry) :=
  (s.clusters.flatMap fun c => (c.2.flow.filter fun e =>
      e.hosted && decide (e.host = k) && decide (e.st = .activating) && e.initDue && decide (e.initAt ≤ s.dtime) && s.xferDone c.1 e.id
        && s.mayStart k e.job).map
      fun e => (c.1, e)).foldl (fun (b : Option (Nat × FEntry)) x =>
    match b with
    | none => some x
    | some y =>
      let p := (s.cls x.2.cls).prio.toNat
      let q := (s.cls y.2.cls).prio.toNat
      if p < q ∨ (p = q ∧ x.2.initStamp < y.2.initStamp) then some x else b) none

/-- Whether a message (or init handler) of a priority and stamp comes before a task. -/
def State.beforeTask (s : State) (p : Nat) (stamp : BitVec 32) (t : Task) : Bool :=
  let q := s.taskPrio t.word
  decide (p < q) || (decide (p = q) && decide (stamp ≤ t.stamp))

/-- The candidate a core starts (spec/09_messages.md R216): lower effective priority, lower stamp, a message before a task, earlier arrival; an
init handler goes ahead of the messages of its inbox. -/
def State.candidate (s : State) (k : Nat) : Option Cand :=
  match s.bestInit k, s.bestMsg k, s.bestTask k with
  | some (g, e), m, some t =>
    let byInit := s.beforeTask (s.cls e.cls).prio.toNat e.initStamp t
    let byMsg := match m with | some x => s.beforeTask (s.msgPrio x) x.msg.stamp t | none => false
    if byInit || byMsg then some (.init g e) else some (.task t)
  | some (g, e), _, none => some (.init g e)
  | none, some x, some t => if s.beforeTask (s.msgPrio x) x.msg.stamp t then some (.msg x) else some (.task t)
  | none, some x, none => some (.msg x)
  | none, none, some t => some (.task t)
  | none, none, none => none

/-! Entry (spec/09_messages.md R198, spec/11_tasks.md R254). -/

/-- The seed of the generator (spec/12_numbers.md R281). -/
def genSeed (key : XWord) (stamp : BitVec 32) (cls : BitVec 12) : BitVec 32 :=
  let g := key.extractLsb' 0 32 ^^^ key.extractLsb' 32 32 ^^^ stamp ^^^ (cls.setWidth 32 <<< 20)
  if g = 0 then 1 else g

/-- The length word x10 (spec/09_messages.md R198). -/
def lengthWord (m : Msg) : XWord :=
  (0 : BitVec 35) ++ bb m.timed ++ bb m.reply ++ bb m.refusal ++ m.flags ++ BitVec.ofNat 3 m.kind ++ m.scls ++ BitVec.ofNat 8 m.len

/-- Payload doubleword `i`; bytes at or beyond LEN read zero. -/
def payloadDw (m : Msg) (i : Nat) : XWord := BitVec.ofNat 64 (leNat ((m.payload.drop (8 * i)).take 8))

/-- The context at entry: status, trap vector, stamp, generator, allotment, windows and copy-engine registers at their entry values. -/
def State.entryCtx (s : State) (k : Nat) (a : Act) (key : XWord) (stamp : BitVec 32) : Ctx :=
  let d := a.desc
  let c := s.core k
  let lim := BitVec.ofNat 12 (c.spsize / 128)
  { distBase := s.cycles
    status := { init := decide (a.kind = .init), task := decide (a.kind = .task), retry := BitVec.ofNat 2 a.retry
                jprio := (s.job a.job).prio }
    tvecEn := decide (d.trapv ≠ 0xFFFFFFFF), tvecAddr := d.trapv.extractLsb' 2 30
    stamp := stamp, entryStamp := stamp, gen := genSeed key stamp a.cls
    spillBase := BitVec.ofNat 12 c.carve.spillLine, spillLim := lim, spillTop := lim
    allotV := 8 * d.allot.toNat, mirror := d.mirror }

/-- What the entry of a captured activation logs (spec/19_debug.md R453): header and payload of the message; word, argument and stamp of the task. -/
def Act.entryBytes (a : Act) : List Byte :=
  match a.kind with
  | .actor => a.msg.header ++ a.msg.payload
  | .task => leBytes 8 a.task.word.toNat ++ leBytes 8 a.task.arg.toNat ++ leBytes 8 a.task.stamp.toNat
  | .init => []

/-- Log an entry, 128 bytes at a time. -/
def State.logEntryOf (s : State) (k : Nat) (a : Act) : State :=
  let bs := a.entryBytes
  (List.range ((bs.length + 127) / 128)).foldl (fun s i => s.logExt k 7 i (BitVec.ofNat 1024 (leNat ((bs.drop (128 * i)).take 128)))) s

/-- Where an activation's replay begins (spec/19_debug.md R455). -/
def State.replayFrom (s : State) (a : Act) : Option Nat :=
  match a.kind with
  | .actor => (s.entry a.home a.eid).bind (·.ck)
  | .task => some (s.job a.job).capture.next
  | .init => none

/-- At the entry of a captured activation a checkpoint is taken when the core's period has passed since its last one; where the replay begins is kept,
and the entry as the first boundary (spec/19_debug.md R453, R455). -/
def State.beginLog (s : State) (k : Nat) (a : Act) : State :=
  if !s.captured k then s
  else
    let c := s.core k
    let s1 := if decide (a.kind = ActKind.actor) && decide (c.ckPeriod ≠ 0) && decide (c.ckAt + c.ckPeriod ≤ s.dtime) then
        s.checkpoint k a.home a.eid a c.ctx.entryStamp
      else s
    (s1.modCore k fun c => { c with act := some { a with ck := s1.replayFrom a } }).snapshot k

/-- Start an activation on a core: the entry state, the acquire at device scope, the first fetch. -/
def State.startAct (s : State) (k : Nat) (a : Act) (key : XWord) (stamp : BitVec 32) (pc : BitVec 32) (regs : List (Nat × XWord)) : State :=
  let a := { a with uid := s.nextId, entry := pc }
  let s := { s with nextId := s.nextId + 1 }
  let ctx := s.entryCtx k a key stamp
  let all := (1, BitVec.ofNat 64 a.curd) :: (2, BitVec.ofNat 64 (ctx.spillLim.toNat * 128)) :: regs
  let s := s.modCore k fun c =>
    { c with
      act := some a, pc := pc, ctx := ctx, vs := [], ms := [], accs := [], latch := none, events := [], tagBusy := 0, tagStat := []
      xs := all.foldl (fun m r => Map.put m r.1 ⟨r.2, true⟩) []
      undo := [], resumeAt := none, logged := [], heldSince := 0, gap := (s.job a.job).gap
      preempting := false, entering := true, count := { c.count with acts := c.count.acts + 1 } }
  let s := s.acquireL1 k
  (s.logEntryOf k a).beginLog k a

/-- The entry registers of a message (spec/09_messages.md R198). -/
def msgRegs (m : Msg) : List (Nat × XWord) :=
  [(8, m.key), (9, m.skey), (10, lengthWord m), (11, m.stamp.setWidth 64), (12, payloadDw m 0), (13, payloadDw m 1), (14, payloadDw m 2),
   (15, payloadDw m 3)]

/-- The entry registers of a task (spec/11_tasks.md R254). -/
def taskRegs (t : Task) : List (Nat × XWord) :=
  [(8, t.arg), (9, BitVec.ofNat 64 t.pusher), (10, 2 ^ 20), (11, t.stamp.setWidth 64), (12, t.word), (13, t.tid)]

/-- The entry registers of an init handler (spec/09_messages.md R198). -/
def initRegs (e : FEntry) : List (Nat × XWord) := [(8, e.key), (11, e.initStamp.setWidth 64)]

/-- The code address of a handler as the core fetches it; an address with none gives the address of no code. -/
def State.handlerPc (s : State) (c : BitVec 12) (sel : BitVec 6) : BitVec 32 := (s.handler c sel).getD 0xFFFFFFFF

/-- Start a message. -/
def State.startMsg (s : State) (k : Nat) (x : InMsg) : State :=
  let m := x.msg
  let home := s.msgHome m
  let e := ((s.cluster home).entryOf m.cls m.key).getD {}
  let job := if m.cls = 0 then m.job else (s.cls m.cls).job
  let a : Act :=
    { kind := .actor, job := job, cls := m.cls, key := m.key, msg := m, incarn := e.incarn, curd := e.curd, home := home, desc := s.cls m.cls
      retry := m.retry, eid := e.id, slot := x.order }
  let s := s.modCore k fun c => { c with inbox := c.inbox.map fun y => if y.order = x.order then { y with running := true } else y }
  s.startAct k a m.key m.stamp (s.handlerPc m.cls m.sel) (msgRegs m)

/-- Start a task. -/
def State.startTask (s : State) (k : Nat) (t : Task) : State :=
  let c := taskClass t.word
  let a : Act := { kind := .task, job := t.job, cls := c, key := 0, task := t, desc := s.cls c, retry := t.retry }
  let s := s.modCore k fun x => { x with deque := x.deque.filter fun y => decide (y.tid ≠ t.tid) }
  s.startAct k a t.tid t.stamp (taskEntry t.word) (taskRegs t)

/-- Start an init handler (spec/10_actors.md R234). -/
def State.startInit (s : State) (k g : Nat) (e : FEntry) : State :=
  let d := s.cls e.cls
  let a : Act :=
    { kind := .init, job := e.job, cls := e.cls, key := e.key, incarn := nextIncarn e.incarn, curd := e.curd, home := g, desc := d
      retry := e.initRetry, eid := e.id }
  let s := s.modEntry g e.id fun e => { e with initDue := false }
  s.startAct k a e.key e.initStamp d.init (initRegs e)

/-- Actors of a core whose curds reach beyond a scratchpad size, each with its home. Log: DESIGN CHOICE, notes/assumptions/91.md. -/
def State.curdsBeyond (s : State) (k size : Nat) : List (Nat × FEntry) :=
  s.clusters.flatMap fun c => (c.2.flow.filter fun e =>
    e.hosted && decide (e.host = k) && decide (size < e.curd + 128 * (s.cls e.cls).curdl.toNat)).map fun e => (c.1, e)

/-- Whether an accepted carve-out keeps a core from new work (spec/05_windows.md R105): nothing is pre-empted there, and no actor on a line that
leaves the scratchpad has work to end first. Log: DESIGN CHOICE, notes/assumptions/91.md. -/
def State.carveDue (s : State) (k : Nat) : Bool :=
  match (s.core k).accepted with
  | none => false
  | some v =>
    (s.core k).saved.isEmpty
      && (s.curdsBeyond k v.spsize).all fun e => e.2.idle || decide (e.2.st = .retiring) || (decide (e.2.st = .moving) && decide (e.2.pend = 0))

/-- Whether a core is between activations and free to choose: nothing runs, nothing is being saved, no carve-out is to be applied first, and the
device is not tripped. -/
def State.between (s : State) (k : Nat) : Bool :=
  let c := s.core k
  c.act.isNone && c.finish.isNone && c.held.isNone && !c.saving && !s.carveDue k && !s.tripped && !c.draining

/-- ACTIVATION_START (spec/09_messages.md R216). -/
def State.activationStart (s : State) (k : Nat) : State :=
  if !s.between k then s
  else match s.candidate k with
    | none => s
    | some (.msg x) => s.startMsg k x
    | some (.task t) => s.startTask k t
    | some (.init g e) => s.startInit k g e

/-! The end (spec/09_messages.md R213). -/

/-- SATCNT joins SATSUM of the group, held at its greatest value (spec/12_numbers.md R292, R290). -/
def State.addSatsum (s : State) (grp : Nat) (n : XWord) : State :=
  s.modGroup grp fun g => { g with satsum := BitVec.ofNat 48 (min (g.satsum.toNat + n.toNat) (2 ^ 48 - 1)) }

/-- Whether an inbox slot is that of an activation's message. -/
def Act.holds (a : Act) (x : InMsg) : Bool := decide (a.kind = .actor) && x.running && decide (x.order = a.slot)

/-- Discard what an activation holds on its core, its own copies and inbox slot and no other's (spec/09_messages.md R213). -/
def Core.clearAct (c : Core) : Core :=
  let a := c.act.getD {}
  { c with
    act := none, xs := [], vs := [], ms := [], ctx := {}, accs := [], latch := none, events := [], tagBusy := 0, tagStat := [], undo := []
    blocked := none, timers := [], vq := [], storing := [], fetch := none, finish := none, trapWait := none
    resumeAt := none, stepping := false, replay := false, entering := false, eng := .idle
    enterWait := none, preempting := false, preq := none, tlbi := none
    copies := c.copies.map fun x => if x.act = a.uid then { x with detached := true } else x
    inbox := c.inbox.filter fun x => !a.holds x }

/-- A record of a core that runs no activation; what its activation fields hold is left open (DESIGN CHOICE, notes/assumptions/4.md). A class filter that names
a class keeps it out. -/
def State.traceIdle (s : State) (k job kind code : Nat) : State :=
  if (s.job job).trace.cls.isSome then s
  else
    let a : Act := { cls := (Config.freeWord s.free).setWidth 12, key := Config.freeWord (s.free + 1), incarn := (Config.freeWord (s.free + 2)).setWidth 16
                     entry := (Config.freeWord (s.free + 3)).setWidth 32 }
    ({ s with free := s.free + 4 } : State).traceAct k job a kind code 0

/-- A core has come to the between-activations stop of a job: one GO record will follow (spec/19_debug.md R452). -/
def State.halt (s : State) (k job : Nat) : State := s.modJob job fun j => { j with halted := k :: j.halted }

/-- The jobs other than that of an activation for whose stop a core completes it. -/
def State.stopsAt (s : State) (k : Nat) (a : Act) : List Nat :=
  (s.jobs.filter fun j => decide (j.1 ≠ a.job) && j.2.stopping && j.2.cset.getLsbD (coreCluster k) && !j.2.halted.contains k).map (·.1)

/-- A core whose activation ends comes to the between-activations stop of its job, and of every other that has been asked to stop meanwhile
(spec/19_debug.md R452): a STOP record in each. -/
def State.jobStopped (s : State) (k : Nat) (a : Act) : State :=
  let s1 := if (s.job a.job).stopping then (s.traceAct k a.job a 6 18 (s.core k).ctx.instret.toNat).halt k a.job else s
  (s.stopsAt k a).foldl (fun (s : State) j => (s.traceIdle k j 6 18).halt k j) s1

/-- The dirty bytes of a core start to leave when no candidate waits there (spec/16_model.md R379). -/
def State.idleWriteBack (s : State) (k : Nat) : State :=
  match s.candidate k with
  | some _ => s
  | none => s.writeBackIf k fun _ => true

/-- What the vector unit still holds of an activation completes as it ends, and its flags go to the group's home (spec/12_numbers.md R292,
spec/13_vector.md R302). Log: DEDUCED, notes/assumptions/39.md. -/
def State.lastEvents (s : State) (k : Nat) : State :=
  (s.modCore k fun c => { c.vq.foldl Core.vecEvent c with vq := [], undo := [] }).forwardFlags k

/-- End the running activation: the home is told when `tell`, dirty bytes start to leave when no candidate waits (spec/16_model.md R379). -/
def State.endAct (s : State) (k : Nat) (tell : Bool) : State :=
  match (s.core k).act with
  | none => s
  | some a =>
    let s := s.lastEvents k
    let s := (s.addSatsum a.desc.ngrp.toNat (s.core k).ctx.satcnt).jobStopped k a
    let s := s.modCore k Core.clearAct
    let s := if decide (a.kind = .task) || !tell then s else s.control k (epHome a.home) (.done a.cls a.key a.eid)
    s.idleWriteBack k

end Sys2Proof.Machine
end

