-- ==== Sys2Proof/Machine/Contain.lean ====
section
/-! DEFINITION. Containment: levels and policies, the forced done, kills, redelivery, the cancelling of subtrees and of jobs
(spec/15_system.md R358 to R364, spec/10_actors.md R244). -/

namespace Sys2Proof.Machine

/-! Killing. -/

/-- A copy of a killed activation: one that is queued, or waits only for its action, goes at once; a started one stops with no action
(spec/08_copy.md R192, R193). -/
def cancelCopies (cs : List Copy) (mine : Copy → Bool) : List Copy :=
  (cs.filter fun x => !(mine x && (decide (x.st = .queued) || x.ended))).map fun x => if mine x then { x with st := .cancelling, detached := true } else x

/-- Take a running activation off its core without effects of its end (spec/15_system.md R361): the flags it has raised are beyond any rollback now and
go to the group's home (spec/12_numbers.md R292). Log: DEDUCED, notes/assumptions/57.md. -/
def State.dropAct (s : State) (k : Nat) (a : Act) : State :=
  let s := (s.modCore k fun c => { c with undo := [] }).forwardFlags k
  ((s.dropWaits k).jobStopped k a).modCore k fun c =>
    let c := { c with copies := cancelCopies c.copies fun x => decide (x.act = a.uid), mq := c.mq.filter fun m => decide (m.act ≠ a.uid) }
    { c.clearAct with out := [] }

/-- The address space of an activation's actor (spec/10_actors.md R226). -/
def Act.space (a : Act) : Nat := if a.cls = 0 then a.job else 0

/-- An actor's messages in an inbox return to the head of its waiting line (spec/15_system.md R361, spec/10_actors.md R244). -/
def State.pullBack (s : State) (k g : Nat) (cls : BitVec 12) (key : XWord) (space : Nat) : State :=
  let r := s.pullInbox k cls key space
  r.2.putBack g r.1

/-- What a kill does to the actor of an activation: a curd is discarded, an address has none; freed inbox slots are offered. -/
def State.killedActor (s : State) (k : Nat) (a : Act) : State :=
  if a.kind = .task then s
  else match (s.cluster a.home).entryOf a.cls a.key with
    | some e => (s.discardActor a.home e.id).offerAll
    | none => (s.pullBack k a.home a.cls a.key a.space).offerAll

/-- Kill the activation running on a core (spec/15_system.md R361): record, trace, and for an actor the discard of its curd. -/
def State.killAct (s : State) (k : Nat) (addr : BitVec 32) (cause : Nat) : State :=
  match (s.core k).act with
  | none => s
  | some a =>
    let s := s.actErr 12 k a (addr.setWidth 64) cause
    let s := s.trace k 2 cause (s.core k).ctx.instret.toNat
    ((s.dropAct k a).killedActor k a).idleWriteBack k

/-- The dirty bytes of a core that runs nothing start to leave when no candidate waits (spec/16_model.md R379). -/
def State.restWriteBack (s : State) (k : Nat) : State := if (s.core k).act.isNone then s.idleWriteBack k else s

/-- Kill a pre-empted activation of a core; ADDR is the address of the faulting instruction (spec/15_system.md R364), and a KILL record is produced
(spec/19_debug.md R449). -/
def State.killSaved (s : State) (k : Nat) (x : Saved) (addr : BitVec 32) (cause : Nat) : State :=
  let s := (s.actErr 12 k x.act (addr.setWidth 64) cause).traceOf k x.act.job x.act x.ctx.entryStamp 2 cause x.ctx.instret.toNat
  let s := s.modCore k fun c =>
    { c with
      saved := c.saved.filter fun y => decide (y.act.uid ≠ x.act.uid)
      copies := cancelCopies c.copies fun y => decide (y.act = x.act.uid)
      inbox := c.inbox.filter fun y => !x.act.holds y }
  (s.killedActor k x.act).restWriteBack k

/-! Subtrees (spec/15_system.md R363). -/

/-- The running and pre-empted tasks, and queued tasks, of a job. -/
def State.liveTasks (s : State) (job : Nat) : List Task :=
  (s.cores.flatMap fun c => c.2.deque ++ (match c.2.act with | some a => if a.kind = .task then [a.task] else [] | none => [])
    ++ (c.2.saved.filter fun x => decide (x.act.kind = .task)).map (·.act.task)).filter fun t => decide (t.job = job)

/-- The TIDs of a subtree, from its seed. -/
def subtree (ts : List Task) (set : List XWord) : Nat → List XWord
  | 0 => set
  | fuel + 1 =>
    let more := (ts.filter fun t => set.contains t.parent && !set.contains t.tid).map (·.tid)
    match more with
    | [] => set
    | _ => subtree ts (set ++ more) fuel

/-- Cancel the subtree of a task: its queued entries are removed, its running and pre-empted activations are killed. -/
def State.cancelSubtree (s : State) (job : Nat) (tid : XWord) (addr : BitVec 32) (cause : Nat) : State :=
  let ts := s.liveTasks job
  let set := subtree ts [tid] (ts.length + 1)
  let ks := s.cores.map (·.1)
  let s := ks.foldl (fun s k => s.modCore k fun c => { c with deque := c.deque.filter fun t => !(decide (t.job = job) && set.contains t.tid) }) s
  ks.foldl (fun s k =>
    let s1 : State := match (s.core k).act with
      | some a => if decide (a.kind = ActKind.task) && set.contains a.task.tid then s.killAct k addr cause else s
      | none => s
    ((s1.core k).saved.filter fun (x : Saved) => decide (x.act.kind = ActKind.task) && set.contains x.act.task.tid).foldl
      (fun (s : State) x => s.killSaved k x addr cause) s1) s

/-! Jobs. -/

/-- Whether a packet belongs to a curd transfer of a home slice. -/
def Packet.ofSlice (p : Packet) : Bool :=
  match p.body with
  | .read r => epIsHome r.core
  | .readRep r _ _ => epIsHome r.core
  | .posted _ => epIsHome p.src
  | _ => false

/-- A number of an in-order stream counts as accepted, as that of a killed job's packet does (spec/17_network.md R406), and its hole goes. -/
def Endpoint.passOver (e : Endpoint) (src seq : Nat) : Endpoint :=
  let st := e.stream src true
  { e with
    streams := if 32768 ≤ seqDist seq st.expect ∨ st.done.contains seq then e.streams else Map.put e.streams (streamKey src true) { st with done := seq :: st.done }
    holes := e.holes.filter fun h => !(h.inorder && decide (h.src = src) && decide (h.seq = seq)) }

/-- A stream moves past the numbers that count as accepted. -/
def Stream.skipDone (st : Stream) : Nat → Stream
  | 0 => st
  | fuel + 1 =>
    if st.done.contains st.expect then
      ({ st with expect := (st.expect + 1) % 65536, done := st.done.filter fun x => decide (x ≠ st.expect) } : Stream).skipDone fuel
    else st

/-- The in-order streams of an endpoint move past the numbers that count as accepted; a packet held behind them whose turn it is now stands at its end
to be accepted, those behind it after it, and its hole, if it had one, is filled (spec/17_network.md R407). -/
def State.resumeStreams (s : State) (ep : Nat) : State :=
  (s.ep ep).streams.foldl (fun (s : State) x =>
    let st := x.2.skipDone x.2.done.length
    let s1 := s.modEp ep fun e => { e with streams := Map.put e.streams x.1 st }
    match st.held.find? fun q => decide (q.seq = st.expect) with
    | some q =>
      { s1.modEp ep (fun e => { e with streams := Map.put e.streams x.1 { st with held := st.held.filter fun y => decide (y.seq ≠ q.seq) } }) with
        net := s1.net ++ [{ q with loc := .arrived, again := false }] }
    | none => s1) s

/-- The messages and requests of a job on the network, and its curd transfers, are discarded; their numbers count as accepted (DEDUCED, notes/assumptions/21.md). -/
def State.dropJobMsgs (s : State) (job : Nat) : State :=
  let mine (p : Packet) : Bool :=
    decide (p.job = job) && (decide (p.pkind = 0) || p.ofSlice || match p.body with | .areq _ => true | .whey k _ _ _ _ => decide (k = 0) | _ => false)
  let s := (s.net.filter mine).foldl (fun s p => p.copies.foldl (fun s q =>
    if !q.inorder ∨ q.again then s else s.modEp q.dst fun e => e.passOver q.src q.seq) s) s
  let cut (l : Link) : Link := if s.net.any fun p => mine p && decide (p.id = l.tx.of) then { l with tx := { l.tx with part := 0, of := 0 } } else l
  { s with net := s.net.filter fun p => !mine p, links := s.links.map fun l => (l.1, cut l.2) }

/-- The endpoints lose a job's retain entries, the holes known to be its own and its held packets, whose numbers count as accepted
(spec/17_network.md R402, R406). Log: DEDUCED, notes/assumptions/21.md. -/
def Endpoint.dropJob (e : Endpoint) (job : Nat) : Endpoint :=
  let gone := (e.holes.filter fun h => h.known && decide (h.job = job) && h.inorder).map (fun h => (h.src, h.seq))
    ++ e.streams.flatMap fun x => (x.2.held.filter fun p => decide (p.job = job)).map fun p => (p.src, p.seq)
  let e1 : Endpoint :=
    { e with
      retain := e.retain.filter fun r => decide (r.pkt.job ≠ job)
      holes := e.holes.filter fun h => !(h.known && decide (h.job = job))
      streams := e.streams.map fun x => (x.1, { x.2 with held := x.2.held.filter fun p => decide (p.job ≠ job) }) }
  gone.foldl (fun e n => e.passOver n.1 n.2) e1

/-- Every endpoint loses what it has of a job, and its streams go on. Log: DEDUCED, notes/assumptions/21.md. -/
def State.dropJobEps (s : State) (job : Nat) : State :=
  (s.eps.map (·.1)).foldl (fun (s : State) ep => s.resumeStreams ep) { s with eps := s.eps.map fun e => (e.1, e.2.dropJob job) }

/-- No acknowledgement of a killed job's posted operations and copy writes is awaited (spec/17_network.md R402). -/
def State.dropJobPosts (s : State) (job : Nat) : State :=
  (s.cores.map (·.1)).foldl (fun (s : State) k => s.modCore k fun c =>
    { c with
      posted := c.posted.filter fun p => decide (p.job ≠ job)
      copies := c.copies.map fun x => if x.job = job then { x with writes := 0 } else x }) s

/-- The slices lose a job's entries, curds and waiting messages (spec/10_actors.md R232). -/
def State.dropJobFlow (s : State) (job : Nat) : State :=
  { s with
    clusters := s.clusters.map fun c =>
      (c.1, { c.2 with
        flow := c.2.flow.filter fun e => decide (e.job ≠ job)
        hold := c.2.hold.filter fun w => match w with | .msg m _ => decide (m.job ≠ job) | .req r => decide (r.job ≠ job)
        sticky := c.2.sticky.filter fun x => decide ((if x.cls = 0 then x.space else (s.cls x.cls).job) ≠ job) })
    xfers := s.xfers.filter fun x => decide (x.job ≠ job)
    redel := s.redel.filter fun r => decide (r.msg.job ≠ job) }

/-- Kill every activation of a job on a core, and drop its queued work and copies there; `at_` is the address of the faulting instruction, none where no
fault but job control kills (spec/15_system.md R364, log: DEDUCED, notes/assumptions/21.md). -/
def State.killJobCore (s : State) (job k : Nat) (cause : Nat) (at_ : Option (BitVec 32)) : State :=
  let s := match (s.core k).act with
    | some a =>
      if a.job = job then
        (s.actErr 12 k a ((at_.getD (s.core k).pc).setWidth 64) cause).trace k 2 cause (s.core k).ctx.instret.toNat |>.dropAct k a
      else s
    | none => s
  let s := ((s.core k).saved.filter fun x => decide (x.act.job = job)).foldl (fun s x =>
    (s.actErr 12 k x.act ((at_.getD x.pc).setWidth 64) cause).traceOf k x.act.job x.act x.ctx.entryStamp 2 cause x.ctx.instret.toNat) s
  s.modCore k fun c =>
    { c with
      saved := c.saved.filter fun x => decide (x.act.job ≠ job)
      deque := c.deque.filter fun t => decide (t.job ≠ job)
      inbox := c.inbox.filter fun x => decide (x.msg.job ≠ job)
      copies := cancelCopies c.copies fun x => decide (x.job = job) }

/-- The parts of a job's queues count as accepted: their messages are discarded. -/
def State.dropJobParts (s : State) (job : Nat) : State :=
  (s.queues.filter fun q => decide (q.2.job.toNat = job)).foldl (fun (s : State) q =>
    (s.modQueue q.1 fun x => { x with open_ := x.open_.map fun p => { p with accepted := p.injected } }).settleQueue q.1) s

/-- Freed entries and inbox slots are taken by what waits, at every home. -/
def State.retakeAll (s : State) : State := (s.slices.foldl (fun (s : State) g => s.retryMisses g) s).offerAll

/-- The kill of a job (spec/15_system.md R360, spec/10_actors.md R232, spec/17_network.md R402); `fault` names the core and the address of the
instruction whose fault it answers, which every record gives (R364). What the cores have dirty starts to leave where no candidate is left
(spec/16_model.md R379). Log: DEDUCED, notes/assumptions/21.md. -/
def State.killJobWork (s : State) (job : Nat) (cause : Nat) (fault : Option (Nat × BitVec 32)) : State :=
  let s := (s.cores.map (·.1)).foldl (fun s k =>
    s.killJobCore job k cause (fault.map (·.2))) s
  let s := (((((s.dropJobFlow job).dropJobMsgs job).dropJobEps job).dropJobPosts job).dropJobParts job).retakeAll
  (s.cores.map (·.1)).foldl (fun (s : State) k => s.restWriteBack k) s

/-- A job killed at the owner level, or by job control: the owner is notified (spec/15_system.md R359, spec/18_frontend.md R440). -/
def State.killJobOwner (s : State) (job : Nat) (cause : Nat) (fault : Option (Nat × BitVec 32)) : State :=
  (s.killJobWork job cause fault).notification 1 job

/-! The chain of levels (spec/15_system.md R359, R360). -/

/-- A level: its policy and what its kill takes. -/
inductive Level where
  | self (pol : BitVec 2)
  | parent (pol : BitVec 2) (tid : XWord)
  | job (pol : BitVec 2)
  | owner
  deriving DecidableEq, Repr

/-- The parent levels of a task, while the parents' entries or activations exist. Log: DESIGN CHOICE, notes/assumptions/124.md. -/
def State.parentLevels (s : State) (job : Nat) (t : Task) : Nat → List Level
  | 0 => []
  | fuel + 1 =>
    if t.parent = 0 then []
    else match (s.liveTasks job).find? fun x => decide (x.tid = t.parent) with
      | some x => .parent (s.cls t.parentCls).pol t.parent :: s.parentLevels job x fuel
      | none => []

/-- The chain of an activation. -/
def State.levels (s : State) (a : Act) : List Level :=
  (.self a.desc.pol :: (if a.kind = .task then s.parentLevels a.job a.task ((s.liveTasks a.job).length + 1) else [])) ++ [.job (s.job a.job).pol, .owner]

/-- What absorbs a fault. -/
inductive Absorb where
  | ignore
  | retry
  | killSelf
  | killSubtree (tid : XWord)
  | killJob
  | killOwner
  deriving DecidableEq, Repr

/-- The walk: the first level that absorbs the fault (spec/15_system.md R360). -/
def absorb (retry : Nat) : List Level → Absorb
  | [] => .killOwner
  | .owner :: _ => .killOwner
  | .self p :: t => if p = 0 then .ignore else if p = 1 ∧ retry < 3 then .retry else if p = 2 then .killSelf else absorb retry t
  | .parent p tid :: t => if p = 0 then .ignore else if p = 1 ∧ retry < 3 then .retry else if p = 2 then .killSubtree tid else absorb retry t
  | .job p :: t => if p = 0 then .ignore else if p = 1 ∧ retry < 3 then .retry else if p = 2 then .killJob else absorb retry t

/-- Begin a forced done (spec/15_system.md R360): the core performs the steps of `msg.done` from its next step on. -/
def State.forceDone (s : State) (k : Nat) (addr : BitVec 32) (cause : Nat) (retry : Bool) : State :=
  (s.dropWaits k).modCore k fun c => { c with finish := some ⟨addr, cause, retry, s.dtime⟩, fetch := none, trapWait := none, blocked := none, enterWait := none,
                                               tlbi := none, drain := false }

/-- The end of an init handler by kill-self (spec/10_actors.md R244): the curd is discarded, the entry becomes FREE, the first waiting message is
discarded with a record of KIND 8, and the next starts a new creation. -/
def State.initKilled (s : State) (k : Nat) (a : Act) (addr : BitVec 32) (cause : Nat) : State :=
  let s := s.actErr 12 k a (addr.setWidth 64) cause
  let s := s.trace k 2 cause (s.core k).ctx.instret.toNat
  let s := s.dropAct k a
  match (s.cluster a.home).entryOf a.cls a.key with
  | none => s
  | some e =>
    let s := match s.firstFor a.home a.cls a.key with
      | some m => (s.msgErr 8 m a.home).modCluster a.home fun c => { c with hold := removeWaiting m c.hold }
      | none => s
    ((((s.freeEntry a.home e.id).dropXfers a.home e.id).releaseReqs a.home).retakeAll).idleWriteBack k

/-- Containment of a fault at an address (spec/15_system.md R359, R360, spec/10_actors.md R244). -/
def State.contain (s : State) (k cause : Nat) (_tval : XWord) (addr : BitVec 32) : State :=
  match (s.core k).act with
  | none => s
  | some a =>
    let s := s.trace k 3 cause (s.core k).ctx.epc.toNat
    match absorb (s.core k).ctx.status.retry.toNat (s.levels a) with
    | .ignore => (s.actErr 11 k a (addr.setWidth 64) cause).forceDone k addr cause false
    | .retry => s.forceDone k addr cause true
    | .killSelf => if a.kind = .init then s.initKilled k a addr cause else s.killAct k addr cause
    | .killSubtree tid => s.cancelSubtree a.job tid addr cause
    | .killJob => s.killJobWork a.job cause (some (k, addr))
    | .killOwner => s.killJobOwner a.job cause (some (k, addr))

/-- The back-off before redelivery number `n` (spec/15_system.md R362). -/
def backoff (n : Nat) : Nat := 1024 * 2 ^ (n - 1)

/-- Redelivery at the end of a forced done under retry (spec/15_system.md R362, spec/10_actors.md R244): the message at the head of its actor's line,
the task on its core's deque, the init handler with its curd zeroed again. The back-off counts from tick `t`, that of the fault. -/
def State.redeliver (s : State) (k : Nat) (a : Act) (t : Nat) : State :=
  match a.kind with
  | .task =>
    let n := a.retry + 1
    s.modCore k fun c => { c with deque := c.deque ++ [{ a.task with retry := n, readyAt := t + backoff n }] }
  | .init =>
    match (s.cluster a.home).entryOf a.cls a.key with
    | some e =>
      let n := a.retry + 1
      let s := s.zero (placePad e.host e.curd) (128 * a.desc.curdl.toNat)
      s.modEntry a.home e.id fun e => { e with initDue := true, initRetry := n, initAt := t + backoff n }
    | none => s
  | .actor =>
    let n := a.retry + 1
    let (ms, s) := s.pullInbox k a.cls a.key a.space
    let s := (s.putBack a.home ms).modCluster a.home fun c =>
      { c with flow := c.flow.map fun e => if e.cls = a.cls ∧ e.key = a.key then { e with pend := e.pend - ms.length } else e }
    { s with
      redel := s.redel ++ [{ id := s.nextId, due := t + backoff n, g := a.home, cls := a.cls, key := a.key
                             msg := { a.msg with retry := n } }]
      nextId := s.nextId + 1 }

end Sys2Proof.Machine
end

