-- ==== Sys2Proof/Machine/Ops.lean ====
section
/-! DEFINITION. The shared operations of the instructions: completion, waits, taking a trap and the return from one
(spec/15_system.md R351 to R358, spec/04_scalar.md R65), release and acquire (spec/06_memory.md R131), loads, stores, atomics and
marks (R126 to R143). -/

namespace Sys2Proof.Machine

/-! Completion. -/

/-- Block tags of the cluster whose V an instruction has cleared, as they were (spec/06_memory.md R148). -/
def State.clearedTags (s s' : State) : List (Nat × Nat) :=
  let g := coreCluster s.cur
  (List.range 16).filterMap fun i =>
    let w := s.blockTag g i
    if 2 ^ 63 ≤ w ∧ s'.blockTag g i < 2 ^ 63 then some (i, w) else none

/-- What an instruction has changed of its cluster while an access is outstanding (spec/06_memory.md R134). Log: DEDUCED, notes/assumptions/37.md. -/
def State.sharedUndo (s s' : State) : Option Shared :=
  if s.c.out.isEmpty then none
  else
    let g := s.cluster (coreCluster s.cur)
    let g' := s'.cluster (coreCluster s.cur)
    let x : Shared :=
      { carve := if g.pendCarve = g'.pendCarve then none else some ⟨g.pendCarve, g'.pendCarve⟩
        tags := s.clearedTags s'
        slot := if g'.engine.coming.length ≤ g.engine.coming.length then none
                else g'.engine.coming.getLast?.map fun w => ⟨w.id, w.idx, g.engine.pend, g.engine.pendW, g.engine.armed, g.engine.armedAt⟩
        arm := let n := (s.c.act.getD {}).desc.ngrp.toNat
               if (s.group n).fnarm = (s'.group n).fnarm then none else some n }
    if x = {} then none else some x

/-- The cluster's part of an undo-log entry is restored (spec/06_memory.md R136): a pending carve-out that still stands, tags that have not been
written since, a `mat.slot` write on its way or the pending words it had replaced, a group's FNARM. Log: DEDUCED, notes/assumptions/37.md. -/
def State.restoreShared (s : State) (k : Nat) (x : Shared) : State :=
  let n := coreCluster k
  let s1 := x.tags.foldl (fun (s : State) t => if s.blockTag n t.1 = t.2 % 2 ^ 63 then s.store (tagPlace n t.1) 8 t.2 else s) s
  let s2 : State := match x.arm with | some n => s1.modGroup n fun g => { g with fnarm := false } | none => s1
  s2.modCluster n fun g =>
    { g with
      pendCarve := match x.carve with | some u => if g.pendCarve = u.after then u.before else g.pendCarve | none => g.pendCarve
      engine := match x.slot with | some u => g.engine.undoSlot u | none => g.engine }

/-- What the entries of the undo log changed of the cluster is restored, newest first (spec/06_memory.md R136). -/
def State.undoShared (s : State) (k : Nat) : State := ((s.core k).undo.filterMap (·.shared)).foldl (fun s x => s.restoreShared k x) s

/-- The undo-log entry an instruction needs finds all 16 in use (spec/06_memory.md R134). -/
def State.logFull (s s' : State) : Bool :=
  !s.c.out.isEmpty && (s.c.changed s'.c || (s.sharedUndo s').isSome) && decide (16 ≤ s.c.undo.length)

/-- A stalled core cycle for a full undo log (spec/19_debug.md R457). -/
def State.countLogStall (s : State) : State :=
  s.modC fun c => { c with count := { c.count with logstall := c.count.logstall + 1 } }

/-- An instruction completes: an undo-log entry where one is due, PC at `pc`, one more in INSTRET (spec/04_scalar.md R65, spec/06_memory.md
R134). Log: DEDUCED, notes/assumptions/54.md. -/
def State.retire (s s' : State) (pc : BitVec 32) : State :=
  let c := s'.c
  let c' : Core := { c with pc := pc, ctx := { c.ctx with instret := c.ctx.instret + 1 } }
  ((s'.setC (s.c.logEntry c' s.nextId (s.sharedUndo s'))).snapshot s.cur).forwardFlags s.cur

/-- Complete, or stall at R for an undo-log entry. -/
def State.complete (s s' : State) (pc : BitVec 32) : State := if s.logFull s' then s.countLogStall else s.retire s' pc

/-! Traps (spec/15_system.md R355). -/

/-- Undo-log entries a trap entry takes: the window change and the writes of EPC, CAUSE, TVAL and STATUS (spec/06_memory.md R137;
DEDUCED, notes/assumptions/24.md). -/
def trapEntries : Nat := 5

/-- Whether the undo log has no room for a trap entry: the core stalls, and each core cycle counts (spec/06_memory.md R134, spec/19_debug.md R457). -/
def Core.trapLogFull (c : Core) : Bool := !c.out.isEmpty && decide (16 < c.undo.length + trapEntries)

/-- Enter the handler (spec/15_system.md R355): the saved registers, a new frame whose ins are the interrupted outs, PC at TVEC. Log: DEDUCED,
notes/assumptions/24.md. -/
def State.enterTrap (s : State) (k cause : Nat) (tval : XWord) : State :=
  let c := s.core k
  let a := c.pc
  let c1 : Core := { c with trapWait := none }
  let c2 := c1.modCtx fun x =>
    { x with
      epc := a, cause := BitVec.ofNat 8 cause, tval := tval
      status := { x.status with tdepth := BitVec.ofNat 16 x.depth, intrap := true, decline := false } }
  let c3 := c2.pushFrame
  let c4 : Core := { c3 with pc := c.ctx.tvecAddr ++ (0 : BitVec 2) }
  let c5 : Core := if c.out.isEmpty then c4 else { c4 with undo := List.replicate trapEntries (c.undoEntry c4 s.nextId) ++ c.undo }
  (s.setCore k c5).trace k 3 cause a.toNat

/-- A precise trap of the instruction at PC (spec/15_system.md R355, R358): a wait for earlier vector instructions and timer reads
(spec/04_scalar.md R65), containment, a wait for a window slot or for log room, or the handler. -/
def State.takeTrap (s : State) (k cause : Nat) (tval : XWord) : State :=
  let c := s.core k
  if !c.vq.isEmpty || !c.timers.isEmpty then s.modCore k fun c => { c with trapWait := some (cause, tval) }
  else if c.ctx.status.intrap || !c.ctx.tvecEn then (s.modCore k fun c => { c with trapWait := none }).contain k cause tval c.pc
  else if decide (c.ctx.depth = 65535) || (decide (c.freeSlots ≤ 0) && decide (c.eng ≠ .spilling) && !c.spillFits) then
    (s.modCore k fun c => { c with trapWait := none }).contain k 11 2 c.pc
  else if decide (c.freeSlots ≤ 0) || c.trapLogFull then
    s.modCore k fun c =>
      { c.startSpill with
        trapWait := some (cause, tval)
        count := if c.trapLogFull then { c.count with logstall := c.count.logstall + 1 } else c.count }
  else s.enterTrap k cause tval

/-- What a step makes of an instruction's answer. -/
def perform (s : State) (a : Ans) : Host.Outcome State Fault Refusal :=
  match a with
  | .done s' => .next (s.complete s' (s.c.pc + 4))
  | .jump s' pc => .next (s.complete s' pc)
  | .put s' => .next s'
  | .wait s' => .next s'
  | .trap cause tval s' => .next (s'.takeTrap s.cur cause tval)

/-- `eret` (spec/15_system.md R356). Log: DESIGN CHOICE, notes/assumptions/128.md. -/
def State.trapReturn (s : State) : Ans :=
  let c := s.c
  let x := c.ctx
  if !x.status.intrap || decide (x.depth ≠ x.status.tdepth.toNat + 1) then .trap 11 2 s
  else if x.status.decline then .put (s.contain s.cur x.cause.toNat x.tval x.epc)
  else if x.epc.toNat % 4 ≠ 0 then .trap 4 (x.epc.setWidth 64) s
  else if c.outPending then .wait s
  else .jump (s.setC ((c.popFrame).modStatus fun t => { t with intrap := false })) x.epc

/-! Ordering suffixes (spec/03_formats.md R42, spec/06_memory.md R131). -/

/-- Orderings. -/
inductive Ord where
  | rlx | acq | rel | ar
  deriving DecidableEq, Repr

/-- The ordering of an ordsc code. -/
def ordOf (o : BitVec 4) : Ord :=
  if o = 0 then .rlx else if o.toNat ≤ 5 then .acq else if o.toNat ≤ 10 then .rel else .ar
/-- The scope of an ordsc code: 0 core, 1 clu, 2 die, 3 dev, 4 sys. -/
def ordScope (o : BitVec 4) : Nat := if o = 0 then 0 else (o.toNat - 1) % 5
/-- Whether an ordering acquires. -/
def Ord.acquires (o : Ord) : Bool := decide (o = .acq) || decide (o = .ar)
/-- Whether an ordering releases. -/
def Ord.releases (o : Ord) : Bool := decide (o = .rel) || decide (o = .ar)

/-- Whether nothing of a core is on its way but what its copies wrote. -/
def Core.released (c : Core) : Bool := !c.l1Dirty && c.out.isEmpty && c.posted.all fun p => p.copy.isSome

/-- The release of scope `clu` or wider at a core (spec/06_memory.md R131): write-backs start, and the core waits for its replies and
acknowledgements, but for those of copies; none where the release is done. Log: DEDUCED, notes/assumptions/56.md. -/
def State.releaseStep (s : State) (k : Nat) : Option State :=
  if (s.core k).l1Dirty then some (s.writeBackIf k fun _ => true) else if (s.core k).released then none else some s

/-- Whether an outstanding access has its place in the core's own scratchpad, by its offset or through its aperture (spec/16_model.md R373, R374).
Log: DEDUCED, notes/assumptions/56.md. -/
def Access.atOwn (a : Access) (k : Nat) : Bool := a.here || a.parts.any fun p => p.own || ownPad k p.line

/-- The release of a scope. For `core` what the activation has under way in its own scratchpad is awaited: loads that wait for a line, and what goes
through its own aperture; the other accesses there and in the L1 are complete at issue (spec/06_memory.md R131, spec/16_model.md R373). Log: DEDUCED,
notes/assumptions/56.md; DEDUCED, notes/assumptions/87.md. -/
def State.releaseGate (s : State) (scope : Nat) : Gate :=
  let c := s.c
  if scope = 0 then waitUntil (!(c.out.any fun a => a.atOwn s.cur) && c.posted.all fun p => p.copy.isSome || !ownPad s.cur p.line)
  else if c.l1Dirty then .waitWith (s.writeBackIf s.cur fun _ => true)
  else waitUntil (c.out.isEmpty && c.posted.all fun p => p.copy.isSome)

/-- The release at core scope that an acquiring load makes first (spec/06_memory.md R128). -/
def State.loadGate (s : State) (o : BitVec 4) : Gate := if ordOf o = .acq then s.releaseGate 0 else .go

/-- The release of an access that may carry none. -/
def State.relGate (s : State) (o : BitVec 4) : Gate := if (ordOf o).releases then s.releaseGate (ordScope o) else .go

/-- The acquire of a scope, at the completion of the access (spec/06_memory.md R131). -/
def State.acquire (s : State) (scope : Nat) : State := if scope = 0 then s else s.acquireL1 s.cur

/-- The acquire of an access that may carry none. -/
def State.acqAt (s : State) (o : BitVec 4) : State := if (ordOf o).acquires then s.acquire (ordScope o) else s

/-- Whether an ordering acquires at `clu` or wider, so that a load reads at the home (spec/06_memory.md R128). -/
def farAcquire (o : BitVec 4) : Bool := (ordOf o).acquires && decide (0 < ordScope o)

/-! Accesses that leave the core. -/

/-- Start an outstanding access: it is listed, and a request goes out for each part that nothing near has served. -/
def State.startAccess (s : State) (a : Access) : State :=
  let c := s.c
  let id := s.nextId
  let a : Access := { a with id := id, pc := c.pc, issued := s.dtime, act := c.uid, instret := c.ctx.instret }
  let s1 : State := { s with nextId := id + 1 }
  let s2 := s1.modC fun c => { c with out := c.out ++ [a] }
  a.parts.zipIdx.foldl (fun (s : State) p =>
    if p.1.got.isSome || p.1.own then s
    else s.send { src := s.cur, dst := p.1.ep, body := .read { core := s.cur, copy := false, owner := id, part := p.2, line := p.1.line, job := s.c.jobNum }
                  job := s.c.jobNum }) s2

/-- Room for an undo-log entry that an access will need at its reply; a stalled core cycle counts (spec/19_debug.md R457). -/
def State.logGate (s : State) : Gate := if s.c.out.isEmpty || decide (s.c.undo.length < 16) then .go else .waitWith s.countLogStall

/-- A read of failing storage in the own scratchpad (spec/15_system.md R353). -/
def State.padEccGate (s : State) (a : XWord) : Gate :=
  trapIf (s.ecc.contains (lineOf (placePad s.cur a.toNat))) 17 (BitVec.ofNat 64 (a.toNat % 2 ^ 48))

/-- Where the list of failing storage names a line of an L1. -/
def l1Ecc (k line : Nat) : Nat := 2 ^ 60 + k * 2 ^ 40 + line

/-- A read of failing storage in the L1 (spec/15_system.md R353). -/
def State.l1EccGate (s : State) (line : Nat) (a : XWord) : Gate :=
  trapIf (s.ecc.contains (l1Ecc s.cur line)) 17 (BitVec.ofNat 64 (a.toNat % 2 ^ 48))

/-- The wait for the write-back of a line that is on its way (spec/16_model.md R374; DEDUCED, notes/assumptions/22.md). -/
def Core.backGate (c : Core) (line : Nat) : Gate := waitUntil (!c.backing line)

/-- The L1's own copy of a line is dirty and a reader at the home needs its bytes: they are written back and awaited
(DEDUCED, notes/assumptions/22.md). -/
def State.ownDirtyGate (s : State) (line : Nat) : Gate :=
  let c := s.c
  match c.l1Find line with
  | some x => if x.dirty ≠ 0 then .waitWith (s.writeBackIf s.cur fun y => decide (y.line = line)) else c.backGate line
  | none => c.backGate line

/-- The value of `n` bytes at offset `o` of a line. -/
def lineBytes (d : BitVec 1024) (o n : Nat) : Nat := d.toNat / 2 ^ (8 * o) % 2 ^ (8 * n)

/-- The access record of one aligned access of `n` bytes. -/
def scalarAccess (t : Tgt) (a : XWord) (n : Nat) (dest : Dest) : Access :=
  { id := 0, dest := dest, parts := [{ line := lineOf t.place, ep := t.ep, own := decide (t.region = .own) }], pieces := [⟨0, 8 * (t.place % 128), 8 * n, 0⟩]
    va := a, lo := a.toNat, hi := a.toNat + n - 1 }

/-- `ld` after its sources are read (spec/06_memory.md R128): `pre` are the checks before. Log: DEDUCED, notes/assumptions/22.md. -/
def State.loadAns (s : State) (pre : List Gate) (a : XWord) (n : Nat) (sext : Bool) (rd : BitVec 5) (o : BitVec 4) : Ans :=
  let k := s.cur
  let c := s.c
  checkedThen s (pre ++ [s.checkGate k a n .read, s.loadGate o, destGate c rd, s.meetGate (plainSpan k a n false)]) fun _ =>
    let t := s.target k a n .read
    let line := lineOf t.place
    let s1 := s.tlbTouch k t.page t.size
    if t.region = .own then
      checked s [waitUntil (c.lineFull a.toNat), s.padEccGate a]
        ((((s1.logLine k (a.toNat / 128)).modC fun c => c.setX rd (extendTo64 (8 * n) sext (s.load t.place n)))).acqAt o)
    else
      match (if farAcquire o then none else c.l1Find line) with
      | some x =>
        let v := lineBytes x.data (t.place % 128) n
        checked s [s.l1EccGate line a]
          (((s1.logExt k 1 a.toNat (BitVec.ofNat 1024 v)).modC fun c => (c.l1Touch line).setX rd (extendTo64 (8 * n) sext v)).acqAt o)
      | none =>
        checkedThen s [if farAcquire o then s.ownDirtyGate line else c.backGate line, s.logGate] fun _ =>
          let acc : Access := { scalarAccess t a n (.x (c.destKey rd) (8 * n) sext) with acq := farAcquire o, oldX := c.regAt (c.destKey rd) }
          let s2 := s1.startAccess acc
          .put (s2.modC fun c => { c with blocked := some s.nextId })

/-- `rld` after its source is read (spec/06_memory.md R133). -/
def State.rldAns (s : State) (pre : List Gate) (a : XWord) (n : Nat) (sext : Bool) (rd : BitVec 5) : Ans :=
  let k := s.cur
  let c := s.c
  checkedThen s (pre ++ [s.checkGate k a n .read, waitUntil (decide (c.out.length < 16)), destGate c rd, s.meetGate (plainSpan k a n false)])
    fun _ =>
      let t := s.target k a n .read
      let key := c.destKey rd
      let s1 := s.tlbTouch k t.page t.size
      let acc : Access := { scalarAccess t a n (.x key (8 * n) sext) with oldX := c.regAt key }
      checkedThen s [if t.region = .own then s.padEccGate a else .go] fun _ =>
        match (if t.region = .own then none else c.l1Find (lineOf t.place)) with
        | some x =>
          let v := lineBytes x.data (t.place % 128) n
          checked s [s.l1EccGate (lineOf t.place) a]
            ((s1.logExt k 1 a.toNat (BitVec.ofNat 1024 v)).modC fun c => (c.l1Touch (lineOf t.place)).setX rd (extendTo64 (8 * n) sext v))
        | none =>
          checked s [if t.region = .own then .go else c.backGate (lineOf t.place)] ((s1.startAccess acc).modC fun c => c.setEmptyKey key)

/-- A core cycle that waits for room in the retain buffer (spec/19_debug.md R457). -/
def State.countRetWait (s : State) : State := s.modC fun c => { c with count := { c.count with retwait := c.count.retwait + 1 } }

/-- Room in the core's retain buffer; a core cycle that waits for it counts (spec/19_debug.md R457). -/
def State.retainGate (s : State) (len : Nat) : Gate :=
  if s.retainRoom s.cur (retainBytes len) then .go else .waitWith s.countRetWait

/-- A captured activation logs the line of the own scratchpad that an atomic or counter operation names through the own aperture
(spec/19_debug.md R454). -/
def State.logHere (s : State) (place : Nat) : State := if ownPad s.cur place then s.logLine s.cur (padOff place / 128) else s

/-! Stores (spec/06_memory.md R130, R139). -/

/-- Whether 32 posted operations, write-backs and writes of copies apart, are not acknowledged (spec/06_memory.md R139). -/
def Core.postsFull (c : Core) : Bool := decide (32 ≤ (c.posted.filter fun p => decide (p.kind ≠ 3) && p.copy.isNone).length)

/-- Room for one more posted operation: fewer than 32 counted, and space in the retain buffer. -/
def State.postGate (s : State) (len : Nat) : Gate :=
  if s.c.postsFull then .wait
  else s.retainGate len

/-- Whether one more posted operation has room at once (spec/06_memory.md R139). -/
def State.postRoom (s : State) (len : Nat) : Bool :=
  !s.c.postsFull && s.retainRoom s.cur (retainBytes len)

/-- Post the bytes of one line. -/
def State.postLine (s : State) (p : Posted) : State :=
  let p := s.c.label s.cur p
  s.post s.cur p 2 (some p.room)

/-- The lines of a vector store that have room are posted, in order; the others wait (spec/06_memory.md R139). Log: DEDUCED,
notes/assumptions/25.md. -/
def State.postSome (s : State) : List Posted → State
  | [] => s.modC fun c => { c with storing := [] }
  | p :: t =>
    if s.postRoom (popCount p.mask.toNat 128) then (s.postLine p).postSome t
    else s.modC fun c => { c with storing := p :: t }

/-- A vector store goes on: it completes once its last line is posted; a core cycle that waits for retain room counts (spec/19_debug.md R457). Log:
DEDUCED, notes/assumptions/25.md. -/
def State.postMore (s : State) : Ans :=
  let s1 := s.postSome s.c.storing
  if s1.c.storing.isEmpty then .done s1 else .put (if s1.c.postsFull then s1 else s1.countRetWait)

/-- One line's bytes are stored: at once in the own scratchpad, into a line of the L1 that is there, posted otherwise (spec/06_memory.md
R123, R130). -/
def State.storeLine (s : State) (t : Tgt) (line : Nat) (mask : BitVec 128) (d : BitVec 1024) (va : XWord) (sp : Span) (q : Nat) : State :=
  if t.region = .own then (s.writeLine line mask d).unlogSaved s.cur (padOff line / 128)
  else if t.region = .dev ∧ (s.c.l1Find line).isSome then s.modC fun c => c.l1Store line mask d sp
  else s.postLine { va := va, line := line, mask := mask, data := d, lo := sp.lo, hi := sp.hi, view := sp.view, vq := q, ep := t.ep }

/-- Whether a store to a line is posted. -/
def State.posts (s : State) (t : Tgt) : Bool :=
  !(decide (t.region = .own) || (decide (t.region = .dev) && (s.c.l1Find (lineOf t.place)).isSome))

/-- A store dirty in the L1 is performed before a write that meets it, and its line is written back first; a write within that one line alone becomes
one write with it (spec/07_views.md R166, spec/16_model.md R376). `lines` are the lines the write touches. -/
def State.dirtyGate (s : State) (p : Span) (lines : List Nat) : Gate :=
  let sel (x : L1Line) : Bool := x.meets s.c.uid p && decide (lines ≠ [x.line])
  if s.c.l1.any sel then .waitWith (s.writeBackIf s.cur sel) else .go

/-- `st` after its sources are read. -/
def State.storeAns (s : State) (pre : List Gate) (a : XWord) (n : Nat) (v : XWord) (o : BitVec 4) : Ans :=
  let k := s.cur
  checkedThen s (pre ++ [s.checkGate k a n .write, goodGate s.c, s.relGate o, s.meetGate (plainSpan k a n true)]) fun _ =>
    let t := s.target k a n .write
    checkedThen s [s.dirtyGate (plainSpan k a n true) [lineOf t.place], if t.region = .own then .go else s.c.backGate (lineOf t.place),
                   if s.posts t then s.postGate n else .go] fun _ =>
      let off := t.place % 128
      let s1 := s.tlbTouch k t.page t.size
      .done (s1.storeLine t (lineOf t.place) (byteMask off n) (BitVec.ofNat 1024 (v.toNat % 2 ^ (8 * n) * 2 ^ (8 * off))) a
        (plainSpan k a n true) 16)

/-! Atomics (spec/06_memory.md R142, R143). -/

/-- `amo.op` after its sources are read. Log: DEDUCED, notes/assumptions/22.md. -/
def State.amoAns (s : State) (pre : List Gate) (op : AmoOp) (dbl : Bool) (a b c' : XWord) (rd : BitVec 5) (o : BitVec 4) : Ans :=
  let k := s.cur
  let c := s.c
  let n := amoBytes dbl
  let hostOk := decide (op = .add) || decide (op = .swap) || decide (op = .cas)
  checkedThen s (pre ++ [s.checkGate k a n .atomic hostOk, goodGate c, s.relGate o, destGate c rd, s.meetGate (plainSpan k a n true)]) fun _ =>
    let t := s.target k a n .atomic hostOk
    let line := lineOf t.place
    let s1 := s.tlbTouch k t.page t.size
    checkedThen s [s.dirtyGate (plainSpan k a n true) [line]] fun _ =>
    if t.region = .own then
      let r := (s1.logLine k (a.toNat / 128)).atomicAt t.place op dbl b c'
      checked s [waitUntil (c.lineFull a.toNat), s.padEccGate a]
        (((r.1.unlogSaved k (a.toNat / 128)).modC fun c => (c.setX rd (amoResult op dbl r.2.1)).raiseFlags r.2.2).acqAt o)
    else
      checkedThen s [if (c.l1Find line).isSome then .waitWith (s.dropLines k fun x => decide (x.line = line)) else s.ownDirtyGate line,
                     s.retainGate (if op = .cas then 16 else 8)] fun _ =>
        let key := c.destKey rd
        let acc : Access :=
          { id := 0, dest := .x key 64 false, va := a, lo := a.toNat, hi := a.toNat + n - 1, writes := true, acq := farAcquire o, here := ownPad k t.place
            line := some line, oldX := c.regAt key }
        let s2 := ((s1.logHere t.place).startAccess acc).modC fun c => c.setEmptyKey key
        let len := if op = .cas then 16 else 8
        let s3 := s2.send
          { src := k, dst := t.ep, len := len, retain := some (retainBytes len), job := c.jobNum
            body := .atomic { core := k, acc := s.nextId, op := op, dbl := dbl, addr := t.place, b := b, c := c', job := c.jobNum, va := a,
                                stamp := c.ctx.entryStamp } }
        if (ordOf o).acquires then .put (s3.modC fun c => { c with blocked := some s.nextId }) else .done s3

/-! Line marks (spec/06_memory.md R126). -/

/-- Whether an address is translated. -/
def translated (a : XWord) : Bool := decide (2 ^ 40 ≤ a.toNat) && decide (a.toNat < 2 ^ 48)

/-- The region rule of marks, waits and tests: a translated address raises the local range fault. -/
def rangeGate (a : XWord) : Gate := trapIf (translated a) 5 a

/-- `lmark.e` and `lmark.f` after the source is read: a mark of the own scratchpad takes an undo-log entry, a posted one waits for the good return of
earlier accesses (spec/06_memory.md R134). A translated address raises the local range fault before any fault of `check`, and an offset of the
instruction store that `check` lets pass raises it too (log: DESIGN CHOICE, notes/assumptions/92.md). Log: DEDUCED, notes/assumptions/53.md. -/
def State.markAns (s : State) (pre : List Gate) (a : XWord) (full : Bool) : Ans :=
  let k := s.cur
  checkedThen s (pre ++ [rangeGate a, s.checkGate k a 1 .write]) fun _ =>
    let t := s.target k a 1 .write
    checkedThen s [trapIf (decide (t.region = .store)) 5 a, if t.region = .own then .go else goodGate s.c,
                   if t.region = .own then .go else s.postGate 0] fun _ =>
      if t.region = .own then
        .done (s.modC fun c => if full then c.markFull (a.toNat / 128) else c.markEmpty (a.toNat / 128))
      else
        .done (s.postLine { kind := if full then 2 else 1, va := a, line := lineOf t.place, ep := t.ep, lo := a.toNat, hi := a.toNat })

/-- Whether an address lies in aperture space (spec/06_memory.md R114). -/
def inAperture (a : XWord) : Bool := decide (2 ^ 32 ≤ a.toNat) && decide (a.toNat < 0x000300000000)

/-- The checks of `lwaitf` and `ltest`: only the own scratchpad; the local range fault comes before the others (spec/06_memory.md R126, R149). -/
def State.lineTestGates (s : State) (a : XWord) : List Gate :=
  [trapIf (inAperture a) 5 a, rangeGate a, s.checkGate s.cur a 1 .read]

/-! Ranges of L1 lines (spec/06_memory.md R123, R145). -/

/-- Whether a physical line is the translation of an address from `lo` to `hi` through the table at `tbl`, whose level is `l` and whose first entry
maps `base`; with `fuel` levels left. -/
def State.tableHas (s : State) (lo hi line l tbl base : Nat) : Nat → Bool
  | 0 => false
  | fuel + 1 =>
    let size := 2 ^ levelShift l
    let first := (lo - base) / size
    let count := if hi < base then 0 else min (levelCount l) ((hi - base) / size + 1) - first
    (List.range count).any fun j =>
      let va := base + (first + j) * size
      let e : XWord := BitVec.ofNat 64 (s.load (placeDev (tbl + 8 * (first + j))) 8)
      if !e.getLsbD 0 then false
      else if l = 3 ∨ (e.getLsbD 1 ∧ l ≠ 0) then
        let pa := (e.extractLsb' 16 32).toNat * 65536
        s.leafOk va size e && decide ((e.extractLsb' 60 4).toNat = 0) && decide (pa ≤ line) && decide (line < pa + size)
          && decide (va + (line - pa) ≤ hi) && decide (lo ≤ va + (line - pa) + 127)
      else if e.getLsbD 1 then false
      else s.tableHas lo hi line (l + 1) ((e.extractLsb' 8 40).toNat * 256) va fuel

/-- Whether a physical line is the translation of an address from `lo` to `hi` of a job. -/
def State.rangeHas (s : State) (job lo hi line : Nat) : Bool := s.tableHas lo hi line 0 (s.job job).root 0 4

/-- The L1 lines a byte range of the running job holds, clipped to translated addresses. -/
def State.inL1Range (s : State) (a n : Nat) (x : L1Line) : Bool :=
  let lo := max a (2 ^ 40)
  let hi := min (a + n - 1) (2 ^ 48 - 1)
  decide (0 < n) && decide (lo ≤ hi) && s.rangeHas s.c.jobNum lo hi x.line

/-- `l1.wb` and `l1.inv` after the sources are read: the dirty lines leave, and the instruction completes once they are acknowledged. Log: DEDUCED,
notes/assumptions/59.md. -/
def State.l1RangeAns (s : State) (pre : List Gate) (a n : XWord) (inv : Bool) : Ans :=
  let sel := s.inL1Range a.toNat n.toNat
  checked s
    (pre ++ [if s.c.l1.any fun x => sel x && decide (x.dirty ≠ 0) then .waitWith (s.writeBackIf s.cur sel) else .go,
             waitUntil (!s.c.posted.any fun p => decide (p.kind = 3))])
    (if inv then s.dropLines s.cur sel else s)

end Sys2Proof.Machine
end

