-- ==== Sys2Proof/Machine/Operands.lean ====
section
/-! DEFINITION. Operand forms: sizes and extensions, immediates and displacements (spec/03_formats.md R38, R48, R49), parameter windows
(spec/06_memory.md R132, spec/09_messages.md R198), vector operands and their allotment (spec/05_windows.md R108). -/

namespace Sys2Proof.Machine

/-- Bytes of a size code. -/
def sizeBytes : Size → Nat
  | .b => 1 | .h => 2 | .w => 4 | .d => 8
/-- Bytes of a load's size code. -/
def ldBytes : LdSize → Nat
  | .bs => 1 | .hs => 2 | .ws => 4 | .d => 8 | .bz => 1 | .hz => 2 | .wz => 4
/-- Whether a load's size code extends the sign. -/
def ldSext : LdSize → Bool
  | .bz => false | .hz => false | .wz => false | _ => true

/-- Form I: an address from a base and a byte count (spec/03_formats.md R38). -/
def addrI (base : XWord) (imm : BitVec 11) : XWord := base + imm.signExtend 64
/-- Form S: an address from a base and a count scaled by the access size. -/
def addrS (base : XWord) (imm : BitVec 10) (n : Nat) : XWord := base + imm.signExtend 64 * BitVec.ofNat 64 n
/-- Form B: a branch target. -/
def targetB (pc : BitVec 32) (disp : BitVec 10) : BitVec 32 := pc + disp.signExtend 32 * 4
/-- Form J: a jump or call target. -/
def targetJ (pc : BitVec 32) (imm : BitVec 25) : BitVec 32 := pc + imm.signExtend 32 * 4
/-- Form U: a constant scaled by 2,048. -/
def immU (imm : BitVec 20) : XWord := imm.signExtend 64 * 2048

/-- One scalar source. -/
def src1 (sa : Src) : List (Src × Nat) := [(sa, 0)]
/-- Two scalar sources in their order. -/
def src2 (sa sb : Src) : List (Src × Nat) := [(sa, 0), (sb, 1)]
/-- Three scalar sources in their order. -/
def src3 (sa sb sc : Src) : List (Src × Nat) := [(sa, 0), (sb, 1), (sc, 2)]
/-- A scalar register read through a field that has no E bit, as with E = 0 (spec/03_formats.md R39). -/
def plainSrc (n : BitVec 5) (field : Nat) : Src × Nat := (⟨n, false⟩, field)

/-! Parameter windows. -/

/-- The bound of window `n` of the running activation, none where it is unbound. -/
def State.windowBound (s : State) (n : Nat) : Option Nat :=
  match s.c.act with
  | none => none
  | some a =>
    if n = 0 then (if a.kind = .actor then some a.msg.len else none)
    else if n = 1 then some a.desc.constlen.toNat
    else if (s.job a.job).jparlen = 0 then none else some (s.job a.job).jparlen

/-- The bytes at an offset of a window: the payload, the class constants, the job parameter block. -/
def State.windowRead (s : State) (n o len : Nat) : Nat :=
  match s.c.act with
  | none => 0
  | some a =>
    if n = 0 then leNat ((a.msg.payload.drop o).take len)
    else (s.fleizRead a.job ((if n = 1 then a.desc.constb.toNat else (s.job a.job).jpar.toNat) + o) len).getD 0

/-- Whether the class of the activation enables the window-range trap. -/
def State.windowTrap (s : State) : Bool := match s.c.act with | some a => a.desc.wrt | none => false

/-- Whether an access of a window is out of range (spec/06_memory.md R132). -/
def State.windowOut (s : State) (n : Nat) (o : XWord) (len : Nat) : Bool :=
  match s.windowBound n with
  | none => true
  | some b => decide (b < o.toNat + len)

/-- TVAL of the window-range trap. -/
def windowTval (n : Nat) (o : XWord) : XWord := BitVec.ofNat 64 (2 ^ 32 * n + min o.toNat 0xFFFFFFFF)

/-! Vector operands (spec/05_windows.md R108, R113). -/

/-- TVAL of the allotment fault of a vector operand: its number and its field (0 va, 1 vb, 2 vd). -/
def allotTval (n : BitVec 5) (field : Nat) : XWord := BitVec.ofNat 64 (n.toNat + 256 * field)

/-- The allotment check of vector operands, each with its field. Log: DESIGN CHOICE, notes/assumptions/97.md. -/
def allotGates (c : Core) (vs : List (BitVec 5 × Nat)) : List Gate :=
  vs.map fun p => trapIf (decide (c.ctx.allotV ≤ p.1.toNat)) 2 (allotTval p.1 p.2)

/-- The wait until vector operands are full, sources and destination (spec/13_vector.md R300). -/
def vfullGate (c : Core) (vs : List (BitVec 5)) : Gate := waitUntil (vs.all fun n => (c.v n.toNat).full)

/-- A vector source in failing storage (spec/15_system.md R353). -/
def veccGates (c : Core) (vs : List (BitVec 5)) : List Gate := vs.map fun n => c.eccGate (vecSlot n.toNat)

/-- Extra core cycles for register-partition banks (spec/05_windows.md R109): reads beyond the first of one bank, with the mirror copies placed
as well as can be. -/
def Core.bankExtra (c : Core) (vs : List (BitVec 5)) : Nat :=
  let rb := c.carve.rb
  let regs := vs.eraseDups.map (·.toNat)
  let homes (n : Nat) : List Nat := if c.ctx.mirror.getLsbD n then [n % rb, (n + 1) % rb] else [n % rb]
  let places := regs.foldl (fun (ps : List (List Nat)) n => ps.flatMap fun p => (homes n).map fun b => p ++ [b]) [[]]
  let cost (p : List Nat) : Nat := p.length - p.eraseDups.length
  places.foldl (fun m p => min m (cost p)) regs.length

/-- Count the extra cycles in BANKX (spec/19_debug.md R457). -/
def Core.countBanks (c : Core) (vs : List (BitVec 5)) : Core :=
  { c with count := { c.count with bankx := c.count.bankx + BitVec.ofNat 64 (c.bankExtra vs) } }

end Sys2Proof.Machine
end

