-- ==== Sys2Proof/Machine/Flags.lean ====
section
/-! DEFINITION. The flags and counts of numerical events: NFLAGS (spec/12_numbers.md R291). -/

namespace Sys2Proof.Machine

/-- NFLAGS as it reads: the activation's own flags with the group's as last broadcast (spec/12_numbers.md R291). -/
def State.nflags (s : State) (k : Nat) : BitVec 5 :=
  (s.core k).ctx.flags ||| (match (s.core k).act with | some a => (s.group a.desc.ngrp.toNat).sent | none => 0)

end Sys2Proof.Machine
end

