-- ==== Sys2Proof/Machine/Int.lean ====
section
/-! DEFINITION. The integer register and immediate instructions, `liu`, `addpc` and `csel` (spec/04_scalar.md R70 to R76). -/

namespace Sys2Proof.Machine

/-- An instruction that reads scalar registers and writes one: the sources' test, the wait for the destination, the result. -/
def State.regAns (s : State) (srcs : List (Src × Nat)) (rd : BitVec 5) (v : XWord) : Ans :=
  checked s (srcGates s.c srcs ++ [destGate s.c rd]) (s.modC fun c => c.setX rd v)

/-- Two sources and a function of their values. -/
def State.binAns (s : State) (rd : BitVec 5) (sa sb : Src) (f : XWord → XWord → XWord) : Ans :=
  s.regAns (src2 sa sb) rd (f (s.c.x sa.n) (s.c.x sb.n))

/-- One source and a function of its value. -/
def State.unAns (s : State) (rd : BitVec 5) (sa : Src) (f : XWord → XWord) : Ans := s.regAns (src1 sa) rd (f (s.c.x sa.n))

/-! The functions of spec/04_scalar.md R71. -/

/-- A shift count: the low six bits. -/
def shiftOf (b : XWord) : Nat := b.toNat % 64
/-- `div`. -/
def divFn (a b : XWord) : XWord :=
  if b = 0 then (if a = 0 then 0 else if 0 < a.toInt then 2 ^ 63 - 1 else 2 ^ 63)
  else if a = 2 ^ 63 ∧ b = -1 then 2 ^ 63 - 1
  else BitVec.ofInt 64 (Int.tdiv a.toInt b.toInt)
/-- `divz`. -/
def divzFn (a b : XWord) : XWord := if b = 0 then (if a = 0 then 0 else -1) else BitVec.ofNat 64 (a.toNat / b.toNat)
/-- `rem`. -/
def remFn (a b : XWord) : XWord :=
  if b = 0 then 0 else if a = 2 ^ 63 ∧ b = -1 then 0 else BitVec.ofInt 64 (a.toInt - b.toInt * Int.tdiv a.toInt b.toInt)
/-- `remz`. -/
def remzFn (a b : XWord) : XWord := if b = 0 then 0 else BitVec.ofNat 64 (a.toNat % b.toNat)
/-- Zero bits from bit `n - 1` down to the first one bit. -/
def zerosDown (a : Nat) : Nat → Nat
  | 0 => 0
  | n + 1 => if a.testBit n then 0 else 1 + zerosDown a n
/-- Zero bits from bit `i` up to the first one bit, `n` bits at most. -/
def zerosUp (a i : Nat) : Nat → Nat
  | 0 => 0
  | n + 1 => if a.testBit i then 0 else 1 + zerosUp a (i + 1) n
/-- The width of `ins` and `ext`. -/
def fieldWidth (b : XWord) : Nat := min (b.toNat / 256 % 128) (64 - b.toNat % 64)
/-- `ins`. -/
def insFn (d a b : XWord) : XWord :=
  let p := b.toNat % 64
  let m : XWord := BitVec.ofNat 64 ((2 ^ fieldWidth b - 1) * 2 ^ p)
  (d &&& ~~~m) ||| ((a <<< p) &&& m)
/-- `ext`. -/
def extFn (a b : XWord) : XWord := BitVec.ofNat 64 (a.toNat / 2 ^ (b.toNat % 64) % 2 ^ fieldWidth b)
/-- A condition as 0 or 1. -/
def boolX (b : Bool) : XWord := if b then 1 else 0

/-- `add`. -/
def execAdd (rd : BitVec 5) (sa sb : Src) (s : State) : Host.Outcome State Fault Refusal := perform s (s.binAns rd sa sb (· + ·))
/-- `sub`. -/
def execSub (rd : BitVec 5) (sa sb : Src) (s : State) : Host.Outcome State Fault Refusal := perform s (s.binAns rd sa sb (· - ·))
/-- `and`. -/
def execAnd (rd : BitVec 5) (sa sb : Src) (s : State) : Host.Outcome State Fault Refusal := perform s (s.binAns rd sa sb (· &&& ·))
/-- `or`. -/
def execOr (rd : BitVec 5) (sa sb : Src) (s : State) : Host.Outcome State Fault Refusal := perform s (s.binAns rd sa sb (· ||| ·))
/-- `xor`. -/
def execXor (rd : BitVec 5) (sa sb : Src) (s : State) : Host.Outcome State Fault Refusal := perform s (s.binAns rd sa sb (· ^^^ ·))
/-- `andn`. -/
def execAndn (rd : BitVec 5) (sa sb : Src) (s : State) : Host.Outcome State Fault Refusal :=
  perform s (s.binAns rd sa sb fun a b => a &&& ~~~b)
/-- `sll`. -/
def execSll (rd : BitVec 5) (sa sb : Src) (s : State) : Host.Outcome State Fault Refusal :=
  perform s (s.binAns rd sa sb fun a b => a <<< shiftOf b)
/-- `srl`. -/
def execSrl (rd : BitVec 5) (sa sb : Src) (s : State) : Host.Outcome State Fault Refusal :=
  perform s (s.binAns rd sa sb fun a b => a >>> shiftOf b)
/-- `sra`. -/
def execSra (rd : BitVec 5) (sa sb : Src) (s : State) : Host.Outcome State Fault Refusal :=
  perform s (s.binAns rd sa sb fun a b => a.sshiftRight (shiftOf b))
/-- `rol`. -/
def execRol (rd : BitVec 5) (sa sb : Src) (s : State) : Host.Outcome State Fault Refusal :=
  perform s (s.binAns rd sa sb fun a b => a.rotateLeft (shiftOf b))
/-- `slt`. -/
def execSlt (rd : BitVec 5) (sa sb : Src) (s : State) : Host.Outcome State Fault Refusal :=
  perform s (s.binAns rd sa sb fun a b => boolX (a.slt b))
/-- `sltz`. -/
def execSltz (rd : BitVec 5) (sa sb : Src) (s : State) : Host.Outcome State Fault Refusal :=
  perform s (s.binAns rd sa sb fun a b => boolX (a.ult b))
/-- `mul`. -/
def execMul (rd : BitVec 5) (sa sb : Src) (s : State) : Host.Outcome State Fault Refusal := perform s (s.binAns rd sa sb (· * ·))
/-- `mulh`. -/
def execMulh (rd : BitVec 5) (sa sb : Src) (s : State) : Host.Outcome State Fault Refusal :=
  perform s (s.binAns rd sa sb fun a b => BitVec.ofInt 64 ((a.toInt * b.toInt) / 2 ^ 64))
/-- `mulhz`. -/
def execMulhz (rd : BitVec 5) (sa sb : Src) (s : State) : Host.Outcome State Fault Refusal :=
  perform s (s.binAns rd sa sb fun a b => BitVec.ofNat 64 (a.toNat * b.toNat / 2 ^ 64))
/-- `div`. -/
def execDiv (rd : BitVec 5) (sa sb : Src) (s : State) : Host.Outcome State Fault Refusal := perform s (s.binAns rd sa sb divFn)
/-- `divz`. -/
def execDivz (rd : BitVec 5) (sa sb : Src) (s : State) : Host.Outcome State Fault Refusal := perform s (s.binAns rd sa sb divzFn)
/-- `rem`. -/
def execRem (rd : BitVec 5) (sa sb : Src) (s : State) : Host.Outcome State Fault Refusal := perform s (s.binAns rd sa sb remFn)
/-- `remz`. -/
def execRemz (rd : BitVec 5) (sa sb : Src) (s : State) : Host.Outcome State Fault Refusal := perform s (s.binAns rd sa sb remzFn)
/-- `min`. -/
def execMin (rd : BitVec 5) (sa sb : Src) (s : State) : Host.Outcome State Fault Refusal :=
  perform s (s.binAns rd sa sb fun a b => if b.slt a then b else a)
/-- `max`. -/
def execMax (rd : BitVec 5) (sa sb : Src) (s : State) : Host.Outcome State Fault Refusal :=
  perform s (s.binAns rd sa sb fun a b => if a.slt b then b else a)
/-- `minz`. -/
def execMinz (rd : BitVec 5) (sa sb : Src) (s : State) : Host.Outcome State Fault Refusal :=
  perform s (s.binAns rd sa sb fun a b => if b.ult a then b else a)
/-- `maxz`. -/
def execMaxz (rd : BitVec 5) (sa sb : Src) (s : State) : Host.Outcome State Fault Refusal :=
  perform s (s.binAns rd sa sb fun a b => if a.ult b then b else a)
/-- `clz`. -/
def execClz (rd : BitVec 5) (sa : Src) (s : State) : Host.Outcome State Fault Refusal :=
  perform s (s.unAns rd sa fun a => BitVec.ofNat 64 (zerosDown a.toNat 64))
/-- `ctz`. -/
def execCtz (rd : BitVec 5) (sa : Src) (s : State) : Host.Outcome State Fault Refusal :=
  perform s (s.unAns rd sa fun a => BitVec.ofNat 64 (zerosUp a.toNat 0 64))
/-- `popc`. -/
def execPopc (rd : BitVec 5) (sa : Src) (s : State) : Host.Outcome State Fault Refusal :=
  perform s (s.unAns rd sa fun a => BitVec.ofNat 64 (popCount a.toNat 64))
/-- `ins`, which also reads its destination with E = 0 (spec/03_formats.md R39). -/
def execIns (rd : BitVec 5) (sa sb : Src) (s : State) : Host.Outcome State Fault Refusal :=
  perform s (s.regAns (src2 sa sb ++ [plainSrc rd 3]) rd (insFn (s.c.x rd) (s.c.x sa.n) (s.c.x sb.n)))
/-- `ext`. -/
def execExt (rd : BitVec 5) (sa sb : Src) (s : State) : Host.Outcome State Fault Refusal := perform s (s.binAns rd sa sb extFn)

/-! Immediates (spec/04_scalar.md R73, R74). -/

/-- `addi`. -/
def execAddi (rd : BitVec 5) (sa : Src) (imm : BitVec 11) (s : State) : Host.Outcome State Fault Refusal :=
  perform s (s.unAns rd sa fun a => a + imm.signExtend 64)
/-- `andi`. -/
def execAndi (rd : BitVec 5) (sa : Src) (imm : BitVec 11) (s : State) : Host.Outcome State Fault Refusal :=
  perform s (s.unAns rd sa fun a => a &&& imm.signExtend 64)
/-- `ori`. -/
def execOri (rd : BitVec 5) (sa : Src) (imm : BitVec 11) (s : State) : Host.Outcome State Fault Refusal :=
  perform s (s.unAns rd sa fun a => a ||| imm.signExtend 64)
/-- `xori`. -/
def execXori (rd : BitVec 5) (sa : Src) (imm : BitVec 11) (s : State) : Host.Outcome State Fault Refusal :=
  perform s (s.unAns rd sa fun a => a ^^^ imm.signExtend 64)
/-- `slti`. -/
def execSlti (rd : BitVec 5) (sa : Src) (imm : BitVec 11) (s : State) : Host.Outcome State Fault Refusal :=
  perform s (s.unAns rd sa fun a => boolX (a.slt (imm.signExtend 64)))
/-- `sltzi`. -/
def execSltzi (rd : BitVec 5) (sa : Src) (imm : BitVec 11) (s : State) : Host.Outcome State Fault Refusal :=
  perform s (s.unAns rd sa fun a => boolX (a.ult (imm.signExtend 64)))
/-- `slli`. -/
def execSlli (rd : BitVec 5) (sa : Src) (sh : BitVec 6) (s : State) : Host.Outcome State Fault Refusal :=
  perform s (s.unAns rd sa fun a => a <<< sh.toNat)
/-- `srli`. -/
def execSrli (rd : BitVec 5) (sa : Src) (sh : BitVec 6) (s : State) : Host.Outcome State Fault Refusal :=
  perform s (s.unAns rd sa fun a => a >>> sh.toNat)
/-- `srai`. -/
def execSrai (rd : BitVec 5) (sa : Src) (sh : BitVec 6) (s : State) : Host.Outcome State Fault Refusal :=
  perform s (s.unAns rd sa fun a => a.sshiftRight sh.toNat)
/-- `liu` (spec/04_scalar.md R75). -/
def execLiu (rd : BitVec 5) (imm : BitVec 20) (s : State) : Host.Outcome State Fault Refusal := perform s (s.regAns [] rd (immU imm))
/-- `addpc` (spec/04_scalar.md R75). -/
def execAddpc (rd : BitVec 5) (imm : BitVec 20) (s : State) : Host.Outcome State Fault Refusal :=
  perform s (s.regAns [] rd (s.c.pc.setWidth 64 + immU imm))
/-- `csel` (spec/04_scalar.md R76). -/
def execCsel (rd : BitVec 5) (sa sb sc : Src) (s : State) : Host.Outcome State Fault Refusal :=
  perform s (s.regAns (src3 sa sb sc) rd (if s.c.x sc.n ≠ 0 then s.c.x sa.n else s.c.x sb.n))

end Sys2Proof.Machine
end

