-- ==== Sys2Proof/Machine/Control.lean ====
section
/-! DEFINITION. Branches, jumps, calls and returns (spec/04_scalar.md R77 to R80, spec/05_windows.md R93 to R96). -/

namespace Sys2Proof.Machine

/-- A branch: the sources' test, then the target or the next word. -/
def State.branchAns (s : State) (sa sb : Src) (disp : BitVec 10) (f : XWord → XWord → Bool) : Ans :=
  match checked s (srcGates s.c (src2 sa sb)) s with
  | .done s' => if f (s.c.x sa.n) (s.c.x sb.n) then .jump s' (targetB s.c.pc disp) else .done s'
  | a => a

/-- The misaligned trap of a register target (spec/03_formats.md R36). Log: DEDUCED, notes/assumptions/23.md. -/
def targetGate (t : XWord) : Gate := trapIf (decide (t.toNat % 4 ≠ 0)) 4 t

/-- Jump to a register's value, whose low 32 bits are the code address (DEDUCED, notes/assumptions/23.md). -/
def State.jumpAns (s : State) (gs : List Gate) (s' : State) (t : BitVec 32) : Ans :=
  match checked s gs s' with
  | .done s2 => .jump s2 t
  | a => a

/-- The effect of a call (spec/05_windows.md R94): the link, the new frame, a spill when no slot is left. Log: DEDUCED, notes/assumptions/54.md. -/
def Core.enterCall (c : Core) : Core := (c.setX 31 (c.pc.setWidth 64 + 4)).pushFrame

/-- The checks of a call after its target is read. -/
def callGates (c : Core) : List Gate :=
  [trapIf (decide (c.ctx.depth = 65535)) 11 0,
   trapIf (decide (c.freeSlots ≤ 0) && !c.spillDue) 11 (BitVec.ofNat 64 (128 * (c.ctx.spillBase.toNat + c.ctx.spilled))),
   waitUntil (decide (0 < c.freeSlots)), destGate c 31]

/-- The waits of a return after its target is read: no producer outstanding for x16 to x31, the caller's frame resident. -/
def retGates (c : Core) : List Gate :=
  [waitUntil (!c.outPending), waitUntil (decide (c.ctx.spilled < c.ctx.depth))]

/-- `beq`. -/
def execBeq (sa sb : Src) (disp : BitVec 10) (s : State) : Host.Outcome State Fault Refusal :=
  perform s (s.branchAns sa sb disp fun a b => decide (a = b))
/-- `bne`. -/
def execBne (sa sb : Src) (disp : BitVec 10) (s : State) : Host.Outcome State Fault Refusal :=
  perform s (s.branchAns sa sb disp fun a b => decide (a ≠ b))
/-- `blt`. -/
def execBlt (sa sb : Src) (disp : BitVec 10) (s : State) : Host.Outcome State Fault Refusal :=
  perform s (s.branchAns sa sb disp fun a b => a.slt b)
/-- `bge`. -/
def execBge (sa sb : Src) (disp : BitVec 10) (s : State) : Host.Outcome State Fault Refusal :=
  perform s (s.branchAns sa sb disp fun a b => !a.slt b)
/-- `bltz`. -/
def execBltz (sa sb : Src) (disp : BitVec 10) (s : State) : Host.Outcome State Fault Refusal :=
  perform s (s.branchAns sa sb disp fun a b => a.ult b)
/-- `bgez`. -/
def execBgez (sa sb : Src) (disp : BitVec 10) (s : State) : Host.Outcome State Fault Refusal :=
  perform s (s.branchAns sa sb disp fun a b => !a.ult b)
/-- `j` (spec/04_scalar.md R79). -/
def execJ (imm : BitVec 25) (s : State) : Host.Outcome State Fault Refusal := perform s (.jump s (targetJ s.c.pc imm))
/-- `jr` (spec/04_scalar.md R80). -/
def execJr (sa : Src) (s : State) : Host.Outcome State Fault Refusal :=
  let t := s.c.x sa.n
  perform s (s.jumpAns (srcGates s.c (src1 sa) ++ [targetGate t]) s (t.setWidth 32))
/-- `call` (spec/05_windows.md R94). -/
def execCall (imm : BitVec 25) (s : State) : Host.Outcome State Fault Refusal :=
  perform s (s.jumpAns (callGates s.c) (s.modC Core.enterCall) (targetJ s.c.pc imm))
/-- `callr` (spec/05_windows.md R94). -/
def execCallr (sa : Src) (s : State) : Host.Outcome State Fault Refusal :=
  let t := s.c.x sa.n
  perform s (s.jumpAns (srcGates s.c (src1 sa) ++ targetGate t :: callGates s.c) (s.modC Core.enterCall) (t.setWidth 32))
/-- `ret` (spec/05_windows.md R95, R113). -/
def execRet (s : State) : Host.Outcome State Fault Refusal :=
  let t := s.c.x 15
  perform s (s.jumpAns (trapIf (decide (s.c.ctx.depth = 0)) 11 1 :: (srcGates s.c [plainSrc 15 0] ++ targetGate t :: retGates s.c))
    (s.modC Core.popFrame) (t.setWidth 32))

end Sys2Proof.Machine
end

