-- ==== Sys2Proof/Machine/Memory.lean ====
section
/-! DEFINITION. The memory access instructions (spec/06_memory.md R122 to R148). -/

namespace Sys2Proof.Machine

/-- `ld`, displacement form (spec/06_memory.md R127, R128). -/
def execLd (sz : LdSize) (rd : BitVec 5) (sa : Src) (imm : BitVec 11) (s : State) : Host.Outcome State Fault Refusal :=
  perform s (s.loadAns (srcGates s.c (src1 sa)) (addrI (s.c.x sa.n) imm) (ldBytes sz) (ldSext sz) rd 0)
/-- `ld`, ordered form. -/
def execLdOrdered (sz : Size) (zx : Bool) (ord : BitVec 4) (rd : BitVec 5) (sa : Src) (s : State) : Host.Outcome State Fault Refusal :=
  perform s (s.loadAns (srcGates s.c (src1 sa)) (s.c.x sa.n) (sizeBytes sz) (!zx) rd ord)
/-- `ldp` (spec/06_memory.md R132). -/
def execLdp (sz : Size) (zx : Bool) (win : BitVec 2) (rd : BitVec 5) (sa : Src) (s : State) : Host.Outcome State Fault Refusal :=
  let o := s.c.x sa.n
  let n := sizeBytes sz
  let out := s.windowOut win.toNat o n
  perform s (checked s
    (srcGates s.c (src1 sa) ++
      [trapIf (decide (o.toNat % n ≠ 0)) 4 o, trapIf (out && s.windowTrap) 14 (windowTval win.toNat o), destGate s.c rd])
    (if out then s.modC fun c => (c.modStatus fun t => { t with wrange := true }).setX rd 0
     else s.modC fun c => c.setX rd (extendTo64 (8 * n) (!zx) (s.windowRead win.toNat o.toNat n))))
/-- `st`, displacement form (spec/06_memory.md R129, R130). -/
def execSt (sz : Size) (sb sa : Src) (imm : BitVec 10) (s : State) : Host.Outcome State Fault Refusal :=
  perform s (s.storeAns (srcGates s.c (src2 sa sb)) (addrS (s.c.x sa.n) imm (sizeBytes sz)) (sizeBytes sz) (s.c.x sb.n) 0)
/-- `st`, ordered form. -/
def execStOrdered (sz : Size) (ord : BitVec 4) (sb sa : Src) (s : State) : Host.Outcome State Fault Refusal :=
  perform s (s.storeAns (srcGates s.c (src2 sa sb)) (s.c.x sa.n) (sizeBytes sz) (s.c.x sb.n) ord)

/-- An atomic with one operand. -/
def State.amo2 (s : State) (op : AmoOp) (ord : BitVec 4) (dbl : Bool) (rd : BitVec 5) (sa sb : Src) : Ans :=
  s.amoAns (srcGates s.c (src2 sa sb)) op dbl (s.c.x sa.n) (s.c.x sb.n) 0 rd ord

/-- `amo.add`. -/
def execAmoAdd (ord : BitVec 4) (dbl : Bool) (rd : BitVec 5) (sa sb : Src) (s : State) : Host.Outcome State Fault Refusal :=
  perform s (s.amo2 .add ord dbl rd sa sb)
/-- `amo.and`. -/
def execAmoAnd (ord : BitVec 4) (dbl : Bool) (rd : BitVec 5) (sa sb : Src) (s : State) : Host.Outcome State Fault Refusal :=
  perform s (s.amo2 .and ord dbl rd sa sb)
/-- `amo.or`. -/
def execAmoOr (ord : BitVec 4) (dbl : Bool) (rd : BitVec 5) (sa sb : Src) (s : State) : Host.Outcome State Fault Refusal :=
  perform s (s.amo2 .or ord dbl rd sa sb)
/-- `amo.xor`. -/
def execAmoXor (ord : BitVec 4) (dbl : Bool) (rd : BitVec 5) (sa sb : Src) (s : State) : Host.Outcome State Fault Refusal :=
  perform s (s.amo2 .xor ord dbl rd sa sb)
/-- `amo.min`. -/
def execAmoMin (ord : BitVec 4) (dbl : Bool) (rd : BitVec 5) (sa sb : Src) (s : State) : Host.Outcome State Fault Refusal :=
  perform s (s.amo2 .min ord dbl rd sa sb)
/-- `amo.max`. -/
def execAmoMax (ord : BitVec 4) (dbl : Bool) (rd : BitVec 5) (sa sb : Src) (s : State) : Host.Outcome State Fault Refusal :=
  perform s (s.amo2 .max ord dbl rd sa sb)
/-- `amo.swap`. -/
def execAmoSwap (ord : BitVec 4) (dbl : Bool) (rd : BitVec 5) (sa sb : Src) (s : State) : Host.Outcome State Fault Refusal :=
  perform s (s.amo2 .swap ord dbl rd sa sb)
/-- `amo.fadd.w`. -/
def execAmoFaddW (ord : BitVec 4) (rd : BitVec 5) (sa sb : Src) (s : State) : Host.Outcome State Fault Refusal :=
  perform s (s.amo2 .fadd ord false rd sa sb)
/-- `amo.cas.d`: the register after sb, under the same E bit, holds the new value (spec/03_formats.md R50). -/
def execAmoCasD (ord : BitVec 4) (rd : BitVec 5) (sa sb : Src) (s : State) : Host.Outcome State Fault Refusal :=
  perform s (s.amoAns (srcGates s.c (src2 sa sb ++ [(⟨sb.n + 1, sb.e⟩, 1)])) .cas true (s.c.x sa.n) (s.c.x sb.n) (s.c.x (sb.n + 1)) rd ord)
/-- `fence` (spec/06_memory.md R144). -/
def execFence (scope : BitVec 3) (s : State) : Host.Outcome State Fault Refusal :=
  perform s (checked s [s.releaseGate scope.toNat] (s.acquire scope.toNat))
/-- `lmark.e` (spec/06_memory.md R126). -/
def execLmarkE (sa : Src) (s : State) : Host.Outcome State Fault Refusal :=
  perform s (s.markAns (srcGates s.c (src1 sa)) (s.c.x sa.n) false)
/-- `lmark.f`. -/
def execLmarkF (sa : Src) (s : State) : Host.Outcome State Fault Refusal :=
  perform s (s.markAns (srcGates s.c (src1 sa)) (s.c.x sa.n) true)
/-- `lwaitf`. -/
def execLwaitf (sa : Src) (s : State) : Host.Outcome State Fault Refusal :=
  perform s (checked s (srcGates s.c (src1 sa) ++ s.lineTestGates (s.c.x sa.n) ++ [waitUntil (s.c.lineFull (s.c.x sa.n).toNat)]) s)
/-- `ltest`. -/
def execLtest (rd : BitVec 5) (sa : Src) (s : State) : Host.Outcome State Fault Refusal :=
  let v := boolX (s.c.lineFull (s.c.x sa.n).toNat)
  perform s (checked s (srcGates s.c (src1 sa) ++ s.lineTestGates (s.c.x sa.n) ++ [destGate s.c rd])
    ((s.modC fun c => c.setX rd v).logResult s.cur v))
/-- `l1.inv` (spec/06_memory.md R145). -/
def execL1Inv (sa sb : Src) (s : State) : Host.Outcome State Fault Refusal :=
  perform s (s.l1RangeAns (srcGates s.c (src2 sa sb)) (s.c.x sa.n) (s.c.x sb.n) true)
/-- `l1.wb`. -/
def execL1Wb (sa sb : Src) (s : State) : Host.Outcome State Fault Refusal :=
  perform s (s.l1RangeAns (srcGates s.c (src2 sa sb)) (s.c.x sa.n) (s.c.x sb.n) false)
/-- `rld` (spec/06_memory.md R133). -/
def execRld (sz : LdSize) (rd : BitVec 5) (sa : Src) (imm : BitVec 11) (s : State) : Host.Outcome State Fault Refusal :=
  perform s (s.rldAns (srcGates s.c (src1 sa)) (addrI (s.c.x sa.n) imm) (ldBytes sz) (ldSext sz) rd)
/-- `rst.sync` (spec/06_memory.md R141): the activation's posted operations are acknowledged. -/
def execRstSync (s : State) : Host.Outcome State Fault Refusal :=
  perform s (checked s [waitUntil (!s.c.posted.any fun p => decide (p.act = s.c.uid) && p.copy.isNone && decide (p.kind ≠ 3))] s)

/-! The instruction store (spec/06_memory.md R146, R148). -/

/-- Whether a tag is valid for a job. -/
def tagOf (w job : Nat) : Bool := decide (2 ^ 63 ≤ w) && decide (w / 2 ^ 40 % 256 = job)
/-- The block of a tag, as a number of 4 KiB. -/
def tagBlock (w : Nat) : Nat := w / 4096 % 2 ^ 20

/-- Clear V of those blocks of a job that hold code addresses of a range. -/
def State.clearBlocks (s : State) (g job lo n : Nat) : State :=
  (List.range 16).foldl (fun s i =>
    let w := s.blockTag g i
    let b := tagBlock w * 4096
    if tagOf w job && decide (0 < n) && decide (b < lo + n) && decide (lo < b + 4096) then s.store (tagPlace g i) 8 (w % 2 ^ 63) else s) s

/-- `iinv` (spec/06_memory.md R148). Log: DEDUCED, notes/assumptions/37.md. -/
def execIinv (sa sb : Src) (s : State) : Host.Outcome State Fault Refusal :=
  perform s (checked s (srcGates s.c (src2 sa sb))
    (s.clearBlocks (coreCluster s.cur) s.c.jobNum (s.c.x sa.n).toNat (s.c.x sb.n).toNat))

/-! `tlbi` (spec/06_memory.md R122). -/

/-- Page size of a SIZE code, 0 for any. -/
def tlbiSize (w : XWord) : Nat :=
  let k := w.toNat / 2 % 4
  if k = 0 then 0 else if k = 1 then 65536 else if k = 2 then 2 ^ 21 else 2 ^ 30

/-- `tlbi`: the release, the invalidation sent to every cluster and to the walker pools, the wait for their acknowledgements. Only a control
core may name another job in bits 15 to 8. Log: DESIGN CHOICE, notes/assumptions/88.md. -/
def execTlbi (sa sb : Src) (s : State) : Host.Outcome State Fault Refusal :=
  let w := s.c.x sb.n
  perform s (match s.c.tlbi with
    | some id =>
      if s.invals.any fun v => decide (v.id = id) then .wait s else .done (s.modC fun c => { c with tlbi := none })
    | none =>
      checkedThen s (srcGates s.c (src2 sa sb) ++ [s.releaseGate 3]) fun _ =>
        let v : Inval :=
          { id := s.nextId, core := s.cur, job := if isControl s.cur then w.toNat / 256 % 256 else s.c.jobNum, all := w.getLsbD 0, va := (s.c.x sa.n).toNat, size := tlbiSize w
            left := List.range 768 }
        .put (({ s with nextId := s.nextId + 1, invals := s.invals ++ [v] } : State).modC fun c => { c with tlbi := some s.nextId }))

end Sys2Proof.Machine
end

