-- ==== Sys2Proof/Machine/Csr.lean ====
section
/-! DEFINITION. Control and status registers: the access table, reading and writing (spec/15_system.md R346 to R350, R367; spec/05_windows.md R100
to R110; spec/11_tasks.md R267 to R272; spec/12_numbers.md R291 to R295; spec/19_debug.md R456). -/

namespace Sys2Proof.Machine

/-- Kinds of access. -/
inductive CsrOp where
  | read | write | set | clear
  deriving DecidableEq, Repr

/-- The fields an access acts on, none where it raises the illegal-instruction trap (spec/15_system.md R346). -/
def csrFields (op : CsrOp) (n : Nat) : Option XWord :=
  let trapRegs : Option XWord :=
    if n = 1 then some 0xFF else if n = 2 then some 0xFFFFFFFF else if n = 3 then some (BitVec.allOnes 64)
    else if n = 4 then some 0x80000000FFFFFFFC else none
  let lim : Option XWord := if n = 0x44 then some 0x7FF80 else none
  match op with
  | .read => some (BitVec.allOnes 64)
  | .write => if n = 0x33 ∨ (0x100 ≤ n ∧ n ≤ 0x13F) then some (BitVec.allOnes 64) else trapRegs.or lim
  | .set => if n = 0 then some 2 else if n = 0x31 then some 0x200 else trapRegs.or lim
  | .clear => if n = 0 then some 0x10102 else if n = 0x30 then some (BitVec.allOnes 64) else if n = 0x32 then some 0x1F else trapRegs.or lim

/-- Whether a pre-emption request stands for a core (spec/15_system.md R365). -/
def State.preqStands (s : State) (k : Nat) : Bool :=
  match (s.core k).preq, (s.core k).act with
  | some j, some a => decide ((s.job j).prio.toNat < (s.job a.job).prio.toNat)
  | _, _ => false

/-- PPTGAP.DIST: core cycles since the last `ppt`, entry or resumption, held cycles apart (spec/15_system.md R367, spec/19_debug.md R452). -/
def State.dist (s : State) (k : Nat) : Nat :=
  let c := s.core k
  min ((if c.held.isSome then c.heldSince else s.cycles) - c.ctx.distBase) (2 ^ 32 - 1)

/-- FLOOR of a job as last published (spec/11_tasks.md R270). -/
def Job.floorWord (j : Job) : XWord := bb j.floorEmpty ++ (0 : BitVec 31) ++ j.floorMin

/-- ALLOTW (spec/05_windows.md R107). -/
def Core.allotw (c : Core) : XWord :=
  (0 : BitVec 23) ++ BitVec.ofInt 9 c.nwin ++ (0 : BitVec 9) ++ BitVec.ofNat 7 c.carve.sk ++ (0 : BitVec 7) ++ BitVec.ofNat 5 c.carve.lb
    ++ (0 : BitVec 1) ++ BitVec.ofNat 3 c.carve.rb

/-- The value of a register at a core. -/
def State.csr (s : State) (k n : Nat) : XWord :=
  let c := s.core k
  let x := c.ctx
  let a := c.act.getD {}
  if n = 0 then { x.status with jprio := (s.job a.job).prio }.word (s.preqStands k)
  else if n = 1 then x.cause.setWidth 64
  else if n = 2 then x.epc.setWidth 64
  else if n = 3 then x.tval
  else if n = 4 then bb x.tvecEn ++ (0 : BitVec 31) ++ x.tvecAddr ++ (0 : BitVec 2)
  else if n = 5 then BitVec.ofNat 64 ((s.job a.job).errTotal % 2 ^ 32)
  else if n = 0x10 then BitVec.ofNat 64 k
  else if n = 0x11 then BitVec.ofNat 64 (meshY k * 256 + meshX k)
  else if n = 0x12 then BitVec.ofNat 64 a.job
  else if n = 0x13 then a.cls.setWidth 64
  else if n = 0x14 then (if a.kind = .task then 0 else a.incarn.setWidth 64)
  else if n = 0x15 then x.stamp.setWidth 64
  else if n = 0x20 then BitVec.ofNat 64 (s.coreTime k)
  else if n = 0x21 then (s.job a.job).floorWord
  else if n = 0x22 then BitVec.ofNat 64 s.cycles
  else if n = 0x23 then x.instret
  else if n = 0x30 then x.tags
  else if n = 0x31 then
    let g := s.group a.desc.ngrp.toNat
    (0 : BitVec 54) ++ bb g.fnarm ++ bb g.fnten ++ a.desc.ngrp
  else if n = 0x32 then (s.nflags k).setWidth 64
  else if n = 0x33 then x.satcnt
  else if n = 0x40 then x.mirror ++ (0 : BitVec 26) ++ BitVec.ofNat 6 x.allotV
  else if n = 0x41 then c.allotw
  else if n = 0x42 then BitVec.ofNat 64 (x.spilled % 2 ^ 16 * 2 ^ 16 + x.depth % 2 ^ 16)
  else if n = 0x43 then BitVec.ofNat 64 (x.spillBase.toNat * 128)
  else if n = 0x44 then BitVec.ofNat 64 (x.spillLim.toNat * 128)
  else if n = 0x45 then BitVec.ofNat 32 (s.dist k) ++ c.gap
  else if 0x100 ≤ n ∧ n ≤ 0x13F then Map.get 0 c.latacc (n - 0x100)
  else 0

/-- A core's part of a write: the register takes `v` in its fields; `m` are the operand's bits there (spec/15_system.md R347). -/
def Core.csrPut (c : Core) (n : Nat) (v m : XWord) : Core :=
    if n = 0 then c.modStatus fun t => { t with decline := v.getLsbD 1, wrange := v.getLsbD 8, resumed := v.getLsbD 16 }
    else if n = 1 then c.modCtx fun x => { x with cause := v.setWidth 8 }
    else if n = 2 then c.modCtx fun x => { x with epc := v.setWidth 32 }
    else if n = 3 then c.modCtx fun x => { x with tval := v }
    else if n = 4 then c.modCtx fun x => { x with tvecEn := v.getLsbD 63, tvecAddr := v.extractLsb' 2 30 }
    else if n = 0x30 then c.modCtx fun x => { x with tags := v }
    else if n = 0x32 then
      let f := m.setWidth 5
      c.modCtx fun x => { x with flags := x.flags &&& ~~~f, fevs := if f = 0 then x.fevs else x.fevs ++ [(0, f)] }
    else if n = 0x33 then c.modCtx fun x => { x with satcnt := v }
    else if n = 0x44 then c.modCtx fun x => { x with spillLim := v.extractLsb' 7 12 }
    else if 0x100 ≤ n ∧ n ≤ 0x13F then { c with latacc := Map.put c.latacc (n - 0x100) v }
    else c

/-- The effect of a write, which takes an undo-log entry whatever the value (spec/15_system.md R347); a set of NGROUP's bit 9 arms the group record
where FNTEN is 1 (spec/12_numbers.md R294). Log: DEDUCED, notes/assumptions/57.md. -/
def State.csrPut (s : State) (k n : Nat) (v m : XWord) : State :=
  let grp := ((s.core k).act.getD {}).desc.ngrp.toNat
  let s1 := if n = 0x31 ∧ m.getLsbD 9 ∧ (s.group grp).fnten then s.modGroup grp fun g => { g with fnarm := true } else s
  s1.modCore k fun c => { c.csrPut n v m with writes := c.writes + 1 }

/-- The stack fault of a SPILLLIM out of its range (spec/05_windows.md R102). -/
def limGate (c : Core) (n : Nat) (v : XWord) : Gate :=
  let r := (v.extractLsb' 7 12).toNat
  trapIf (decide (n = 0x44) && (decide (r < c.ctx.spillBase.toNat + c.ctx.spilled) || decide (c.ctx.spillTop.toNat < r))) 11 (BitVec.ofNat 64 r)

/-- Reads and clears of NFLAGS and SATCNT wait for every earlier vector instruction (spec/13_vector.md R302). Log: DEDUCED, notes/assumptions/39.md. -/
def vecDoneGate (c : Core) (n : Nat) : Gate := waitUntil (!(decide (n = 0x32) || decide (n = 0x33)) || c.vq.isEmpty)

/-- `csrw`, `csrs` and `csrc`. -/
def State.csrWriteAns (s : State) (op : CsrOp) (csr : BitVec 11) (sa : Src) : Ans :=
  let n := csr.toNat
  match csrFields op n with
  | none => .trap 1 (s.c.ir.setWidth 64) s
  | some mask =>
    let m := s.c.x sa.n &&& mask
    let old := s.csr s.cur n
    let v := match op with
      | .set => old ||| m
      | .clear => old &&& ~~~m
      | _ => (old &&& ~~~mask) ||| m
    checked s (srcGates s.c (src1 sa) ++ [limGate s.c n v, if op = .clear then vecDoneGate s.c n else .go]) (s.csrPut s.cur n v m)

/-- Registers whose reads are external values (spec/19_debug.md R454). -/
def csrLogged (n : Nat) : Bool :=
  decide (n = 0) || decide (n = 5) || decide (n = 0x22) || decide (n = 0x32) || decide (0x100 ≤ n)

/-- `csrr` (spec/15_system.md R347); DTIME and FLOOR are timer reads (spec/11_tasks.md R272). -/
def execCsrr (rd : BitVec 5) (csr : BitVec 11) (s : State) : Host.Outcome State Fault Refusal :=
  let n := csr.toNat
  let v := s.csr s.cur n
  perform s (checked s [destGate s.c rd, vecDoneGate s.c n]
    (if n = 0x20 ∨ n = 0x21 then
      s.modC fun c => { c.setEmptyKey (c.destKey rd) with timers := c.timers ++ [⟨c.destKey rd, decide (n = 0x21), c.ctx.instret.toNat⟩] }
    else
      let s' := s.modC fun c => c.setX rd v
      if csrLogged n then s'.logExt s.cur 4 n (v.setWidth 1024) else s'))
/-- `csrw`. -/
def execCsrw (csr : BitVec 11) (sa : Src) (s : State) : Host.Outcome State Fault Refusal := perform s (s.csrWriteAns .write csr sa)
/-- `csrs`. -/
def execCsrs (csr : BitVec 11) (sa : Src) (s : State) : Host.Outcome State Fault Refusal := perform s (s.csrWriteAns .set csr sa)
/-- `csrc`. -/
def execCsrc (csr : BitVec 11) (sa : Src) (s : State) : Host.Outcome State Fault Refusal := perform s (s.csrWriteAns .clear csr sa)

/-- The oldest timer read of a core is filled with the value as it stands (spec/11_tasks.md R272). -/
def State.fillTimer (s : State) (k : Nat) : State :=
  match (s.core k).timers with
  | [] => s
  | t :: rest =>
    let v := s.csr k (if t.floor then 0x21 else 0x20)
    (s.modCore k fun c => { c.putKey t.key ⟨v, true⟩ with timers := rest }).logAt k t.at_ 4 (if t.floor then 0x21 else 0x20) (v.setWidth 1024)

end Sys2Proof.Machine
end

