-- ==== Sys2Proof/Machine/System.lean ====
section
/-! DEFINITION. System instructions: `trap`, `eret`, `ebreak`, `ppt`, `nop` and the words that are no instruction (spec/15_system.md R354 to R366,
spec/03_formats.md R59, R61); holding a core at a breakpoint (spec/19_debug.md R452). -/

namespace Sys2Proof.Machine

/-- `trap` (spec/15_system.md R357). -/
def execTrap (sa : Src) (s : State) : Host.Outcome State Fault Refusal :=
  perform s (checkedThen s (srcGates s.c (src1 sa)) fun _ => .trap 18 (s.c.x sa.n) s)

/-- `eret` (spec/15_system.md R356). -/
def execEret (s : State) : Host.Outcome State Fault Refusal := perform s s.trapReturn

/-- A core of a held job stops at the boundary before an instruction, with a STOP record of a code (spec/19_debug.md R452). -/
def State.holdCore (s : State) (k code : Nat) : State :=
  let s := s.modCore k fun c => { c with held := some code, heldSince := s.cycles, stepping := false, resumeAt := none }
  s.trace k 6 code (s.core k).ctx.instret.toNat

/-- A held core's job is asked to stop (spec/19_debug.md R452). -/
def State.stopJob (s : State) (job : Nat) : State := s.modJob job fun j => { j with stopReq := true }

/-- Whether the job of the running activation is held by a debugger. -/
def State.jobHeld (s : State) (k : Nat) : Bool := (s.job (s.core k).jobNum).hold

/-- The boundary at which a core stands. -/
def Core.boundary (c : Core) : BitVec 32 × XWord × Nat := (c.pc, c.ctx.instret, c.ctx.depth)

/-- Whether the core executes the instruction at which it was held. Log: DEDUCED, notes/assumptions/80.md. -/
def Core.noMatch (c : Core) : Bool := decide (c.resumeAt = some c.boundary)

/-- `ebreak` (spec/15_system.md R354, R357): while a debugger holds the job's breakpoints it stops the core, whenever it is executed. -/
def execEbreak (s : State) : Host.Outcome State Fault Refusal :=
  perform s (if s.jobHeld s.cur then .put ((s.holdCore s.cur 17).stopJob s.c.jobNum) else .trap 16 0 s)

/-- `ppt` (spec/15_system.md R366): DIST restarts; with a request standing it is a pre-emption point. -/
def execPpt (s : State) : Host.Outcome State Fault Refusal :=
  let stands := s.preqStands s.cur
  perform s (.done (s.modC fun c => { c with ctx := { c.ctx with distBase := s.cycles }, preempting := c.preempting || stands }))

/-- The hint words do nothing (spec/03_formats.md R59). -/
def execNop (s : State) : Host.Outcome State Fault Refusal := perform s (.done s)

/-- A word that is no instruction (spec/03_formats.md R61). -/
def execIllegalInstruction (w : Word) (s : State) : Host.Outcome State Fault Refusal := perform s (.trap 1 (w.setWidth 64) s)

end Sys2Proof.Machine
end

