-- ==== Sys2Proof/Machine/Allot.lean ====
section
/-! DEFINITION. The allotment instructions (spec/05_windows.md R99, R103 to R113) and the events of the spill engine and of the carve-out
(R97, R105). -/

namespace Sys2Proof.Machine

/-- The defined fields of a carve-out word. -/
def carveMask : XWord := 0x7F01F7

/-- `allot.set` (spec/05_windows.md R104). Log: DEDUCED, notes/assumptions/37.md. -/
def execAllotSet (sa : Src) (n : BitVec 4) (s : State) : Host.Outcome State Fault Refusal :=
  let w := s.c.x sa.n
  perform s (checked s
    (srcGates s.c (src1 sa) ++ [trapIf (!(Carve.ofWord w).ok) 2 (3 * 2 ^ 60 + (w &&& carveMask))])
    (s.modCluster (coreCluster s.cur) fun g => { g with pendCarve := some (Carve.ofWord w, n.toNat) }))

/-- An instruction that takes `m` window slots waits for spills, or raises the stack fault before the first of them where one will not fit
(spec/05_windows.md R99, R113). -/
def State.slotGate (s : State) (m : Nat) : Gate :=
  let c := s.c
  if 0 ≤ c.freeSlots - m then .go
  else if !c.spillsFit m then .trap 11 c.imageOut
  else if c.eng = .idle ∧ c.ctx.spilled < c.ctx.depth then .waitWith (s.setC { c with eng := .spilling })
  else .wait

/-- Registers that enter the allotment read zero and full (spec/05_windows.md R108). -/
def Core.zeroV (c : Core) (v n : Nat) : Core := (List.range n).foldl (fun c i => c.setV (v + i) 0) c

/-- `allot.grow` (spec/05_windows.md R111). -/
def execAllotGrow (n : BitVec 3) (s : State) : Host.Outcome State Fault Refusal :=
  let m := 8 * n.toNat
  let v := s.c.ctx.allotV
  perform s (checked s [trapIf (decide (32 < v + m)) 2 (BitVec.ofNat 64 (2 ^ 60 + m)), s.slotGate m]
    (s.modC fun c => (c.zeroV v m).modCtx fun x => { x with allotV := v + m }))

/-- Whether a queued or outstanding command names a vector register from `v` up. -/
def Core.namesFrom (c : Core) (v : Nat) : Bool :=
  (c.vq.any fun w => w.regs.any fun n => decide (v ≤ n.toNat)) || c.out.any fun a => match a.dest with | .v n _ => decide (v ≤ n) | _ => false

/-- `allot.shrink` (spec/05_windows.md R111). -/
def execAllotShrink (n : BitVec 3) (s : State) : Host.Outcome State Fault Refusal :=
  let m := 8 * n.toNat
  let v := s.c.ctx.allotV
  perform s (checked s [trapIf (decide (v < m)) 2 (BitVec.ofNat 64 (2 ^ 61 + m)), waitUntil (!s.c.namesFrom (v - m))]
    (s.modC fun c => c.modCtx fun x => { x with allotV := v - m, mirror := x.mirror &&& BitVec.ofNat 32 (2 ^ (v - m) - 1) }))

/-- `allot.mirror` (spec/05_windows.md R112). -/
def execAllotMirror (vb : BitVec 5) (s : State) : Host.Outcome State Fault Refusal :=
  let done := s.c.ctx.mirror.getLsbD vb.toNat
  perform s (checked s
    (allotGates s.c [(vb, 1)] ++
      if done then [] else vfullGate s.c [vb] :: veccGates s.c [vb] ++ [s.slotGate 1])
    (s.modC fun c => c.modCtx fun x => { x with mirror := x.mirror ||| (1 <<< vb.toNat) }))

/-- The word `allot.query` writes (spec/05_windows.md R106). -/
def State.queryWord (s : State) : XWord :=
  match (s.cluster (coreCluster s.cur)).pendCarve with
  | some (v, n) => v.word + BitVec.ofNat 64 (2 ^ 63 + n * 2 ^ 24)
  | none => s.c.carve.word

/-- `allot.query`. -/
def execAllotQuery (rd : BitVec 5) (s : State) : Host.Outcome State Fault Refusal := perform s (s.regAns [] rd s.queryWord)

/-! The spill engine (spec/05_windows.md R97). -/

/-- Registers x8 to x23 of a frame. -/
def frameKeys (f : Nat) : List Nat := (List.range 16).map fun i => 16 * f + 8 + i

/-- Whether all 16 registers of a frame's slot are full. -/
def Core.frameFull (c : Core) (f : Nat) : Bool := (frameKeys f).all fun n => (c.regAt n).full

/-- The bytes of a spill image. -/
def Core.image (c : Core) (f : Nat) : List Byte := (frameKeys f).flatMap fun n => leBytes 8 (c.regAt n).val.toNat

/-- Whether the spill engine of a core may move data: a spill's slot is full, and every earlier access has returned good. -/
def Core.spillReady (c : Core) : Bool :=
  c.out.isEmpty && match c.eng with
    | .idle => false
    | .spilling => decide (c.ctx.spilled < c.ctx.depth) && c.frameFull c.ctx.spilled
    | .filling => decide (0 < c.ctx.spilled)

/-- SPILL: frame O goes to its image, whose line ends up full, and its slot is freed; another spill starts while no slot is free, or a fill where
only the running frame is left. Log: DESIGN CHOICE, notes/assumptions/90.md. -/
def State.spillStep (s : State) (k : Nat) : State :=
  let c := s.core k
  if c.eng = .spilling ∧ c.spillReady then
    let o := c.ctx.spilled
    let l := c.ctx.spillBase.toNat + o
    let s := s.storeList (placePad k (128 * l)) (c.image o)
    s.modCore k fun c =>
      let c := c.markFull l
      let c : Core := { c with eng := .idle, xs := (frameKeys o).foldl (fun m n => Map.del m n) c.xs }
      ((c.modCtx fun x => { x with spilled := o + 1 }).startSpill).startFill
  else s

/-- `SPILL`. -/
def execSpill (k : Nat) (s : State) : Host.Outcome State Fault Refusal := .next (s.spillStep k)

/-- FILL: frame O − 1 comes back from its image as it stands; a spill that a call asked for meanwhile starts. -/
def State.fillStep (s : State) (k : Nat) : State :=
  let c := s.core k
  if c.eng = .filling ∧ c.spillReady then
    let o := c.ctx.spilled - 1
    let l := c.ctx.spillBase.toNat + o
    let regs := (frameKeys o).zipIdx.map fun p => (p.1, BitVec.ofNat 64 (s.load (placePad k (128 * l) + 8 * p.2) 8))
    s.modCore k fun c =>
      let c : Core := regs.foldl (fun c r => c.putKey r.1 ⟨r.2, true⟩) { c with eng := .idle }
      ((c.modCtx fun x => { x with spilled := o }).startFill).startSpill
  else s

/-- `FILL`. -/
def execFill (k : Nat) (s : State) : Host.Outcome State Fault Refusal := .next (s.fillStep k)

/-! The carve-out (spec/05_windows.md R105). -/

/-- A phase of barrier `n` of a cluster completes: the pending carve-out of that barrier is accepted for its eight cores. Log: DESIGN CHOICE,
notes/assumptions/108.md. -/
def State.acceptCarve (s : State) (g n : Nat) : State :=
  match (s.cluster g).pendCarve with
  | some (v, b) =>
    if b = n then
      (List.range 8).foldl (fun s i => s.modCore (clusterCore g i) fun c => { c with accepted := some v })
        (s.modCluster g fun x => { x with pendCarve := none })
    else s
  | none => s

/-- Lines that enter the scratchpad read zero and full; those that leave it are gone. -/
def State.carveLines (s : State) (k old new : Nat) : State :=
  if old < new then (s.zero (placePad k old) (new - old)).modCore k fun c => { c with empty := c.empty.filter fun l => decide (128 * l < old) }
  else (s.zero (placePad k new) (old - new)).modCore k fun c => { c with empty := c.empty.filter fun l => decide (128 * l < new) }

/-- CARVE_OUT_APPLY (spec/05_windows.md R105): between activations, with nothing pre-empted, the core takes its accepted carve-out: the L1
writes back and is invalidated, actors on leaving lines retire, then the partitions change. An actor that has work left is retired when it becomes
idle, and the core goes on starting work until then (log: DESIGN CHOICE, notes/assumptions/91.md). -/
def State.carveApply (s : State) (k : Nat) : State :=
  let c := s.core k
  match c.accepted with
  | none => s
  | some v =>
    if c.act.isSome || c.finish.isSome || c.saving || !c.saved.isEmpty then s
    else if !c.l1.isEmpty then s.dropLines k fun _ => true
    else if c.posted.any fun p => decide (p.kind = 3) then s
    else
      match s.curdsBeyond k v.spsize with
      | [] =>
        (s.carveLines k c.spsize v.spsize).modCore k fun c => { c with carve := v, accepted := none }
      | es => es.foldl (fun s e =>
          if e.2.idle then s.startRetire e.1 e.2.id none
          else if e.2.st = .live then s.modEntry e.1 e.2.id fun y => { y with retq := true }
          else s) s

/-- `CARVE_OUT_APPLY`. -/
def execCarveOutApply (k : Nat) (s : State) : Host.Outcome State Fault Refusal := .next (s.carveApply k)

end Sys2Proof.Machine
end

