-- ==== Sys2Proof/Machine/Runs.lean ====
section
/-! DEFINITION. Loads and stores of vector registers: the lanes of a run as bits of memory lines (spec/07_views.md R169, spec/13_vector.md R310,
R311). -/

namespace Sys2Proof.Machine

/-- Bits of memory a lane holds: the address that is checked and the bytes it is checked for, the first bit within the byte at that address,
the width, the place in the register. -/
structure Lane where
  va : XWord
  n : Nat
  bit : Nat
  width : Nat
  dst : Nat
  deriving DecidableEq, Repr, Inhabited

/-- The bits of a lane that lie in one line: the line's target and its address, the first bit in the line, the width, the place in the
register. -/
structure Slice where
  t : Tgt
  va : XWord
  src : Nat
  width : Nat
  dst : Nat
  deriving DecidableEq, Repr, Inhabited

/-- Whether a narrow lane reaches into a second byte. -/
def Lane.straddles (l : Lane) : Bool := decide (l.width < 8) && decide (8 < l.bit + l.width)

/-- The checks of a lane: its address, and the byte after it where it reaches that far. Log: DEDUCED, notes/assumptions/61.md. -/
def State.laneChecks (s : State) (k : Nat) (l : Lane) : List Gate :=
  s.checkGate k l.va l.n .read :: if l.straddles then [s.checkGate k (l.va + 1) 1 .read] else []

/-- The slices of a lane: one, or two where a narrow lane crosses a byte boundary. Log: DEDUCED, notes/assumptions/60.md; DEDUCED,
notes/assumptions/61.md. -/
def State.laneSlices (s : State) (k : Nat) (l : Lane) : List Slice :=
  let t := s.target k l.va l.n .read
  let one (t : Tgt) (va : XWord) (bit width dst : Nat) : Slice := ⟨t, va, 8 * (t.place % 128) + bit, width, dst⟩
  if l.straddles then
    [one t l.va l.bit (8 - l.bit) l.dst,
     one (s.target k (l.va + 1) 1 .read) (l.va + 1) 0 (l.bit + l.width - 8) (l.dst + (8 - l.bit))]
  else [one t l.va l.bit l.width l.dst]

/-- The lines of some slices, each once, with what is at hand: the L1's copy, or the own scratchpad's line as it stands. -/
def State.runParts (s : State) (k : Nat) (sl : List Slice) (ownNow : Bool) : List Part :=
  sl.foldl (fun (ps : List Part) x =>
    let line := lineOf x.t.place
    if ps.any fun p => decide (p.line = line) then ps
    else
      let own := decide (x.t.region = .own)
      let got : Option (BitVec 1024) :=
        if own then (if ownNow then some (s.line line) else none) else ((s.core k).l1Find line).map (·.data)
      ps ++ [{ line := line, ep := x.t.ep, own := own, got := got }]) []

/-- The pieces of a reply: each slice from its line. -/
def runPieces (ps : List Part) (sl : List Slice) : List Piece :=
  sl.map fun x => ⟨ps.findIdx fun p => decide (p.line = lineOf x.t.place), x.src, x.width, x.dst⟩

/-- A read of failing storage nearby: the own scratchpad or the L1. -/
def State.sliceEcc (s : State) (x : Slice) : Gate :=
  if x.t.region = .own then s.padEccGate x.va
  else if (s.c.l1Find (lineOf x.t.place)).isSome then s.l1EccGate (lineOf x.t.place) x.va
  else .go

/-- What a load of a run logs and touches nearby. -/
def State.touchRun (s : State) (sl : List Slice) : State :=
  sl.foldl (fun (s : State) x =>
    if x.t.region = .own then s.logLine s.cur (x.va.toNat / 128)
    else (s.modC fun c => c.l1Touch (lineOf x.t.place)).tlbTouch s.cur x.t.page x.t.size) s

/-- A load of a run into `vd` after its sources are read; `keep` are the register's bits that stay. Log: DEDUCED, notes/assumptions/61.md; DESIGN
CHOICE, notes/assumptions/125.md. -/
def State.runLoad (s : State) (pre : List Gate) (ls : List Lane) (keep : VWord) (vd : BitVec 5) (sp : Span) (q : Nat) : Ans :=
  let k := s.cur
  let c := s.c
  checkedThen s (pre ++ (ls.flatMap (s.laneChecks k)) ++ [vfullGate c [vd], s.meetGate sp]) fun _ =>
    let sl := ls.flatMap (s.laneSlices k)
    let allOwn := sl.all fun x => decide (x.t.region = .own)
    let ps := s.runParts k sl allOwn
    let acc : Access :=
      { id := 0, dest := .v vd.toNat keep, parts := ps, pieces := runPieces ps sl, oldV := c.v vd.toNat, va := (ls.headD default).va, lo := sp.lo
        hi := sp.hi, view := sp.view, vq := q }
    checkedThen s
        ([waitUntil (!allOwn || ps.all fun p => c.lineFull (padOff p.line)), waitUntil (allOwn || decide (c.out.length < 16)),
          waitUntil (ps.all fun p => p.own || p.got.isSome || !c.backing p.line)] ++ sl.map s.sliceEcc) fun _ =>
      let s1 := s.touchRun sl
      if ps.all fun p => p.got.isSome then
        let v := acc.assemble
        let s2 := if allOwn then s1 else s1.logExt k 1 acc.va.toNat (BitVec.ofNat 1024 v)
        .done (s2.modC fun c => c.fillDest acc.dest v)
      else .done ((s1.startAccess acc).modC fun c => c.putV vd.toNat { c.v vd.toNat with full := false })

/-- One line of a store of a run: its target, the bytes written and their values, and the address of the first. -/
structure Bundle where
  t : Tgt
  mask : BitVec 128
  data : BitVec 1024
  va : XWord
  deriving DecidableEq, Repr, Inhabited

/-- Bytes to be stored, gathered by line in the order of their first byte; of two values for one byte the later stands. Log: DEDUCED,
notes/assumptions/25.md. -/
def State.bundles (s : State) (k : Nat) (ws : List (XWord × Nat × Nat)) : List Bundle :=
  ws.foldl (fun (bs : List Bundle) w =>
    let t := s.target k w.1 w.2.1 .write
    let off := t.place % 128
    let mask := byteMask off w.2.1
    let data := BitVec.ofNat 1024 (w.2.2 % 2 ^ (8 * w.2.1) * 2 ^ (8 * off))
    if bs.any fun b => decide (lineOf b.t.place = lineOf t.place) then
      bs.map fun b => if lineOf b.t.place = lineOf t.place then { b with mask := b.mask ||| mask, data := mergeLine b.data data mask } else b
    else bs ++ [⟨t, mask, data, w.1⟩]) []

/-- The posted operation of a line of a store of a run. -/
def Bundle.posted (b : Bundle) (sp : Span) (q : Nat) : Posted :=
  { va := b.va, line := lineOf b.t.place, mask := b.mask, data := b.data, lo := sp.lo, hi := sp.hi, view := sp.view, vq := q, ep := b.t.ep }

/-- A store of a run from `vd` after its sources are read: each write is an address, its bytes and their value. What goes to the own scratchpad or the
L1 is stored, and the other lines are posted one by one as they find room. Log: DEDUCED, notes/assumptions/25.md; DEDUCED, notes/assumptions/60.md. -/
def State.runStore (s : State) (pre : List Gate) (ws : List (XWord × Nat × Nat)) (vd : BitVec 5) (sp : Span) (q : Nat) : Ans :=
  let k := s.cur
  let c := s.c
  checkedThen s (pre ++ (ws.map fun w => s.checkGate k w.1 w.2.1 .write) ++ [vfullGate c [vd]] ++ veccGates c [vd]
      ++ [s.meetGate sp, goodGate c]) fun _ =>
    let bs := s.bundles k ws
    let near := bs.filter fun b => !s.posts b.t
    let out := bs.filter fun b => s.posts b.t
    let first := match out with | [] => .go | b :: _ => s.postGate (popCount b.mask.toNat 128)
    checkedThen s [s.dirtyGate sp (bs.map fun b => lineOf b.t.place), waitUntil (bs.all fun b => decide (b.t.region = .own) || !c.backing (lineOf b.t.place)),
                   first] fun _ =>
      let s1 := bs.foldl (fun (s : State) b => s.tlbTouch k b.t.page b.t.size) s
      let s2 := near.foldl (fun (s : State) b => s.storeLine b.t (lineOf b.t.place) b.mask b.data b.va sp q) s1
      (s2.modC fun c => { c with storing := out.map fun b => b.posted sp q }).postMore

end Sys2Proof.Machine
end

