-- ==== Sys2Proof/Machine/Views.lean ====
section
/-! DEFINITION. The view instructions: set-up, the live-view directory, runs of elements, verdicts and retirement (spec/07_views.md R158 to
R172). -/

namespace Sys2Proof.Machine

/-- The view fault when a condition holds (spec/07_views.md R171). -/
def viewIf (b : Bool) (reason : Nat) (q : BitVec 4) : Gate := trapIf b 9 (viewTval reason q.toNat)

/-- Whether a view permits writes. -/
def View.canWrite (v : View) : Bool := v.perm.getLsbD 1
/-- Whether a view permits reads. -/
def View.canRead (v : View) : Bool := v.perm.getLsbD 0

/-- Whether a base is misaligned for a type code. -/
def baseMisaligned (ty : BitVec 5) (a : XWord) : Bool :=
  let eb := typeBits ty.toNat
  decide (8 ≤ eb) && decide (a.toNat % (eb / 8) ≠ 0)

/-! The live-view directory (spec/07_views.md R160 to R162). -/

/-- The live views of a core's activations of a job, a pre-empted one's included. -/
def Core.liveViews (c : Core) (job : Nat) : List View :=
  ((match c.act with | some a => if a.job = job then c.ctx.views.map (·.2) else [] | none => [])
    ++ (c.saved.filter fun x => decide (x.act.job = job)).flatMap fun x => x.ctx.views.map (·.2)).filter (·.live)

/-- The cores of the cluster, of the same job, that hold a live write-permitted view which meets a new geometry. -/
def State.blockers (s : State) (k : Nat) (v : View) : List Nat :=
  ((List.range 8).map (clusterCore (coreCluster k))).filter fun j =>
    decide (j ≠ k) && ((s.core j).liveViews (s.core k).jobNum).any fun w =>
      w.canWrite && decide ((v.toSpan k true).verdict (w.toSpan j true) = 3)

/-- Whether waiting on some cores is waiting on core `k`: through the `enter` operations that those cores wait at. -/
def State.waitsOn (s : State) (k : Nat) (js : List Nat) : Nat → Bool
  | 0 => false
  | fuel + 1 => js.any fun j => decide (j = k) ||
      match (s.core j).enterWait with
      | some w => s.waitsOn k (s.blockers j w.view) fuel
      | none => false

/-- `enter` of a view's new geometry (spec/07_views.md R160). `s0` is the state before the instruction, `s1` that in which the old view has been
retired. -/
def State.enterAns (s0 s1 : State) (q : BitVec 4) (v : View) : Ans :=
  let k := s0.cur
  let v : View := { v with live := true }
  let bs := s1.blockers k v
  if v.canWrite && !bs.isEmpty then
    if s0.c.enterWait.isSome then .wait s0
    else if s1.waitsOn k bs 8 then .trap 9 (viewTval 6 q.toNat) s0
    else if s0.logFull s1 then .put s0.countLogStall
    else
      let c : Core := s0.c.logEntry s1.c s0.nextId
      .put (s1.setC { c with enterWait := some ⟨q.toNat, v⟩ })
  else .done (s1.modC fun c => { (c.setView q.toNat v) with enterWait := none })

/-! Retirement (spec/07_views.md R172). -/

/-- Whether a command's snapshot was taken of view `q` and is still used. -/
def MCmd.names (m : MCmd) (q : Nat) : Bool :=
  !m.performed && (decide (m.aq = q) || decide (m.bq = q) || (m.ac.live && decide (m.a.scv.toNat = q)) || (m.bc.live && decide (m.b.scv.toNat = q)))

/-- Whether every access through view `q` of the running activation is performed. -/
def Core.viewQuiet (c : Core) (q : Nat) : Bool :=
  (c.out.all fun a => decide (a.vq ≠ q))
    && (c.posted.all fun p => !(decide (p.act = c.uid) && decide (p.vq = q)))
    && (c.copies.all fun x => x.ended || !(decide (x.act = c.uid) && ((decide (x.src.vq = q) && !x.readAll) || decide (x.dst.vq = q))))
    && (c.mq.all fun m => !(decide (m.act = c.uid) && m.names q))

/-- The L1 lines within a view's hull. -/
def State.inHull (s : State) (v : View) (x : L1Line) : Bool :=
  let h := v.hull
  decide (0 ≤ h.2) && s.inL1Range h.1.toNat (h.2.toNat + 1 - h.1.toNat) x

/-- Whether a write-back of a line within a view's hull is on its way. -/
def State.hullBacking (s : State) (v : View) : Bool :=
  s.c.posted.any fun p => decide (p.kind = 3) && s.inHull v { line := p.line, data := 0 }

/-- The waits of a retirement: at SCOPE core those stores through the view whose lines have left the L1 are awaited. -/
def State.retireGates (s : State) (q : BitVec 4) : List Gate :=
  let v := s.c.view q.toNat
  [ waitUntil (s.c.viewQuiet q.toNat),
    if v.scope = 0 then waitUntil (!s.hullBacking v)
    else if s.c.l1.any fun x => s.inHull v x && decide (x.dirty ≠ 0) then .waitWith (s.writeBackIf s.cur (s.inHull v))
    else waitUntil (!s.c.posted.any fun p => decide (p.kind = 3)) ]

/-- The view leaves the directory; its other fields are kept. -/
def Core.retireView (c : Core) (q : BitVec 4) : Core := c.setView q.toNat { c.view q.toNat with live := false }

/-- The lowest live view of a core (spec/07_views.md R162). -/
def Core.lowestLive (c : Core) : Option Nat := (List.range 16).find? fun q => (c.view q).live

/-! Set-up (spec/07_views.md R159). -/

/-- The view `vw.set` makes of a base and a header word. -/
def setView (a h : XWord) : View :=
  { live := true, base := a, ty := h.extractLsb' 0 5, perm := h.extractLsb' 6 2, rankm1 := h.extractLsb' 8 2, scope := h.extractLsb' 20 3
    d0 := ⟨1, 0, 1⟩, d1 := ⟨0, 0, 1⟩, d2 := ⟨0, 0, 1⟩, d3 := ⟨0, 0, 1⟩ }

/-- `vw.set`. -/
def execVwSet (q : BitVec 4) (sa sb : Src) (s : State) : Host.Outcome State Fault Refusal :=
  let a := s.c.x sa.n
  let h := s.c.x sb.n
  let v := setView a h
  let live := (s.c.view q.toNat).live
  perform s (checkedThen s
    (srcGates s.c (src2 sa sb) ++
      [viewIf (decide (v.perm = 0) || decide (18 ≤ v.ty.toNat) || decide (5 ≤ v.scope.toNat) || baseMisaligned v.ty a) 4 q]
      ++ if live then s.retireGates q else []) fun _ =>
    s.enterAns (if live then s.modC fun c => c.retireView q else s) q v)

/-- `vw.dim`. -/
def execVwDim (q : BitVec 4) (n : BitVec 2) (sa sb : Src) (s : State) : Host.Outcome State Fault Refusal :=
  let w := s.c.x sa.n
  let v := s.c.view q.toNat
  perform s (checkedThen s
    (srcGates s.c (src2 sa sb) ++
      [viewIf (!v.live) 1 q, viewIf (decide (v.rankm1 < n) || decide (w.setWidth 16 = 0)) 4 q]) fun _ =>
    s.enterAns s q (v.setDim n.toNat ⟨(s.c.x sb.n).setWidth 32, w.extractLsb' 16 16, w.setWidth 16⟩))

/-- `vw.fmt`. -/
def execVwFmt (q : BitVec 4) (sa : Src) (s : State) : Host.Outcome State Fault Refusal :=
  let h := s.c.x sa.n
  let v := s.c.view q.toNat
  let ty : BitVec 5 := h.extractLsb' 0 5
  perform s (checkedThen s
    (srcGates s.c (src1 sa) ++ [viewIf (!v.live) 1 q, viewIf (decide (18 ≤ ty.toNat) || baseMisaligned ty v.base) 4 q]) fun _ =>
    s.enterAns s q { v with ty := ty, scv := h.extractLsb' 12 4, sce := h.getLsbD 16, kdim := h.extractLsb' 17 2 })

/-! Reading (spec/07_views.md R168). -/

/-- The word `n` of a view. -/
def View.wordOf (v : View) (n : Nat) : XWord := if n = 0 then v.base else if n = 1 then v.header else (v.dim (n - 2)).word

/-- `vw.get`. -/
def execVwGet (rd : BitVec 5) (q : BitVec 4) (n : BitVec 3) (s : State) : Host.Outcome State Fault Refusal :=
  perform s (s.regAns [] rd ((s.c.view q.toNat).wordOf n.toNat))

/-- The verdict of two views of a core, 0 where one is not live. -/
def State.meetVerdict (s : State) (k : Nat) (qa qb : BitVec 4) : XWord :=
  let a := (s.core k).view qa.toNat
  let b := (s.core k).view qb.toNat
  if a.live && b.live then BitVec.ofNat 64 ((a.toSpan k true).verdict (b.toSpan k true)) else 0

/-- `vw.meet`. -/
def execVwMeet (rd : BitVec 5) (qa qb : BitVec 4) (s : State) : Host.Outcome State Fault Refusal :=
  perform s (s.regAns [] rd (s.meetVerdict s.cur qa qb))

/-! Runs (spec/07_views.md R169). -/

/-- The index a position word gives, lane `l` on. -/
def posIndex (p : XWord) (l : Nat) : Nat → Nat := fun k => (p.extractLsb' (16 * k) 16).toNat + (if k = 0 then l else 0)

/-- Lanes of a run that take part. -/
def View.runLanes (v : View) (p : XWord) : Nat := min (min 128 (1024 / v.eb)) (v.d0.extent.toNat - posIndex p 0 0)

/-- The byte address of a bit address, truncated to 64 bits. -/
def byteAddr (bita : Int) : XWord := BitVec.ofInt 64 (bita / 8)

/-- The lanes of a run. -/
def View.lanes (v : View) (p : XWord) : List Lane :=
  (List.range (v.runLanes p)).map fun l =>
    let b := v.bitAddr (posIndex p l)
    ⟨byteAddr b, max 1 (v.eb / 8), (b % 8).toNat, v.eb, v.eb * l⟩

/-- The checks of a run before its memory checks. -/
def State.runGates (s : State) (vd : BitVec 5) (q : BitVec 4) (sb : Src) (write : Bool) : List Gate :=
  let v := s.c.view q.toNat
  let p := s.c.x sb.n
  let inside := v.inside (posIndex p 0)
  let dim := v.outsideDim (posIndex p 0)
  allotGates s.c [(vd, 2)] ++ srcGates s.c [(sb, 1)] ++
    [viewIf (!v.live) 1 q, viewIf (!(if write then v.canWrite else v.canRead)) 2 q,
     trapIf (!inside) 9 (viewTval 3 q.toNat dim (posIndex p 0 dim))]

/-- `vw.ld`. -/
def execVwLd (vd : BitVec 5) (q : BitVec 4) (sb : Src) (s : State) : Host.Outcome State Fault Refusal :=
  let v := s.c.view q.toNat
  perform s (s.runLoad (s.runGates vd q sb false) (v.lanes (s.c.x sb.n)) 0 vd (v.toSpan s.cur false) q.toNat)

/-- What a run stores: whole lanes, or the bytes of a narrow run. -/
def View.writes (v : View) (p : XWord) (d : VWord) : List (XWord × Nat × Nat) :=
  let m := v.runLanes p
  if v.eb < 8 then
    let b := byteAddr (v.bitAddr (posIndex p 0))
    (List.range (m * v.eb / 8)).map fun j => (b + BitVec.ofNat 64 j, 1, (lineByte d j).toNat)
  else (v.lanes p).map fun l => (l.va, l.n, d.toNat / 2 ^ l.dst % 2 ^ l.width)

/-- Whether a narrow run does not cover whole bytes. -/
def View.ragged (v : View) (p : XWord) : Bool :=
  let b := v.bitAddr (posIndex p 0)
  decide (v.eb < 8) && (decide (v.d0.stride ≠ 1) || decide (b % 8 ≠ 0) || decide ((b + v.eb * v.runLanes p) % 8 ≠ 0))

/-- `vw.st`. -/
def execVwSt (vd : BitVec 5) (q : BitVec 4) (sb : Src) (s : State) : Host.Outcome State Fault Refusal :=
  let v := s.c.view q.toNat
  let p := s.c.x sb.n
  perform s (s.runStore (s.runGates vd q sb true ++ [viewIf (v.ragged p) 7 q]) (v.writes p (s.c.v vd.toNat).val) vd (v.toSpan s.cur true) q.toNat)

/-- `vw.ret`. -/
def execVwRet (q : BitVec 4) (s : State) : Host.Outcome State Fault Refusal :=
  perform s (checked s (viewIf (!(s.c.view q.toNat).live) 1 q :: s.retireGates q) (s.modC fun c => c.retireView q))

end Sys2Proof.Machine
end

