-- ==== Sys2Proof/Machine/Messages.lean ====
section
/-! DEFINITION. The message instructions (spec/09_messages.md R199 to R213): send blocks, the sends and their variants, forwarding, and the end of
an activation. -/

namespace Sys2Proof.Machine

/-! Reading the own scratchpad (spec/09_messages.md R199, R202). -/

/-- A doubleword of the own scratchpad. -/
def State.padDw (s : State) (a : Nat) : XWord := BitVec.ofNat 64 (s.load (placePad s.cur a) 8)

/-- The lines of `n` bytes at `a`. -/
def padLines (a n : Nat) : List Nat := if n = 0 then [] else (List.range ((a + n - 1) / 128 + 1 - a / 128)).map (a / 128 + ·)

/-- The waits for full lines of a read of the own scratchpad, and the trap of failing storage. -/
def State.padGates (s : State) (a n : Nat) : List Gate :=
  waitUntil ((padLines a n).all fun l => s.c.lineFull (128 * l)) :: (padLines a n).map fun l => s.padEccGate (BitVec.ofNat 64 (max a (128 * l)))

/-- Whether `n` bytes at `a` leave the own scratchpad. -/
def State.padOut (s : State) (a n : Nat) : Bool := decide (0x60000 ≤ a) || decide (s.c.spsize < a + n)

/-- The first reads of lines, for a captured activation. -/
def State.logPad (s : State) (a n : Nat) : State := (padLines a n).foldl (fun s l => s.logLine s.cur l) s

/-! The message fault (spec/09_messages.md R215). -/

/-- The message fault when a condition holds: its reason, and its further TVAL bits. -/
def msgIf (b : Bool) (reason : Nat) (low : Nat := 0) : Gate := trapIf b 19 (BitVec.ofNat 64 (reason * 2 ^ 60 + low))

/-- LEN of a control word (spec/09_messages.md R200). -/
def ctlLen (w : XWord) : Nat := (w.extractLsb' 18 8).toNat
/-- SEL. -/
def ctlSel (w : XWord) : BitVec 6 := w.extractLsb' 12 6
/-- CLASS. -/
def ctlClass (w : XWord) : BitVec 12 := w.extractLsb' 0 12

/-- The class and handler checks: reasons 1 and 3 carry SEL and CLASS. Log: DEDUCED, notes/assumptions/62.md. -/
def State.classGates (s : State) (job : Nat) (cls : BitVec 12) (sel : BitVec 6) : List Gate :=
  let low := sel.toNat * 4096 + cls.toNat
  [msgIf (!s.reachable job cls) 1 low, msgIf (s.handler cls sel).isNone 3 low]

/-- The translation of one key of class 0 (spec/10_actors.md R227). -/
def State.keyGate (s : State) (cls : BitVec 12) (key : XWord) : Gate :=
  if cls ≠ 0 then .go
  else match s.addr0 s.cur key with
    | .ok _ _ => .go
    | .reason8 => msgIf true 8 (key.toNat % 2 ^ 48)
    | .page v => .trap 6 v
    | .miss => .waitWith (s.startWalk s.cur s.c.jobNum key.toNat (.core s.cur (accTval key .read 0)))

/-- The physical address and home a class 0 key translates to. -/
def State.keyPa (s : State) (cls : BitVec 12) (key : XWord) : Option Nat :=
  if cls ≠ 0 then none
  else match s.addr0 s.cur key with
    | .ok pa home => some (paHome pa home)
    | _ => none

/-- A send waits for the good return of every access, releases at device scope and waits for retain room (spec/09_messages.md R202). -/
def State.sendGates (s : State) (len : Nat) : List Gate :=
  [goodGate s.c, s.releaseGate 3,
   s.retainGate len]

/-- The wait behind an earlier message of the pair that is to be sent again (spec/09_messages.md R223). -/
def State.pairGate (s : State) (m : Msg) : Gate := waitUntil (!s.resendAhead s.cur m)

/-- A message of the running activation, before its key. -/
def Act.message (a : Act) (k : Nat) (x : Ctx) (cls : BitVec 12) (sel : BitVec 6) (flags : BitVec 3) (payload : List Byte) : Msg :=
  Msg.signed { stamp := stampOut a.desc x, len := payload.length, flags := flags, sel := sel, cls := cls, payload := payload } a k

/-- The checks on a send block's place and its first two doublewords. -/
def State.blockGates (s : State) (b : XWord) : List Gate :=
  [trapIf (decide (b.toNat % 8 ≠ 0)) 4 b, trapIf (s.padOut b.toNat 16) 5 b]

/-- What a send takes from its block. -/
structure Block where
  ctl : XWord
  aux : XWord
  deriving DecidableEq, Repr, Inhabited

/-- The block at an address. -/
def State.block (s : State) (b : XWord) : Block := ⟨s.padDw b.toNat, s.padDw (b.toNat + 8)⟩

/-- A send with its payload in the block: `msg.send`, `msg.reply` and `msg.at`. -/
def State.sendAns (s : State) (flags : BitVec 3) (sa sb : Src) (reply timed : Bool) : Ans :=
  let b := s.c.x sa.n
  let key := s.c.x sb.n
  checkedThen s (srcGates s.c (src2 sa sb) ++ s.blockGates b ++ s.padGates b.toNat 16) fun _ =>
    let w := s.block b
    let len := ctlLen w.ctl
    let cls := ctlClass w.ctl
    let m : Msg :=
      { (s.c.act.getD {}).message s.cur s.c.ctx cls (ctlSel w.ctl) flags (Memory.readList s.mem (placePad s.cur (b.toNat + 16)) len) with
        key := key, reply := reply, timed := timed, time := if timed then w.aux else 0, pa := s.keyPa cls key }
    checked s
      ([msgIf (decide (224 < len)) 2, trapIf (s.padOut b.toNat (16 + len)) 5 (b + BitVec.ofNat 64 (15 + len))]
        ++ s.classGates s.c.jobNum cls (ctlSel w.ctl) ++ [s.keyGate cls key] ++ s.padGates (b.toNat + 16) len
        ++ s.sendGates len ++ [s.pairGate m, s.meetGate (plainSpan s.cur b (16 + len) false)])
      ((s.logPad b.toNat (16 + len)).sendMsg s.cur m (retainBytes len))

/-- `msg.send`. -/
def execMsgSend (flags : BitVec 3) (sa sb : Src) (s : State) : Host.Outcome State Fault Refusal := perform s (s.sendAns flags sa sb false false)
/-- `msg.reply` (spec/09_messages.md R210). -/
def execMsgReply (flags : BitVec 3) (sa sb : Src) (s : State) : Host.Outcome State Fault Refusal := perform s (s.sendAns flags sa sb true false)
/-- `msg.at` (spec/09_messages.md R209). -/
def execMsgAt (flags : BitVec 3) (sa sb : Src) (s : State) : Host.Outcome State Fault Refusal := perform s (s.sendAns flags sa sb false true)

/-! `msg.sendv` (spec/09_messages.md R208). -/

/-- The lanes of the run at position 0 of a view. -/
def View.run0 (v : View) : List Lane := v.lanes 0

/-- The first byte of a run outside the own scratchpad. -/
def State.runOut (s : State) (ls : List Lane) : Option XWord := (ls.find? fun l => s.padOut l.va.toNat ((l.bit + l.width + 7) / 8)).map (·.va)

/-- The bytes of a run, packed. -/
def State.runBytes (s : State) (ls : List Lane) (n : Nat) : List Byte :=
  let v := ls.foldl (fun v l => v + (s.load (placePad s.cur l.va.toNat) ((l.bit + l.width + 7) / 8) / 2 ^ l.bit % 2 ^ l.width) * 2 ^ l.dst) 0
  leBytes n v

/-- `msg.sendv`. -/
def execMsgSendv (flags : BitVec 3) (sa : Src) (q : BitVec 4) (s : State) : Host.Outcome State Fault Refusal :=
  let b := s.c.x sa.n
  let v := s.c.view q.toNat
  let ls := v.run0
  perform s (checkedThen s
    (srcGates s.c (src1 sa) ++ s.blockGates b ++ [viewIf (!v.live) 1 q, viewIf (!v.canRead) 2 q] ++ s.padGates b.toNat 16) fun _ =>
    let w := s.block b
    let len := ctlLen w.ctl
    let cls := ctlClass w.ctl
    let m : Msg :=
      { (s.c.act.getD {}).message s.cur s.c.ctx cls (ctlSel w.ctl) flags (s.runBytes ls len) with key := w.aux, pa := s.keyPa cls w.aux }
    checked s
      ([msgIf (decide (224 < len)) 2, msgIf (decide ((v.runLanes 0 * v.eb + 7) / 8 < len)) 5,
        trapIf (s.runOut ls).isSome 5 ((s.runOut ls).getD 0)]
        ++ s.classGates s.c.jobNum cls (ctlSel w.ctl) ++ [s.keyGate cls w.aux]
        ++ (ls.flatMap fun l => s.padGates l.va.toNat ((l.bit + l.width + 7) / 8))
        ++ s.sendGates len ++ [s.pairGate m, s.meetGate (plainSpan s.cur b 16 false), s.meetGate (v.toSpan s.cur false)])
      ((ls.foldl (fun (s : State) l => s.logPad l.va.toNat 1) (s.logPad b.toNat 16)).sendMsg s.cur m (retainBytes len)))

/-! `msg.mcast` (spec/09_messages.md R207). -/

/-- The keys of a list. -/
def State.keyList (s : State) (a n : Nat) : List XWord := (List.range n).map fun i => s.padDw (a + 8 + 8 * i)

/-- `msg.mcast`. -/
def execMsgMcast (flags : BitVec 3) (sa sb : Src) (s : State) : Host.Outcome State Fault Refusal :=
  let b := s.c.x sa.n
  let a := s.c.x sb.n
  perform s (checkedThen s
    (srcGates s.c (src2 sa sb) ++
      [trapIf (decide (b.toNat % 8 ≠ 0)) 4 b, trapIf (decide (a.toNat % 8 ≠ 0)) 4 a, trapIf (s.padOut b.toNat 16) 5 b,
       trapIf (s.padOut a.toNat 8) 5 a] ++ s.padGates b.toNat 16 ++ s.padGates a.toNat 8) fun _ =>
    let w := s.block b
    let n := (s.padDw a.toNat).toNat
    let len := ctlLen w.ctl
    let cls := ctlClass w.ctl
    let bad := decide (n < 1) || decide (32 < n)
    checkedThen s
      [trapIf (!bad && s.padOut a.toNat (8 + 8 * n)) 5 a, msgIf (decide (224 < len)) 2, msgIf bad 4,
       trapIf (s.padOut b.toNat (16 + len)) 5 (b + BitVec.ofNat 64 (15 + len))] fun _ =>
    checkedThen s (s.classGates s.c.jobNum cls (ctlSel w.ctl) ++ s.padGates (a.toNat + 8) (8 * n)) fun _ =>
      let keys := s.keyList a.toNat n
      let m := (s.c.act.getD {}).message s.cur s.c.ctx cls (ctlSel w.ctl) flags (Memory.readList s.mem (placePad s.cur (b.toNat + 16)) len)
      let timed := w.ctl.getLsbD 26
      let ms := keys.map fun k => { m with key := k, timed := timed, time := if timed then w.aux else 0, pa := s.keyPa cls k }
      checked s
        ((keys.map fun k => s.keyGate cls k) ++ s.padGates (b.toNat + 16) len ++ s.sendGates len ++ ms.map s.pairGate
          ++ [s.meetGate (plainSpan s.cur b (16 + len) false), s.meetGate (plainSpan s.cur a (8 + 8 * n) false)])
        (((s.logPad b.toNat (16 + len)).logPad a.toNat (8 + 8 * n)).sendMcast s.cur ms (retainBytes len)))

/-! `msg.fwd` (spec/09_messages.md R211, R212). -/

/-- `msg.fwd`. -/
def execMsgFwd (sa : Src) (s : State) : Host.Outcome State Fault Refusal :=
  let key := s.c.x sa.n
  let a := s.c.act.getD {}
  let m : Msg :=
    { a.msg with cls := a.cls, key := key, refusal := false, timed := false, time := 0, fwd := some ⟨a.cls, a.key, s.cur⟩, pa := s.keyPa a.cls key, retry := 0 }
  perform s (checked s
    (srcGates s.c (src1 sa) ++ [msgIf (decide (a.kind ≠ .actor) || a.forwarded) 6] ++ s.classGates s.c.jobNum a.cls m.sel
      ++ [s.keyGate a.cls key] ++ s.sendGates m.len ++ [s.pairGate m])
    ((s.modC fun c => { c with act := c.act.map fun x => { x with forwarded := true } }).sendMsg s.cur m (retainBytes m.len)))

/-! `msg.done` (spec/09_messages.md R213). -/

/-- Whether a copy's completion takes no action. -/
def Copy.plain (x : Copy) : Bool := decide (x.ctl.extractLsb' 4 2 = 0)

/-- CAUSE and TVAL of an event's report (spec/12_numbers.md R296, spec/14_matrix.md R335, R337). -/
def MEvent.report (e : MEvent) : Nat × XWord :=
  match e.kind with
  | .reason7 => (22, BitVec.ofNat 64 (7 * 2 ^ 60 + e.acc.toNat))
  | _ => (13, BitVec.ofNat 64 (e.acc.toNat + (if e.tall then 4 else 0) + e.nan.row * 2 ^ 8 + e.nan.col * 2 ^ 16 + e.nan.kb * 2 ^ 32))

/-- TVAL of failing storage of accumulator 0 to 3, or of the latch as 4 (spec/15_system.md R353). Log: DEDUCED, notes/assumptions/35.md. -/
def accEccTval (n : Nat) : XWord := BitVec.ofNat 64 (2 ^ 62 + min n 3)

/-- Report the earliest unreported event a test selects, or else failing storage it selects, each once; else go on (spec/14_matrix.md R335,
spec/12_numbers.md R296, spec/15_system.md R353). A report waits for the good return of every outstanding access, so that no rollback undoes it. Log:
DEDUCED, notes/assumptions/69.md. -/
def State.reportThen (s : State) (ev : MEvent → Bool) (ecc : Nat → Bool) (k : Unit → Ans) : Ans :=
  match s.c.events.find? ev with
  | some e =>
    if e.kind = .reportPending ∨ !s.c.out.isEmpty then .wait s
    else .trap e.report.1 e.report.2 (s.modC fun c => { c with events := c.events.filter fun x => decide (x.id ≠ e.id) })
  | none =>
    match s.c.accEcc.find? ecc with
    | some n => if !s.c.out.isEmpty then .wait s else .trap 17 (accEccTval n) (s.modC fun c => { c with accEcc := c.accEcc.filter fun x => decide (x ≠ n) })
    | none => k ()

/-- The waits of `msg.done` for copies without an action and for matrix commands. -/
def Core.engineGates (c : Core) : List Gate :=
  [waitUntil (!c.copies.any fun x => decide (x.act = c.uid) && x.plain && !x.detached), waitUntil (!c.mq.any fun m => decide (m.act = c.uid))]

/-- The end of the activation on a core, its waits over. Log: DEDUCED, notes/assumptions/69.md. -/
def State.finishAct (s : State) (k : Nat) (tell : Bool) : State := (s.trace k 1 0 (s.core k).ctx.instret.toNat).endAct k tell

/-- `msg.done` completes and counts in INSTRET (spec/04_scalar.md R65). -/
def Core.countDone (c : Core) : Core := c.modCtx fun x => { x with instret := x.instret + 1 }

/-- The live views go one by one, the lowest first, each as `vw.ret` retires it (spec/07_views.md R162); with none left the activation ends. -/
def State.doneViews (s : State) : Ans :=
  match s.c.lowestLive with
  | some q => checkedThen s (s.retireGates (BitVec.ofNat 4 q)) fun _ => .put (s.modC fun c => c.retireView (BitVec.ofNat 4 q))
  | none => .put ((s.modC Core.countDone).finishAct s.cur true)

/-- `msg.done`. -/
def execMsgDone (s : State) : Host.Outcome State Fault Refusal :=
  perform s (checkedThen s (goodGate s.c :: s.c.engineGates) fun _ =>
    s.reportThen (fun _ => true) (fun _ => true) fun _ => s.doneViews)

/-- A forced done's next step (spec/15_system.md R360): failing replies are dropped, events become records of KIND 11, and at the end the message,
task or init handler is redelivered under retry. -/
def State.finishStep (s : State) (k : Nat) (f : Finish) (a : Act) : State :=
  let s : State := { s with cur := k }
  let s := (s.modC fun c =>
    ({ c with out := c.out.filter fun x => match x.st with | .failed _ => false | .underflow _ => false | _ => true } : Core).freeUndo).forwardFlags k
  match firstStop (goodGate s.c :: s.c.engineGates) with
  | .go =>
    match s.c.events with
    | e :: _ =>
      if e.kind = .reportPending then s
      else (s.actErr 11 k a (f.addr.setWidth 64) e.report.1).modC fun c => { c with events := c.events.drop 1 }
    | [] =>
      match s.c.accEcc with
      | _ :: _ => (s.actErr 11 k a (f.addr.setWidth 64) 17).modC fun c => { c with accEcc := c.accEcc.drop 1 }
      | [] =>
        match s.c.lowestLive with
        | some q =>
          (match firstStop (s.retireGates (BitVec.ofNat 4 q)) with
           | .go => s.modC fun c => c.retireView (BitVec.ofNat 4 q)
           | .waitWith s' => s'
           | _ => s)
        | none => (if f.retry then s.redeliver k a f.at_ else s).finishAct k (!(f.retry && decide (a.kind = .init)))
  | _ => s

end Sys2Proof.Machine
end

