-- ==== Sys2Proof/Machine/Copies.lean ====
section
/-! DEFINITION. The copy engine (spec/08_copy.md R173 to R193): its registers, geometry, launch, the running of a copy line by line, completion, failure
and cancelling. -/

namespace Sys2Proof.Machine

/-! Registers (spec/08_copy.md R173, R183). -/

/-- `cpw`: bits that are reserved are ignored. -/
def execCpw (ce : BitVec 5) (sa : Src) (s : State) : Host.Outcome State Fault Refusal :=
  let v := s.c.x sa.n &&& ceMask ce.toNat
  perform s (checked s (srcGates s.c (src1 sa)) (s.modC fun c => c.modCtx fun x => { x with ce := Map.put x.ce ce.toNat v }))

/-- The value of engine register `n`. -/
def Core.ceRead (c : Core) (n : Nat) : XWord := if n = 14 then c.cstat else c.ctx.ceReg n

/-- `cpr`. -/
def execCpr (rd ce : BitVec 5) (s : State) : Host.Outcome State Fault Refusal :=
  let v := s.c.ceRead ce.toNat
  perform s (checked s [destGate s.c rd]
    (let s' := s.modC fun c => c.setX rd v
     if ce = 14 then s'.logExt s.cur 4 14 (v.setWidth 1024) else s'))

/-! Geometry (spec/08_copy.md R179, R180). -/

/-- A side from its dimension registers. -/
def Ctx.ceSide (x : Ctx) (first : Nat) (base : XWord) : Side :=
  { base := base, ext := (List.range 4).map fun i => fieldOf (x.ceReg (first + i)) 0 16
    str := (List.range 4).map fun i => ((x.ceReg (first + i)).extractLsb' 32 32).toInt, org := [0, 0, 0, 0] }

/-- A side from a view. -/
def View.side (v : View) (q : Nat) : Side :=
  let used (k : Nat) : Bool := decide (k < v.rank)
  { base := v.base, ext := (List.range 4).map fun k => if used k then (v.dim k).extent.toNat else 1
    str := (List.range 4).map fun k => if used k then (v.dim k).step * (v.eb / 8 : Nat) else 0
    org := (List.range 4).map fun k => if used k then (v.dim k).origin.toNat else 0, view := some v, vq := q }

/-- Product of the extents. -/
def Side.count (d : Side) : Nat := d.ext.foldl (· * ·) 1

/-- The index of element `n` of a side: dimension 0 fastest. -/
def indexOf : List Nat → Nat → List Nat
  | [], _ => []
  | e :: t, n => n % e :: indexOf t (n / e)

/-- The address of an index of a side, as an exact integer. -/
def Side.addrAt (d : Side) (i : List Nat) : Int :=
  (List.range 4).foldl (fun (a : Int) k => a + ((d.org.getD k 0 + i.getD k 0 : Nat) : Int) * d.str.getD k 0) d.base.toNat

/-- Whether MESH is in range. -/
def Mesh.ok (m : Mesh) : Bool :=
  decide (1 ≤ m.bs) && decide (1 ≤ m.w) && decide (m.w ≤ 96) && decide (1 ≤ m.h) && decide (m.h ≤ 64)
    && decide (m.x0 + m.w ≤ 96) && decide (m.y0 + m.h ≤ 64)

/-- The aperture address of a destination index laid over the mesh along dimension `md`. -/
def Mesh.addrAt (m : Mesh) (d : Side) (md : Nat) (i : List Nat) : Int :=
  let im := i.getD md 0
  let b := im / m.bs
  let c := b % (m.w * m.h)
  let pos := b / (m.w * m.h) * m.bs + im % m.bs
  let core := meshCore (m.x0 + c % m.w) (m.y0 + c / m.w)
  d.addrAt (i.set md pos) + 2 ^ 32 + core * 2 ^ 20

/-- ACT. -/
def Copy.action (x : Copy) : Nat := fieldOf x.ctl 4 2
/-- NOMARK. -/
def Copy.nomark (x : Copy) : Bool := x.ctl.getLsbD 3
/-- The traffic class of its data. -/
def Copy.traffic (x : Copy) : Nat := if x.ctl.getLsbD 14 then 3 else 2

/-- Bytes of one access: an element of 8 bytes or fewer, or an 8-byte part. Log: DEDUCED, notes/assumptions/26.md. -/
def Copy.unit (x : Copy) : Nat := min x.esize 8
/-- Parts of an element. Log: DEDUCED, notes/assumptions/26.md. -/
def Copy.parts (x : Copy) : Nat := x.esize / x.unit
/-- Accesses of the copy on each side. Log: DEDUCED, notes/assumptions/26.md. -/
def Copy.units (x : Copy) : Nat := x.count * x.parts

/-- Source address of access `u`. -/
def Copy.srcAt (x : Copy) (u : Nat) : XWord := BitVec.ofInt 64 (x.src.addrAt (indexOf x.src.ext (u / x.parts)) + (x.unit * (u % x.parts) : Nat))
/-- Destination address of access `u`. -/
def Copy.dstAt (x : Copy) (u : Nat) : XWord :=
  let i := indexOf x.dst.ext (u / x.parts)
  BitVec.ofInt 64 ((if x.meshOn then (meshOf x.mesh).addrAt x.dst x.md i else x.dst.addrAt i) + (x.unit * (u % x.parts) : Nat))

/-! Launch (spec/08_copy.md R184, R188). -/

/-- The copy that the registers describe, with the operands of `cpgo`. -/
def State.describe (s : State) (a b : XWord) : Copy :=
  let c := s.c
  let x := c.ctx
  let ctl := x.ceReg 0
  let act := c.act.getD {}
  let sq := fieldOf ctl 20 4
  let dq := fieldOf ctl 24 4
  let sv := ctl.getLsbD 16
  let dv := ctl.getLsbD 17
  let src := if sv then (c.view sq).side sq else x.ceSide 1 a
  let dst := if dv then (c.view dq).side dq else x.ceSide 5 b
  let tag := fieldOf ctl 8 6
  { id := BitVec.ofNat 64 (c.copySeq.toNat * 65536 + tag), tag := tag, ctl := ctl, mesh := x.ceReg 9, acls := x.ceReg 10, akey := x.ceReg 11
    atask := x.ceReg 12, aarg := x.ceReg 13, src := src, dst := dst
    esize := if sv then (c.view sq).eb / 8 else if dv then (c.view dq).eb / 8 else 2 ^ fieldOf ctl 0 3
    count := src.count, job := act.job, cls := act.cls, key := act.key, incarn := act.incarn, stamp := stampOut act.desc x
    entryStamp := x.entryStamp, task := decide (act.kind = .task), tid := act.task.tid, act := c.uid, order := s.nextId }

/-- The view faults of one side (spec/08_copy.md R188). Log: DESIGN CHOICE, notes/assumptions/109.md. -/
def Core.sideGates (c : Core) (on : Bool) (q : Nat) (write : Bool) : List Gate :=
  let v := c.view q
  if !on then []
  else
    [trapIf (!v.live) 9 (viewTval 1 q), trapIf (!(if write then v.canWrite else v.canRead)) 9 (viewTval 2 q),
     trapIf (v.sce && !companionOk v (c.view v.scv.toNat) q v.scv.toNat) 9 (viewTval 5 q)]

/-- The copy geometry fault when a condition holds. -/
def geoIf (b : Bool) (reason : Nat) : Gate := trapIf b 20 (BitVec.ofNat 64 (reason * 2 ^ 60))

/-- The first number of a list that is no multiple of `n`. -/
def oddOne (n : Nat) (l : List Int) : Option Int := l.find? fun i => decide (i % (n : Int) ≠ 0)

/-- The end of the piece of aperture space an address lies in, if it names one (spec/06_memory.md R115). -/
def apertureEnd (a : Int) : Option Int :=
  let v := (a - 2 ^ 32).toNat
  let o : Nat := v % 2 ^ 20
  if a < 2 ^ 32 ∨ (0x000300000000 : Int) ≤ a ∨ !isCore (v / 2 ^ 20) then none
  else if o < 0x60000 then some (a + (0x60000 - o : Nat))
  else if 0x80000 ≤ o ∧ o < 0x90080 then some (a + (0x90080 - o : Nat))
  else none

/-- The lowest address of a hull at or above a limit, as addresses of 64 bits are ordered: one below 0 is a high address. -/
def beyond (limit lo hi : Int) : Option Int := if limit ≤ hi then some (max lo limit) else if lo < 0 then some (lo + 2 ^ 64) else none

/-- The lowest address that the launch forbids of a hull that begins in the own scratchpad or in aperture space (spec/08_copy.md R188). -/
def Core.rangeBad (c : Core) (lo hi : Int) : Option Int :=
  if lo < 2 ^ 32 then beyond c.spsize lo hi
  else if lo < 0x000300000000 then
    match apertureEnd lo with
    | none => some lo
    | some e => if hi < e then none else some e
  else none

/-- The lower of two addresses that may be absent. -/
def lowest (a b : Option Int) : Option Int :=
  match a, b with
  | some x, some y => some (min x y)
  | some x, none => some x
  | none, y => y

/-- The lowest forbidden offset of a mesh destination, on any core of its rectangle; the fault reports the offset. Log: DESIGN CHOICE,
notes/assumptions/110.md. -/
def Copy.meshBad (x : Copy) : Option Int := x.meshHulls.foldl (fun b h => lowest b (beyond 0x60000 h.2.1 h.2.2)) none

/-- The lowest forbidden address of a copy's sides. Log: DEDUCED, notes/assumptions/64.md. -/
def State.copyRange (s : State) (x : Copy) : Option Int :=
  let h := x.src.hull x.esize
  let d := x.dst.hull x.esize
  lowest (s.c.rangeBad h.1 h.2) (if x.meshOn then x.meshBad else s.c.rangeBad d.1 d.2)

/-- The permission fault of an aperture or mesh side: the lowest address of its hull and the reason; the source comes before the destination, and the
cores of a mesh in the order of its rectangle (DESIGN CHOICE, notes/assumptions/96.md). -/
def State.copyPerm (s : State) (x : Copy) : Option XWord :=
  let job := s.job x.job
  let bad (a : Int) (kind : AKind) : Option XWord :=
    if a < 2 ^ 32 ∨ (0x000300000000 : Int) ≤ a then none
    else
      let v := (a - 2 ^ 32).toNat
      if !job.cset.getLsbD (coreCluster (v / 2 ^ 20)) then some (accTval (BitVec.ofInt 64 a) kind 3)
      else if kind = .write ∧ 0x80000 ≤ v % 2 ^ 20 ∧ !job.codeRight then some (accTval (BitVec.ofInt 64 a) kind 4)
      else none
  let h := x.src.hull x.esize
  match bad h.1 .read with
  | some v => some v
  | none => x.dstHulls.findSome? fun h => bad h.1 .write

/-- The faults of a launch in their order (spec/08_copy.md R188). Of several misaligned numbers the first of the source base, the source strides, the
destination base and the destination strides is named, and the source view's faults come before the destination view's (DESIGN CHOICE,
notes/assumptions/96.md). -/
def State.launchGates (s : State) (x : Copy) : List Gate :=
  let ctl := x.ctl
  let sv := ctl.getLsbD 16
  let dv := ctl.getLsbD 17
  let eb (d : Side) : Nat := match d.view with | some v => v.eb | none => 8
  let conflict := (sv && decide (eb x.src % 8 ≠ 0)) || (dv && decide (eb x.dst % 8 ≠ 0)) || (sv && dv && decide (eb x.src ≠ eb x.dst)) || (dv && x.meshOn)
  let odd := oddOne x.esize
    ((if sv then [] else (x.src.base.toNat : Int) :: x.src.str) ++ if dv then [] else (x.dst.base.toNat : Int) :: x.dst.str)
  s.c.sideGates sv (fieldOf ctl 20 4) false ++ s.c.sideGates dv (fieldOf ctl 24 4) true ++
    [geoIf ((x.src.ext ++ x.dst.ext).any fun e => decide (e = 0)) 1, geoIf (decide (x.dst.count ≠ x.src.count)) 2, geoIf (decide (x.action = 3)) 3,
     geoIf (x.meshOn && !(meshOf x.mesh).ok) 4, geoIf conflict 5,
     trapIf odd.isSome 4 (BitVec.ofInt 64 (odd.getD 0)),
     trapIf (s.copyRange x).isSome 5 (BitVec.ofInt 64 ((s.copyRange x).getD 0)),
     trapIf (s.copyPerm x).isSome 7 ((s.copyPerm x).getD 0)]

/-- A tag's busy bit. -/
def Core.busy (c : Core) (t : Nat) : Bool := c.tagBusy.getLsbD t

/-- One bit of 64. -/
def bit64 (t : Nat) : XWord := 1 <<< t

/-- `cpgo` (spec/08_copy.md R184). -/
def execCpgo (rd : BitVec 5) (sa sb : Src) (s : State) : Host.Outcome State Fault Refusal :=
  let x := s.describe (s.c.x sa.n) (s.c.x sb.n)
  let c := s.c
  perform s (checked s
    (srcGates c (src2 sa sb) ++ s.launchGates x ++
      [waitUntil (!c.busy x.tag), destGate c rd, goodGate c, waitUntil (decide (c.heldCopies < 64) && decide (c.cmdq.length < 2))])
    (({ s with nextId := s.nextId + 1 } : State).modC fun c =>
      let c : Core :=
        { c with copySeq := c.copySeq + 1, tagBusy := c.tagBusy ||| bit64 x.tag, tagStat := Map.put c.tagStat x.tag 0, copies := c.copies ++ [x]
                 cmdq := c.cmdq ++ [x.id] }
      (c.modCtx fun y => { y with tags := y.tags &&& ~~~bit64 x.tag }).setX rd x.id))

/-! Tags as a copy ends (spec/08_copy.md R189, R192, R196). -/

/-- The first tag of a set, from ROT on. -/
def firstTag (rot : BitVec 6) (set : XWord) : Option Nat :=
  ((List.range 64).map fun j => (rot.toNat + j) % 64).find? fun t => set.getLsbD t

/-- The pending `tag.wany` of a context judged again: ROT, what still waits, and the fills, register key and tag. -/
def Ctx.judgeWany (x : Ctx) : BitVec 6 × List Wany × List (Nat × Nat) :=
  x.wany.foldl (fun (p : BitVec 6 × List Wany × List (Nat × Nat)) w =>
    match firstTag p.1 (w.mask &&& x.tags) with
    | some u => (BitVec.ofNat 6 (u + 1), p.2.1, p.2.2 ++ [(w.key, u)])
    | none => (p.1, p.2.1 ++ [w], p.2.2)) (x.rot, [], [])

/-- A context in which tag `t` is set: pending `tag.wany` destinations whose mask holds a set tag are filled; answers the fills. -/
def Ctx.setTag (x : Ctx) (t : Nat) : Ctx × List (Nat × Nat) :=
  let y : Ctx := { x with tags := x.tags ||| bit64 t }
  let r := y.judgeWany
  ({ y with rot := r.1, wany := r.2.1 }, r.2.2)

/-- The registers filled. -/
def fillTags (xs : Map Reg) (l : List (Nat × Nat)) : Map Reg :=
  l.foldl (fun m p => if p.1 = 0 then m else Map.put m p.1 ⟨BitVec.ofNat 64 p.2, true⟩) xs

/-- Tag `t` of a copy that is not detached gets a status: busy cleared, TAGS set, for the activation that launched it, running or pre-empted. -/
def Core.endTag (c : Core) (x : Copy) (status : BitVec 16) : Core :=
  if x.detached then c
  else if c.act.isSome && decide (c.uid = x.act) then
    let r := c.ctx.setTag x.tag
    { c with
      ctx := r.1, xs := fillTags c.xs r.2, tagBusy := c.tagBusy &&& ~~~bit64 x.tag, tagStat := Map.put c.tagStat x.tag status
      undo := c.undo.map fun e => { e with ctx := (e.ctx.setTag x.tag).1 } }
  else
    { c with
      saved := c.saved.map fun v =>
        if v.act.uid = x.act then
          let r := v.ctx.setTag x.tag
          { v with ctx := r.1, xs := fillTags v.xs r.2, tagBusy := v.tagBusy &&& ~~~bit64 x.tag, tagStat := Map.put v.tagStat x.tag status }
        else v }

/-- A copy of a core. -/
def Core.copyOf (c : Core) (id : Nat) : Option Copy := c.copies.find? fun x => decide (x.id.toNat = id)

/-- Change a copy of a core. -/
def State.modCopy (s : State) (k : Nat) (id : XWord) (f : Copy → Copy) : State :=
  s.modCore k fun c => { c with copies := c.copies.map fun x => if x.id = id then f x else x }

/-- A copy leaves the engine. -/
def Core.dropCopy (c : Core) (id : XWord) : Core :=
  { c with copies := c.copies.filter fun x => decide (x.id ≠ id), cmdq := c.cmdq.filter fun i => decide (i ≠ id) }

/-- A copy leaves its tag with a status: pending `tag.wany` destinations that it fills are results that a captured activation, running or pre-empted, logs
(spec/19_debug.md R454). -/
def State.endTag (s : State) (k : Nat) (x : Copy) (status : BitVec 16) : State :=
  let c := s.core k
  let log (s : State) (a : Act) (z : Ctx) : State :=
    if decide (a.uid = x.act) && !x.detached then
      (z.setTag x.tag).2.foldl (fun (s : State) f => s.logOf k a z.instret.toNat 5 0 (BitVec.ofNat 1024 f.2)) s
    else s
  let s1 := match c.act with | some a => log s a c.ctx | none => s
  (c.saved.foldl (fun (s : State) v => log s v.act v.ctx) s1).modCore k fun c => c.endTag x status

/-- A copy that is held only for its push (spec/11_tasks.md R251) is cancelled: it makes no push, and its tag, unless another copy has taken it, gets the
status of a cancelled one. Log: DESIGN CHOICE, notes/assumptions/111.md. -/
def State.cancelPush (s : State) (k : Nat) (x : Copy) : State :=
  let gone := s.modCore k fun c => c.dropCopy x.id
  if (s.core k).busy x.tag then gone else gone.endTag k x 8

/-- `cpcancel` (spec/08_copy.md R193). Log: DESIGN CHOICE, notes/assumptions/111.md. -/
def execCpcancel (sa : Src) (s : State) : Host.Outcome State Fault Refusal :=
  let id := s.c.x sa.n
  perform s (checked s (srcGates s.c (src1 sa) ++ [goodGate s.c])
    (match s.c.copyOf id.toNat with
     | none => s
     | some x =>
       if x.st = .queued then (s.modC fun c => c.dropCopy id).endTag s.cur x 8
       else if x.st = .running then s.modCopy s.cur id fun x => { x with st := .cancelling }
       else if x.ended && x.held then s.cancelPush s.cur x
       else s))

/-! Running (spec/08_copy.md R185 to R187). -/

/-- The earlier accesses of the launching activation that are not performed, as a copy's start judges them. -/
def State.earlierSpans (s : State) (k : Nat) (x : Copy) : List Span :=
  let c := s.core k
  (c.out.filter fun a => decide (a.act = x.act) && decide (a.id < x.order)).map (·.toSpan k)
    ++ (c.posted.filter fun p => decide (p.kind = 3) || decide (p.id < x.order)).flatMap (·.spans k x.act)
    ++ (c.copies.filter fun y => decide (y.act = x.act) && decide (y.order < x.order)).flatMap (·.spans k)
    ++ (c.mq.filter fun m => decide (m.act = x.act) && decide (m.order < x.order)).flatMap (·.spans k)

/-- The accesses of a copy, the destination over every aperture range it covers. -/
def Copy.allSpans (x : Copy) (k : Nat) : List Span :=
  let h := x.src.hull x.esize
  ⟨k, h.1, h.2, x.src.view, false⟩ :: x.dstHulls.map fun h => ⟨k, h.1, h.2, x.dst.view, true⟩

/-- Whether an earlier access holds a copy back. -/
def State.heldBack (s : State) (k : Nat) (x : Copy) : Bool :=
  (s.earlierSpans k x).any fun p => (x.allSpans k).any fun q => p.ordered q

/-- The L1 lines within a byte range of a job. -/
def State.inRangeOf (s : State) (job : Nat) (h : Int × Int) (l : L1Line) : Bool :=
  decide (0 ≤ h.2) && s.rangeHas job (max h.1 (2 ^ 40)).toNat (min h.2 (2 ^ 48 - 1)).toNat l.line && decide (2 ^ 40 ≤ h.2)

/-- The L1 lines within either side of a copy. Log: DEDUCED, notes/assumptions/65.md. -/
def State.inCopy (s : State) (x : Copy) (l : L1Line) : Bool :=
  s.inRangeOf x.job (x.src.hull x.esize) l || x.dstHulls.any fun h => s.inRangeOf x.job h l

/-- The L1 lines whose dirty bytes leave before a copy starts: those within its sides, and those with a store of its activation that meets one of its
accesses, which is an earlier one since a later one waits (spec/07_views.md R166). -/
def State.firstOut (s : State) (k : Nat) (x : Copy) (l : L1Line) : Bool := s.inCopy x l || (x.allSpans k).any fun p => l.meets x.act p

/-- The target of an access of a copy: through the TLB, or through the page table where `deep`. Log: DEDUCED, notes/assumptions/64.md. -/
def State.copyTarget (s : State) (k : Nat) (x : Copy) (a : XWord) (kind : AKind) (deep : Bool) : Chk :=
  match s.checkAs k x.job a x.unit kind with
  | .miss =>
    if deep then
      match s.walk x.job a.toNat with
      | none => .trap 6 (accTval a kind 0)
      | some e => let r := leafPerm e.leaf kind true; if r ≠ 0 then .trap 7 (accTval a kind r) else .ok (s.leafTgt e a.toNat)
    else .miss
  | r => r

/-- The place of the scratchpad line a destination access writes, if it writes one. -/
def State.padLineOf (s : State) (k : Nat) (x : Copy) (u : Nat) : Option Nat :=
  match s.copyTarget k x (x.dstAt u) .write true with
  | .ok t => if t.region = .own ∨ t.region = .pad then some (lineOf t.place) else none
  | _ => none

/-- Accesses left to write for each scratchpad line of the destination. -/
def State.lineCounts (s : State) (k : Nat) (x : Copy) : Map Nat :=
  (List.range x.units).foldl (fun (m : Map Nat) u =>
    match s.padLineOf k x u with
    | some l => Map.put m l (Map.get 0 m l + 1)
    | none => m) []

/-- The posted operation of a copy. -/
def Copy.posting (x : Copy) (k : Nat) (kind : Nat) (va : XWord) (line ep : Nat) (mask : BitVec 128) (d : BitVec 1024) (last : Bool) : Posted :=
  { kind := kind, va := va, line := line, mask := mask, data := d, core := k, job := x.job, cls := x.cls, incarn := x.incarn, stamp := x.entryStamp
    act := x.act, copy := some x.id.toNat, last := last, ep := ep }

/-- The aperture address of a scratchpad line. -/
def apertureOf (line : Nat) : XWord := BitVec.ofNat 64 (2 ^ 32 + (line - 2 ^ 40))

/-- A copy marks some scratchpad lines: its own core's at once, others by posted marks. Log: DEDUCED, notes/assumptions/63.md. -/
def State.copyMarks (s : State) (k : Nat) (x : Copy) (lines : List Nat) (full : Bool) : State :=
  lines.foldl (fun (s : State) l =>
    if padCore l = k then s.modCore k fun c => if full then c.markFull (padOff l / 128) else c.markEmpty (padOff l / 128)
    else
      let p := x.posting k (if full then 2 else 1) (apertureOf l) l (padCore l) 0 0 false
      (s.modCopy k x.id fun y => { y with writes := y.writes + 1 }).post k p x.traffic (some p.room)) s

/-- COPY_START (spec/08_copy.md R185): the first queued copy starts once nothing holds it back and the dirty L1 bytes of its sides have been
written back. Log: DEDUCED, notes/assumptions/65.md. -/
def State.copyStartStep (s : State) (k : Nat) : State :=
  let c := s.core k
  match c.copies.find? fun x => decide (x.st = .queued) with
  | none => s
  | some x =>
    if 4 ≤ (c.copies.filter fun y => decide (y.st ≠ .queued) && !y.ended).length || s.heldBack k x then s
    else if c.l1.any fun l => s.firstOut k x l && decide (l.dirty ≠ 0) then s.writeBackIf k (s.firstOut k x)
    else if c.posted.any fun p => decide (p.kind = 3) && s.inCopy x { line := p.line, data := 0 } then s
    else
      let left := if x.nomark then [] else s.lineCounts k x
      let lines := left.map (·.1)
      let s := s.modCore k fun c =>
        { c with cmdq := c.cmdq.filter fun i => decide (i ≠ x.id)
                 copies := c.copies.map fun y => if y.id = x.id then { y with st := .running, todo := List.range y.units, left := left, marked := lines } else y }
      s.copyMarks k x lines false

/-- `COPY_START`. -/
def execCopyStart (k : Nat) (s : State) : Host.Outcome State Fault Refusal := .next (s.copyStartStep k)

/-- A copy fails (spec/08_copy.md R191): its first failure stands. Log: DEDUCED, notes/assumptions/64.md. -/
def State.failCopy (s : State) (k : Nat) (x : Copy) (cause : Nat) (va : XWord) (wr : Bool) (n : Nat) : State :=
  s.modCopy k x.id fun y => if y.st = .running then { y with st := .failing cause va wr n } else y

/-- The accesses, beginning at some number, that together are one whole line on both sides (spec/08_copy.md R185): how many from the line's first one
on, if access `u` lies in such a line. -/
def Copy.lineFrom (x : Copy) (u : Nat) : Option Nat :=
  let n := 128 / x.unit
  let o := (x.srcAt u).toNat % 128 / x.unit
  let f := u - o
  if o ≤ u && decide (f + n ≤ x.units) && decide ((x.srcAt f).toNat % 128 = 0) && decide ((x.dstAt f).toNat % 128 = 0)
      && (List.range n).all fun i => decide (x.srcAt (f + i) = x.srcAt f + BitVec.ofNat 64 (x.unit * i))
        && decide (x.dstAt (f + i) = x.dstAt f + BitVec.ofNat 64 (x.unit * i)) then some f else none

/-- What a running copy asks for with access `u`: the first access and how many, a whole line where it can. -/
def Copy.request (x : Copy) (u : Nat) : Nat × Nat :=
  match x.lineFrom u with
  | some f => if (List.range (128 / x.unit)).all fun i => x.todo.contains (f + i) then (f, 128 / x.unit) else (u, 1)
  | none => (u, 1)

/-- The accesses a copy has left after some from `u` on. -/
def Copy.without (x : Copy) (u n : Nat) : List Nat := x.todo.filter fun i => !(decide (u ≤ i) && decide (i < u + n))

/-- The bytes of `n` accesses from `u` on are written (spec/08_copy.md R181, R187): at once in the own scratchpad, posted elsewhere; the last bytes into
a marked line mark it full. -/
def State.copyWrite (s : State) (k : Nat) (x : Copy) (u n v : Nat) : State :=
  let va := x.dstAt u
  match s.copyTarget k x va .write true with
  | .ok t =>
    let line := lineOf t.place
    let off := t.place % 128
    let left := Map.get 0 x.left line
    let last := decide (left ≠ 0) && decide (left ≤ n)
    let mask := byteMask off (n * x.unit)
    let d := BitVec.ofNat 1024 (v % 2 ^ (8 * (n * x.unit)) * 2 ^ (8 * off))
    let s := s.modCopy k x.id fun y => { y with left := if left = 0 then y.left else Map.put y.left line (left - n) }
    if t.region = .own then
      let s := s.writeLine line mask d
      let s := (s.unlogBut k (padOff line / 128) x.act).logCopyWrite k x.act (padOff line / 128) d
      if last then (s.modCore k fun c => c.markFull (padOff line / 128)).modCopy k x.id fun y => { y with marked := y.marked.filter fun l => decide (l ≠ line) }
      else s
    else
      let p := x.posting k 5 va line t.ep mask d last
      (s.modCopy k x.id fun y => { y with writes := y.writes + 1 }).post k p x.traffic (some p.room)
  | .trap c _ => s.failCopy k x c va true (n * x.unit)
  | .miss => s

/-- Access `u` of a running copy, none where it must wait: translation, a full source line, reads in flight, retain room. Log: DESIGN CHOICE,
notes/assumptions/10.md. -/
def State.pumpCopy (s : State) (k : Nat) (x : Copy) (u : Nat) : Option State :=
  if x.st ≠ .running ∨ !x.todo.contains u then none
  else
    let (u, n) := x.request u
    let sa := x.srcAt u
    let da := x.dstAt u
    match s.copyTarget k x sa .read false, s.copyTarget k x da .write false with
    | .trap c _, _ => some (s.failCopy k x c sa false (n * x.unit))
    | .miss, _ =>
      let s' := s.startWalk k x.job sa.toNat (.copy k x.id sa false (n * x.unit))
      if s'.walks = s.walks then none else some s'
    | .ok _, .trap c _ => some (s.failCopy k x c da true (n * x.unit))
    | .ok _, .miss =>
      let s' := s.startWalk k x.job da.toNat (.copy k x.id da true (n * x.unit))
      if s'.walks = s.walks then none else some s'
    | .ok t, .ok w =>
      let line := lineOf t.place
      if w.region ≠ .own ∧ !s.retainRoom k (retainBytes (n * x.unit)) then none
      else
        let s1 := (s.tlbTouchAs k x.job t.page t.size).tlbTouchAs k x.job w.page w.size
        if t.region = .own then
          if !(s.core k).lineFull sa.toNat && !x.marked.contains line then none
          else
            let f := s.placeFail k line
            if f ≠ 0 then some (s.failCopy k x f sa false (n * x.unit))
            else
              let s2 := s1.modCopy k x.id fun y => { y with todo := y.without u n }
              let s2 := s2.logCopyRead k x.act (padOff line / 128)
              some (s2.copyWrite k { x with todo := x.without u n } u n (s.load t.place (n * x.unit)))
        else if 32 ≤ (s.core k).copies.foldl (fun n y => n + y.reads) 0 then none
        else
          some ((s1.modCopy k x.id fun y =>
              { y with todo := y.without u n, asked := y.asked ++ [⟨u, n, s.dtime⟩] }).send
            { src := k, dst := t.ep, cls := x.traffic, job := x.job
              body := .read { core := k, copy := true, owner := x.id.toNat, part := u, line := line, job := x.job } })

/-- The engine's next request (spec/08_copy.md R185): a command leaves the queue, or a running copy issues one of its accesses, in any order; `pick`
says which copy, and which of what it has left. Log: DESIGN CHOICE, notes/assumptions/10.md. -/
def State.pump (s : State) (k pick : Nat) : State :=
  let c := s.core k
  match c.cmdq with
  | _ :: t => s.modCore k fun c => { c with cmdq := t }
  | [] =>
    let run := c.copies.filter fun x => decide (x.st = .running)
    match run[pick % run.length]? with
    | none => s
    | some x =>
      match x.todo[pick / run.length % x.todo.length]? with
      | none => s
      | some u => (s.pumpCopy k x u).getD s

/-- A reply to a copy (spec/08_copy.md R185, R191): its bytes are written on, or the copy fails; one that has stopped drops them. -/
def State.copyReply (s : State) (k : Nat) (r : ReadReq) (fail : Nat) (d : BitVec 1024) (moment : Nat) : State :=
  match (s.core k).copyOf r.owner with
  | none => s
  | some x =>
    match x.asked.find? fun q => decide (q.part = r.part) with
    | none => s
    | some q =>
    let n := q.n
    let s := s.modCopy k x.id fun y => { y with asked := y.asked.filter fun q => decide (q.part ≠ r.part) }
    if x.st ≠ .running then s
    else if fail ≠ 0 then s.failCopy k x fail (x.srcAt r.part) false (n * x.unit)
    else (s.seenAt k r.line moment).copyWrite k x r.part n (lineBytes d ((x.srcAt r.part).toNat % 128) (n * x.unit))

/-! The end (spec/08_copy.md R189 to R193). -/

/-- Whether a copy has nothing more in flight. -/
def Copy.quiet (x : Copy) : Bool := decide (x.reads = 0) && decide (x.writes = 0)

/-- What the completion action would be told: whether it can be performed, else its cause (spec/08_copy.md R190). -/
def State.actionCause (s : State) (x : Copy) : Nat :=
  if x.action = 1 then
    let cls : BitVec 12 := x.acls.extractLsb' 0 12
    if !s.reachable x.job cls || (s.handler cls (x.acls.extractLsb' 12 6)).isNone then 19
    else if cls = 0 ∧ (s.hostAddr0 x.job x.akey).isNone then 19
    else 0
  else if x.action = 2 then
    if !s.addressable x.job (taskClass x.atask) then 19 else if (taskEntry x.atask).toNat % 4 ≠ 0 then 4 else 0
  else 0

/-- A free value of the part: the word the spec leaves open. Log: DESIGN CHOICE, notes/assumptions/4.md. -/
def State.drawWord (s : State) : XWord × State := (Config.freeWord s.free, { s with free := s.free + 1 })

/-- The record of a discarded action (spec/08_copy.md R190). Log: DESIGN CHOICE, notes/assumptions/4.md. -/
def State.discardAction (s : State) (k : Nat) (x : Copy) (cause : Nat) : State :=
  let (w, s) := s.drawWord
  s.appendErr x.job
    { addr := if x.action = 1 then x.akey else (taskEntry x.atask).setWidth 64, time := BitVec.ofNat 64 (s.coreTime k), peer := w.setWidth 32
      cause := BitVec.ofNat 16 cause, kind := 14, src := BitVec.ofNat 16 k, cls := BitVec.ofNat 16 x.cls.toNat
      incarn := BitVec.ofNat 32 x.incarn.toNat }

/-- The completion message: 16 bytes, the transfer id and the status word. -/
def State.actionMsg (s : State) (k : Nat) (x : Copy) (status : BitVec 16) : Msg :=
  let cls : BitVec 12 := x.acls.extractLsb' 0 12
  let payload := leBytes 8 x.id.toNat ++ leBytes 8 status.toNat
  { key := x.akey, stamp := x.stamp, len := 16, flags := x.acls.extractLsb' 20 3, sel := x.acls.extractLsb' 12 6, cls := cls, job := x.job
    score := k, kind := if x.task then 1 else 0, scls := if x.task then 0 else x.cls, skey := if x.task then BitVec.ofNat 64 k else x.key
    payload := payload
    pa := if cls = 0 then s.hostAddr0 x.job x.akey else none }

/-- Whether the action must wait for room: a place in the deque, or retain space. -/
def State.actionWaits (s : State) (k : Nat) (x : Copy) : Bool :=
  if s.actionCause x ≠ 0 then false
  else if x.action = 1 then !s.retainRoom k (retainBytes 16) || s.resendAhead k (s.actionMsg k x 0)
  else if x.action = 2 then decide (64 ≤ (s.core k).dequeUsed)
  else false

/-- The completion action. -/
def State.copyAction (s : State) (k : Nat) (x : Copy) (status : BitVec 16) : State :=
  let cause := s.actionCause x
  if x.action = 0 then s
  else if cause ≠ 0 then s.discardAction k x cause
  else if x.action = 1 then s.sendMsg k (s.actionMsg k x status) (retainBytes 16)
  else s.pushTask k { word := x.atask, arg := x.aarg, stamp := x.stamp, parent := if x.task then x.tid else 0, parentCls := x.cls, job := x.job }

/-- Step 3 of a copy's end (spec/08_copy.md R189, R190): an action that cannot be performed is discarded; a send or a push waits for the core's release
and for room, as one of the issuing core does at that moment (spec/16_model.md R377). -/
def State.tryAction (s : State) (k : Nat) (x : Copy) (status : BitVec 16) : State :=
  let gone := s.modCore k fun c => c.dropCopy x.id
  if x.action = 0 ∨ s.actionCause x ≠ 0 then gone.copyAction k x status
  else match s.releaseStep k with
    | some s' => s'
    | none => if s.actionWaits k x then s else gone.copyAction k x status

/-- Steps 2 and 3 of a copy's end. -/
def State.endCopy (s : State) (k : Nat) (x : Copy) (status : BitVec 16) (act : Bool) : State :=
  let s := s.endTag k x status
  if act then (s.modCopy k x.id fun y => { y with st := .acting status }).tryAction k x status else s.modCore k fun c => c.dropCopy x.id

/-- A stopped copy that is quiet marks full the lines it left empty. Log: DEDUCED, notes/assumptions/63.md. -/
def State.fillMarks (s : State) (k : Nat) (x : Copy) : State := (s.modCopy k x.id fun y => { y with marked := [] }).copyMarks k x x.marked true

/-- COPY_COMPLETE (spec/08_copy.md R189, R193): every access is made and acknowledged, or a cancelled copy has become quiet, or an action that waited can
be made. -/
def State.copyDone (s : State) (k id : Nat) : State :=
  match (s.core k).copyOf id with
  | none => s
  | some x =>
    if !x.quiet then s
    else match x.st with
      | .running =>
        if !x.todo.isEmpty || !x.marked.isEmpty then s
        else (s.dropLines k fun l => x.dstHulls.any fun h => s.inRangeOf x.job h l).endCopy k x 1 true
      | .cancelling => if x.marked.isEmpty then s.endCopy k x 8 false else s.fillMarks k x
      | .acting status => s.tryAction k x status
      | _ => s

/-- `COPY_COMPLETE`. -/
def execCopyComplete (k id : Nat) (s : State) : Host.Outcome State Fault Refusal := .next (s.copyDone k id)

/-- COPY_FAIL (spec/08_copy.md R191): the record, then the end with status FAIL and the cause. A failed address that has no translation names no target:
its PEER is 0xFFFF_FFFF (DESIGN CHOICE, notes/assumptions/93.md). -/
def State.copyFailed (s : State) (k id : Nat) : State :=
  match (s.core k).copyOf id with
  | none => s
  | some x =>
    match x.st with
    | .failing cause va wr n =>
      if !x.quiet then s
      else if !x.marked.isEmpty then s.fillMarks k x
      else
        let peer := match s.copyTarget k x va (if wr then .write else .read) true with
          | .ok t => peerOf t.ep t.place
          | _ => 0xFFFFFFFF
        let s := s.appendErr x.job
          { addr := va, time := BitVec.ofNat 64 (s.coreTime k), peer := BitVec.ofNat 32 peer, cause := BitVec.ofNat 16 cause
            kind := if wr then 5 else 4, size := BitVec.ofNat 8 n, src := BitVec.ofNat 16 k, cls := BitVec.ofNat 16 x.cls.toNat
            incarn := BitVec.ofNat 32 x.incarn.toNat }
        s.endCopy k x (BitVec.ofNat 16 (4 + cause * 256)) true
    | _ => s

/-- `COPY_FAIL`. -/
def execCopyFail (k id : Nat) (s : State) : Host.Outcome State Fault Refusal := .next (s.copyFailed k id)

/-! Transfer tags (spec/08_copy.md R194 to R196). -/

/-- Whether a tag of a mask is busy. -/
def Core.maskBusy (c : Core) (m : XWord) : Bool := decide (c.tagBusy &&& m ≠ 0)

/-- The word for a found tag, 64 for none. -/
def foundWord (t : Option Nat) : XWord := BitVec.ofNat 64 (t.getD 64)

/-- Write a found tag and move ROT past it, or write 64. -/
def Core.foundTag (c : Core) (rd : BitVec 5) (t : Option Nat) : Core :=
  let c : Core := match t with
    | some u => c.modCtx fun x => { x with rot := BitVec.ofNat 6 (u + 1) }
    | none => c
  c.setX rd (foundWord t)

/-- `tag.wany`. -/
def execTagWany (rd : BitVec 5) (sa : Src) (s : State) : Host.Outcome State Fault Refusal :=
  let m := s.c.x sa.n
  let t := firstTag s.c.ctx.rot (m &&& s.c.ctx.tags)
  perform s (checked s (srcGates s.c (src1 sa) ++ [destGate s.c rd])
    (if t.isSome || !s.c.maskBusy m then (s.modC fun c => c.foundTag rd t).logResult s.cur (foundWord t)
     else s.modC fun c => (c.modCtx fun x => { x with wany := x.wany ++ [⟨c.destKey rd, m⟩] }).setEmptyKey (c.destKey rd)))

/-- `tag.wall`. -/
def execTagWall (sa : Src) (s : State) : Host.Outcome State Fault Refusal :=
  perform s (checked s (srcGates s.c (src1 sa) ++ [waitUntil (!s.c.maskBusy (s.c.x sa.n))]) s)

/-- `tag.ffr`. -/
def execTagFfr (rd : BitVec 5) (sa : Src) (s : State) : Host.Outcome State Fault Refusal :=
  let t := firstTag s.c.ctx.rot (s.c.x sa.n &&& s.c.ctx.tags)
  perform s (checked s (srcGates s.c (src1 sa) ++ [destGate s.c rd]) ((s.modC fun c => c.foundTag rd t).logResult s.cur (foundWord t)))

/-- `tag.clr`. -/
def execTagClr (sa : Src) (s : State) : Host.Outcome State Fault Refusal :=
  let m := s.c.x sa.n
  perform s (checked s (srcGates s.c (src1 sa)) (s.modC fun c => c.modCtx fun x => { x with tags := x.tags &&& ~~~(m &&& ~~~c.tagBusy) }))

/-- The status word of a tag (spec/08_copy.md R194). -/
def Core.tagWord (c : Core) (t : Nat) : XWord := (Map.get 0 c.tagStat t).setWidth 64 ||| (if c.busy t then 2 else 0)

/-- `tag.test`. -/
def execTagTest (rd : BitVec 5) (sa : Src) (s : State) : Host.Outcome State Fault Refusal :=
  let v := s.c.tagWord (fieldOf (s.c.x sa.n) 0 6)
  perform s (checked s (srcGates s.c (src1 sa) ++ [destGate s.c rd]) ((s.modC fun c => c.setX rd v).logResult s.cur v))

end Sys2Proof.Machine
end

