-- ==== Sys2Proof/Machine/Tasks.lean ====
section
/-! DEFINITION. Tasks, counters, cluster barriers, the floor and stamps (spec/11_tasks.md R250 to R273), stealing, and the replies of counters. -/

namespace Sys2Proof.Machine

/-- The task fault when a condition holds (spec/11_tasks.md R273). Log: DEDUCED, notes/assumptions/62.md. -/
def taskIf (b : Bool) (reason : Nat) : Gate := trapIf b 21 (BitVec.ofNat 64 (reason * 2 ^ 60))

/-! Fork (spec/11_tasks.md R255, R256). -/

/-- A task the running activation of a core pushes: its stamp, its parent, its job. -/
def Core.newTask (c : Core) (w arg : XWord) : Task :=
  let a := c.act.getD {}
  { word := w, arg := arg, stamp := stampOut a.desc c.ctx, parent := if a.kind = .task then a.task.tid else 0, parentCls := a.cls, job := a.job }

/-- `fork`. -/
def execFork (sa sb : Src) (s : State) : Host.Outcome State Fault Refusal :=
  let w := s.c.x sa.n
  perform s (checked s
    (srcGates s.c (src2 sa sb) ++
      [msgIf (!s.addressable s.c.jobNum (taskClass w)) 1 (taskClass w).toNat,
       trapIf (decide ((taskEntry w).toNat % 4 ≠ 0)) 4 ((taskEntry w).setWidth 64), taskIf (decide (56 ≤ s.c.dequeUsed)) 1, goodGate s.c,
       s.releaseGate 3])
    (s.pushTask s.cur (s.c.newTask w (s.c.x sb.n))))

/-! Counters (spec/11_tasks.md R257 to R262). -/

/-- The address checks of a counter record. -/
def State.recordGates (s : State) (a : XWord) : List Gate :=
  let t := s.target s.cur a 32 .atomic
  [s.checkGate s.cur a 32 .atomic, trapIf (decide (t.region = .host) || decide (t.region = .peer)) 7 (accTval a .atomic 6)]

/-- The L1 holds the line of a record no longer when the record's home is to act on it. Log: DEDUCED, notes/assumptions/66.md. -/
def State.uncacheGate (s : State) (line : Nat) : Gate :=
  if (s.c.l1Find line).isSome then .waitWith (s.dropLines s.cur fun x => decide (x.line = line)) else s.ownDirtyGate line

/-- `jc.init` and `dep.init`. Log: DEDUCED, notes/assumptions/66.md. -/
def State.counterInit (s : State) (kind : Nat) (sa sb : Src) : Ans :=
  let a := s.c.x sa.n
  let n := (s.c.x sb.n).toNat
  checkedThen s (srcGates s.c (src2 sa sb) ++ s.recordGates a ++
      [taskIf (decide (n = 0) || decide (2 ^ 32 ≤ n)) 2, goodGate s.c, s.releaseGate 3, s.meetGate (plainSpan s.cur a 8 true)]) fun _ =>
    let t := s.target s.cur a 32 .atomic
    let w := kind * 2 ^ 62 + n
    let off := t.place % 128
    let s1 := s.tlbTouch s.cur t.page t.size
    checkedThen s [s.dirtyGate (plainSpan s.cur a 8 true) [lineOf t.place]] fun _ =>
    if t.region = .own then .done ((s1.store t.place 8 w).unlogSaved s.cur (a.toNat / 128))
    else
      checked s [s.uncacheGate (lineOf t.place), s.postGate 8]
        (s1.postLine { va := a, line := lineOf t.place, mask := byteMask off 8, data := BitVec.ofNat 1024 (w * 2 ^ (8 * off)), lo := a.toNat
                       hi := a.toNat + 7, ep := t.ep })

/-- `jc.init`. -/
def execJcInit (sa sb : Src) (s : State) : Host.Outcome State Fault Refusal := perform s (s.counterInit 1 sa sb)
/-- `dep.init`. -/
def execDepInit (sa sb : Src) (s : State) : Host.Outcome State Fault Refusal := perform s (s.counterInit 2 sa sb)

/-- TVAL of the dependency underflow. -/
def underTval (reason : Nat) (a : XWord) : XWord := BitVec.ofNat 64 (reason * 2 ^ 60 + a.toNat % 2 ^ 48)

/-- A record of KIND 10: a continuation or push discarded (spec/11_tasks.md R261). -/
def State.discardCounter (s : State) (k : Nat) (va : XWord) : State := s.actErr 10 k ((s.core k).act.getD {}) va 0

/-- The continuation's class and handler can be reached, and its LEN is 0 or 8. -/
def State.canContinue (s : State) (job : Nat) (w : XWord) : Bool :=
  (decide (ctlLen w = 0) || decide (ctlLen w = 8)) && s.reachable job (ctlClass w) && (s.handler (ctlClass w) (ctlSel w)).isSome

/-- The continuation message of a join (spec/11_tasks.md R261); for class 0 the key's translation, if it has one. -/
def State.joinMsg (s : State) (k : Nat) (w key d : XWord) : Msg :=
  let c := s.core k
  let a := c.act.getD {}
  let m := a.message k c.ctx (ctlClass w) (ctlSel w) 0 (if ctlLen w = 8 then leBytes 8 d.toNat else [])
  { m with key := key
           pa := if ctlClass w = 0 then s.hostAddr0 a.job key else none }

/-- Whether nothing of a core is on its way but what its copies wrote and decrements whose own send or push is due. Log: DEDUCED,
notes/assumptions/71.md. -/
def Core.releasedAct (c : Core) : Bool :=
  !c.l1Dirty && (c.out.all fun a => match a.st with | .acting _ _ _ _ => true | _ => false) && c.posted.all fun p => p.copy.isSome

/-- A decrement that reached zero acts on its core once the release of its send or push is done and there is room, and its access completes
(spec/11_tasks.md R251, R261, R262, spec/16_model.md R377). Log: DEDUCED, notes/assumptions/71.md; DESIGN CHOICE, notes/assumptions/126.md. -/
def State.tryAct (s : State) (k : Nat) (a : Access) : State :=
  match a.st with
  | .acting kind d1 d2 d3 =>
    let job := (s.core k).jobNum
    if !(s.core k).releasedAct then (if (s.core k).l1Dirty then s.writeBackIf k fun _ => true else s)
    else match kind with
    | .arrive =>
      let m := s.joinMsg k d1 d2 d3
      if !s.canContinue job d1 || (decide (ctlClass d1 = 0) && m.pa.isNone) then (s.discardCounter k a.va).accessGood k a 0
      else if s.retainRoom k (retainBytes m.len) && !s.resendAhead k m then (s.sendMsg k m (retainBytes m.len)).accessGood k a 0
      else s
    | _ =>
      if !s.addressable job (taskClass d1) then (s.discardCounter k a.va).accessGood k a 0
      else if (s.core k).dequeUsed < 64 then (s.pushTask k ((s.core k).newTask d1 d2)).accessGood k a 0
      else s
  | _ => s

/-- `jc.arrive`, `dep.dec` and `dep.read` after the source is read (spec/11_tasks.md R260). Log: DEDUCED, notes/assumptions/71.md. -/
def State.counterAns (s : State) (kind : CtrKind) (sa : Src) (rd : BitVec 5) : Ans :=
  let a := s.c.x sa.n
  let k := s.cur
  let c := s.c
  let read := decide (kind = .read)
  checkedThen s (srcGates c (src1 sa) ++ s.recordGates a ++
      [goodGate c, if read then destGate c rd else s.releaseGate 3, s.meetGate (plainSpan k a 32 (!read))]) fun _ =>
    let t := s.target k a 32 .atomic
    let s1 := s.tlbTouch k t.page t.size
    let key := if read then c.destKey rd else 0
    let acc : Access :=
      { id := 0, dest := if read then .x key 64 false else .none, va := a, lo := a.toNat, hi := a.toNat + 31, writes := !read
        here := decide (t.region ≠ .own) && ownPad k t.place, line := some (lineOf t.place), oldX := c.regAt key }
    checkedThen s [if read then .go else s.dirtyGate (plainSpan k a 32 true) [lineOf t.place]] fun _ =>
    if t.region = .own then
      let r := (s1.logLine k (a.toNat / 128)).counterAt t.place kind
      checkedThen s [waitUntil (c.lineFull a.toNat), s.padEccGate a] fun _ =>
        let st : AccState := .answered kind r.2.1 r.2.2.1 r.2.2.2.1 r.2.2.2.2.1 r.2.2.2.2.2.1 r.2.2.2.2.2.2
        let s2 := if read then r.1 else r.1.unlogSaved k (a.toNat / 128)
        .done ((s2.startAccess { acc with st := st }).modC fun c => c.setEmptyKey key)
    else
      checked s [s.uncacheGate (lineOf t.place), s.retainGate 16]
        ((((s1.logHere t.place).startAccess acc).modC fun c => c.setEmptyKey key).send
          { src := k, dst := t.ep, len := 16, retain := some (retainBytes 16), job := c.jobNum
            body := .counter { core := k, acc := s.nextId, kind := kind, addr := t.place, va := a, job := c.jobNum, stamp := c.ctx.entryStamp } })

/-- `jc.arrive`. -/
def execJcArrive (sa : Src) (s : State) : Host.Outcome State Fault Refusal := perform s (s.counterAns .arrive sa 0)
/-- `dep.dec`. -/
def execDepDec (sa : Src) (s : State) : Host.Outcome State Fault Refusal := perform s (s.counterAns .dec sa 0)
/-- `dep.read`. -/
def execDepRead (rd : BitVec 5) (sa : Src) (s : State) : Host.Outcome State Fault Refusal := perform s (s.counterAns .read sa rd)

/-- The answer of a counter operation reaches its core (spec/11_tasks.md R260, R261): an underflow, a zero that acts, or DW0 for `dep.read`. -/
def State.counterAnswer (s : State) (k : Nat) (a : Access) (kind : CtrKind) (under : Nat) (val : XWord) (zero : Bool) (d1 d2 d3 : XWord) : State :=
  if under ≠ 0 then s.accessFailed k a.id (.underflow under)
  else if zero && decide (kind ≠ .read) then
    let st : AccState := .acting kind d1 d2 d3
    (s.modCore k fun c => { c with out := c.out.map fun b => if b.id = a.id then { b with st := st } else b }).tryAct k { a with st := st }
  else s.accessGood k a val.toNat

/-- COUNTER_REPLY at the core (spec/11_tasks.md R260, R261). -/
def State.counterReplyIn (s : State) (k : Nat) (p : Packet) (acc fail under : Nat) (val : XWord) (zero : Bool) (d1 d2 d3 : XWord) (kind : CtrKind) : State :=
  let s := s.latAdd k p
  match (s.core k).out.find? fun a => decide (a.id = acc) with
  | none => s
  | some a =>
    if a.st ≠ .pending then s
    else if fail ≠ 0 then s.accessFailed k acc (.failed fail)
    else (s.seenAccess k a p.id).counterAnswer k a kind under val zero d1 d2 d3

/-! Cluster barriers (spec/11_tasks.md R263 to R266). -/

/-- Barrier `n` of a cluster. -/
def State.bar (s : State) (g n : Nat) : Bar := Map.get {} (s.cluster g).bars n
/-- Change a barrier. -/
def State.modBar (s : State) (g n : Nat) (f : Bar → Bar) : State := s.modCluster g fun c => { c with bars := Map.put c.bars n (f (s.bar g n)) }

/-- Whether a core is no party of a barrier for its job. Log: DEDUCED, notes/assumptions/67.md. -/
def State.noParty (s : State) (n : Nat) : Bool :=
  let b := s.bar (coreCluster s.cur) n
  !b.en || decide (b.job.toNat ≠ s.c.jobNum) || !b.parties.getLsbD (coreK s.cur)

/-- `bar.arrive`. -/
def execBarArrive (rd : BitVec 5) (n : BitVec 4) (s : State) : Host.Outcome State Fault Refusal :=
  let g := coreCluster s.cur
  let i := coreK s.cur
  let b := s.bar g n.toNat
  let first := !b.arrived.getLsbD i
  let v : XWord := (bb (if first then b.phase else !b.phase)).setWidth 64
  perform s (checked s
    [taskIf (s.noParty n.toNat) 3, waitUntil (!b.pending.getLsbD i), destGate s.c rd, goodGate s.c, s.releaseGate 1]
    (((s.modBar g n.toNat fun b =>
        if first then { b with arrived := b.arrived ||| (1 <<< i) } else { b with pending := b.pending ||| (1 <<< i) }).modC
      fun c => c.setX rd v).logResult s.cur v))

/-- `bar.wait`. -/
def execBarWait (sa : Src) (n : BitVec 4) (s : State) : Host.Outcome State Fault Refusal :=
  let b := s.bar (coreCluster s.cur) n.toNat
  perform s (checked s
    (srcGates s.c (src1 sa) ++ [taskIf (s.noParty n.toNat) 3, waitUntil (decide (b.phase ≠ (s.c.x sa.n).getLsbD 0))]) (s.acquire 1))

/-- BARRIER_PHASE_COMPLETE (spec/11_tasks.md R265): ARRIVED equals PARTIES, of which there is one at least. Log: DEDUCED, notes/assumptions/67.md;
DESIGN CHOICE, notes/assumptions/98.md. -/
def State.barComplete (s : State) (g n : Nat) : State :=
  let b := s.bar g n
  if b.en && decide (b.parties ≠ 0) && decide (b.arrived = b.parties) then
    (s.modBar g n fun b => { b with phase := !b.phase, arrived := b.pending, pending := 0 }).acceptCarve g n
  else s

/-- `BARRIER_PHASE_COMPLETE`. -/
def execBarrierPhaseComplete (g n : Nat) (s : State) : Host.Outcome State Fault Refusal := .next (s.barComplete g n)

/-! Stamps and the floor (spec/11_tasks.md R267 to R271). -/

/-- Whether the activation that runs is one of Fleiz: what a control core runs, or of a class that Fleiz owns (spec/01_machine.md R7, spec/10_actors.md
R226). Log: DEDUCED, notes/assumptions/123.md. -/
def State.byFleiz (s : State) : Bool :=
  isControl s.cur || (match s.c.act with | some a => decide (1 ≤ a.cls.toNat) && decide (a.cls.toNat < 64) | none => false)

/-- `floor.wait` (spec/11_tasks.md R271). -/
def execFloorWait (sa : Src) (s : State) : Host.Outcome State Fault Refusal :=
  let v : BitVec 32 := (s.c.x sa.n).setWidth 32
  let j := s.job s.c.jobNum
  perform s (checked s
    (srcGates s.c (src1 sa) ++ [taskIf (!s.byFleiz && decide (s.c.ctx.entryStamp ≤ v)) 5, waitUntil (j.floorEmpty || decide (v < j.floorMin))]) (s.acquire 3))

/-- `stamp.set`. -/
def execStampSet (sa : Src) (s : State) : Host.Outcome State Fault Refusal :=
  let v : BitVec 32 := (s.c.x sa.n).setWidth 32
  perform s (checked s (srcGates s.c (src1 sa) ++ [taskIf (decide (v < s.c.ctx.entryStamp)) 4])
    (s.modC fun c => c.modCtx fun x => { x with stamp := v }))

/-- The stamps a core holds for a job's outstanding work (spec/11_tasks.md R269). -/
def Core.stampsOf (c : Core) (job : Nat) : List (BitVec 32) :=
  (match c.act with | some a => if a.job = job then [c.ctx.entryStamp] else [] | none => [])
    ++ (c.saved.filter fun x => decide (x.act.job = job)).map (·.ctx.entryStamp)
    ++ (c.posted.filter fun p => decide (p.job = job)).map (·.stamp)
    ++ (c.l1.filter fun x => decide (x.dirty ≠ 0) && decide (x.job = job)).map (·.stamp)
    ++ (c.copies.filter fun x => decide (x.job = job)).flatMap (fun x => if x.plain then [x.entryStamp] else [x.entryStamp, x.stamp])
    ++ (c.deque.filter fun t => decide (t.job = job)).map (·.stamp)
    ++ (c.inbox.filter fun x => decide (x.msg.job = job) && !x.running).map (·.msg.stamp)

/-- The stamps of a job's messages between cores, of atomics and counter operations on their way (spec/16_model.md R378), and of its creations: a pin on
its way creates its actor (spec/09_messages.md R198). -/
def State.stampsBetween (s : State) (job : Nat) : List (BitVec 32) :=
  let req (r : AReq) : List (BitVec 32) := if r.job = job ∧ r.kind = .pin then [r.stamp] else []
  let msg (b : Body) : List (BitVec 32) := match b with
    | .msg m => if m.job = job then [m.stamp] else []
    | .areq r => req r
    | .atomic r => if r.job = job then [r.stamp] else []
    | .counter r => if r.job = job then [r.stamp] else []
    | _ => []
  s.net.flatMap (fun p => msg p.body)
    ++ s.eps.flatMap (fun e => (e.2.retain.flatMap fun r => msg r.pkt.body) ++ e.2.streams.flatMap fun x => x.2.held.flatMap fun p => msg p.body)
    ++ s.clusters.flatMap (fun c =>
      (c.2.hold.flatMap fun w => match w with | .msg m _ => msg (.msg m) | .req r => req r)
        ++ (c.2.flow.filter fun e => decide (e.job = job) && decide (e.st = .activating)).map (·.initStamp))
    ++ (s.redel.filter fun r => decide (r.msg.job = job)).map (·.msg.stamp)

/-- The stamps of a job's outstanding work. -/
def State.outstanding (s : State) (job : Nat) : List (BitVec 32) := (s.cores.flatMap fun c => c.2.stampsOf job) ++ s.stampsBetween job

/-- FLOOR_PUBLISH (spec/11_tasks.md R270), at each tick that is a multiple of 64. Log: DESIGN CHOICE, notes/assumptions/98.md. -/
def State.publishFloor (s : State) : State :=
  if s.dtime < s.nextFloor then s
  else
    { s with
      nextFloor := (s.dtime / 64 + 1) * 64
      jobs := s.jobs.map fun j =>
        let l := s.outstanding j.1
        (j.1, { j.2 with floorEmpty := l.isEmpty, floorMin := l.foldl (fun m x => if x < m then x else m) 0xFFFFFFFF }) }

/-- `FLOOR_PUBLISH`. -/
def execFloorPublish (s : State) : Host.Outcome State Fault Refusal := .next s.publishFloor

/-! Stealing (spec/11_tasks.md R253). -/

/-- Whether core `k` may take a task of core `v`. -/
def State.stealable (s : State) (k v : Nat) (t : Task) : Bool :=
  let j := s.job t.job
  let near := if coreCluster v = coreCluster k then 1 else if coreDie v = coreDie k then 2 else 3
  decide (v ≠ k) && j.cset.getLsbD (coreCluster k) && decide (near ≤ j.steal.toNat) && decide (t.readyAt ≤ s.dtime) && s.mayStart k t.job

/-- Router distance of two cores. -/
def coreDist (k v : Nat) : Nat :=
  let a := coreCluster k
  let b := coreCluster v
  (max (clx a) (clx b) - min (clx a) (clx b)) + (max (cly a) (cly b) - min (cly a) (cly b))

/-- The victim: the next core of the cluster after the thief's own index, else the nearest core of the die, else of the device, ties to the lower
core id. Log: DESIGN CHOICE, notes/assumptions/116.md. -/
def State.victim (s : State) (k : Nat) : Option Nat :=
  let has (v : Nat) : Bool := (s.core v).deque.any (s.stealable k v)
  let mates := (List.range 7).map fun i => clusterCore (coreCluster k) ((coreK k + 1 + i) % 8)
  match mates.find? has with
  | some v => some v
  | none =>
    let best (ok : Nat → Bool) : Option Nat :=
      (s.cores.map (·.1)).foldl (fun (b : Option Nat) v =>
        if !(ok v && has v) then b
        else match b with
          | some x => if coreDist k v < coreDist k x ∨ (coreDist k v = coreDist k x ∧ v < x) then some v else b
          | none => some v) none
    match best fun v => decide (coreDie v = coreDie k) with
    | some v => some v
    | none => best fun _ => true

/-- The entry a thief takes: the least priority and RANK, the oldest of equals. Log: DEDUCED, notes/assumptions/68.md. -/
def State.loot (s : State) (k v : Nat) : Option Task :=
  ((s.core v).deque.filter (s.stealable k v)).foldl (fun (b : Option Task) t =>
    match b with
    | none => some t
    | some x =>
      let p := s.taskPrio t.word
      let q := s.taskPrio x.word
      if p < q ∨ (p = q ∧ taskRank t.word < taskRank x.word) then some t else b) none

/-- STEAL: a core between activations with no candidate takes a task and starts it. Log: DEDUCED, notes/assumptions/68.md. -/
def State.stealStep (s : State) (k : Nat) : State :=
  if !s.between k || (s.candidate k).isSome then s
  else match s.victim k with
    | none => s
    | some v =>
      match s.loot k v with
      | none => s
      | some t =>
        let s := s.modCore v fun c => { c with deque := c.deque.filter fun x => decide (x.tid ≠ t.tid) }
        (s.modCore k fun c => { c with count := { c.count with steals := c.count.steals + 1 } }).startTask k t

/-- `STEAL`. -/
def execSteal (k : Nat) (s : State) : Host.Outcome State Fault Refusal := .next (s.stealStep k)

end Sys2Proof.Machine
end

