-- ==== Sys2Proof/Machine/Arrive.lean ====
section
/-! DEFINITION. What a packet does where it arrives: acceptance at cores, homes, arrays, L2 slices, the host port and fabric peers, and the
network's events (spec/06_memory.md R133 to R143, spec/09_messages.md R210, R219 to R221, spec/17_network.md R402 to R410). -/

namespace Sys2Proof.Machine

/-! Refused and returned messages (spec/09_messages.md R210, R220, R221, spec/18_frontend.md R433). -/

/-- The wait before a resend after `n` refusals. -/
def resendWait (n : Nat) : Nat := min (256 * 2 ^ (n - 1)) 8000

/-- Change the retain entry of a number. -/
def State.modRetain (s : State) (ep rtag gen : Nat) (f : Retain → Retain) : State :=
  s.modEp ep fun e => { e with retain := e.retain.map fun r => if r.rtag = rtag ∧ r.gen = gen then f r else r }

/-- Put one copy of a multicast into a retain entry of its own, so that it alone is sent again; it keeps the multicast's charge (spec/09_messages.md
R207). Log: DEDUCED, notes/assumptions/16.md. -/
def State.splitRetain (s : State) (ep : Nat) (r : Retain) (q : Packet) : State × Nat × Nat :=
  if r.pkt.legs.isEmpty then (s, r.rtag, r.gen)
  else
    let s := s.freeRetain ep r.rtag r.gen q.dst q.seq
    let e := s.ep ep
    let tag := e.freeTag
    let gen := Map.get 0 e.gens tag % 256
    (s.modEp ep fun e =>
      { e with
        retain := e.retain ++ [{ rtag := tag, gen := gen, bytes := r.bytes, pkt := { q with legs := [], rtag := tag, gen := gen }, born := r.born
                                 order := r.order, leg := (r.pkt.copies.findIdx? fun x => decide (x.dst = q.dst) && decide (x.seq = q.seq)).getD 0 }]
        gens := Map.put e.gens tag (gen + 1) }, tag, gen)

/-- Whether a message of an entry's pair that was sent before it has yet to be sent again, or may have (spec/09_messages.md R220, R223): it waits, or
it was last sent before the entry's own last sending and has not been answered. Log: DEDUCED, notes/assumptions/72.md. -/
def Endpoint.olderFirst (e : Endpoint) (r : Retain) (m : Msg) : Bool :=
  (e.unsettled m).any fun u =>
    (decide (u.order < r.order) || (decide (u.order = r.order) && decide (u.leg < r.leg))) && (u.waits || decide (u.pid < r.pkt.id))

/-- A message is to be sent again after its back-off; a part of a host queue holds no room until then (spec/17_network.md R401). Log: DEDUCED,
notes/assumptions/72.md. -/
def State.planResend (s : State) (ep : Nat) (r : Retain) (q : Packet) : State :=
  let (s, tag, gen) := s.splitRetain ep r q
  s.modRetain ep tag gen fun r =>
    { r with refusals := r.refusals + 1, resendAt := some (s.dtime + resendWait (r.refusals + 1)), bytes := if ep = epHost then 0 else r.bytes }

/-- A refusal counts at the core whose sender receives it (spec/19_debug.md R457). -/
def State.countRefused (s : State) (ep : Nat) : State :=
  if epIsCore ep then s.modCore ep fun c => { c with count := { c.count with refused := c.count.refused + 1 } } else s

/-- REFUSAL_ARRIVAL, and the refusal of a host part: an actor's message is released; a task's, a copy's or a host queue's is sent again. The refusal of
a part is an event for a front-end core, and the core that dispatches the queue injects no more (spec/18_frontend.md R433, R434). -/
def State.refusalIn (s : State) (ep rtag gen src seq : Nat) : State :=
  match s.retained ep rtag gen with
  | none => s
  | some r =>
    match r.copyFor src seq with
    | none => s
    | some q =>
      let s := s.countRefused ep
      match q.msg? with
      | some m =>
        match m.stream with
        | .core _ => s.planResend ep r q
        | .queue n =>
          ({ s.planResend ep r q with feEvents := s.feEvents ++ [FeEvent.refused n rtag gen] }.modQueue n fun x => { x with lock := none }).stopIdle n
        | _ => s.freeRetain ep rtag gen src seq
      | none => s.freeRetain ep rtag gen src seq

/-- A returned reply is sent again after the back-off (spec/09_messages.md R210). -/
def State.returnedIn (s : State) (ep rtag gen : Nat) : State :=
  match s.retained ep rtag gen with
  | none => s
  | some r => s.planResend ep r r.pkt

/-- Send a refused or returned message again: RESUME is set on the first that is resent of a refused pair, none of which has been since the message was
refused (spec/09_messages.md R220). -/
def State.sendAgain (s : State) (ep : Nat) (r : Retain) (m : Msg) : State :=
  let first := !m.exempt && !(s.ep ep).resumedAfter m r.pkt.id
  let pair := m.pair
  let m := { m with flags := if first then m.flags ||| 1 else m.flags }
  let id := s.nextId
  let s := s.modEp ep fun e =>
    { e with retain := e.retain.filter (fun x => decide (x.rtag ≠ r.rtag))
             resumed := if first then (pair, id) :: e.resumed.filter (fun x => decide (x.1 ≠ pair)) else e.resumed }
  let tag := (s.ep ep).freeTag
  let s := s.sendMsg ep m (retainBytes m.len) r.pkt.cls
  s.modEp ep fun e =>
    { e with retain := e.retain.map fun x =>
        if x.rtag = tag then { x with refusals := r.refusals, order := r.order, leg := r.leg, bytes := if ep = epHost then x.bytes else r.bytes, slot := r.slot } else x }

/-- HARDWARE_RESEND (spec/09_messages.md R220, R221, R223): the oldest refused message of its pair goes first, the later ones behind it in their order;
a core releases at device scope first, and a part of a host queue needs room, and waits for the front-end core that takes its refusal. Log: DEDUCED,
notes/assumptions/72.md. -/
def State.resend (s : State) (ep id : Nat) : State :=
  match (s.ep ep).retain.find? fun r => decide (r.rtag = id) with
  | none => s
  | some r =>
    match r.resendAt, r.pkt.msg? with
    | some t, some m =>
      if s.dtime < t || (s.ep ep).olderFirst r m then s
      else if epIsCore ep then
        match s.releaseStep ep with
        | some s' => s'
        | none => s.sendAgain ep r m
      else if ep = epHost ∧ (!s.retainRoom ep (retainBytes m.len) ∨ s.feEvents.contains (.refused m.skey.toNat r.rtag r.gen)) then s
      else s.sendAgain ep r m
    | _, _ => s

/-! Acknowledgements (spec/17_network.md R402). -/

/-- A part of a host queue has been accepted at its home (spec/18_frontend.md R432). -/
def State.partAccepted (s : State) (q id : Nat) : State :=
  (s.modQueue q fun x => { x with open_ := x.open_.map fun p => if p.id = id then { p with accepted := p.accepted + 1 } else p }).settleQueue q

/-- A posted operation has been performed or has failed: a core's, or a write of a slice's transfer. -/
def State.postedEnd (s : State) (ep : Nat) (p : Posted) (fail : Nat) : State :=
  if epIsHome ep then s.xferAcked (ep - 0x2000) p.id else if epRuns ep then s.postedDone p fail else s

/-- A freed retain entry of a slice makes room for the header writes of its transfers. -/
def State.roomFreed (s : State) (ep : Nat) : State := if epIsHome ep then s.xferNext (ep - 0x2000) else s

/-- An acknowledgement reaches the holder: the entry is freed; a posted operation is complete; a host part counts for its packet. -/
def State.ackIn (s : State) (ep rtag gen seq src fail : Nat) : State :=
  match s.retained ep rtag gen with
  | none => s
  | some r =>
    let s1 := s.freeRetain ep rtag gen src seq
    match r.pkt.body with
    | .posted p => s1.postedEnd ep p fail
    | .msg m => if ep = epHost then s1.partAccepted m.skey.toNat r.slot else s1.roomFreed ep
    | _ => s1.roomFreed ep

/-! Acceptance. -/

/-- A reply or a failure of a read: at a slice's transfer, at a core or at its copy engine. What a peer reads is the peer's. `moment`
is that of the reading. -/
def State.readDone (s : State) (ep : Nat) (r : ReadReq) (fail : Nat) (d : BitVec 1024) (moment : Nat) : State :=
  if epIsHome r.core then (s.xferRead r (if fail = 0 then d else 0)).xferNext (r.core - 0x2000)
  else if !epRuns r.core then s
  else if r.copy then s.copyReply r.core r fail d moment else s.readReply r.core ep r fail d moment

/-- A reply adds its delay to the core's latency counter, but that of a copy (spec/19_debug.md R456). -/
def State.delayed (s : State) (k : Nat) (p : Packet) (copy : Bool) : State := if epRuns k && !copy then s.latAdd k p else s

/-- The report of a discarded packet (spec/17_network.md R414): R135 cause 3 for reads and atomics, a failure for posted operations. -/
def State.unreachIn (s : State) (ep : Nat) (ent : Option (Nat × Nat)) (re : Option ReadReq) : State :=
  match re with
  | some r => s.readDone ep r 3 0 0
  | none =>
    match ent.bind fun x => s.retained ep x.1 x.2 with
    | none => s
    | some r =>
      let s1 := s.modEp ep fun e => { e with retain := e.retain.filter fun x => !(decide (x.rtag = r.rtag) && decide (x.gen = r.gen)) }
      match r.pkt.body with
      | .posted p => s1.postedEnd ep p 3
      | .atomic a => s1.accessFailed ep a.acc (.failed 3)
      | .counter a => s1.accessFailed ep a.acc (.failed 3)
      | _ => s1.roomFreed ep

/-- The move that the balancer's message asks for (spec/10_actors.md R240): of a live actor that is not pinned, has no move under way and is of no
stopped job (spec/19_debug.md R452). -/
def State.moveAsked (s : State) (g : Nat) (cls : BitVec 12) (key : XWord) (dst : Nat) : State :=
  match (s.cluster g).entryOf cls key with
  | some e => if e.st = .live ∧ e.moveTo.isNone ∧ !e.pin ∧ !(s.job e.job).stopping then s.startMove g e.id dst none else s
  | none => s

/-- An accepted packet (one destination) has its effect at its destination. -/
def State.acceptOne (s : State) (p : Packet) : State :=
  match p.body with
  | .msg m => s.homeMsg (p.dst - 0x2000) p m
  | .areq r => (s.homeReq (p.dst - 0x2000) r).ack p 0
  | .probeRep acc w =>
    match (s.core p.dst).out.find? fun a => decide (a.id = acc) with
    | some a => (s.delayed p.dst p false).accessGood p.dst a w.toNat
    | none => s.delayed p.dst p false
  | .read r => s.serveRead p.dst r p.cls none
  | .readRep r fail d => (s.delayed r.core p r.copy).readDone p.src r fail d p.id
  | .posted q => let (s1, f) := s.performPosted q; s1.ack p f
  | .atomic r => (s.serveAtomic p.dst r).ack p 0
  | .atomicRep acc fail old fl _ => (if epRuns p.dst then s.atomicReply p.dst p acc fail old fl else s).ack p 0
  | .counter r => (s.serveCounter p.dst r).ack p 0
  | .counterRep acc fail under val zero d1 d2 d3 kind _ =>
    (if epRuns p.dst then s.counterReplyIn p.dst p acc fail under val zero d1 d2 d3 kind else s).ack p 0
  | .ack rtag gen seq fail => s.ackIn p.dst rtag gen seq p.src fail
  | .refuse rtag gen seq => s.refusalIn p.dst rtag gen p.src seq
  | .returned rtag gen => s.returnedIn p.dst rtag gen
  | .whey _ _ _ _ _ => s.wheyIn p
  | .pull q =>
    match q.re with
    | none => s.answerPull p q
    | some r => s.serveRead p.dst r 1 (some q.seq)
  | .gone _ => s
  | .unreach ent re => s.unreachIn p.dst ent re
  | .done cls key eid => s.doneAtHome (p.dst - 0x2000) cls key eid
  | .move cls key dst => s.moveAsked (p.dst - 0x2000) cls key dst

/-- What a stream holds is accepted in SEQ order as far as no hole stands before it, each packet decided before the next leaves its hold place
(spec/17_network.md R407, R409). -/
def State.drain (s : State) (ep src : Nat) : Nat → State
  | 0 => s
  | fuel + 1 =>
    match ((s.ep ep).stream src true).next with
    | none => s
    | some (st, q) =>
      let s1 := s.putStream ep src true st
      (match q with | some p => s1.acceptOne p | none => s1).drain ep src fuel

/-- The held packets of a stream that may be accepted now are. -/
def State.drainAll (s : State) (ep src : Nat) : State := s.drain ep src ((s.ep ep).stream src true).steps

/-- An arriving packet (one destination) is accepted, and those of its stream held behind it after it, or is not (spec/17_network.md R407). -/
def State.acceptIn (s : State) (p : Packet) : State :=
  match s.streamIn p with
  | (s1, some q) => if q.inorder then (s1.acceptOne q).drainAll q.dst q.src else s1.acceptOne q
  | (s1, none) => s1

/-- A packet of a kind arrives whole at its end (spec/17_network.md R403, R405, R407); one that only crosses this node leaves it (R413). -/
def State.arrive (s : State) (pid : Nat) (again : Bool) (kind : Body → Bool) : State :=
  match s.packet pid with
  | none => s
  | some p =>
    if !(kind p.body && decide (p.again = again) && s.atEnd p) then s
    else if p.transit then s.takePacket p
    else p.copies.foldl State.acceptIn (s.takePacket p)

/-! The network's events. -/

/-- `READ_REQUEST` (spec/06_memory.md R120, R138). -/
def execReadRequest (pid : Nat) (s : State) : Host.Outcome State Fault Refusal :=
  .next (s.arrive pid false fun b => match b with | .read _ => true | _ => false)
/-- `LOAD_REPLY` (spec/06_memory.md R133). -/
def execLoadReply (pid : Nat) (s : State) : Host.Outcome State Fault Refusal :=
  .next (s.arrive pid false fun b => match b with | .readRep r _ _ => !r.copy | _ => false)
/-- `COPY_READ_REPLY` (spec/08_copy.md R185). -/
def execCopyReadReply (pid : Nat) (s : State) : Host.Outcome State Fault Refusal :=
  .next (s.arrive pid false fun b => match b with | .readRep r _ _ => r.copy | _ => false)
/-- `POSTED_OPERATION` (spec/06_memory.md R139). -/
def execPostedOperation (pid : Nat) (s : State) : Host.Outcome State Fault Refusal :=
  .next (s.arrive pid false fun b => match b with | .posted _ => true | _ => false)
/-- `ACKNOWLEDGEMENT` (spec/17_network.md R402). -/
def execAcknowledgement (pid : Nat) (s : State) : Host.Outcome State Fault Refusal :=
  .next (s.arrive pid false fun b => match b with | .ack _ _ _ _ => true | _ => false)
/-- `ATOMIC_REQUEST` (spec/06_memory.md R142). -/
def execAtomicRequest (pid : Nat) (s : State) : Host.Outcome State Fault Refusal :=
  .next (s.arrive pid false fun b => match b with | .atomic _ => true | _ => false)
/-- `ATOMIC_REPLY` (spec/06_memory.md R143). -/
def execAtomicReply (pid : Nat) (s : State) : Host.Outcome State Fault Refusal :=
  .next (s.arrive pid false fun b => match b with | .atomicRep _ _ _ _ _ => true | _ => false)
/-- `COUNTER_OPERATION` (spec/11_tasks.md R258, R260). -/
def execCounterOperation (pid : Nat) (s : State) : Host.Outcome State Fault Refusal :=
  .next (s.arrive pid false fun b => match b with | .counter _ => true | _ => false)
/-- `COUNTER_REPLY` (spec/11_tasks.md R261). -/
def execCounterReply (pid : Nat) (s : State) : Host.Outcome State Fault Refusal :=
  .next (s.arrive pid false fun b => match b with | .counterRep _ _ _ _ _ _ _ _ _ _ => true | _ => false)
/-- `HOME_MESSAGE_ARRIVAL` (spec/10_actors.md R232). -/
def execHomeMessageArrival (pid : Nat) (s : State) : Host.Outcome State Fault Refusal :=
  .next (s.arrive pid false fun b => match b with | .msg _ => true | _ => false)
/-- `ACTOR_REQUEST` (spec/10_actors.md R246). -/
def execActorRequest (pid : Nat) (s : State) : Host.Outcome State Fault Refusal :=
  .next (s.arrive pid false fun b => match b with | .areq _ => true | _ => false)
/-- `PROBE_REPLY` (spec/10_actors.md R246, R247). -/
def execProbeReply (pid : Nat) (s : State) : Host.Outcome State Fault Refusal :=
  .next (s.arrive pid false fun b => match b with | .probeRep _ _ => true | _ => false)
/-- `REFUSAL_ARRIVAL` (spec/09_messages.md R220), at a sender core or slice. -/
def execRefusalArrival (pid : Nat) (s : State) : Host.Outcome State Fault Refusal :=
  .next (match s.packet pid with
    | some p => if p.dst = epHost then s else s.arrive pid false fun b => match b with | .refuse _ _ _ => true | _ => false
    | none => s)
/-- `HOST_PART_REFUSAL` (spec/18_frontend.md R433). -/
def execHostPartRefusal (pid : Nat) (s : State) : Host.Outcome State Fault Refusal :=
  .next (match s.packet pid with
    | some p => if p.dst ≠ epHost then s else s.arrive pid false fun b => match b with | .refuse _ _ _ => true | _ => false
    | none => s)
/-- `RETURNED_REPLY` (spec/09_messages.md R210). -/
def execReturnedReply (pid : Nat) (s : State) : Host.Outcome State Fault Refusal :=
  .next (s.arrive pid false fun b => match b with | .returned _ _ => true | _ => false)
/-- `HARDWARE_RESEND` (spec/09_messages.md R221): the entry of a retain buffer, by its tag. -/
def execHardwareResend (ep id : Nat) (s : State) : Host.Outcome State Fault Refusal := .next (s.resend ep id)
/-- `ACTIVATION_DONE_AT_HOME` (spec/10_actors.md R235). -/
def execActivationDoneAtHome (pid : Nat) (s : State) : Host.Outcome State Fault Refusal :=
  .next (s.arrive pid false fun b => match b with | .done _ _ _ => true | _ => false)
/-- `MOVE_REQUEST` (spec/10_actors.md R240, R241). -/
def execMoveRequest (pid : Nat) (s : State) : Host.Outcome State Fault Refusal :=
  .next (s.arrive pid false fun b => match b with | .move _ _ _ => true | _ => false)

/-- `PACKET_HEAD_SWITCH` (spec/17_network.md R399). -/
def execPacketHeadSwitch (pid : Nat) (s : State) : Host.Outcome State Fault Refusal := .next (s.headSwitch pid)
/-- `WHEY_ARRIVAL` (spec/17_network.md R405): a whey waits while the hole table is full. -/
def execWheyArrival (pid : Nat) (s : State) : Host.Outcome State Fault Refusal :=
  .next (match s.packet pid with
    | some p =>
      match p.body with
      | .whey _ _ _ _ _ => if !s.atEnd p then s else if p.transit then s.takePacket p else p.copies.foldl (fun (s : State) q => s.wheyIn q) (s.takePacket p)
      | _ => s
    | none => s)
/-- `PULL` (spec/17_network.md R406). -/
def execPull (ep id : Nat) (s : State) : Host.Outcome State Fault Refusal := .next (s.sendPull ep id)
/-- `PULL_RECEIVED` (spec/17_network.md R406). -/
def execPullReceived (pid : Nat) (s : State) : Host.Outcome State Fault Refusal :=
  .next (s.arrive pid false fun b => match b with | .pull _ => true | _ => false)
/-- `RETRANSMISSION_ARRIVAL` (spec/17_network.md R406). -/
def execRetransmissionArrival (pid : Nat) (s : State) : Host.Outcome State Fault Refusal := .next (s.arrive pid true fun _ => true)

/-- A hole is given up: the read it stood for fails, those held behind it are accepted (spec/17_network.md R408). -/
def State.giveUpHole (s : State) (ep : Nat) (h : Hole) : State :=
  let s := s.abandon ep h
  let s := match h.re with
    | some q => s.readDone h.src q 4 0 0
    | none => s
  if h.inorder then s.drainAll ep h.src else s

/-- `GONE_REPORT` (spec/17_network.md R406, R408). -/
def execGoneReport (pid : Nat) (s : State) : Host.Outcome State Fault Refusal :=
  .next (match s.packet pid with
    | some p =>
      match p.body with
      | .gone hole =>
        if s.atEnd p then
          let s := s.takePacket p
          if p.transit then s
          else match (s.ep p.dst).holes.find? fun h => decide (h.id = hole) with
            | some h => s.giveUpHole p.dst h
            | none => s
        else s
      | _ => s
    | none => s)

/-- `HOLE_TIMEOUT` (spec/17_network.md R406, R408). -/
def execHoleTimeout (ep id : Nat) (s : State) : Host.Outcome State Fault Refusal :=
  .next (match (s.ep ep).holes.find? fun h => decide (h.id = id) with
    | some h => if h.born + Config.giveUp ≤ s.dtime ∧ s.giveUpRoom ep h then s.giveUpHole ep h else s
    | none => s)

/-- RETAIN_TIMEOUT (spec/17_network.md R408): the holder drops an entry, by its tag; what it held has failed; of a multicast each copy
that has not been accepted (spec/09_messages.md R207). -/
def State.retainOut (s : State) (ep id : Nat) : State :=
  match (s.ep ep).retain.find? fun r => decide (r.rtag = id) with
  | none => s
  | some r =>
    if s.dtime < r.born + Config.giveUp ∨ r.resendAt.isSome then s
    else
      let s := s.modEp ep fun e => { e with retain := e.retain.filter fun x => decide (x.rtag ≠ id) }
      match r.pkt.body with
      | .posted p => s.postedEnd ep p 4
      | .atomic a => s.accessFailed ep a.acc (.failed 4)
      | .counter a => s.accessFailed ep a.acc (.failed 4)
      | .msg _ =>
        (r.pkt.copies.filter fun q => !r.done.contains (q.dst, q.seq)).foldl (fun (s : State) q =>
          match q.msg? with | some m => s.msgErr 13 m (q.dst - 0x2000) | none => s) s
      | _ => s

/-- `RETAIN_TIMEOUT`. -/
def execRetainTimeout (ep id : Nat) (s : State) : Host.Outcome State Fault Refusal := .next (s.retainOut ep id)

/-- `UNREACH_REPORT` (spec/17_network.md R414). -/
def execUnreachReport (pid : Nat) (s : State) : Host.Outcome State Fault Refusal :=
  .next (s.arrive pid false fun b => match b with | .unreach _ _ => true | _ => false)

/-! Replies that do not come, and failing ones (spec/06_memory.md R135, R136). -/

/-- Whether an access still waits for another place: a line that has not come, or an atomic or counter operation. -/
def Access.remote (a : Access) : Bool := !a.probe && (a.parts.isEmpty || a.parts.any fun p => !p.own && p.got.isNone) && decide (a.st = .pending)

/-- REPLY_TIMEOUT: an access, by its identity, or the oldest unanswered read of a copy, by the copy's order number, is not answered within 1,000,000 ticks
(spec/06_memory.md R135, spec/08_copy.md R191). -/
def State.replyTimeout (s : State) (k id : Nat) : State :=
  match (s.core k).out.find? fun a => decide (a.id = id) with
  | some a => if a.remote && decide (a.issued + Config.giveUp ≤ s.dtime) then s.accessFailed k id (.failed 4) else s
  | none =>
    match (s.core k).copies.find? fun x => decide (x.order = id) with
    | some x =>
      match x.asked.find? fun q => decide (q.sent + Config.giveUp ≤ s.dtime) with
      | some q => (s.failCopy k x 4 (x.srcAt q.part) false (q.n * x.unit)).modCopy k x.id fun y => { y with asked := y.asked.filter fun r => decide (r.part ≠ q.part) }
      | none => s
    | none => s

/-- `REPLY_TIMEOUT`. -/
def execReplyTimeout (k id : Nat) (s : State) : Host.Outcome State Fault Refusal := .next (s.replyTimeout k id)

/-- The core goes back to an access (spec/06_memory.md R136), and the log of a captured activation with it (spec/19_debug.md R453). -/
def State.rollTo (s : State) (k : Nat) (a : Access) : State :=
  let n := a.instret.toNat
  (((s.undoShared k).dropWaits k).modCore k fun c => (c.rollback a).unlog n).dropSnaps (s.core k).uid n

/-- REMOTE_LOAD_FAILURE (spec/06_memory.md R136, spec/11_tasks.md R260): the oldest outstanding access has failed; the core rolls back to it and
traps. -/
def State.loadFailure (s : State) (k : Nat) : State :=
  let c := s.core k
  if c.finish.isSome || c.act.isNone || c.held.isSome then s
  else match c.out with
    | a :: _ =>
      match a.st with
      | .failed cause => (s.rollTo k a).takeTrap k 8 (BitVec.ofNat 64 (cause * 2 ^ 56 + a.va.toNat % 2 ^ 48))
      | .underflow r => (s.rollTo k a).takeTrap k 10 (underTval r a.va)
      | _ => s
    | [] => s

/-- `REMOTE_LOAD_FAILURE`. -/
def execRemoteLoadFailure (k : Nat) (s : State) : Host.Outcome State Fault Refusal := .next (s.loadFailure k)

/-- What a core fills by itself: the oldest timer read, parts of accesses to its own scratchpad whose lines are full, the answers of its
own counter records, and zero counters that waited for room (spec/11_tasks.md R251, R272, spec/06_memory.md R133). -/
def State.fillOwn (s : State) (k : Nat) : State :=
  let c := s.core k
  match c.out.find? fun a => a.parts.any fun p => p.own && p.got.isNone && c.lineFull (padOff p.line) with
  | some a =>
    let s := (a.parts.filter fun p => p.own && p.got.isNone && c.lineFull (padOff p.line)).foldl (fun s p => s.logLineAt k a.instret.toNat (padOff p.line / 128)) s
    let a' := { a with parts := a.parts.map fun p => if p.own && p.got.isNone && c.lineFull (padOff p.line) then { p with got := some (s.line p.line) } else p }
    let s := s.modCore k fun c => { c with out := c.out.map fun b => if b.id = a.id then a' else b }
    if a'.parts.all fun p => p.got.isSome then s.accessGood k a' a'.assemble else s
  | none =>
    match c.out.find? fun a => match a.st with | .answered _ _ _ _ _ _ _ => true | .acting _ _ _ _ => true | _ => false with
    | some a =>
      match a.st with
      | .answered kind under val zero d1 d2 d3 => s.counterAnswer k a kind under val zero d1 d2 d3
      | _ => let s' := s.tryAct k a; if (s'.core k).out.length < c.out.length then s' else s.fillTimer k
    | none => s.fillTimer k

/-! What comes from outside. -/

/-- Whether a message of a peer is one that its sender's checks let go (spec/09_messages.md R202) and that has come to its home. Log: DEDUCED,
notes/assumptions/79.md. -/
def State.foreignOk (s : State) (p : Packet) : Bool :=
  match p.body with
  | .msg m =>
    p.transit || decide (m.cls ≠ 0) && s.reachable m.job m.cls && (s.handler m.cls m.sel).isSome && decide (p.dst = epHome (s.msgHome m))
  | _ => true

/-- A packet of a peer stands at the port it enters by (spec/17_network.md R413, R415): that of its route, or, detoured, any (R414). One whose destination is
another peer is here because its route crosses this node. -/
def State.inbound (s : State) (port : Nat) (p : Packet) : State :=
  let q : Packet := { p with id := s.nextId, loc := .source, out := none, came := none }
  if decide (port < 16) && p.foreign && s.foreignOk p && (p.detour || (decide (s.entryPort q = port) && s.onRoute p)) then
    { s with net := s.net ++ [{ q with came := some port }], nextId := s.nextId + 1 }
  else s

/-- Fleiz sets up the trace of a job (spec/19_debug.md R448): a ring of 2^10 to 2^24 records, at a line of device memory. -/
def State.setTrace (s : State) (job : Nat) (t : Trace) : State :=
  if decide (10 ≤ t.log) && decide (t.log ≤ 24) && decide (t.base % 128 = 0) && decide (t.base + 32 * 2 ^ t.log ≤ 2 ^ 39) && (s.job job).live then
    s.modJob job fun j => { j with trace := { t with next := 0 } }
  else s

/-- Capture of classes is turned on, and off for the others, with the job's replay region (spec/19_debug.md R453). -/
def State.setCapture (s : State) (job base lines : Nat) (classes : List (BitVec 12)) : State :=
  if decide (base % 128 = 0) && decide (base + 128 * lines ≤ 2 ^ 39) && (s.job job).live then
    s.modJob job fun j => { j with capture := { classes := classes, base := base, lines := lines } }
  else s

/-- The register a word holds (spec/19_debug.md R450). -/
def Bp.ofWord (v : XWord) : Bp :=
  { en := v.getLsbD 63, anyc := v.getLsbD 62, job := v.extractLsb' 48 8, cls := v.extractLsb' 32 12, addr := v.extractLsb' 2 30 }

/-- Fleiz writes breakpoint register `n` of a cluster. -/
def State.writeBp (s : State) (g n : Nat) (v : XWord) : State :=
  if g < 768 ∧ n < 16 then s.modCluster g fun c => { c with bps := Map.put c.bps n (Bp.ofWord v) } else s

/-- The event counters of a core in the table's order (spec/19_debug.md R457). -/
def Counters.read (c : Counters) (n : Nat) : BitVec 64 :=
  match n with
  | 0 => c.acts | 1 => c.steals | 2 => c.refused | 3 => c.logstall | 4 => c.bankx | 5 => c.retwait | 6 => c.msteps | 7 => c.capstall | _ => c.trdrop

/-- One of them is cleared. -/
def Counters.clear (c : Counters) (n : Nat) : Counters :=
  match n with
  | 0 => { c with acts := 0 } | 1 => { c with steals := 0 } | 2 => { c with refused := 0 } | 3 => { c with logstall := 0 } | 4 => { c with bankx := 0 }
  | 5 => { c with retwait := 0 } | 6 => { c with msteps := 0 } | 7 => { c with capstall := 0 } | _ => { c with trdrop := 0 }

/-- What comes from outside takes effect. -/
def State.outside (s : State) : Outside → State
  | .clearPort r o c => s.clearPort r o c
  | .clearEp e => s.clearEp e
  | .address q r0 r1 m0 m1 => s.writeAddress q r0 r1 m0 m1
  | .detour a f b => if a < 16 then s.writeDetour a f b else s
  | .rxMark a => if a < 16 then s.rxMark a else s
  | .inbound a p => s.inbound a p
  | .flit a rx => if a < 16 then s.goodFlit a rx else s
  | .trace j t => s.setTrace j t
  | .capture j b n cs => s.setCapture j b n cs
  | .period k t => s.modCore k fun c => { c with ckPeriod := t }
  | .breakpoint g n v => s.writeBp g n v
  | .clearCore k n => s.modCore k fun c => { c with count := c.count.clear n }

end Sys2Proof.Machine
end

