-- ==== Sys2Proof/Machine/Actors.lean ====
section
/-! DEFINITION. Actor instructions and the events of actors: requests, timed messages, activation, retirement, cave-full events, the
balancer and moves (spec/10_actors.md R236 to R247, spec/09_messages.md R209, R216, spec/15_system.md R362). -/

namespace Sys2Proof.Machine

/-! Actor requests (spec/10_actors.md R245, R246). -/

/-- Whether a core lies in the placement domain of a class: its cluster and its place in the cluster (spec/10_actors.md R228). -/
def State.domainHas (s : State) (c : BitVec 12) (k : Nat) : Bool :=
  let d := s.domain (s.cls c).domain.toNat
  d.mask.getLsbD (coreCluster k) && d.cores.getLsbD (coreK k)

/-- The destination core id of a request word. -/
def reqDst (w : XWord) : Nat := (w.extractLsb' 16 13).toNat

/-- The checks of an actor instruction and its wait for earlier loads and atomics. Log: DEDUCED, notes/assumptions/62.md. -/
def State.areqGates (s : State) (w : XWord) (move : Bool) : List Gate :=
  let c : BitVec 12 := w.extractLsb' 0 12
  [msgIf (decide (c.toNat < 64) || !s.reachable s.c.jobNum c) 1 c.toNat,
   msgIf (move && !(isCore (reqDst w) && s.domainHas c (reqDst w))) 7, goodGate s.c]

/-- The sender stream of an activation on a core (spec/09_messages.md R217). -/
def Act.stream (a : Act) (k : Nat) : StreamId := if a.kind = .task then .core k else .actor a.cls a.key

/-- Send a request on the sender's stream to the actor's home; `acc` is the access its reply fills. -/
def State.sendAreq (s : State) (kind : AReqKind) (w key : XWord) (acc : Nat) : State :=
  let c : BitVec 12 := w.extractLsb' 0 12
  let a := s.c.act.getD {}
  s.send
    { src := s.cur, dst := epHome (s.home c key), inorder := true, retain := some 0, job := s.c.jobNum
      body := .areq { sid := a.stream s.cur, kind := kind, cls := c, key := key, dst := reqDst w, job := s.c.jobNum, core := s.cur, acc := acc
                      stamp := stampOut a.desc s.c.ctx } }

/-- The actor instructions but `act.probe`. -/
def State.areqAns (s : State) (kind : AReqKind) (sa sb : Src) : Ans :=
  let w := s.c.x sa.n
  checked s (srcGates s.c (src2 sa sb) ++ s.areqGates w (decide (kind = .move))) (s.sendAreq kind w (s.c.x sb.n) 0)

/-- `act.retire`. -/
def execActRetire (sa sb : Src) (s : State) : Host.Outcome State Fault Refusal := perform s (s.areqAns .retire sa sb)
/-- `act.pin`. -/
def execActPin (sa sb : Src) (s : State) : Host.Outcome State Fault Refusal := perform s (s.areqAns .pin sa sb)
/-- `act.unpin`. -/
def execActUnpin (sa sb : Src) (s : State) : Host.Outcome State Fault Refusal := perform s (s.areqAns .unpin sa sb)
/-- `act.move`. -/
def execActMove (sa sb : Src) (s : State) : Host.Outcome State Fault Refusal := perform s (s.areqAns .move sa sb)

/-- `act.probe`: an outstanding remote load that the home's reply fills (spec/10_actors.md R246, R247). -/
def State.probeAns (s : State) (rd : BitVec 5) (sa sb : Src) : Ans :=
  let w := s.c.x sa.n
  let key := s.c.destKey rd
  let acc : Access := { id := 0, dest := .x key 64 false, oldX := s.c.regAt key, probe := true }
  checked s
    (srcGates s.c (src2 sa sb) ++ s.areqGates w false ++ [waitUntil (decide (s.c.out.length < 16)), destGate s.c rd])
    (((s.startAccess acc).sendAreq .probe w (s.c.x sb.n) s.nextId).modC fun c => c.setEmptyKey key)

/-- `act.probe`. -/
def execActProbe (rd : BitVec 5) (sa sb : Src) (s : State) : Host.Outcome State Fault Refusal := perform s (s.probeAns rd sa sb)

/-! Activations and messages. -/

/-- `TIMED_MESSAGE_DUE` (spec/09_messages.md R209): a timed message has reached its delivery time; the scheduler takes it for due from that cycle on,
with this event or before it. -/
def execTimedMessageDue (k id : Nat) (s : State) : Host.Outcome State Fault Refusal :=
  .next (s.modCore k fun c =>
    { c with
      inbox := c.inbox.map fun x =>
        if x.order = id then s.ripe k x else x })

/-- `ACTIVATION_START` (spec/09_messages.md R216). -/
def execActivationStart (k : Nat) (s : State) : Host.Outcome State Fault Refusal := .next (s.activationStart k)

/-- `ACTIVATION_GO_LIVE` (spec/10_actors.md R232). -/
def execActivationGoLive (g id : Nat) (s : State) : Host.Outcome State Fault Refusal := .next (s.goLive g id)

/-- `IDLE_TIMER_EXPIRY` (spec/10_actors.md R236). -/
def execIdleTimerExpiry (g id : Nat) (s : State) : Host.Outcome State Fault Refusal :=
  .next (match s.entry g id with
    | some e => if s.idleDue e then s.startRetire g id none else s
    | none => s)

/-- `CAVE_WRITE_ACK` (spec/10_actors.md R237). -/
def execCaveWriteAck (g id : Nat) (s : State) : Host.Outcome State Fault Refusal := .next (s.caveWritten g id)

/-- A message whose back-off has passed stands again at the head of its actor's line (spec/15_system.md R362). -/
def State.redeliverDue (s : State) (id : Nat) : State :=
  match s.redel.find? fun r => decide (r.id = id) && decide (r.due ≤ s.dtime) with
  | none => s
  | some r =>
    let s1 : State := { s with redel := s.redel.filter fun x => decide (x.id ≠ id) }
    ((s1.putBack r.g [(r.msg, s.cycles)]).retryMisses r.g).offer r.g

/-- `RETRY_REDELIVERY` (spec/15_system.md R362); tasks and init handlers under back-off are started by ACTIVATION_START at their tick. -/
def execRetryRedelivery (id : Nat) (s : State) : Host.Outcome State Fault Refusal := .next (s.redeliverDue id)

/-! Mapping by Fleiz (spec/10_actors.md R239). -/

/-- The first 64 KiB page of the cave reserve: the top 8 GiB of the 512 GiB (DESIGN CHOICE, notes/assumptions/27.md). -/
def reserveBase : Nat := 0x7E00000000
/-- Pages of the reserve. Log: DESIGN CHOICE, notes/assumptions/27.md. -/
def reservePages : Nat := 131072

/-- Whether `n` pages of the reserve from `i` on are free. -/
def State.reserveFree (s : State) (i n : Nat) : Bool := s.reserve.all fun u => !(decide (i ≤ u.2) && decide (u.2 < i + n))

/-- The lowest run of `n` free pages of the reserve. Log: DESIGN CHOICE, notes/assumptions/27.md. -/
def State.reserveRun (s : State) (n i : Nat) : Nat → Option Nat
  | 0 => none
  | fuel + 1 => if reservePages < i + n then none else if s.reserveFree i n then some i else s.reserveRun n (i + 1) fuel

/-- Take `n` pages of the reserve for a job, zeroed: the physical address of the first. -/
def State.reserveTake (s : State) (job n : Nat) : Option (Nat × State) :=
  match s.reserveRun n 0 ((s.reserve.length + 1) * n + 1) with
  | none => none
  | some i =>
    let pa := reserveBase + 65536 * i
    let s1 : State := { s with reserve := s.reserve ++ (List.range n).map fun j => (job, i + j) }
    some (pa, s1.zero (placeDev pa) (65536 * n))

/-- The bytes a leaf of a page table covers at an address, none where no leaf maps it. -/
def State.leafSize (s : State) (va tbl l : Nat) : Nat → Option Nat
  | 0 => none
  | fuel + 1 =>
    let e : XWord := BitVec.ofNat 64 (s.load (placeDev (entryAt tbl va l)) 8)
    if !e.getLsbD 0 then none
    else if l = 3 ∨ e.getLsbD 1 then some (2 ^ levelShift l)
    else s.leafSize va ((e.extractLsb' 8 40).toNat * 256) (l + 1) fuel

/-- The lowest run of `n` pages of the device-memory range that no leaf of the job maps; `got` pages before `va` are free. Log: DESIGN CHOICE,
notes/assumptions/27.md. -/
def State.unmappedRun (s : State) (root n va got : Nat) : Nat → Option Nat
  | 0 => none
  | fuel + 1 =>
    if got = n then some (va - 65536 * n)
    else if 0x018000000000 ≤ va then none
    else match s.leafSize va root 0 4 with
      | none => s.unmappedRun root n (va + 65536) (got + 1) fuel
      | some b => s.unmappedRun root n (va / b * b + b) 0 fuel

/-- Write a page-table entry through its table home (spec/06_memory.md R121). -/
def State.pte (s : State) (a : Nat) (e : XWord) : State := ((s.store (placeDev a) 8 e.toNat).l2Touch (tableHome a) a)

/-- Map one 64 KiB page, with tables added from the reserve. Log: DESIGN CHOICE, notes/assumptions/27.md. -/
def State.mapPage (s : State) (job va tbl l : Nat) (leaf : XWord) : Nat → Option State
  | 0 => none
  | fuel + 1 =>
    let a := entryAt tbl va l
    if l = 3 then some (s.pte a leaf)
    else
      let e : XWord := BitVec.ofNat 64 (s.load (placeDev a) 8)
      if e.getLsbD 0 then s.mapPage job va ((e.extractLsb' 8 40).toNat * 256) (l + 1) leaf fuel
      else match s.reserveTake job 1 with
        | none => none
        | some (pa, s1) => (s1.pte a (BitVec.ofNat 64 (pa + 1))).mapPage job va pa (l + 1) leaf fuel

/-- Map `n` pages. -/
def State.mapRun (s : State) (job va pa : Nat) (bits : XWord) : Nat → Option State
  | 0 => some s
  | n + 1 =>
    match s.mapPage job va (s.job job).root 0 (BitVec.ofNat 64 (pa / 65536 * 65536) ||| bits) 4 with
    | none => none
    | some s1 => s1.mapRun job (va + 65536) (pa + 65536) bits n

/-- A bucket for a class: room left in its last pages, or new pages mapped (spec/10_actors.md R239). `last` is the chain's last bucket. Log: DESIGN
CHOICE, DESIGN CHOICE, notes/assumptions/27.md. -/
def State.newBucket (s : State) (job : Nat) (cls : BitVec 12) (last : Nat) : Option (Nat × State) :=
  let size := (s.cls cls).bucket
  let room := Map.get (0, 0) s.caveRoom cls.toNat
  if size ≤ room.2 then some (room.1, { s with caveRoom := Map.put s.caveRoom cls.toNat (room.1 + size, room.2 - size) })
  else
    let n := (size + 65535) / 65536
    match s.unmappedRun (s.job job).root n (2 ^ 40) 0 (2 ^ 23 + 1), s.reserveTake job n with
    | some va, some (pa, s1) =>
      let home : XWord := match s.walk job last with | some e => e.leaf &&& 0xFFE0 | none => 0
      match s1.mapRun job va pa (home ||| 0x15) n with
      | some s2 => some (va, { s2 with caveRoom := Map.put s2.caveRoom cls.toNat (va + size, 65536 * n - size) })
      | none => none
    | _, _ => none

/-- The last bucket of a chain, from one of it on. -/
def State.chainEnd (s : State) (job b : Nat) : Nat → Nat
  | 0 => b
  | fuel + 1 => if s.bucketNext job b = 0 then b else s.chainEnd job (s.bucketNext job b) fuel

/-- Fleiz takes a cave-full event: a bucket joins the chain at its present end and the retirement starts again, or the class is marked cave-exhausted, the
owner told and the retirement abandoned (spec/10_actors.md R239). Log: DESIGN CHOICE, notes/assumptions/86.md. -/
def State.caveFull (s : State) (g id last : Nat) : State :=
  match s.entry g id with
  | none => s
  | some e =>
    if e.st ≠ .retiring then s
    else
      let job := (s.cls e.cls).job
      let last := s.chainEnd job last chainFuel
      match s.newBucket job e.cls last with
      | some (b, s1) => (s1.caveStore job last b).startRetire g id e.byReq e.press
      | none =>
        let s1 := (s.modCls e.cls fun d => { d with exhausted := true }).notification 4 job
        let s2 := s1.modEntry g id fun e =>
          { e with st := .live, byReq := none, press := none, incarn := nextIncarn e.incarn }
        (((s2.entersLive g id).offer g).releaseReqs g).retryMisses g

/-- `CAVE_FULL_EVENT` (spec/10_actors.md R239), by the entry that waits. -/
def execCaveFullEvent (id : Nat) (s : State) : Host.Outcome State Fault Refusal :=
  let mine (x : FeEvent) : Bool := match x with | .caveFull _ e _ => decide (e = id) | _ => false
  .next (match s.feEvents.find? mine with
    | some (.caveFull g e last) =>
      if s.poolTakes (.caveFull g e last) then (s.poolDrop (.caveFull g e last)).caveFull g id last else s
    | _ => s)

/-! The balancer and moves (spec/10_actors.md R240, R241). -/

/-- A command the bounds of R240 allow. Log: DESIGN CHOICE, notes/assumptions/9.md. -/
def commandOk (c : Nat × Nat × Nat) : Bool := isCore c.1 && isCore c.2.1 && decide (1 ≤ c.2.2) && decide (c.2.2 ≤ 16)

/-- The occupancy vector of a core (spec/10_actors.md R240): free lines of the pools there, the longest run of them, inbox slots and deque entries in
use, and the misses of its cluster that wait for a curd and for an entry. -/
def State.occupancy (s : State) (k : Nat) : List Nat :=
  let g := coreCluster k
  let used := s.curdsOn k
  let jobs := s.jobs.filter fun j => j.2.live && j.2.cset.getLsbD g
  [jobs.foldl (fun n j => n + ((List.range j.2.poolLines).filter fun i => !s.lineTaken k used (j.2.poolBase + i)).length) 0,
   jobs.foldl (fun n j => max n (s.freeRun j.1 k).2) 0, (s.core k).inbox.length, (s.core k).dequeUsed,
   ((s.cluster g).flow.filter fun e => decide (e.st = .activating) && !e.hosted).length, (s.misses g).length]

/-- The occupancy vectors of all cores, cluster by cluster. Log: DESIGN CHOICE, notes/assumptions/9.md. -/
def State.occupancies (s : State) : List (List Nat) :=
  (List.range Config.clusters).flatMap fun g => (List.range 8).map fun i => s.occupancy (clusterCore g i)

/-- The reading of the occupancy vectors, every 2 µs; what the balancer then commands is a free value (DESIGN CHOICE, notes/assumptions/9.md). -/
def State.balance (s : State) : State :=
  if s.dtime < s.nextBalance then s
  else
    { s with
      nextBalance := (s.dtime / 2000 + 1) * 2000, free := s.free + 1
      migr := s.migr ++ (Config.balancer s.free s.occupancies).filter commandOk }

/-- `BALANCER_PERIOD` (spec/10_actors.md R240). Log: DESIGN CHOICE, notes/assumptions/9.md. -/
def execBalancerPeriod (s : State) : Host.Outcome State Fault Refusal := .next s.balance

/-- Insert an actor before those idle for less long. -/
def insertIdle (x : Nat × FEntry) : List (Nat × FEntry) → List (Nat × FEntry)
  | [] => [x]
  | y :: t => if x.2.idleSince ≤ y.2.idleSince then x :: y :: t else y :: insertIdle x t

/-- The actors a source core may move, of every home: least recently idle first, at most `n` (spec/10_actors.md R240); none of a stopped job
(spec/19_debug.md R452). -/
def State.movable (s : State) (src dst n : Nat) : List (Nat × FEntry) :=
  let all := s.clusters.flatMap fun c => (c.2.flow.filter fun e =>
    e.hosted && decide (e.host = src) && e.idle && !e.pin && !(s.job e.job).stopping && s.domainHas e.cls dst).map fun e => (c.1, e)
  (all.foldr insertIdle []).take n

/-- `MIGRATION_COMMAND` (spec/10_actors.md R240): the source core sends a move request for each actor it chooses. -/
def execMigrationCommand (src dst n : Nat) (s : State) : Host.Outcome State Fault Refusal :=
  .next (if s.migr.contains (src, dst, n) then
      let s1 : State := { s with migr := s.migr.erase (src, dst, n) }
      (s.movable src dst n).foldl (fun (s : State) e => s.control src (epHome e.1) (.move e.2.cls e.2.key dst)) s1
    else s)

/-- The source core's report of a move, upon which the home copies the curd (spec/10_actors.md R241 steps 3 and 4). -/
def State.moveReport (s : State) (g id : Nat) : State :=
  match s.entry g id with
  | none => s
  | some e =>
    match e.moveTo with
    | some dst => if e.st = .moving ∧ !e.reported ∧ e.pend = 0 ∧ s.sentSettled e.host e.cls e.key then s.moveCopy g e dst else s
    | none => s

/-- `MOVE_SOURCE_REPORT` (spec/10_actors.md R241). -/
def execMoveSourceReport (id : Nat) (s : State) : Host.Outcome State Fault Refusal :=
  .next (match s.entryHome id with | some g => s.moveReport g id | none => s)

/-- `MOVE_COMPLETE` (spec/10_actors.md R241). -/
def execMoveComplete (g id : Nat) (s : State) : Host.Outcome State Fault Refusal := .next (s.moveDone g id)

end Sys2Proof.Machine
end

