-- ==== Sys2Proof/Machine/Manage.lean ====
section
/-! DEFINITION. Ownership, the management mailbox and its commands (spec/18_frontend.md R418 to R424). -/

namespace Sys2Proof.Machine

/-! BAR0 (spec/18_frontend.md R418 to R420). -/

/-- Whether Fleiz runs (spec/18_frontend.md R443). -/
def State.fleizUp (s : State) : Bool := decide (s.boot.state = 3)

/-- Whether BAR0 accepts writes: after a failed boot the device serves reads only (spec/18_frontend.md R442). -/
def State.barWrites (s : State) : Bool := decide (s.boot.state ≠ 4)

/-- Whether a function is the owner that CLAIM names. -/
def State.owner (s : State) (f : Nat) : Bool := s.bar0.claim.getLsbD 63 && decide ((s.bar0.claim.extractLsb' 0 2).toNat = f)

/-- An owner's write to a register: discarded from other functions and where BAR0 takes no writes. -/
def State.owned (s : State) (f : Nat) (k : State) : State := if s.owner f && s.barWrites then k else s

/-- Replace BAR0's registers. -/
def State.withBar (s : State) (f : Bar0 → Bar0) : State := { s with bar0 := f s.bar0 }

/-- CLAIM naming function `f` as owner. -/
def claimed (f : Nat) : XWord := BitVec.ofNat 64 (2 ^ 63 + f)

/-- `CLAIM_CAS` (spec/18_frontend.md R420): a function claims an unowned device or accepts the offer made to it; any other changes nothing. -/
def execClaimCas (f : Nat) (old new : XWord) (s : State) : Host.Outcome State Fault Refusal :=
  .next (let cur := s.bar0.claim
    let offer := decide (cur.toNat / 4 * 4 = 0xC000000000000000 + 256 * f)
    if s.barWrites && decide (f < 4) && decide (cur = old) && decide (new = claimed f) && (decide (cur = 0) || offer) then
      s.withBar fun b => { b with claim := new }
    else s)

/-- `CLAIM_WRITE` (spec/18_frontend.md R420): the owner offers the ownership or releases it; any other write is discarded. -/
def execClaimWrite (f : Nat) (v : XWord) (s : State) : Host.Outcome State Fault Refusal :=
  .next (let offer := (List.range 4).any fun t => decide (v.toNat = 0xC000000000000000 + 256 * t + f)
    s.owned f (if v = 0 ∨ offer then s.withBar fun b => { b with claim := v } else s))

/-- `FUNCTION_LEVEL_RESET` (spec/18_frontend.md R420): that of the owner sets CLAIM to 0. -/
def execFunctionLevelReset (f : Nat) (s : State) : Host.Outcome State Fault Refusal :=
  .next (if s.owner f then s.withBar fun b => { b with claim := 0 } else s)

/-! Commands (spec/18_frontend.md R421, R422). -/

/-- Doubleword `i` of the command block: of the block that Fleiz has read, before that of host memory. Log: DEDUCED, notes/assumptions/41.md. -/
def State.cmdDw (s : State) (i : Nat) : XWord :=
  match s.bar0.block with
  | some b => b.getD i 0
  | none => BitVec.ofNat 64 (s.load (placeHost (s.bar0.mboxAddr.toNat * 256 + 8 * i)) 8)

/-- Fleiz reads the command block, once for a command. Log: DEDUCED, notes/assumptions/41.md. -/
def State.readBlock (s : State) : State := s.withBar fun b => { b with block := some ((List.range 32).map s.cmdDw) }

/-- OP of the command that Fleiz serves now, none where none is under way. -/
def State.cmdOp (s : State) : Option Nat :=
  if s.fleizUp && decide (s.bar0.mboxState = 1) then some ((s.cmdDw 0).extractLsb' 0 8).toNat else none

/-- The end of a command: the result is written, LAST and STATE are set, the owner is notified. -/
def State.cmdDone (s : State) (code value : Nat) : State :=
  let tag := (s.cmdDw 1).toNat
  let s := s.store (placeHost (s.bar0.mboxAddr.toNat * 256 + 8 * 31)) 8 (value % 2 ^ 32 * 2 ^ 32 + code)
  (s.withBar fun b => { b with mboxLast := BitVec.ofNat 16 code, mboxState := 2, block := none }).notification 7 tag

/-- A command of an OP is performed when it is under way, on the block as Fleiz read it. Log: DESIGN CHOICE, notes/assumptions/86.md. -/
def State.command (s : State) (op : Nat) (k : State → State) : Host.Outcome State Fault Refusal :=
  .next (if s.cmdOp = some op then k s.readBlock else s)

/-- Whether an operand names a live job that the owner may act on. -/
def State.jobOk (s : State) (w : XWord) : Bool := decide (1 ≤ w.toNat) && decide (w.toNat ≤ 255) && (s.job w.toNat).live

/-- Whether an address lies in the device-memory range of a job. -/
def deviceVa (w : XWord) : Bool := decide (2 ^ 40 ≤ w.toNat) && decide (w.toNat < 0x018000000000)

/-- Doublewords `i` to `i + 11` of the block as a mask of clusters. -/
def State.cmdMask (s : State) (i : Nat) : BitVec 768 :=
  BitVec.ofNat 768 ((List.range 12).foldl (fun n j => n + (s.cmdDw (i + j)).toNat * 2 ^ (64 * j)) 0)

/-! Create job (spec/18_frontend.md R422, R423). -/

/-- Lines below SPILLBASE under the reset carve-out. -/
def poolTop : Nat := 0xA00

/-- Whether a range of lines meets the pool of another live job that shares a cluster. -/
def State.poolMeets (s : State) (cset : BitVec 768) (lo n : Nat) : Bool :=
  decide (0 < n) && s.jobs.any fun j => j.2.live && decide (0 < j.2.poolLines) && decide (j.2.cset &&& cset ≠ 0)
    && decide (lo < j.2.poolBase + j.2.poolLines) && decide (j.2.poolBase < lo + n)

/-- Lines below the lowest SPILLBASE in force on the cores of a cluster set; a core that the state does not list has the reset carve-out. -/
def State.poolTopOf (s : State) (cset : BitVec 768) : Nat :=
  let tops := (s.cores.filter fun c => cset.getLsbD (coreCluster c.1)).map fun c => c.2.carve.spillLine
  tops.foldl min (if tops.length = 8 * popCount cset.toNat 768 then 3072 else poolTop)

/-- The highest place for a pool below SPILLBASE on every core (spec/10_actors.md R229). -/
def State.poolPlace (s : State) (cset : BitVec 768) (n : Nat) : Option Nat :=
  let top := s.poolTopOf cset
  ((List.range (top + 1 - n)).map fun i => top - n - i).find? fun lo => !s.poolMeets cset lo n

/-- The job numbers that no live job has. -/
def State.freeJobs (s : State) : List Nat := ((List.range 255).map (· + 1)).filter fun j => !(s.job j).live

/-- Whether a job descriptor's fields are in range (spec/18_frontend.md R423). Log: DEDUCED, notes/assumptions/122.md. -/
def State.jobDescOk (s : State) : Bool :=
  let root := s.cmdDw 2
  let len := (s.cmdDw 4).toNat
  let mode := s.cmdDw 7
  let log := (mode.extractLsb' 8 5).toNat
  decide (root.toNat % 4096 = 0) && decide (root.toNat < 2 ^ 39) && deviceVa (s.cmdDw 3) && decide (len % 4096 = 0) && decide (len ≤ 2 ^ 32)
    && deviceVa (s.cmdDw 5) && decide ((s.cmdDw 6).toNat ≤ 65535) && decide (6 ≤ log) && decide (log ≤ 16)
    && decide (s.cmdMask 8 ≠ 0) && decide ((mode.extractLsb' 16 16).toNat ≤ poolTop)

/-- Reset the engines of the clusters a job is assigned (spec/14_matrix.md R338): open slots, weights and credits of 1. -/
def State.assignEngines (s : State) (cset : BitVec 768) : State :=
  (maskClusters cset).foldl (fun (s : State) g => s.modCluster g fun c =>
    { c with engine := { c.engine with cur := [], curW := [], pend := [], pendW := [], p := 0, credit := [], r := 0 } }) s

/-- Create job: which free number it gets is left open (DESIGN CHOICE, notes/assumptions/28.md). -/
def State.createJob (s : State) : State :=
  if !s.jobDescOk then s.cmdDone 1 0
  else
    let mode := s.cmdDw 7
    let cset := s.cmdMask 8
    let lines := (mode.extractLsb' 16 16).toNat
    match s.poolPlace cset lines, s.freeJobs with
    | some base, n :: ns =>
      let j := (n :: ns).getD ((Config.freeWord s.free).toNat % (n :: ns).length) n
      let job : Job :=
        { live := true, root := (s.cmdDw 2).toNat, code := s.cmdDw 3, codelen := (s.cmdDw 4).toNat, jpar := s.cmdDw 5, jparlen := (s.cmdDw 6).toNat
          steal := mode.extractLsb' 0 2, pol := mode.extractLsb' 2 2, slotRight := mode.getLsbD 4, codeRight := mode.getLsbD 5
          errLog := (mode.extractLsb' 8 5).toNat, poolLines := lines, poolBase := base, cset := cset }
      let s1 : State := { s with free := s.free + 1, jobs := Map.put s.jobs j job, power := if s.power = 3 then 2 else s.power }
      ((s1.assignEngines cset).store (placeHost (s.bar0.mboxAddr.toNat * 256 + 8 * 30)) 8 (128 * base)).cmdDone 0 j
    | _, _ => s.cmdDone 2 0

/-- `CREATE_JOB`. -/
def execCreateJob (s : State) : Host.Outcome State Fault Refusal := s.command 1 State.createJob

/-! Destroy job (spec/18_frontend.md R422). -/

/-- Whether nothing of a job is on its way any more: no copy, no posted operation. -/
def State.jobGone (s : State) (job : Nat) : Bool :=
  s.cores.all fun c => (c.2.copies.all fun x => decide (x.job ≠ job)) && c.2.posted.all fun p => decide (p.job ≠ job)

/-- A job killed by job control (spec/15_system.md R361, spec/18_frontend.md R428): the CAUSE of its records is left open (DESIGN CHOICE,
notes/assumptions/4.md). Log: DEDUCED, notes/assumptions/44.md. -/
def State.controlKill (s : State) (job : Nat) : State :=
  ({ s with free := s.free + 1 } : State).killJobOwner job ((Config.freeWord s.free).toNat % 65536) none

/-- Whether any job is live. -/
def State.anyJob (s : State) : Bool := s.jobs.any fun j => j.2.live

/-- The least state number that CAP and the live jobs allow (spec/18_frontend.md R445). -/
def State.capNow (s : State) : Nat := if s.anyJob then min s.bar0.cap.toNat 2 else s.bar0.cap.toNat

/-- Fleiz leaves every power state below the one that CAP allows. -/
def State.capPower (s : State) : State := { s with power := max s.power s.capNow }

/-- What a destroyed job leaves: its queues, classes, barriers, groups, error queue and pools are free; pages of the cave reserve return. -/
def State.freeJob (s : State) (job : Nat) : State :=
  { s with
    queues := s.queues.map fun q => if q.2.job.toNat = job then (q.1, { q.2 with state := 0, open_ := [], lock := none }) else q
    feEvents := s.feEvents.filter fun e => match e with | .tail q => decide ((s.queue q).job.toNat ≠ job) | .codeMiss _ j _ => decide (j ≠ job) | _ => true
    caveRoom := s.caveRoom.filter fun c => decide ((Map.get {} s.classes c.1).job ≠ job)
    classes := s.classes.map fun c => if c.2.job = job then (c.1, { c.2 with valid := false }) else c
    clusters := s.clusters.map fun g => (g.1,
      { g.2 with
        bars := g.2.bars.map fun b => if b.2.job.toNat = job then (b.1, { b.2 with en := false, arrived := 0, pending := 0 }) else b
        groups := g.2.groups.map fun x => if x.2.job = some job then (x.1, { x.2 with job := none }) else x })
    reserve := s.reserve.filter fun r => decide (r.1 ≠ job)
    xfers := s.xfers.filter fun x => decide (x.job ≠ job)
    requests := s.requests.filter fun r => decide (r.2 ≠ job)
    jobs := Map.put s.jobs job {} }

/-- Destroy job: the kill, the wait until nothing of the job is on its way, the freeing. Log: DEDUCED, notes/assumptions/44.md. -/
def State.destroyJob (s : State) : State :=
  let w := s.cmdDw 2
  let job := w.toNat
  if !s.jobOk w then s.cmdDone 1 0
  else if !(s.job job).dying then (s.controlKill job).modJob job fun j => { j with dying := true }
  else if s.jobGone job then (s.freeJob job).capPower.cmdDone 0 0
  else s

/-- `DESTROY_JOB`. -/
def execDestroyJob (s : State) : Host.Outcome State Fault Refusal := s.command 2 State.destroyJob

/-! Define class (spec/18_frontend.md R422, R424, spec/10_actors.md R224, R225). -/

/-- The class image of the block, before its cave and NBKT. -/
def State.classImage (s : State) : ClassDesc :=
  let w := s.cmdDw 10
  { valid := true, job := (s.cmdDw 2).toNat, hbase := (s.cmdDw 4).setWidth 48, init := (s.cmdDw 5).extractLsb' 32 32, trapv := (s.cmdDw 5).setWidth 32
    caveb := (s.cmdDw 6).setWidth 48, constlen := (s.cmdDw 9).setWidth 16, constb := (s.cmdDw 8).setWidth 48, allot := w.extractLsb' 36 3
    stream := w.getLsbD 35, wrt := w.getLsbD 34, explicit := w.getLsbD 33, quota := w.extractLsb' 28 5, prio := w.extractLsb' 26 2, pol := w.extractLsb' 24 2
    ngrp := w.extractLsb' 16 8, domain := w.extractLsb' 8 6, curdl := w.extractLsb' 0 8, mirror := (s.cmdDw 11).extractLsb' 32 32
    idle := (s.cmdDw 11).setWidth 32 }

/-- Whether an image's fields are in range (spec/18_frontend.md R424). Log: DEDUCED, notes/assumptions/122.md. -/
def State.classImageOk (s : State) : Bool :=
  let d := s.classImage
  let hb := s.cmdDw 4
  let cb := s.cmdDw 6
  deviceVa hb && decide (hb.toNat % 256 = 0) && (decide (cb = 0) || (deviceVa cb && decide (cb.toNat % 128 = 0)))
    && decide ((s.cmdDw 9).toNat ≤ 65535) && decide ((s.cmdDw 8).toNat < 2 ^ 48)
    && (decide ((s.cmdDw 9).toNat = 0) || deviceVa (s.cmdDw 8)) && decide (d.allot.toNat ≤ 4)
    && decide (1 ≤ d.quota.toNat) && decide (d.quota.toNat ≤ 16) && decide (1 ≤ d.curdl.toNat) && decide (d.curdl.toNat ≤ 128)
    && decide (d.bucket ≤ (s.cmdDw 7).toNat) && decide ((s.cmdDw 7).toNat / d.bucket < 2 ^ 32) && decide (d.mirror.toNat < 2 ^ (8 * d.allot.toNat))

/-- Whether a chain of buckets holds a valid slot. -/
def State.chainValid (s : State) (job b : Nat) : Nat → Bool
  | 0 => false
  | fuel + 1 =>
    if b = 0 then false
    else ((List.range 7).any fun i => decide (2 ^ 63 ≤ s.slotMeta job b i)) || s.chainValid job (s.bucketNext job b) fuel

/-- Whether a class has an entry outside FREE or a valid cave slot. -/
def State.classInUse (s : State) (c : BitVec 12) : Bool :=
  let d := s.cls c
  (s.clusters.any fun g => g.2.flow.any fun e => decide (e.cls = c))
    || (d.valid && (List.range d.nbkt.toNat).any fun b => s.chainValid d.job (d.caveb.toNat + b * d.bucket) chainFuel)

/-- Whether two descriptors differ in a placement field. -/
def ClassDesc.moves (a b : ClassDesc) : Bool :=
  !(decide (a.curdl = b.curdl) && decide (a.caveb = b.caveb) && decide (a.nbkt = b.nbkt) && decide (a.domain = b.domain) && decide (a.stream = b.stream))

/-- Whether a group serves a live job other than `job`. -/
def State.groupTaken (s : State) (n job : Nat) : Bool := match (s.group n).job with | some j => decide (j ≠ job) && (s.job j).live | none => false

/-- Bind a group to a job with a fresh record (spec/12_numbers.md R290): FNARM starts as FNTEN. -/
def State.bindGroup (s : State) (n job : Nat) (fnten : Bool) : State :=
  s.modGroup n fun _ => { job := some job, fnten := fnten, fnarm := fnten }

/-- A cave that Fleiz allocates: pages of the reserve, homed over the class's placement domain (DESIGN CHOICE, notes/assumptions/27.md). -/
def State.allocCave (s : State) (job : Nat) (d : ClassDesc) (size : Nat) : Option (Nat × State) :=
  let n := (size + 65535) / 65536
  match s.unmappedRun (s.job job).root n (2 ^ 40) 0 (2 ^ 23 + 1), s.reserveTake job n with
  | some va, some (pa, s1) =>
    (s1.mapRun job va pa (BitVec.ofNat 64 (d.domain.toNat * 64 + 0x20 + 0x15)) n).map fun s2 => (va, s2)
  | _, _ => none

/-- Define class: a redefinition clears the cave-exhausted mark (spec/10_actors.md R239 says that Fleiz clears it, not when; DESIGN CHOICE,
notes/assumptions/86.md), and messages that waited for a quota are offered the slots. Log: DEDUCED, notes/assumptions/78.md. -/
def State.defineClass (s : State) : State :=
  let w := s.cmdDw 2
  let job := w.toNat
  let id := (s.cmdDw 3).toNat
  if !s.jobOk w || decide (id < 64) || decide (4095 < id) || !s.classImageOk then s.cmdDone 1 0
  else
    let c : BitVec 12 := BitVec.ofNat 12 id
    let old := s.cls c
    let img := s.classImage
    let size := (s.cmdDw 7).toNat
    let img := { img with nbkt := BitVec.ofNat 32 (size / img.bucket) }
    let img := if s.cmdDw 6 = 0 ∧ old.valid ∧ old.nbkt = img.nbkt ∧ old.curdl = img.curdl then { img with caveb := old.caveb } else img
    if old.valid && decide (old.job ≠ job) then s.cmdDone 3 0
    else if old.valid && old.moves img && s.classInUse c then s.cmdDone 3 0
    else if s.groupTaken img.ngrp.toNat job then s.cmdDone 3 0
    else
      let s := if (s.group img.ngrp.toNat).job = some job then s else s.bindGroup img.ngrp.toNat job false
      if img.caveb ≠ 0 then (s.modCls c fun _ => img).offerAll.cmdDone 0 0
      else match s.allocCave job img size with
        | some (va, s1) => (s1.modCls c fun _ => { img with caveb := BitVec.ofNat 48 va }).offerAll.cmdDone 0 0
        | none => s.cmdDone 2 0

/-- `DEFINE_CLASS`. -/
def execDefineClass (s : State) : Host.Outcome State Fault Refusal := s.command 3 State.defineClass

/-! Placement domains, copies, groups, system classes (spec/18_frontend.md R422). -/

/-- Whether a leaf of a page table, whatever its target, names a homing mask with HM = 1 (spec/18_frontend.md R422, spec/06_memory.md R117). -/
def State.leavesName (s : State) (d tbl l : Nat) : Nat → Bool
  | 0 => false
  | fuel + 1 =>
    (List.range (levelCount l)).any fun i =>
      let e : XWord := BitVec.ofNat 64 (s.load (placeDev (tbl + 8 * i)) 8)
      if !e.getLsbD 0 || (decide (l = 0) && e.getLsbD 1) then false
      else if l = 3 ∨ e.getLsbD 1 then e.getLsbD 5 && decide ((e.extractLsb' 6 6).toNat = d)
      else s.leavesName d ((e.extractLsb' 8 40).toNat * 256) (l + 1) fuel

/-- Whether a placement domain must not change. -/
def State.domainInUse (s : State) (d : Nat) : Bool :=
  (s.classes.any fun c => c.2.valid && decide (c.2.domain.toNat = d) && s.classInUse (BitVec.ofNat 12 c.1))
    || s.jobs.any fun j => j.2.live && s.leavesName d j.2.root 0 4

/-- Write placement domain. Log: DEDUCED, notes/assumptions/78.md. -/
def State.writeDomain (s : State) : State :=
  let d := (s.cmdDw 2).toNat
  if 64 ≤ d then s.cmdDone 1 0
  else if s.domainInUse d then s.cmdDone 3 0
  else ({ s with domains := Map.put s.domains d ⟨s.cmdMask 4, (s.cmdDw 3).setWidth 8⟩ } : State).cmdDone 0 0

/-- `WRITE_PLACEMENT_DOMAIN`. -/
def execWritePlacementDomain (s : State) : Host.Outcome State Fault Refusal := s.command 4 State.writeDomain

/-- Copy. -/
def State.mailCopy (s : State) : State :=
  let h := (s.cmdDw 2).toNat
  let p := (s.cmdDw 3).toNat
  let n := (s.cmdDw 4).toNat
  if decide (n = 0) || decide (2 ^ 32 < n) || decide (2 ^ 39 < p + n) || decide (2 ^ 64 < h + n) then s.cmdDone 1 0
  else (if (s.cmdDw 5).getLsbD 0 then s.copyBytes (placeDev p) (placeHost h) n else s.copyBytes (placeHost h) (placeDev p) n).cmdDone 0 0

/-- `COPY`. -/
def execCopy (s : State) : Host.Outcome State Fault Refusal := s.command 5 State.mailCopy

/-- Assign numerics group. -/
def State.assignGroup (s : State) : State :=
  let w := s.cmdDw 2
  let n := (s.cmdDw 3).toNat
  if !s.jobOk w || decide (255 < n) then s.cmdDone 1 0
  else if s.groupTaken n w.toNat then s.cmdDone 3 0
  else (s.bindGroup n w.toNat ((s.cmdDw 4).getLsbD 0)).cmdDone 0 0

/-- `ASSIGN_NUMERICS_GROUP`. -/
def execAssignNumericsGroup (s : State) : Host.Outcome State Fault Refusal := s.command 6 State.assignGroup

/-- Open system class: a class that firmware defines becomes addressable; Fleiz 3 defines none. -/
def State.openClass (s : State) : State :=
  let w := s.cmdDw 2
  let c := (s.cmdDw 3).toNat
  if !s.jobOk w || decide (c = 0) || decide (63 < c) then s.cmdDone 1 0
  else if !(s.cls (BitVec.ofNat 12 c)).valid then s.cmdDone 3 0
  else (s.modJob w.toNat fun j => { j with opened := if j.opened.contains c then j.opened else c :: j.opened }).cmdDone 0 0

/-- `OPEN_SYSTEM_CLASS`. -/
def execOpenSystemClass (s : State) : Host.Outcome State Fault Refusal := s.command 7 State.openClass

/-- `UNKNOWN_OP` (spec/18_frontend.md R422). -/
def execUnknownOp (s : State) : Host.Outcome State Fault Refusal :=
  .next (match s.cmdOp with
    | some op => if decide (op = 0) || decide (7 < op) then s.readBlock.cmdDone 4 0 else s
    | none => s)

end Sys2Proof.Machine
end

