-- ==== Sys2Proof/Machine/Boot.lean ====
section
/-! DEFINITION. Boot, attestation and power (spec/18_frontend.md R442 to R447). -/

namespace Sys2Proof.Machine

/-! Boot and attestation (spec/18_frontend.md R442 to R444). -/

/-- Whether the ROM accepts an image (spec/18_frontend.md R442). Log: DESIGN CHOICE, notes/assumptions/8.md. -/
def Boot.accepts (b : Boot) (i : Image) : Bool :=
  decide (b.minVersion ≤ i.version) && decide (Config.sha384 i.bytes = i.digest) && Config.ecdsaVerify i.pubkey i.digest i.sig
    && decide (Config.sha384 i.pubkey = b.keyHash)

/-- The image of a source: 1 flash, 2 NVMe. -/
def Boot.image (b : Boot) (src : Nat) : Option Image := if src = 1 then b.flash else b.nvme

/-- The first source whose image is accepted, in the order BOOTSEL gives. Log: DESIGN CHOICE, notes/assumptions/12.md. -/
def Boot.choose (b : Boot) : Option (Nat × Image) :=
  (if b.bootsel then [2, 1] else [1, 2]).findSome? fun src =>
    match b.image src with
    | some i => if b.accepts i then some (src, i) else none
    | none => none

/-- `SECURE_BOOT` (spec/18_frontend.md R442, R443): an image is accepted and Fleiz runs, or the boot has failed. Log: DESIGN CHOICE,
notes/assumptions/12.md. -/
def execSecureBoot (s : State) : Host.Outcome State Fault Refusal :=
  .next (if s.boot.state ≠ 0 then s
    else match s.boot.choose with
      | some (src, i) => { s with boot := { s.boot with state := 3, source := BitVec.ofNat 4 src, fwver := i.version, digest := i.digest } }
      | none => { s with boot := { s.boot with state := 4 } })

/-- `ATTESTATION_REQUEST` (spec/18_frontend.md R444): the buffer is filled and signed, and the writing function told by MSI-X vector 1. Log: DESIGN
CHOICE, DESIGN CHOICE, notes/assumptions/8.md. -/
def execAttestationRequest (f : Nat) (v : XWord) (s : State) : Host.Outcome State Fault Refusal :=
  .next (if !s.fleizUp || decide (4 ≤ f) then s
    else
      let p := placeHost v.toNat
      let s := s.store (p + 48) 48 (Config.sha384 s.boot.rom).toNat
      let s := s.store (p + 96) 48 s.boot.digest.toNat
      let s := (s.store (p + 144) 4 s.boot.fwver.toNat).store (p + 148) 4 s.boot.minVersion.toNat
      let sig := Config.attestSignature (Memory.readList s.mem p 152)
      let s := (s.store (p + 152) 96 sig.toNat).store (p + 248) 8 0
      s.withBar fun b => { b with msix1 := Map.put b.msix1 f (Map.get 0 b.msix1 f + 1) })

/-! Power (spec/18_frontend.md R445, R446). -/

/-- `PWRCAP` (spec/18_frontend.md R445): Fleiz leaves every state below CAP. -/
def execPwrcap (f : Nat) (v : XWord) (s : State) : Host.Outcome State Fault Refusal :=
  .next (s.owned f (s.withBar fun b => { b with cap := v.extractLsb' 0 2 }).capPower)

/-- `THERMAL_THROTTLE` (spec/18_frontend.md R446): at 100 °C the state goes up by one, at most once per 100 µs; state 2 stays while a job is live. What
bytes 8 to 15 of the notification hold is left open (DESIGN CHOICE, notes/assumptions/4.md). Log: DEDUCED, notes/assumptions/51.md. -/
def execThermalThrottle (s : State) : Host.Outcome State Fault Refusal :=
  .next (if !s.fleizUp ∨ s.dtime < s.hotAt then s
    else
      let top := if s.anyJob then 2 else 3
      ({ s with power := max s.power (min top (s.power + 1)), hotAt := s.dtime + 100000, free := s.free + 1 } : State).notification 6
        (Config.freeWord s.free).toNat)

/-- `THERMAL_RECOVERY` (spec/18_frontend.md R446): below 95 °C one state back toward CAP, at most one per 1 ms. -/
def execThermalRecovery (s : State) : Host.Outcome State Fault Refusal :=
  .next (if !s.fleizUp ∨ s.dtime < s.coolAt ∨ s.power ≤ s.capNow ∨ s.tripped then s
    else { s with power := s.power - 1, coolAt := s.dtime + 1000000 })

/-- `THERMAL_TRIP` (spec/18_frontend.md R446): at 110 °C every job is killed and the clocks are gated. -/
def execThermalTrip (s : State) : Host.Outcome State Fault Refusal :=
  .next (if !s.fleizUp ∨ s.tripped then s
    else
      let js := (s.jobs.filter fun j => j.2.live).map (·.1)
      let s1 : State := { s with tripped := true, free := s.free + js.length + 1 }
      let s2 := js.zipIdx.foldl (fun (s2 : State) j => s2.killJobWork j.1 ((Config.freeWord (s.free + j.2)).toNat % 65536) none) s1
      ({ s2 with power := 3 } : State).notification 6 (Config.freeWord (s.free + js.length)).toNat)

/-- The sample of the levels, every 1,000 ticks (spec/18_frontend.md R447). -/
def State.sampleLevels (s : State) : State :=
  if s.dtime < s.nextLevel then s
  else
    let n := s.clusters.foldl (fun n g => n + g.2.engine.level) 0
    { s.withBar fun b => { b with levelsum := BitVec.ofNat 16 n } with nextLevel := (s.dtime / 1000 + 1) * 1000 }

/-- `LEVELSUM_SAMPLE`. -/
def execLevelsumSample (s : State) : Host.Outcome State Fault Refusal := .next s.sampleLevels

end Sys2Proof.Machine
end

