-- ==== Sys2Proof/WellFormed.lean ====
section
/-! DEFINITION. Which terms of `Instr` an instruction word can hold: the values that the format chapter marks
undefined, and the operands a reserved field cannot carry, are refused here. Events have no words and no limits here. -/

namespace Sys2Proof

/-- Element width in bits (spec/07_views.md R152, spec/13_vector.md R297). -/
def VType.bits : VType → Nat
  | .f32 => 32 | .bf => 16 | .hf => 16 | .s8 => 8 | .s16 => 16 | .s32 => 32 | .s64 => 64
  | .z8 => 8 | .z16 => 16 | .z32 => 32 | .z64 => 64

/-- The FP types of spec/03_formats.md R54. -/
def VType.isFp : VType → Bool
  | .f32 => true | .bf => true | .hf => true | _ => false

/-- The signed integer types s8 to s64 of spec/03_formats.md R54. -/
def VType.isS : VType → Bool
  | .s8 => true | .s16 => true | .s32 => true | .s64 => true | _ => false

/-- The integer types of spec/03_formats.md R54. -/
def VType.isInt (t : VType) : Bool := !t.isFp

/-- The types `vdot` allows (spec/03_formats.md R54). -/
def VType.dotOk : VType → Bool
  | .bf => true | .hf => true | .s8 => true | .z8 => true | _ => false

/-- The numbers that name a control and status register (spec/03_formats.md R52). -/
def csrDefined (n : BitVec 11) : Bool :=
  let k := n.toNat
  k ≤ 0x005 || (0x010 ≤ k && k ≤ 0x015) || (0x020 ≤ k && k ≤ 0x023) || (0x030 ≤ k && k ≤ 0x033)
    || (0x040 ≤ k && k ≤ 0x045) || (0x100 ≤ k && k ≤ 0x13F)

/-- The destination codes of `cvt`, 0 to 11 (spec/03_formats.md R55). -/
def NumType.cvtDst : NumType → Bool
  | .z8 => false | .z16 => false | .z32 => false | .z64 => false | _ => true

/-- Whether the pair's scales come from the sc field (spec/14_matrix.md R324). -/
def MmaPair.isMx : MmaPair → Bool
  | .bfbf => false | .hfhf => false | .sfsf => false | _ => true

/-- The checks of the format chapter (spec/03_formats.md R45 to R58). -/
def Instr.wf : Instr → Bool
  | .ldOrdered _ _ ord _ _ => ord.toNat ≤ 5
  | .ldp _ _ win _ _ => win.toNat ≤ 2
  | .stOrdered _ ord _ _ => ord.toNat = 0 || (6 ≤ ord.toNat && ord.toNat ≤ 10)
  | .amoCasD _ _ _ sb => sb.n.toNat % 2 = 0 && 2 ≤ sb.n.toNat
  | .fence scope => scope.toNat ≤ 4
  | .csrr _ csr => csrDefined csr
  | .csrw csr _ => csrDefined csr
  | .csrs csr _ => csrDefined csr
  | .csrc csr _ => csrDefined csr
  | .vwGet _ _ n => n.toNat ≤ 5
  | .cpw ce _ => ce.toNat ≤ 13
  | .cpr _ ce => ce.toNat ≤ 14
  | .allotGrow n => 1 ≤ n.toNat && n.toNat ≤ 4
  | .allotShrink n => 1 ≤ n.toNat && n.toNat ≤ 4
  | .vfma t _ _ _ _ => t.isFp
  | .vabs t _ _ _ => t.isFp || t.isS
  | .vneg t _ _ _ => t.isFp || t.isS
  | .vand t _ _ _ _ => t.isInt
  | .vor t _ _ _ _ => t.isInt
  | .vxor t _ _ _ _ => t.isInt
  | .vsll t _ _ _ _ => t.isInt
  | .vsrl t _ _ _ _ => t.isInt
  | .vsra t _ _ _ _ => t.isInt
  | .vlut t _ _ _ _ => t.isFp
  | .vexp2 t _ _ _ => t.isFp
  | .vrcp t _ _ _ => t.isFp
  | .vrsqrt t _ _ _ => t.isFp
  | .vdot t _ _ _ _ => t.dotOk
  | .cvt dst src _ inf _ _ _ => dst.cvtDst && decide (dst ≠ src) && (!inf || decide (dst = .f8b))
  | .mma pr _ _ latch _ _ qb sc =>
      (pr.isMx || decide (sc = ⟨0, false⟩)) && (!latch || decide (qb = 0))
  | _ => true

end Sys2Proof
end

