-- ==== Sys2Proof/Machine/Vector.lean ====
section
/-! DEFINITION. The vector instructions (spec/13_vector.md R297 to R317). An instruction has its effect when the core hands it to the unit's
queue, and leaves the queue at a VECTOR_COMMAND_COMPLETE event; nothing that may not see an unfinished result goes on before that
(R300, R302). -/

namespace Sys2Proof.Machine

/-! Lanes (R297, R299). -/

/-- Lanes of an element width. -/
def laneCount (eb : Nat) : Nat := min 128 (1024 / eb)
/-- Lane `l` of a register. -/
def laneOf (eb v l : Nat) : Nat := v / 2 ^ (eb * l) % 2 ^ eb
/-- A register from its lanes; the padding is zero. -/
def packLanes (eb : Nat) (xs : List Nat) : Nat := xs.foldr (fun x acc => x % 2 ^ eb + acc * 2 ^ eb) 0

/-- What a vector instruction writes: the register's value, its flags, its saturations. -/
structure VOut where
  val : VWord := 0
  flags : BitVec 5 := 0
  sat : Nat := 0
  deriving DecidableEq, Repr, Inhabited

/-- A register from lanes, their flags joined and their saturations counted. -/
def vout (eb : Nat) (rs : List Rounded) : VOut :=
  { val := BitVec.ofNat 1024 (packLanes eb (rs.map (·.bits)))
    flags := rs.foldl (fun (f : BitVec 5) (r : Rounded) => f ||| r.flags) 0
    sat := (rs.filter (·.sat)).length }

/-- `n` lanes of width `eb`: the active ones computed, the others kept. -/
def lanesOut (eb n : Nat) (m : MWord) (old : VWord) (f : Nat → Rounded) : VOut :=
  vout eb ((List.range n).map fun l => if m.getLsbD l then f l else { bits := laneOf eb old.toNat l })

/-- The active lanes below `n`, ascending. -/
def activeLanes (n : Nat) (m : MWord) : List Nat := (List.range n).filter fun l => m.getLsbD l

/-! Types. -/

/-- The format of a floating-point lane. -/
def vty : VType → FTy
  | .bf => .bf | .hf => .hf | _ => .f32
/-- An integer lane's value, s(v) or z(v). -/
def signedLane (eb x : Nat) : Int := if 2 ^ (eb - 1) ≤ x % 2 ^ eb then (x % 2 ^ eb : Nat) - (2 ^ eb : Nat) else (x % 2 ^ eb : Nat)
/-- A lane as its type reads it. -/
def vint (t : VType) (x : Nat) : Int := if t.isS then signedLane t.bits x else (x : Int)
/-- An integer result truncated to a lane. -/
def toLane (eb : Nat) (i : Int) : Rounded := { bits := (i % (2 ^ eb : Nat)).toNat }

/-! Issue (R300). -/

/-- Room in the two-entry command queue. -/
def queueGate (c : Core) : Gate := waitUntil (decide (c.vq.length < 2))
/-- One more command in the queue, with the vector registers it names and the flags and saturations it will raise. Log: DEDUCED,
notes/assumptions/39.md. -/
def Core.queued (c : Core) (regs : List (BitVec 5)) (f : BitVec 5 := 0) (sat : Nat := 0) : Core :=
  { c with vq := c.vq ++ [⟨regs, f, sat, c.ctx.instret⟩] }

/-- The checks of a queued instruction: operands in the allotment, scalar sources, full registers, failing storage, a place in the queue. Of several
operands outside the allotment TVAL names va, then vb, then vd (DESIGN CHOICE, notes/assumptions/97.md). -/
def vgates (c : Core) (srcs : List (BitVec 5 × Nat)) (dsts : List (BitVec 5 × Nat)) (scalars : List (Src × Nat)) : List Gate :=
  allotGates c (srcs ++ dsts) ++ srcGates c scalars ++ [vfullGate c ((srcs ++ dsts).map (·.1))]
    ++ veccGates c (srcs.map (·.1)) ++ [queueGate c]

/-- A queued instruction that writes a vector register. Log: DEDUCED, notes/assumptions/39.md. -/
def State.vecAns (s : State) (srcs : List (BitVec 5 × Nat)) (vd : BitVec 5) (scalars : List (Src × Nat)) (r : VOut) : Ans :=
  checked s (vgates s.c srcs [(vd, 2)] scalars)
    (s.modC fun c => ((c.setV vd.toNat r.val).countBanks (srcs.map (·.1))).queued (srcs.map (·.1) ++ [vd]) r.flags r.sat)

/-- A queued instruction that writes a mask register. -/
def State.maskAns (s : State) (srcs : List (BitVec 5 × Nat)) (md : BitVec 3) (v : MWord) (f : BitVec 5) : Ans :=
  checked s (vgates s.c srcs [] [])
    (s.modC fun c => ((c.setMask md v).countBanks (srcs.map (·.1))).queued (srcs.map (·.1)) f)

/-- A queued instruction that writes a scalar register under interlock. -/
def State.scalarAns (s : State) (srcs : List (BitVec 5 × Nat)) (scalars : List (Src × Nat)) (xd : BitVec 5) (v : XWord) : Ans :=
  checked s (vgates s.c srcs [] scalars ++ [destGate s.c xd])
    (s.modC fun c => ((c.setX xd v).countBanks (srcs.map (·.1))).queued (srcs.map (·.1)))

/-! Element-wise arithmetic (R304, R305). -/

/-- Lanes of two sources and the destination. -/
def vmap3 (t : VType) (m : MWord) (a b d : VWord) (f : Nat → Nat → Nat → Rounded) : VOut :=
  lanesOut t.bits (laneCount t.bits) m d fun l => f (laneOf t.bits a.toNat l) (laneOf t.bits b.toNat l) (laneOf t.bits d.toNat l)

/-- An operation with an integer and a floating-point row. -/
def lane2 (t : VType) (i : Int → Int → Int) (f : Val → Val → Exact) (a b : Nat) : Rounded :=
  if t.isFp then (f (decodeFp (vty t) a) (decodeFp (vty t) b)).round (vty t) else toLane t.bits (i (vint t a) (vint t b))

/-- `vfma` of a lane. -/
def laneFma (t : VType) (a b d : Nat) : Rounded := (fmaVal (decodeFp (vty t) a) (decodeFp (vty t) b) (decodeFp (vty t) d)).round (vty t)

/-- A floating-point lane with its sign changed, no flag, a NaN made canonical. -/
def laneSign (t : VType) (f : Val → Val) (a : Nat) : Rounded := { bits := (roundFp (vty t) .rne .inf (f (decodeFp (vty t) a))).bits }
/-- `vabs` of a lane. -/
def laneAbs (t : VType) (a : Nat) : Rounded :=
  if t.isFp then laneSign t Val.abs a else toLane t.bits (signedLane t.bits a).natAbs
/-- `vneg` of a lane. -/
def laneNeg (t : VType) (a : Nat) : Rounded :=
  if t.isFp then laneSign t Val.negate a else toLane t.bits (-signedLane t.bits a)

/-- An element-wise operation of two sources. -/
def State.vec2 (s : State) (t : VType) (vd va vb : BitVec 5) (m : BitVec 3) (f : Nat → Nat → Rounded) : Ans :=
  let c := s.c
  s.vecAns [(va, 0), (vb, 1)] vd [] (vmap3 t (c.mask m) (c.v va.toNat).val (c.v vb.toNat).val (c.v vd.toNat).val fun a b _ => f a b)
/-- An element-wise operation of one source. -/
def State.vec1 (s : State) (t : VType) (vd va : BitVec 5) (m : BitVec 3) (f : Nat → Rounded) : Ans :=
  let c := s.c
  s.vecAns [(va, 0)] vd [] (vmap3 t (c.mask m) (c.v va.toNat).val 0 (c.v vd.toNat).val fun a _ _ => f a)
/-- A bitwise or shift operation, on lanes as unsigned integers. -/
def State.vecBits (s : State) (t : VType) (vd va vb : BitVec 5) (m : BitVec 3) (f : Nat → Nat → Nat) : Ans :=
  s.vec2 t vd va vb m fun a b => { bits := f a b % 2 ^ t.bits }

/-- `vadd`. -/
def execVadd (t : VType) (vd va vb : BitVec 5) (m : BitVec 3) (s : State) : Host.Outcome State Fault Refusal :=
  perform s (s.vec2 t vd va vb m (lane2 t (· + ·) addVal))
/-- `vsub`. -/
def execVsub (t : VType) (vd va vb : BitVec 5) (m : BitVec 3) (s : State) : Host.Outcome State Fault Refusal :=
  perform s (s.vec2 t vd va vb m (lane2 t (· - ·) subVal))
/-- `vmul`. -/
def execVmul (t : VType) (vd va vb : BitVec 5) (m : BitVec 3) (s : State) : Host.Outcome State Fault Refusal :=
  perform s (s.vec2 t vd va vb m (lane2 t (· * ·) mulVal))
/-- `vfma`, which reads its destination too. -/
def execVfma (t : VType) (vd va vb : BitVec 5) (m : BitVec 3) (s : State) : Host.Outcome State Fault Refusal :=
  perform s (s.vecAns [(va, 0), (vb, 1), (vd, 2)] vd []
    (vmap3 t (s.c.mask m) (s.c.v va.toNat).val (s.c.v vb.toNat).val (s.c.v vd.toNat).val (laneFma t)))
/-- `vmin`. -/
def execVmin (t : VType) (vd va vb : BitVec 5) (m : BitVec 3) (s : State) : Host.Outcome State Fault Refusal :=
  perform s (s.vec2 t vd va vb m (lane2 t min (minmaxVal false)))
/-- `vmax`. -/
def execVmax (t : VType) (vd va vb : BitVec 5) (m : BitVec 3) (s : State) : Host.Outcome State Fault Refusal :=
  perform s (s.vec2 t vd va vb m (lane2 t max (minmaxVal true)))
/-- `vabs`. -/
def execVabs (t : VType) (vd va : BitVec 5) (m : BitVec 3) (s : State) : Host.Outcome State Fault Refusal :=
  perform s (s.vec1 t vd va m (laneAbs t))
/-- `vneg`. -/
def execVneg (t : VType) (vd va : BitVec 5) (m : BitVec 3) (s : State) : Host.Outcome State Fault Refusal :=
  perform s (s.vec1 t vd va m (laneNeg t))
/-- `vand`. -/
def execVand (t : VType) (vd va vb : BitVec 5) (m : BitVec 3) (s : State) : Host.Outcome State Fault Refusal :=
  perform s (s.vecBits t vd va vb m (· &&& ·))
/-- `vor`. -/
def execVor (t : VType) (vd va vb : BitVec 5) (m : BitVec 3) (s : State) : Host.Outcome State Fault Refusal :=
  perform s (s.vecBits t vd va vb m (· ||| ·))
/-- `vxor`. -/
def execVxor (t : VType) (vd va vb : BitVec 5) (m : BitVec 3) (s : State) : Host.Outcome State Fault Refusal :=
  perform s (s.vecBits t vd va vb m (· ^^^ ·))
/-- `vsll`. -/
def execVsll (t : VType) (vd va vb : BitVec 5) (m : BitVec 3) (s : State) : Host.Outcome State Fault Refusal :=
  perform s (s.vecBits t vd va vb m fun a b => a * 2 ^ (b % t.bits))
/-- `vsrl`. -/
def execVsrl (t : VType) (vd va vb : BitVec 5) (m : BitVec 3) (s : State) : Host.Outcome State Fault Refusal :=
  perform s (s.vecBits t vd va vb m fun a b => a / 2 ^ (b % t.bits))
/-- `vsra`. -/
def execVsra (t : VType) (vd va vb : BitVec 5) (m : BitVec 3) (s : State) : Host.Outcome State Fault Refusal :=
  perform s (s.vec2 t vd va vb m fun a b => toLane t.bits (signedLane t.bits a / (2 ^ (b % t.bits) : Nat)))

/-! Dot products (R306). -/

/-- The sum of a wide value and exact products (DEDUCED, notes/assumptions/31.md): NV for each invalid case there is. -/
def dotVal (d : Val) (ab : List (Val × Val)) : Exact :=
  let ins := d :: ab.flatMap fun p => [p.1, p.2]
  let ps := ab.map fun p => mulVal p.1 p.2
  let bad := ab.any fun p => !(p.1.isNan || p.2.isNan) && (mulVal p.1 p.2).val.isNan
  let terms := d :: ps.map (·.val)
  let clash := terms.contains (.inf false) && terms.contains (.inf true)
  if ins.any Val.isNan || bad || clash then { val := .nan false, flags := flagIf (bad || clash || ins.any Val.isSig) fNV }
  else { val := (ps.foldl (fun (acc : Exact) (p : Exact) => addVal acc.val p.val) { val := d }).val }

/-- Lane `l` of a dot product: pairs of bf or hf into f32, quads of s8 or z8 into 32 bits. -/
def dotLane (t : VType) (d a b : VWord) (l : Nat) : Rounded :=
  let n := 32 / t.bits
  let at' (v : VWord) (j : Nat) : Nat := laneOf t.bits v.toNat (n * l + j)
  let dl := laneOf 32 d.toNat l
  if t.isFp then
    (dotVal (decodeFp .f32 dl) ((List.range n).map fun j => (decodeFp (vty t) (at' a j), decodeFp (vty t) (at' b j)))).round .f32
  else toLane 32 ((List.range n).foldl (fun (acc : Int) j => acc + vint t (at' a j) * vint t (at' b j)) (dl : Int))

/-- `vdot`. -/
def execVdot (t : VType) (vd va vb : BitVec 5) (m : BitVec 3) (s : State) : Host.Outcome State Fault Refusal :=
  let c := s.c
  let d := (c.v vd.toNat).val
  perform s (s.vecAns [(va, 0), (vb, 1), (vd, 2)] vd []
    (lanesOut 32 32 (c.mask m) d (dotLane t d (c.v va.toNat).val (c.v vb.toNat).val)))

/-! Compare and select (R307). -/

/-- A relation of two integers. -/
def condHolds (cond : VCond) (d : Int) : Bool :=
  match cond with
  | .eq => decide (d = 0) | .ne => decide (d ≠ 0) | .lt => decide (d < 0) | .le => decide (d ≤ 0) | .gt => decide (0 < d) | .ge => decide (0 ≤ d)
/-- Whether a condition is an ordering, which is invalid for any NaN. -/
def condOrders : VCond → Bool
  | .eq => false | .ne => false | _ => true

/-- The relation of two lanes and its flags. -/
def cmpLane (t : VType) (cond : VCond) (a b : Nat) : Bool × BitVec 5 :=
  if t.isFp then
    let x := decodeFp (vty t) a
    let y := decodeFp (vty t) b
    let nan := x.isNan || y.isNan
    (if nan then decide (cond = .ne) else condHolds cond (cmpVal x y), flagIf (x.isSig || y.isSig || (nan && condOrders cond)) fNV)
  else (condHolds cond (vint t a - vint t b), 0)

/-- A mask from its bits. -/
def maskOf (n : Nat) (f : Nat → Bool) : MWord :=
  BitVec.ofNat 128 ((List.range n).foldl (fun (acc : Nat) l => if f l then acc + 2 ^ l else acc) 0)

/-- `vcmp`. -/
def execVcmp (cond : VCond) (t : VType) (md : BitVec 3) (va vb : BitVec 5) (m : BitVec 3) (s : State) : Host.Outcome State Fault Refusal :=
  let c := s.c
  let r (l : Nat) : Bool × BitVec 5 :=
    cmpLane t cond (laneOf t.bits (c.v va.toNat).val.toNat l) (laneOf t.bits (c.v vb.toNat).val.toNat l)
  let n := laneCount t.bits
  perform s (s.maskAns [(va, 0), (vb, 1)] md (maskOf n fun l => (c.mask m).getLsbD l && (r l).1)
    ((activeLanes n (c.mask m)).foldl (fun (f : BitVec 5) l => f ||| (r l).2) 0))

/-- `vsel`. -/
def execVsel (t : VType) (vd va vb : BitVec 5) (m : BitVec 3) (s : State) : Host.Outcome State Fault Refusal :=
  let c := s.c
  perform s (s.vecAns [(va, 0), (vb, 1)] vd []
    (lanesOut t.bits (laneCount t.bits) (c.mask m) (c.v vb.toNat).val fun l => { bits := laneOf t.bits (c.v va.toNat).val.toNat l }))

/-! Reductions (R308). -/

/-- The result of a reduction: lanes 0 and 1, the flags. -/
structure Reduced where
  lane0 : Nat
  lane1 : Nat := 0
  flags : BitVec 5 := 0
  deriving DecidableEq, Repr, Inhabited

/-- The sum of the active lanes (DEDUCED, notes/assumptions/31.md). -/
def redSum (t : VType) (xs : List (Nat × Nat)) : Reduced :=
  if t.isFp then
    let vs := xs.map fun p => decodeFp (vty t) p.2
    let clash := vs.contains (.inf false) && vs.contains (.inf true)
    if vs.any Val.isNan || clash then { lane0 := (vty t).nan, flags := flagIf (clash || vs.any Val.isSig) fNV }
    else
      let sum := match vs with
        | [] => Val.zero false
        | v :: rest => rest.foldl (fun (acc x : Val) => (addVal acc x).val) v
      let r := roundFp (vty t) .rne .inf sum
      { lane0 := r.bits, flags := r.flags }
  else { lane0 := (toLane t.bits (xs.foldl (fun (acc : Int) p => acc + vint t p.2) 0)).bits }

/-- Whether a number stands before another in the order that puts −0 before +0, or behind it for a greatest. -/
def Val.before (wantMax : Bool) (a b : Val) : Bool :=
  let d := cmpVal a b
  let less := decide (d < 0) || (decide (d = 0) && a.neg? && !b.neg?)
  let more := decide (0 < d) || (decide (d = 0) && b.neg? && !a.neg?)
  if wantMax then more else less

/-- The greatest or least of the active lanes, each with its number, and the lowest lane that holds it; `n` where none is active. -/
def redBest (t : VType) (wantMax : Bool) (n : Nat) (xs : List (Nat × Nat)) : Reduced :=
  if t.isFp then
    let vs := xs.map fun p => (p.1, decodeFp (vty t) p.2)
    let flags := flagIf (vs.any fun p => p.2.isSig) fNV
    match vs.filter fun p => !p.2.isNan with
    | [] =>
      match vs with
      | [] => { lane0 := (vty t).inf wantMax, lane1 := n }
      | p :: _ => { lane0 := (vty t).nan, lane1 := p.1, flags := flags }
    | p :: rest =>
      let best := rest.foldl (fun (acc q : Nat × Val) => if Val.before wantMax q.2 acc.2 then q else acc) p
      { lane0 := (roundFp (vty t) .rne .inf best.2).bits, lane1 := best.1, flags := flags }
  else
    match xs with
    | [] =>
      let least : Int := if t.isS then -(2 ^ (t.bits - 1) : Nat) else 0
      { lane0 := (toLane t.bits (if wantMax then least else least - 1)).bits, lane1 := n }
    | p :: rest =>
      let better (a b : Nat × Nat) : Bool := if wantMax then decide (vint t b.2 < vint t a.2) else decide (vint t a.2 < vint t b.2)
      let best := rest.foldl (fun (acc q : Nat × Nat) => if better q acc then q else acc) p
      { lane0 := best.2, lane1 := best.1 }

/-- The active lanes of a source with their numbers. -/
def Core.activeOf (c : Core) (t : VType) (va : BitVec 5) (m : BitVec 3) : List (Nat × Nat) :=
  (activeLanes (laneCount t.bits) (c.mask m)).map fun l => (l, laneOf t.bits (c.v va.toNat).val.toNat l)

/-- A reduction: lane 0, and lane 1 where it is written; the other lanes zero. -/
def State.redAns (s : State) (t : VType) (vd va : BitVec 5) (r : Reduced) (index : Bool) : Ans :=
  s.vecAns [(va, 0)] vd []
    { val := BitVec.ofNat 1024 (packLanes t.bits (if index then [r.lane0, r.lane1] else [r.lane0])), flags := r.flags }

/-- `vredsum`. -/
def execVredsum (t : VType) (vd va : BitVec 5) (m : BitVec 3) (s : State) : Host.Outcome State Fault Refusal :=
  perform s (s.redAns t vd va (redSum t (s.c.activeOf t va m)) false)
/-- `vredmax`. -/
def execVredmax (t : VType) (vd va : BitVec 5) (m : BitVec 3) (s : State) : Host.Outcome State Fault Refusal :=
  perform s (s.redAns t vd va (redBest t true (laneCount t.bits) (s.c.activeOf t va m)) false)
/-- `vredmin`. -/
def execVredmin (t : VType) (vd va : BitVec 5) (m : BitVec 3) (s : State) : Host.Outcome State Fault Refusal :=
  perform s (s.redAns t vd va (redBest t false (laneCount t.bits) (s.c.activeOf t va m)) false)
/-- `vmaxidx`. -/
def execVmaxidx (t : VType) (vd va : BitVec 5) (m : BitVec 3) (s : State) : Host.Outcome State Fault Refusal :=
  perform s (s.redAns t vd va (redBest t true (laneCount t.bits) (s.c.activeOf t va m)) true)

/-! Moving data (R309). -/

/-- `vperm`. -/
def execVperm (t : VType) (vd va vb : BitVec 5) (m : BitVec 3) (s : State) : Host.Outcome State Fault Refusal :=
  let c := s.c
  let n := laneCount t.bits
  perform s (s.vecAns [(va, 0), (vb, 1)] vd []
    (lanesOut t.bits n (c.mask m) (c.v vd.toNat).val fun l =>
      { bits := laneOf t.bits (c.v va.toNat).val.toNat (laneOf t.bits (c.v vb.toNat).val.toNat l % n) }))
/-- `vbcast`. -/
def execVbcast (t : VType) (vd xa : BitVec 5) (m : BitVec 3) (s : State) : Host.Outcome State Fault Refusal :=
  let c := s.c
  perform s (s.vecAns [] vd [plainSrc xa 0]
    (lanesOut t.bits (laneCount t.bits) (c.mask m) (c.v vd.toNat).val fun _ => { bits := (c.x xa).toNat % 2 ^ t.bits }))
/-- `vins`. -/
def execVins (t : VType) (vd xa xb : BitVec 5) (m : BitVec 3) (s : State) : Host.Outcome State Fault Refusal :=
  let c := s.c
  let n := laneCount t.bits
  let i := (c.x xb).toNat % n
  perform s (s.vecAns [] vd [plainSrc xa 0, plainSrc xb 1]
    (lanesOut t.bits n (if (c.mask m).getLsbD i then BitVec.ofNat 128 (2 ^ i) else 0) (c.v vd.toNat).val fun _ =>
      { bits := (c.x xa).toNat % 2 ^ t.bits }))
/-- `vext`. -/
def execVext (t : VType) (xd va xb : BitVec 5) (s : State) : Host.Outcome State Fault Refusal :=
  let c := s.c
  let x := laneOf t.bits (c.v va.toNat).val.toNat ((c.x xb).toNat % laneCount t.bits)
  perform s (s.scalarAns [(va, 0)] [plainSrc xb 1] xd (BitVec.ofInt 64 (vint t x)))

/-! Loads and stores of lanes (R310, R311). -/

/-- The memory lanes of an address. -/
def memLanes (eb : Nat) (a : XWord) (ls : List Nat) : List Lane :=
  ls.map fun l => ⟨a + BitVec.ofNat 64 (eb * l / 8), max 1 (eb / 8), eb * l % 8, eb, eb * l⟩

/-- The hull of active lanes: from the lowest byte to the highest. -/
def laneSpan (k : Nat) (eb : Nat) (a : XWord) (ls : List Nat) (write : Bool) : Span :=
  let lo := ls.headD 0
  plainSpan k (a + BitVec.ofNat 64 (eb * lo / 8)) (eb * (ls.getLastD 0) / 8 + max 1 (eb / 8) - eb * lo / 8) write

/-- The checks of `vld` and `vst` before the memory checks. -/
def State.laneGates (s : State) (t : VType) (vd xa : BitVec 5) (ls : List Nat) : List Gate :=
  let a := s.c.x xa
  allotGates s.c [(vd, 2)] ++ srcGates s.c [plainSrc xa 0]
    ++ [trapIf (!ls.isEmpty && decide (a.toNat % max 1 (t.bits / 8) ≠ 0)) 4 a]

/-- A mask's bits over the register: the bits of the lanes that are not active. -/
def keepBits (eb n : Nat) (m : MWord) : VWord :=
  BitVec.ofNat 1024 (packLanes eb ((List.range n).map fun l => if m.getLsbD l then 0 else 2 ^ eb - 1))

/-- `vld`. Log: DEDUCED, notes/assumptions/40.md. -/
def execVld (t : VType) (vd xa : BitVec 5) (m : BitVec 3) (s : State) : Host.Outcome State Fault Refusal :=
  let c := s.c
  let n := laneCount t.bits
  let ls := activeLanes n (c.mask m)
  let pre := s.laneGates t vd xa ls
  perform s
    (if ls.isEmpty then checked s pre s
     else s.runLoad pre (memLanes t.bits (c.x xa) ls) (keepBits t.bits n (c.mask m)) vd (laneSpan s.cur t.bits (c.x xa) ls false) 16)

/-- `vst`. Every type of its encodings is at least a byte wide, so that no active set forms a part of a byte. Log: DEDUCED, notes/assumptions/40.md. -/
def execVst (t : VType) (vd xa : BitVec 5) (m : BitVec 3) (s : State) : Host.Outcome State Fault Refusal :=
  let c := s.c
  let ls := activeLanes (laneCount t.bits) (c.mask m)
  let pre := s.laneGates t vd xa ls
  perform s
    (if ls.isEmpty then checked s pre s
     else s.runStore pre (ls.map fun l => (c.x xa + BitVec.ofNat 64 (t.bits * l / 8), t.bits / 8, laneOf t.bits (c.v vd.toNat).val.toNat l)) vd
       (laneSpan s.cur t.bits (c.x xa) ls true) 16)

/-! Table lookup (R312). -/

/-- An exact number as an integer count of `2^e`, for a finite value. -/
def Val.signedAt (v : Val) : Int × Int :=
  match v with
  | .fin n m e _ => (units n m e e, e)
  | _ => (0, 0)

/-- Segment and fraction of a value: the entry from 0 to 255 and the fraction from 0 to 1. -/
def segment (u : Val) : Nat × Val :=
  match u with
  | .inf neg => if neg then (0, .zero false) else (255, .int 1)
  | _ =>
    let (n, e) := u.signedAt
    let fl : Int := if 0 ≤ e then n * (2 ^ e.toNat : Nat) else n / (2 ^ (-e).toNat : Nat)
    let i := (min 255 (max 0 fl)).toNat
    let d := (subVal u (.int i)).val
    (i, if cmpVal d (.zero false) ≤ 0 then .zero false else if cmpVal (.int 1) d ≤ 0 then .int 1 else d)

/-- One lane of `vlut`, with the table's f32 words by byte offset (DEDUCED, notes/assumptions/31.md). -/
def lutLane (t : VType) (word : Nat → Nat) (a : Nat) : Rounded :=
  let f32 (o : Nat) : Val := decodeFp .f32 (word o)
  let x := decodeFp (vty t) a
  let lo := f32 0
  let sc := f32 4
  let isInf (v : Val) : Bool := v == .inf false || v == .inf true
  if x.isNan || lo.isNan || sc.isNan || isInf lo || isInf sc then (nanOf [x, lo, sc]).round (vty t)
  else
    let u : Val :=
      if isInf x then (if sc.isZero then .zero false else .inf (x.neg? ^^ sc.neg?)) else (mulVal (subVal x lo).val sc).val
    let (i, f) := segment u
    (fmaVal f (f32 (20 + 8 * i)) (f32 (16 + 8 * i))).round (vty t)

/-- `vlut`. -/
def execVlut (t : VType) (vd va xb : BitVec 5) (m : BitVec 3) (s : State) : Host.Outcome State Fault Refusal :=
  let c := s.c
  let o := c.x xb
  let n := laneCount t.bits
  let old := (c.v vd.toNat).val
  let out := s.windowOut 1 o 2064
  let table := s.windowRead 1 o.toNat 2064
  let r := if out then lanesOut t.bits n (c.mask m) old fun _ => { bits := 0 }
    else lanesOut t.bits n (c.mask m) old fun l => lutLane t (fun b => table / 2 ^ (8 * b) % 2 ^ 32) (laneOf t.bits (c.v va.toNat).val.toNat l)
  perform s (checked s
    (allotGates c [(va, 0), (vd, 2)] ++ srcGates c [plainSrc xb 1] ++ [trapIf (decide (o.toNat % 8 ≠ 0)) 4 o,
      trapIf (out && s.windowTrap) 14 (windowTval 1 o)] ++ vgates c [(va, 0)] [(vd, 2)] [])
    (s.modC fun c =>
      let c1 := ((c.setV vd.toNat r.val).countBanks [va]).queued [va, vd] r.flags r.sat
      if out then c1.modStatus fun x => { x with wrange := true } else c1))

/-! Functions (R313). -/

/-- ln 2 in units of 2^−256, rounded down. -/
def ln2Fix : Nat := 0xb17217f7d1cf79abc9e3b39803f2f6af40f343267298b62d8a0d175b8baafa2b

/-- The terms of e^y from term `k` on, y and the terms in units of 2^−256, each rounded down. -/
def expTerms (y term : Nat) (k : Nat) : Nat → Nat
  | 0 => 0
  | fuel + 1 => let t := term * y / 2 ^ 256 / k; t + expTerms y t (k + 1) fuel

/-- 2^x: exact for a whole number; else digits that lie below the exact value by less than their last place shows, so that the
value stands between the same neighbours. The exponent is held where every format has long left its range. -/
def exp2Val (a : Val) : Exact :=
  match a with
  | .nan _ => nanOf [a]
  | .inf n => if n then { val := .zero false } else { val := .inf false }
  | .fin _ _ _ _ =>
    let (n, e) := a.signedAt
    if 0 ≤ e then { val := .fin false 1 (max (-1000) (min 1000 (n * (2 ^ (min e 20).toNat : Nat)))) false }
    else
      let w := (-e).toNat
      let whole := n / (2 ^ w : Nat)
      let frac := (n % (2 ^ w : Nat)).toNat
      let ex := max (-1000) (min 1000 whole)
      if frac = 0 then { val := .fin false 1 ex false }
      else
        let y := frac * ln2Fix / 2 ^ w
        { val := .fin false (2 ^ 256 + expTerms y (2 ^ 256) 1 80) (ex - 256) true }

/-- 1 / x. Log: DEDUCED, notes/assumptions/38.md. -/
def rcpVal (a : Val) : Exact := divVal (.int 1) a

/-- 1 / √x. -/
def rsqrtVal (a : Val) : Exact :=
  match a with
  | .nan _ => nanOf [a]
  | .inf n => if n then { val := .nan false, flags := fNV } else { val := .zero false }
  | .fin n m e _ =>
    if m = 0 then { val := .inf n, flags := fDZ }
    else if n then { val := .nan false, flags := fNV }
    else
      let e2 : Int := if e % 2 = 0 then e else e - 1
      let m2 := if e % 2 = 0 then m else 2 * m
      let k := Nat.log2 m2 + 80
      let q := 2 ^ (2 * k) / m2
      let r := isqrtFrom q 0 (k + 1)
      { val := .fin false r (-(e2 / 2) - k) (decide (r * r * m2 ≠ 2 ^ (2 * k))) }

/-- A function's result on the input pattern `x`: for f32 one of the two neighbours, the exact value when there is one; for bf and hf the
nearest (DESIGN CHOICE, notes/assumptions/5.md). Log: DEDUCED, notes/assumptions/38.md. -/
def fnRound (t : VType) (op x : Nat) (v : Exact) : Rounded :=
  if t = .f32 then
    let lo := roundFp .f32 .rtz .inf v.val
    let r : Rounded :=
      if lo.flags &&& fNX = 0 || lo.flags &&& fOF ≠ 0 || !(Config.upperNeighbour op (BitVec.ofNat 32 x)) then lo
      else
        let up := (lo.bits + 1) % 2 ^ 31
        { bits := lo.bits + 1
          flags := fNX ||| flagIf (decide (up < 2 ^ 23)) fUF ||| flagIf (decide (up = 0x7F800000)) fOF }
    { r with flags := r.flags ||| v.flags }
  else v.round (vty t)

/-- A function of one lane. -/
def fnLane (t : VType) (op : Nat) (f : Val → Exact) (a : Nat) : Rounded := fnRound t op a (f (decodeFp (vty t) a))

/-- `vexp2`. -/
def execVexp2 (t : VType) (vd va : BitVec 5) (m : BitVec 3) (s : State) : Host.Outcome State Fault Refusal :=
  perform s (s.vec1 t vd va m (fnLane t 0 exp2Val))
/-- `vrcp`. -/
def execVrcp (t : VType) (vd va : BitVec 5) (m : BitVec 3) (s : State) : Host.Outcome State Fault Refusal :=
  perform s (s.vec1 t vd va m (fnLane t 1 rcpVal))
/-- `vrsqrt`. -/
def execVrsqrt (t : VType) (vd va : BitVec 5) (m : BitVec 3) (s : State) : Host.Outcome State Fault Refusal :=
  perform s (s.vec1 t vd va m (fnLane t 2 rsqrtVal))

/-! Mask operations (R314). -/

/-- `mand`. -/
def execMand (md ma mb : BitVec 3) (s : State) : Host.Outcome State Fault Refusal :=
  perform s (s.maskAns [] md (s.c.mask ma &&& s.c.mask mb) 0)
/-- `mor`. -/
def execMor (md ma mb : BitVec 3) (s : State) : Host.Outcome State Fault Refusal :=
  perform s (s.maskAns [] md (s.c.mask ma ||| s.c.mask mb) 0)
/-- `mnot`. -/
def execMnot (md ma : BitVec 3) (s : State) : Host.Outcome State Fault Refusal :=
  perform s (s.maskAns [] md (~~~(s.c.mask ma)) 0)
/-- `mpop`. -/
def execMpop (xd : BitVec 5) (ma : BitVec 3) (s : State) : Host.Outcome State Fault Refusal :=
  perform s (s.scalarAns [] [] xd (BitVec.ofNat 64 (popCount (s.c.mask ma).toNat 128)))

/-- The unit completes its oldest instruction (R300, R302). Log: DEDUCED, notes/assumptions/39.md. -/
def execVectorCommandComplete (k : Nat) (s : State) : Host.Outcome State Fault Refusal :=
  .next (if (s.core k).vq.isEmpty then s else (s.modCore k Core.vecDone).forwardFlags k)

end Sys2Proof.Machine
end

