-- ==== Sys2Proof/Machine/Convert.lean ====
section
/-! DEFINITION. Conversions and microscaled blocks (spec/13_vector.md R315, R316; spec/12_numbers.md R281 to R286). -/

namespace Sys2Proof.Machine

/-! Formats. -/

/-- A conversion type: a floating-point format, or integers of a width, signed or not. -/
inductive CvtTy where
  | fp (t : FTy)
  | int (signed : Bool) (bits : Nat)
  deriving DecidableEq, Repr

/-- The type of a code (spec/03_formats.md R55). -/
def cvtTy : NumType → CvtTy
  | .f32 => .fp .f32 | .bf => .fp .bf | .hf => .fp .hf | .f8a => .fp .f8a | .f8b => .fp .f8b | .f6a => .fp .f6a | .f6b => .fp .f6b
  | .f4 => .fp .f4 | .s8 => .int true 8 | .s16 => .int true 16 | .s32 => .int true 32 | .s64 => .int true 64
  | .z8 => .int false 8 | .z16 => .int false 16 | .z32 => .int false 32 | .z64 => .int false 64

/-- Element width. -/
def CvtTy.bits : CvtTy → Nat
  | .fp t => t.width | .int _ n => n

/-- The value of a lane: exact integers for the integer types. -/
def CvtTy.decode (t : CvtTy) (x : Nat) : Val :=
  match t with
  | .fp f => decodeFp f x
  | .int signed n => .int (if signed then signedLane n x else (x : Int))

/-- One rounding into a type (spec/12_numbers.md R280 to R283). -/
def CvtTy.round (t : CvtTy) (rm : Rnd) (ov : Ovf) (v : Val) : Rounded :=
  match t with
  | .fp f => roundFp f rm ov v
  | .int signed n =>
    let r := if signed then roundInt (-(2 ^ (n - 1) : Nat)) (2 ^ (n - 1) - 1 : Nat) rm v else roundInt 0 (2 ^ n - 1 : Nat) rm v
    { bits := (r.1 % (2 ^ n : Nat)).toNat, flags := r.2.1, sat := r.2.2 }

/-! Draws (spec/12_numbers.md R281). -/

/-- The draws of an instruction, one for each of `n` lanes. -/
def draws (g : BitVec 32) : Nat → List (BitVec 32)
  | 0 => []
  | n + 1 => genDraw g :: draws (genDraw g) n

/-- The rounding of lane `l`: its draw is that of its place among the active lanes. -/
def laneRnd (rm : RMode) (m : MWord) (ds : List (BitVec 32)) (l : Nat) : Rnd :=
  match rm with
  | .rne => .rne
  | .rtz => .rtz
  | .sr => .sr (ds.getD (activeLanes l m).length 0)

/-- The draws of an instruction over `n` lanes. -/
def Core.drawsOf (c : Core) (rm : RMode) (m : MWord) (n : Nat) : List (BitVec 32) :=
  if rm = .sr then draws c.ctx.gen (activeLanes n m).length else []

/-- The generator after some draws. -/
def Core.afterDraws (c : Core) (ds : List (BitVec 32)) : Core := c.modCtx fun x => { x with gen := ds.getLastD x.gen }

/-- A queued instruction that may draw. -/
def State.drawAns (s : State) (srcs : List (BitVec 5 × Nat)) (vd : BitVec 5) (ds : List (BitVec 32)) (r : VOut) : Ans :=
  checked s (vgates s.c srcs [(vd, 2)] [])
    (s.modC fun c => (((c.setV vd.toNat r.val).afterDraws ds).countBanks (srcs.map (·.1))).queued (srcs.map (·.1) ++ [vd]) r.flags r.sat)

/-! `cvt` (spec/13_vector.md R315). -/

/-- What a conversion writes. -/
def cvtOut (dst src : CvtTy) (rm : RMode) (inf : Bool) (m : MWord) (ds : List (BitVec 32)) (a d : VWord) : VOut :=
  lanesOut dst.bits (min (laneCount src.bits) (laneCount dst.bits)) m d fun l =>
    dst.round (laneRnd rm m ds l) (if inf then .inf else .sat) (src.decode (laneOf src.bits a.toNat l))

/-- `cvt`. -/
def execCvt (dst src : NumType) (rm : RMode) (inf : Bool) (vd va : BitVec 5) (m : BitVec 3) (s : State) : Host.Outcome State Fault Refusal :=
  let c := s.c
  let d := cvtTy dst
  let x := cvtTy src
  let ds := c.drawsOf rm (c.mask m) (min (laneCount x.bits) (laneCount d.bits))
  perform s (s.drawAns [(va, 0)] vd ds (cvtOut d x rm inf (c.mask m) ds (c.v va.toNat).val (c.v vd.toNat).val))

/-! Microscaled blocks (spec/12_numbers.md R285, R286; spec/13_vector.md R316). -/

/-- Width of an element. -/
def mxBits : MxElem → Nat
  | .f8a => 8 | .f8b => 8 | .f6a => 6 | .f6b => 6 | .f4 => 4 | .i8 => 8
/-- The format of an element, none for i8. -/
def mxFp : MxElem → Option FTy
  | .f8a => some .f8a | .f8b => some .f8b | .f6a => some .f6a | .f6b => some .f6b | .f4 => some .f4 | .i8 => none
/-- emax of an element. -/
def mxEmax : MxElem → Int
  | .f8a => 8 | .f8b => 15 | .f6a => 4 | .f6b => 2 | .f4 => 2 | .i8 => 0
/-- An element's value: an i8 code stands for its 2^−6 fold (spec/12_numbers.md R277). -/
def mxDecode (e : MxElem) (x : Nat) : Val :=
  match mxFp e with
  | some t => decodeFp t x
  | none => let i := signedLane 8 x; .fin (decide (i < 0)) i.natAbs (-6) false
/-- An element from an exact value. -/
def mxRound (e : MxElem) (rm : Rnd) (v : Val) : Rounded :=
  match mxFp e with
  | some t => roundFp t rm .sat v
  | none => roundI8 rm v
/-- The format of a wide type. -/
def mxWide : MxWide → FTy
  | .f32 => .f32 | .bf => .bf | .hf => .hf

/-- A value times 2^x. -/
def Val.scale (v : Val) (x : Int) : Val :=
  match v with
  | .fin n m e u => .fin n m (e + x) u
  | v => v

/-- floor(log2) of a positive finite value; none for the others. -/
def Val.floorLog2 (v : Val) : Option Int :=
  match v with
  | .fin _ m e _ => if m = 0 then none else some (e + Nat.log2 m)
  | _ => none

/-- A packed block: its scale code and its elements. -/
structure MxBlock where
  scale : Nat
  els : List Rounded
  deriving DecidableEq, Repr

/-- Pack values into a block (spec/12_numbers.md R286), `rnd i` the rounding of value `i`. -/
def packBlock (e : MxElem) (rnd : Nat → Rnd) (xs : List Val) : MxBlock :=
  if xs.any Val.isNan then { scale := 0xFF, els := xs.zipIdx.map fun p => { bits := 0, flags := if p.2 = 0 then fNV else 0 } }
  else
    let logs := xs.filterMap Val.floorLog2
    let x : Int := match logs with
      | [] => -127
      | l :: rest => min 127 (max (-127) (rest.foldl max l - mxEmax e))
    { scale := (x + 127).toNat, els := xs.zipIdx.map fun p => mxRound e (rnd p.2) (p.1.scale (-x)) }

/-- The exponent of a scale code, none for the NaN. -/
def scaleExp (code : Nat) : Option Int := if code = 0xFF then none else some ((code : Int) - 127)

/-- A value under a scale: a NaN scale makes a NaN, with NV for a signaling value only. -/
def Val.underScale (v : Val) (code : Nat) : Val :=
  match scaleExp code with
  | some x => v.scale x
  | none => .nan v.isSig

/-- `mx.pack`: the elements and the scales it writes. -/
def mxPackOut (e : MxElem) (w : FTy) (rm : RMode) (m : MWord) (ds : List (BitVec 32)) (a : VWord) : VOut × VWord :=
  let n := laneCount w.width
  let blocks := (List.range (n / 32)).map fun j =>
    packBlock e (fun i => laneRnd rm m ds (32 * j + i))
      ((List.range 32).map fun i => if m.getLsbD (32 * j + i) then decodeFp w (laneOf w.width a.toNat (32 * j + i)) else .zero false)
  (vout (mxBits e) (blocks.flatMap (·.els)), BitVec.ofNat 1024 (packLanes 8 (blocks.map (·.scale))))

/-- `mx.pack`. -/
def execMxPack (e : MxElem) (w : MxWide) (rm : RMode) (vd va vb : BitVec 5) (m : BitVec 3) (s : State) : Host.Outcome State Fault Refusal :=
  let c := s.c
  let t := mxWide w
  let ds := c.drawsOf rm (c.mask m) (laneCount t.width)
  let r := mxPackOut e t rm (c.mask m) ds (c.v va.toNat).val
  perform s (checked s (vgates c [(va, 0)] [(vb, 1), (vd, 2)] [])
    (s.modC fun c => ((((c.setV vd.toNat r.1.val).setV vb.toNat r.2).afterDraws ds).countBanks [va]).queued [va, vd, vb] r.1.flags r.1.sat))

/-- `mx.unpack`. -/
def execMxUnpack (w : MxWide) (e : MxElem) (rm : RMode) (vd va vb : BitVec 5) (m : BitVec 3) (s : State) : Host.Outcome State Fault Refusal :=
  let c := s.c
  let t := mxWide w
  let n := laneCount t.width
  let ds := c.drawsOf rm (c.mask m) n
  perform s (s.drawAns [(va, 0), (vb, 1)] vd ds
    (lanesOut t.width n (c.mask m) (c.v vd.toNat).val fun l =>
      roundFp t (laneRnd rm (c.mask m) ds l) .inf
        ((mxDecode e (laneOf (mxBits e) (c.v va.toNat).val.toNat l)).underScale (laneOf 8 (c.v vb.toNat).val.toNat (l / 32)))))

/-- `mx.scale`. -/
def execMxScale (w : MxWide) (vd va vb : BitVec 5) (m : BitVec 3) (s : State) : Host.Outcome State Fault Refusal :=
  let c := s.c
  let t := mxWide w
  perform s (s.vecAns [(va, 0), (vb, 1)] vd []
    (lanesOut t.width (laneCount t.width) (c.mask m) (c.v vd.toNat).val fun l =>
      roundFp t .rne .inf
        ((decodeFp t (laneOf t.width (c.v va.toNat).val.toNat l)).underScale (laneOf 8 (c.v vb.toNat).val.toNat (l / 32)))))

end Sys2Proof.Machine
end

