-- ==== Sys2Proof/Machine/Matrix.lean ====
section
/-! DEFINITION. The matrix engine (spec/14_matrix.md R318 to R345) with the arithmetic of a block step (spec/12_numbers.md R287 to R289): commands
and their checks, staging, block steps, the grant of the array and the ramp limiter. -/

namespace Sys2Proof.Machine

/-! Types and shapes. -/

/-- Type codes of a pair (spec/07_views.md R152, spec/14_matrix.md R323). -/
def pairTypes : MmaPair → Nat × Nat
  | .bfbf => (1, 1) | .hfhf => (2, 2) | .f8af8a => (3, 3) | .f8af8b => (3, 4) | .f8bf8a => (4, 3) | .f8bf8b => (4, 4)
  | .f6af6a => (5, 5) | .f6bf6b => (6, 6) | .f6af6b => (5, 6) | .f6bf6a => (6, 5) | .f4f4 => (7, 7) | .f8af4 => (3, 7)
  | .f4f8a => (7, 3) | .i8i8 => (16, 16) | .sfsf => (0, 0)

/-- Step time of a pair in engine cycles (spec/14_matrix.md R328). -/
def stepTime : MmaPair → Nat
  | .bfbf => 8 | .hfhf => 8 | .f6af6a => 2 | .f6bf6b => 2 | .f6af6b => 2 | .f6bf6a => 2 | .f4f4 => 2 | .sfsf => 32 | _ => 4

/-- Rows and columns of a shape (spec/14_matrix.md R319). -/
def shapeOf (tall : Bool) : Nat × Nat := if tall then (256, 4) else (32, 32)

/-- The format of a floating-point type code. -/
def codeFp (ty : Nat) : Option FTy :=
  if ty = 0 then some .f32 else if ty = 1 then some .bf else if ty = 2 then some .hf else if ty = 3 then some .f8a
  else if ty = 4 then some .f8b else if ty = 5 then some .f6a else if ty = 6 then some .f6b else if ty = 7 then some .f4 else none

/-- The MX element of a type code (spec/03_formats.md R56). -/
def codeMx (ty : Nat) : Option MxElem :=
  if ty = 3 then some .f8a else if ty = 4 then some .f8b else if ty = 5 then some .f6a else if ty = 6 then some .f6b
  else if ty = 7 then some .f4 else if ty = 16 then some .i8 else none

/-- The value of an operand element. -/
def codeVal (ty x : Nat) : Val :=
  match codeFp ty with
  | some t => decodeFp t x
  | none => mxDecode .i8 x

/-! Elements in the own scratchpad. -/

/-- Rows or columns of an operand view: dimension 1, or one. -/
def View.rows (v : View) : Nat := if 1 < v.rank then v.d1.extent.toNat else 1
/-- Index of element (`i`, `j`) of a view of rank at most 2. -/
def index2 (i j : Nat) : Nat → Nat := fun d => if d = 0 then i else if d = 1 then j else 0
/-- The bit address of an element of a view of rank at most 2, its byte address truncated to 64 bits (spec/07_views.md R154). -/
def View.bit2 (v : View) (i j : Nat) : Int := v.bitAddr (index2 i j) % 2 ^ 67

/-- `n` bits of a core's array from bit address `b` on. -/
def State.padBits (s : State) (k b n : Nat) : Nat := s.load (placePad k (b / 8)) ((b % 8 + n + 7) / 8) / 2 ^ (b % 8) % 2 ^ n

/-- Write `n` bits of a core's array from bit address `b` on. -/
def State.putPadBits (s : State) (k b n v : Nat) : State :=
  let len := (b % 8 + n + 7) / 8
  let p := placePad k (b / 8)
  let old := s.load p len
  let sh := 2 ^ (b % 8)
  s.store p len (old % sh + v % 2 ^ n * sh + old / (sh * 2 ^ n) * (sh * 2 ^ n))

/-- The pattern of an element that lies inside. -/
def State.elem2 (s : State) (k : Nat) (v : View) (i j : Nat) : Nat := s.padBits k (v.bit2 i j).toNat v.eb

/-- The elements of a view of rank at most 2. -/
def View.all2 (v : View) : List (Nat × Nat) :=
  (List.range v.rows).flatMap fun j => (List.range v.d0.extent.toNat).map fun i => (i, j)

/-- The lowest address of a view's bytes that lies outside the first `size` bytes of the own scratchpad region. Log: DEDUCED, notes/assumptions/34.md. -/
def View.badByte (v : View) (size : Nat) : Option Nat :=
  if 0 ≤ v.hull.1 ∧ v.hull.2 < size then none
  else
    (v.all2.flatMap fun p =>
      let b := v.bit2 p.1 p.2
      [(byteAddr b).toNat, (byteAddr (b + v.eb - 1)).toNat]).foldl (fun (m : Option Nat) (a : Nat) =>
        if a < size then m else match m with | some x => some (min x a) | none => some a) none

/-- The local range fault of some views (spec/14_matrix.md R329). -/
def State.rangeGate (s : State) (vs : List View) : Gate :=
  match (vs.filterMap fun v => v.badByte s.c.spsize) with
  | [] => .go
  | a :: rest => .trap 5 (BitVec.ofNat 64 (rest.foldl min a))

/-- The scratchpad lines of some elements of a view. -/
def View.lines2 (v : View) (ps : List (Nat × Nat)) : List Nat :=
  (ps.flatMap fun p => let b := (v.bit2 p.1 p.2).toNat; [b / 1024, (b + v.eb - 1) / 1024]).eraseDups

/-! Checks (spec/14_matrix.md R323, R324, R329, R332, R333, R337). -/

/-- The matrix fault when a condition holds. -/
def matIf (b : Bool) (reason q : Nat) : Gate := trapIf b 22 (BitVec.ofNat 64 (reason * 2 ^ 60 + q * 2 ^ 56))

/-- The snapshot of a view: live, and permitted. -/
def snapGates (v : View) (q : Nat) (write : Bool) : List Gate :=
  [trapIf (!v.live) 9 (viewTval 1 q), trapIf (!(if write then v.canWrite else v.canRead)) 9 (viewTval 2 q)]

/-- The companion of a view, where the command uses it: valid, and permitted (spec/07_views.md R157, R163); reason 5 names the view, reasons 1 and 2 its
companion. Log: DEDUCED, notes/assumptions/34.md; DESIGN CHOICE, notes/assumptions/109.md. -/
def Core.scaleGates (c : Core) (v : View) (q : Nat) (use write : Bool) : List Gate :=
  if use && v.sce then
    let n := v.scv.toNat
    trapIf (!companionOk v (c.view n) q n) 9 (viewTval 5 q) :: snapGates (c.view n) n write
  else []

/-- The companion's snapshot, not live where none is used. -/
def Core.scaleView (c : Core) (v : View) (use : Bool) : View := if use && v.sce && decide (v.kdim = 0) then c.view v.scv.toNat else {}

/-- The wait of a command for a place in the queue and for earlier accesses (spec/14_matrix.md R321). -/
def roomGates (c : Core) : List Gate := [goodGate c, waitUntil (decide (c.mq.length < 2))]

/-- Place a command in the core's queue. -/
def State.enqueue (s : State) (m : MCmd) : State :=
  { (s.modC fun c => { c with mq := c.mq ++ [{ m with id := s.nextId, order := s.nextId, act := c.uid }] }) with nextId := s.nextId + 1 }

/-- The accumulator a command names. -/
def MOp.accOf : MOp → Option (BitVec 2)
  | .mma _ _ _ _ a => some a | .zero a => some a | .rd a => some a | .satc _ a => some a | .ldb => none | .ring _ => none

/-- Whether the first-NaN trap of a core's group is armed (spec/12_numbers.md R296). -/
def State.groupArmed (s : State) : Bool := (s.group (s.c.act.getD {}).desc.ngrp.toNat).fnarm

/-- `mma`. Log: DEDUCED, notes/assumptions/34.md. -/
def execMma (pr : MmaPair) (tall ovr latch : Bool) (acc : BitVec 2) (qa qb : BitVec 4) (sc : Src) (s : State) : Host.Outcome State Fault Refusal :=
  let c := s.c
  let a := c.view qa.toNat
  let b : View := if latch then {} else c.view qb.toNat
  let mx := !(decide (pr = .bfbf) || decide (pr = .hfhf) || decide (pr = .sfsf))
  let uniform := mx && decide (sc.n ≠ 0)
  let use := mx && !uniform
  let ty := pairTypes pr
  let sh := shapeOf tall
  let kx := a.d0.extent.toNat
  let ac := c.scaleView a use
  let bc := c.scaleView b (use && !latch)
  let onB (gs : List Gate) : List Gate := if latch then [] else gs
  perform s (checked s
    ((if uniform then srcGates c [(sc, 2)] else [])
      ++ snapGates a qa.toNat false ++ onB (snapGates b qb.toNat false)
      ++ c.scaleGates a qa.toNat use false ++ onB (c.scaleGates b qb.toNat use false)
      ++ [matIf (decide (2 < a.rank)) 1 qa.toNat] ++ onB [matIf (decide (2 < b.rank)) 1 qb.toNat]
      ++ [matIf (decide (kx = 0) || decide (2048 < kx) || (!latch && decide (b.d0.extent.toNat ≠ kx)) || decide (sh.1 < a.rows)) 1 qa.toNat]
      ++ onB [matIf (decide (sh.2 < b.rows)) 1 qb.toNat]
      ++ [matIf (decide (a.ty.toNat ≠ ty.1)) 2 qa.toNat] ++ onB [matIf (decide (b.ty.toNat ≠ ty.2)) 2 qb.toNat]
      ++ [matIf (use && (!a.sce || decide (a.kdim ≠ 0))) 3 qa.toNat] ++ onB [matIf (use && (!b.sce || decide (b.kdim ≠ 0))) 3 qb.toNat]
      ++ [s.rangeGate ([a] ++ (if latch then [] else [b]) ++ (if ac.live then [ac] else []) ++ (if bc.live then [bc] else []))]
      ++ roomGates c)
    (s.enqueue
      { op := .mma pr tall ovr latch acc, a := a, b := b, ac := ac, bc := bc, aq := qa.toNat, bq := if latch then 16 else qb.toNat
        uniform := uniform, scales := (c.x sc.n).setWidth 16, markable := s.groupArmed, nk := (kx + 31) / 32 }))

/-- `mat.zero`. -/
def execMatZero (acc : BitVec 2) (s : State) : Host.Outcome State Fault Refusal :=
  perform s (checked s (roomGates s.c) (s.enqueue { op := .zero acc }))

/-- Whether a type code is one `mat.rd` writes. -/
def rdType (v : View) : Bool := (codeFp v.ty.toNat).isSome || decide (v.ty = 10) || (decide (v.ty = 16) && v.sce)

/-- `mat.rd`. Log: DEDUCED, notes/assumptions/34.md. -/
def execMatRd (q : BitVec 4) (acc : BitVec 2) (s : State) : Host.Outcome State Fault Refusal :=
  let c := s.c
  let v := c.view q.toNat
  let mx := (codeMx v.ty.toNat).isSome
  let cv := c.scaleView v mx
  perform s (checkedThen s
    (snapGates v q.toNat true ++ c.scaleGates v q.toNat mx true
      ++ [matIf (decide (2 < v.rank)) 1 q.toNat, matIf (!rdType v) 2 q.toNat, matIf (mx && v.sce && decide (v.kdim ≠ 0)) 3 q.toNat,
          s.rangeGate (v :: if cv.live then [cv] else []),
          waitUntil (!c.mq.any fun m => m.markable && decide (m.op.accOf = some acc)),
          waitUntil (!c.events.any fun e => decide (e.acc = acc) && decide (e.kind = .reportPending))]) fun _ =>
    s.reportThen (fun e => decide (e.acc = acc) && decide (e.kind ≠ .reason7)) (fun n => decide (n = acc.toNat)) fun _ =>
      checked s (roomGates c) (s.enqueue { op := .rd acc, a := v, ac := cv, aq := q.toNat }))

/-- `mat.slot` (spec/14_matrix.md R339): the write reaches the engine 4 engine cycles later. Log: DEDUCED, notes/assumptions/37.md; DESIGN CHOICE,
notes/assumptions/127.md. -/
def execMatSlot (sa sb : Src) (s : State) : Host.Outcome State Fault Refusal :=
  let c := s.c
  let i := (c.x sa.n).toNat
  let v := c.x sb.n
  let nib (n : Nat) : Nat := v.toNat / 16 ^ n % 16
  perform s (checked s
    (srcGates c (src2 sa sb) ++
      [trapIf (!(s.job c.jobNum).slotRight) 7 (BitVec.ofNat 64 (7 * 2 ^ 56)),
       matIf (decide (6 ≤ i) || (decide (i < 4) && (List.range 16).any fun n => decide (8 < nib n))
         || (decide (i = 4) && (List.range 8).any fun n => decide (nib n = 0))) 6 0])
    (({ s with nextId := s.nextId + 1 } : State).modCluster (coreCluster s.cur) fun g =>
      { g with engine := { g.engine with coming := g.engine.coming ++ [⟨s.nextId, s.cyc10 + 80, s.cur, i, v⟩] } }))

/-- Whether a type code is one `mat.ldb` loads (spec/14_matrix.md R333). -/
def ldbType (v : View) : Bool := (codeFp v.ty.toNat).isSome || decide (v.ty = 16)

/-- `mat.ldb`. Log: DEDUCED, notes/assumptions/34.md. -/
def execMatLdb (q : BitVec 4) (s : State) : Host.Outcome State Fault Refusal :=
  let c := s.c
  let v := c.view q.toNat
  let cv := c.scaleView v true
  let used := if (codeMx v.ty.toNat).isSome then cv else {}
  let kx := v.d0.extent.toNat
  perform s (checked s
    (snapGates v q.toNat false ++ c.scaleGates v q.toNat true false
      ++ [matIf (!ldbType v) 2 q.toNat, matIf (v.sce && decide (v.kdim ≠ 0)) 3 q.toNat,
          matIf (decide (2 < v.rank) || decide (2048 < kx) || decide (32 < v.rows) || decide (8192 < (kx * v.rows * v.eb + 7) / 8)) 4 q.toNat,
          s.rangeGate (v :: if used.live then [used] else [])]
      ++ roomGates c)
    (s.enqueue { op := .ldb, a := v, ac := used, aq := q.toNat }))

/-- `mat.ring` (spec/14_matrix.md R334). -/
def execMatRing (sa : Src) (s : State) : Host.Outcome State Fault Refusal :=
  let c := s.c
  let m : BitVec 8 := (c.x sa.n).setWidth 8
  perform s (checked s
    (srcGates c (src1 sa) ++ [matIf (!m.getLsbD (coreK s.cur) || decide (popCount m.toNat 8 < 2)) 5 0] ++ roomGates c)
    (s.enqueue { op := .ring m }))

/-- `mat.wait` (spec/14_matrix.md R335). -/
def execMatWait (acc : BitVec 2) (s : State) : Host.Outcome State Fault Refusal :=
  perform s (checkedThen s [waitUntil (!s.c.mq.any fun m => decide (m.op.accOf = some acc) || decide (m.op.accOf = none))] fun _ =>
    s.reportThen (fun e => decide (e.acc = acc)) (fun n => decide (n = acc.toNat) || decide (n = 4)) fun _ => .done s)

/-- `mat.satc` (spec/14_matrix.md R336). -/
def execMatSatc (rd : BitVec 5) (acc : BitVec 2) (s : State) : Host.Outcome State Fault Refusal :=
  let key := s.c.destKey rd
  perform s (checked s (destGate s.c rd :: roomGates s.c) ((s.enqueue { op := .satc key acc }).modC fun c => c.setEmptyKey key))

/-! Beginning and staging (spec/14_matrix.md R321, R322, R327). -/

/-- Accumulator `n` of a core. -/
def Core.acc (c : Core) (n : BitVec 2) : Acc := Map.get {} c.accs n.toNat
/-- Change an accumulator. -/
def Core.modAcc (c : Core) (n : BitVec 2) (f : Acc → Acc) : Core := { c with accs := Map.put c.accs n.toNat (f (c.acc n)) }
/-- Change a queued command. -/
def Core.modCmd (c : Core) (id : Nat) (f : MCmd → MCmd) : Core := { c with mq := c.mq.map fun m => if m.id = id then f m else m }

/-- The first command that has not begun, and the one before it. -/
def nextToBegin : List MCmd → Option MCmd → Option (MCmd × Option MCmd)
  | [], _ => none
  | m :: t, p => if m.begun then nextToBegin t (some m) else some (m, p)

/-- Whether a command may begin after the one before it. -/
def mayBegin (m : MCmd) (p : Option MCmd) : Bool :=
  match p with
  | none => true
  | some p =>
    match m.op, p.op with
    | .mma _ _ _ _ _, .mma _ _ _ _ _ => p.ended
    | _, _ => false

/-- Whether the latch fails an `mma` that reads it (spec/14_matrix.md R327). -/
def latchFails (l : Option Latch) (m : MCmd) (pr : MmaPair) : Bool :=
  match l with
  | none => true
  | some l =>
    decide (l.ty.toNat ≠ (pairTypes pr).2) || decide (l.kl ≠ m.a.d0.extent.toNat)
      || (!(decide (pr = .bfbf) || decide (pr = .hfhf) || decide (pr = .sfsf)) && !m.uniform && !l.scl)

/-- A command begins. -/
def Core.begin (c : Core) (m : MCmd) : Core :=
  match m.op with
  | .mma pr tall ovr latch acc =>
    if latch && latchFails c.latch m pr then c.modCmd m.id fun x => { x with begun := true, ended := true, failed := true }
    else
      (c.modAcc acc fun a => if ovr then { el := [], ovf := 0, tall := tall } else { a with tall := tall }).modCmd m.id
        fun x => { x with begun := true }
  | _ => c.modCmd m.id fun x => { x with begun := true }

/-- `MATRIX_COMMAND_BEGIN`. -/
def execMatrixCommandBegin (k : Nat) (s : State) : Host.Outcome State Fault Refusal :=
  match nextToBegin (s.core k).mq none with
  | some (m, p) => if mayBegin m p then .next (s.modCore k fun c => c.begin m) else .next s
  | none => .next s

/-- Accesses of the activation that stand before a command in program order and are not performed (spec/14_matrix.md R325, spec/07_views.md
R166). -/
def Core.spansBefore (c : Core) (k : Nat) (m : MCmd) : List Span :=
  c.posted.flatMap (·.spans k m.act) ++ c.l1.flatMap (·.spans k m.act)
    ++ (c.copies.filter fun x => !x.detached && decide (x.act = m.act) && decide (x.order < m.order)).flatMap (·.spans k)
    ++ (c.mq.filter fun x => decide (x.order < m.order)).flatMap (·.spans k)

/-- Whether no earlier access that meets one of the command's is outstanding. -/
def Core.clear (c : Core) (k : Nat) (m : MCmd) : Bool :=
  (m.spans k).all fun p => !(c.spansBefore k m).any p.ordered

/-- The inside positions of block `kb` of an operand view. -/
def blockPos (v : View) (kb : Nat) : List (Nat × Nat) :=
  (List.range v.rows).flatMap fun j =>
    ((List.range 32).map fun i => (32 * kb + i, j)).filter fun p => decide (p.1 < v.d0.extent.toNat)

/-- The patterns of block `kb`: 32 for each of `n` rows, zero outside. -/
def State.blockEls (s : State) (k : Nat) (v : View) (n kb : Nat) : List (List Nat) :=
  (List.range n).map fun j => (List.range 32).map fun i =>
    if j < v.rows ∧ 32 * kb + i < v.d0.extent.toNat then s.elem2 k v (32 * kb + i) j else 0

/-- The scale codes of block `kb`: 127, which stands for 1.0, outside and where a pair has no scales. -/
def State.blockScales (s : State) (k : Nat) (v cv : View) (uniform : Option Nat) (n kb : Nat) : List Nat :=
  (List.range n).map fun j =>
    if v.rows ≤ j then 127
    else match uniform with
      | some u => u
      | none => if cv.live then s.elem2 k cv kb j else 127

/-- Element (`k`, `j`) of the latch. -/
def Latch.elem (l : Latch) (k j : Nat) : Nat := if k < l.kl ∧ j < l.nl then (Map.get 0 l.el (k + 2048 * j)).toNat else 0

/-- The lines block `kb` of a command reads. -/
def MCmd.blockLines (m : MCmd) (kb : Nat) : List Nat :=
  let rows (v : View) : List (Nat × Nat) := (List.range v.rows).map fun j => (kb, j)
  (m.a.lines2 (blockPos m.a kb) ++ (if m.b.live then m.b.lines2 (blockPos m.b kb) else [])
    ++ (if m.ac.live then m.ac.lines2 (rows m.ac) else []) ++ (if m.bc.live then m.bc.lines2 (rows m.bc) else [])).eraseDups

/-- Block `kb` of a command's operands. Log: DEDUCED, notes/assumptions/35.md. -/
def State.fetchBlock (s : State) (k : Nat) (m : MCmd) (pr : MmaPair) (tall latch : Bool) (kb : Nat) : MBlock :=
  let sh := shapeOf tall
  let code (n : Nat) : Option Nat := if m.uniform then some (m.scales.toNat / 256 ^ n % 256) else none
  let a := s.blockEls k m.a sh.1 kb
  let sa := s.blockScales k m.a m.ac (code 0) sh.1 kb
  if latch then
    let l := (s.core k).latch.getD {}
    let scaled := !(decide (pr = .bfbf) || decide (pr = .hfhf) || decide (pr = .sfsf))
    { a := a, sa := sa, b := (List.range sh.2).map fun j => (List.range 32).map fun i => l.elem (32 * kb + i) j
      sb := (List.range sh.2).map fun j =>
        if l.nl ≤ j then 127 else match code 1 with
          | some u => u
          | none => if scaled then (Map.get 0 l.sc (kb + 64 * j)).toNat else 127 }
  else { a := a, sa := sa, b := s.blockEls k m.b sh.2 kb, sb := s.blockScales k m.b m.bc (code 1) sh.2 kb }

/-- The next block of a core's begun multiply is fetched, when it may be (spec/14_matrix.md R322). -/
def State.operandFetch (s : State) (k : Nat) : State :=
  let c := s.core k
  match c.mq.find? fun m => m.begun && !m.ended && decide (m.staged < m.nk) with
  | some m =>
    match m.op with
    | .mma pr tall _ latch _ =>
      let lines := m.blockLines m.staged
      if decide (m.staged < m.issued + 2) && c.clear k m && lines.all fun l => !c.empty.contains l then
        let s1 := lines.foldl (fun (s : State) l => s.logLine k l) s
        s1.modCore k fun c => c.modCmd m.id fun x => { x with staged := x.staged + 1, blocks := x.blocks ++ [s.fetchBlock k m pr tall latch m.staged] }
      else s
    | _ => s
  | none => s

/-- `OPERAND_FETCH`. -/
def execOperandFetch (k : Nat) (s : State) : Host.Outcome State Fault Refusal := .next (s.operandFetch k)

/-! Block steps (spec/12_numbers.md R287, R288). -/

/-- One element's block step. -/
def blockElem (acc : Nat) (a b : List Val) (sa sb : Nat) : Rounded :=
  let x := decodeFp .f32 acc
  let ps := (List.zipWith mulVal a b).map (·.val)
  if decide (sa = 0xFF) || decide (sb = 0xFF) || a.any Val.isNan || b.any Val.isNan || x.isNan then
    { bits := FTy.f32.nan, flags := flagIf (a.any Val.isSig || b.any Val.isSig || x.isSig) fNV }
  else if ps.any Val.isNan || (ps.contains (.inf false) && ps.contains (.inf true)) then { bits := FTy.f32.nan, flags := fNV }
  else
    match ps.find? fun p => decide (p = .inf false) || decide (p = .inf true) with
    | some p => if x = p.negate then { bits := FTy.f32.nan, flags := fNV } else { bits := FTy.f32.inf p.neg? }
    | none =>
      match x with
      | .inf n => { bits := FTy.f32.inf n }
      | _ =>
        let sum := ps.foldl (fun (acc p : Val) => (addVal acc p).val) (.zero false)
        let add := if sum.isZero then .zero false else sum.scale ((sa : Int) + sb - 254)
        roundFp .f32 .rne .inf (addVal x add).val

/-- One block step's results, row by row. -/
def blockStep (ta tb : Nat) (blk : MBlock) (old : List Nat) (n : Nat) : List Rounded :=
  let bs := (blk.b.map fun ps => ps.map (codeVal tb)).zip blk.sb
  ((blk.a.zip blk.sa).zipIdx.flatMap fun r =>
    let av := r.1.1.map (codeVal ta)
    bs.zipIdx.map fun q => (n * r.2 + q.2, av, q.1.1, r.1.2, q.1.2)).map fun e =>
      blockElem (old.getD e.1 0) e.2.1 e.2.2.1 e.2.2.2.1 e.2.2.2.2

/-- The elements of an accumulator in their order. -/
def Acc.elems (a : Acc) : List Nat := (List.range 1024).map fun i => (Map.get 0 a.el i).toNat

/-- A list of element patterns as a map that lists what is not zero. -/
def elemMap (xs : List (Nat × Nat)) : Map (BitVec 32) := (xs.filter fun p => decide (p.2 ≠ 0)).map fun p => (p.1, BitVec.ofNat 32 p.2)

/-- Whether a pattern is an f32 NaN. -/
def isNan32 (x : Nat) : Bool := (decodeFp .f32 x).isNan

/-- OVF with some more, held at its greatest value. -/
def addOvf (o : BitVec 32) (n : Nat) : BitVec 32 := BitVec.ofNat 32 (min (o.toNat + n) (2 ^ 32 - 1))

/-- A core's next block step (spec/14_matrix.md R327). -/
def Core.blockStep (c : Core) (m : MCmd) (pr : MmaPair) (tall : Bool) (acc : BitVec 2) : Core :=
  match m.blocks with
  | [] => c
  | blk :: rest =>
    let n := (shapeOf tall).2
    let old := (c.acc acc).elems
    let rs := Machine.blockStep (pairTypes pr).1 (pairTypes pr).2 blk old n
    let ovf := (rs.filter (·.toInf)).length
    let newNan := (rs.zip old).findIdx? fun p => isNan32 p.1.bits && !isNan32 p.2
    let nan : Option NanMark := match m.nan, newNan with
      | some x, _ => some x
      | none, some i => if m.markable then some ⟨m.issued, i / n, i % n⟩ else none
      | none, none => none
    let c1 := c.modAcc acc fun a => { a with el := elemMap (rs.zipIdx.map fun p => (p.2, p.1.bits)), ovf := addOvf a.ovf ovf }
    let c2 := c1.modCmd m.id fun x =>
      { x with
        blocks := rest, issued := x.issued + 1, ended := decide (x.nk ≤ x.issued + 1), nan := nan, sat := x.sat + ovf
        flags := rs.foldl (fun (f : BitVec 5) (r : Rounded) => f ||| r.flags) x.flags }
    { c2 with count := { c2.count with msteps := c2.count.msteps + 1 } }

/-! The grant of the array (spec/14_matrix.md R338 to R345). -/

/-- The command whose next block step is staged. -/
def Core.readyCmd (c : Core) : Option MCmd := c.mq.find? fun m => m.begun && !m.ended && !m.blocks.isEmpty

/-- The weight of core `i` in the current table. -/
def Engine.weight (e : Engine) (i : Nat) : Nat := Map.get 1 e.curW i

/-- Every credit at its weight. -/
def Engine.refill (e : Engine) : Engine := { e with credit := (List.range 8).map fun i => (i, e.weight i) }

/-- The weighted round-robin over the ready cores (spec/14_matrix.md R341). -/
def Engine.roundRobin (e : Engine) (ready : List Nat) : Option (Nat × Engine) :=
  let order := ((List.range 8).map fun i => (e.r + i) % 8).filter ready.contains
  let pick (e : Engine) : Option Nat := order.find? fun i => decide (0 < Map.get 1 e.credit i)
  let e' := if (pick e).isSome then e else e.refill
  (pick e').map fun i => (i, { e' with credit := Map.put e'.credit i (Map.get 1 e'.credit i - 1), r := (i + 1) % 8 })

/-- The grant of a slot: the core it names when that one is ready, else the round-robin. -/
def Engine.grant (e : Engine) (ready : List Nat) : Option (Nat × Engine) :=
  let code := Map.get 8 e.cur e.p
  let g : Option (Nat × Engine) := if ready.contains code then some (code, e) else e.roundRobin ready
  g.map fun x => (x.1, { x.2 with p := (x.2.p + 1) % 64 })

/-- Insert a write before those that arrive later: by engine cycle, then by core, then in issue order (spec/14_matrix.md R339). -/
def insertWrite (w : SlotWrite) : List SlotWrite → List SlotWrite
  | [] => [w]
  | x :: t =>
    if w.due / 20 < x.due / 20 ∨ (w.due / 20 = x.due / 20 ∧ w.core ≤ x.core) then w :: x :: t else x :: insertWrite w t

/-- A write has arrived once the engine cycle it arrives in is reached: all the writes of one engine cycle arrive together. -/
def SlotWrite.here (w : SlotWrite) (now : Nat) : Bool := decide (w.due / 20 ≤ now / 20)

/-- The pending table becomes the current one (spec/14_matrix.md R339). -/
def Engine.switch (e : Engine) : Engine := Engine.refill { e with cur := e.pend, curW := e.pendW, p := 0, r := 0, armed := none }

/-- The engine cycle of the first block-step boundary at which an armed switch is due, none while its time is not reached (spec/14_matrix.md R339). Log:
DEDUCED, notes/assumptions/121.md. -/
def State.switchCycle (s : State) (g : Nat) (e : Engine) : Option Nat :=
  e.armed.bind fun t =>
    let d := s.dieTime (g / 96)
    if t.toNat ≤ d then some (max e.armedAt ((max e.freeAt (s.cyc10 - (d - t.toNat) * s.rate)) / 20)) else none

/-- A write takes effect on the pending words, after a switch of an earlier engine cycle. Log: DEDUCED, notes/assumptions/121.md. -/
def State.slotWrite (s : State) (g : Nat) (e : Engine) (w : SlotWrite) : Engine :=
  (match s.switchCycle g e with | some t => if t < w.due / 20 then e.switch else e | none => e).write w

/-- The writes of `mat.slot` that have arrived at an engine take effect, each after the switches of earlier engine cycles; then the pending table becomes
current when an armed switch is due at a boundary (spec/14_matrix.md R339). Log: DEDUCED, notes/assumptions/121.md. -/
def State.slotsNow (s : State) (g : Nat) (e : Engine) : Engine :=
  let e1 := ((e.coming.filter fun w => w.here s.cyc10).foldr insertWrite []).foldl (s.slotWrite g)
    { e with coming := e.coming.filter fun w => !w.here s.cyc10 }
  match e1.armed with
  | some t => if t.toNat ≤ s.dieTime (g / 96) ∧ e1.freeAt ≤ s.cyc10 then e1.switch else e1
  | none => e1

/-- The slot table of a cluster's engine is brought up to the present (spec/14_matrix.md R339). -/
def State.slotSwitch (s : State) (g : Nat) : State :=
  let e := (s.cluster g).engine
  let e1 := s.slotsNow g e
  if e1 = e then s else s.modCluster g fun x => { x with engine := e1 }

/-- The slot tables of all engines are brought up to the present, so that no switch is late (spec/14_matrix.md R339). -/
def State.slotSwitches (s : State) : State :=
  { s with clusters := s.clusters.map fun g => (g.1, { g.2 with engine := s.slotsNow g.1 g.2.engine }) }

/-- `SLOT_TABLE_SWITCH`. -/
def execSlotTableSwitch (g : Nat) (s : State) : Host.Outcome State Fault Refusal := .next (s.slotSwitch g)

/-- The level after a window: one up if rule 1 held back a ready step and no filler ran, one down the other way round (spec/14_matrix.md R344). -/
def Engine.nextLevel (e : Engine) : Nat :=
  if e.heldBack && !e.filler then min 64 (e.level + 1) else if e.filler && !e.heldBack then e.level - 1 else e.level

/-- A window's end at engine cycle `now`: the level moves, by one at most and not within 128 engine cycles of its last move, and the new window counts
from zero (spec/14_matrix.md R344, R345). Log: DESIGN CHOICE, notes/assumptions/36.md. -/
def Engine.windowEnd (e : Engine) (now : Nat) : Engine :=
  let e1 := { e with busy := 0, heldBack := false, filler := false }
  match e.movedAt with
  | some t => if now < t + 128 ∨ e.nextLevel = e.level then e1 else { e1 with level := e.nextLevel, movedAt := some now }
  | none => if e.nextLevel = e.level then e1 else { e1 with level := e.nextLevel, movedAt := some now }

/-- The end of a window of 128 engine cycles, in every cluster, once it is due (spec/14_matrix.md R344). Log: DESIGN CHOICE, notes/assumptions/36.md. -/
def State.rampEnd (s : State) : State :=
  if s.cyc10 / 20 < s.nextWindow then s
  else
    { s with
      nextWindow := (s.cyc10 / 2560 + 1) * 128
      clusters := s.clusters.map fun g => (g.1, { g.2 with engine := g.2.engine.windowEnd (s.cyc10 / 20) }) }

/-- `RAMP_WINDOW_END`. -/
def execRampWindowEnd (s : State) : Host.Outcome State Fault Refusal := .next s.rampEnd

/-- A decision point of a cluster's engine (spec/14_matrix.md R340, R344), after a window's end and a switch that are due; while the array is held
nothing is decided. Log: DESIGN CHOICE, notes/assumptions/36.md. -/
def State.engineDecide (s0 : State) (g : Nat) : State :=
  let s := s0.rampEnd.slotSwitch g
  let e := (s.cluster g).engine
  let ready := (List.range 8).filter fun i => ((s.core (clusterCore g i)).readyCmd).isSome
  let put (s : State) (e : Engine) : State := s.modCluster g fun x => { x with engine := e }
  if s.cyc10 < e.freeAt then s
  else if 2 * e.level ≤ e.busy then (if ready.isEmpty then s else put s { e with heldBack := true })
  else
    match e.grant ready with
    | none => put s { e with busy := e.busy + 4, filler := true, freeAt := s.cyc10 + 20 * 4 }
    | some (i, e') =>
      let k := clusterCore g i
      match (s.core k).readyCmd with
      | some m =>
        match m.op with
        | .mma pr tall _ _ acc =>
          let t := stepTime pr
          (put s { e' with busy := e'.busy + t, freeAt := s.cyc10 + 20 * t }).modCore k fun c => c.blockStep m pr tall acc
        | _ => s
      | none => s

/-- `BLOCK_STEP_DECISION`. -/
def execBlockStepDecision (g : Nat) (s : State) : Host.Outcome State Fault Refusal := .next (s.engineDecide g)

/-! Completion (spec/14_matrix.md R327, R331 to R336). -/

/-- Flags and counts of an engine's command join the activation's set: nothing rolls them back (spec/12_numbers.md R292, R293). Log: DEDUCED,
notes/assumptions/57.md. -/
def State.engineEvent (s : State) (k : Nat) (f : BitVec 5) (n : Nat) : State :=
  let s1 := s.modCore k fun c => c.modCtxAll fun x =>
    { x with flags := x.flags ||| f, satcnt := BitVec.ofNat 64 (min (x.satcnt.toNat + n) (2 ^ 64 - 1)) }
  match (s.core k).act with
  | some a =>
    if f = 0 then s1
    else
      { s1 with
        fwds := s1.fwds ++ [{ id := s1.nextId, group := a.desc.ngrp.toNat, set := f, clear := 0, born := s1.dtime }], nextId := s1.nextId + 1 }
  | none => s1

/-- A command leaves the queue. -/
def Core.dropCmd (c : Core) (id : Nat) : Core := { c with mq := c.mq.filter fun m => decide (m.id ≠ id) }

/-- A multiply's completion: its failure, its first-NaN report, its flags. -/
def State.mmaDone (s : State) (k : Nat) (m : MCmd) (tall : Bool) (acc : BitVec 2) : State :=
  let ev (kind : MEvKind) (nan : NanMark) : Core → Core := fun c => { c with events := c.events ++ [⟨m.id, acc, kind, tall, nan⟩] }
  let s1 := if m.failed then s.modCore k (ev .reason7 ⟨0, 0, 0⟩) else s.engineEvent k m.flags m.sat
  match m.nan with
  | some n =>
    { (s1.modCore k (ev .reportPending n)) with
      nanReports := s1.nanReports ++ [⟨s1.nextId, ((s.core k).act.getD {}).desc.ngrp.toNat, k, m.id, m.act⟩], nextId := s1.nextId + 1 }
  | none => s1

/-- One element of `mat.rd`: round to nearest even with the sat rule. -/
def rdRound (ty x : Nat) : Rounded :=
  match codeFp ty with
  | some t => roundFp t .rne .sat (decodeFp .f32 x)
  | none => (CvtTy.int true 32).round .rne .sat (decodeFp .f32 x)

/-- What `mat.rd` writes: bit address, width and value, with the flags and the saturations of each (spec/14_matrix.md R332). Log: DEDUCED,
notes/assumptions/34.md. -/
def MCmd.rdWrites (m : MCmd) (acc : Acc) : List (Nat × Nat × Rounded) :=
  let v := m.a
  let sh := shapeOf acc.tall
  let el := acc.elems
  let at' (i j : Nat) : Nat := el.getD (sh.2 * i + j) 0
  let kx := v.d0.extent.toNat
  (List.range (min v.rows sh.1)).flatMap fun i =>
    match (if m.ac.live then codeMx v.ty.toNat else none) with
    | some e =>
      (List.range ((kx + 31) / 32)).flatMap fun b =>
        let blk := packBlock e (fun _ => .rne) ((List.range 32).map fun j =>
          if 32 * b + j < min kx sh.2 then decodeFp .f32 (at' i (32 * b + j)) else .zero false)
        ((m.ac.bit2 b i).toNat, 8, { bits := blk.scale, flags := blk.els.foldl (fun (f : BitVec 5) (r : Rounded) => f ||| r.flags) 0 })
          :: (blk.els.zipIdx.filter fun p => decide (32 * b + p.2 < min kx sh.2)).map fun p => ((v.bit2 (32 * b + p.2) i).toNat, v.eb, p.1)
    | none => (List.range (min kx sh.2)).map fun j => ((v.bit2 j i).toNat, v.eb, rdRound v.ty.toNat (at' i j))

/-- A `mat.rd`'s completion. -/
def State.rdDone (s : State) (k : Nat) (m : MCmd) (acc : BitVec 2) : State :=
  let ws := m.rdWrites ((s.core k).acc acc)
  let n := (ws.filter fun w => w.2.2.sat).length
  let s1 := ws.foldl (fun (s : State) w => s.putPadBits k w.1 w.2.1 w.2.2.bits) s
  let s2 := s1.modCore k fun c => c.modAcc acc fun a => { a with ovf := addOvf a.ovf n }
  s2.engineEvent k (ws.foldl (fun (f : BitVec 5) w => f ||| w.2.2.flags) 0) n

/-- The latch a view fills (spec/14_matrix.md R333). -/
def State.loadLatch (s : State) (k : Nat) (m : MCmd) : Latch :=
  let v := m.a
  { el := elemMap (v.all2.map fun p => (p.1 + 2048 * p.2, s.elem2 k v p.1 p.2)), ty := v.ty, kl := v.d0.extent.toNat, nl := v.rows, scl := m.ac.live
    sc := if m.ac.live then
        ((m.ac.all2.map fun p => (p.1 + 64 * p.2, BitVec.ofNat 8 (s.elem2 k m.ac p.1 p.2))).filter fun p => decide (p.2 ≠ 0))
      else [] }

/-- The lines a latch load reads. -/
def MCmd.loadLines (m : MCmd) : List Nat := m.a.lines2 m.a.all2 ++ if m.ac.live then m.ac.lines2 m.ac.all2 else []

/-- The oldest command of a core's queue completes, when it may. -/
def State.cmdComplete (s : State) (k : Nat) : State :=
  let c := s.core k
  match c.mq with
  | [] => s
  | m :: _ =>
    let drop (s : State) : State := s.modCore k fun c => c.dropCmd m.id
    if !m.begun then s
    else
      match m.op with
      | .mma _ tall _ _ acc => if m.ended then drop (s.mmaDone k m tall acc) else s
      | .zero acc => drop (s.modCore k fun c => c.modAcc acc fun a => { a with el := [], ovf := 0 })
      | .rd acc => if c.clear k m then drop (s.rdDone k m acc) else s
      | .ldb =>
        if c.clear k m && m.loadLines.all fun l => !c.empty.contains l then
          let s1 := m.loadLines.foldl (fun (s : State) l => s.logLine k l) s
          drop (s1.modCore k fun c => { c with latch := some (s.loadLatch k m) })
        else s
      | .ring _ => if m.ended then drop s else s
      | .satc key acc => drop (s.modCore k fun c => c.putKey key ⟨(c.acc acc).ovf.setWidth 64, true⟩)

/-- `MATRIX_COMMAND_COMPLETE`. -/
def execMatrixCommandComplete (k : Nat) (s : State) : Host.Outcome State Fault Refusal := .next (s.cmdComplete k)

/-! The ring (spec/14_matrix.md R334). -/

/-- A core's begun ring that has not rotated: its mask and job. -/
def State.ringAt (s : State) (k : Nat) : Option (BitVec 8 × Nat) :=
  match (s.core k).mq.find? fun m => m.begun && !m.ended with
  | some m => (match m.op with | .ring mask => some (mask, (s.core k).jobNum) | _ => none)
  | none => none

/-- The cores of a mask, ascending. -/
def maskCores (m : BitVec 8) : List Nat := (List.range 8).filter fun i => m.getLsbD i

/-- The rotation of a complete group: each latch passes to the next core of the mask, wrapping to the lowest. -/
def State.rotate (s : State) (g : Nat) (m : BitVec 8) : State :=
  let ks := (maskCores m).map (clusterCore g)
  let latches := ks.map fun k => (s.core k).latch
  let passed := latches.getLastD none :: latches
  (ks.zip passed).foldl (fun (s : State) (p : Nat × Option Latch) =>
    s.modCore p.1 fun c =>
      { c with
        latch := p.2
        mq := c.mq.map fun x => if x.begun && !x.ended then { x with ended := true } else x }) s

/-- `MAT_RING_ROTATION`. -/
def execMatRingRotation (g : Nat) (s : State) : Host.Outcome State Fault Refusal :=
  let whole (i : Nat) : Option (BitVec 8) :=
    match s.ringAt (clusterCore g i) with
    | some (m, j) => if (maskCores m).all fun p => decide (s.ringAt (clusterCore g p) = some (m, j)) then some m else none
    | none => none
  match (List.range 8).findSome? whole with
  | some m => .next (s.rotate g m)
  | none => .next s

end Sys2Proof.Machine
end

