-- ==== Sys2Proof/Decode.lean ====
section
/-! DEFINITION. The decoder, total on any word and on any bytes, and the encoder, both from the forms and minor-code
tables of spec/03_formats.md (R35 to R60). A word it does not answer is undefined (R61). -/

namespace Sys2Proof

/-- The major opcode, bits 6 to 0 (spec/03_formats.md R35). -/
def fMajor (w : Word) : BitVec 7 := w.extractLsb' 0 7
/-- Bits 11 to 7. -/
def fRd (w : Word) : BitVec 5 := w.extractLsb' 7 5
/-- Bits 14 to 12. -/
def fFn3 (w : Word) : BitVec 3 := w.extractLsb' 12 3
/-- Bits 19 to 15. -/
def fSa (w : Word) : BitVec 5 := w.extractLsb' 15 5
/-- Bits 24 to 20. -/
def fSb (w : Word) : BitVec 5 := w.extractLsb' 20 5
/-- Bit 25, Ea of forms N, T, S and B and Ec of form M. -/
def fE25 (w : Word) : BitVec 1 := w.extractLsb' 25 1
/-- Bit 26, Eb. -/
def fE26 (w : Word) : BitVec 1 := w.extractLsb' 26 1
/-- Bits 31 to 27: fn5, or sc of form T. -/
def fFn5 (w : Word) : BitVec 5 := w.extractLsb' 27 5
/-- Bits 31 to 21, imm11 of form I. -/
def fImm11 (w : Word) : BitVec 11 := w.extractLsb' 21 11
/-- Bit 20, Ea of form I. -/
def fE20 (w : Word) : BitVec 1 := w.extractLsb' 20 1
/-- imm10 of form S and disp10 of form B: bits 31 to 27 above bits 11 to 7. -/
def fImm10 (w : Word) : BitVec 10 := fFn5 w ++ fRd w
/-- Bits 31 to 12, imm20 of form U. -/
def fImm20 (w : Word) : BitVec 20 := w.extractLsb' 12 20
/-- Bits 31 to 7, imm25 of form J. -/
def fImm25 (w : Word) : BitVec 25 := w.extractLsb' 7 25
/-- Bits 31 to 25, fn7 of form V. -/
def fFn7 (w : Word) : BitVec 7 := w.extractLsb' 25 7

/-- One bit as a Boolean. -/
def bit1 (b : BitVec 1) : Bool := decide (b = 1)

/-- The sources of form N and its relatives (spec/03_formats.md R37, R39). -/
def srcA (w : Word) : Src := ⟨fSa w, bit1 (fE25 w)⟩
/-- The sb source with Eb. -/
def srcB (w : Word) : Src := ⟨fSb w, bit1 (fE26 w)⟩
/-- The sc source of form T with Ec in bit 14. -/
def srcC (w : Word) : Src := ⟨fFn5 w, bit1 (w.extractLsb' 14 1)⟩
/-- The sa source of form I with Ea in bit 20. -/
def srcAI (w : Word) : Src := ⟨fSa w, bit1 (fE20 w)⟩

/-- Sizes of two bits (spec/03_formats.md R48). -/
def Size.ofBits (b : BitVec 2) : Size :=
  match b.toNat with
  | 0 => .b | 1 => .h | 2 => .w | _ => .d

/-- Displacement sizes by fn3 (spec/03_formats.md R48). -/
def LdSize.ofNat? : Nat → Option LdSize
  | 0 => some .bs | 1 => some .hs | 2 => some .ws | 3 => some .d | 4 => some .bz | 5 => some .hz | 6 => some .wz
  | _ => none

/-- Precision P, fn3 bit 12 (spec/03_formats.md R47). -/
def Prec.ofBit (b : BitVec 1) : Prec := if b = 1 then .d else .s

/-- Conversion sources (spec/03_formats.md R47). -/
def FSrc.ofNat? : Nat → Option FSrc
  | 0 => some .other | 1 => some .s64 | 2 => some .z64 | _ => none

/-- Conditions of `fcmp` (spec/03_formats.md R47). -/
def FCond.ofCode : Nat → FCond
  | 0 => .eq | 1 => .lt | 2 => .le | _ => .un

/-- The element type of a vector major (spec/03_formats.md R54). -/
def VType.ofMajor? : Nat → Option VType
  | 0x20 => some .f32 | 0x21 => some .bf | 0x22 => some .hf
  | 0x23 => some .s8 | 0x24 => some .s16 | 0x25 => some .s32 | 0x26 => some .s64
  | 0x27 => some .z8 | 0x28 => some .z16 | 0x29 => some .z32 | 0x2A => some .z64
  | _ => none

/-- Type codes (spec/03_formats.md R55). -/
def NumType.ofCode : Nat → NumType
  | 0 => .f32 | 1 => .bf | 2 => .hf | 3 => .f8a | 4 => .f8b | 5 => .f6a | 6 => .f6b | 7 => .f4
  | 8 => .s8 | 9 => .s16 | 10 => .s32 | 11 => .s64 | 12 => .z8 | 13 => .z16 | 14 => .z32 | _ => .z64

/-- Rounding codes (spec/03_formats.md R55). -/
def RMode.ofNat? : Nat → Option RMode
  | 0 => some .rne | 1 => some .rtz | 2 => some .sr | _ => none

/-- MX element codes (spec/03_formats.md R56). -/
def MxElem.ofNat? : Nat → Option MxElem
  | 0 => some .f8a | 1 => some .f8b | 2 => some .f6a | 3 => some .f6b | 4 => some .f4 | 5 => some .i8 | _ => none

/-- MX wide codes (spec/03_formats.md R56). -/
def MxWide.ofNat? : Nat → Option MxWide
  | 0 => some .f32 | 1 => some .bf | 2 => some .hf | _ => none

/-- Format pairs by major (spec/03_formats.md R58). -/
def MmaPair.ofMajor? : Nat → Option MmaPair
  | 0x50 => some .bfbf | 0x51 => some .hfhf | 0x52 => some .f8af8a | 0x53 => some .f8af8b
  | 0x54 => some .f8bf8a | 0x55 => some .f8bf8b | 0x56 => some .f6af6a | 0x57 => some .f6bf6b
  | 0x58 => some .f6af6b | 0x59 => some .f6bf6a | 0x5A => some .f4f4 | 0x5B => some .f8af4
  | 0x5C => some .f4f8a | 0x5D => some .i8i8 | 0x5E => some .sfsf
  | _ => none

/-- Major 0x01 (spec/03_formats.md R45). -/
def decodeInt (w : Word) : Option Instr :=
  if fFn3 w ≠ 0 then none else
  match (fFn5 w).toNat with
  | 0 => some (.add (fRd w) (srcA w) (srcB w))
  | 1 => some (.sub (fRd w) (srcA w) (srcB w))
  | 2 => some (.and (fRd w) (srcA w) (srcB w))
  | 3 => some (.or (fRd w) (srcA w) (srcB w))
  | 4 => some (.xor (fRd w) (srcA w) (srcB w))
  | 5 => some (.andn (fRd w) (srcA w) (srcB w))
  | 6 => some (.sll (fRd w) (srcA w) (srcB w))
  | 7 => some (.srl (fRd w) (srcA w) (srcB w))
  | 8 => some (.sra (fRd w) (srcA w) (srcB w))
  | 9 => some (.rol (fRd w) (srcA w) (srcB w))
  | 10 => some (.slt (fRd w) (srcA w) (srcB w))
  | 11 => some (.sltz (fRd w) (srcA w) (srcB w))
  | 12 => some (.mul (fRd w) (srcA w) (srcB w))
  | 13 => some (.mulh (fRd w) (srcA w) (srcB w))
  | 14 => some (.mulhz (fRd w) (srcA w) (srcB w))
  | 15 => some (.div (fRd w) (srcA w) (srcB w))
  | 16 => some (.divz (fRd w) (srcA w) (srcB w))
  | 17 => some (.rem (fRd w) (srcA w) (srcB w))
  | 18 => some (.remz (fRd w) (srcA w) (srcB w))
  | 19 => some (.min (fRd w) (srcA w) (srcB w))
  | 20 => some (.max (fRd w) (srcA w) (srcB w))
  | 21 => some (.minz (fRd w) (srcA w) (srcB w))
  | 22 => some (.maxz (fRd w) (srcA w) (srcB w))
  | 23 => some (.clz (fRd w) (srcA w))
  | 24 => some (.ctz (fRd w) (srcA w))
  | 25 => some (.popc (fRd w) (srcA w))
  | 26 => some (.ins (fRd w) (srcA w) (srcB w))
  | 27 => some (.ext (fRd w) (srcA w) (srcB w))
  | _ => none

/-- Major 0x02 (spec/03_formats.md R45). -/
def decodeImm (w : Word) : Option Instr :=
  match (fFn3 w).toNat with
  | 0 => some (.addi (fRd w) (srcAI w) (fImm11 w))
  | 1 => some (.andi (fRd w) (srcAI w) (fImm11 w))
  | 2 => some (.ori (fRd w) (srcAI w) (fImm11 w))
  | 3 => some (.xori (fRd w) (srcAI w) (fImm11 w))
  | 4 => some (.slti (fRd w) (srcAI w) (fImm11 w))
  | 5 => some (.sltzi (fRd w) (srcAI w) (fImm11 w))
  | 6 =>
    match (w.extractLsb' 30 2).toNat with
    | 0 => some (.slli (fRd w) (srcAI w) (w.extractLsb' 21 6))
    | 1 => some (.srli (fRd w) (srcAI w) (w.extractLsb' 21 6))
    | 2 => some (.srai (fRd w) (srcAI w) (w.extractLsb' 21 6))
    | _ => none
  | _ => none

/-- Major 0x04 (spec/03_formats.md R48). -/
def decodeLoad (w : Word) : Option Instr :=
  match LdSize.ofNat? (fFn3 w).toNat with
  | some sz => some (.ld sz (fRd w) (srcAI w) (fImm11 w))
  | none =>
    let sz := Size.ofBits (w.extractLsb' 28 2)
    let zx := bit1 (w.extractLsb' 30 1)
    if w.extractLsb' 31 1 = 0 then
      let ord := w.extractLsb' 20 4
      if ord.toNat ≤ 5 then some (.ldOrdered sz zx ord (fRd w) (srcA w)) else none
    else
      let win := w.extractLsb' 20 2
      if win.toNat ≤ 2 then some (.ldp sz zx win (fRd w) (srcA w)) else none

/-- Major 0x05 (spec/03_formats.md R49). -/
def decodeStore (w : Word) : Option Instr :=
  let sz := Size.ofBits (w.extractLsb' 12 2)
  if w.extractLsb' 14 1 = 0 then some (.st sz (srcB w) (srcA w) (fImm10 w))
  else
    let ord := w.extractLsb' 27 4
    if ord.toNat = 0 ∨ (6 ≤ ord.toNat ∧ ord.toNat ≤ 10) then some (.stOrdered sz ord (srcB w) (srcA w)) else none

/-- Major 0x06 (spec/03_formats.md R46). -/
def decodeBranch (w : Word) : Option Instr :=
  match (fFn3 w).toNat with
  | 0 => some (.beq (srcA w) (srcB w) (fImm10 w))
  | 1 => some (.bne (srcA w) (srcB w) (fImm10 w))
  | 2 => some (.blt (srcA w) (srcB w) (fImm10 w))
  | 3 => some (.bge (srcA w) (srcB w) (fImm10 w))
  | 4 => some (.bltz (srcA w) (srcB w) (fImm10 w))
  | 5 => some (.bgez (srcA w) (srcB w) (fImm10 w))
  | _ => none

/-- Major 0x09 (spec/03_formats.md R46). -/
def decodeIndirect (w : Word) : Option Instr :=
  match (fFn5 w).toNat with
  | 0 => some (.jr (srcA w))
  | 1 => some (.callr (srcA w))
  | 2 => some .ret
  | _ => none

/-- Major 0x0A (spec/03_formats.md R47). -/
def decodeFp (w : Word) : Option Instr :=
  let p := Prec.ofBit (w.extractLsb' 12 1)
  let sel := (w.extractLsb' 13 2).toNat
  match (fFn5 w).toNat with
  | 0 => some (.fadd p (fRd w) (srcA w) (srcB w))
  | 1 => some (.fsub p (fRd w) (srcA w) (srcB w))
  | 2 => some (.fmul p (fRd w) (srcA w) (srcB w))
  | 3 => some (.fdiv p (fRd w) (srcA w) (srcB w))
  | 4 => some (.fsqrt p (fRd w) (srcA w))
  | 5 => some (.fmin p (fRd w) (srcA w) (srcB w))
  | 6 => some (.fmax p (fRd w) (srcA w) (srcB w))
  | 7 => some (.fcmp p (FCond.ofCode sel) (fRd w) (srcA w) (srcB w))
  | 8 => some (.fclass p (fRd w) (srcA w))
  | 9 => (FSrc.ofNat? sel).map fun s => .fcvtToFp p s (fRd w) (srcA w)
  | 10 => some (.fcvtS64 p (bit1 (w.extractLsb' 13 1)) (fRd w) (srcA w))
  | 11 => some (.fcvtZ64 p (bit1 (w.extractLsb' 13 1)) (fRd w) (srcA w))
  | _ => none

/-- Major 0x0B (spec/03_formats.md R47). -/
def decodeFma (w : Word) : Option Instr :=
  match (w.extractLsb' 12 2).toNat with
  | 0 => some (.fmaS (fRd w) (srcA w) (srcB w) (srcC w))
  | 1 => some (.fmaD (fRd w) (srcA w) (srcB w) (srcC w))
  | 2 => some (.csel (fRd w) (srcA w) (srcB w) (srcC w))
  | _ => none

/-- Major 0x0C (spec/03_formats.md R50). -/
def decodeAmo (w : Word) : Option Instr :=
  let ord := w.extractLsb' 28 4
  let dbl := bit1 (w.extractLsb' 27 1)
  match (fFn3 w).toNat with
  | 0 => some (.amoAdd ord dbl (fRd w) (srcA w) (srcB w))
  | 1 => some (.amoAnd ord dbl (fRd w) (srcA w) (srcB w))
  | 2 => some (.amoOr ord dbl (fRd w) (srcA w) (srcB w))
  | 3 => some (.amoXor ord dbl (fRd w) (srcA w) (srcB w))
  | 4 => some (.amoMin ord dbl (fRd w) (srcA w) (srcB w))
  | 5 => some (.amoMax ord dbl (fRd w) (srcA w) (srcB w))
  | 6 => some (.amoSwap ord dbl (fRd w) (srcA w) (srcB w))
  | _ =>
    if dbl then
      if (fSb w).toNat % 2 = 0 ∧ 2 ≤ (fSb w).toNat then some (.amoCasD ord (fRd w) (srcA w) (srcB w)) else none
    else some (.amoFaddW ord (fRd w) (srcA w) (srcB w))

/-- Major 0x0D (spec/03_formats.md R51). -/
def decodeFence (w : Word) : Option Instr :=
  match (fFn5 w).toNat with
  | 0 => if (fFn3 w).toNat ≤ 4 then some (.fence (fFn3 w)) else none
  | 1 => some (.lmarkE (srcA w))
  | 2 => some (.lmarkF (srcA w))
  | 3 => some (.lwaitf (srcA w))
  | 4 => some (.ltest (fRd w) (srcA w))
  | 5 => some (.l1Inv (srcA w) (srcB w))
  | 6 => some (.l1Wb (srcA w) (srcB w))
  | 7 => some (.iinv (srcA w) (srcB w))
  | _ => none

/-- Major 0x0E (spec/03_formats.md R51). -/
def decodeRemote (w : Word) : Option Instr :=
  match LdSize.ofNat? (fFn3 w).toNat with
  | some sz => some (.rld sz (fRd w) (srcAI w) (fImm11 w))
  | none => some .rstSync

/-- Major 0x0F (spec/03_formats.md R52). -/
def decodeCsr (w : Word) : Option Instr :=
  if csrDefined (fImm11 w) then
    match (fFn3 w).toNat with
    | 0 => some (.csrr (fRd w) (fImm11 w))
    | 1 => some (.csrw (fImm11 w) (srcAI w))
    | 2 => some (.csrs (fImm11 w) (srcAI w))
    | 3 => some (.csrc (fImm11 w) (srcAI w))
    | _ => none
  else none

/-- The low four bits of a register field that names a view (spec/03_formats.md R40). -/
def viewRd (w : Word) : BitVec 4 := w.extractLsb' 7 4
/-- The view in the sa field. -/
def viewSa (w : Word) : BitVec 4 := w.extractLsb' 15 4
/-- The view, or the number, in the sb field. -/
def viewSb (w : Word) : BitVec 4 := w.extractLsb' 20 4

/-- Majors 0x10 and 0x11 (spec/03_formats.md R53, spec/07_views.md R158, R167). -/
def decodeView (w : Word) : Option Instr :=
  match (fFn5 w).toNat with
  | 0 => some (.vwSet (viewRd w) (srcA w) (srcB w))
  | 1 => if (fFn3 w).toNat ≤ 3 then some (.vwDim (viewRd w) (w.extractLsb' 12 2) (srcA w) (srcB w)) else none
  | 2 => some (.vwFmt (viewRd w) (srcA w))
  | _ => none

/-- Major 0x11 (spec/03_formats.md R53). -/
def decodeViewAccess (w : Word) : Option Instr :=
  match (fFn5 w).toNat with
  | 0 => if (fFn3 w).toNat ≤ 5 then some (.vwGet (fRd w) (viewSa w) (fFn3 w)) else none
  | 1 => some (.vwLd (fRd w) (viewSa w) (srcB w))
  | 2 => some (.vwSt (fRd w) (viewSa w) (srcB w))
  | 3 => some (.vwMeet (fRd w) (viewSa w) (viewSb w))
  | 4 => some (.vwRet (viewSa w))
  | _ => none

/-- Major 0x12 (spec/03_formats.md R53). -/
def decodeCopy (w : Word) : Option Instr :=
  match (fFn3 w).toNat with
  | 0 => if (fFn5 w).toNat ≤ 13 then some (.cpw (fFn5 w) (srcA w)) else none
  | 1 => if (fFn5 w).toNat ≤ 14 then some (.cpr (fRd w) (fFn5 w)) else none
  | 2 => some (.cpgo (fRd w) (srcA w) (srcB w))
  | 3 => some (.cpcancel (srcA w))
  | _ => none

/-- Major 0x13 (spec/03_formats.md R53). -/
def decodeTag (w : Word) : Option Instr :=
  match (fFn5 w).toNat with
  | 0 => some (.tagWany (fRd w) (srcA w))
  | 1 => some (.tagWall (srcA w))
  | 2 => some (.tagFfr (fRd w) (srcA w))
  | 3 => some (.tagClr (srcA w))
  | 4 => some (.tagTest (fRd w) (srcA w))
  | _ => none

/-- Major 0x14 (spec/03_formats.md R53). -/
def decodeMsg (w : Word) : Option Instr :=
  match (fFn5 w).toNat with
  | 0 => some (.msgSend (fFn3 w) (srcA w) (srcB w))
  | 1 => some (.msgSendv (fFn3 w) (srcA w) (viewSb w))
  | 2 => some (.msgMcast (fFn3 w) (srcA w) (srcB w))
  | 3 => some (.msgReply (fFn3 w) (srcA w) (srcB w))
  | 4 => some (.msgAt (fFn3 w) (srcA w) (srcB w))
  | 5 => some (.msgFwd (srcA w))
  | 6 => some .msgDone
  | _ => none

/-- Major 0x15 (spec/03_formats.md R53). -/
def decodeActor (w : Word) : Option Instr :=
  match (fFn5 w).toNat with
  | 0 => some (.actRetire (srcA w) (srcB w))
  | 1 => some (.actPin (srcA w) (srcB w))
  | 2 => some (.actUnpin (srcA w) (srcB w))
  | 3 => some (.actMove (srcA w) (srcB w))
  | 4 => some (.actProbe (fRd w) (srcA w) (srcB w))
  | _ => none

/-- Major 0x16 (spec/03_formats.md R53). -/
def decodeTask (w : Word) : Option Instr :=
  match (fFn5 w).toNat with
  | 0 => some (.fork (srcA w) (srcB w))
  | 1 => some (.jcInit (srcA w) (srcB w))
  | 2 => some (.jcArrive (srcA w))
  | 3 => some (.depInit (srcA w) (srcB w))
  | 4 => some (.depDec (srcA w))
  | 5 => some (.depRead (fRd w) (srcA w))
  | _ => none

/-- Major 0x17 (spec/03_formats.md R53). -/
def decodeBarrier (w : Word) : Option Instr :=
  match (fFn5 w).toNat with
  | 0 => some (.barArrive (fRd w) (viewSb w))
  | 1 => some (.barWait (srcA w) (viewSb w))
  | 2 => some (.floorWait (srcA w))
  | 3 => some (.stampSet (srcA w))
  | _ => none

/-- Major 0x18 (spec/03_formats.md R53). Log: DEDUCED, notes/assumptions/129.md. -/
def decodeSystem (w : Word) : Option Instr :=
  match (fFn5 w).toNat with
  | 0 => some (.trap (srcA w))
  | 1 => some .eret
  | 2 => some .ebreak
  | 3 => some .ppt
  | 4 => some (.tlbi (srcA w) (srcB w))
  | _ => none

/-- Major 0x19 (spec/03_formats.md R53). -/
def decodeAllot (w : Word) : Option Instr :=
  let n : BitVec 3 := w.extractLsb' 20 3
  match (fFn5 w).toNat with
  | 0 => some (.allotSet (srcA w) (viewSb w))
  | 1 => if 1 ≤ n.toNat ∧ n.toNat ≤ 4 then some (.allotGrow n) else none
  | 2 => if 1 ≤ n.toNat ∧ n.toNat ≤ 4 then some (.allotShrink n) else none
  | 3 => some (.allotMirror (fSb w))
  | 4 => some (.allotQuery (fRd w))
  | _ => none

/-- Answer the instruction where the type is allowed (spec/03_formats.md R54). -/
def allowed (ok : Bool) (i : Instr) : Option Instr := if ok then some i else none

/-- Majors 0x20 to 0x2A (spec/03_formats.md R54). -/
def decodeVector (t : VType) (w : Word) : Option Instr :=
  let m := fFn3 w
  match (fFn7 w).toNat with
  | 0x00 => some (.vadd t (fRd w) (fSa w) (fSb w) m)
  | 0x01 => some (.vsub t (fRd w) (fSa w) (fSb w) m)
  | 0x02 => some (.vmul t (fRd w) (fSa w) (fSb w) m)
  | 0x03 => allowed t.isFp (.vfma t (fRd w) (fSa w) (fSb w) m)
  | 0x04 => some (.vmin t (fRd w) (fSa w) (fSb w) m)
  | 0x05 => some (.vmax t (fRd w) (fSa w) (fSb w) m)
  | 0x06 => allowed (t.isFp || t.isS) (.vabs t (fRd w) (fSa w) m)
  | 0x07 => allowed (t.isFp || t.isS) (.vneg t (fRd w) (fSa w) m)
  | 0x08 => allowed t.isInt (.vand t (fRd w) (fSa w) (fSb w) m)
  | 0x09 => allowed t.isInt (.vor t (fRd w) (fSa w) (fSb w) m)
  | 0x0A => allowed t.isInt (.vxor t (fRd w) (fSa w) (fSb w) m)
  | 0x0B => allowed t.isInt (.vsll t (fRd w) (fSa w) (fSb w) m)
  | 0x0C => allowed t.isInt (.vsrl t (fRd w) (fSa w) (fSb w) m)
  | 0x0D => allowed t.isInt (.vsra t (fRd w) (fSa w) (fSb w) m)
  | 0x10 => some (.vcmp .eq t (w.extractLsb' 7 3) (fSa w) (fSb w) m)
  | 0x11 => some (.vcmp .ne t (w.extractLsb' 7 3) (fSa w) (fSb w) m)
  | 0x12 => some (.vcmp .lt t (w.extractLsb' 7 3) (fSa w) (fSb w) m)
  | 0x13 => some (.vcmp .le t (w.extractLsb' 7 3) (fSa w) (fSb w) m)
  | 0x14 => some (.vcmp .gt t (w.extractLsb' 7 3) (fSa w) (fSb w) m)
  | 0x15 => some (.vcmp .ge t (w.extractLsb' 7 3) (fSa w) (fSb w) m)
  | 0x16 => some (.vsel t (fRd w) (fSa w) (fSb w) m)
  | 0x18 => some (.vredsum t (fRd w) (fSa w) m)
  | 0x19 => some (.vredmax t (fRd w) (fSa w) m)
  | 0x1A => some (.vredmin t (fRd w) (fSa w) m)
  | 0x1B => some (.vmaxidx t (fRd w) (fSa w) m)
  | 0x20 => some (.vperm t (fRd w) (fSa w) (fSb w) m)
  | 0x21 => some (.vbcast t (fRd w) (fSa w) m)
  | 0x22 => some (.vins t (fRd w) (fSa w) (fSb w) m)
  | 0x23 => some (.vext t (fRd w) (fSa w) (fSb w))
  | 0x24 => some (.vld t (fRd w) (fSa w) m)
  | 0x25 => some (.vst t (fRd w) (fSa w) m)
  | 0x28 => allowed t.isFp (.vlut t (fRd w) (fSa w) (fSb w) m)
  | 0x29 => allowed t.isFp (.vexp2 t (fRd w) (fSa w) m)
  | 0x2A => allowed t.isFp (.vrcp t (fRd w) (fSa w) m)
  | 0x2B => allowed t.isFp (.vrsqrt t (fRd w) (fSa w) m)
  | 0x2C => allowed t.dotOk (.vdot t (fRd w) (fSa w) (fSb w) m)
  | _ => none

/-- Major 0x2B (spec/03_formats.md R54). -/
def decodeMask (w : Word) : Option Instr :=
  match (fFn7 w).toNat with
  | 0 => some (.mand (w.extractLsb' 7 3) (w.extractLsb' 15 3) (w.extractLsb' 20 3))
  | 1 => some (.mor (w.extractLsb' 7 3) (w.extractLsb' 15 3) (w.extractLsb' 20 3))
  | 2 => some (.mnot (w.extractLsb' 7 3) (w.extractLsb' 15 3))
  | 3 => some (.mpop (fRd w) (w.extractLsb' 15 3))
  | _ => none

/-- Majors 0x30 to 0x3B (spec/03_formats.md R55). -/
def decodeCvt (w : Word) : Option Instr :=
  let dst := NumType.ofCode (w.extractLsb' 0 4).toNat
  let src := NumType.ofCode (w.extractLsb' 28 4).toNat
  let inf := bit1 (w.extractLsb' 25 1)
  match RMode.ofNat? (w.extractLsb' 26 2).toNat with
  | none => none
  | some rm =>
    allowed (dst.cvtDst && decide (dst ≠ src) && (!inf || decide (dst = .f8b)))
      (.cvt dst src rm inf (fRd w) (fSa w) (fFn3 w))

/-- Majors 0x3C to 0x3E (spec/03_formats.md R56). -/
def decodeMx (w : Word) : Option Instr :=
  match MxWide.ofNat? (w.extractLsb' 27 2).toNat with
  | none => none
  | some wide =>
    if (fMajor w).toNat = 0x3E then some (.mxScale wide (fRd w) (fSa w) (fSb w) (fFn3 w))
    else
      match MxElem.ofNat? (w.extractLsb' 29 3).toNat, RMode.ofNat? (w.extractLsb' 25 2).toNat with
      | some e, some rm =>
        if (fMajor w).toNat = 0x3C then some (.mxPack e wide rm (fRd w) (fSa w) (fSb w) (fFn3 w))
        else some (.mxUnpack wide e rm (fRd w) (fSa w) (fSb w) (fFn3 w))
      | _, _ => none

/-- Majors 0x50 to 0x5E (spec/03_formats.md R58). The sc field of the bf, hf and sf pairs and qb with bsrc=latch are
reserved and read as zero. -/
def decodeMma (pr : MmaPair) (w : Word) : Option Instr :=
  if w.extractLsb' 26 6 = 0 then
    let latch := bit1 (w.extractLsb' 9 1)
    some (.mma pr (bit1 (w.extractLsb' 11 1)) (bit1 (w.extractLsb' 10 1)) latch (w.extractLsb' 7 2)
      (w.extractLsb' 12 4) (if latch then 0 else w.extractLsb' 16 4)
      (if pr.isMx then ⟨fSb w, bit1 (fE25 w)⟩ else ⟨0, false⟩))
  else none

/-- The instruction of a word, or none where spec/03_formats.md R61 makes the word illegal. -/
def decode (w : Word) : Option Instr :=
  match (fMajor w).toNat with
  | 0x01 => decodeInt w
  | 0x02 => decodeImm w
  | 0x03 => some (.liu (fRd w) (fImm20 w))
  | 0x04 => decodeLoad w
  | 0x05 => decodeStore w
  | 0x06 => decodeBranch w
  | 0x07 => some (.j (fImm25 w))
  | 0x08 => some (.call (fImm25 w))
  | 0x09 => decodeIndirect w
  | 0x0A => decodeFp w
  | 0x0B => decodeFma w
  | 0x0C => decodeAmo w
  | 0x0D => decodeFence w
  | 0x0E => decodeRemote w
  | 0x0F => decodeCsr w
  | 0x10 => decodeView w
  | 0x11 => decodeViewAccess w
  | 0x12 => decodeCopy w
  | 0x13 => decodeTag w
  | 0x14 => decodeMsg w
  | 0x15 => decodeActor w
  | 0x16 => decodeTask w
  | 0x17 => decodeBarrier w
  | 0x18 => decodeSystem w
  | 0x19 => decodeAllot w
  | 0x1A => some (.addpc (fRd w) (fImm20 w))
  | 0x2B => decodeMask w
  | 0x3C => decodeMx w
  | 0x3D => decodeMx w
  | 0x3E => decodeMx w
  | 0x40 => some (.matZero (w.extractLsb' 7 2))
  | 0x41 => some (.matRd (viewRd w) (w.extractLsb' 15 2))
  | 0x42 => some (.matSlot (srcA w) (srcB w))
  | 0x43 => some (.matLdb (viewSa w))
  | 0x44 => some (.matRing (srcA w))
  | 0x45 => some (.matWait (w.extractLsb' 15 2))
  | 0x46 => some (.matSatc (fRd w) (w.extractLsb' 15 2))
  | mj =>
    if 0x70 ≤ mj then some .nop
    else if 0x30 ≤ mj ∧ mj ≤ 0x3B then decodeCvt w
    else
      match VType.ofMajor? mj, MmaPair.ofMajor? mj with
      | some t, _ => decodeVector t w
      | _, some pr => decodeMma pr w
      | _, _ => none

/-- The little-endian word of four bytes (spec/00_scope.md R3). -/
def wordOfBytes (b0 b1 b2 b3 : Byte) : Word := b3 ++ b2 ++ b1 ++ b0

/-- The instruction at the head of a byte string, with the bytes after it. -/
def decodeBytes : List Byte → Option (Instr × List Byte)
  | b0 :: b1 :: b2 :: b3 :: t => (decode (wordOfBytes b0 b1 b2 b3)).map fun i => (i, t)
  | _ => none

/-- The word of the opcode table's bit numbering: every bit above `nbits` is zero. -/
def tableWord (nbits w : Nat) : Word := BitVec.ofNat 32 (w % 2 ^ nbits)

/-- The instruction the decoder reads from a row's bits, laid out as the hardware stores them. -/
def decodeTableWord (nbits w : Nat) : Option Instr :=
  let v := tableWord nbits w
  (decodeBytes [v.extractLsb' 0 8, v.extractLsb' 8 8, v.extractLsb' 16 8, v.extractLsb' 24 8]).map Prod.fst

/-! The encoder. -/

/-- A Boolean as one bit. -/
def b1 (b : Bool) : BitVec 1 := if b then 1 else 0

/-- Form N (spec/03_formats.md R37). -/
def packN (fn5 : BitVec 5) (eb ea : BitVec 1) (sb sa : BitVec 5) (fn3 : BitVec 3) (rd : BitVec 5) (mj : BitVec 7) : Word :=
  fn5 ++ eb ++ ea ++ sb ++ sa ++ fn3 ++ rd ++ mj

/-- Form I. -/
def packI (imm : BitVec 11) (ea : BitVec 1) (sa : BitVec 5) (fn3 : BitVec 3) (rd : BitVec 5) (mj : BitVec 7) : Word :=
  imm ++ ea ++ sa ++ fn3 ++ rd ++ mj

/-- Form U. -/
def packU (imm : BitVec 20) (rd : BitVec 5) (mj : BitVec 7) : Word := imm ++ rd ++ mj

/-- Form J. -/
def packJ (imm : BitVec 25) (mj : BitVec 7) : Word := imm ++ mj

/-- Form V. -/
def packV (fn7 : BitVec 7) (vb va : BitVec 5) (m : BitVec 3) (vd : BitVec 5) (mj : BitVec 7) : Word :=
  fn7 ++ vb ++ va ++ m ++ vd ++ mj

/-- Form M (spec/03_formats.md R58). -/
def packM (ec : BitVec 1) (sc : BitVec 5) (qb qa : BitVec 4) (tall ovr latch : BitVec 1) (acc : BitVec 2) (mj : BitVec 7) : Word :=
  (0 : BitVec 6) ++ ec ++ sc ++ qb ++ qa ++ tall ++ ovr ++ latch ++ acc ++ mj

/-- A view or barrier number in a five-bit field. -/
def in5 (q : BitVec 4) : BitVec 5 := (0 : BitVec 1) ++ q
/-- An accumulator number in a five-bit field. -/
def acc5 (a : BitVec 2) : BitVec 5 := (0 : BitVec 3) ++ a
/-- A three-bit number in a five-bit field. -/
def m5 (m : BitVec 3) : BitVec 5 := (0 : BitVec 2) ++ m

/-- The register word of two sources. -/
def encRR (fn5 : BitVec 5) (fn3 : BitVec 3) (mj : BitVec 7) (rd : BitVec 5) (sa sb : Src) : Word :=
  packN fn5 (b1 sb.e) (b1 sa.e) sb.n sa.n fn3 rd mj

/-- The register word of one source. -/
def encR1 (fn5 : BitVec 5) (fn3 : BitVec 3) (mj : BitVec 7) (rd : BitVec 5) (sa : Src) : Word :=
  packN fn5 0 (b1 sa.e) 0 sa.n fn3 rd mj

/-- The immediate word. -/
def encI (fn3 : BitVec 3) (mj : BitVec 7) (rd : BitVec 5) (sa : Src) (imm : BitVec 11) : Word :=
  packI imm (b1 sa.e) sa.n fn3 rd mj

/-- The word of a ten-bit immediate split around the register fields. -/
def encS (fn3 : BitVec 3) (mj : BitVec 7) (sa sb : Src) (imm : BitVec 10) : Word :=
  packN (imm.extractLsb' 5 5) (b1 sb.e) (b1 sa.e) sb.n sa.n fn3 (imm.extractLsb' 0 5) mj

/-- The word of form T. -/
def encT (fn2 : BitVec 2) (mj : BitVec 7) (rd : BitVec 5) (sa sb sc : Src) : Word :=
  packN sc.n (b1 sb.e) (b1 sa.e) sb.n sa.n (b1 sc.e ++ fn2) rd mj

/-- Two-bit sizes. -/
def Size.toBits : Size → BitVec 2
  | .b => 0 | .h => 1 | .w => 2 | .d => 3
/-- fn3 of a displacement load. -/
def LdSize.toBits : LdSize → BitVec 3
  | .bs => 0 | .hs => 1 | .ws => 2 | .d => 3 | .bz => 4 | .hz => 5 | .wz => 6
/-- P. -/
def Prec.toBit : Prec → BitVec 1
  | .s => 0 | .d => 1
/-- Conversion sources. -/
def FSrc.toBits : FSrc → BitVec 2
  | .other => 0 | .s64 => 1 | .z64 => 2
/-- Conditions of `fcmp`. -/
def FCond.toBits : FCond → BitVec 2
  | .eq => 0 | .lt => 1 | .le => 2 | .un => 3
/-- The major of a vector type. -/
def VType.major : VType → BitVec 7
  | .f32 => 0x20 | .bf => 0x21 | .hf => 0x22 | .s8 => 0x23 | .s16 => 0x24 | .s32 => 0x25 | .s64 => 0x26
  | .z8 => 0x27 | .z16 => 0x28 | .z32 => 0x29 | .z64 => 0x2A
/-- fn7 of a comparison. -/
def VCond.fn7 : VCond → BitVec 7
  | .eq => 0x10 | .ne => 0x11 | .lt => 0x12 | .le => 0x13 | .gt => 0x14 | .ge => 0x15
/-- Type codes. -/
def NumType.code : NumType → BitVec 4
  | .f32 => 0 | .bf => 1 | .hf => 2 | .f8a => 3 | .f8b => 4 | .f6a => 5 | .f6b => 6 | .f4 => 7
  | .s8 => 8 | .s16 => 9 | .s32 => 10 | .s64 => 11 | .z8 => 12 | .z16 => 13 | .z32 => 14 | .z64 => 15
/-- Rounding codes. -/
def RMode.code : RMode → BitVec 2
  | .rne => 0 | .rtz => 1 | .sr => 2
/-- MX element codes. -/
def MxElem.code : MxElem → BitVec 3
  | .f8a => 0 | .f8b => 1 | .f6a => 2 | .f6b => 3 | .f4 => 4 | .i8 => 5
/-- MX wide codes. -/
def MxWide.code : MxWide → BitVec 2
  | .f32 => 0 | .bf => 1 | .hf => 2
/-- Majors of the format pairs. -/
def MmaPair.major : MmaPair → BitVec 7
  | .bfbf => 0x50 | .hfhf => 0x51 | .f8af8a => 0x52 | .f8af8b => 0x53 | .f8bf8a => 0x54 | .f8bf8b => 0x55
  | .f6af6a => 0x56 | .f6bf6b => 0x57 | .f6af6b => 0x58 | .f6bf6a => 0x59 | .f4f4 => 0x5A | .f8af4 => 0x5B
  | .f4f8a => 0x5C | .i8i8 => 0x5D | .sfsf => 0x5E

/-- The word of an encoded instruction, every reserved field zero (spec/03_formats.md R60). Events have no word. -/
def encode : Instr → Word
  | .add rd sa sb => encRR 0 0 0x01 rd sa sb
  | .sub rd sa sb => encRR 1 0 0x01 rd sa sb
  | .and rd sa sb => encRR 2 0 0x01 rd sa sb
  | .or rd sa sb => encRR 3 0 0x01 rd sa sb
  | .xor rd sa sb => encRR 4 0 0x01 rd sa sb
  | .andn rd sa sb => encRR 5 0 0x01 rd sa sb
  | .sll rd sa sb => encRR 6 0 0x01 rd sa sb
  | .srl rd sa sb => encRR 7 0 0x01 rd sa sb
  | .sra rd sa sb => encRR 8 0 0x01 rd sa sb
  | .rol rd sa sb => encRR 9 0 0x01 rd sa sb
  | .slt rd sa sb => encRR 10 0 0x01 rd sa sb
  | .sltz rd sa sb => encRR 11 0 0x01 rd sa sb
  | .mul rd sa sb => encRR 12 0 0x01 rd sa sb
  | .mulh rd sa sb => encRR 13 0 0x01 rd sa sb
  | .mulhz rd sa sb => encRR 14 0 0x01 rd sa sb
  | .div rd sa sb => encRR 15 0 0x01 rd sa sb
  | .divz rd sa sb => encRR 16 0 0x01 rd sa sb
  | .rem rd sa sb => encRR 17 0 0x01 rd sa sb
  | .remz rd sa sb => encRR 18 0 0x01 rd sa sb
  | .min rd sa sb => encRR 19 0 0x01 rd sa sb
  | .max rd sa sb => encRR 20 0 0x01 rd sa sb
  | .minz rd sa sb => encRR 21 0 0x01 rd sa sb
  | .maxz rd sa sb => encRR 22 0 0x01 rd sa sb
  | .clz rd sa => encR1 23 0 0x01 rd sa
  | .ctz rd sa => encR1 24 0 0x01 rd sa
  | .popc rd sa => encR1 25 0 0x01 rd sa
  | .ins rd sa sb => encRR 26 0 0x01 rd sa sb
  | .ext rd sa sb => encRR 27 0 0x01 rd sa sb
  | .addi rd sa imm => encI 0 0x02 rd sa imm
  | .andi rd sa imm => encI 1 0x02 rd sa imm
  | .ori rd sa imm => encI 2 0x02 rd sa imm
  | .xori rd sa imm => encI 3 0x02 rd sa imm
  | .slti rd sa imm => encI 4 0x02 rd sa imm
  | .sltzi rd sa imm => encI 5 0x02 rd sa imm
  | .slli rd sa sh => encI 6 0x02 rd sa ((0 : BitVec 2) ++ (0 : BitVec 3) ++ sh)
  | .srli rd sa sh => encI 6 0x02 rd sa ((1 : BitVec 2) ++ (0 : BitVec 3) ++ sh)
  | .srai rd sa sh => encI 6 0x02 rd sa ((2 : BitVec 2) ++ (0 : BitVec 3) ++ sh)
  | .liu rd imm => packU imm rd 0x03
  | .addpc rd imm => packU imm rd 0x1A
  | .csel rd sa sb sc => encT 2 0x0B rd sa sb sc
  | .fmaS rd sa sb sc => encT 0 0x0B rd sa sb sc
  | .fmaD rd sa sb sc => encT 1 0x0B rd sa sb sc
  | .beq sa sb disp => encS 0 0x06 sa sb disp
  | .bne sa sb disp => encS 1 0x06 sa sb disp
  | .blt sa sb disp => encS 2 0x06 sa sb disp
  | .bge sa sb disp => encS 3 0x06 sa sb disp
  | .bltz sa sb disp => encS 4 0x06 sa sb disp
  | .bgez sa sb disp => encS 5 0x06 sa sb disp
  | .j imm => packJ imm 0x07
  | .call imm => packJ imm 0x08
  | .jr sa => encR1 0 0 0x09 0 sa
  | .callr sa => encR1 1 0 0x09 0 sa
  | .ret => packN 2 0 0 0 0 0 0 0x09
  | .fadd p rd sa sb => encRR 0 ((0 : BitVec 2) ++ p.toBit) 0x0A rd sa sb
  | .fsub p rd sa sb => encRR 1 ((0 : BitVec 2) ++ p.toBit) 0x0A rd sa sb
  | .fmul p rd sa sb => encRR 2 ((0 : BitVec 2) ++ p.toBit) 0x0A rd sa sb
  | .fdiv p rd sa sb => encRR 3 ((0 : BitVec 2) ++ p.toBit) 0x0A rd sa sb
  | .fmin p rd sa sb => encRR 5 ((0 : BitVec 2) ++ p.toBit) 0x0A rd sa sb
  | .fmax p rd sa sb => encRR 6 ((0 : BitVec 2) ++ p.toBit) 0x0A rd sa sb
  | .fsqrt p rd sa => encR1 4 ((0 : BitVec 2) ++ p.toBit) 0x0A rd sa
  | .fclass p rd sa => encR1 8 ((0 : BitVec 2) ++ p.toBit) 0x0A rd sa
  | .fcmp p cond rd sa sb => encRR 7 (cond.toBits ++ p.toBit) 0x0A rd sa sb
  | .fcvtToFp p src rd sa => encR1 9 (src.toBits ++ p.toBit) 0x0A rd sa
  | .fcvtS64 p rtz rd sa => encR1 10 ((0 : BitVec 1) ++ b1 rtz ++ p.toBit) 0x0A rd sa
  | .fcvtZ64 p rtz rd sa => encR1 11 ((0 : BitVec 1) ++ b1 rtz ++ p.toBit) 0x0A rd sa
  | .ld sz rd sa imm => encI sz.toBits 0x04 rd sa imm
  | .ldOrdered sz zx ord rd sa => packN ((0 : BitVec 1) ++ b1 zx ++ sz.toBits ++ (0 : BitVec 1)) 0 (b1 sa.e) (in5 ord) sa.n 7 rd 0x04
  | .ldp sz zx win rd sa => packN ((1 : BitVec 1) ++ b1 zx ++ sz.toBits ++ (0 : BitVec 1)) 0 (b1 sa.e) (acc5 win) sa.n 7 rd 0x04
  | .st sz sb sa imm => encS ((0 : BitVec 1) ++ sz.toBits) 0x05 sa sb imm
  | .stOrdered sz ord sb sa => packN (in5 ord) (b1 sb.e) (b1 sa.e) sb.n sa.n ((1 : BitVec 1) ++ sz.toBits) 0 0x05
  | .amoAdd ord dbl rd sa sb => encRR (ord ++ b1 dbl) 0 0x0C rd sa sb
  | .amoAnd ord dbl rd sa sb => encRR (ord ++ b1 dbl) 1 0x0C rd sa sb
  | .amoOr ord dbl rd sa sb => encRR (ord ++ b1 dbl) 2 0x0C rd sa sb
  | .amoXor ord dbl rd sa sb => encRR (ord ++ b1 dbl) 3 0x0C rd sa sb
  | .amoMin ord dbl rd sa sb => encRR (ord ++ b1 dbl) 4 0x0C rd sa sb
  | .amoMax ord dbl rd sa sb => encRR (ord ++ b1 dbl) 5 0x0C rd sa sb
  | .amoSwap ord dbl rd sa sb => encRR (ord ++ b1 dbl) 6 0x0C rd sa sb
  | .amoFaddW ord rd sa sb => encRR (ord ++ (0 : BitVec 1)) 7 0x0C rd sa sb
  | .amoCasD ord rd sa sb => encRR (ord ++ (1 : BitVec 1)) 7 0x0C rd sa sb
  | .fence scope => packN 0 0 0 0 0 scope 0 0x0D
  | .lmarkE sa => encR1 1 0 0x0D 0 sa
  | .lmarkF sa => encR1 2 0 0x0D 0 sa
  | .lwaitf sa => encR1 3 0 0x0D 0 sa
  | .ltest rd sa => encR1 4 0 0x0D rd sa
  | .l1Inv sa sb => encRR 5 0 0x0D 0 sa sb
  | .l1Wb sa sb => encRR 6 0 0x0D 0 sa sb
  | .iinv sa sb => encRR 7 0 0x0D 0 sa sb
  | .rld sz rd sa imm => encI sz.toBits 0x0E rd sa imm
  | .rstSync => packN 0 0 0 0 0 7 0 0x0E
  | .csrr rd csr => packI csr 0 0 0 rd 0x0F
  | .csrw csr sa => packI csr (b1 sa.e) sa.n 1 0 0x0F
  | .csrs csr sa => packI csr (b1 sa.e) sa.n 2 0 0x0F
  | .csrc csr sa => packI csr (b1 sa.e) sa.n 3 0 0x0F
  | .vwSet q sa sb => encRR 0 0 0x10 (in5 q) sa sb
  | .vwDim q n sa sb => encRR 1 ((0 : BitVec 1) ++ n) 0x10 (in5 q) sa sb
  | .vwFmt q sa => encR1 2 0 0x10 (in5 q) sa
  | .vwGet rd q n => packN 0 0 0 0 (in5 q) n rd 0x11
  | .vwLd vd q sb => packN 1 (b1 sb.e) 0 sb.n (in5 q) 0 vd 0x11
  | .vwSt vd q sb => packN 2 (b1 sb.e) 0 sb.n (in5 q) 0 vd 0x11
  | .vwMeet rd qa qb => packN 3 0 0 (in5 qb) (in5 qa) 0 rd 0x11
  | .vwRet q => packN 4 0 0 0 (in5 q) 0 0 0x11
  | .cpw ce sa => packN ce 0 (b1 sa.e) 0 sa.n 0 0 0x12
  | .cpr rd ce => packN ce 0 0 0 0 1 rd 0x12
  | .cpgo rd sa sb => encRR 0 2 0x12 rd sa sb
  | .cpcancel sa => encR1 0 3 0x12 0 sa
  | .tagWany rd sa => encR1 0 0 0x13 rd sa
  | .tagWall sa => encR1 1 0 0x13 0 sa
  | .tagFfr rd sa => encR1 2 0 0x13 rd sa
  | .tagClr sa => encR1 3 0 0x13 0 sa
  | .tagTest rd sa => encR1 4 0 0x13 rd sa
  | .msgSend flags sa sb => encRR 0 flags 0x14 0 sa sb
  | .msgMcast flags sa sb => encRR 2 flags 0x14 0 sa sb
  | .msgReply flags sa sb => encRR 3 flags 0x14 0 sa sb
  | .msgAt flags sa sb => encRR 4 flags 0x14 0 sa sb
  | .msgSendv flags sa q => packN 1 0 (b1 sa.e) (in5 q) sa.n flags 0 0x14
  | .msgFwd sa => encR1 5 0 0x14 0 sa
  | .msgDone => packN 6 0 0 0 0 0 0 0x14
  | .actRetire sa sb => encRR 0 0 0x15 0 sa sb
  | .actPin sa sb => encRR 1 0 0x15 0 sa sb
  | .actUnpin sa sb => encRR 2 0 0x15 0 sa sb
  | .actMove sa sb => encRR 3 0 0x15 0 sa sb
  | .actProbe rd sa sb => encRR 4 0 0x15 rd sa sb
  | .fork sa sb => encRR 0 0 0x16 0 sa sb
  | .jcInit sa sb => encRR 1 0 0x16 0 sa sb
  | .jcArrive sa => encR1 2 0 0x16 0 sa
  | .depInit sa sb => encRR 3 0 0x16 0 sa sb
  | .depDec sa => encR1 4 0 0x16 0 sa
  | .depRead rd sa => encR1 5 0 0x16 rd sa
  | .barArrive rd n => packN 0 0 0 (in5 n) 0 0 rd 0x17
  | .barWait sa n => packN 1 0 (b1 sa.e) (in5 n) sa.n 0 0 0x17
  | .floorWait sa => encR1 2 0 0x17 0 sa
  | .stampSet sa => encR1 3 0 0x17 0 sa
  | .trap sa => encR1 0 0 0x18 0 sa
  | .eret => packN 1 0 0 0 0 0 0 0x18
  | .ebreak => packN 2 0 0 0 0 0 0 0x18
  | .ppt => packN 3 0 0 0 0 0 0 0x18
  | .tlbi sa sb => encRR 4 0 0x18 0 sa sb
  | .allotSet sa n => packN 0 0 (b1 sa.e) (in5 n) sa.n 0 0 0x19
  | .allotGrow n => packN 1 0 0 (m5 n) 0 0 0 0x19
  | .allotShrink n => packN 2 0 0 (m5 n) 0 0 0 0x19
  | .allotMirror vb => packN 3 0 0 vb 0 0 0 0x19
  | .allotQuery rd => packN 4 0 0 0 0 0 rd 0x19
  | .vadd t vd va vb m => packV 0x0 vb va m vd t.major
  | .vsub t vd va vb m => packV 0x1 vb va m vd t.major
  | .vmul t vd va vb m => packV 0x2 vb va m vd t.major
  | .vfma t vd va vb m => packV 0x3 vb va m vd t.major
  | .vmin t vd va vb m => packV 0x4 vb va m vd t.major
  | .vmax t vd va vb m => packV 0x5 vb va m vd t.major
  | .vand t vd va vb m => packV 0x8 vb va m vd t.major
  | .vor t vd va vb m => packV 0x9 vb va m vd t.major
  | .vxor t vd va vb m => packV 0xa vb va m vd t.major
  | .vsll t vd va vb m => packV 0xb vb va m vd t.major
  | .vsrl t vd va vb m => packV 0xc vb va m vd t.major
  | .vsra t vd va vb m => packV 0xd vb va m vd t.major
  | .vsel t vd va vb m => packV 0x16 vb va m vd t.major
  | .vperm t vd va vb m => packV 0x20 vb va m vd t.major
  | .vdot t vd va vb m => packV 0x2c vb va m vd t.major
  | .vabs t vd va m => packV 0x6 0 va m vd t.major
  | .vneg t vd va m => packV 0x7 0 va m vd t.major
  | .vredsum t vd va m => packV 0x18 0 va m vd t.major
  | .vredmax t vd va m => packV 0x19 0 va m vd t.major
  | .vredmin t vd va m => packV 0x1a 0 va m vd t.major
  | .vmaxidx t vd va m => packV 0x1b 0 va m vd t.major
  | .vexp2 t vd va m => packV 0x29 0 va m vd t.major
  | .vrcp t vd va m => packV 0x2a 0 va m vd t.major
  | .vrsqrt t vd va m => packV 0x2b 0 va m vd t.major
  | .vcmp cond t md va vb m => packV cond.fn7 vb va m (m5 md) t.major
  | .vbcast t vd xa m => packV 0x21 0 xa m vd t.major
  | .vins t vd xa xb m => packV 0x22 xb xa m vd t.major
  | .vext t xd va xb => packV 0x23 xb va 0 xd t.major
  | .vld t vd xa m => packV 0x24 0 xa m vd t.major
  | .vst t vd xa m => packV 0x25 0 xa m vd t.major
  | .vlut t vd va xb m => packV 0x28 xb va m vd t.major
  | .mand md ma mb => packV 0 (m5 mb) (m5 ma) 0 (m5 md) 0x2B
  | .mor md ma mb => packV 1 (m5 mb) (m5 ma) 0 (m5 md) 0x2B
  | .mnot md ma => packV 2 0 (m5 ma) 0 (m5 md) 0x2B
  | .mpop xd ma => packV 3 0 (m5 ma) 0 xd 0x2B
  | .cvt dst src rm inf vd va m => packV (src.code ++ rm.code ++ b1 inf) 0 va m vd ((3 : BitVec 3) ++ dst.code)
  | .mxPack e w rm vd va vb m => packV (e.code ++ w.code ++ rm.code) vb va m vd 0x3C
  | .mxUnpack w e rm vd va vb m => packV (e.code ++ w.code ++ rm.code) vb va m vd 0x3D
  | .mxScale w vd va vb m => packV ((0 : BitVec 3) ++ w.code ++ (0 : BitVec 2)) vb va m vd 0x3E
  | .matZero acc => packN 0 0 0 0 0 0 (acc5 acc) 0x40
  | .matRd q acc => packN 0 0 0 0 (acc5 acc) 0 (in5 q) 0x41
  | .matSlot sa sb => encRR 0 0 0x42 0 sa sb
  | .matLdb q => packN 0 0 0 0 (in5 q) 0 0 0x43
  | .matRing sa => encR1 0 0 0x44 0 sa
  | .matWait acc => packN 0 0 0 0 (acc5 acc) 0 0 0x45
  | .matSatc rd acc => packN 0 0 0 0 (acc5 acc) 0 rd 0x46
  | .mma pr tall ovr latch acc qa qb sc => packM (b1 sc.e) sc.n qb qa (b1 tall) (b1 ovr) (b1 latch) acc pr.major
  | .nop => 0x70
  | _ => 0

/-- Whether the row is an encoded instruction of majors 0x01 to 0x7F, and not an event. -/
def Instr.isWord : Instr → Bool
  | .illegalInstruction _ => false
  | .retryRedelivery _ => false
  | .spill _ => false
  | .fill _ => false
  | .carveOutApply _ => false
  | .pageWalk _ => false
  | .tlbInvalidation _ _ => false
  | .readRequest _ => false
  | .loadReply _ => false
  | .remoteLoadFailure _ => false
  | .replyTimeout _ _ => false
  | .postedOperation _ => false
  | .acknowledgement _ => false
  | .atomicRequest _ => false
  | .atomicReply _ => false
  | .codeMissEvent _ => false
  | .codeBlockLoaded _ => false
  | .codeMissTrap _ => false
  | .copyStart _ => false
  | .copyReadReply _ => false
  | .copyComplete _ _ => false
  | .copyFail _ _ => false
  | .homeMessageArrival _ => false
  | .refusalArrival _ => false
  | .hardwareResend _ _ => false
  | .timedMessageDue _ _ => false
  | .activationStart _ => false
  | .activationGoLive _ _ => false
  | .activationDoneAtHome _ => false
  | .idleTimerExpiry _ _ => false
  | .caveWriteAck _ _ => false
  | .caveFullEvent _ => false
  | .balancerPeriod => false
  | .migrationCommand _ _ _ => false
  | .moveRequest _ => false
  | .moveSourceReport _ => false
  | .moveComplete _ _ => false
  | .actorRequest _ => false
  | .probeReply _ => false
  | .steal _ => false
  | .counterOperation _ => false
  | .counterReply _ => false
  | .barrierPhaseComplete _ _ => false
  | .floorPublish => false
  | .groupFlagForward _ => false
  | .groupFlagBroadcast => false
  | .firstNanReport _ => false
  | .vectorCommandComplete _ => false
  | .matrixCommandBegin _ => false
  | .operandFetch _ => false
  | .blockStepDecision _ => false
  | .matrixCommandComplete _ => false
  | .matRingRotation _ => false
  | .slotTableSwitch _ => false
  | .rampWindowEnd => false
  | .preemptionRequest _ _ => false
  | .preemption _ => false
  | .forcedPreemption _ => false
  | .contextSaveComplete _ => false
  | .resumption _ => false
  | .packetHeadSwitch _ => false
  | .wheyArrival _ => false
  | .pull _ _ => false
  | .pullReceived _ => false
  | .retransmissionArrival _ => false
  | .goneReport _ => false
  | .holeTimeout _ _ => false
  | .retainTimeout _ _ => false
  | .unreachReport _ => false
  | .flitTagFailure _ _ => false
  | .keyInstall _ _ _ _ => false
  | .keyExhaustion _ => false
  | .claimCas _ _ _ => false
  | .claimWrite _ _ => false
  | .functionLevelReset _ => false
  | .createJob => false
  | .destroyJob => false
  | .defineClass => false
  | .writePlacementDomain => false
  | .copy => false
  | .assignNumericsGroup => false
  | .openSystemClass => false
  | .unknownOp => false
  | .attestationRequest _ _ => false
  | .doorbell _ _ => false
  | .queueActivate _ _ _ => false
  | .queueDrain _ _ _ => false
  | .notify _ _ => false
  | .notifyhead _ _ => false
  | .pwrcap _ _ => false
  | .registerWrite _ _ _ => false
  | .shadowReconcile => false
  | .tailEvent _ => false
  | .actorMessage _ => false
  | .addressOwnedActiveMessage _ => false
  | .jobControlFence _ => false
  | .barrierLoad _ => false
  | .killJob _ => false
  | .hostPartRefusal _ => false
  | .frontEndCoreFence _ => false
  | .queueDescriptorError _ => false
  | .secureBoot => false
  | .thermalThrottle => false
  | .thermalRecovery => false
  | .thermalTrip => false
  | .levelsumSample => false
  | .nernathAttach _ => false
  | .breakpointStop _ => false
  | .jobStop _ => false
  | .go _ => false
  | .step _ => false
  | .softwareBreakpointPatch _ _ _ => false
  | .reverseStep _ _ _ _ => false
  | .l1ExtraWriteBack _ _ => false
  | .returnedReply _ => false
  | .inspectionWrite _ _ _ => false
  | .unreadEccError _ => false
  | _ => true

end Sys2Proof
end

