-- ==== Sys2Proof/Machine/Service.lean ====
section
/-! DEFINITION. What serves cores from outside: walks of page tables, invalidations and code misses (spec/06_memory.md R121, R122, R146, spec/15_system.md R353). -/

namespace Sys2Proof.Machine

/-! Walks (spec/06_memory.md R121). -/

/-- Entries of a cluster's TLB. -/
def tlbSize : Nat := 512

/-- Fill a cluster's TLB with a leaf, as the most recently used; the least recently used goes when it is full. Log: DEDUCED, notes/assumptions/75.md. -/
def State.tlbFill (s : State) (g job : Nat) (e : Leaf) : State :=
  s.modCluster g fun c =>
    { c with tlb := (⟨job, e.page, e.size, e.leaf⟩ :: c.tlb.filter fun t => !(decide (t.job = job) && decide (t.page = e.page))).take tlbSize }

/-- What a walk's page fault does to who waits: the core's instruction traps, the copy fails. Log: DEDUCED, notes/assumptions/47.md. -/
def State.walkFault (s : State) (w : Waiter) : State :=
  match w with
  | .core k tval => if (s.core k).act.isNone || (s.core k).held.isSome then s else s.takeTrap k 6 tval
  | .copy k id va wr n =>
    match (s.core k).copyOf id.toNat with
    | some x => if x.st = .running then s.failCopy k x 6 va wr n else s
    | none => s

/-- The end of a walk: the entries are read through the L2 at their table homes, then the TLB of each waiting cluster is filled or the page
fault raised. Log: DEDUCED, notes/assumptions/49.md. -/
def State.walkDone (s : State) (id : Nat) : State :=
  match s.walks.find? fun w => decide (w.id = id) with
  | none => s
  | some w =>
    let s1 : State := { s with walks := s.walks.filter fun x => decide (x.id ≠ id) }
    let s2 := (s.walkReads w.page (s.job w.job).root 0 4).foldl (fun (s : State) a => s.l2Touch (tableHome a) a) s1
    match s.walk w.job w.page with
    | some e => w.waiters.foldl (fun (s : State) x => s.tlbFill x.1 w.job e) s2
    | none => w.waiters.foldl (fun (s : State) x => s.walkFault x.2) s2

/-- `PAGE_WALK`. -/
def execPageWalk (id : Nat) (s : State) : Host.Outcome State Fault Refusal := .next (s.walkDone id)

/-! Invalidations (spec/06_memory.md R122). -/

/-- Whether an invalidation names a TLB entry. -/
def Inval.hits (v : Inval) (t : Tlb) : Bool :=
  decide (t.job = v.job) && (v.all || (decide (t.page ≤ v.va) && decide (v.va < t.page + t.size) && (decide (v.size = 0) || decide (t.size = v.size))))

/-- Whether a span touches what an invalidation names: a page of 1 GiB at most around its address. -/
def Inval.meets (v : Inval) (lo hi : Int) : Bool :=
  let b := if v.size = 0 then 2 ^ 30 else v.size
  decide (2 ^ 40 ≤ hi) && (v.all || (decide (lo < ((v.va / b * b + b : Nat) : Int)) && decide (((v.va / b * b : Nat) : Int) ≤ hi)))

/-- Whether accesses that a core translated before are not all performed; bytes a store left in the L1 are performed by their write-back
(spec/16_model.md R374). Log: DEDUCED, notes/assumptions/48.md. -/
def Core.translating (c : Core) (v : Inval) : Bool :=
  (decide (c.jobNum = v.job) && ((c.out.any fun a => decide (a.st = .pending) && v.meets a.lo a.hi) || c.storing.any fun p => v.meets p.lo p.hi))
    || c.posted.any (fun p => decide (p.job = v.job) && (decide (p.kind = 3) || v.meets p.lo p.hi))
    || c.l1.any (fun x => decide (x.job = v.job) && decide (x.dirty ≠ 0))
    || c.copies.any fun x => decide (x.job = v.job) && decide (0 < x.reads + x.writes)

/-- A cluster takes an invalidation: matching entries go; it acknowledges once what it translated through them is performed. Walks read the table when
they end, so one in progress needs no restart. Dirty bytes of the job's stores leave for their homes. Log: DEDUCED, notes/assumptions/48.md; DESIGN
CHOICE, notes/assumptions/98.md. -/
def State.invalidate (s : State) (id g : Nat) : State :=
  match s.invals.find? fun v => decide (v.id = id) with
  | none => s
  | some v =>
    if !v.left.contains g then s
    else
      let s0 := s.modCluster g fun c => { c with tlb := c.tlb.filter fun t => !v.hits t }
      let s1 := (List.range 8).foldl (fun (s : State) i => s.writeBackIf (clusterCore g i) fun x => decide (x.job = v.job)) s0
      if (List.range 8).any fun i => (s1.core (clusterCore g i)).translating v then s1
      else
        let left := v.left.filter fun x => decide (x ≠ g)
        { s1 with invals := (s1.invals.map fun x => if x.id = id then { x with left := left } else x).filter fun x => !x.left.isEmpty }

/-- `TLB_INVALIDATION`. -/
def execTlbInvalidation (id g : Nat) (s : State) : Host.Outcome State Fault Refusal := .next (s.invalidate id g)

/-! Code misses (spec/15_system.md R353, spec/06_memory.md R146). -/

/-- The block of a cluster's store that a fetch hits (spec/06_memory.md R146). -/
def State.fetchHit (s : State) (g job : Nat) (pc : BitVec 32) : Option Nat :=
  (List.range 16).find? fun i => let w := s.blockTag g i; tagOf w job && decide (tagBlock w = pc.toNat / 4096)

/-- Place of the word a hit fetches. -/
def fetchPlace (g i : Nat) (pc : BitVec 32) : Nat := placeStore g (0x80000 + 4096 * i + pc.toNat % 4096)

/-- Whether an activation of class 0 runs (spec/10_actors.md R225). Log: DESIGN CHOICE, notes/assumptions/18.md. -/
def Core.inClass0 (c : Core) : Bool := match c.act with | some a => decide (a.kind = .actor) && decide (a.cls = 0) | none => false

/-- The word at a core's PC, none where the fetch misses. Fleiz's class 0 handler is there for the activations of class 0 (DESIGN CHOICE,
notes/assumptions/18.md). -/
def State.fetchWord (s : State) (k : Nat) : Option Word :=
  let c := s.core k
  let g := coreCluster k
  if c.pc = class0Entry ∧ c.inClass0 then some class0Word
  else (s.fetchHit g c.jobNum c.pc).map fun i => BitVec.ofNat 32 (s.load (fetchPlace g i c.pc) 4)

/-- A core that holds a fetch posts its event to the pool; while 256 other events are pending it waits. -/
def State.postMiss (s : State) (k : Nat) : State :=
  match (s.core k).fetch with
  | some h =>
    if h.taken || !s.eventRoom then s
    else
      { (s.modCore k fun c => { c with fetch := some { h with taken := true } }) with
        feEvents := s.feEvents ++ [.codeMiss k (s.core k).jobNum h.addr] }
  | none => s

/-- `CODE_MISS_EVENT`. -/
def execCodeMissEvent (k : Nat) (s : State) : Host.Outcome State Fault Refusal := .next (s.postMiss k)

/-- The event a core's held fetch has posted. -/
def State.missOf (s : State) (k : Nat) : Option (Nat × BitVec 32) :=
  s.feEvents.findSome? fun e => match e with | .codeMiss i j a => if i = k then some (j, a) else none | _ => none

/-- The 4,096 bytes of a job's code image at a block, none where the image lacks them or they cannot be read. -/
def State.codeBlock (s : State) (job block : Nat) : Option (List Byte) :=
  let j := s.job job
  if j.codelen < 4096 * block + 4096 then none
  else
    (List.range 4096).foldr (fun i (r : Option (List Byte)) =>
      match r, s.placeOf? job (j.code.toNat + 4096 * block + i) with
      | some l, some p => if s.placeFail p.2 (lineOf p.1) = 0 then some (s.byte p.1 :: l) else none
      | _, _ => none) (some [])

/-- The block of a cluster's store that a load replaces: the first that is not valid; else Fleiz's choice, which the spec leaves open
(DESIGN CHOICE, notes/assumptions/28.md). -/
def State.victimBlock (s : State) (g : Nat) : Nat × State :=
  match (List.range 16).find? fun i => decide (s.blockTag g i < 2 ^ 63) with
  | some i => (i, s)
  | none => ((Config.freeWord s.free).toNat % 16, { s with free := s.free + 1 })

/-- The word of `ebreak` (spec/15_system.md R358). -/
def ebreakWord : Word := 0x10000018

/-- The software breakpoints of a job that lie in a block, patched into a store (spec/19_debug.md R451). -/
def State.patchBlock (s : State) (g job block i : Nat) : State :=
  (s.job job).patches.foldl (fun (s : State) p =>
    if p.on && decide (p.addr.toNat / 4096 = block) then s.store (placeStore g (0x80000 + 4096 * i + p.addr.toNat % 4096)) 4 ebreakWord.toNat else s) s

/-- The control core on which Fleiz patches (spec/01_machine.md R7). Log: DESIGN CHOICE, notes/assumptions/88.md; DESIGN CHOICE,
notes/assumptions/45.md. -/
def patchCore : Nat := controlCore 0

/-- Whether a store that patches a cluster's instruction store is on its way: Fleiz loads no block there meanwhile. Log: DESIGN CHOICE,
notes/assumptions/45.md. -/
def State.patching (s : State) (g : Nat) : Bool := (s.core patchCore).posted.any fun p => decide (p.ep = core0 g)

/-- Load a block into a cluster's store. -/
def State.loadBlock (s : State) (g job block : Nat) (bytes : List Byte) : State :=
  let (i, s) := s.victimBlock g
  let s := s.storeList (placeStore g (0x80000 + 4096 * i)) bytes
  let s := s.store (tagPlace g i) 8 (2 ^ 63 + job % 256 * 2 ^ 40 + block * 4096)
  s.patchBlock g job block i

/-- A core whose held fetch ends: one at which a pre-emption request stands is pre-empted there, since a held fetch is a pre-emption point
(spec/15_system.md R365, R368). -/
def State.fetchEnds (s : State) (k : Nat) : State :=
  let stands := s.preqStands k
  s.modCore k fun c => { c with fetch := none, preempting := c.preempting || stands }

/-- `CODE_BLOCK_LOADED`: Fleiz loads the block and the fetch is made again. -/
def execCodeBlockLoaded (k : Nat) (s : State) : Host.Outcome State Fault Refusal :=
  .next (match s.missOf k with
    | none => s
    | some (j, a) =>
      if !s.poolTakes (.codeMiss k j a) || s.patching (coreCluster k) then s
      else match s.codeBlock j (a.toNat / 4096) with
        | none => s
        | some bs =>
          let s1 := (s.poolDrop (.codeMiss k j a)).loadBlock (coreCluster k) j (a.toNat / 4096) bs
          match (s.core k).fetch with
          | some h => if h.addr = a ∧ (s.core k).jobNum = j then s1.fetchEnds k else s1
          | none => s1)

/-- `CODE_MISS_TRAP`: Fleiz reports the code absent and the fetched instruction traps. -/
def execCodeMissTrap (k : Nat) (s : State) : Host.Outcome State Fault Refusal :=
  .next (match s.missOf k with
    | none => s
    | some (j, a) =>
      if !s.poolTakes (.codeMiss k j a) || (s.codeBlock j (a.toNat / 4096)).isSome then s
      else
        let s1 := s.poolDrop (.codeMiss k j a)
        match (s.core k).fetch with
        | some h =>
          if h.addr = a ∧ h.taken ∧ (s.core k).jobNum = j then
            if s.preqStands k then s1.fetchEnds k else (s1.fetchEnds k).takeTrap k 12 (a.setWidth 64)
          else s1
        | none => s1)

end Sys2Proof.Machine
end

