-- ==== Sys2Proof/Machine/Preempt.lean ====
section
/-! DEFINITION. Pre-emption: requests, the save of an activation's context and its resumption (spec/15_system.md R365 to R370). -/

namespace Sys2Proof.Machine

/-- `PREEMPTION_REQUEST` (spec/15_system.md R365, spec/18_frontend.md R435): the request that Fleiz has to make is made; it is ignored unless the core lies
in the job's cluster set and the job has a better priority than that of the running activation. Log: DEDUCED, notes/assumptions/103.md. -/
def execPreemptionRequest (k job : Nat) (s : State) : Host.Outcome State Fault Refusal :=
  .next (if !s.requests.contains (k, job) then s
    else
      let s1 : State := { s with requests := s.requests.erase (k, job) }
      let j := s.job job
      match (s.core k).act with
      | some a =>
        if j.live && j.cset.getLsbD (coreCluster k) && decide (j.prio.toNat < (s.job a.job).prio.toNat) then
          s1.modCore k fun c => { c with preq := some job }
        else s1
      | none => s1)

/-- Whether the core waits at a pre-emption point that is no `ppt`: `bar.wait`, `floor.wait` or a held fetch (spec/15_system.md R368). -/
def State.waitsAtPoint (s : State) (k : Nat) : Bool :=
  let c := s.core k
  c.fetch.isSome ||
    match s.fetchWord k with
    | some w => (match decode w with | some (.barWait _ _) => true | some (.floorWait _) => true | _ => false)
    | none => false

/-- Whether a core has drained (spec/15_system.md R368): no access outstanding, the vector and matrix queues empty, nothing under way at its boundary. -/
def Core.drained (c : Core) : Bool :=
  c.out.isEmpty && c.vq.isEmpty && c.storing.isEmpty && c.mq.isEmpty && c.timers.isEmpty && c.finish.isNone && c.trapWait.isNone && c.held.isNone && !c.stepping

/-- The bytes of the scratchpad a context record holds: the spill images and the software stack (spec/15_system.md R369). -/
def State.savedBytes (s : State) (k : Nat) : List (Nat × Byte) :=
  let x := (s.core k).ctx
  let lines := (List.range x.spilled).map (x.spillBase.toNat + ·)
    ++ (List.range (x.spillTop.toNat - x.spillLim.toNat)).map (x.spillLim.toNat + ·)
  (lines.flatMap fun l => (List.range 128).map fun i => 128 * l + i).map fun o => (o, s.byte (placePad k o))

/-! Context records (spec/15_system.md R369). The table gives the areas and what stands in each; how an area's items lie in it, and where Fleiz places
the records, is the model's (DESIGN CHOICE, notes/assumptions/76.md). -/

/-- Where the records of a core lie: three pages of 64 KiB for each priority, below the cave reserve. Log: DESIGN CHOICE, notes/assumptions/76.md. -/
def contextPlace (k prio : Nat) : Nat := placeDev (0x7C00000000 + (3 * k + (prio - 1)) * 0x30000)

/-- Fields of some widths laid one behind the other: offset, bytes, value. -/
def packFields : Nat → List (Nat × Nat) → List (Nat × Nat × Nat)
  | _, [] => []
  | o, (n, v) :: t => (o, n, v) :: packFields (o + n) t

/-- A number as `n` doublewords from an offset on. -/
def packWords (o n v : Nat) : List (Nat × Nat × Nat) := (List.range n).map fun i => (o + 8 * i, 8, v / 2 ^ (64 * i) % 2 ^ 64)

/-- The full/empty bits of the resident window slots, oldest first, 16 to a slot. Log: DESIGN CHOICE, notes/assumptions/76.md. -/
def Saved.fullBits (x : Saved) : Nat :=
  (List.range (x.ctx.depth + 2 - x.ctx.spilled)).foldl (fun n i =>
    (frameKeys (x.ctx.spilled + i)).zipIdx.foldl (fun n p => n + if (Map.get {} x.xs p.1).full then 2 ^ (16 * i + p.2) else 0) n) 0

/-- The first 128 bytes: PC to MIRROR in the table's order, then the full/empty bits of the twelve oldest window slots, for which the slots leave no
room. Log: DESIGN CHOICE, notes/assumptions/76.md. -/
def Saved.headFields (x : Saved) : List (Nat × Nat × Nat) :=
  let z := x.ctx
  let w := (z.wany.head?).getD ⟨0, 0⟩
  packFields 0
    [(4, x.pc.toNat), (8, (z.status.word false).toNat), (4, z.cause.toNat), (4, z.epc.toNat), (8, z.tval.toNat),
     (8, 4 * z.tvecAddr.toNat + (if z.tvecEn then 2 ^ 63 else 0)), (4, z.flags.toNat), (8, z.satcnt.toNat), (4, z.stamp.toNat), (4, z.gen.toNat),
     (8, z.spilled % 2 ^ 16 * 2 ^ 16 + z.depth % 2 ^ 16), (4, z.spillLim.toNat * 128), (8, z.instret.toNat), (8, z.tags.toNat), (4, w.key),
     (8, w.mask.toNat), (4, z.allotV), (4, z.mirror.toNat), (24, x.fullBits)]

/-- The registers outside the windows: x1 to x7, masks, views, the copy engine, tag status. Log: DESIGN CHOICE, notes/assumptions/76.md. -/
def Saved.regFields (x : Saved) : List (Nat × Nat × Nat) :=
  let z := x.ctx
  ((List.range 7).map fun i => (0x80 + 8 * i, 8, (Map.get {} x.xs (i + 1)).val.toNat))
    ++ ((List.range 7).map fun i => (0x100 + 16 * i, 16, (Map.get 0 x.ms (i + 1)).toNat))
    ++ ((List.range 16).flatMap fun q =>
      let v := Map.get {} z.views q
      packFields (0x180 + 48 * q) [(8, v.base.toNat), (8, v.header.toNat), (8, v.d0.word.toNat), (8, v.d1.word.toNat), (8, v.d2.word.toNat), (8, v.d3.word.toNat)])
    ++ ((List.range 14).map fun n => (0x480 + 8 * n, 8, (z.ceReg n).toNat))
    ++ ((List.range 64).map fun t => (0x500 + 2 * t, 2, (Map.get 0 x.tagStat t).toNat + (if x.tagBusy.getLsbD t then 2 else 0)))

/-- The matrix state: latch fields, OVF and shape tags, latch elements column by column, latch scales, accumulators. Log: DESIGN CHOICE,
notes/assumptions/76.md. -/
def Saved.matrixFields (x : Saved) : List (Nat × Nat × Nat) :=
  let acc (n : Nat) : Acc := Map.get {} x.accs n
  let l := x.latch.getD {}
  let eb := typeBits l.ty.toNat
  let blocks := (l.kl + 31) / 32
  packFields 0x580
      ([(1, if x.latch.isSome then 1 else 0), (1, l.ty.toNat), (1, if l.scl then 1 else 0),
        (1, (List.range 4).foldl (fun n i => n + if (acc i).tall then 2 ^ i else 0) 0), (2, l.kl), (2, l.nl)]
        ++ (List.range 4).map fun i => (4, (acc i).ovf.toNat))
    ++ packWords 0x600 1024 (l.el.foldl (fun n e => n + e.2.toNat % 2 ^ eb * 2 ^ (eb * (e.1 / 2048 * l.kl + e.1 % 2048))) 0)
    ++ (l.sc.map fun e => (0x2600 + e.1 / 64 * blocks + e.1 % 64, 1, e.2.toNat))
    ++ (List.range 4).flatMap fun i => (acc i).el.map fun e => (0x2800 + 4096 * i + 4 * e.1, 4, e.2.toNat)

/-- What follows the fixed part: the resident window slots, oldest first, the vector registers, the spill images and the software stack. -/
def Saved.tailFields (x : Saved) : List (Nat × Nat × Nat) :=
  let z := x.ctx
  let w := z.depth + 2 - z.spilled
  let vs := 0x6800 + 128 * w
  ((List.range w).flatMap fun i =>
      (frameKeys (z.spilled + i)).zipIdx.map fun p => (0x6800 + 128 * i + 8 * p.2, 8, (Map.get {} x.xs p.1).val.toNat))
    ++ ((List.range z.allotV).flatMap fun n => packWords (vs + 128 * n) 16 (Map.get {} x.vs n).val.toNat)
    ++ x.spills.zipIdx.map fun p => (vs + 128 * z.allotV + p.2, 1, p.1.2.toNat)

/-- Bytes of a record. -/
def Saved.size (x : Saved) : Nat := 0x6800 + 128 * (x.ctx.depth + 2 - x.ctx.spilled + x.ctx.allotV) + x.spills.length

/-- Write a context record: every byte of it, the fields that are zero and what lies between them as zeros. Log: DESIGN CHOICE, notes/assumptions/76.md. -/
def State.writeRecord (s : State) (k : Nat) (x : Saved) : State :=
  let p := contextPlace k x.record
  (x.headFields ++ x.regFields ++ x.matrixFields ++ x.tailFields).foldl
    (fun (s : State) f => if f.2.2 = 0 then s else s.store (p + f.1) f.2.1 f.2.2) (s.zero p x.size)

/-- The context of the running activation. Log: DESIGN CHOICE, notes/assumptions/76.md. -/
def State.context (s : State) (k : Nat) (a : Act) : Saved :=
  let c := s.core k
  { record := (s.job a.job).prio.toNat, act := a, pc := c.pc, xs := c.xs, vs := c.vs.filter fun v => decide (v.1 < c.ctx.allotV), ms := c.ms
    ctx := { c.ctx with status := { c.ctx.status with jprio := (s.job a.job).prio } }, accs := c.accs, latch := c.latch
    events := c.events, gap := c.gap, tagBusy := c.tagBusy, tagStat := c.tagStat, spills := s.savedBytes k, logged := c.logged
    entering := c.entering }

/-- A core whose activation has been saved: what the activation keeps, its inbox slot and its copies, stays. -/
def Core.vacate (c : Core) (x : Saved) : Core :=
  { c with
    act := none, xs := [], vs := [], ms := [], ctx := {}, accs := [], latch := none, events := [], tagBusy := 0, tagStat := [], undo := []
    blocked := none, fetch := none, resumeAt := none, eng := .idle, enterWait := none, preempting := false, preq := none, tlbi := none
    drain := false, logged := [], entering := false, saved := x :: c.saved, saving := true }

/-- Whether the core's record for the priority of the running activation's job is free: priority 0 has none (spec/15_system.md R369). -/
def State.recordFree (s : State) (k job : Nat) : Bool :=
  let p := (s.job job).prio.toNat
  decide (p ≠ 0) && (s.core k).saved.all fun x => decide (x.record ≠ p)

/-- Pre-empt the running activation at its boundary: its context is saved. One that has no free record runs on. -/
def State.preempt (s : State) (k : Nat) : State :=
  match (s.core k).act with
  | none => s
  | some a =>
    let c := s.core k
    if !s.recordFree k a.job then s.modCore k fun c => { c with preempting := false }
    else if (c.preempting || (s.preqStands k && s.waitsAtPoint k)) && c.drained then
      (s.dropWaits k).modCore k fun x => x.vacate (s.context k a)
    else s

/-- `PREEMPTION` (spec/15_system.md R368). -/
def execPreemption (k : Nat) (s : State) : Host.Outcome State Fault Refusal := .next (s.preempt k)

/-- `FORCED_PREEMPTION` (spec/15_system.md R367): a request stands and DIST exceeds GAP + 2,048. -/
def execForcedPreemption (k : Nat) (s : State) : Host.Outcome State Fault Refusal :=
  let c := s.core k
  .next (match c.act with
    | some a =>
      if s.preqStands k && !c.preempting && c.held.isNone && c.finish.isNone && decide (c.gap ≠ 0xFFFFFFFF) && decide (c.gap.toNat + 2048 < s.dist k) then
        (s.actErr 9 k a (c.pc.setWidth 64) 15).modCore k fun c => { c with preempting := true }
      else s
    | none => s)

/-- `CONTEXT_SAVE_COMPLETE` (spec/15_system.md R369, R370): the record stands in device memory, its last line acknowledged, and a PREEMPT record produced
(spec/19_debug.md R449). -/
def execContextSaveComplete (k : Nat) (s : State) : Host.Outcome State Fault Refusal :=
  .next (if (s.core k).saving then
      let s1 := s.modCore k fun c => { c with saving := false }
      match (s.core k).saved with
      | x :: _ => (s1.writeRecord k x).traceOf k x.act.job x.act x.ctx.entryStamp 4 0 x.ctx.instret.toNat
      | [] => s1
    else s)

/-- The core with a saved activation put back (spec/15_system.md R370): RESUMED is set, DIST is 0, a pending `tag.wany` is judged again. Log:
DESIGN CHOICE, notes/assumptions/76.md; DESIGN CHOICE, notes/assumptions/107.md. -/
def Core.resumed (c : Core) (x : Saved) (now : Nat) (rest : List Saved) : Core :=
  let r := x.ctx.judgeWany
  let c1 : Core :=
    { c with
      act := some x.act, pc := x.pc, xs := fillTags x.xs r.2.2, vs := x.vs, ms := x.ms, ctx := { x.ctx with rot := r.1, wany := r.2.1, distBase := now }, accs := x.accs
      latch := x.latch, events := x.events, gap := x.gap, tagBusy := x.tagBusy, tagStat := x.tagStat, logged := x.logged, entering := x.entering
      heldSince := 0
      saved := rest }
  ((c1.modStatus fun t => { t with resumed := true }).startSpill).startFill

/-- Resume the most recently pre-empted activation (spec/15_system.md R370), with a RESUME record. -/
def State.resume (s : State) (k : Nat) : State :=
  match (s.core k).saved with
  | [] => s
  | x :: rest =>
    if s.between k && (s.core k).preq.isNone && (s.candidate k).isNone && !(s.job x.act.job).stopping then
      let s1 := x.spills.foldl (fun (s : State) b => s.store (placePad k b.1) 1 b.2.toNat) s
      let s2 := x.ctx.judgeWany.2.2.foldl (fun (s : State) f => s.logOf k x.act x.ctx.instret.toNat 5 0 (BitVec.ofNat 1024 f.2)) s1
      (s2.modCore k fun c => c.resumed x s.cycles rest).trace k 5 0 0
    else s

/-- `RESUMPTION`. -/
def execResumption (k : Nat) (s : State) : Host.Outcome State Fault Refusal := .next (s.resume k)

end Sys2Proof.Machine
end

