-- ==== Sys2Proof/Machine/Debug.lean ====
section
/-! DEFINITION. Debug: breakpoints, stops, steps, patches, replay and inspection (spec/19_debug.md R450 to R455), and what the device does by
itself to an L1 (spec/06_memory.md R123). -/

namespace Sys2Proof.Machine

/-- `NERNATH_ATTACH` (spec/19_debug.md R452): Fleiz sets the job's HOLD bit. -/
def execNernathAttach (job : Nat) (s : State) : Host.Outcome State Fault Refusal :=
  .next (if (s.job job).live then s.modJob job fun j => { j with hold := true } else s)

/-! Breakpoints (spec/19_debug.md R450, R452). -/

/-- The lowest-numbered breakpoint register of its cluster that a core's fetch matches. -/
def State.matchBp (s : State) (k : Nat) : Option Nat :=
  let c := s.core k
  let a := c.act.getD {}
  (List.range 16).find? fun i =>
    let b := Map.get {} (s.cluster (coreCluster k)).bps i
    b.en && decide (b.job.toNat = a.job) && (b.anyc || decide (b.cls = a.cls)) && decide (b.addr = c.pc.extractLsb' 2 30) && decide (c.pc.toNat % 4 = 0)

/-- The match that stops a core: its job is held, and it is not the instruction a stop has just let go. Log: DEDUCED, notes/assumptions/80.md. -/
def State.stopBp (s : State) (k : Nat) : Option Nat := if s.jobHeld k && !(s.core k).noMatch && !(s.core k).replay then s.matchBp k else none

/-- A breakpoint stop: STOP record with 1 and the register's number, then a job stop request. -/
def State.breakStop (s : State) (k n : Nat) : State := (s.holdCore k (1 + n)).stopJob (s.core k).jobNum

/-- The saved original word of a patched address. -/
def State.original (s : State) (job : Nat) (addr : BitVec 32) : Option Word :=
  ((s.job job).patches.find? fun p => decide (p.addr = addr)).map (·.word)

/-- The word a core executes where a fetch gives `w`: at an instruction that GO lets run, the saved original of a software breakpoint
(spec/19_debug.md R452). -/
def State.wordOf (s : State) (k : Nat) (w : Word) : Word :=
  let c := s.core k
  if c.noMatch then (s.original c.jobNum c.pc).getD w else w

/-! What a core does next (spec/15_system.md R353, R367, R368, spec/19_debug.md R450, R452). -/

/-- What a core does when it moves. -/
inductive CoreNext where
  /-- Nothing: it runs no activation, is held or gated, or waits for a reply, a block of code or write-backs. -/
  | nothing
  /-- A forced done goes on (spec/15_system.md R360). -/
  | finish (f : Finish) (a : Act)
  /-- A trap that waited for a window slot, log room or the vector unit is entered. -/
  | enter (cause : Nat) (tval : XWord)
  /-- A vector store posts more of its lines (spec/06_memory.md R139). -/
  | post
  /-- A single step has ended: the core is held again (spec/19_debug.md R452). -/
  | hold
  /-- The activation stands at `bar.wait`, `floor.wait` or a held fetch while a request stands: its pre-emption begins (spec/15_system.md R368). -/
  | yield
  /-- A request stands and DIST exceeds GAP + 2,048: the activation is pre-empted by force at this boundary (spec/15_system.md R367). -/
  | forced
  /-- A breakpoint register matches under HOLD. -/
  | stop (n : Nat)
  /-- The fetch traps: a matching breakpoint register, or failing storage. -/
  | trap (cause : Nat) (tval : XWord)
  /-- The fetch misses the instruction store (spec/15_system.md R353). -/
  | miss
  /-- The word at PC is executed. -/
  | run (w : Word)
  deriving DecidableEq, Repr

/-- Whether the clocks stand still (spec/18_frontend.md R445, R446). -/
def State.gated (s : State) : Bool := s.tripped || decide (3 ≤ s.power)

/-- Whether the word at a core's PC lies in failing storage (spec/15_system.md R353). -/
def State.fetchEcc (s : State) (k : Nat) : Bool :=
  let c := s.core k
  let g := coreCluster k
  match s.fetchHit g c.jobNum c.pc with
  | some i => !(decide (c.pc = class0Entry) && c.inClass0) && s.ecc.contains (lineOf (fetchPlace g i c.pc))
  | none => false

/-- The breakpoint register whose match traps: none while a debugger holds the job, and none in a replay. Log: DESIGN CHOICE, notes/assumptions/45.md;
DEDUCED, notes/assumptions/80.md. -/
def State.trapBp (s : State) (k : Nat) : Option Nat := if s.jobHeld k || (s.core k).replay then none else s.matchBp k

/-- What a fetch that hits brings: failing storage, a breakpoint, or the word. Log: DESIGN CHOICE, notes/assumptions/4.md. -/
def State.fetched (s : State) (k : Nat) (w : Word) : CoreNext :=
  if s.fetchEcc k then .trap 17 (Config.freeWord s.free)
  else
    match s.stopBp k, s.trapBp k with
    | some n, _ => .stop n
    | none, some n => .trap 16 (BitVec.ofNat 64 (2 ^ 63 + n))
    | none, none => .run (s.wordOf k w)

/-- Whether the activation yields at this boundary: a request stands at a pre-emption point, and a record is free for it. -/
def State.yields (s : State) (k : Nat) (a : Act) : Bool := s.preqStands k && s.recordFree k a.job && s.waitsAtPoint k

/-- Whether the activation is pre-empted by force at this boundary. -/
def State.overruns (s : State) (k : Nat) (a : Act) : Bool :=
  let c := s.core k
  s.preqStands k && s.recordFree k a.job && decide (c.gap ≠ 0xFFFFFFFF) && decide (c.gap.toNat + 2048 < s.dist k)

/-- What a core does next. -/
def State.coreNext (s : State) (k : Nat) : CoreNext :=
  let c := s.core k
  if s.gated || c.held.isSome then .nothing
  else
    match c.act, c.finish with
    | none, _ => .nothing
    | some a, some f => .finish f a
    | some a, none =>
      if c.blocked.isSome then .nothing
      else if !c.storing.isEmpty then .post
      else if c.fetch.isSome then (if !c.preempting && s.yields k a then .yield else .nothing)
      else
        match c.trapWait with
        | some t => .enter t.1 t.2
        | none =>
          if c.draining || c.preempting then .nothing
          else if c.stepping && !c.noMatch then .hold
          else if s.overruns k a then .forced
          else if s.yields k a then .yield
          else
            match s.fetchWord k with
            | none => .miss
            | some w => s.fetched k w

/-- Whether a core is about to fetch: nothing else is its next move. -/
def State.fetches (s : State) (k : Nat) : Bool :=
  match s.coreNext k with
  | .stop _ => true
  | .trap _ _ => true
  | .miss => true
  | .run _ => true
  | _ => false

/-- `BREAKPOINT_STOP` (spec/19_debug.md R452): a core whose fetch succeeds and matches, or whose fetched word is `ebreak`, stops; one whose step has ended
stops with CODE 19 before it fetches. Log: DEDUCED, notes/assumptions/80.md. -/
def execBreakpointStop (k : Nat) (s : State) : Host.Outcome State Fault Refusal :=
  .next (match s.coreNext k with
    | .hold => s.holdCore k 19
    | .stop n => s.breakStop k n
    | .run w => if decide (decode w = some .ebreak) && s.jobHeld k then s.breakStop k 16 else s
    | _ => s)

/-! Job stops (spec/19_debug.md R452). -/

/-- The cores of a job's cluster set. -/
def State.jobCores (s : State) (job : Nat) : List Nat := (maskClusters (s.job job).cset).flatMap fun g => (List.range 8).map (clusterCore g)

/-- `JOB_STOP` (spec/19_debug.md R452): every core of the job comes to a between-activations stop; one that runs no activation stops at once, another
when it has completed what it runs. -/
def execJobStop (job : Nat) (s : State) : Host.Outcome State Fault Refusal :=
  .next (if !(s.job job).live || (s.job job).stopping then s
    else
      let s1 := s.modJob job fun j => { j with stopping := true, stopReq := false, halted := [] }
      ((s.jobCores job).filter fun k => (s.core k).act.isNone).foldl (fun (s : State) k => (s.traceIdle k job 6 18).halt k job) s1)

/-- A held core goes on: DIST does not count what it was held, and its instruction does not match again. -/
def State.release (s : State) (k : Nat) (stepping : Bool) : State :=
  s.modCore k fun c =>
    ({ c with held := none, resumeAt := some c.boundary, stepping := stepping } : Core).modCtxAll fun x => { x with distBase := x.distBase + (s.cycles - c.heldSince) }

/-- GO at one core of the job: a held one goes on, and one that has come to its stop may start the job's candidates again, whatever it runs meanwhile. -/
def State.goCore (s : State) (job k : Nat) (halted : Bool) : State :=
  let c := s.core k
  if c.replay && decide (c.jobNum = job) then s.modCore k fun c => { c.clearAct with held := none, out := [] }
  else if c.held.isSome && decide (c.jobNum = job) then (s.trace k 7 0 0).release k false
  else if halted then s.traceIdle k job 7 0
  else s

/-- `GO` (spec/19_debug.md R452): one GO record on each stopped core. A replay ends there. Log: DESIGN CHOICE, notes/assumptions/45.md. -/
def execGo (job : Nat) (s : State) : Host.Outcome State Fault Refusal :=
  .next (if !(s.job job).live then s
    else
      let at_ := (s.job job).halted
      let s1 := s.modJob job fun j => { j with stopping := false, stopReq := false, halted := [] }
      (s.jobCores job).foldl (fun (s : State) k => s.goCore job k (at_.contains k)) s1)

/-- `STEP` (spec/19_debug.md R452): the held core executes one instruction, its waits included, and stops again. Log: DESIGN CHOICE, notes/assumptions/45.md. -/
def execStep (k : Nat) (s : State) : Host.Outcome State Fault Refusal :=
  .next (if (s.core k).held.isSome && !(s.core k).replay then s.release k true else s)

/-! The trace ring (spec/19_debug.md R448). -/

/-- The oldest record of a cluster's buffer is written to the next place of its job's ring, as class 3 traffic of the cluster's slice once its retain
buffer has room. Log: DEDUCED, notes/assumptions/83.md. -/
def State.flushTrace (s : State) (g : Nat) : State :=
  match (s.cluster g).trbuf with
  | [] => s
  | (job, r) :: rest =>
    let t := (s.job job).trace
    let s1 := s.modCluster g fun x => { x with trbuf := rest }
    if !(s.job job).live then s1
    else if !s.retainRoom (epHome g) (retainBytes 32) then s
    else
      let place := placeDev (t.base + 32 * (t.next % 2 ^ t.log))
      let off := place % 128
      let p : Posted :=
        { id := s.nextId, line := lineOf place, mask := byteMask off 32, data := BitVec.ofNat 1024 ((r.dw3 ++ r.dw2 ++ r.dw1 ++ r.dw0).toNat * 2 ^ (8 * off))
          core := epHome g, ep := epHome g, va := BitVec.ofNat 64 (placeAddr place) }
      ({ s1 with nextId := s.nextId + 1 }.modJob job fun j => { j with trace := { t with next := t.next + 1 } }).send
        { src := epHome g, dst := epHome g, cls := 3, body := .posted p, len := 32, retain := some (retainBytes 32) }

/-! Software breakpoints (spec/19_debug.md R451). -/

/-- The clusters of a job's set whose instruction stores hold a code address. -/
def State.codeClusters (s : State) (job : Nat) (addr : BitVec 32) : List Nat :=
  (maskClusters (s.job job).cset).filter fun g => (s.fetchHit g job addr).isSome

/-- The word at a code address of a job's image. -/
def State.imageWord (s : State) (job : Nat) (addr : BitVec 32) : Option Word :=
  (s.fleizRead job ((s.job job).code.toNat + addr.toNat) 4).map (BitVec.ofNat 32)

/-- The word at a code address as Fleiz keeps it: that of a store which holds it, else that of the image. -/
def State.codeWord (s : State) (job : Nat) (addr : BitVec 32) : Option Word :=
  match s.codeClusters job addr with
  | g :: _ => (s.fetchHit g job addr).map fun i => BitVec.ofNat 32 (s.load (fetchPlace g i addr) 4)
  | [] => s.imageWord job addr

/-- Fleiz posts the word of a patch to one cluster's store, through its aperture (spec/19_debug.md R451). -/
def State.postPatch (s : State) (p : Patch) (place : Nat) : State :=
  let off := place % 128
  let w := if p.on then ebreakWord else p.word
  let a := placeAddr place
  let q : Posted :=
    { va := BitVec.ofNat 64 a, line := lineOf place, mask := byteMask off 4, data := BitVec.ofNat 1024 (w.toNat * 2 ^ (8 * off)), lo := a, hi := a + 3
      core := patchCore, act := p.id, ep := padCore place }
  s.post patchCore q 2 (some q.room)

/-- The stores of a patch that have room are posted, at most 32 unacknowledged (spec/06_memory.md R139); the clusters left over wait. One whose store has
lost the block meanwhile needs none. Log: DESIGN CHOICE, notes/assumptions/45.md. -/
def State.postPatches (s : State) (job : Nat) (p : Patch) : List Nat → State × List Nat
  | [] => (s, [])
  | g :: t =>
    match s.fetchHit g job p.addr with
    | none => s.postPatches job p t
    | some i =>
      if decide ((s.core patchCore).posted.length < 32) && s.retainRoom patchCore (retainBytes 4) then
        (s.postPatch p (fetchPlace g i p.addr)).postPatches job p t
      else (s, g :: t)

/-- Whether every store of a patch has been posted and acknowledged: only then is it in place, or gone (spec/19_debug.md R451). -/
def State.settled (s : State) (p : Patch) : Bool := p.todo.isEmpty && (s.core patchCore).posted.all fun q => decide (q.act ≠ p.id)

/-- Whether the debugger is told that a patch is in place. -/
def State.patchInPlace (s : State) (job : Nat) (addr : BitVec 32) : Bool :=
  (s.job job).patches.any fun p => decide (p.addr = addr) && p.on && s.settled p

/-- A patch's stores go on; the entry of a removed one goes once all are acknowledged. -/
def State.goOnPatch (s : State) (job : Nat) (p : Patch) : State :=
  if !p.on && s.settled p then s.modJob job fun j => { j with patches := j.patches.filter fun x => decide (x.addr ≠ p.addr) }
  else
    let r := s.postPatches job p p.todo
    r.1.modJob job fun j => { j with patches := j.patches.map fun x => if x.addr = p.addr then { p with todo := r.2 } else x }

/-- A patch begins, or its removal: every store of the cluster set that holds the address is to be written. -/
def State.beginPatch (s : State) (job : Nat) (addr : BitVec 32) (w : Word) (on : Bool) : State :=
  let p : Patch := { addr := addr, word := w, on := on, todo := s.codeClusters job addr, id := s.nextId }
  let s1 : State := { s with nextId := s.nextId + 1 }
  (s1.modJob job fun j => { j with patches := j.patches.filter (fun x => decide (x.addr ≠ addr)) ++ [p] }).goOnPatch job p

/-- `SOFTWARE_BREAKPOINT_PATCH` (spec/19_debug.md R451): `ebreak` is posted over a code word to every store that holds it, or the original is posted
back; the event goes on with a patch whose stores have not all been posted and acknowledged. Log: DESIGN CHOICE, notes/assumptions/45.md. -/
def execSoftwareBreakpointPatch (job : Nat) (addr : BitVec 32) (on : Bool) (s : State) : Host.Outcome State Fault Refusal :=
  .next (if !(s.job job).live || decide (addr.toNat % 4 ≠ 0) then s
    else match (s.job job).patches.find? fun p => decide (p.addr = addr) with
      | some p => if !s.settled p || !p.on then s.goOnPatch job p else if on then s else s.beginPatch job addr p.word false
      | none =>
        if !on then s
        else match s.codeWord job addr with
          | some w => s.beginPatch job addr w true
          | none => s)

/-! Replay (spec/19_debug.md R455). -/

/-- A core that holds a replay as it stood at a boundary. -/
def Core.replaying (c : Core) (x : Core) (now : Nat) : Core :=
  { c with
    act := x.act, pc := x.pc, ir := x.ir, xs := x.xs, vs := x.vs, ms := x.ms, ctx := { x.ctx with distBase := now }, accs := x.accs, latch := x.latch, events := x.events
    tagBusy := x.tagBusy, tagStat := x.tagStat, eng := x.eng, gap := x.gap, held := some 19, heldSince := now, replay := true }

/-- Whether a boundary can be replayed to: nothing that was written to the replay region since its replay begins has been overwritten
(spec/19_debug.md R453, R455). Log: DESIGN CHOICE, notes/assumptions/46.md. -/
def State.replayable (s : State) (x : Snap) : Bool :=
  let r := (s.job x.job).capture
  match (x.core.act.getD {}).ck with
  | some n => decide (r.next ≤ n + r.lines)
  | none => false

/-- `REVERSE_STEP`: an idle core of the job's cluster set holds activation `id` as it stood at INSTRET `n`, with its private lines. A replay of
the activation that the core already holds is replaced. Log: DESIGN CHOICE, notes/assumptions/45.md; DESIGN CHOICE, notes/assumptions/46.md. -/
def execReverseStep (job id k n : Nat) (s : State) : Host.Outcome State Fault Refusal :=
  .next (let c := s.core k
    if !((c.act.isNone && !c.saving) || c.replay) || !((s.job job).cset.getLsbD (coreCluster k)) then s
    else match s.snaps.find? fun x => decide (x.job = job) && decide (x.uid = id) && decide (x.instret = n) with
      | none => s
      | some x =>
        let lines := ((List.range (x.core.spsize / 128)).filter fun l => x.core.privateLine l)
        let s1 := lines.foldl (fun (s : State) l => s.zero (placePad k (128 * l)) 128) s
        let s2 := x.priv.foldl (fun (s : State) b => s.store (placePad k b.1) 1 b.2.toNat) s1
        if s.replayable x then s2.modCore k fun c => c.replaying x.core s.cycles else s)

/-! Inspection and the device's own choices. -/

/-- A word with doubleword `dw` replaced. -/
def putDw {n : Nat} (w : BitVec n) (dw : Nat) (v : XWord) : BitVec n :=
  (w &&& ~~~((BitVec.allOnes 64).setWidth n <<< (64 * dw))) ||| (v.setWidth n <<< (64 * dw))

/-- A STATUS with the fields that a word holds; PREQ is no field of it, JPRIO is the job's. -/
def Status.ofWord (v : XWord) : Status :=
  { tdepth := v.extractLsb' 48 16, resumed := v.getLsbD 16, retry := v.extractLsb' 12 2, jprio := v.extractLsb' 9 2, wrange := v.getLsbD 8
    init := v.getLsbD 4, task := v.getLsbD 3, decline := v.getLsbD 1, intrap := v.getLsbD 0 }

/-- Replace a word of a view: its base, its header, a dimension. -/
def View.putWord (v : View) (n : Nat) (x : XWord) : View :=
  if n = 0 then { v with base := x }
  else if n = 1 then
    { v with live := x.getLsbD 63, scope := x.extractLsb' 20 3, kdim := x.extractLsb' 17 2, sce := x.getLsbD 16, scv := x.extractLsb' 12 4
             rankm1 := x.extractLsb' 8 2, perm := x.extractLsb' 6 2, ty := x.extractLsb' 0 5 }
  else v.setDim (n - 2) ⟨x.extractLsb' 32 32, x.extractLsb' 16 16, x.extractLsb' 0 16⟩

/-- A debugger's write to a register that belongs to the activation: one that the activation itself may write, or one that the device writes there. A
register that names the core, the job or the time, or is held elsewhere, takes no write. Log: DEDUCED, notes/assumptions/118.md. -/
def State.inspectCsr (s : State) (k n : Nat) (v : XWord) : State :=
  match csrFields .write n with
  | some mask => s.csrPut k n ((s.csr k n &&& ~~~mask) ||| (v &&& mask)) (v &&& mask)
  | none => s.modCore k fun c =>
    if n = 0 then c.modStatus fun _ => Status.ofWord v
    else if n = 0x15 then c.modCtx fun x => { x with stamp := v.setWidth 32 }
    else if n = 0x23 then c.modCtx fun x => { x with instret := v }
    else if n = 0x30 then c.modCtx fun x => { x with tags := v }
    else if n = 0x32 then
      let f : BitVec 5 := v.setWidth 5
      c.modCtx fun x => { x with flags := f, fevs := x.fevs ++ [(f &&& ~~~x.flags, x.flags &&& ~~~f)] }
    else if n = 0x40 then c.modCtx fun x => { x with allotV := min (v.extractLsb' 0 6).toNat 32, mirror := v.extractLsb' 32 32 }
    else if n = 0x42 then c.modCtx fun x => { x with depth := (v.extractLsb' 0 16).toNat, spilled := (v.extractLsb' 16 16).toNat }
    else if n = 0x43 then c.modCtx fun x => { x with spillBase := v.extractLsb' 7 12 }
    else if n = 0x45 then { c with gap := v.setWidth 32 }
    else c

/-- What Nernath reads of a held activation (spec/19_debug.md R452). -/
def State.inspect (s : State) (k : Nat) (what : Inspect) : XWord :=
  let c := s.core k
  match what with
  | .x n => (c.reg n.toNat).val
  | .v n dw => (c.v n.toNat).val.extractLsb' (64 * dw) 64
  | .csr n => s.csr k n.toNat
  | .pad a => BitVec.ofNat 64 (s.load (placePad k a) 8)
  | .m n dw => (c.mask n).extractLsb' (64 * dw) 64
  | .q n w => (c.view n.toNat).wordOf w
  | .acc a i => (Map.get 0 (c.acc a).el i).setWidth 64
  | .ovf a => (c.acc a).ovf.setWidth 64
  | .latch i => (Map.get 0 (c.latch.getD {}).el i).setWidth 64
  | .scale i => (Map.get 0 (c.latch.getD {}).sc i).setWidth 64
  | .ce n => c.ceRead n

/-- `INSPECTION_WRITE` (spec/19_debug.md R452): a write to a held activation's register, CSR or scratchpad; one to a register with an outstanding
producer waits for the fill. -/
def execInspectionWrite (k : Nat) (what : Inspect) (v : XWord) (s : State) : Host.Outcome State Fault Refusal :=
  .next (let c := s.core k
    let put (f : Core → Core) : State := s.modCore k f
    if c.held.isNone then s
    else match what with
      | .x n => if !(c.reg n.toNat).full then s else put fun c => c.setX n v
      | .v n dw => if !(c.v n.toNat).full || decide (c.ctx.allotV ≤ n.toNat) || decide (16 ≤ dw) then s else put fun c => c.setV n.toNat (putDw (c.v n.toNat).val dw v)
      | .csr n => s.inspectCsr k n.toNat v
      | .pad a => if a % 8 = 0 ∧ a + 8 ≤ c.spsize then (s.store (placePad k a) 8 v.toNat).unlogLine k (a / 128) else s
      | .m n dw => if 2 ≤ dw then s else put fun c => c.setMask n (putDw (c.mask n) dw v)
      | .q n w => if 6 ≤ w then s else put fun c => c.setView n.toNat ((c.view n.toNat).putWord w v)
      | .acc a i => if 1024 ≤ i then s else put fun c => c.modAcc a fun x => { x with el := Map.put x.el i (v.setWidth 32) }
      | .ovf a => put fun c => c.modAcc a fun x => { x with ovf := v.setWidth 32 }
      | .latch i => put fun c => { c with latch := c.latch.map fun l => { l with el := Map.put l.el i (v.setWidth 32) } }
      | .scale i => put fun c => { c with latch := c.latch.map fun l => { l with sc := Map.put l.sc i (v.setWidth 8) } }
      | .ce n => if 14 ≤ n then s else put fun c => c.modCtx fun x => { x with ce := Map.put x.ce n (v &&& ceMask n) })

/-- `L1_EXTRA_WRITE_BACK` (spec/06_memory.md R123). -/
def execL1ExtraWriteBack (k line : Nat) (s : State) : Host.Outcome State Fault Refusal :=
  .next (s.writeBackIf k fun x => decide (x.line = line))

/-- `UNREAD_ECC_ERROR` (spec/15_system.md R353): reported to Fleiz; it never traps. Log: DEDUCED, notes/assumptions/35.md; DESIGN CHOICE,
notes/assumptions/50.md. -/
def execUnreadEccError (what : Nat) (s : State) : Host.Outcome State Fault Refusal := .next { s with feEvents := s.feEvents ++ [.report 0 what] }

end Sys2Proof.Machine
end

