-- ==== Sys2Proof/Machine/Fp.lean ====
section
/-! DEFINITION. The scalar floating-point instructions (spec/04_scalar.md R81 to R89). -/

namespace Sys2Proof.Machine

/-- A floating-point instruction: the result and its flags as one event. -/
def State.fpAns (s : State) (srcs : List (Src × Nat)) (rd : BitVec 5) (r : XWord × BitVec 5) : Ans :=
  checked s (srcGates s.c srcs ++ [destGate s.c rd]) (s.modC fun c => (c.setX rd r.1).raiseFlags r.2)

/-- `fadd`. -/
def execFadd (p : Prec) (rd : BitVec 5) (sa sb : Src) (s : State) : Host.Outcome State Fault Refusal :=
  perform s (s.fpAns (src2 sa sb) rd (faddFn p (s.c.x sa.n) (s.c.x sb.n)))
/-- `fsub`. -/
def execFsub (p : Prec) (rd : BitVec 5) (sa sb : Src) (s : State) : Host.Outcome State Fault Refusal :=
  perform s (s.fpAns (src2 sa sb) rd (fsubFn p (s.c.x sa.n) (s.c.x sb.n)))
/-- `fmul`. -/
def execFmul (p : Prec) (rd : BitVec 5) (sa sb : Src) (s : State) : Host.Outcome State Fault Refusal :=
  perform s (s.fpAns (src2 sa sb) rd (fmulFn p (s.c.x sa.n) (s.c.x sb.n)))
/-- `fdiv`. -/
def execFdiv (p : Prec) (rd : BitVec 5) (sa sb : Src) (s : State) : Host.Outcome State Fault Refusal :=
  perform s (s.fpAns (src2 sa sb) rd (fdivFn p (s.c.x sa.n) (s.c.x sb.n)))
/-- `fsqrt`. -/
def execFsqrt (p : Prec) (rd : BitVec 5) (sa : Src) (s : State) : Host.Outcome State Fault Refusal :=
  perform s (s.fpAns (src1 sa) rd (fsqrtFn p (s.c.x sa.n)))
/-- `fmin`. -/
def execFmin (p : Prec) (rd : BitVec 5) (sa sb : Src) (s : State) : Host.Outcome State Fault Refusal :=
  perform s (s.fpAns (src2 sa sb) rd (fminmaxFn false p (s.c.x sa.n) (s.c.x sb.n)))
/-- `fmax`. -/
def execFmax (p : Prec) (rd : BitVec 5) (sa sb : Src) (s : State) : Host.Outcome State Fault Refusal :=
  perform s (s.fpAns (src2 sa sb) rd (fminmaxFn true p (s.c.x sa.n) (s.c.x sb.n)))
/-- `fcmp`. -/
def execFcmp (p : Prec) (cond : FCond) (rd : BitVec 5) (sa sb : Src) (s : State) : Host.Outcome State Fault Refusal :=
  perform s (s.fpAns (src2 sa sb) rd (fcmpFn p cond (s.c.x sa.n) (s.c.x sb.n)))
/-- `fclass`. -/
def execFclass (p : Prec) (rd : BitVec 5) (sa : Src) (s : State) : Host.Outcome State Fault Refusal :=
  perform s (s.regAns (src1 sa) rd (fclassFn p (s.c.x sa.n)))
/-- `fcvt` to floating point. -/
def execFcvtToFp (p : Prec) (src : FSrc) (rd : BitVec 5) (sa : Src) (s : State) : Host.Outcome State Fault Refusal :=
  perform s (s.fpAns (src1 sa) rd (fcvtToFpFn p src (s.c.x sa.n)))
/-- `fcvt.s64`. -/
def execFcvtS64 (p : Prec) (rtz : Bool) (rd : BitVec 5) (sa : Src) (s : State) : Host.Outcome State Fault Refusal :=
  perform s (s.fpAns (src1 sa) rd (fcvtToIntFn true p rtz (s.c.x sa.n)))
/-- `fcvt.z64`. -/
def execFcvtZ64 (p : Prec) (rtz : Bool) (rd : BitVec 5) (sa : Src) (s : State) : Host.Outcome State Fault Refusal :=
  perform s (s.fpAns (src1 sa) rd (fcvtToIntFn false p rtz (s.c.x sa.n)))
/-- `fma.s`. -/
def execFmaS (rd : BitVec 5) (sa sb sc : Src) (s : State) : Host.Outcome State Fault Refusal :=
  perform s (s.fpAns (src3 sa sb sc) rd (fmaFn .s (s.c.x sa.n) (s.c.x sb.n) (s.c.x sc.n)))
/-- `fma.d`. -/
def execFmaD (rd : BitVec 5) (sa sb sc : Src) (s : State) : Host.Outcome State Fault Refusal :=
  perform s (s.fpAns (src3 sa sb sc) rd (fmaFn .d (s.c.x sa.n) (s.c.x sb.n) (s.c.x sc.n)))

end Sys2Proof.Machine
end

