-- ==== Sys2Proof/Machine/Frontend.lean ====
section
/-! DEFINITION. Queues and the front end: descriptors, doorbells, dispatch of packets, drains and errors (spec/18_frontend.md R425 to R438). -/

namespace Sys2Proof.Machine

/-! Descriptors (spec/18_frontend.md R425, R426). -/

/-- The job priority that a job's active queues give it (spec/18_frontend.md R435); without an active queue it stays (DESIGN CHOICE,
notes/assumptions/30.md). -/
def State.setPrio (s : State) (job : Nat) : State :=
  let mine := s.queues.filter fun q => decide (q.2.job.toNat = job) && decide (q.2.state = 1)
  let busy := mine.filter fun q => decide (q.2.head ≠ q.2.tail)
  match (if busy.isEmpty then mine else busy).map fun q => q.2.prio with
  | [] => s
  | p :: ps => s.modJob job fun j => { j with prio := ps.foldl (fun a b => if b < a then b else a) p }

/-- The fields of doubleword 0 but STATE. -/
def Queue.setDw0 (x : Queue) (v : XWord) : Queue :=
  { x with prio := v.extractLsb' 58 2, loc := v.getLsbD 57, job := v.extractLsb' 48 8, base := v.extractLsb' 0 48 &&& 0xFFFFFFFFFF00, log := v.extractLsb' 0 5 }

/-- STATE of a value written to doubleword 0. -/
def dw0State (v : XWord) : Nat := (v.extractLsb' 60 3).toNat

/-- Whether a write of STATE 1 can make a queue active: it is neither active nor draining. -/
def Queue.startable (x : Queue) : Bool := decide (x.state ≠ 1) && decide (x.state ≠ 2)

/-- A write of STATE 1 (spec/18_frontend.md R426, R438): the queue becomes active with its indices zero, or goes to error. Log: DEDUCED,
notes/assumptions/43.md. -/
def State.activateQueue (s : State) (q : Nat) (v : XWord) : State :=
  if !(s.queue q).startable then s
  else
    let x := (s.queue q).setDw0 v
    if decide (4 ≤ x.log.toNat) && decide (x.log.toNat ≤ 16) && (s.job x.job.toNat).live then
      (s.modQueue q fun _ =>
        { x with state := 1, head := 0, tail := 0, lseq := 0, part := 0, dbdrop := 0, count := 0, status := 0, open_ := [], lock := none }).setPrio x.job.toNat
    else s.modQueue q fun _ => { x with state := 3 }

/-- `QUEUE_ACTIVATE`. -/
def execQueueActivate (f q : Nat) (v : XWord) (s : State) : Host.Outcome State Fault Refusal :=
  .next (s.owned f (if q < 1024 ∧ dw0State v = 1 then s.activateQueue q v else s))

/-- `QUEUE_DRAIN` (spec/18_frontend.md R426, R436): a write of STATE 2 to an active queue; what is not dispatched is discarded. -/
def execQueueDrain (f q : Nat) (v : XWord) (s : State) : Host.Outcome State Fault Refusal :=
  .next (s.owned f (if q < 1024 ∧ dw0State v = 2 ∧ (s.queue q).state = 1 then
      ((s.modQueue q fun x => { x with state := 2 }).setPrio (s.queue q).job.toNat).stopIdle q
    else s))

/-- A write to a doubleword of a descriptor that changes no STATE: discarded while the queue is active (spec/18_frontend.md R426). -/
def State.writeQueue (s : State) (q i : Nat) (v : XWord) : State :=
  if (s.queue q).state = 1 then s
  else s.modQueue q fun x =>
    if i = 0 then (if dw0State v = 1 ∧ x.startable then x else x.setDw0 v)
    else if i = 1 then { x with pptgap := v.extractLsb' 32 32 }
    else if i = 2 then { x with shadow := v.extractLsb' 0 48 &&& 0xFFFFFFFFFFF8 }
    else if i = 3 then { x with compl := v.extractLsb' 0 48 &&& 0xFFFFFFFFFFF8 }
    else x

/-- `REGISTER_WRITE` (spec/18_frontend.md R418, R421, R425): MBOX starts a command unless one is busy; queue descriptors; other offsets ignore
writes. -/
def execRegisterWrite (f off : Nat) (v : XWord) (s : State) : Host.Outcome State Fault Refusal :=
  .next (s.owned f (
    if off = 0x200 then
      if s.bar0.mboxState = 1 then s else s.withBar fun b => { b with mboxAddr := v.extractLsb' 8 56, mboxState := 1 }
    else if 0x10000 ≤ off ∧ off < 0x20000 ∧ off % 8 = 0 then s.writeQueue ((off - 0x10000) / 64) (off % 64 / 8) v
    else s))

/-- Doubleword `i` of a descriptor as BAR0 reads it. -/
def Queue.dw (x : Queue) (i : Nat) : XWord :=
  if i = 0 then
    (0 : BitVec 1) ++ (if 3 < x.state.toNat then 3 else x.state) ++ x.prio ++ bb x.loc ++ (0 : BitVec 1) ++ x.job ++ x.base.extractLsb' 8 40 ++ (0 : BitVec 3)
      ++ x.log
  else if i = 1 then x.pptgap ++ x.head ++ x.tail
  else if i = 2 then x.lseq ++ x.shadow
  else if i = 3 then x.compl.setWidth 64
  else if i = 4 then x.part ++ (0 : BitVec 27) ++ x.dbdrop
  else 0

/-- What a read of BAR0 returns (spec/18_frontend.md R418, R421, R441, R443, R447). Log: DESIGN CHOICE, notes/assumptions/132.md. -/
def State.barRead (s : State) (off : Nat) : XWord :=
  let b := s.bar0
  if off = 0 then b.claim
  else if off = 8 then s.boot.fwver ++ (0 : BitVec 24) ++ s.boot.source ++ s.boot.state
  else if off = 0x10 then b.levelsum.setWidth 64
  else if off = 0x18 then b.cap.setWidth 64
  else if off = 0x100 then b.notifyBase ++ (0 : BitVec 4) ++ b.notifyLog
  else if off = 0x108 then b.notifyHead.setWidth 64
  else if off = 0x110 then b.notifyTail.setWidth 64
  else if off = 0x200 then b.mboxAddr ++ (0 : BitVec 8)
  else if off = 0x208 then (0 : BitVec 32) ++ b.mboxLast ++ (0 : BitVec 14) ++ b.mboxState
  else if 0x10000 ≤ off ∧ off < 0x20000 ∧ off % 8 = 0 then (s.queue ((off - 0x10000) / 64)).dw (off % 64 / 8)
  else 0

/-! Doorbells and reconciliation (spec/18_frontend.md R429 to R431). -/

/-- `DOORBELL` (spec/18_frontend.md R430). -/
def execDoorbell (f : Nat) (v : XWord) (s : State) : Host.Outcome State Fault Refusal :=
  .next (let q := (v.extractLsb' 0 10).toNat
    let x := s.queue q
    let seq : BitVec 16 := v.extractLsb' 16 16
    let d := (seq - x.lseq).toNat
    s.owned f (if decide (x.state = 1) && decide (1 ≤ d) && decide (d ≤ 32767) then
        ((s.modQueue q fun x => { x with lseq := seq, tail := BitVec.ofNat 16 ((v.extractLsb' 32 16).toNat % 2 ^ x.log.toNat) }).raiseTail q).setPrio x.job.toNat
      else s.modQueue q fun x => { x with dbdrop := x.dbdrop + 1 }))

/-- The reconcile of one queue (spec/18_frontend.md R431). Log: DEDUCED, notes/assumptions/41.md; DEDUCED, notes/assumptions/52.md. -/
def State.reconcile (s : State) (q : Nat) : State :=
  let x := s.queue q
  let n := 2 ^ x.log.toNat
  let shadow := s.load (placeHost x.shadow.toNat) 8 % 2 ^ 64
  let a := (shadow + n - x.tail.toNat % n) % n
  let fr := (x.head.toNat + 2 * n - x.tail.toNat % n - 1) % n
  if decide (x.state = 1) && decide (0 < a) && decide (a ≤ fr) then
    ((s.modQueue q fun x => { x with tail := BitVec.ofNat 16 (shadow % n) }).raiseTail q).setPrio x.job.toNat
  else s

/-- `SHADOW_RECONCILE` (spec/18_frontend.md R431, R434): the timer's event, once it is due, and its work by the idle core that takes it. Log: DEDUCED,
notes/assumptions/52.md. -/
def execShadowReconcile (s : State) : Host.Outcome State Fault Refusal :=
  .next (let s := s.raiseReconcile
    if s.fleizUp && s.poolTakes .reconcile then (s.queues.map (·.1)).foldl (fun (s : State) q => s.reconcile q) (s.poolDrop .reconcile)
    else s)

/-! Packets (spec/18_frontend.md R427, R428). -/

/-- Place of the slot at HEAD. Log: DEDUCED, notes/assumptions/41.md. -/
def Queue.slotPlace (x : Queue) : Nat :=
  let a := x.base.toNat + 256 * x.head.toNat
  if x.loc then placeDev a else placeHost a

/-- Doubleword `i` of the slot at HEAD. -/
def State.slotDw (s : State) (x : Queue) (i : Nat) : XWord := BitVec.ofNat 64 (s.load (x.slotPlace + 8 * i) 8)

/-- TYPE, NKEYS, the operation of a job-control packet. -/
def State.slotType (s : State) (x : Queue) : Nat := ((s.slotDw x 0).extractLsb' 0 8).toNat
/-- NKEYS. -/
def State.slotKeys (s : State) (x : Queue) : Nat := ((s.slotDw x 0).extractLsb' 8 5).toNat
/-- The operation. -/
def State.slotOp (s : State) (x : Queue) : Nat := ((s.slotDw x 2).extractLsb' 0 8).toNat

/-- The keys of a packet in their order. -/
def State.packetKeys (s : State) (x : Queue) : List XWord :=
  let n := s.slotKeys x
  if n = 0 then [s.slotDw x 1] else (List.range n).map fun i => s.slotDw x (16 + i)

/-- Whether LEN or NKEYS of the packet at HEAD is out of its range. -/
def State.badSize (s : State) (x : Queue) : Bool :=
  let len := ctlLen (s.slotDw x 2)
  let n := s.slotKeys x
  decide (224 < len) || (decide (0 < n) && decide (96 < len)) || decide (16 < n)

/-- Whether the message packet at HEAD has a bad field. -/
def State.badMessage (s : State) (x : Queue) (type : Nat) : Bool :=
  let w := s.slotDw x 2
  let cls : BitVec 12 := if type = 1 then 0 else ctlClass w
  let sel : BitVec 6 := if type = 1 then 0 else ctlSel w
  s.badSize x || !s.reachable x.job.toNat cls || (s.handler cls sel).isNone
    || (decide (cls = 0) && (if type = 1 then [s.slotDw x 1] else s.packetKeys x).any fun k => (s.hostAddr0 x.job.toNat k).isNone)

/-- Whether the job-control packet at HEAD has a bad field. -/
def State.badControl (s : State) (x : Queue) : Bool :=
  let op := s.slotOp x
  let g := (s.slotDw x 1).toNat
  s.badSize x || decide (2 < op) || (decide (op = 1) && (decide (768 ≤ g) || !(s.job x.job.toNat).cset.getLsbD g))

/-- Whether the packet at HEAD completes with ERROR. -/
def State.badPacket (s : State) (x : Queue) : Bool :=
  let t := s.slotType x
  if t < 2 then s.badMessage x t else if t = 2 then s.badControl x else true

/-- HEAD moves to the next slot. -/
def Queue.advance (x : Queue) : Queue := { x with head := BitVec.ofNat 16 ((x.head.toNat + 1) % 2 ^ x.log.toNat), part := 0 }

/-- After a dispatch the core returns to idle when HEAD = TAIL or a refusal stops it, and what has completed is reported. -/
def State.afterDispatch (s : State) (q : Nat) : State :=
  let x := s.queue q
  let s := if decide (x.head = x.tail) || s.hostRefused q then s.modQueue q fun x => { x with lock := none } else s
  (s.settleQueue q).setPrio x.job.toNat

/-- A packet without parts leaves HEAD: its status, and the stamp a fence waits for. One that completes with ERROR dispatches nothing, so GAP stays
(spec/18_frontend.md R428, R435). -/
def State.plainPacket (s : State) (q status : Nat) (fence : Option (BitVec 32)) : State :=
  let p : QPacket := { id := s.nextId, whole := true, status := status, fence := fence }
  let s1 : State := { s with nextId := s.nextId + 1 }
  (s1.modQueue q fun x => { x.advance with open_ := x.open_ ++ [p] }).modJob (s.queue q).job.toNat fun j =>
    if status = 2 then j else { j with gap := (s.queue q).pptgap }

/-- The message of part `i` of the packet at HEAD. Log: DEDUCED, notes/assumptions/42.md. -/
def State.partMsg (s : State) (q : Nat) (x : Queue) (i : Nat) : Msg :=
  let w := s.slotDw x 2
  let f := s.slotDw x 3
  let type := s.slotType x
  let len := ctlLen w
  let key := if type = 1 then s.slotDw x 1 else (s.packetKeys x).getD i 0
  let cls : BitVec 12 := if type = 1 then 0 else ctlClass w
  { key := key, stamp := f.setWidth 32, len := len, flags := bb (f.getLsbD 33) ++ bb (f.getLsbD 34) ++ (0 : BitVec 1)
    sel := if type = 1 then 0 else ctlSel w, cls := cls
    skey := BitVec.ofNat 64 q, job := x.job.toNat, score := 0x1FFF, kind := 2, scls := 0, payload := Memory.readList s.mem (x.slotPlace + 32) len
    pa := if cls = 0 then s.hostAddr0 x.job.toNat key else none }

/-- Inject the next part of a message packet, none past a part of its pair that was refused (spec/18_frontend.md R432, R433, R437): the injection and
the step of PART are one event; the last part moves HEAD. -/
def State.injectPart (s : State) (q : Nat) (parts : Nat) : State :=
  let x := s.queue q
  let i := x.part.toNat
  let m := s.partMsg q x i
  let room := retainBytes m.len
  if !s.retainRoom epHost room || s.resendAhead epHost m then s
  else
    let id := if i = 0 then s.nextId else ((x.open_.getLast?).getD {}).id
    let s1 : State := if i = 0 then { s with nextId := s.nextId + 1 } else s
    let tag := (s1.ep epHost).freeTag
    let s2 := s1.sendMsg epHost m room
    let s3 := s2.modEp epHost fun e => { e with retain := e.retain.map fun r => if r.rtag = tag then { r with slot := id } else r }
    let last := decide (parts ≤ i + 1)
    let s4 := s3.modQueue q fun x =>
      let ps := if i = 0 then x.open_ ++ [{ id := id }] else x.open_
      let ps := ps.map fun p => if p.id = id then { p with injected := p.injected + 1, whole := last } else p
      if last then { x.advance with open_ := ps } else { x with part := x.part + 1, open_ := ps }
    (s4.modJob x.job.toNat fun j => { j with gap := x.pptgap }).afterDispatch q

/-- Whether a front-end core that holds a queue's lock may go on with the packet at HEAD. -/
def State.dispatching (s : State) (q : Nat) : Bool :=
  let x := s.queue q
  s.fleizUp && x.lock.isSome && decide (x.head ≠ x.tail) && !s.hostRefused q

/-- One event of a dispatch, for packets that a test names: STATE is read first (spec/18_frontend.md R436). Log: DESIGN CHOICE, notes/assumptions/86.md. -/
def State.dispatch (s : State) (q : Nat) (mine : Nat → Nat → Bool) (k : State → Queue → State) : State :=
  if !s.dispatching q then s
  else
    let x := s.queue q
    if x.state ≠ 1 then s.stopDispatch q
    else if !mine (s.slotType x) (s.slotOp x) then s
    else if x.part = 0 ∧ s.badPacket x then (s.plainPacket q 2 none).afterDispatch q
    else k s x

/-- A tail event of a job whose priority is better than that of the job running on a core of its cluster set: Fleiz has a request to make there
(spec/18_frontend.md R435). Log: DEDUCED, notes/assumptions/103.md. -/
def State.askPreempt (s : State) (job : Nat) : State :=
  let j := s.job job
  let ks := s.cores.filterMap fun c => match c.2.act with
    | some a => if j.live && j.cset.getLsbD (coreCluster c.1) && decide (j.prio.toNat < (s.job a.job).prio.toNat) then some (c.1, job) else none
    | none => none
  { s with requests := s.requests ++ ks.filter fun r => !s.requests.contains r }

/-- `TAIL_EVENT` (spec/18_frontend.md R434): an idle front-end core takes the event and the queue's lock; the core that holds it completes packets
of no TYPE with ERROR. -/
def execTailEvent (q : Nat) (s : State) : Host.Outcome State Fault Refusal :=
  .next (if s.fleizUp && s.poolTakes (.tail q) then
      match s.poolIdle with
      | some i =>
        let s1 := (s.poolDrop (.tail q)).askPreempt (s.queue q).job.toNat
        if (s.queue q).state = 1 ∧ (s.queue q).head ≠ (s.queue q).tail then s1.modQueue q fun x => { x with lock := some i } else s1.settleQueue q
      | none => s
    else s.dispatch q (fun t op => decide (2 < t) || (decide (t = 2) && decide (2 < op))) fun s _ => s)

/-- `ACTOR_MESSAGE` (spec/18_frontend.md R428): the next part of a TYPE 0 packet. -/
def execActorMessage (q : Nat) (s : State) : Host.Outcome State Fault Refusal :=
  .next (s.dispatch q (fun t _ => decide (t = 0)) fun s x => s.injectPart q (s.packetKeys x).length)

/-- `ADDRESS_OWNED_ACTIVE_MESSAGE` (spec/18_frontend.md R428). -/
def execAddressOwnedActiveMessage (q : Nat) (s : State) : Host.Outcome State Fault Refusal :=
  .next (s.dispatch q (fun t _ => decide (t = 1)) fun s _ => s.injectPart q 1)

/-- Fences of a queue whose job's floor has passed their stamp complete (spec/18_frontend.md R428). -/
def State.fencesDone (s : State) (q : Nat) : State :=
  let j := s.job (s.queue q).job.toNat
  (s.modQueue q fun x =>
    { x with
      open_ := x.open_.map fun p => match p.fence with
        | some t => if j.floorEmpty || decide (t < j.floorMin) then { p with fence := none } else p
        | none => p }).settleQueue q

/-- `JOB_CONTROL_FENCE` (spec/18_frontend.md R428): the fence at HEAD is dispatched; fences whose condition holds complete. -/
def execJobControlFence (q : Nat) (s : State) : Host.Outcome State Fault Refusal :=
  .next ((s.dispatch q (fun t op => decide (t = 2) && decide (op = 0)) fun s x =>
    (s.plainPacket q 0 (some ((s.slotDw x 3).setWidth 32))).afterDispatch q).fencesDone q)

/-- Write a barrier word as Fleiz does (spec/11_tasks.md R263): ARRIVED and PENDING are zero, PHASE stays. -/
def State.writeBar (s : State) (g i job : Nat) (w : XWord) : State :=
  s.modCluster g fun c =>
    let b := Map.get {} c.bars i
    { c with bars := Map.put c.bars i { en := w.getLsbD 63, job := BitVec.ofNat 8 job, phase := b.phase, parties := w.extractLsb' 16 8 } }

/-- `BARRIER_LOAD` (spec/18_frontend.md R428). -/
def execBarrierLoad (q : Nat) (s : State) : Host.Outcome State Fault Refusal :=
  .next (s.dispatch q (fun t op => decide (t = 2) && decide (op = 1)) fun s x =>
    let g := (s.slotDw x 1).toNat
    let s1 := (List.range 16).foldl (fun (s : State) i => s.writeBar g i x.job.toNat (s.slotDw x (4 + i))) s
    (s1.plainPacket q 0 none).afterDispatch q)

/-- `KILL_JOB` (spec/18_frontend.md R428, spec/15_system.md R361). -/
def execKillJob (q : Nat) (s : State) : Host.Outcome State Fault Refusal :=
  .next (s.dispatch q (fun t op => decide (t = 2) && decide (op = 2)) fun s x =>
    ((s.controlKill x.job.toNat).plainPacket q 0 none).afterDispatch q)

/-! Errors (spec/18_frontend.md R437, R438). -/

/-- `FRONT_END_CORE_FENCE` (spec/18_frontend.md R437): the core leaves the pool, its event goes back to the head, a drain written meanwhile stops the
packet it was in (R436), the owner is told; what bytes 8 to 15
hold is left open (DESIGN CHOICE, notes/assumptions/4.md). With all twelve out, BOOTSTAT goes to FAILED. -/
def execFrontEndCoreFence (i : Nat) (s : State) : Host.Outcome State Fault Refusal :=
  .next (if poolSize ≤ i ∨ s.fenced.contains i then s
    else
      let s1 : State := { s with fenced := i :: s.fenced, free := s.free + 1 }
      let mine := s.queues.filter fun q => decide (q.2.lock = some i)
      let s2 := mine.foldl (fun (s : State) q =>
        let s := (s.modQueue q.1 fun x => { x with lock := none }).stopIdle q.1
        { s with feEvents := .tail q.1 :: s.feEvents.filter fun e => decide (e ≠ .tail q.1) }) s1
      let s3 := s2.notification 3 (Config.freeWord s.free).toNat
      if s3.fenced.length = poolSize then { s3 with boot := { s3.boot with state := 4 } } else s3)

/-- `QUEUE_DESCRIPTOR_ERROR` (spec/18_frontend.md R438). -/
def execQueueDescriptorError (q : Nat) (s : State) : Host.Outcome State Fault Refusal :=
  .next (if 1024 ≤ q then s
    else ((s.modQueue q fun x => { x with state := 3, lock := none }).setPrio (s.queue q).job.toNat).notification 2 q)

/-! Notifications (spec/18_frontend.md R441). -/

/-- `NOTIFY`. -/
def execNotify (f : Nat) (v : XWord) (s : State) : Host.Outcome State Fault Refusal :=
  .next (s.owned f (s.withBar fun b =>
    { b with notifyBase := v.extractLsb' 8 56, notifyLog := v.extractLsb' 0 4, notifyHead := 0, notifyTail := 0, lost := 0 }))

/-- `NOTIFYHEAD`: a value beyond NOTIFYTAIL is discarded. -/
def execNotifyhead (f : Nat) (v : XWord) (s : State) : Host.Outcome State Fault Refusal :=
  .next (let b := s.bar0
    let h : BitVec 32 := v.setWidth 32
    s.owned f (if (h - b.notifyHead).toNat ≤ (b.notifyTail - b.notifyHead).toNat then s.withBar fun b => { b with notifyHead := h } else s))

end Sys2Proof.Machine
end

