-- ==== Sys2Proof/Machine/Groups.lean ====
section
/-! DEFINITION. Numerics groups (spec/12_numbers.md R290 to R296): forwarded flags, their broadcast, first-NaN reports. -/

namespace Sys2Proof.Machine

/-- A forward reaches the group's home: its clear, its flags, its arming, in that order (spec/12_numbers.md R292, R294). -/
def Group.take (g : Group) (f : FlagFwd) : Group :=
  { g with flags := (g.flags &&& ~~~f.clear) ||| f.set }

/-- A forward is taken at the group's home. -/
def State.takeForward (s : State) (id : Nat) : State :=
  match s.fwds.find? fun f => decide (f.id = id) with
  | some f => { (s.modGroup f.group fun g => g.take f) with fwds := s.fwds.filter fun x => decide (x.id ≠ id) }
  | none => s

/-- `GROUP_FLAG_FORWARD`. Log: DEDUCED, notes/assumptions/74.md. -/
def execGroupFlagForward (id : Nat) (s : State) : Host.Outcome State Fault Refusal := .next (s.takeForward id)

/-- Forwards that the next broadcast but one must carry are taken: none is older than 128 ticks when time goes on, so that every core sees it within
256 (spec/12_numbers.md R292). Log: DEDUCED, notes/assumptions/74.md. -/
def State.takeOldForwards (s : State) : State :=
  (s.fwds.filter fun f => decide (f.born + 128 ≤ s.dtime)).foldl (fun (s : State) f => s.takeForward f.id) s

/-- The broadcast of the flags, at each tick that is a multiple of 64 (spec/12_numbers.md R292). Log: DEDUCED, notes/assumptions/74.md; DESIGN
CHOICE, DESIGN CHOICE, notes/assumptions/98.md. -/
def State.broadcastFlags (s : State) : State :=
  if s.dtime < s.nextFlags then s
  else { s.mapGroups fun g => { g with sent := g.flags } with nextFlags := (s.dtime / 64 + 1) * 64 }

/-- `GROUP_FLAG_BROADCAST`. -/
def execGroupFlagBroadcast (s : State) : Host.Outcome State Fault Refusal := .next s.broadcastFlags

/-- The answer to a report: a granted event stays, a refused one goes. -/
def answerEvents (cmd : Nat) (ok : Bool) (es : List MEvent) : List MEvent :=
  if ok then es.map fun e => if e.id = cmd ∧ e.kind = .reportPending then { e with kind := .granted } else e
  else es.filter fun e => !(decide (e.id = cmd) && decide (e.kind = .reportPending))

/-- No earlier report of the same core is on its way to the same home: these keep the order of their route (spec/17_network.md R396). -/
def State.nanNext (s : State) (r : NanReport) : Bool :=
  (s.nanReports.find? fun x => decide (x.core = r.core) && decide (x.group = r.group)) == some r

/-- `FIRST_NAN_REPORT`: the home grants the first report while it is armed and refuses the others (spec/12_numbers.md R296). -/
def execFirstNanReport (id : Nat) (s : State) : Host.Outcome State Fault Refusal :=
  match s.nanReports.find? fun r => decide (r.id = id) && s.nanNext r with
  | some r =>
    let ok := (s.group r.group).fnarm
    let s1 : State := { s with nanReports := s.nanReports.filter fun x => decide (x.id ≠ id) }
    let s2 := if ok then s1.modGroup r.group fun g => { g with fnarm := false } else s1
    .next (s2.modCore r.core fun c =>
      let c1 : Core := if c.uid = r.act then { c with events := answerEvents r.cmd ok c.events } else c
      { c1 with
        saved := c1.saved.map fun (x : Saved) => if x.act.uid = r.act then { x with events := answerEvents r.cmd ok x.events } else x })
  | none => .next s

end Sys2Proof.Machine
end

