-- ==== Sys2Proof/Machine/Links.lean ====
section
/-! DEFINITION. Fabric links: failing tags, keys and their exhaustion (spec/17_network.md R416, R417). -/

namespace Sys2Proof.Machine

/-- Put the record of a link. -/
def State.putLink (s : State) (p : Nat) (l : Link) : State := { s with links := Map.put s.links p l }

/-- One direction of a link. -/
def Link.dir (l : Link) (rx : Bool) : LinkDir := if rx then l.rx else l.tx

/-- Replace one direction. -/
def Link.setDir (l : Link) (rx : Bool) (d : LinkDir) : Link := if rx then { l with rx := d } else { l with tx := d }

/-- `FLIT_TAG_FAILURE` (spec/17_network.md R416): the flit is sent again under a new counter value, at a transmitter under the next key if one stands
ready; the eighth failure in a row marks the link
failed and raises an error event. Log: DESIGN CHOICE, notes/assumptions/50.md. -/
def execFlitTagFailure (port : Nat) (rx : Bool) (s : State) : Host.Outcome State Fault Refusal :=
  .next (let l := s.link port
    let d := l.dir rx
    if l.failed || d.key.isNone || d.idle || decide (16 ≤ port) then s
    else
      let d : LinkDir := { (if rx then { d with ctr := d.ctr + 1 } else d.switched.counted 1) with fails := d.fails + 1 }
      if d.fails < 8 then s.putLink port (l.setDir rx d)
      else { s.putLink port (l.setDir rx d).fail with feEvents := s.feEvents ++ [.report 1 port] })

/-- `KEY_INSTALL` (spec/17_network.md R416, R417): the next key stands in the shadow slot; an idling transmitter resumes under it. -/
def execKeyInstall (port : Nat) (rx : Bool) (key : BitVec 256) (salt : BitVec 48) (s : State) : Host.Outcome State Fault Refusal :=
  .next (if 16 ≤ port then s
    else
      let l := s.link port
      let d : LinkDir := { l.dir rx with next := some (key, salt) }
      s.putLink port (l.setDir rx (if d.key.isNone || d.idle then d.switched else d)))

/-- `KEY_EXHAUSTION` (spec/17_network.md R417): the event that a transmitter raised when it came to idle for want of a key tells the management cores,
and the owner is notified (spec/18_frontend.md R440); what its bytes 8 to 15 hold is left open (DESIGN CHOICE, notes/assumptions/4.md). -/
def execKeyExhaustion (port : Nat) (s : State) : Host.Outcome State Fault Refusal :=
  .next (let l := s.link port
    if l.tx.due then
      ({ s.putLink port { l with tx := { l.tx with due := false } } with free := s.free + 1 }).notification 5 (Config.freeWord s.free).toNat
    else s)

end Sys2Proof.Machine
end

