-- ==== Sys2Proof/Machine/Dispatch.lean ====
section
/-! DEFINITION. The dispatch of the operations: one arm for each constructor of `Instr`. -/

namespace Sys2Proof.Machine

/-- The meaning of an operation on a state. -/
def exec (i : Instr) (s : State) : Host.Outcome State Fault Refusal :=
  match i with
  | .add rd sa sb => Sys2Proof.Machine.execAdd rd sa sb s
  | .sub rd sa sb => Sys2Proof.Machine.execSub rd sa sb s
  | .and rd sa sb => Sys2Proof.Machine.execAnd rd sa sb s
  | .or rd sa sb => Sys2Proof.Machine.execOr rd sa sb s
  | .xor rd sa sb => Sys2Proof.Machine.execXor rd sa sb s
  | .andn rd sa sb => Sys2Proof.Machine.execAndn rd sa sb s
  | .sll rd sa sb => Sys2Proof.Machine.execSll rd sa sb s
  | .srl rd sa sb => Sys2Proof.Machine.execSrl rd sa sb s
  | .sra rd sa sb => Sys2Proof.Machine.execSra rd sa sb s
  | .rol rd sa sb => Sys2Proof.Machine.execRol rd sa sb s
  | .slt rd sa sb => Sys2Proof.Machine.execSlt rd sa sb s
  | .sltz rd sa sb => Sys2Proof.Machine.execSltz rd sa sb s
  | .mul rd sa sb => Sys2Proof.Machine.execMul rd sa sb s
  | .mulh rd sa sb => Sys2Proof.Machine.execMulh rd sa sb s
  | .mulhz rd sa sb => Sys2Proof.Machine.execMulhz rd sa sb s
  | .div rd sa sb => Sys2Proof.Machine.execDiv rd sa sb s
  | .divz rd sa sb => Sys2Proof.Machine.execDivz rd sa sb s
  | .rem rd sa sb => Sys2Proof.Machine.execRem rd sa sb s
  | .remz rd sa sb => Sys2Proof.Machine.execRemz rd sa sb s
  | .min rd sa sb => Sys2Proof.Machine.execMin rd sa sb s
  | .max rd sa sb => Sys2Proof.Machine.execMax rd sa sb s
  | .minz rd sa sb => Sys2Proof.Machine.execMinz rd sa sb s
  | .maxz rd sa sb => Sys2Proof.Machine.execMaxz rd sa sb s
  | .clz rd sa => Sys2Proof.Machine.execClz rd sa s
  | .ctz rd sa => Sys2Proof.Machine.execCtz rd sa s
  | .popc rd sa => Sys2Proof.Machine.execPopc rd sa s
  | .ins rd sa sb => Sys2Proof.Machine.execIns rd sa sb s
  | .ext rd sa sb => Sys2Proof.Machine.execExt rd sa sb s
  | .addi rd sa imm => Sys2Proof.Machine.execAddi rd sa imm s
  | .andi rd sa imm => Sys2Proof.Machine.execAndi rd sa imm s
  | .ori rd sa imm => Sys2Proof.Machine.execOri rd sa imm s
  | .xori rd sa imm => Sys2Proof.Machine.execXori rd sa imm s
  | .slti rd sa imm => Sys2Proof.Machine.execSlti rd sa imm s
  | .sltzi rd sa imm => Sys2Proof.Machine.execSltzi rd sa imm s
  | .slli rd sa sh => Sys2Proof.Machine.execSlli rd sa sh s
  | .srli rd sa sh => Sys2Proof.Machine.execSrli rd sa sh s
  | .srai rd sa sh => Sys2Proof.Machine.execSrai rd sa sh s
  | .liu rd imm => Sys2Proof.Machine.execLiu rd imm s
  | .addpc rd imm => Sys2Proof.Machine.execAddpc rd imm s
  | .csel rd sa sb sc => Sys2Proof.Machine.execCsel rd sa sb sc s
  | .beq sa sb disp => Sys2Proof.Machine.execBeq sa sb disp s
  | .bne sa sb disp => Sys2Proof.Machine.execBne sa sb disp s
  | .blt sa sb disp => Sys2Proof.Machine.execBlt sa sb disp s
  | .bge sa sb disp => Sys2Proof.Machine.execBge sa sb disp s
  | .bltz sa sb disp => Sys2Proof.Machine.execBltz sa sb disp s
  | .bgez sa sb disp => Sys2Proof.Machine.execBgez sa sb disp s
  | .j imm => Sys2Proof.Machine.execJ imm s
  | .jr sa => Sys2Proof.Machine.execJr sa s
  | .call imm => Sys2Proof.Machine.execCall imm s
  | .callr sa => Sys2Proof.Machine.execCallr sa s
  | .ret => Sys2Proof.Machine.execRet s
  | .fadd p rd sa sb => Sys2Proof.Machine.execFadd p rd sa sb s
  | .fsub p rd sa sb => Sys2Proof.Machine.execFsub p rd sa sb s
  | .fmul p rd sa sb => Sys2Proof.Machine.execFmul p rd sa sb s
  | .fdiv p rd sa sb => Sys2Proof.Machine.execFdiv p rd sa sb s
  | .fsqrt p rd sa => Sys2Proof.Machine.execFsqrt p rd sa s
  | .fmin p rd sa sb => Sys2Proof.Machine.execFmin p rd sa sb s
  | .fmax p rd sa sb => Sys2Proof.Machine.execFmax p rd sa sb s
  | .fcmp p cond rd sa sb => Sys2Proof.Machine.execFcmp p cond rd sa sb s
  | .fclass p rd sa => Sys2Proof.Machine.execFclass p rd sa s
  | .fcvtToFp p src rd sa => Sys2Proof.Machine.execFcvtToFp p src rd sa s
  | .fcvtS64 p rtz rd sa => Sys2Proof.Machine.execFcvtS64 p rtz rd sa s
  | .fcvtZ64 p rtz rd sa => Sys2Proof.Machine.execFcvtZ64 p rtz rd sa s
  | .fmaS rd sa sb sc => Sys2Proof.Machine.execFmaS rd sa sb sc s
  | .fmaD rd sa sb sc => Sys2Proof.Machine.execFmaD rd sa sb sc s
  | .ld sz rd sa imm => Sys2Proof.Machine.execLd sz rd sa imm s
  | .ldOrdered sz zx ord rd sa => Sys2Proof.Machine.execLdOrdered sz zx ord rd sa s
  | .ldp sz zx win rd sa => Sys2Proof.Machine.execLdp sz zx win rd sa s
  | .st sz sb sa imm => Sys2Proof.Machine.execSt sz sb sa imm s
  | .stOrdered sz ord sb sa => Sys2Proof.Machine.execStOrdered sz ord sb sa s
  | .amoAdd ord dbl rd sa sb => Sys2Proof.Machine.execAmoAdd ord dbl rd sa sb s
  | .amoAnd ord dbl rd sa sb => Sys2Proof.Machine.execAmoAnd ord dbl rd sa sb s
  | .amoOr ord dbl rd sa sb => Sys2Proof.Machine.execAmoOr ord dbl rd sa sb s
  | .amoXor ord dbl rd sa sb => Sys2Proof.Machine.execAmoXor ord dbl rd sa sb s
  | .amoMin ord dbl rd sa sb => Sys2Proof.Machine.execAmoMin ord dbl rd sa sb s
  | .amoMax ord dbl rd sa sb => Sys2Proof.Machine.execAmoMax ord dbl rd sa sb s
  | .amoSwap ord dbl rd sa sb => Sys2Proof.Machine.execAmoSwap ord dbl rd sa sb s
  | .amoFaddW ord rd sa sb => Sys2Proof.Machine.execAmoFaddW ord rd sa sb s
  | .amoCasD ord rd sa sb => Sys2Proof.Machine.execAmoCasD ord rd sa sb s
  | .fence scope => Sys2Proof.Machine.execFence scope s
  | .lmarkE sa => Sys2Proof.Machine.execLmarkE sa s
  | .lmarkF sa => Sys2Proof.Machine.execLmarkF sa s
  | .lwaitf sa => Sys2Proof.Machine.execLwaitf sa s
  | .ltest rd sa => Sys2Proof.Machine.execLtest rd sa s
  | .l1Inv sa sb => Sys2Proof.Machine.execL1Inv sa sb s
  | .l1Wb sa sb => Sys2Proof.Machine.execL1Wb sa sb s
  | .iinv sa sb => Sys2Proof.Machine.execIinv sa sb s
  | .rld sz rd sa imm => Sys2Proof.Machine.execRld sz rd sa imm s
  | .rstSync => Sys2Proof.Machine.execRstSync s
  | .csrr rd csr => Sys2Proof.Machine.execCsrr rd csr s
  | .csrw csr sa => Sys2Proof.Machine.execCsrw csr sa s
  | .csrs csr sa => Sys2Proof.Machine.execCsrs csr sa s
  | .csrc csr sa => Sys2Proof.Machine.execCsrc csr sa s
  | .vwSet q sa sb => Sys2Proof.Machine.execVwSet q sa sb s
  | .vwDim q n sa sb => Sys2Proof.Machine.execVwDim q n sa sb s
  | .vwFmt q sa => Sys2Proof.Machine.execVwFmt q sa s
  | .vwGet rd q n => Sys2Proof.Machine.execVwGet rd q n s
  | .vwLd vd q sb => Sys2Proof.Machine.execVwLd vd q sb s
  | .vwSt vd q sb => Sys2Proof.Machine.execVwSt vd q sb s
  | .vwMeet rd qa qb => Sys2Proof.Machine.execVwMeet rd qa qb s
  | .vwRet q => Sys2Proof.Machine.execVwRet q s
  | .cpw ce sa => Sys2Proof.Machine.execCpw ce sa s
  | .cpr rd ce => Sys2Proof.Machine.execCpr rd ce s
  | .cpgo rd sa sb => Sys2Proof.Machine.execCpgo rd sa sb s
  | .cpcancel sa => Sys2Proof.Machine.execCpcancel sa s
  | .tagWany rd sa => Sys2Proof.Machine.execTagWany rd sa s
  | .tagWall sa => Sys2Proof.Machine.execTagWall sa s
  | .tagFfr rd sa => Sys2Proof.Machine.execTagFfr rd sa s
  | .tagClr sa => Sys2Proof.Machine.execTagClr sa s
  | .tagTest rd sa => Sys2Proof.Machine.execTagTest rd sa s
  | .msgSend flags sa sb => Sys2Proof.Machine.execMsgSend flags sa sb s
  | .msgSendv flags sa q => Sys2Proof.Machine.execMsgSendv flags sa q s
  | .msgMcast flags sa sb => Sys2Proof.Machine.execMsgMcast flags sa sb s
  | .msgReply flags sa sb => Sys2Proof.Machine.execMsgReply flags sa sb s
  | .msgAt flags sa sb => Sys2Proof.Machine.execMsgAt flags sa sb s
  | .msgFwd sa => Sys2Proof.Machine.execMsgFwd sa s
  | .msgDone => Sys2Proof.Machine.execMsgDone s
  | .actRetire sa sb => Sys2Proof.Machine.execActRetire sa sb s
  | .actPin sa sb => Sys2Proof.Machine.execActPin sa sb s
  | .actUnpin sa sb => Sys2Proof.Machine.execActUnpin sa sb s
  | .actMove sa sb => Sys2Proof.Machine.execActMove sa sb s
  | .actProbe rd sa sb => Sys2Proof.Machine.execActProbe rd sa sb s
  | .fork sa sb => Sys2Proof.Machine.execFork sa sb s
  | .jcInit sa sb => Sys2Proof.Machine.execJcInit sa sb s
  | .jcArrive sa => Sys2Proof.Machine.execJcArrive sa s
  | .depInit sa sb => Sys2Proof.Machine.execDepInit sa sb s
  | .depDec sa => Sys2Proof.Machine.execDepDec sa s
  | .depRead rd sa => Sys2Proof.Machine.execDepRead rd sa s
  | .barArrive rd n => Sys2Proof.Machine.execBarArrive rd n s
  | .barWait sa n => Sys2Proof.Machine.execBarWait sa n s
  | .floorWait sa => Sys2Proof.Machine.execFloorWait sa s
  | .stampSet sa => Sys2Proof.Machine.execStampSet sa s
  | .trap sa => Sys2Proof.Machine.execTrap sa s
  | .eret => Sys2Proof.Machine.execEret s
  | .ebreak => Sys2Proof.Machine.execEbreak s
  | .ppt => Sys2Proof.Machine.execPpt s
  | .tlbi sa sb => Sys2Proof.Machine.execTlbi sa sb s
  | .allotSet sa n => Sys2Proof.Machine.execAllotSet sa n s
  | .allotGrow n => Sys2Proof.Machine.execAllotGrow n s
  | .allotShrink n => Sys2Proof.Machine.execAllotShrink n s
  | .allotMirror vb => Sys2Proof.Machine.execAllotMirror vb s
  | .allotQuery rd => Sys2Proof.Machine.execAllotQuery rd s
  | .vadd t vd va vb m => Sys2Proof.Machine.execVadd t vd va vb m s
  | .vsub t vd va vb m => Sys2Proof.Machine.execVsub t vd va vb m s
  | .vmul t vd va vb m => Sys2Proof.Machine.execVmul t vd va vb m s
  | .vfma t vd va vb m => Sys2Proof.Machine.execVfma t vd va vb m s
  | .vmin t vd va vb m => Sys2Proof.Machine.execVmin t vd va vb m s
  | .vmax t vd va vb m => Sys2Proof.Machine.execVmax t vd va vb m s
  | .vabs t vd va m => Sys2Proof.Machine.execVabs t vd va m s
  | .vneg t vd va m => Sys2Proof.Machine.execVneg t vd va m s
  | .vand t vd va vb m => Sys2Proof.Machine.execVand t vd va vb m s
  | .vor t vd va vb m => Sys2Proof.Machine.execVor t vd va vb m s
  | .vxor t vd va vb m => Sys2Proof.Machine.execVxor t vd va vb m s
  | .vsll t vd va vb m => Sys2Proof.Machine.execVsll t vd va vb m s
  | .vsrl t vd va vb m => Sys2Proof.Machine.execVsrl t vd va vb m s
  | .vsra t vd va vb m => Sys2Proof.Machine.execVsra t vd va vb m s
  | .vcmp cond t md va vb m => Sys2Proof.Machine.execVcmp cond t md va vb m s
  | .vsel t vd va vb m => Sys2Proof.Machine.execVsel t vd va vb m s
  | .vredsum t vd va m => Sys2Proof.Machine.execVredsum t vd va m s
  | .vredmax t vd va m => Sys2Proof.Machine.execVredmax t vd va m s
  | .vredmin t vd va m => Sys2Proof.Machine.execVredmin t vd va m s
  | .vmaxidx t vd va m => Sys2Proof.Machine.execVmaxidx t vd va m s
  | .vperm t vd va vb m => Sys2Proof.Machine.execVperm t vd va vb m s
  | .vbcast t vd xa m => Sys2Proof.Machine.execVbcast t vd xa m s
  | .vins t vd xa xb m => Sys2Proof.Machine.execVins t vd xa xb m s
  | .vext t xd va xb => Sys2Proof.Machine.execVext t xd va xb s
  | .vld t vd xa m => Sys2Proof.Machine.execVld t vd xa m s
  | .vst t vd xa m => Sys2Proof.Machine.execVst t vd xa m s
  | .vlut t vd va xb m => Sys2Proof.Machine.execVlut t vd va xb m s
  | .vexp2 t vd va m => Sys2Proof.Machine.execVexp2 t vd va m s
  | .vrcp t vd va m => Sys2Proof.Machine.execVrcp t vd va m s
  | .vrsqrt t vd va m => Sys2Proof.Machine.execVrsqrt t vd va m s
  | .vdot t vd va vb m => Sys2Proof.Machine.execVdot t vd va vb m s
  | .mand md ma mb => Sys2Proof.Machine.execMand md ma mb s
  | .mor md ma mb => Sys2Proof.Machine.execMor md ma mb s
  | .mnot md ma => Sys2Proof.Machine.execMnot md ma s
  | .mpop xd ma => Sys2Proof.Machine.execMpop xd ma s
  | .cvt dst src rm inf vd va m => Sys2Proof.Machine.execCvt dst src rm inf vd va m s
  | .mxPack e w rm vd va vb m => Sys2Proof.Machine.execMxPack e w rm vd va vb m s
  | .mxUnpack w e rm vd va vb m => Sys2Proof.Machine.execMxUnpack w e rm vd va vb m s
  | .mxScale w vd va vb m => Sys2Proof.Machine.execMxScale w vd va vb m s
  | .matZero acc => Sys2Proof.Machine.execMatZero acc s
  | .matRd q acc => Sys2Proof.Machine.execMatRd q acc s
  | .matSlot sa sb => Sys2Proof.Machine.execMatSlot sa sb s
  | .matLdb q => Sys2Proof.Machine.execMatLdb q s
  | .matRing sa => Sys2Proof.Machine.execMatRing sa s
  | .matWait acc => Sys2Proof.Machine.execMatWait acc s
  | .matSatc rd acc => Sys2Proof.Machine.execMatSatc rd acc s
  | .mma pr tall ovr latch acc qa qb sc => Sys2Proof.Machine.execMma pr tall ovr latch acc qa qb sc s
  | .nop => Sys2Proof.Machine.execNop s
  | .illegalInstruction w => Sys2Proof.Machine.execIllegalInstruction w s
  | .retryRedelivery id => Sys2Proof.Machine.execRetryRedelivery id s
  | .spill k => Sys2Proof.Machine.execSpill k s
  | .fill k => Sys2Proof.Machine.execFill k s
  | .carveOutApply k => Sys2Proof.Machine.execCarveOutApply k s
  | .pageWalk id => Sys2Proof.Machine.execPageWalk id s
  | .tlbInvalidation id g => Sys2Proof.Machine.execTlbInvalidation id g s
  | .readRequest pid => Sys2Proof.Machine.execReadRequest pid s
  | .loadReply pid => Sys2Proof.Machine.execLoadReply pid s
  | .remoteLoadFailure k => Sys2Proof.Machine.execRemoteLoadFailure k s
  | .replyTimeout k id => Sys2Proof.Machine.execReplyTimeout k id s
  | .postedOperation pid => Sys2Proof.Machine.execPostedOperation pid s
  | .acknowledgement pid => Sys2Proof.Machine.execAcknowledgement pid s
  | .atomicRequest pid => Sys2Proof.Machine.execAtomicRequest pid s
  | .atomicReply pid => Sys2Proof.Machine.execAtomicReply pid s
  | .codeMissEvent k => Sys2Proof.Machine.execCodeMissEvent k s
  | .codeBlockLoaded k => Sys2Proof.Machine.execCodeBlockLoaded k s
  | .codeMissTrap k => Sys2Proof.Machine.execCodeMissTrap k s
  | .copyStart k => Sys2Proof.Machine.execCopyStart k s
  | .copyReadReply pid => Sys2Proof.Machine.execCopyReadReply pid s
  | .copyComplete k id => Sys2Proof.Machine.execCopyComplete k id s
  | .copyFail k id => Sys2Proof.Machine.execCopyFail k id s
  | .homeMessageArrival pid => Sys2Proof.Machine.execHomeMessageArrival pid s
  | .refusalArrival pid => Sys2Proof.Machine.execRefusalArrival pid s
  | .hardwareResend ep id => Sys2Proof.Machine.execHardwareResend ep id s
  | .timedMessageDue k id => Sys2Proof.Machine.execTimedMessageDue k id s
  | .activationStart k => Sys2Proof.Machine.execActivationStart k s
  | .activationGoLive g id => Sys2Proof.Machine.execActivationGoLive g id s
  | .activationDoneAtHome pid => Sys2Proof.Machine.execActivationDoneAtHome pid s
  | .idleTimerExpiry g id => Sys2Proof.Machine.execIdleTimerExpiry g id s
  | .caveWriteAck g id => Sys2Proof.Machine.execCaveWriteAck g id s
  | .caveFullEvent id => Sys2Proof.Machine.execCaveFullEvent id s
  | .balancerPeriod => Sys2Proof.Machine.execBalancerPeriod s
  | .migrationCommand src dst n => Sys2Proof.Machine.execMigrationCommand src dst n s
  | .moveRequest pid => Sys2Proof.Machine.execMoveRequest pid s
  | .moveSourceReport id => Sys2Proof.Machine.execMoveSourceReport id s
  | .moveComplete g id => Sys2Proof.Machine.execMoveComplete g id s
  | .actorRequest pid => Sys2Proof.Machine.execActorRequest pid s
  | .probeReply pid => Sys2Proof.Machine.execProbeReply pid s
  | .steal k => Sys2Proof.Machine.execSteal k s
  | .counterOperation pid => Sys2Proof.Machine.execCounterOperation pid s
  | .counterReply pid => Sys2Proof.Machine.execCounterReply pid s
  | .barrierPhaseComplete g n => Sys2Proof.Machine.execBarrierPhaseComplete g n s
  | .floorPublish => Sys2Proof.Machine.execFloorPublish s
  | .groupFlagForward id => Sys2Proof.Machine.execGroupFlagForward id s
  | .groupFlagBroadcast => Sys2Proof.Machine.execGroupFlagBroadcast s
  | .firstNanReport id => Sys2Proof.Machine.execFirstNanReport id s
  | .vectorCommandComplete k => Sys2Proof.Machine.execVectorCommandComplete k s
  | .matrixCommandBegin k => Sys2Proof.Machine.execMatrixCommandBegin k s
  | .operandFetch k => Sys2Proof.Machine.execOperandFetch k s
  | .blockStepDecision g => Sys2Proof.Machine.execBlockStepDecision g s
  | .matrixCommandComplete k => Sys2Proof.Machine.execMatrixCommandComplete k s
  | .matRingRotation g => Sys2Proof.Machine.execMatRingRotation g s
  | .slotTableSwitch g => Sys2Proof.Machine.execSlotTableSwitch g s
  | .rampWindowEnd => Sys2Proof.Machine.execRampWindowEnd s
  | .preemptionRequest k job => Sys2Proof.Machine.execPreemptionRequest k job s
  | .preemption k => Sys2Proof.Machine.execPreemption k s
  | .forcedPreemption k => Sys2Proof.Machine.execForcedPreemption k s
  | .contextSaveComplete k => Sys2Proof.Machine.execContextSaveComplete k s
  | .resumption k => Sys2Proof.Machine.execResumption k s
  | .packetHeadSwitch pid => Sys2Proof.Machine.execPacketHeadSwitch pid s
  | .wheyArrival pid => Sys2Proof.Machine.execWheyArrival pid s
  | .pull ep id => Sys2Proof.Machine.execPull ep id s
  | .pullReceived pid => Sys2Proof.Machine.execPullReceived pid s
  | .retransmissionArrival pid => Sys2Proof.Machine.execRetransmissionArrival pid s
  | .goneReport pid => Sys2Proof.Machine.execGoneReport pid s
  | .holeTimeout ep id => Sys2Proof.Machine.execHoleTimeout ep id s
  | .retainTimeout ep id => Sys2Proof.Machine.execRetainTimeout ep id s
  | .unreachReport pid => Sys2Proof.Machine.execUnreachReport pid s
  | .flitTagFailure port rx => Sys2Proof.Machine.execFlitTagFailure port rx s
  | .keyInstall port rx key salt => Sys2Proof.Machine.execKeyInstall port rx key salt s
  | .keyExhaustion port => Sys2Proof.Machine.execKeyExhaustion port s
  | .claimCas f old new => Sys2Proof.Machine.execClaimCas f old new s
  | .claimWrite f v => Sys2Proof.Machine.execClaimWrite f v s
  | .functionLevelReset f => Sys2Proof.Machine.execFunctionLevelReset f s
  | .createJob => Sys2Proof.Machine.execCreateJob s
  | .destroyJob => Sys2Proof.Machine.execDestroyJob s
  | .defineClass => Sys2Proof.Machine.execDefineClass s
  | .writePlacementDomain => Sys2Proof.Machine.execWritePlacementDomain s
  | .copy => Sys2Proof.Machine.execCopy s
  | .assignNumericsGroup => Sys2Proof.Machine.execAssignNumericsGroup s
  | .openSystemClass => Sys2Proof.Machine.execOpenSystemClass s
  | .unknownOp => Sys2Proof.Machine.execUnknownOp s
  | .attestationRequest f v => Sys2Proof.Machine.execAttestationRequest f v s
  | .doorbell f v => Sys2Proof.Machine.execDoorbell f v s
  | .queueActivate f q v => Sys2Proof.Machine.execQueueActivate f q v s
  | .queueDrain f q v => Sys2Proof.Machine.execQueueDrain f q v s
  | .notify f v => Sys2Proof.Machine.execNotify f v s
  | .notifyhead f v => Sys2Proof.Machine.execNotifyhead f v s
  | .pwrcap f v => Sys2Proof.Machine.execPwrcap f v s
  | .registerWrite f off v => Sys2Proof.Machine.execRegisterWrite f off v s
  | .shadowReconcile => Sys2Proof.Machine.execShadowReconcile s
  | .tailEvent q => Sys2Proof.Machine.execTailEvent q s
  | .actorMessage q => Sys2Proof.Machine.execActorMessage q s
  | .addressOwnedActiveMessage q => Sys2Proof.Machine.execAddressOwnedActiveMessage q s
  | .jobControlFence q => Sys2Proof.Machine.execJobControlFence q s
  | .barrierLoad q => Sys2Proof.Machine.execBarrierLoad q s
  | .killJob q => Sys2Proof.Machine.execKillJob q s
  | .hostPartRefusal pid => Sys2Proof.Machine.execHostPartRefusal pid s
  | .frontEndCoreFence n => Sys2Proof.Machine.execFrontEndCoreFence n s
  | .queueDescriptorError q => Sys2Proof.Machine.execQueueDescriptorError q s
  | .secureBoot => Sys2Proof.Machine.execSecureBoot s
  | .thermalThrottle => Sys2Proof.Machine.execThermalThrottle s
  | .thermalRecovery => Sys2Proof.Machine.execThermalRecovery s
  | .thermalTrip => Sys2Proof.Machine.execThermalTrip s
  | .levelsumSample => Sys2Proof.Machine.execLevelsumSample s
  | .nernathAttach job => Sys2Proof.Machine.execNernathAttach job s
  | .breakpointStop k => Sys2Proof.Machine.execBreakpointStop k s
  | .jobStop job => Sys2Proof.Machine.execJobStop job s
  | .go job => Sys2Proof.Machine.execGo job s
  | .step k => Sys2Proof.Machine.execStep k s
  | .softwareBreakpointPatch job addr on => Sys2Proof.Machine.execSoftwareBreakpointPatch job addr on s
  | .reverseStep job id k n => Sys2Proof.Machine.execReverseStep job id k n s
  | .l1ExtraWriteBack k line => Sys2Proof.Machine.execL1ExtraWriteBack k line s
  | .returnedReply pid => Sys2Proof.Machine.execReturnedReply pid s
  | .inspectionWrite k what v => Sys2Proof.Machine.execInspectionWrite k what v s
  | .unreadEccError what => Sys2Proof.Machine.execUnreadEccError what s

end Sys2Proof.Machine
end

