-- ==== Sys2Proof/Machine/Run.lean ====
section
/-! DEFINITION. How the part runs (spec/16_model.md, spec/01_machine.md R5): what a core does next, the fetch of a word, the moves of a step, the order in
which they come, and the passing of time. The steps of all parties interleave in any order that their own rules allow: `State.schedule` says which
comes next, so that a statement about every state is one about every order; an empty schedule falls back on a fixed order
(DESIGN CHOICE, notes/assumptions/32.md). -/

namespace Sys2Proof.Machine

/-! Time (spec/01_machine.md R5, spec/18_frontend.md R445). -/

/-- The clocks move on by one step. Log: DESIGN CHOICE, notes/assumptions/70.md; DESIGN CHOICE, notes/assumptions/73.md. -/
def State.tick (s : State) : State := { s with dtime := s.dtime + s.pace, cyc10 := s.cyc10 + s.pace * s.rate }

/-- The periodic work whose time has come: ramp windows, slot table switches, flag forwards that a broadcast must carry, flag broadcasts, floors, the sample of the levels,
the balancer's reading, the reconcile timer (spec/14_matrix.md R339, R344, spec/12_numbers.md R292, spec/11_tasks.md R270, spec/18_frontend.md R431, R447,
spec/10_actors.md R240). Log: DESIGN CHOICE, notes/assumptions/32.md; DESIGN CHOICE, notes/assumptions/73.md. -/
def State.periodic (s : State) : State := s.rampEnd.slotSwitches.takeOldForwards.broadcastFlags.publishFloor.sampleLevels.balance.raiseReconcile

/-- The time of one step passes, and what is due at its end is done. Log: DESIGN CHOICE, notes/assumptions/70.md; DESIGN CHOICE,
notes/assumptions/32.md; DESIGN CHOICE, notes/assumptions/73.md. -/
def State.pass (s : State) : State := s.tick.periodic

/-- Time passes after a step that has a next state. -/
def passTime (r : Host.Outcome State Fault Refusal) : Host.Outcome State Fault Refusal :=
  match r with
  | .next s => .next s.pass
  | .fault f => .fault f
  | .refused f => .refused f

/-! Executing the next instruction. -/

/-- Execute a word: the instruction it is, or the trap of a word that is none (spec/03_formats.md R61). -/
def runWord (w : Word) (s : State) : Host.Outcome State Fault Refusal :=
  match decode w with
  | some i => exec i s
  | none => exec (.illegalInstruction w) s

/-- The state in which a core executes the word `w`. -/
def State.ready4 (s : State) (k : Nat) (w : Word) : State := { s with cur := k }.modCore k fun c => { c with ir := w, drain := false }

/-- The core with its ENTRY record made, where it issues an activation's first instruction (spec/19_debug.md R449). -/
def State.entered (s : State) (k : Nat) : State :=
  let c := s.core k
  if c.entering then (s.trace k 0 0 (c.act.getD {}).msg.score).modCore k fun c => { c with entering := false } else s

/-- Whether a core's instruction still waits at R: the step has left its activation where it was. -/
def Core.waited (c t : Core) : Bool :=
  decide (t.pc = c.pc) && decide (t.ctx.instret = c.ctx.instret) && decide (t.uid = c.uid) && t.act.isSome && t.blocked.isNone && t.trapWait.isNone && t.held.isNone
    && decide (t.ctx.depth = c.ctx.depth) && t.finish.isNone

/-- Whether an instruction has added to a capture buffer that was full (spec/19_debug.md R453): it waits at R instead. Log: DESIGN CHOICE,
notes/assumptions/15.md. -/
def State.capStalls (s t : State) (k : Nat) : Bool := decide (capEntries ≤ s.capUsed k) && decide (s.capUsed k < t.capUsed k)

/-- A core issues the word `w`, or it waits at R: for room in the capture buffer, with a stall cycle counted (spec/19_debug.md R453, R457), or for what the
word's meaning waits for; the first instruction of an activation makes its ENTRY record when it issues. Log: DESIGN CHOICE, notes/assumptions/15.md. -/
def State.issue (s : State) (k : Nat) (w : Word) : Host.Outcome State Fault Refusal :=
  match runWord w ((s.entered k).ready4 k w) with
  | .next t =>
    if s.capStalls t k then .next (s.modCore k fun c => { c with count := { c.count with capstall := c.count.capstall + 1 } })
    else if (s.core k).entering && (s.core k).waited (t.core k) then runWord w (s.ready4 k w)
    else .next t
  | r => r

/-- A core moves. -/
def State.coreMove (s : State) (k : Nat) : Host.Outcome State Fault Refusal :=
  match s.coreNext k with
  | .nothing => .next s
  | .finish f a => .next (s.finishStep k f a)
  | .enter cause tval => .next ({ s with cur := k }.takeTrap k cause tval)
  | .post => perform { s with cur := k } ({ s with cur := k } : State).postMore
  | .hold => .next (s.holdCore k 19)
  | .yield => .next (s.modCore k fun c => { c with preempting := true })
  | .forced => execForcedPreemption k s
  | .stop n => .next (s.breakStop k n)
  | .trap cause tval => .next ({ s with cur := k, free := s.free + 1 }.takeTrap k cause tval)
  | .miss => .next (s.modCore k fun c => { c with fetch := some { addr := c.pc } })
  | .run w => s.issue k w

/-- Control core `i` executes the word `w` of its program, Fleiz, which the spec does not place (spec/01_machine.md R7). Log: DESIGN CHOICE,
notes/assumptions/88.md. -/
def State.controlMove (s : State) (i : Nat) (w : Word) : Host.Outcome State Fault Refusal :=
  let k := controlCore i
  let c := s.core k
  let s1 : State := { s with cur := k }
  if c.blocked.isSome || c.draining then .next s
  else if !c.storing.isEmpty then perform s1 s1.postMore
  else match c.trapWait with
    | some t => .next (s1.takeTrap k t.1 t.2)
    | none => runWord w (s.ready4 k w)

/-! Moves. -/

/-- Whether a row is an event, which no word holds. -/
def isEvent (i : Instr) : Bool :=
  match i with
  | .illegalInstruction _ => false
  | i => !i.isWord

/-- A packet arrives: the event of its kind. -/
def State.arrivePacket (s : State) (pid : Nat) : Host.Outcome State Fault Refusal :=
  match s.packet pid with
  | none => .next s
  | some p =>
    if p.again then execRetransmissionArrival pid s
    else match p.body with
      | .msg _ => execHomeMessageArrival pid s
      | .areq _ => execActorRequest pid s
      | .probeRep _ _ => execProbeReply pid s
      | .read _ => execReadRequest pid s
      | .readRep r _ _ => if r.copy then execCopyReadReply pid s else execLoadReply pid s
      | .posted _ => execPostedOperation pid s
      | .atomic _ => execAtomicRequest pid s
      | .atomicRep _ _ _ _ _ => execAtomicReply pid s
      | .counter _ => execCounterOperation pid s
      | .counterRep _ _ _ _ _ _ _ _ _ _ => execCounterReply pid s
      | .ack _ _ _ _ => execAcknowledgement pid s
      | .refuse _ _ _ => if p.dst = epHost then execHostPartRefusal pid s else execRefusalArrival pid s
      | .returned _ _ => execReturnedReply pid s
      | .whey _ _ _ _ _ => execWheyArrival pid s
      | .pull _ => execPullReceived pid s
      | .gone _ => execGoneReport pid s
      | .unreach _ _ => execUnreachReport pid s
      | .done _ _ _ => execActivationDoneAtHome pid s
      | .move _ _ _ => execMoveRequest pid s

/-- One move. Log: DESIGN CHOICE, notes/assumptions/32.md. -/
def State.move (s : State) : Move → Host.Outcome State Fault Refusal
  | .core k => if isCore k then s.coreMove k else .fault .noSuchCore
  | .control i w => if i < 16 then s.controlMove i w else .fault .noSuchCore
  | .event i => if isEvent i then exec i s else .next s
  | .fill k => .next (s.fillOwn k)
  | .pump k pick => .next (s.pump k pick)
  | .arrive pid => s.arrivePacket pid
  | .flush g => .next (s.flushTrace g)
  | .drain k => .next (s.drainLog k)
  | .writeBack k line => execL1ExtraWriteBack k line s
  | .serve => .next s.serve
  | .exhaust a => execKeyExhaustion a s
  | .outside x => .next (s.outside x)
  | .idle => .next s

/-! The order where no schedule is given (DESIGN CHOICE, notes/assumptions/32.md). -/

/-- A move where a condition holds. -/
def moveIf (b : Bool) (m : Move) : List Move := if b then [m] else []
/-- An event where a condition holds. -/
def eventIf (b : Bool) (i : Instr) : List Move := moveIf b (.event i)

/-- The periodic events that are due. -/
def State.dueMoves (s : State) : List Move :=
  eventIf (decide (s.nextBalance ≤ s.dtime)) .balancerPeriod ++ eventIf (decide (s.nextFloor ≤ s.dtime)) .floorPublish
    ++ eventIf (decide (s.nextFlags ≤ s.dtime)) .groupFlagBroadcast ++ eventIf (decide (s.nextLevel ≤ s.dtime)) .levelsumSample
    ++ eventIf (decide (s.nextShadow ≤ s.dtime)) .shadowReconcile ++ eventIf (decide (s.nextWindow ≤ s.cyc10 / 20)) .rampWindowEnd
    ++ eventIf (decide (s.boot.state = 0)) .secureBoot

/-- What a core and its units may do. -/
def State.coreMoves (s : State) (k : Nat) : List Move :=
  let c := s.core k
  let idle := c.act.isNone && !c.saving
  moveIf (decide (s.coreNext k ≠ .nothing)) (.core k)
    ++ moveIf (!c.out.isEmpty || !c.timers.isEmpty) (.fill k)
    ++ eventIf (c.out.any fun a => match a.st with | .failed _ => true | .underflow _ => true | _ => false) (.remoteLoadFailure k)
    ++ (c.out.filter fun a => decide (a.issued + Config.giveUp ≤ s.dtime)).map (fun a => .event (.replyTimeout k a.id))
    ++ moveIf (!c.capBuf.isEmpty) (.drain k) ++ eventIf (decide (c.eng = .spilling)) (.spill k) ++ eventIf (decide (c.eng = .filling)) (.fill k)
    ++ eventIf (!c.vq.isEmpty) (.vectorCommandComplete k)
    ++ (if c.mq.isEmpty then [] else [.event (.matrixCommandBegin k), .event (.operandFetch k), .event (.matrixCommandComplete k)])
    ++ ((c.l1.filter fun l => c.mq.any fun m => (m.spans k).any (l.meets m.act)).map fun l => .writeBack k l.line)
    ++ (List.range (max (if c.cmdq.isEmpty then 0 else 1) (c.copies.filter fun x => decide (x.st = .running)).length)).map (.pump k)
    ++ eventIf (c.copies.any fun x => decide (x.st = .queued)) (.copyStart k)
    ++ c.copies.flatMap (fun x => [.event (.copyComplete k x.id.toNat), .event (.copyFail k x.id.toNat)])
    ++ eventIf (match c.fetch with | some h => !h.taken | none => false) (.codeMissEvent k)
    ++ (c.inbox.filter fun x => !x.due).map (fun x => .event (.timedMessageDue k x.order))
    ++ eventIf (c.preq.isSome || c.preempting) (.preemption k) ++ eventIf c.preq.isSome (.forcedPreemption k)
    ++ eventIf c.saving (.contextSaveComplete k)
    ++ eventIf (idle && c.accepted.isSome) (.carveOutApply k)
    ++ eventIf (idle && (s.candidate k).isSome) (.activationStart k)
    ++ eventIf (idle && !c.saved.isEmpty) (.resumption k)
    ++ eventIf (idle && (s.candidate k).isNone && (s.victim k).isSome) (.steal k)

/-- What a cluster's units may do. -/
def State.clusterMoves (s : State) (g : Nat) : List Move :=
  let c := s.cluster g
  let queued := (List.range 8).any fun i => !(s.core (clusterCore g i)).mq.isEmpty
  eventIf (queued || decide (0 < c.engine.level)) (.blockStepDecision g)
    ++ eventIf queued (.matRingRotation g) ++ eventIf (c.engine.armed.isSome || !c.engine.coming.isEmpty) (.slotTableSwitch g)
    ++ c.flow.flatMap (fun e => match e.st with
      | .activating => [.event (.activationGoLive g e.id)]
      | .live => eventIf (s.idleDue e) (.idleTimerExpiry g e.id)
      | .retiring => [.event (.caveWriteAck g e.id)]
      | .moving => if e.reported then [.event (.moveComplete g e.id)] else [.event (.moveSourceReport e.id)]
      | .hint => [])
    ++ (c.bars.filter fun b => b.2.en && decide (b.2.arrived = b.2.parties)).map (fun b => .event (.barrierPhaseComplete g b.1))
    ++ moveIf (!c.trbuf.isEmpty) (.flush g)

/-- What an endpoint of the network may do. -/
def State.endpointMoves (s : State) (ep : Nat) : List Move :=
  let e := s.ep ep
  (e.retain.filter fun r => match r.resendAt with | some t => decide (t ≤ s.dtime) | none => false).map (fun r => .event (.hardwareResend ep r.rtag))
    ++ (e.retain.filter fun r => decide (r.born + Config.giveUp ≤ s.dtime)).map (fun r => .event (.retainTimeout ep r.rtag))
    ++ e.holes.flatMap (fun h => eventIf (decide (h.timer ≤ s.dtime)) (.pull ep h.id)
      ++ eventIf (decide (h.born + Config.giveUp ≤ s.dtime)) (.holeTimeout ep h.id))

/-- What the front end and Fleiz may do. -/
def State.serviceMoves (s : State) : List Move :=
  s.feEvents.flatMap (fun e => match e with
      | .tail q => [Move.event (.tailEvent q)]
      | .reconcile => [Move.event .shadowReconcile]
      | .report _ _ => [Move.serve]
      | .refused _ _ _ => [Move.serve]
      | .caveFull _ id _ => [Move.event (.caveFullEvent id)]
      | .codeMiss k _ _ => [Move.event (.codeBlockLoaded k), Move.event (.codeMissTrap k)])
    ++ (s.queues.filter fun q => q.2.lock.isSome).flatMap (fun q => [Move.event (.actorMessage q.1), Move.event (.addressOwnedActiveMessage q.1),
      Move.event (.jobControlFence q.1), Move.event (.barrierLoad q.1), Move.event (.killJob q.1), Move.event (.tailEvent q.1)])
    ++ (s.queues.filter fun q => q.2.open_.any fun p => p.fence.isSome).map (fun q => .event (.jobControlFence q.1))
    ++ (if s.bar0.mboxState = 1 then [.event .createJob, .event .destroyJob, .event .defineClass, .event .writePlacementDomain, .event .copy,
      .event .assignNumericsGroup, .event .openSystemClass, .event .unknownOp] else [])
    ++ (s.jobs.filter fun j => j.2.stopReq).map (fun j => .event (.jobStop j.1))
    ++ s.requests.map (fun r => .event (.preemptionRequest r.1 r.2))

/-- What else is on its way. -/
def State.transitMoves (s : State) : List Move :=
  s.net.map (fun p => if s.atEnd p then .arrive p.id else .event (.packetHeadSwitch p.id))
    ++ s.walks.map (fun w => .event (.pageWalk w.id)) ++ s.invals.flatMap (fun v => v.left.map fun g => .event (.tlbInvalidation v.id g))
    ++ (s.redel.filter fun r => decide (r.due ≤ s.dtime)).map (fun r => .event (.retryRedelivery r.id))
    ++ s.fwds.map (fun f => .event (.groupFlagForward f.id)) ++ (s.nanReports.filter s.nanNext).map (fun r => .event (.firstNanReport r.id))
    ++ s.jobs.flatMap (fun j => (j.2.patches.filter fun p => !s.settled p || !p.on).map fun p => .event (.softwareBreakpointPatch j.1 p.addr p.on))
    ++ s.migr.map (fun m => .event (.migrationCommand m.1 m.2.1 m.2.2))
    ++ (s.links.filter fun l => l.2.tx.due).map (fun l => .exhaust l.1)

/-- The moves the part may make by itself. Log: DESIGN CHOICE, notes/assumptions/32.md. -/
def State.candidates (s : State) : List Move :=
  s.dueMoves ++ s.cores.flatMap (fun c => s.coreMoves c.1) ++ s.clusters.flatMap (fun g => s.clusterMoves g.1)
    ++ s.eps.flatMap (fun e => s.endpointMoves e.1) ++ s.serviceMoves ++ s.transitMoves

/-- The next move and the state in which it is made. Log: DESIGN CHOICE, notes/assumptions/32.md. -/
def State.choose (s : State) : Move × State :=
  match s.schedule with
  | m :: t => (m, { s with schedule := t })
  | [] =>
    let ms := s.candidates
    (ms.getD (s.turn % ms.length) .idle, { s with turn := s.turn + 1 })

/-- One step: the next move is made, then time passes. Log: DESIGN CHOICE, notes/assumptions/32.md; DESIGN CHOICE, notes/assumptions/70.md. -/
def State.advance (s : State) : Host.Outcome State Fault Refusal :=
  let r := s.choose
  passTime (r.2.move r.1)

/-! An instruction placed where the next step fetches it (DESIGN CHOICE, notes/assumptions/33.md). -/

/-- The job, the class and the message of the placed program. Log: DESIGN CHOICE, notes/assumptions/33.md. -/
def loadedClass : ClassDesc := { valid := true, job := 1, allot := 4 }

/-- Core 0 between activations is given an activation of job 1, class 64, whose PC is 0. Log: DESIGN CHOICE, notes/assumptions/33.md. -/
def loadedAct : Act := { kind := .actor, job := 1, cls := 64, home := 0, desc := loadedClass, uid := 1 }

/-- Place the word `w` where core 0 fetches next: job 1 is live, its block 0 stands in block 0 of cluster 0's instruction store, and core 0 runs an
activation at PC 0, with nothing that keeps the fetch from it. Log: DESIGN CHOICE, notes/assumptions/33.md. -/
def State.placeWord (s : State) (w : Nat) : State :=
  let s1 := s.modJob 1 fun j => { j with live := true, code := 2 ^ 40, codelen := 4096, cset := 1 }
  let s2 := (s1.store (placeStore 0 0x80000) 4 w).store (tagPlace 0 0) 8 (2 ^ 63 + 2 ^ 40)
  let s3 := s2.modCore 0 fun c =>
    { c with
      act := some loadedAct, pc := 0, ctx := { c.ctx with allotV := 32 }, held := none, finish := none, blocked := none, fetch := none, trapWait := none
      drain := false, preempting := false, stepping := false, resumeAt := none, entering := false }
  let s4 := s3.modCluster 0 fun g => { g with bps := [] }
  { s4 with schedule := [.core 0], power := 0, tripped := false, ecc := s4.ecc.filter fun l => decide (l ≠ lineOf (placeStore 0 0x80000)) }

end Sys2Proof.Machine
end

