-- ==== Sys2Proof/Machine/Step.lean ====
section
/-! DEFINITION. The step of the part, and the instruction placed where the next step fetches it. -/

namespace Sys2Proof.Machine

/-- One step of the part. -/
def step (s : State) : Host.Outcome State Fault Refusal := s.advance

/-- `s` with the instruction word `w` placed where the next step fetches. Log: DESIGN CHOICE, notes/assumptions/33.md. -/
def State.withFetchWord (s : State) (nbits w : Nat) : State := s.placeWord (w % 2 ^ nbits)

end Sys2Proof.Machine
end

