-- ==== Sys2Proof/Safety.lean ====
section
/-! DEFINITION. What counts as a safe run, and the terms in which claims about instructions are made: operands that are ready, an
instruction that completes with a given effect, an instruction that waits, a trap that is entered, and what stays as it was. -/

namespace Sys2Proof.Machine

/-! Runs. -/

/-- A step is safe when it has a next state: it ends in no fault and in no refusal. -/
def SafeStep (s : State) : Prop := ∃ t, step s = .next t

/-- A run of `n` steps is safe when each of them is. -/
def SafeRun (n : Nat) (s : State) : Prop := ∃ t, Host.Core.run Sys2Proof.core n s = .next t

/-! Operands (spec/04_scalar.md R67, R68; spec/15_system.md R353). -/

/-- A register's line in the register partition is sound. -/
def Core.Sound (c : Core) (slot : Nat) : Prop := ∀ e ∈ c.regEcc, e.1 ≠ slot

/-- Scalar sources that are full and lie in sound lines. -/
def Core.SrcsReady (c : Core) (srcs : List (Src × Nat)) : Prop :=
  ∀ p ∈ srcs, (c.reg p.1.n.toNat).full = true ∧ (p.1.n ≠ 0 → c.Sound (c.slotOf p.1.n.toNat))

/-- A scalar destination that is full. -/
def Core.DestReady (c : Core) (rd : BitVec 5) : Prop := (c.reg rd.toNat).full = true

/-- Room for an undo-log entry: none is needed without an outstanding access, and 16 fit (spec/06_memory.md R134). -/
def Core.LogRoom (c : Core) : Prop := c.out = [] ∨ c.undo.length < 16

/-- Sources, destination and undo log of the executing core ready for an instruction that reads `srcs` and writes `rd`. -/
structure State.Ready (s : State) (srcs : List (Src × Nat)) (rd : BitVec 5) : Prop where
  srcs : s.c.SrcsReady srcs
  dest : s.c.DestReady rd
  room : s.c.LogRoom

/-- Vector operands within the allotment, full, and in sound lines; a place in the command queue (spec/05_windows.md R108, spec/13_vector.md
R300). -/
structure State.VReady (s : State) (srcs dsts : List (BitVec 5)) : Prop where
  allot : ∀ n ∈ srcs ++ dsts, n.toNat < s.c.ctx.allotV
  full : ∀ n ∈ srcs ++ dsts, (s.c.v n.toNat).full = true
  sound : ∀ n ∈ srcs, s.c.Sound (vecSlot n.toNat)
  queue : s.c.vq.length < 2
  room : s.c.LogRoom

/-! What stays as it was. -/

/-- The context of a core but for INSTRET and for what waits to be forwarded to the numerics group's home. -/
def Ctx.Same (x y : Ctx) : Prop := { y with instret := x.instret, fevs := x.fevs } = x

/-- Two states with the same device: all but the cores, the snapshots for reverse stepping, the forwards to numerics groups that are on
their way, and the count of identities. -/
def State.SameDevice (s t : State) : Prop :=
  { t with cores := s.cores, snaps := s.snaps, fwds := s.fwds, nextId := s.nextId } = s

/-- `t` is `e` with the executing core's instruction completed: PC stands at `pc`, INSTRET counts one more, an undo-log entry may
have been made, and nothing else differs but the model's own count of register writes. -/
structure Completed (e t : State) (pc : BitVec 32) : Prop where
  pc : t.c.pc = pc
  instret : t.c.ctx.instret = e.c.ctx.instret + 1
  ctx : Ctx.Same e.c.ctx t.c.ctx
  core : { t.c with pc := e.c.pc, ctx := e.c.ctx, undo := e.c.undo, writes := e.c.writes } = e.c
  others : ∀ k, k ≠ e.cur → t.core k = e.core k
  device : State.SameDevice e t

/-- The instruction completes at `s` with the effect that makes `e` of `s`, PC moving to `pc`. -/
def CompletesAt (i : Instr) (s e : State) (pc : BitVec 32) : Prop := ∃ t, exec i s = .next t ∧ Completed e t pc

/-- The instruction completes at `s` with the effect that makes `e` of `s`, PC moving past its word. -/
def Completes (i : Instr) (s e : State) : Prop := CompletesAt i s e (s.c.pc + 4)

/-- The instruction waits at `s`: nothing changes. -/
def Waits (i : Instr) (s : State) : Prop := exec i s = .next s

/-- The instruction traps at `s` with a cause and TVAL (spec/15_system.md R355). -/
def Traps (i : Instr) (s : State) (cause : Nat) (tval : XWord) : Prop := exec i s = .next (s.takeTrap s.cur cause tval)

/-- The handler may be entered at once: TVEC is enabled, no trap is in progress, DEPTH is below its limit, a window slot is free, the vector
unit is empty, no timer read is under way, and no access is outstanding. -/
structure State.HandlerReady (s : State) : Prop where
  tvec : s.c.ctx.tvecEn = true
  intrap : s.c.ctx.status.intrap = false
  depth : s.c.ctx.depth < 65535
  slots : 0 < s.c.freeSlots
  vec : s.c.vq = []
  timers : s.c.timers = []
  out : s.c.out = []

/-- `c'` stands in a frame above that of `c`: its ins are the outs of `c`, its locals and outs are zero and full, the globals and all
frames below are kept (spec/05_windows.md R91, R94; spec/15_system.md R355). -/
structure NewFrame (c c' : Core) : Prop where
  depth : c'.ctx.depth = c.ctx.depth + 1
  globals : ∀ n, n < 8 → c'.reg n = c.reg n
  ins : ∀ n, 8 ≤ n → n < 16 → c'.reg n = c.reg (n + 16)
  fresh : ∀ n, 16 ≤ n → n < 32 → c'.reg n = {}
  below : ∀ key, key < 16 * c.ctx.depth + 32 → c'.regAt key = c.regAt key

/-- `c'` stands in the frame below that of `c`: its outs are the ins of `c`, its ins and locals are those it had, and no register is
written (spec/05_windows.md R91, R95). -/
structure OldFrame (c c' : Core) : Prop where
  depth : c'.ctx.depth + 1 = c.ctx.depth
  outs : ∀ n, 24 ≤ n → n < 32 → c'.reg n = c.reg (n - 16)
  kept : ∀ key, c'.regAt key = c.regAt key

/-- The handler is entered from `s` with a cause and TVAL (spec/15_system.md R355): the trap registers, STATUS, the new frame, PC at TVEC;
INSTRET does not count the instruction, and no byte of memory and no other core changes. -/
structure Entered (s t : State) (cause : Nat) (tval : XWord) : Prop where
  epc : t.c.ctx.epc = s.c.pc
  cause : t.c.ctx.cause = BitVec.ofNat 8 cause
  tval : t.c.ctx.tval = tval
  tdepth : t.c.ctx.status.tdepth = BitVec.ofNat 16 s.c.ctx.depth
  intrap : t.c.ctx.status.intrap = true
  decline : t.c.ctx.status.decline = false
  frame : NewFrame s.c t.c
  pc : t.c.pc = s.c.ctx.tvecAddr ++ (0 : BitVec 2)
  instret : t.c.ctx.instret = s.c.ctx.instret
  memory : ∀ p, t.byte p = s.byte p
  others : ∀ k, k ≠ s.cur → t.core k = s.core k

/-- The instruction's effect at `s` is the entry of the handler. -/
def Enters (i : Instr) (s : State) (cause : Nat) (tval : XWord) : Prop := ∃ t, exec i s = .next t ∧ Entered s t cause tval

/-! Steps. -/

/-- Core `k` executes the word `w` when it moves: the clocks run, it is not held, it runs an activation that waits for no reply, no block of code, no
trap entry and no write-back, the fetch hits and finds the word in sound storage, no breakpoint register matches, and no pre-emption is to be taken at
this boundary; the capture buffer has room (spec/15_system.md R353, R367, R368, spec/19_debug.md R449 to
R453). -/
structure State.CanRun (s : State) (k : Nat) (w : Word) : Prop where
  clocks : s.gated = false
  held : (s.core k).held = none
  act : (s.core k).act ≠ none
  finish : (s.core k).finish = none
  blocked : (s.core k).blocked = none
  fetch : (s.core k).fetch = none
  trap : (s.core k).trapWait = none
  drain : (s.core k).draining = false
  storing : (s.core k).storing = []
  capture : s.capUsed k < capEntries
  preempting : (s.core k).preempting = false
  stepping : (s.core k).stepping = false ∨ (s.core k).noMatch = true
  word : s.fetchWord k = some w
  sound : s.fetchEcc k = false
  breaks : s.matchBp k = none
  point : ∀ a, (s.core k).act = some a → s.overruns k a = false ∧ s.yields k a = false
  original : (s.core k).noMatch = true → s.original (s.core k).jobNum (s.core k).pc = none

/-! Memory. -/

/-- The one memory of a state is in canonical form. -/
def State.MemOk (s : State) : Prop := Memory.wf s.mem = true

/-- No byte of the one memory differs. -/
def State.BytesSame (s t : State) : Prop := ∀ p, t.byte p = s.byte p

/-- `s` with the memory of `t`, which the executing core's instruction has written in some lines of its own scratchpad: what an activation it has
pre-empted had logged of them is logged no more (spec/19_debug.md R454). -/
def State.written (s t : State) (lines : List Nat) : State := lines.foldl (fun (s : State) l => s.unlogSaved s.cur l) { s with mem := t.mem }

/-- The executing core's instruction has completed, writing `v` to `rd` and no other register; PC stands past its word, the context but for
INSTRET and the flags' forwarding is as it was, and no other core differs. -/
structure RegWritten (s t : State) (rd : BitVec 5) (v : XWord) : Prop where
  pc : t.c.pc = s.c.pc + 4
  instret : t.c.ctx.instret = s.c.ctx.instret + 1
  ctx : Ctx.Same s.c.ctx t.c.ctx
  reg : ∀ key, t.c.regAt key = (s.c.setX rd v).regAt key
  vs : t.c.vs = s.c.vs
  ms : t.c.ms = s.c.ms
  accs : t.c.accs = s.c.accs
  others : ∀ k, k ≠ s.cur → t.core k = s.core k

/-- An aligned access of `n` bytes that lies in the executing core's own scratchpad, and meets no earlier access of the activation that is still
pending (spec/06_memory.md R114, R116, spec/07_views.md R166). -/
structure State.OwnAt (s : State) (a : XWord) (n : Nat) (writes : Bool) : Prop where
  aligned : a.toNat % n = 0
  inside : a.toNat + n ≤ s.c.spsize
  apart : ∀ q ∈ s.c.pendingSpans s.cur, (plainSpan s.cur a n writes).ordered q = false

/-- The own-scratchpad line of an address is full and lies in sound storage (spec/06_memory.md R125, spec/15_system.md R353). -/
structure State.LineReady (s : State) (a : XWord) : Prop where
  full : s.c.lineFull a.toNat = true
  sound : s.ecc.contains (lineOf (placePad s.cur a.toNat)) = false

/-- Nothing for a release to wait for (spec/06_memory.md R131): the L1 holds no dirty byte, no reply is outstanding, and all posted operations but those
of copies are acknowledged. -/
structure Core.Released (c : Core) : Prop where
  clean : c.l1Dirty = false
  replies : c.out = []
  posted : ∀ p ∈ c.posted, p.copy ≠ none

/-- Nothing for a release of core scope to wait for (spec/06_memory.md R131, spec/16_model.md R373): no reply and no posted operation that has its place
in the own scratchpad is outstanding. -/
structure State.CoreReleased (s : State) : Prop where
  replies : ∀ a ∈ s.c.out, a.atOwn s.cur = false
  posted : ∀ p ∈ s.c.posted, p.copy ≠ none ∨ ownPad s.cur p.line = false

/-- A packet stands served at its end and is accepted there at once (spec/17_network.md R396, R403, R405, R407): it is no retransmission, has one
destination, which is of this node, belongs to no hole, and, of an in-order stream, is the one that stream expects, with nothing held behind it. -/
structure State.Arrives (s : State) (pid : Nat) (p : Packet) : Prop where
  packet : s.packet pid = some p
  whole : p.again = false
  atEnd : s.atEnd p = true
  single : p.legs = []
  noHole : (s.ep p.dst).holeOf p = none
  here : p.transit = false
  turn : p.inorder = true →
    p.seq = ((s.ep p.dst).stream p.src true).expect ∧ ((s.ep p.dst).stream p.src true).held = [] ∧ ((s.ep p.dst).stream p.src true).done = []

/-- A job's error queue is not full. -/
def State.ErrRoom (s : State) (job : Nat) : Prop := (s.job job).errs.length < 2 ^ (s.job job).errLog

/-- The slot of a job's error ring that its next record takes. -/
def State.errSlot (s : State) (job : Nat) : Nat := errPlace job ((s.job job).errTotal % 2 ^ (s.job job).errLog)

/-- The record `e` has been appended to a job's error queue: it stands in the queue's ring in device memory, and no other byte has changed
(spec/18_frontend.md R439). -/
structure State.Recorded (s t : State) (job : Nat) (e : ErrRec) : Prop where
  queue : (t.job job).errs = (s.job job).errs ++ [e]
  ring : t.load (s.errSlot job) 32 = e.word.toNat
  others : ∀ p, p < s.errSlot job ∨ s.errSlot job + 32 ≤ p → t.byte p = s.byte p

/-! Messages. -/

/-- `n` bytes of the own scratchpad at an address that is a multiple of 8: all in lines that are full and sound, none in a pending access of the
activation (spec/09_messages.md R199, R202). -/
structure State.PadReady (s : State) (a n : Nat) : Prop where
  aligned : a % 8 = 0
  inside : a + n ≤ s.c.spsize
  full : ∀ o, a ≤ o → o < a + n → s.c.lineFull o = true
  sound : ∀ o, a ≤ o → o < a + n → s.ecc.contains (lineOf (placePad s.cur o)) = false
  apart : ∀ q ∈ s.c.pendingSpans s.cur, (plainSpan s.cur (BitVec.ofNat 64 a) n false).ordered q = false

/-- A message of `len` bytes can be sent at once to a class and handler: the class is addressable, its domain names a place and it has the handler, the
key of class 0 has a translation, nothing is left for the release, the retain buffer has room, and no earlier message to the actor waits there to be
sent again (spec/09_messages.md R202, R203, R223, spec/10_actors.md R228). -/
structure State.CanSend (s : State) (cls : BitVec 12) (sel : BitVec 6) (key : XWord) (len : Nat) : Prop where
  reachable : s.reachable s.c.jobNum cls = true
  handler : s.handler cls sel ≠ none
  first : ∀ m : Msg, m.cls = cls → m.key = key → s.resendAhead s.cur m = false
  key : cls ≠ 0 ∨ ∃ pa home, s.addr0 s.cur key = .ok pa home
  released : s.c.Released
  room : s.retainRoom s.cur (retainBytes len) = true

end Sys2Proof.Machine
end

