-- ==== Sys2Proof/Certificates/Slice0/Obligations.lean ====
section
/-! DEFINITION. The statements for the provers. Each says which rules of spec/ it formalises; what rests on a choice of the model names the row of the
assumption log. -/

open Sys2Proof Sys2Proof.Machine

/-! Words. -/

/-- The worked encodings of the spec decode to the instructions they stand for. -/
def Obligations.WorkedEncodingsDecode : Prop :=
  let r (n : BitVec 5) : Src := ⟨n, false⟩
  decode 0x00730281 = some (.add 5 (r 6) (r 7)) ∧ decode 0x7CB50481 = some (.div 9 (r 10) ⟨11, true⟩)
  ∧ decode 0x90028282 = some (.addi 5 (r 5) (-896)) ∧ decode 0x80636282 = some (.srai 5 (r 6) 3)
  ∧ decode 0xB96AAA0B = some (.csel 20 (r 21) (r 22) (r 23)) ∧ decode 0xF8049F06 = some (.bne (r 9) (r 0) (-2))
  ∧ decode 0xF8628E86 = some (.beq (r 5) (r 6) (-3)) ∧ decode 0x00000807 = some (.j 16) ∧ decode 0x000F8009 = some (.jr (r 31))
  ∧ decode 0x003D1283 = some (.liu 5 977) ∧ decode 0x0073128A = some (.fadd .d 5 (r 6) (r 7))
  ∧ decode 0x4073128B = some (.fmaD 5 (r 6) (r 7) (r 8)) ∧ decode 0x5803328A = some (.fcvtZ64 .d true 5 (r 6))
  ∧ decode 0x02032284 = some (.ld .ws 5 (r 6) 16) ∧ decode 0x30437284 = some (.ldOrdered .d false 4 5 (r 6))
  ∧ decode 0xA008F804 = some (.ldp .w false 0 16 (r 17)) ∧ decode 0x0103328E = some (.rld .d 5 (r 6) 8)
  ∧ decode 0x00732105 = some (.st .w (r 7) (r 6) 2) ∧ decode 0x38737005 = some (.stOrdered .d 7 (r 7) (r 6))
  ∧ decode 0x28B5048C = some (.amoAdd 2 true 9 (r 10) (r 11)) ∧ decode 0xE8C5748C = some (.amoCasD 14 9 (r 10) (r 12))
  ∧ decode 0x0000100D = some (.fence 1) ∧ decode 0x0803000D = some (.lmarkE (r 6)) ∧ decode 0x2003028D = some (.ltest 5 (r 6))
  ∧ decode 0x38B5000D = some (.iinv (r 10) (r 11)) ∧ decode 0x20B50018 = some (.tlbi (r 10) (r 11))
  ∧ decode 0x08028233 = some (.cvt .f8a .f32 .sr false 4 5 0) ∧ decode 0x000022D3 = some (.mma .f8af8b false false true 1 2 0 ⟨0, false⟩)
  ∧ decode 0 = none

/-- Every well-formed instruction that a word can hold is read back from the word the encoder writes for it, with every operand. -/
def Obligations.EncodeThenDecode : Prop :=
  ∀ i : Instr, i.wf = true → i.isWord = true → decode (encode i) = some i

/-- Whatever word is decoded, the instruction is well-formed and one that a word can hold; the bits of the word that the encoder does not write
are those the decoder ignores. -/
def Obligations.DecodedIsWellFormed : Prop :=
  ∀ (w : Word) (i : Instr), decode w = some i → i.wf = true ∧ i.isWord = true ∧ decode (encode i) = some i

/-- R44, R59, R61: whatever its other bits hold, a word whose major is 0x70 to 0x7F is the no-operation, and one whose major defines no
instruction is none. R59: a no-operation completes, writing nothing. -/
def Obligations.NoOperationsAndEmptyMajors : Prop :=
  (∀ w : Word, let major := w.toNat % 128
    (112 ≤ major → decode w = some .nop)
    ∧ (major ∈ [0x00, 0x1B, 0x1C, 0x1D, 0x1E, 0x1F, 0x2C, 0x2D, 0x2E, 0x2F, 0x3F, 0x47, 0x48, 0x49, 0x4A, 0x4B, 0x4C, 0x4D, 0x4E, 0x4F]
        ∨ (0x5F ≤ major ∧ major ≤ 0x6F) → decode w = none))
  ∧ (∀ s : State, Completes .nop s s)

/-! The step. -/

/-- Where the next move is a core's and the word at its PC decodes, the step is that instruction's execution on that core, and then time passes;
where it decodes to nothing, it is the illegal-instruction trap of the word. The first instruction of an activation makes its ENTRY record
before it, unless it waits (R449). The word at PC is the little-endian word of the instruction store's block, except at the entry of class 0
for an activation of that class (notes/assumptions/18.md). R146: a fetch hits where one of the cluster's sixteen tags is valid for the
core's job and names the block of PC; it brings the little-endian word at PC's place in that block. -/
def Obligations.StepRunsDecoded : Prop :=
  (∀ (s : State) (k : Nat) (rest : List Move) (w : Word), isCore k = true → s.schedule = .core k :: rest → s.CanRun k w →
    let r : State := { s with schedule := rest }
    let first := (s.core k).entering
    let runs (i : Instr) : Prop :=
      (first = false → step s = passTime (exec i (r.ready4 k w)))
      ∧ (first = true → ∀ t, exec i ((r.entered k).ready4 k w) = .next t →
          step s = passTime (if (s.core k).waited (t.core k) then exec i (r.ready4 k w) else .next t))
    (∀ i, decode w = some i → runs i) ∧ (decode w = none → runs (.illegalInstruction w))
    ∧ (first = true → (r.entered k).mem = s.mem ∧ (r.entered k).core k = { s.core k with entering := false, count := ((r.entered k).core k).count })
    ∧ (r.ready4 k w).cur = k ∧ ((r.ready4 k w).core k).ir = w ∧ (r.ready4 k w).mem = s.mem)
  ∧ (∀ (s : State) (k i : Nat), i < 16 →
    let c := s.core k
    let g := coreCluster k
    (c.pc = class0Entry → c.inClass0 = false) →
    tagOf (s.blockTag g i) c.jobNum = true → tagBlock (s.blockTag g i) = c.pc.toNat / 4096 →
    (∀ j, j < i → ¬ (tagOf (s.blockTag g j) c.jobNum = true ∧ tagBlock (s.blockTag g j) = c.pc.toNat / 4096)) →
    let p := fetchPlace g i c.pc
    s.fetchWord k = some (s.byte (p + 3) ++ s.byte (p + 2) ++ s.byte (p + 1) ++ s.byte p))

/-- Memory right after reset is in canonical form. -/
def Obligations.ResetMemoryCanonical : Prop :=
  State.reset.MemOk

/-- Every step from a state whose memory is in canonical form, reached by a run or not, leaves it in canonical form. -/
def Obligations.StepKeepsMemoryCanonical : Prop :=
  ∀ s t : State, s.MemOk → step s = .next t → t.MemOk

/-- Two memories in canonical form that read alike are the same list. R3: a value stored in `n` bytes is loaded again modulo 2^(8n), its least
significant byte at the lowest address. -/
def Obligations.CanonicalMemoryAndByteOrder : Prop :=
  (∀ m n : Memory, Memory.wf m = true → Memory.wf n = true → (∀ p, Memory.read m p = Memory.read n p) → m = n)
  ∧ (∀ (s : State) (p n v : Nat), s.MemOk →
    (s.store p n v).load p n = v % 2 ^ (8 * n)
    ∧ (∀ i, i < n → (s.store p n v).byte (p + i) = BitVec.ofNat 8 (v / 2 ^ (8 * i)))
    ∧ ∀ q, q < p ∨ p + n ≤ q → (s.store p n v).byte q = s.byte q)

/-! Integer instructions, branches, operands. -/

/-- R71: each integer register instruction completes with the value of its row and writes nothing else. -/
def Obligations.IntegerOperationResults : Prop :=
  ∀ (rd : BitVec 5) (sa sb : Src) (s : State),
    let a := s.c.x sa.n
    let b := s.c.x sb.n
    let d := s.c.x rd
    let writes (i : Instr) (v : XWord) : Prop := Completes i s (s.modC fun c => c.setX rd v)
    let p := b.toNat % 64
    let w := min (b.toNat / 256 % 128) (64 - p)
    (s.Ready (src2 sa sb) rd →
      writes (.add rd sa sb) (a + b) ∧ writes (.sub rd sa sb) (a - b) ∧ writes (.and rd sa sb) (a &&& b) ∧ writes (.or rd sa sb) (a ||| b)
      ∧ writes (.xor rd sa sb) (a ^^^ b) ∧ writes (.andn rd sa sb) (a &&& ~~~b)
      ∧ writes (.sll rd sa sb) (BitVec.ofNat 64 (a.toNat * 2 ^ p)) ∧ writes (.srl rd sa sb) (BitVec.ofNat 64 (a.toNat / 2 ^ p))
      ∧ writes (.sra rd sa sb) (BitVec.ofInt 64 (a.toInt / (2 ^ p : Nat))) ∧ writes (.rol rd sa sb) ((a <<< p) ||| (a >>> (64 - p)))
      ∧ writes (.slt rd sa sb) (if a.toInt < b.toInt then 1 else 0) ∧ writes (.sltz rd sa sb) (if a.toNat < b.toNat then 1 else 0)
      ∧ writes (.mul rd sa sb) (BitVec.ofNat 64 (a.toNat * b.toNat))
      ∧ writes (.mulh rd sa sb) ((a.signExtend 128 * b.signExtend 128).extractLsb' 64 64)
      ∧ writes (.mulhz rd sa sb) ((a.zeroExtend 128 * b.zeroExtend 128).extractLsb' 64 64)
      ∧ (b ≠ 0 → ¬ (a = 2 ^ 63 ∧ b = -1) →
          writes (.div rd sa sb) (BitVec.ofInt 64 (a.toInt.tdiv b.toInt)) ∧ writes (.rem rd sa sb) (BitVec.ofInt 64 (a.toInt.tmod b.toInt)))
      ∧ (b ≠ 0 → a = 2 ^ 63 ∧ b = -1 → writes (.div rd sa sb) (2 ^ 63 - 1) ∧ writes (.rem rd sa sb) 0)
      ∧ (b = 0 → writes (.div rd sa sb) (if a = 0 then 0 else if 0 < a.toInt then 2 ^ 63 - 1 else 2 ^ 63) ∧ writes (.rem rd sa sb) 0)
      ∧ (b ≠ 0 → writes (.divz rd sa sb) (BitVec.ofNat 64 (a.toNat / b.toNat)) ∧ writes (.remz rd sa sb) (BitVec.ofNat 64 (a.toNat % b.toNat)))
      ∧ (b = 0 → writes (.divz rd sa sb) (if a = 0 then 0 else -1) ∧ writes (.remz rd sa sb) 0)
      ∧ writes (.min rd sa sb) (if a.toInt ≤ b.toInt then a else b) ∧ writes (.max rd sa sb) (if a.toInt ≤ b.toInt then b else a)
      ∧ writes (.minz rd sa sb) (if a.toNat ≤ b.toNat then a else b) ∧ writes (.maxz rd sa sb) (if a.toNat ≤ b.toNat then b else a)
      ∧ writes (.ext rd sa sb) (BitVec.ofNat 64 (a.toNat / 2 ^ p % 2 ^ w)))
    ∧ (s.Ready (src1 sa) rd →
      writes (.clz rd sa) (if a = 0 then 64 else BitVec.ofNat 64 (63 - a.toNat.log2))
      ∧ (∃ n : Nat, writes (.ctz rd sa) (BitVec.ofNat 64 n) ∧ n ≤ 64 ∧ (a = 0 → n = 64) ∧ (a ≠ 0 → a.getLsbD n = true)
          ∧ ∀ j, j < n → a.getLsbD j = false)
      ∧ writes (.popc rd sa) (BitVec.ofNat 64 ((List.range 64).countP fun j => a.getLsbD j)))
    ∧ (s.Ready (src2 sa sb ++ [plainSrc rd 3]) rd →
      ∃ v : XWord, writes (.ins rd sa sb) v ∧
        ∀ j, j < 64 → v.getLsbD j = if p ≤ j ∧ j < p + w then a.getLsbD (j - p) else d.getLsbD j)

/-- R73, R74: each integer immediate instruction completes with the value of its line. R75, R76: `liu` and `addpc` read no register; `csel`
reads three and writes the first or the second by the third. -/
def Obligations.ImmediateAndSelectResults : Prop :=
  (∀ (rd : BitVec 5) (sa : Src) (imm : BitVec 11) (sh : BitVec 6) (s : State), s.Ready (src1 sa) rd →
    let a := s.c.x sa.n
    let i : XWord := imm.signExtend 64
    let writes (i : Instr) (v : XWord) : Prop := Completes i s (s.modC fun c => c.setX rd v)
    writes (.addi rd sa imm) (a + i) ∧ writes (.andi rd sa imm) (a &&& i) ∧ writes (.ori rd sa imm) (a ||| i) ∧ writes (.xori rd sa imm) (a ^^^ i)
    ∧ writes (.slti rd sa imm) (if a.toInt < imm.toInt then 1 else 0) ∧ writes (.sltzi rd sa imm) (if a.toNat < i.toNat then 1 else 0)
    ∧ writes (.slli rd sa sh) (BitVec.ofNat 64 (a.toNat * 2 ^ sh.toNat)) ∧ writes (.srli rd sa sh) (BitVec.ofNat 64 (a.toNat / 2 ^ sh.toNat))
    ∧ writes (.srai rd sa sh) (BitVec.ofInt 64 (a.toInt / (2 ^ sh.toNat : Nat))))
  ∧ (∀ (rd : BitVec 5) (imm : BitVec 20) (sa sb sc : Src) (s : State),
    let writes (i : Instr) (v : XWord) : Prop := Completes i s (s.modC fun c => c.setX rd v)
    (s.c.DestReady rd → s.c.LogRoom →
      writes (.liu rd imm) (BitVec.ofInt 64 (imm.toInt * 2048))
      ∧ writes (.addpc rd imm) (BitVec.ofInt 64 ((s.c.pc.toNat : Int) + imm.toInt * 2048)))
    ∧ (s.Ready (src3 sa sb sc) rd → writes (.csel rd sa sb sc) (if s.c.x sc.n ≠ 0 then s.c.x sa.n else s.c.x sb.n)))

/-- R77, R79, R80: a branch whose condition holds and a jump set PC to their target; a branch whose condition does not hold moves past its word;
none of them writes a register. That `jr` takes the low 32 bits of its register is the model's choice (notes/assumptions/23.md). -/
def Obligations.BranchAndJumpTargets : Prop :=
  ∀ (sa sb : Src) (disp : BitVec 10) (imm : BitVec 25) (s : State), s.c.LogRoom →
    let a := s.c.x sa.n
    let b := s.c.x sb.n
    let goes (i : Instr) (pc : BitVec 32) : Prop := CompletesAt i s s pc
    let target := s.c.pc + BitVec.ofInt 32 (disp.toInt * 4)
    let on := s.c.pc + 4
    (s.c.SrcsReady (src2 sa sb) →
      goes (.beq sa sb disp) (if a = b then target else on) ∧ goes (.bne sa sb disp) (if a = b then on else target)
      ∧ goes (.blt sa sb disp) (if a.toInt < b.toInt then target else on) ∧ goes (.bge sa sb disp) (if a.toInt < b.toInt then on else target)
      ∧ goes (.bltz sa sb disp) (if a.toNat < b.toNat then target else on) ∧ goes (.bgez sa sb disp) (if a.toNat < b.toNat then on else target))
    ∧ goes (.j imm) (s.c.pc + BitVec.ofInt 32 (imm.toInt * 4))
    ∧ (s.c.SrcsReady (src1 sa) → a.toNat % 4 = 0 → goes (.jr sa) (a.setWidth 32))
    ∧ (s.c.SrcsReady (src1 sa) → a.toNat % 4 ≠ 0 → Traps (.jr sa) s 4 a)

/-- R67, R68, R69: an instruction that names its scalar sources by fields with an E bit looks at them first. The first empty one, in the order
sa, sb, sc, that a field with E = 1 names raises the empty-operand trap, with its number and its field in TVAL, whatever the others hold;
where there is none it waits, changing nothing, while a source is empty. An integer or floating-point instruction also waits while its
destination is empty. -/
def Obligations.EmptyOperandsWaitOrTrap : Prop :=
  ∀ (rd : BitVec 5) (sa sb sc : Src) (imm : BitVec 11) (disp : BitVec 10) (sh : BitVec 6) (p : Prec) (cond : FCond) (from_ : FSrc) (rtz zx : Bool) (z : Size) (lz : LdSize)
    (ord q n : BitVec 4) (win d : BitVec 2) (fl : BitVec 3) (ce : BitVec 5) (s : State),
    let one : List Instr := [.addi rd sa imm, .andi rd sa imm, .ori rd sa imm, .xori rd sa imm, .slti rd sa imm, .sltzi rd sa imm, .slli rd sa sh, .srli rd sa sh,
      .srai rd sa sh, .clz rd sa, .ctz rd sa, .popc rd sa, .fsqrt p rd sa, .fclass p rd sa, .fcvtToFp p from_ rd sa, .fcvtS64 p rtz rd sa, .fcvtZ64 p rtz rd sa]
    let two : List Instr := [.add rd sa sb, .sub rd sa sb, .and rd sa sb, .or rd sa sb, .xor rd sa sb, .andn rd sa sb, .sll rd sa sb, .srl rd sa sb, .sra rd sa sb,
      .rol rd sa sb, .slt rd sa sb, .sltz rd sa sb, .mul rd sa sb, .mulh rd sa sb, .mulhz rd sa sb, .div rd sa sb, .divz rd sa sb, .rem rd sa sb, .remz rd sa sb,
      .min rd sa sb, .max rd sa sb, .minz rd sa sb, .maxz rd sa sb, .ins rd sa sb, .ext rd sa sb, .fadd p rd sa sb, .fsub p rd sa sb, .fmul p rd sa sb, .fdiv p rd sa sb,
      .fmin p rd sa sb, .fmax p rd sa sb, .fcmp p cond rd sa sb]
    let three : List Instr := [.csel rd sa sb sc, .fmaS rd sa sb sc, .fmaD rd sa sb sc]
    let one' : List Instr := [.jr sa, .callr sa, .ld lz rd sa imm, .ldOrdered z zx ord rd sa, .ldp z zx win rd sa, .lmarkE sa, .lmarkF sa, .lwaitf sa, .ltest rd sa,
      .rld lz rd sa imm, .csrw 1 sa, .csrs 1 sa, .csrc 1 sa, .vwFmt q sa, .cpw ce sa, .cpcancel sa, .tagWany rd sa, .tagWall sa, .tagFfr rd sa, .tagClr sa, .tagTest rd sa,
      .msgSendv fl sa q, .msgFwd sa, .jcArrive sa, .depDec sa, .depRead rd sa, .barWait sa n, .floorWait sa, .stampSet sa, .trap sa, .allotSet sa n, .matRing sa]
    let two' : List Instr := [.beq sa sb disp, .bne sa sb disp, .blt sa sb disp, .bge sa sb disp, .bltz sa sb disp, .bgez sa sb disp, .st z sb sa disp, .stOrdered z ord sb sa,
      .amoAdd ord zx rd sa sb, .amoAnd ord zx rd sa sb, .amoOr ord zx rd sa sb, .amoXor ord zx rd sa sb, .amoMin ord zx rd sa sb, .amoMax ord zx rd sa sb,
      .amoSwap ord zx rd sa sb, .amoFaddW ord rd sa sb, .l1Inv sa sb, .l1Wb sa sb, .iinv sa sb, .vwSet q sa sb, .vwDim q d sa sb, .cpgo rd sa sb, .msgSend fl sa sb,
      .msgMcast fl sa sb, .msgReply fl sa sb, .msgAt fl sa sb, .actRetire sa sb, .actPin sa sb, .actUnpin sa sb, .actMove sa sb, .actProbe rd sa sb, .fork sa sb, .jcInit sa sb,
      .depInit sa sb, .matSlot sa sb]
    let isEmpty (r : Src) : Prop := (s.c.reg r.n.toNat).full = false
    let stops (l : List Src) (r : Src) : Prop := isEmpty r ∧ ∃ x ∈ l, x.n = r.n ∧ x.e = true
    let traps (i : Instr) (r : Src) (field : Nat) : Prop := Traps i s 3 (BitVec.ofNat 64 (field * 256 + r.n.toNat))
    (∀ i ∈ one ++ one', isEmpty sa → (sa.e = true → traps i sa 0) ∧ (sa.e = false → Waits i s))
    ∧ (∀ i ∈ two ++ two', (stops [sa, sb] sa → traps i sa 0) ∧ (¬ stops [sa, sb] sa → stops [sa, sb] sb → traps i sb 1)
        ∧ (¬ stops [sa, sb] sa → ¬ stops [sa, sb] sb → isEmpty sa ∨ isEmpty sb → Waits i s))
    ∧ (∀ i ∈ three, let l := [sa, sb, sc]
        (stops l sa → traps i sa 0) ∧ (¬ stops l sa → stops l sb → traps i sb 1) ∧ (¬ stops l sa → ¬ stops l sb → stops l sc → traps i sc 2)
        ∧ (¬ stops l sa → ¬ stops l sb → ¬ stops l sc → isEmpty sa ∨ isEmpty sb ∨ isEmpty sc → Waits i s))
    ∧ (¬ s.c.DestReady rd → (s.c.SrcsReady (src1 sa) → ∀ i ∈ one, Waits i s) ∧ (s.c.SrcsReady (src2 sa sb) → ∀ i ∈ two, Waits i s)
        ∧ (s.c.SrcsReady (src3 sa sb sc) → ∀ i ∈ three, Waits i s))

/-! Calls, traps and returns. -/

/-- R91, R94, R95: a call makes the caller's outs the callee's ins, with the link in x15, and the callee's locals and outs zero and full. That
`callr`, as `ret`, takes the low 32 bits of its register is the model's choice (notes/assumptions/23.md). R91, R95, R113: a return goes to
the address in x15 and to the caller's frame, whose outs are the callee's ins; in frame 0 it is the stack fault with TVAL 1, whatever x15
holds. -/
def Obligations.CallAndReturnFrames : Prop :=
  (∀ (imm : BitVec 25) (sa : Src) (s : State), s.c.ctx.depth < 65535 → 0 < s.c.freeSlots → s.c.DestReady 31 → s.c.LogRoom →
    let enters (i : Instr) (pc : BitVec 32) : Prop :=
      ∃ t, exec i s = .next t ∧ t.c.pc = pc ∧ t.c.ctx.instret = s.c.ctx.instret + 1
        ∧ NewFrame (s.c.setX 31 (s.c.pc.setWidth 64 + 4)) t.c ∧ (∀ p, t.byte p = s.byte p) ∧ ∀ k, k ≠ s.cur → t.core k = s.core k
    enters (.call imm) (s.c.pc + BitVec.ofInt 32 (imm.toInt * 4))
    ∧ (s.c.SrcsReady (src1 sa) → (s.c.x sa.n).toNat % 4 = 0 → enters (.callr sa) ((s.c.x sa.n).setWidth 32)))
  ∧ (∀ (s : State),
    (0 < s.c.ctx.depth → s.c.SrcsReady [plainSrc 15 0] → (s.c.x 15).toNat % 4 = 0 → (∀ n, 16 ≤ n → n < 32 → (s.c.reg n).full = true) →
      s.c.ctx.spilled < s.c.ctx.depth → s.c.LogRoom →
      ∃ t, exec .ret s = .next t ∧ t.c.pc = (s.c.x 15).setWidth 32 ∧ t.c.ctx.instret = s.c.ctx.instret + 1 ∧ OldFrame s.c t.c
        ∧ (∀ p, t.byte p = s.byte p) ∧ ∀ k, k ≠ s.cur → t.core k = s.core k)
    ∧ (s.c.ctx.depth = 0 → Traps .ret s 11 1))

/-- R355: a precise trap that the handler takes at once saves the address, the cause and the value, sets STATUS, enters a new frame whose ins
are the interrupted outs, and goes on at TVEC. -/
def Obligations.TrapEntrySavesAndEnters : Prop :=
  ∀ (s : State) (cause : Nat) (tval : XWord), s.HandlerReady → Entered s (s.takeTrap s.cur cause tval) cause tval

/-- R61, R354, R357: `trap`, `ebreak` and a word that is no instruction enter the handler with causes 18, 16 and 1. -/
def Obligations.SystemTrapsEnterHandler : Prop :=
  ∀ (sa : Src) (w : Word) (s : State), s.HandlerReady →
    (s.c.SrcsReady (src1 sa) → Enters (.trap sa) s 18 (s.c.x sa.n))
    ∧ (s.jobHeld s.cur = false → Enters .ebreak s 16 0)
    ∧ Enters (.illegalInstruction w) s 1 (w.setWidth 64)

/-- R356: `eret` out of a handler's own frame goes to EPC and to the interrupted frame, and clears INTRAP alone; outside a handler, or out of
another frame, it is the stack fault with TVAL 2; an EPC that is no code address is the misaligned trap; with DECLINE set the fault that
CAUSE, TVAL and EPC hold is contained instead. That it does not wait for a frame that is not resident is the model's choice
(notes/assumptions/128.md). R358, R359: a trap inside a handler, or with TVEC off, does not enter the handler: the fault is contained at the
instruction's address. R359 to R363: containment goes up from the activation's own level. Policy 0 appends a record of KIND 11 and begins a
forced done; 1, while RETRY is below 3, begins one without a record, to be redelivered; 2 kills the level's unit: the activation, with a
record of KIND 12 and its actor's curd discarded, the parent task's subtree, or the job; 3, and a retry used up, go on up. A task's levels
are its class, its parents while they exist, the job; the owner level kills the job and tells the owner. A forced done with nothing left to
wait for ends the activation; under retry the message, or the task, returns with RETRY one more, a candidate 1,024 ticks after the fault,
doubled with each retry. That a parent TID of 0 names no task is the model's choice (notes/assumptions/124.md), and so is the place of a
record (notes/assumptions/105.md). -/
def Obligations.TrapReturnAndContainment : Prop :=
  (∀ (s : State),
    let own := s.c.ctx.status.intrap = true ∧ s.c.ctx.depth = s.c.ctx.status.tdepth.toNat + 1
    (own → s.c.ctx.status.decline = false → s.c.ctx.epc.toNat % 4 = 0 → (∀ n, 16 ≤ n → n < 32 → (s.c.reg n).full = true) → s.c.LogRoom →
      ∃ t, exec .eret s = .next t ∧ t.c.pc = s.c.ctx.epc ∧ OldFrame s.c t.c
        ∧ t.c.ctx.status = { s.c.ctx.status with intrap := false } ∧ t.c.ctx.epc = s.c.ctx.epc ∧ t.c.ctx.cause = s.c.ctx.cause
        ∧ t.c.ctx.tval = s.c.ctx.tval ∧ t.c.ctx.instret = s.c.ctx.instret + 1 ∧ (∀ p, t.byte p = s.byte p) ∧ ∀ k, k ≠ s.cur → t.core k = s.core k)
    ∧ (¬ own → Traps .eret s 11 2)
    ∧ (own → s.c.ctx.status.decline = true → exec .eret s = .next (s.contain s.cur s.c.ctx.cause.toNat s.c.ctx.tval s.c.ctx.epc))
    ∧ (own → s.c.ctx.status.decline = false → s.c.ctx.epc.toNat % 4 ≠ 0 → Traps .eret s 4 (s.c.ctx.epc.setWidth 64)))
  ∧ (∀ (s : State) (cause : Nat) (tval : XWord), s.c.vq = [] → s.c.timers = [] → (s.c.ctx.status.intrap = true ∨ s.c.ctx.tvecEn = false) →
    s.takeTrap s.cur cause tval = (s.modC fun c => { c with trapWait := none }).contain s.cur cause tval s.c.pc)
  ∧ (∀ (cause : Nat) (tval : XWord) (addr : BitVec 32) (a : Act) (f : Finish) (s : State), s.MemOk → s.c.act = some a → cause < 256 →
    let k := s.cur
    let t := s.contain k cause tval addr
    let retry := s.c.ctx.status.retry.toNat
    let up (p : BitVec 2) : Prop := p = 3 ∨ (p = 1 ∧ 3 ≤ retry)
    let recorded (kind : Nat) : Prop := s.ErrRoom a.job → ∃ e, s.Recorded t a.job e ∧ e.kind.toNat = kind ∧ e.cause.toNat = cause ∧ e.addr = addr.setWidth 64
      ∧ e.src = BitVec.ofNat 16 k ∧ e.cls.toNat = a.cls.toNat ∧ e.incarn.toNat = a.incarn.toNat
    let begun (again : Bool) : Prop := t.c.act = some a ∧ t.c.finish = some ⟨addr, cause, again, s.dtime⟩
    let ignored : Prop := begun false ∧ recorded 11
    let retried : Prop := begun true ∧ t.jobs = s.jobs ∧ s.BytesSame t
    let jobKilled : Prop := ∀ j, (∀ b, (t.core j).act = some b → b.job ≠ a.job) ∧ (∀ y ∈ (t.core j).deque, y.job ≠ a.job) ∧ ∀ y ∈ (t.core j).inbox, y.msg.job ≠ a.job
    let owns : Prop := ∀ q ∈ s.queues, q.2.job.toNat ≠ a.job
    let told : Prop := 4 ≤ s.bar0.notifyLog.toNat → s.bar0.notifyLog.toNat ≤ 12 → (s.bar0.notifyTail - s.bar0.notifyHead).toNat ≠ 2 ^ s.bar0.notifyLog.toNat →
      t.bar0.notifyTail = s.bar0.notifyTail + 1
    let atJob : Prop :=
      let p := (s.job a.job).pol
      (p = 0 → ignored) ∧ (p = 1 → retry < 3 → retried) ∧ (p = 2 → jobKilled ∧ (owns → t.bar0 = s.bar0)) ∧ (up p → jobKilled ∧ (owns → told))
    (a.desc.pol = 0 → ignored) ∧ (a.desc.pol = 1 → retry < 3 → retried)
    ∧ (a.desc.pol = 2 → a.kind ≠ .init → t.c.act = none ∧ t.c.xs = [] ∧ t.c.vs = [] ∧ t.c.accs = [] ∧ t.c.vq = [] ∧ t.c.out = [] ∧ recorded 12
        ∧ (∀ x ∈ t.c.copies, x.act = a.uid → x.st = .cancelling) ∧ (∀ m ∈ t.c.mq, m.act ≠ a.uid)
        ∧ (∀ e, a.kind = .actor → (s.cluster a.home).entryOf a.cls a.key = some e → s.entry a.home e.id = some e →
            ∃ e', (t.cluster a.home).entryOf a.cls a.key = some e' ∧ e'.id = e.id ∧ e'.st = .retiring ∧ e'.pend = 0))
    ∧ (up a.desc.pol → (a.kind ≠ .task ∨ a.task.parent = 0 ∨ (s.liveTasks a.job).find? (fun y => decide (y.tid = a.task.parent)) = none) → atJob)
    ∧ (∀ x, up a.desc.pol → a.kind = .task → a.task.parent ≠ 0 → (s.liveTasks a.job).find? (fun y => decide (y.tid = a.task.parent)) = some x →
        let p := (s.cls a.task.parentCls).pol
        (p = 0 → ignored) ∧ (p = 1 → retry < 3 → retried) ∧ (up p → x.parent = 0 → atJob)
        ∧ (p = 2 → ∃ set : List XWord, a.task.parent ∈ set ∧ (∀ y ∈ s.liveTasks a.job, y.parent ∈ set → y.tid ∈ set)
            ∧ (∀ z ∈ set, z = a.task.parent ∨ ∃ y ∈ s.liveTasks a.job, y.tid = z ∧ y.parent ∈ set)
            ∧ ∀ j, (t.core j).deque = (s.core j).deque.filter (fun y => !(decide (y.job = a.job) && set.contains y.tid))
                ∧ ∀ b, (t.core j).act = some b → b.kind = .task → b.task.tid ∉ set))
    /- The end of a forced done. -/
    ∧ (s.gated = false → s.c.held = none → s.c.finish = some f → s.c.out = [] → (∀ x ∈ s.c.copies, x.act = a.uid → x.plain = true → x.detached = true) →
        (∀ m ∈ s.c.mq, m.act ≠ a.uid) → s.c.events = [] → s.c.accEcc = [] → (∀ q, q < 16 → (s.c.view q).live = false) →
        ∃ u, s.coreMove k = .next u ∧ (u.core k).act = none ∧ (u.core k).xs = []
          ∧ (f.retry = false → s.BytesSame u ∧ u.redel = s.redel ∧ (u.core k).deque = s.c.deque)
          ∧ (a.kind ≠ .task → (f.retry = false ∨ a.kind = .actor) → ∃ p ∈ u.net, p.src = k ∧ p.dst = epHome a.home ∧ p.body = .done a.cls a.key a.eid)
          ∧ (f.retry = true → a.kind = .task → (u.core k).deque = s.c.deque ++ [{ a.task with retry := a.retry + 1, readyAt := f.at_ + 1024 * 2 ^ a.retry }])
          ∧ (f.retry = true → a.kind = .actor → ∃ r, u.redel = s.redel ++ [r] ∧ r.due = f.at_ + 1024 * 2 ^ a.retry ∧ r.g = a.home ∧ r.cls = a.cls ∧ r.key = a.key
              ∧ r.msg = { a.msg with retry := a.retry + 1 })))

/-! Scalar floating point. -/

/-- R81, R83 to R88: each floating-point instruction completes, writing its result and joining its flags to the activation's NFLAGS; `fclass`
raises none. The values are those of the statements below: of finite operands the exact result rounded once, of the others the special
cases. -/
def Obligations.ScalarFpCompletes : Prop :=
  ∀ (p : Prec) (rd : BitVec 5) (sa sb sc : Src) (cond : FCond) (src : FSrc) (rtz : Bool) (s : State),
    let a := s.c.x sa.n
    let b := s.c.x sb.n
    let c := s.c.x sc.n
    let gives (i : Instr) (r : XWord × BitVec 5) : Prop :=
      ∃ t, exec i s = .next t ∧ t.c.pc = s.c.pc + 4 ∧ t.c.ctx.instret = s.c.ctx.instret + 1 ∧ t.c.ctx.flags = s.c.ctx.flags ||| r.2
        ∧ (∀ key, t.c.regAt key = (s.c.setX rd r.1).regAt key) ∧ t.c.ctx.satcnt = s.c.ctx.satcnt ∧ t.c.ctx.status = s.c.ctx.status
        ∧ (∀ q, t.byte q = s.byte q) ∧ ∀ k, k ≠ s.cur → t.core k = s.core k
    (s.Ready (src2 sa sb) rd →
      gives (.fadd p rd sa sb) (faddFn p a b) ∧ gives (.fsub p rd sa sb) (fsubFn p a b) ∧ gives (.fmul p rd sa sb) (fmulFn p a b)
      ∧ gives (.fdiv p rd sa sb) (fdivFn p a b) ∧ gives (.fmin p rd sa sb) (fminmaxFn false p a b) ∧ gives (.fmax p rd sa sb) (fminmaxFn true p a b)
      ∧ gives (.fcmp p cond rd sa sb) (fcmpFn p cond a b))
    ∧ (s.Ready (src1 sa) rd →
      gives (.fsqrt p rd sa) (fsqrtFn p a) ∧ gives (.fclass p rd sa) (fclassFn p a, 0) ∧ gives (.fcvtToFp p src rd sa) (fcvtToFpFn p src a)
      ∧ gives (.fcvtS64 p rtz rd sa) (fcvtToIntFn true p rtz a) ∧ gives (.fcvtZ64 p rtz rd sa) (fcvtToIntFn false p rtz a))
    ∧ (s.Ready (src3 sa sb sc) rd → gives (.fmaS rd sa sb sc) (fmaFn .s a b c) ∧ gives (.fmaD rd sa sb sc) (fmaFn .d a b c))

/-- R82: with a NaN among the operands, an arithmetic result is the canonical quiet NaN of its precision, and NV is raised exactly where an
operand is signaling; `fmin` and `fmax` give the other operand of one NaN. A .s source is read from bits 31 to 0. R83: the invalid cases
give the canonical NaN and NV alone, and a finite value that is not zero over a zero gives the infinity of their signs and DZ alone; stated
for binary64. -/
def Obligations.NanAndInvalidResults : Prop :=
  (
  let isNan (p : Prec) (x : XWord) : Bool :=
    match p with
    | .s => x.toNat / 2 ^ 23 % 256 = 255 && x.toNat % 2 ^ 23 ≠ 0
    | .d => x.toNat / 2 ^ 52 % 2048 = 2047 && x.toNat % 2 ^ 52 ≠ 0
  let isSig (p : Prec) (x : XWord) : Bool := isNan p x && !x.getLsbD (match p with | .s => 22 | .d => 51)
  let canon (p : Prec) : XWord := match p with | .s => 0x7FC00000 | .d => 0x7FF8000000000000
  let value (p : Prec) (x : XWord) : XWord := match p with | .s => x &&& 0xFFFFFFFF | .d => x
  ∀ (p : Prec) (a b c : XWord),
    (isNan p a ∨ isNan p b →
      (∀ r ∈ [faddFn p a b, fsubFn p a b, fmulFn p a b, fdivFn p a b], r.1 = canon p ∧ (r.2 = if isSig p a ∨ isSig p b then 1 else 0)))
    ∧ (isNan p a → (fsqrtFn p a).1 = canon p ∧ (fsqrtFn p a).2 = if isSig p a then 1 else 0)
    ∧ (isNan p a ∨ isNan p b ∨ isNan p c → (fmaFn p a b c).1 = canon p)
    ∧ (∀ mx : Bool,
        (isNan p a → isNan p b → (fminmaxFn mx p a b).1 = canon p)
        ∧ (isNan p a → ¬ isNan p b → (fminmaxFn mx p a b).1 = value p b) ∧ (¬ isNan p a → isNan p b → (fminmaxFn mx p a b).1 = value p a)
        ∧ (isNan p a ∨ isNan p b → (fminmaxFn mx p a b).2 = if isSig p a ∨ isSig p b then 1 else 0)))
  ∧ (
  let infp : XWord := 0x7FF0000000000000
  let infm : XWord := 0xFFF0000000000000
  let zero (x : XWord) : Prop := x = 0 ∨ x = 0x8000000000000000
  let inf (x : XWord) : Prop := x = infp ∨ x = infm
  let nv (r : XWord × BitVec 5) : Prop := r = (0x7FF8000000000000, 1)
  ∀ a b c : XWord,
    nv (faddFn .d infp infm) ∧ nv (faddFn .d infm infp) ∧ nv (fsubFn .d infp infp) ∧ nv (fsubFn .d infm infm)
    ∧ (zero a → inf b → nv (fmulFn .d a b) ∧ nv (fmulFn .d b a) ∧ nv (fmaFn .d a b c) ∧ nv (fmaFn .d b a c))
    ∧ (zero a → zero b → nv (fdivFn .d a b)) ∧ (inf a → inf b → nv (fdivFn .d a b))
    ∧ (zero b → ¬ zero a → a.toNat / 2 ^ 52 % 2048 ≠ 2047 →
        fdivFn .d a b = (if a.getLsbD 63 = b.getLsbD 63 then infp else infm, 2))
    ∧ (a.getLsbD 63 = true → ¬ zero a → a.toNat ≤ infm.toNat → nv (fsqrtFn .d a)) ∧ (zero a → fsqrtFn .d a = (a, 0)))

/-- R82, R280: rounding to nearest even of `m · 2^e` to a multiple of `2^q` leaves at most half a unit, an even number of units where exactly
half, and is inexact exactly where the value is no multiple; where digits beyond the kept ones are marked, an exact half counts as above it.
R82 to R84, R87, R88: where the exact result of finite operands is a number, `fadd`, `fsub`, `fmul`, `fdiv`, `fsqrt`, `fma` and `fcvt` to a
floating-point type give the nearest value of the format, the one with an even fraction of two as near, and infinity with OF and NX from
half a unit above the largest on; NX says that the result differs from the exact one, UF that it does and that rounding with an unbounded
exponent leaves it below the normals; a zero has the sign IEEE 754 gives it. `fcvt` to an integer rounds first and then limits. Magnitudes
are counted in units of the smallest subnormal of the format. -/
def Obligations.RoundingToNearestEven : Prop :=
  (∀ (m : Nat) (e q : Int) (up : Bool),
    let r := roundUnit m e q up .rne
    (q ≤ e → r = (m * 2 ^ (e - q).toNat, up))
    ∧ (e < q → let u := 2 ^ (q - e).toNat
        (r.2 = false ↔ up = false ∧ u ∣ m) ∧ 2 * (r.1 * u) ≤ 2 * m + u + (if up then 1 else 0) ∧ 2 * m ≤ 2 * (r.1 * u) + u
        ∧ (up = true → 2 * m < 2 * (r.1 * u) + u) ∧ (up = false → (2 * m = 2 * (r.1 * u) + u ∨ 2 * (r.1 * u) = 2 * m + u) → r.1 % 2 = 0)))
  ∧ (
  let mb (p : Prec) : Nat := match p with | .s => 23 | .d => 52
  let eb (p : Prec) : Nat := match p with | .s => 8 | .d => 11
  let scale (p : Prec) : Nat := match p with | .s => 149 | .d => 1074
  let ex (p : Prec) (x : XWord) : Nat := x.toNat / 2 ^ mb p % 2 ^ eb p
  let fr (p : Prec) (x : XWord) : Nat := x.toNat % 2 ^ mb p
  let neg (p : Prec) (x : XWord) : Bool := x.getLsbD (mb p + eb p)
  let fin (p : Prec) (x : XWord) : Prop := ex p x < 2 ^ eb p - 1
  let mag (p : Prec) (x : XWord) : Nat := if ex p x = 0 then fr p x else (2 ^ mb p + fr p x) * 2 ^ (ex p x - 1)
  let int (p : Prec) (x : XWord) : Int := if neg p x then -(mag p x : Int) else mag p x
  let inf (p : Prec) (n : Bool) : XWord := BitVec.ofNat 64 ((if n then 2 ^ (mb p + eb p) else 0) + (2 ^ eb p - 1) * 2 ^ mb p)
  /- Four times the exact magnitude is at most `z`, or at least `z`; its sign is `n`. -/
  let rounds (p : Prec) (n : Bool) (le ge : Nat → Prop) (r : XWord × BitVec 5) : Prop :=
    let greatest := (2 ^ (mb p + 1) - 1) * 2 ^ (2 ^ eb p - 3)
    let m := mag p r.1
    let exact := le (4 * m) ∧ ge (4 * m)
    (ge (2 * (greatest + 2 ^ (mb p + 1) * 2 ^ (2 ^ eb p - 3))) → r = (inf p n, 0x14))
    ∧ (¬ ge (2 * (greatest + 2 ^ (mb p + 1) * 2 ^ (2 ^ eb p - 3))) →
        fin p r.1 ∧ neg p r.1 = n ∧ r.1.toNat < 2 ^ (1 + eb p + mb p)
        ∧ (∀ y, fin p y →
            (m < mag p y → le (2 * (m + mag p y)) ∧ (ge (2 * (m + mag p y)) → fr p r.1 % 2 = 0))
            ∧ (mag p y < m → ge (2 * (m + mag p y)) ∧ (le (2 * (m + mag p y)) → fr p r.1 % 2 = 0)))
        ∧ (exact → r.2 = 0) ∧ (¬ exact → ge (2 ^ (mb p + 2) - 1) → r.2 = 0x10) ∧ (¬ exact → ¬ ge (2 ^ (mb p + 2) - 1) → r.2 = 0x18))
  /- The exact magnitude is `num / den`. -/
  let nearest (p : Prec) (n : Bool) (num den : Nat) (r : XWord × BitVec 5) : Prop := rounds p n (fun z => 4 * num ≤ z * den) (fun z => z * den ≤ 4 * num) r
  /- The exact value is `i` units, over `den`; a zero has the sign `z`. -/
  let sum (p : Prec) (i : Int) (den : Nat) (z : Bool) (r : XWord × BitVec 5) : Prop := nearest p (if i = 0 then z else decide (i < 0)) i.natAbs den r
  let isNan (p : Prec) (x : XWord) : Prop := ex p x = 2 ^ eb p - 1 ∧ fr p x ≠ 0
  let isInf (p : Prec) (x : XWord) : Prop := ex p x = 2 ^ eb p - 1 ∧ fr p x = 0
  (∀ (p : Prec) (a b c : XWord), fin p a → fin p b → fin p c →
    let xor := neg p a ^^ neg p b
    sum p (int p a + int p b) 1 (neg p a && neg p b) (faddFn p a b)
    ∧ sum p (int p a - int p b) 1 (neg p a && !neg p b) (fsubFn p a b)
    ∧ nearest p xor (mag p a * mag p b) (2 ^ scale p) (fmulFn p a b)
    ∧ (mag p b ≠ 0 → nearest p xor (mag p a * 2 ^ scale p) (mag p b) (fdivFn p a b))
    ∧ sum p (int p a * int p b + int p c * 2 ^ scale p) (2 ^ scale p) (xor && neg p c) (fmaFn p a b c)
    ∧ (neg p a = false → rounds p false (fun z => 16 * (mag p a * 2 ^ scale p) ≤ z * z) (fun z => z * z ≤ 16 * (mag p a * 2 ^ scale p)) (fsqrtFn p a)))
  ∧ (∀ a : XWord,
      (fin .d a → nearest .s (neg .d a) (mag .d a) (2 ^ 925) (fcvtToFpFn .s .other a))
      ∧ (fin .s a → nearest .d (neg .s a) (mag .s a * 2 ^ 925) 1 (fcvtToFpFn .d .other a))
      ∧ (∀ p, sum p (a.toInt * 2 ^ scale p) 1 false (fcvtToFpFn p .s64 a) ∧ sum p ((a.toNat : Int) * 2 ^ scale p) 1 false (fcvtToFpFn p .z64 a))
      ∧ (isInf .d a → fcvtToFpFn .s .other a = (inf .s (neg .d a), 0)) ∧ (isInf .s a → fcvtToFpFn .d .other a = (inf .d (neg .s a), 0))
      ∧ (isNan .d a → fcvtToFpFn .s .other a = (0x7FC00000, if fr .d a < 2 ^ 51 then 1 else 0))
      ∧ (isNan .s a → fcvtToFpFn .d .other a = (0x7FF8000000000000, if fr .s a < 2 ^ 22 then 1 else 0)))
  ∧ ∀ (signed rtz : Bool) (p : Prec) (a : XWord),
      let lo : Int := if signed then -(2 ^ 63) else 0
      let hi : Int := if signed then 2 ^ 63 - 1 else 2 ^ 64 - 1
      let den := 2 ^ scale p
      (fin p a → ∃ n : Nat,
        (rtz = true → n = mag p a / den)
        ∧ (rtz = false → 2 * mag p a ≤ (2 * n + 1) * den ∧ 2 * n * den ≤ 2 * mag p a + den
            ∧ ((2 * mag p a = (2 * n + 1) * den ∨ 2 * n * den = 2 * mag p a + den) → n % 2 = 0))
        ∧ (let i : Int := if neg p a then -(n : Int) else n
           fcvtToIntFn signed p rtz a =
             if i < lo then (BitVec.ofInt 64 lo, 1) else if hi < i then (BitVec.ofInt 64 hi, 1)
             else (BitVec.ofInt 64 i, if n * den = mag p a then 0 else 0x10)))
      ∧ (isNan p a → fcvtToIntFn signed p rtz a = (0, 1))
      ∧ (isInf p a → fcvtToIntFn signed p rtz a = (BitVec.ofInt 64 (if neg p a then lo else hi), 1)))

/-- R85, R86: comparison of binary64 values by their bits, and the class word of every binary64 pattern. -/
def Obligations.ComparisonAndClassOfDoubles : Prop :=
  ∀ a b : XWord,
    let ex (x : XWord) : Nat := x.toNat / 2 ^ 52 % 2048
    let fr (x : XWord) : Nat := x.toNat % 2 ^ 52
    let nan (x : XWord) : Prop := ex x = 2047 ∧ fr x ≠ 0
    let sig (x : XWord) : Prop := nan x ∧ fr x < 2 ^ 51
    /- The order of the values: sign and magnitude as an integer. -/
    let key (x : XWord) : Int := if x.getLsbD 63 then -((x.toNat % 2 ^ 63 : Nat) : Int) else x.toNat % 2 ^ 63
    let cls (x : XWord) (kind : Nat) (e : Int) : Prop :=
      fclassFn .d x = BitVec.ofNat 64 ((BitVec.ofInt 16 e).toNat * 2 ^ 32 + (if x.getLsbD 63 then 16 else 0) + kind)
    (¬ nan a → ¬ nan b →
      fcmpFn .d .eq a b = (if key a = key b then 1 else 0, 0) ∧ fcmpFn .d .lt a b = (if key a < key b then 1 else 0, 0)
      ∧ fcmpFn .d .le a b = (if key a ≤ key b then 1 else 0, 0) ∧ fcmpFn .d .un a b = (0, 0))
    ∧ (nan a ∨ nan b →
      fcmpFn .d .lt a b = (0, 1) ∧ fcmpFn .d .le a b = (0, 1) ∧ fcmpFn .d .eq a b = (0, if sig a ∨ sig b then 1 else 0)
      ∧ fcmpFn .d .un a b = (1, if sig a ∨ sig b then 1 else 0))
    ∧ (nan a → cls a (if sig a then 5 else 4) 0) ∧ (ex a = 2047 → fr a = 0 → cls a 3 0)
    ∧ (ex a = 0 → fr a = 0 → cls a 0 0) ∧ (ex a = 0 → fr a ≠ 0 → cls a 1 ((Nat.log2 (fr a) : Int) - 1074))
    ∧ (0 < ex a → ex a < 2047 → cls a 2 ((ex a : Int) - 1023))

/-! Memory instructions. -/

/-- R128, R131, R132: a load from the own scratchpad writes the little-endian bytes of its address, extended by its suffix, and nothing else, an
acquiring one once the release at core scope is done (what that release waits for is the model's choice, notes/assumptions/56.md); a
parameter-window read gives the payload's bytes, zero and WRANGE outside the window, or the window-range trap where the class asks for it.
R133: an `rld` that nothing near serves completes at once with its destination empty and one more access outstanding, and a read request for
its line goes to the place that serves it; a seventeenth waits. -/
def Obligations.LoadsAndRemoteLoads : Prop :=
  (∀ (sz : LdSize) (z : Size) (zx : Bool) (ord : BitVec 4) (rd : BitVec 5) (sa : Src) (imm : BitVec 11) (s : State), s.Ready (src1 sa) rd →
    let value (n : Nat) (sext : Bool) (v : Nat) : XWord := if sext then BitVec.ofInt 64 ((BitVec.ofNat (8 * n) v).toInt) else BitVec.ofNat 64 v
    let loads (i : Instr) (a : XWord) (n : Nat) (sext : Bool) : Prop :=
      s.OwnAt a n false → s.LineReady a →
        ∃ t, exec i s = .next t ∧ RegWritten s t rd (value n sext (s.load (placePad s.cur a.toNat) n)) ∧ s.BytesSame t
    loads (.ld sz rd sa imm) (s.c.x sa.n + imm.signExtend 64) (ldBytes sz) (ldSext sz)
    ∧ (s.CoreReleased → loads (.ldOrdered z zx ord rd sa) (s.c.x sa.n) (sizeBytes z) (!zx))
    ∧ (ordOf ord ≠ .acq → loads (.ldOrdered z zx ord rd sa) (s.c.x sa.n) (sizeBytes z) (!zx))
    ∧ (ordOf ord = .acq → ¬ s.CoreReleased → s.OwnAt (s.c.x sa.n) (sizeBytes z) false → Waits (.ldOrdered z zx ord rd sa) s)
    ∧ ∀ a, s.c.act = some a → a.kind = .actor → (s.c.x sa.n).toNat % sizeBytes z = 0 →
        let o := (s.c.x sa.n).toNat
        (o + sizeBytes z ≤ a.msg.len →
          ∃ t, exec (.ldp z zx 0 rd sa) s = .next t
            ∧ RegWritten s t rd (value (sizeBytes z) (!zx) (leNat ((a.msg.payload.drop o).take (sizeBytes z)))) ∧ s.BytesSame t)
        ∧ (a.msg.len < o + sizeBytes z → a.desc.wrt = true → Traps (.ldp z zx 0 rd sa) s 14 (BitVec.ofNat 64 (min o 0xFFFFFFFF)))
        ∧ (a.msg.len < o + sizeBytes z → a.desc.wrt = false →
            Completes (.ldp z zx 0 rd sa) s (s.modC fun c => (c.modStatus fun t => { t with wrange := true }).setX rd 0))
        /- The class constants and the job parameter block, of windows of 256 bytes. -/
        ∧ ∀ win : BitVec 2, win = 1 ∨ win = 2 →
            let b := (if win = 1 then a.desc.constb.toNat else (s.job a.job).jpar.toNat) + o
            let bound := if win = 1 then a.desc.constlen.toNat else (s.job a.job).jparlen
            (o + sizeBytes z ≤ bound → ∀ v, s.fleizRead a.job b (sizeBytes z) = some v →
              ∃ t, exec (.ldp z zx win rd sa) s = .next t ∧ RegWritten s t rd (value (sizeBytes z) (!zx) v) ∧ s.BytesSame t)
            ∧ (bound < o + sizeBytes z → a.desc.wrt = true →
                Traps (.ldp z zx win rd sa) s 14 (BitVec.ofNat 64 (2 ^ 32 * win.toNat + min o 0xFFFFFFFF)))
            ∧ (bound < o + sizeBytes z → a.desc.wrt = false →
                Completes (.ldp z zx win rd sa) s (s.modC fun c => (c.modStatus fun t => { t with wrange := true }).setX rd 0)))
  ∧ (∀ (sz : LdSize) (rd : BitVec 5) (sa : Src) (imm : BitVec 11) (tgt : Nat) (s : State), s.Ready (src1 sa) rd → rd ≠ 0 →
    let a := s.c.x sa.n + imm.signExtend 64
    let n := ldBytes sz
    let o := a.toNat - 2 ^ 32 - tgt * 2 ^ 20
    isCore tgt = true → 2 ^ 32 + tgt * 2 ^ 20 ≤ a.toNat → o < 0x60000 → a.toNat % n = 0 → (s.job s.c.jobNum).cset.getLsbD (coreCluster tgt) = true →
    (∀ q ∈ s.c.pendingSpans s.cur, (plainSpan s.cur a n false).ordered q = false) → s.c.l1Find (lineOf (placePad tgt o)) = none →
    s.c.backing (lineOf (placePad tgt o)) = false →
    (16 ≤ s.c.out.length → Waits (.rld sz rd sa imm) s)
    ∧ (s.c.out.length < 16 →
      ∃ t acc, exec (.rld sz rd sa imm) s = .next t ∧ t.c.pc = s.c.pc + 4 ∧ t.c.ctx.instret = s.c.ctx.instret + 1
        ∧ (t.c.reg rd.toNat).full = false ∧ (∀ key, key ≠ s.c.key rd.toNat → t.c.regAt key = s.c.regAt key) ∧ t.c.out = s.c.out ++ [acc]
        ∧ acc.st = .pending ∧ acc.va = a ∧ acc.pc = s.c.pc ∧ acc.parts = [{ line := lineOf (placePad tgt o), ep := tgt }] ∧ s.BytesSame t
        ∧ ∃ p ∈ t.net, p.src = s.cur ∧ p.dst = tgt
            ∧ p.body = .read { core := s.cur, copy := false, owner := acc.id, part := 0, line := lineOf (placePad tgt o), job := s.c.jobNum }))

/-- R130: a store to the own scratchpad writes the low bytes of its register at its address, the least significant lowest; every other byte,
every register and all else stay. A releasing store does so once nothing is left for its release to wait for. R139: a store to another
scratchpad through its aperture posts one operation, which travels in order to the core there with the bytes of its mask, and completes; a
vector store posts one operation for each line that it touches; with 32 unacknowledged, write-backs and writes of copies apart, either
waits. -/
def Obligations.StoresWriteOnlyTheirBytes : Prop :=
  (∀ (z : Size) (ord : BitVec 4) (sa sb : Src) (imm : BitVec 10) (s : State), s.MemOk → s.c.SrcsReady (src2 sa sb) → s.c.out = [] →
    let stores (i : Instr) (a : XWord) (n : Nat) : Prop :=
      s.OwnAt a n true →
        ∃ t, exec i s = .next t ∧ Completed (({ s with mem := t.mem } : State).unlogSaved s.cur (a.toNat / 128)) t (s.c.pc + 4) ∧ t.MemOk
          ∧ ∀ q, t.byte q =
              let p := placePad s.cur a.toNat
              if p ≤ q ∧ q < p + n then BitVec.ofNat 8 ((s.c.x sb.n).toNat / 2 ^ (8 * (q - p))) else s.byte q
    stores (.st z sb sa imm) (s.c.x sa.n + imm.signExtend 64 * BitVec.ofNat 64 (sizeBytes z)) (sizeBytes z)
    ∧ (s.c.Released → stores (.stOrdered z ord sb sa) (s.c.x sa.n) (sizeBytes z)))
  ∧ (∀ (z : Size) (ord : BitVec 4) (sa sb : Src) (imm : BitVec 10) (ty : VType) (vd xa : BitVec 5) (m : BitVec 3) (tgt : Nat) (s : State), s.c.out = [] → isCore tgt = true →
    (s.job s.c.jobNum).cset.getLsbD (coreCluster tgt) = true →
    let window := 2 ^ 32 + tgt * 2 ^ 20
    let counted := (s.c.posted.filter fun p => decide (p.kind ≠ 3) && p.copy.isNone).length
    let line (a : Nat) : Nat := lineOf (placePad tgt (a - window))
    let left (t : State) (xs : List Posted) : Prop :=
      t.c.pc = s.c.pc + 4 ∧ t.c.ctx.instret = s.c.ctx.instret + 1 ∧ t.c.xs = s.c.xs ∧ t.c.vs = s.c.vs ∧ s.BytesSame t ∧ t.c.posted = s.c.posted ++ xs
        ∧ (∀ x ∈ xs, x.kind = 0 ∧ x.core = s.cur ∧ x.ep = tgt ∧ x.act = s.c.uid)
        ∧ (∃ ps, t.net = s.net ++ ps ∧ ps.map (fun p => p.body) = xs.map Body.posted ∧ ∀ p ∈ ps, p.src = s.cur ∧ p.dst = tgt ∧ p.cls = 2 ∧ p.inorder = true)
        ∧ ∀ k, k ≠ s.cur → t.core k = s.core k
    let posts (i : Instr) (a : XWord) : Prop :=
      let n := sizeBytes z
      let o := a.toNat - window
      window ≤ a.toNat → o < 0x60000 → a.toNat % n = 0 → (∀ q ∈ s.c.pendingSpans s.cur, (plainSpan s.cur a n true).ordered q = false) → s.c.backing (line a.toNat) = false →
        (32 ≤ counted → Waits i s)
        ∧ (counted < 32 → s.retainRoom s.cur (retainBytes n) = true →
            ∃ t x, exec i s = .next t ∧ left t [x] ∧ x.va = a ∧ x.line = line a.toNat ∧ (∀ b, b < 128 → (x.mask.getLsbD b = true ↔ o % 128 ≤ b ∧ b < o % 128 + n))
              ∧ x.data.extractLsb' (8 * (o % 128)) (8 * n) = (s.c.x sb.n).setWidth (8 * n))
    (s.c.SrcsReady (src2 sa sb) →
      posts (.st z sb sa imm) (s.c.x sa.n + imm.signExtend 64 * BitVec.ofNat 64 (sizeBytes z))
      ∧ (s.c.Released → posts (.stOrdered z ord sb sa) (s.c.x sa.n)))
    ∧ (let n := ty.bits / 8
       let L := 1024 / ty.bits
       let a := s.c.x xa
       let at_ (l : Nat) : Nat := (a + BitVec.ofNat 64 (n * l)).toNat
       let on (l : Nat) : Prop := l < L ∧ (s.c.mask m).getLsbD l = true
       s.c.SrcsReady [plainSrc xa 0] → vd.toNat < s.c.ctx.allotV → (s.c.v vd.toNat).full = true → s.c.Sound (vecSlot vd.toNat) → s.c.storing = [] → a.toNat % n = 0 →
       (∃ l, on l) → (∀ l, on l → window ≤ at_ l ∧ at_ l + n ≤ window + 0x60000 ∧ s.c.backing (line (at_ l)) = false) →
       (∀ q ∈ s.c.pendingSpans s.cur, (laneSpan s.cur ty.bits a (activeLanes L (s.c.mask m)) true).ordered q = false) →
        (32 ≤ counted → Waits (.vst ty vd xa m) s)
        ∧ (counted + 2 ≤ 32 → s.retainRoom s.cur (2 * retainBytes 128) = true →
            ∃ t xs, exec (.vst ty vd xa m) s = .next t ∧ left t xs ∧ (xs.map (fun x => x.line)).Nodup ∧ (∀ l, on l → ∃ x ∈ xs, x.line = line (at_ l))
              ∧ ∀ x ∈ xs, ∀ b, b < 128 → (x.mask.getLsbD b = true ↔ ∃ l, on l ∧ x.line = line (at_ l) ∧ (at_ l - window) % 128 ≤ b ∧ b < (at_ l - window) % 128 + n))))

/-- R142, R143: an atomic on the own scratchpad writes the old value to its destination and its new value to its bytes as one step; every other
byte and register stays. R131, R142, R143: an atomic through another core's aperture sends one request there with its operands, and its
destination is empty until the reply; one that acquires waits at R for it, any other completes. -/
def Obligations.AtomicsExchangeValues : Prop :=
  (∀ (ord : BitVec 4) (dbl : Bool) (rd : BitVec 5) (sa sb : Src) (s : State), s.MemOk → s.c.out = [] → s.c.Released → s.c.DestReady rd →
    let a := s.c.x sa.n
    let b := s.c.x sb.n
    let swaps (i : Instr) (dbl zext : Bool) (f : Nat → Nat) (flags : BitVec 5) : Prop :=
      let n := if dbl then 8 else 4
      s.OwnAt a n true → s.LineReady a →
        let p := placePad s.cur a.toNat
        let old := s.load p n
        ∃ t, exec i s = .next t ∧ t.c.pc = s.c.pc + 4 ∧ t.c.ctx.instret = s.c.ctx.instret + 1 ∧ t.MemOk
          ∧ (∀ key, t.c.regAt key = (s.c.setX rd (if zext then BitVec.ofNat 64 old else BitVec.ofInt 64 ((BitVec.ofNat (8 * n) old).toInt))).regAt key)
          ∧ t.c.vs = s.c.vs ∧ t.c.ms = s.c.ms ∧ t.c.ctx.flags = s.c.ctx.flags ||| flags ∧ t.c.ctx.status = s.c.ctx.status
          ∧ t.load p n = f old % 2 ^ (8 * n) ∧ (∀ q, q < p ∨ p + n ≤ q → t.byte q = s.byte q) ∧ ∀ k, k ≠ s.cur → t.core k = s.core k
    let old (dbl : Bool) : Nat := s.load (placePad s.cur a.toNat) (if dbl then 8 else 4)
    let sx (dbl : Bool) (v : Nat) : Int := if dbl then (BitVec.ofNat 64 v).toInt else (BitVec.ofNat 32 v).toInt
    (s.c.SrcsReady (src2 sa sb) →
      swaps (.amoAdd ord dbl rd sa sb) dbl false (fun o => o + b.toNat) 0 ∧ swaps (.amoAnd ord dbl rd sa sb) dbl false (fun o => o &&& b.toNat) 0
      ∧ swaps (.amoOr ord dbl rd sa sb) dbl false (fun o => o ||| b.toNat) 0 ∧ swaps (.amoXor ord dbl rd sa sb) dbl false (fun o => o ^^^ b.toNat) 0
      ∧ swaps (.amoMin ord dbl rd sa sb) dbl false (fun o => if sx dbl b.toNat < sx dbl o then b.toNat else o) 0
      ∧ swaps (.amoMax ord dbl rd sa sb) dbl false (fun o => if sx dbl o < sx dbl b.toNat then b.toNat else o) 0
      ∧ swaps (.amoSwap ord dbl rd sa sb) dbl false (fun _ => b.toNat) 0
      ∧ swaps (.amoFaddW ord rd sa sb) false true (fun o => (faddFn .s (BitVec.ofNat 64 o) b).1.toNat) (faddFn .s (BitVec.ofNat 64 (old false)) b).2)
    ∧ (s.c.SrcsReady (src2 sa sb ++ [(⟨sb.n + 1, sb.e⟩, 1)]) →
      swaps (.amoCasD ord rd sa sb) true false (fun o => if o = b.toNat then (s.c.x (sb.n + 1)).toNat else o) 0))
  ∧ (∀ (ord : BitVec 4) (dbl : Bool) (rd : BitVec 5) (sa sb : Src) (tgt : Nat) (s : State), s.c.out = [] → s.c.Released → s.c.DestReady rd → isCore tgt = true →
    (s.job s.c.jobNum).cset.getLsbD (coreCluster tgt) = true →
    let a := s.c.x sa.n
    let b := s.c.x sb.n
    let o := a.toNat - (2 ^ 32 + tgt * 2 ^ 20)
    let asks (i : Instr) (op : AmoOp) (dbl : Bool) (c' : XWord) : Prop :=
      let n := if dbl then 8 else 4
      a.toNat % n = 0 → (∀ q ∈ s.c.pendingSpans s.cur, (plainSpan s.cur a n true).ordered q = false) → s.retainRoom s.cur (retainBytes (if op = .cas then 16 else 8)) = true →
        ∃ t p r acc, exec i s = .next t ∧ t.net = s.net ++ [p] ∧ p.src = s.cur ∧ p.dst = tgt ∧ p.body = .atomic r ∧ r.core = s.cur ∧ r.acc = acc.id ∧ r.op = op ∧ r.dbl = dbl
          ∧ r.addr = placePad tgt o ∧ r.b = b ∧ r.c = c' ∧ t.c.out = [acc] ∧ acc.st = .pending ∧ acc.va = a ∧ acc.pc = s.c.pc ∧ (rd ≠ 0 → (t.c.reg rd.toNat).full = false)
          ∧ (∀ key, key ≠ s.c.destKey rd → t.c.regAt key = s.c.regAt key) ∧ s.BytesSame t
          ∧ (if (ordOf ord).acquires = true then t.c.blocked = some acc.id ∧ t.c.pc = s.c.pc ∧ t.c.ctx.instret = s.c.ctx.instret
             else t.c.blocked = s.c.blocked ∧ t.c.pc = s.c.pc + 4 ∧ t.c.ctx.instret = s.c.ctx.instret + 1)
          ∧ ∀ k, k ≠ s.cur → t.core k = s.core k
    2 ^ 32 + tgt * 2 ^ 20 ≤ a.toNat → o < 0x60000 → s.c.l1Find (lineOf (placePad tgt o)) = none → s.c.backing (lineOf (placePad tgt o)) = false →
      (s.c.SrcsReady (src2 sa sb) →
        asks (.amoAdd ord dbl rd sa sb) .add dbl 0 ∧ asks (.amoAnd ord dbl rd sa sb) .and dbl 0 ∧ asks (.amoOr ord dbl rd sa sb) .or dbl 0
        ∧ asks (.amoXor ord dbl rd sa sb) .xor dbl 0 ∧ asks (.amoMin ord dbl rd sa sb) .min dbl 0 ∧ asks (.amoMax ord dbl rd sa sb) .max dbl 0
        ∧ asks (.amoSwap ord dbl rd sa sb) .swap dbl 0 ∧ asks (.amoFaddW ord rd sa sb) .fadd false 0)
      ∧ (s.c.SrcsReady (src2 sa sb ++ [(⟨sb.n + 1, sb.e⟩, 1)]) → asks (.amoCasD ord rd sa sb) .cas true (s.c.x (sb.n + 1))))

/-- R126: a mark changes the full/empty state of its own-scratchpad line alone; `lwaitf` completes once the line is full and waits before;
`ltest` writes whether it is. A translated address is the local range fault of all four. A mark through another core's aperture is posted to
that core, as an operation with no bytes, and waits while 32 posted operations are unacknowledged (R139). -/
def Obligations.LineMarksWaitsAndTests : Prop :=
  ∀ (rd : BitVec 5) (sa : Src) (tgt : Nat) (s : State), s.c.SrcsReady (src1 sa) → s.c.LogRoom →
    let a := s.c.x sa.n
    let own := a.toNat < s.c.spsize
    let line := a.toNat / 128
    (own → s.c.out = [] →
      (∃ t, exec (.lmarkE sa) s = .next t ∧ Completed (s.modC fun c => { c with empty := t.c.empty }) t (s.c.pc + 4)
        ∧ ∀ l, t.c.lineFull (128 * l) = (decide (l ≠ line) && s.c.lineFull (128 * l)))
      ∧ ∃ t, exec (.lmarkF sa) s = .next t ∧ Completed (s.modC fun c => { c with empty := t.c.empty }) t (s.c.pc + 4)
        ∧ ∀ l, t.c.lineFull (128 * l) = (decide (l = line) || s.c.lineFull (128 * l)))
    ∧ (own → s.c.lineFull a.toNat = true → Completes (.lwaitf sa) s s) ∧ (own → s.c.lineFull a.toNat = false → Waits (.lwaitf sa) s)
    ∧ (own → s.c.DestReady rd →
        ∃ t, exec (.ltest rd sa) s = .next t ∧ RegWritten s t rd (if s.c.lineFull a.toNat then 1 else 0) ∧ s.BytesSame t)
    ∧ (isCore tgt = true → 2 ^ 32 + tgt * 2 ^ 20 ≤ a.toNat → a.toNat < 2 ^ 32 + tgt * 2 ^ 20 + 0x60000 → (s.job s.c.jobNum).cset.getLsbD (coreCluster tgt) = true → s.c.out = [] →
        let counted := (s.c.posted.filter fun p => decide (p.kind ≠ 3) && p.copy.isNone).length
        (32 ≤ counted → Waits (.lmarkE sa) s ∧ Waits (.lmarkF sa) s)
        ∧ (counted < 32 → s.retainRoom s.cur (retainBytes 0) = true → ∀ full : Bool,
            ∃ t p x, exec (if full then .lmarkF sa else .lmarkE sa) s = .next t ∧ t.c.pc = s.c.pc + 4 ∧ t.c.ctx.instret = s.c.ctx.instret + 1 ∧ t.c.empty = s.c.empty
              ∧ t.c.xs = s.c.xs ∧ s.BytesSame t ∧ t.c.posted = s.c.posted ++ [x] ∧ t.net = s.net ++ [p] ∧ p.src = s.cur ∧ p.dst = tgt ∧ p.body = .posted x
              ∧ x.kind = (if full then 2 else 1) ∧ x.mask = 0 ∧ x.va = a ∧ x.line = lineOf (placePad tgt (a.toNat - (2 ^ 32 + tgt * 2 ^ 20)))
              ∧ ∀ k, k ≠ s.cur → t.core k = s.core k))
    ∧ (2 ^ 40 ≤ a.toNat → a.toNat < 2 ^ 48 → ∀ i ∈ [Instr.lmarkE sa, .lmarkF sa, .lwaitf sa, .ltest rd sa], Traps i s 5 a)

/-- R122, R131, R141, R144, R145, R373, R376: a fence of core scope waits for what is under way in the own scratchpad alone, loads that wait for
a line and what goes through the own aperture included (that it waits for these is the model's choice, notes/assumptions/56.md); a wider
one, the cache controls and `rst.sync` complete once nothing is left to write back or to be acknowledged, and `tlbi` completes once its
invalidation is acknowledged; a wider fence leaves no line in the L1, and `l1.inv` none of its range. R148: `iinv` clears the valid bit of
exactly those blocks of the job in its cluster's instruction store that hold a code address of its range, and no other byte changes. -/
def Obligations.FencesSyncsAndInvalidation : Prop :=
  (∀ (scope : BitVec 3) (sa sb : Src) (s : State), s.c.LogRoom →
    (s.c.Released → s.c.drain = false →
      Completes (.fence scope) s (if scope = 0 then s else s.modC fun c => { c with l1 := [] }))
    ∧ (s.CoreReleased → Completes (.fence 0) s s) ∧ (¬ s.CoreReleased → Waits (.fence 0) s)
    ∧ (s.c.SrcsReady (src2 sa sb) → s.c.l1Dirty = false → (∀ p ∈ s.c.posted, p.kind ≠ 3) →
        Completes (.l1Wb sa sb) s s
        ∧ ∃ o, o.map (fun a : Access => { a with stale := false }) = s.c.out.map (fun a => { a with stale := false })
          ∧ Completes (.l1Inv sa sb) s
              (s.modC fun c => { c with out := o, l1 := c.l1.filter fun x => !s.inL1Range (s.c.x sa.n).toNat (s.c.x sb.n).toNat x }))
    ∧ ((∀ p ∈ s.c.posted, p.act = s.c.uid → p.copy ≠ none ∨ p.kind = 3) → Completes .rstSync s s)
    ∧ ((∃ p ∈ s.c.posted, p.act = s.c.uid ∧ p.copy = none ∧ p.kind ≠ 3) → Waits .rstSync s)
    ∧ (∀ id, s.c.tlbi = some id → (∀ v ∈ s.invals, v.id ≠ id) → Completes (.tlbi sa sb) s (s.modC fun c => { c with tlbi := none }))
    ∧ ∀ id, s.c.tlbi = some id → (∃ v ∈ s.invals, v.id = id) → Waits (.tlbi sa sb) s)
  ∧ (∀ (sa sb : Src) (s : State), s.MemOk → s.c.SrcsReady (src2 sa sb) → s.c.LogRoom →
    let g := coreCluster s.cur
    let lo := (s.c.x sa.n).toNat
    let n := (s.c.x sb.n).toNat
    let hit (i : Nat) : Prop :=
      let w := s.blockTag g i
      tagOf w s.c.jobNum = true ∧ ∃ x, lo ≤ x ∧ x < lo + n ∧ x / 4096 = tagBlock w
    ∃ t, exec (.iinv sa sb) s = .next t ∧ Completed { s with mem := t.mem } t (s.c.pc + 4)
      ∧ (∀ i, i < 16 → (hit i → t.blockTag g i = s.blockTag g i % 2 ^ 63) ∧ (¬ hit i → t.blockTag g i = s.blockTag g i))
      ∧ ∀ q, q < tagPlace g 0 ∨ tagPlace g 16 ≤ q → t.byte q = s.byte q)

/-! Registers, allotment, views. -/

/-- R346 to R350: `csrr` writes the register's fields, zero elsewhere; a read of NFLAGS or SATCNT waits until no vector instruction is queued.
The timer registers leave their destination empty, with a timer read under way. R346, R347, R294, R295, R302, R102: writes act on the fields
the register's row marks and on nothing else; a set of NGROUP's bit 9 arms the group's record where it traps NaNs. A vector instruction that
completes joins its flags to NFLAGS and adds its saturations to SATCNT, a write of which does not wait for it; SATCNT is held at 2^64 - 1
once it gets there (R295); every access its row forbids is the illegal-instruction trap, whatever the operand; a SPILLLIM out of its range
is the stack fault and is not written. -/
def Obligations.CsrReadsAndWrites : Prop :=
  (∀ (rd : BitVec 5) (s : State), s.c.DestReady rd → s.c.LogRoom →
    let x := s.c.ctx
    let reads (n : Nat) (v : Nat) : Prop := ∃ t, exec (.csrr rd (BitVec.ofNat 11 n)) s = .next t ∧ RegWritten s t rd (BitVec.ofNat 64 v) ∧ s.BytesSame t
    reads 1 x.cause.toNat ∧ reads 2 x.epc.toNat ∧ reads 3 x.tval.toNat
    ∧ reads 4 ((if x.tvecEn then 2 ^ 63 else 0) + x.tvecAddr.toNat * 4) ∧ reads 0x10 s.cur ∧ reads 0x12 s.c.jobNum
    ∧ reads 0x15 x.stamp.toNat ∧ reads 0x22 s.cycles ∧ reads 0x23 x.instret.toNat ∧ reads 0x30 x.tags.toNat
    ∧ reads 0x40 (x.mirror.toNat * 2 ^ 32 + x.allotV % 64) ∧ reads 0x42 (x.spilled % 2 ^ 16 * 2 ^ 16 + x.depth % 2 ^ 16)
    ∧ reads 0x43 (x.spillBase.toNat * 128) ∧ reads 0x44 (x.spillLim.toNat * 128) ∧ reads 0x11 (256 * meshY s.cur + meshX s.cur)
    ∧ reads 0x41 ((BitVec.ofInt 9 s.c.nwin).toNat * 2 ^ 32 + s.c.carve.sk % 128 * 2 ^ 16 + s.c.carve.lb % 32 * 16 + s.c.carve.rb % 8)
    ∧ reads 0x45 (s.dist s.cur * 2 ^ 32 + s.c.gap.toNat) ∧ (∀ i : Nat, i < 64 → reads (0x100 + i) (Map.get 0 s.c.latacc i).toNat)
    ∧ (∀ a, s.c.act = some a →
        let g := s.group a.desc.ngrp.toNat
        reads 5 ((s.job a.job).errTotal % 2 ^ 32) ∧ reads 0x13 a.cls.toNat ∧ reads 0x14 (if a.kind = .task then 0 else a.incarn.toNat)
        ∧ reads 0x31 (g.fnarm.toNat * 512 + g.fnten.toNat * 256 + a.desc.ngrp.toNat))
    ∧ reads 0 (x.status.tdepth.toNat * 2 ^ 48 + x.status.resumed.toNat * 2 ^ 16 + x.status.retry.toNat * 2 ^ 12 + (s.job s.c.jobNum).prio.toNat * 2 ^ 9
        + x.status.wrange.toNat * 2 ^ 8 + x.status.init.toNat * 16 + x.status.task.toNat * 8 + (s.preqStands s.cur).toNat * 4
        + x.status.decline.toNat * 2 + x.status.intrap.toNat)
    ∧ (s.c.vq = [] → reads 0x33 x.satcnt.toNat ∧ ∀ a, s.c.act = some a → reads 0x32 (x.flags ||| (s.group a.desc.ngrp.toNat).sent).toNat)
    ∧ (s.c.vq ≠ [] → Waits (.csrr rd 0x32) s ∧ Waits (.csrr rd 0x33) s)
    ∧ ∀ n ∈ [0x20, 0x21], rd ≠ 0 → ∃ t, exec (.csrr rd (BitVec.ofNat 11 n)) s = .next t ∧ t.c.pc = s.c.pc + 4
        ∧ (t.c.reg rd.toNat).full = false ∧ t.c.timers = s.c.timers ++ [⟨s.c.key rd.toNat, decide (n = 0x21), x.instret.toNat⟩])
  ∧ (∀ (sa : Src) (s : State),
    let v := s.c.x sa.n
    let w (n : Nat) : Instr := .csrw (BitVec.ofNat 11 n) sa
    let st (n : Nat) : Instr := .csrs (BitVec.ofNat 11 n) sa
    let cl (n : Nat) : Instr := .csrc (BitVec.ofNat 11 n) sa
    let writes (i : Instr) (f : Ctx → Ctx) : Prop := Completes i s (s.modC fun c => { c with ctx := f c.ctx })
    (s.c.SrcsReady (src1 sa) → s.c.LogRoom →
      writes (w 1) (fun x => { x with cause := v.setWidth 8 }) ∧ writes (w 2) (fun x => { x with epc := v.setWidth 32 })
      ∧ writes (w 3) (fun x => { x with tval := v }) ∧ writes (w 4) (fun x => { x with tvecEn := v.getLsbD 63, tvecAddr := v.extractLsb' 2 30 })
      ∧ writes (w 0x33) (fun x => { x with satcnt := v })
      ∧ (∀ a, s.c.act = some a →
          let g := a.desc.ngrp.toNat
          (v.getLsbD 9 = true → (s.group g).fnten = true → s.c.out = [] →
            ∃ t, exec (st 0x31) s = .next t ∧ Completed (s.modGroup g fun r => { r with fnarm := true }) t (s.c.pc + 4)
              ∧ (t.group g).fnarm = true)
          ∧ ((v.getLsbD 9 = false ∨ (s.group g).fnten = false) → Completes (st 0x31) s s))
      ∧ writes (st 0) (fun x => { x with status := { x.status with decline := x.status.decline || v.getLsbD 1 } })
      ∧ writes (cl 0) (fun x => { x with status := { x.status with
          decline := x.status.decline && !v.getLsbD 1, wrange := x.status.wrange && !v.getLsbD 8, resumed := x.status.resumed && !v.getLsbD 16 } })
      ∧ writes (st 1) (fun x => { x with cause := x.cause ||| v.setWidth 8 }) ∧ writes (cl 1) (fun x => { x with cause := x.cause &&& ~~~(v.setWidth 8) })
      ∧ writes (st 2) (fun x => { x with epc := x.epc ||| v.setWidth 32 }) ∧ writes (cl 2) (fun x => { x with epc := x.epc &&& ~~~(v.setWidth 32) })
      ∧ writes (st 4) (fun x => { x with tvecEn := x.tvecEn || v.getLsbD 63, tvecAddr := x.tvecAddr ||| v.extractLsb' 2 30 })
      ∧ writes (cl 4) (fun x => { x with tvecEn := x.tvecEn && !v.getLsbD 63, tvecAddr := x.tvecAddr &&& ~~~(v.extractLsb' 2 30) })
      ∧ writes (st 3) (fun x => { x with tval := x.tval ||| v }) ∧ writes (cl 3) (fun x => { x with tval := x.tval &&& ~~~v })
      ∧ writes (cl 0x30) (fun x => { x with tags := x.tags &&& ~~~v })
      ∧ (s.c.vq = [] → writes (cl 0x32) (fun x => { x with flags := x.flags &&& ~~~(v.setWidth 5) }))
      ∧ (s.c.vq ≠ [] → Waits (cl 0x32) s)
      ∧ (∀ i : Nat, i < 64 → Completes (w (0x100 + i)) s (s.modC fun c => { c with latacc := Map.put c.latacc i v }))
      ∧ (let x := s.c.ctx
         let d := v.extractLsb' 7 12
         ∀ i r, (i, r) ∈ [(w 0x44, d), (st 0x44, x.spillLim ||| d), (cl 0x44, x.spillLim &&& ~~~d)] →
           if x.spillBase.toNat + x.spilled ≤ r.toNat ∧ r.toNat ≤ x.spillTop.toNat then writes i (fun x => { x with spillLim := r })
           else Traps i s 11 (BitVec.ofNat 64 r.toNat)))
    ∧ (∀ (k : Nat) (q : VecCmd) (rest : List VecCmd), (s.core k).vq = q :: rest →
        ∃ t, exec (.vectorCommandComplete k) s = .next t ∧ (t.core k).vq = rest ∧ (t.core k).ctx.flags = (s.core k).ctx.flags ||| q.flags
          ∧ (t.core k).ctx.satcnt.toNat = min ((s.core k).ctx.satcnt.toNat + q.sat) (2 ^ 64 - 1) ∧ (∀ key, (t.core k).regAt key = (s.core k).regAt key)
          ∧ (t.core k).vs = (s.core k).vs ∧ s.BytesSame t ∧ ∀ j, j ≠ k → t.core j = s.core j)
    ∧ (∀ n ∈ [0, 5, 0x10, 0x11, 0x12, 0x13, 0x14, 0x15, 0x20, 0x21, 0x22, 0x23, 0x30, 0x31, 0x32, 0x40, 0x41, 0x42, 0x43, 0x45],
        Traps (w n) s 1 (s.c.ir.setWidth 64))
    ∧ (∀ n ∈ [5, 0x10, 0x11, 0x12, 0x13, 0x14, 0x15, 0x20, 0x21, 0x22, 0x23, 0x30, 0x32, 0x33, 0x40, 0x41, 0x42, 0x43, 0x45, 0x100, 0x13F],
        Traps (st n) s 1 (s.c.ir.setWidth 64))
    ∧ ∀ n ∈ [5, 0x10, 0x11, 0x12, 0x13, 0x14, 0x15, 0x20, 0x21, 0x22, 0x23, 0x31, 0x33, 0x40, 0x41, 0x42, 0x43, 0x45, 0x100, 0x13F],
        Traps (cl n) s 1 (s.c.ir.setWidth 64))

/-- R267, R271, R366: `ppt` restarts the distance to the next pre-emption point and is one where a request stands; `stamp.set` sets STAMP, never
below the entry stamp; `floor.wait` completes once the job's floor lies above its operand, and waits before; one that waits on its own stamp
is the task fault, unless Fleiz's activation makes it (which activations are Fleiz's is the model's choice, notes/assumptions/123.md). R104,
R106 to R112: growing zeroes the registers it adds, shrinking drops their mirror bits once no queued command names one of them, a mirror bit
is set, a carve-out becomes pending for its barrier, and the query reads the pending carve-out or the core's own; a request beyond 32 or
below 0 registers, or a carve-out out of its ranges, is the allotment fault. -/
def Obligations.FloorStampsAndAllotment : Prop :=
  (∀ (sa : Src) (s : State), s.c.LogRoom →
    let v : BitVec 32 := (s.c.x sa.n).setWidth 32
    let j := s.job s.c.jobNum
    let later := v < s.c.ctx.entryStamp ∨ s.byFleiz = true
    Completes .ppt s (s.modC fun c => { c with ctx := { c.ctx with distBase := s.cycles }, preempting := c.preempting || s.preqStands s.cur })
    ∧ (s.c.SrcsReady (src1 sa) →
        (s.c.ctx.entryStamp ≤ v → Completes (.stampSet sa) s (s.modC fun c => { c with ctx := { c.ctx with stamp := v } }))
        ∧ (v < s.c.ctx.entryStamp → Traps (.stampSet sa) s 21 (BitVec.ofNat 64 (4 * 2 ^ 60)))
        ∧ (later → (j.floorEmpty = true ∨ v < j.floorMin) → s.c.l1Dirty = false → s.c.drain = false →
            ∃ o, o.map (fun a : Access => { a with stale := false }) = s.c.out.map (fun a => { a with stale := false })
              ∧ Completes (.floorWait sa) s (s.modC fun c => { c with out := o, l1 := [] }))
        ∧ (later → j.floorEmpty = false → j.floorMin ≤ v → Waits (.floorWait sa) s)
        ∧ (¬ later → Traps (.floorWait sa) s 21 (BitVec.ofNat 64 (5 * 2 ^ 60)))))
  ∧ (∀ (n : BitVec 3) (b : BitVec 4) (vb rd : BitVec 5) (sa : Src) (s : State), s.c.LogRoom →
    let m := 8 * n.toNat
    let v := s.c.ctx.allotV
    let w := s.c.x sa.n
    let g := coreCluster s.cur
    (v + m ≤ 32 → 0 ≤ s.c.freeSlots - m →
      ∃ t, exec (.allotGrow n) s = .next t ∧ t.c.pc = s.c.pc + 4 ∧ t.c.ctx.instret = s.c.ctx.instret + 1 ∧ t.c.ctx.allotV = v + m
        ∧ (∀ r, t.c.v r = if v ≤ r ∧ r < v + m then {} else s.c.v r) ∧ t.c.ctx.mirror = s.c.ctx.mirror ∧ t.c.xs = s.c.xs ∧ s.BytesSame t)
    ∧ (32 < v + m → Traps (.allotGrow n) s 2 (BitVec.ofNat 64 (2 ^ 60 + m)))
    ∧ (m ≤ v → v ≤ 32 → s.c.namesFrom (v - m) = false →
        ∃ mir, Completes (.allotShrink n) s (s.modC fun c => { c with ctx := { c.ctx with allotV := v - m, mirror := mir } })
          ∧ ∀ i, mir.getLsbD i = (s.c.ctx.mirror.getLsbD i && decide (i < v - m)))
    ∧ (m ≤ v → (∃ q ∈ s.c.vq, ∃ r ∈ q.regs, v - m ≤ r.toNat) → Waits (.allotShrink n) s)
    ∧ (v < m → Traps (.allotShrink n) s 2 (BitVec.ofNat 64 (2 ^ 61 + m)))
    ∧ (vb.toNat < v → (s.c.v vb.toNat).full = true → s.c.Sound (vecSlot vb.toNat) → 1 ≤ s.c.freeSlots →
        ∃ mir, Completes (.allotMirror vb) s (s.modC fun c => { c with ctx := { c.ctx with mirror := mir } })
          ∧ ∀ i, mir.getLsbD i = (s.c.ctx.mirror.getLsbD i || decide (i = vb.toNat)))
    ∧ (v ≤ vb.toNat → Traps (.allotMirror vb) s 2 (BitVec.ofNat 64 (vb.toNat + 256)))
    ∧ (s.c.SrcsReady (src1 sa) →
        let f (lo n : Nat) : Nat := w.toNat / 2 ^ lo % 2 ^ n
        if 2 ≤ f 0 3 ∧ f 0 3 ≤ 6 ∧ f 4 5 ≤ 16 ∧ 1 ≤ f 16 7 ∧ f 16 7 ≤ 64 then
          Completes (.allotSet sa b) s (s.modCluster g fun c => { c with pendCarve := some (⟨f 0 3, f 4 5, f 16 7⟩, b.toNat) })
        else Traps (.allotSet sa b) s 2 (3 * 2 ^ 60 + (w &&& 0x7F01F7)))
    ∧ (s.c.DestReady rd →
        let word (c : Carve) : Nat := c.rb + c.lb * 16 + c.sk * 65536
        let q := match (s.cluster g).pendCarve with
          | some (c, b) => word c + 2 ^ 63 + b * 2 ^ 24
          | none => word s.c.carve
        Completes (.allotQuery rd) s (s.modC fun c => c.setX rd (BitVec.ofNat 64 q))))

/-- R97: a spill stores the oldest resident frame's sixteen registers, lowest first, in its image line and frees its slot; a fill reads a frame
back from its image; a fill of what a spill has stored restores the registers. R105: between activations, with nothing pre-empted, an empty
L1, no write-back on its way and no actor on leaving lines, the accepted carve-out becomes the core's, and scratchpad bytes that enter read
zero. -/
def Obligations.SpillFillAndCarveOut : Prop :=
  (∀ (k : Nat) (s : State), s.MemOk →
    let c := s.core k
    let o := c.ctx.spilled
    let place (f : Nat) : Nat := placePad k (128 * (c.ctx.spillBase.toNat + f))
    (c.eng = .spilling → c.out = [] → o < c.ctx.depth → (∀ i, i < 16 → (c.regAt (16 * o + 8 + i)).full = true) →
      ∃ t, exec (.spill k) s = .next t ∧ (t.core k).ctx.spilled = o + 1 ∧ t.MemOk
        ∧ (∀ i, i < 16 → t.load (place o + 8 * i) 8 = (c.regAt (16 * o + 8 + i)).val.toNat)
        ∧ (∀ q, q < place o ∨ place o + 128 ≤ q → t.byte q = s.byte q) ∧ ∀ j, j ≠ k → t.core j = s.core j)
    ∧ (c.eng = .filling → c.out = [] → 0 < o →
      ∃ t, exec (.fill k) s = .next t ∧ (t.core k).ctx.spilled = o - 1 ∧ s.BytesSame t
        ∧ (∀ i, i < 16 → (t.core k).regAt (16 * (o - 1) + 8 + i) = ⟨BitVec.ofNat 64 (s.load (place (o - 1) + 8 * i) 8), true⟩)
        ∧ (∀ key, key < 16 * (o - 1) + 8 ∨ 16 * (o - 1) + 24 ≤ key → (t.core k).regAt key = c.regAt key) ∧ ∀ j, j ≠ k → t.core j = s.core j))
  ∧ (∀ (k : Nat) (v : Carve) (s : State), s.MemOk →
    let c := s.core k
    c.accepted = some v → c.act = none → c.finish = none → c.saving = false → c.saved = [] → c.l1 = [] → (∀ p ∈ c.posted, p.kind ≠ 3) →
    s.curdsBeyond k v.spsize = [] →
    ∃ t, exec (.carveOutApply k) s = .next t ∧ (t.core k).carve = v ∧ (t.core k).accepted = none ∧ t.MemOk
      ∧ (∀ o, c.spsize ≤ o → o < v.spsize → t.byte (placePad k o) = 0 ∧ (t.core k).lineFull o = true)
      ∧ (∀ o, o < c.spsize → o < v.spsize → t.byte (placePad k o) = s.byte (placePad k o)) ∧ ∀ j, j ≠ k → t.core j = s.core j)

/-- R158 to R161, R171: `vw.set` makes a live view of rank field, type, rights and scope with unit dimensions; `vw.dim` replaces one dimension,
`vw.fmt` the type and companion fields; each where no other core's write-permitted view of the job meets the new geometry; reserved values
are the view fault with reason 4, a view that is not live is reason 1. R162, R168, R172: `vw.get` reads a view's base, header and dimension
words whether or not it is live; `vw.ret` clears LIVE alone, once all its accesses are performed; `vw.meet` gives the verdict, 0 where a
view is not live. -/
def Obligations.ViewsSetReadAndRetired : Prop :=
  (∀ (q : BitVec 4) (n : BitVec 2) (sa sb : Src) (s : State), s.c.SrcsReady (src2 sa sb) → s.c.LogRoom → s.c.enterWait = none →
    let a := s.c.x sa.n
    let h := s.c.x sb.n
    let v := s.c.view q.toNat
    let bytes (ty : BitVec 5) : Nat := typeBits ty.toNat / 8
    let misaligned (ty : BitVec 5) (base : XWord) : Prop := 1 ≤ bytes ty ∧ base.toNat % bytes ty ≠ 0
    let enters (i : Instr) (w : View) : Prop := (w.canWrite = true → s.blockers s.cur w = []) → Completes i s (s.modC fun c => c.setView q.toNat w)
    let fault (i : Instr) (reason : Nat) : Prop := Traps i s 9 (BitVec.ofNat 64 (reason * 2 ^ 60 + q.toNat * 2 ^ 56))
    let ty : BitVec 5 := h.extractLsb' 0 5
    let bad := h.extractLsb' 6 2 = 0 ∨ 18 ≤ ty.toNat ∨ 5 ≤ (h.extractLsb' 20 3).toNat ∨ misaligned ty a
    (¬ bad → (v.live = true → s.c.viewQuiet q.toNat = true ∧ (v.scope = 0 → s.hullBacking v = false)
        ∧ (v.scope ≠ 0 → s.c.l1Dirty = false ∧ ∀ p ∈ s.c.posted, p.kind ≠ 3)) →
      enters (.vwSet q sa sb)
        { live := true, base := a, ty := ty, perm := h.extractLsb' 6 2, rankm1 := h.extractLsb' 8 2, scope := h.extractLsb' 20 3
          d0 := { stride := 1, origin := 0, extent := 1 }, d1 := { stride := 0, origin := 0, extent := 1 }
          d2 := { stride := 0, origin := 0, extent := 1 }, d3 := { stride := 0, origin := 0, extent := 1 } })
    ∧ (bad → fault (.vwSet q sa sb) 4)
    ∧ (v.live = true → n.toNat ≤ v.rankm1.toNat → a.setWidth 16 ≠ (0 : BitVec 16) →
        enters (.vwDim q n sa sb) (v.setDim n.toNat { stride := h.setWidth 32, origin := a.extractLsb' 16 16, extent := a.setWidth 16 }))
    ∧ (v.live = true → (v.rankm1.toNat < n.toNat ∨ a.setWidth 16 = (0 : BitVec 16)) → fault (.vwDim q n sa sb) 4)
    ∧ (v.live = true → (a.extractLsb' 0 5).toNat < 18 → ¬ misaligned (a.extractLsb' 0 5) v.base →
        enters (.vwFmt q sa) { v with ty := a.extractLsb' 0 5, scv := a.extractLsb' 12 4, sce := a.getLsbD 16, kdim := a.extractLsb' 17 2 })
    ∧ (v.live = true → (18 ≤ (a.extractLsb' 0 5).toNat ∨ misaligned (a.extractLsb' 0 5) v.base) → fault (.vwFmt q sa) 4)
    ∧ (v.live = false → fault (.vwDim q n sa sb) 1 ∧ fault (.vwFmt q sa) 1 ∧ fault (.vwRet q) 1))
  ∧ (∀ (rd : BitVec 5) (q r : BitVec 4) (s : State), s.c.LogRoom →
    let v := s.c.view q.toNat
    let w := s.c.view r.toNat
    let writes (i : Instr) (x : Nat) : Prop := Completes i s (s.modC fun c => c.setX rd (BitVec.ofNat 64 x))
    let dim (d : Dim) : Nat := d.stride.toNat * 2 ^ 32 + d.origin.toNat * 2 ^ 16 + d.extent.toNat
    (s.c.DestReady rd →
      writes (.vwGet rd q 0) v.base.toNat
      ∧ writes (.vwGet rd q 1) (v.live.toNat * 2 ^ 63 + v.scope.toNat * 2 ^ 20 + v.kdim.toNat * 2 ^ 17 + v.sce.toNat * 2 ^ 16 + v.scv.toNat * 2 ^ 12
          + v.rankm1.toNat * 2 ^ 8 + v.perm.toNat * 2 ^ 6 + v.ty.toNat)
      ∧ writes (.vwGet rd q 2) (dim v.d0) ∧ writes (.vwGet rd q 3) (dim v.d1) ∧ writes (.vwGet rd q 4) (dim v.d2) ∧ writes (.vwGet rd q 5) (dim v.d3)
      ∧ writes (.vwMeet rd q r)
          (if v.live = true ∧ w.live = true then (v.toSpan s.cur true).verdict (w.toSpan s.cur true) else 0))
    ∧ (v.live = true → s.c.viewQuiet q.toNat = true → (v.scope = 0 → s.hullBacking v = false) →
        (v.scope ≠ 0 → s.c.l1Dirty = false ∧ ∀ p ∈ s.c.posted, p.kind ≠ 3) →
        Completes (.vwRet q) s (s.modC fun c => c.setView q.toNat { v with live := false }))
    ∧ (v.live = true → s.c.viewQuiet q.toNat = false → Waits (.vwRet q) s))

/-- R155, R156, R164, R165: the verdict is 1 where the normalised hulls share no byte; 2 where they share one, both accesses are made through
row-periodic views of one period and one element width with bases on its grid, and no residue is common; 3 otherwise. Where it is not 3, no
element of the one view shares a bit with an element of the other. Views whose bases lie one in the own scratchpad region and one outside it
are left to the model's choice (notes/assumptions/13.md). -/
def Obligations.DisjointVerdictIsSound : Prop :=
  ∀ (k : Nat) (v w : View) (i j : Nat → Nat) (p q : Span),
    let at_ (x : Span) (b : Int) : Int := if 0 ≤ b ∧ b < 0x60000 then b + 2 ^ 32 + x.k * 2 ^ 20 else b
    let touch (x y : Span) : Prop := ∃ b c : Int, x.lo ≤ b ∧ b ≤ x.hi ∧ y.lo ≤ c ∧ c ≤ y.hi ∧ at_ x b = at_ y c
    (p.lo ≤ p.hi → q.lo ≤ q.hi → (p.verdict q = 1 ↔ ¬ touch p q) ∧ ((p.view = none ∨ q.view = none) → touch p q → p.verdict q = 3))
    ∧ ((v.base.toNat < 0x60000 ↔ w.base.toNat < 0x60000) →
      let x := v.toSpan k true
      let y := w.toSpan k true
      let periodic (v : View) (s n : Nat) : Prop := 0 < s ∧ (v.rank = 1 ∧ v.d0.step = s ∧ n = 1
        ∨ v.rank = 2 ∧ v.d0.step = 1 ∧ v.d1.step = s ∧ n = v.d0.extent.toNat ∧ n ≤ s)
      let covers (v : View) (s n : Nat) (r : Int) : Prop :=
        ∃ m : Nat, m < n ∧ (((8 * v.base.toNat / v.eb : Nat) : Int) + v.d0.origin.toNat * v.d0.step + m) % s = r
      let apart : Prop := v.eb = w.eb ∧ 8 * v.base.toNat % v.eb = 0 ∧ 8 * w.base.toNat % w.eb = 0
        ∧ ∃ s n n', periodic v s n ∧ periodic w s n' ∧ ∀ r, ¬ (covers v s n r ∧ covers w s n' r)
      ((∀ d, d < v.rank → 1 ≤ (v.dim d).extent.toNat) → (∀ d, d < w.rank → 1 ≤ (w.dim d).extent.toNat) →
        (x.verdict y = 1 ↔ ¬ touch x y) ∧ (x.verdict y = 2 ↔ touch x y ∧ apart) ∧ (x.verdict y = 3 ↔ touch x y ∧ ¬ apart))
      ∧ (x.verdict y ≠ 3 → v.inside i = true → w.inside j = true →
        v.bitAddr i + v.eb ≤ w.bitAddr j ∨ w.bitAddr j + w.eb ≤ v.bitAddr i))

/-- R154, R169: a run loaded through a readable view from the own scratchpad puts element by element, from the position on, into the lanes of
the vector register, and zero above; a run stored puts the lanes' bits into the elements and changes no other bit; a position outside the
view in one dimension is reason 3 with that dimension and index, a right that is missing reason 2. That of overlapping lanes of a store the
highest lane's value stays is the model's choice (notes/assumptions/60.md). -/
def Obligations.ViewRunsMoveElements : Prop :=
  ∀ (vd : BitVec 5) (q : BitVec 4) (sb : Src) (s : State), s.MemOk → s.c.SrcsReady [(sb, 1)] → s.c.LogRoom → vd.toNat < s.c.ctx.allotV →
    let v := s.c.view q.toNat
    let p := s.c.x sb.n
    let idx (l : Nat) : Nat → Nat := fun k => (p.extractLsb' (16 * k) 16).toNat + if k = 0 then l else 0
    let m := min (min 128 (1024 / v.eb)) (v.d0.extent.toNat - idx 0 0)
    let at_ (l : Nat) : Nat := (v.bitAddr (idx l)).toNat
    let bit (t : State) (b : Nat) : Bool := (t.byte (placePad s.cur (b / 8))).getLsbD (b % 8)
    let own := ∀ l, l < m → 0 ≤ v.bitAddr (idx l) ∧ at_ l + v.eb ≤ 8 * s.c.spsize ∧ (8 ≤ v.eb → at_ l % v.eb = 0)
    let sound := ∀ l, l < m → s.LineReady (BitVec.ofNat 64 (at_ l / 8)) ∧ s.LineReady (BitVec.ofNat 64 ((at_ l + v.eb - 1) / 8))
    let apart (w : Bool) := ∀ x ∈ s.c.pendingSpans s.cur, (v.toSpan s.cur w).ordered x = false
    (v.live = true → v.canRead = true → v.inside (idx 0) = true → (s.c.v vd.toNat).full = true → own → sound → apart false →
      ∃ t, exec (.vwLd vd q sb) s = .next t ∧ t.c.pc = s.c.pc + 4 ∧ t.c.ctx.instret = s.c.ctx.instret + 1 ∧ (t.c.v vd.toNat).full = true
        ∧ (∀ l j, l < m → j < v.eb → (t.c.v vd.toNat).val.getLsbD (v.eb * l + j) = bit s (at_ l + j))
        ∧ (∀ b, v.eb * m ≤ b → (t.c.v vd.toNat).val.getLsbD b = false) ∧ (∀ n, n ≠ vd.toNat → t.c.v n = s.c.v n) ∧ t.c.xs = s.c.xs ∧ s.BytesSame t)
    ∧ (v.live = true → v.canWrite = true → v.inside (idx 0) = true → (s.c.v vd.toNat).full = true → s.c.Sound (vecSlot vd.toNat) → own → apart true →
        s.c.out = [] → s.c.storing = [] → v.ragged p = false →
      ∃ t ls, exec (.vwSt vd q sb) s = .next t ∧ Completed (s.written t ls) t (s.c.pc + 4) ∧ t.MemOk
        ∧ (∀ x : Nat, x ∈ ls ↔ ∃ l j, l < m ∧ j < v.eb ∧ x = (at_ l + j) / 1024)
        ∧ (∀ l j, l < m → j < v.eb → (∀ l', l < l' → l' < m → ¬ (at_ l' ≤ at_ l + j ∧ at_ l + j < at_ l' + v.eb)) →
            bit t (at_ l + j) = (s.c.v vd.toNat).val.getLsbD (v.eb * l + j))
        ∧ (∀ b, b < 8 * s.c.spsize → (∀ l, l < m → ¬ (at_ l ≤ b ∧ b < at_ l + v.eb)) → bit t b = bit s b)
        ∧ ∀ x, (x < placePad s.cur 0 ∨ placePad s.cur s.c.spsize ≤ x) → t.byte x = s.byte x)
    ∧ (let out (k : Nat) : Prop := if k ≤ v.rankm1.toNat then (v.dim k).extent.toNat ≤ idx 0 k else idx 0 k ≠ 0
       ∀ n, n < 4 → out n → (∀ k, k < 4 → k ≠ n → ¬ out k) →
         let tval := BitVec.ofNat 64 (3 * 2 ^ 60 + q.toNat * 2 ^ 56 + n * 2 ^ 52 + idx 0 n)
         (v.live = true → v.canRead = true → Traps (.vwLd vd q sb) s 9 tval) ∧ (v.live = true → v.canWrite = true → Traps (.vwSt vd q sb) s 9 tval))
    ∧ (v.live = true → v.canRead = false → Traps (.vwLd vd q sb) s 9 (BitVec.ofNat 64 (2 * 2 ^ 60 + q.toNat * 2 ^ 56)))
    ∧ (v.live = true → v.canWrite = false → Traps (.vwSt vd q sb) s 9 (BitVec.ofNat 64 (2 * 2 ^ 60 + q.toNat * 2 ^ 56)))

/-! Vector instructions. -/

/-- R299, R304, R305: the element-wise integer operations compute every active lane modulo 2^eb and keep the others; no flag is raised, no
saturation counted, and nothing else but the completion, the count of extra bank cycles and the unit's queue changes. -/
def Obligations.VectorIntegerLanes : Prop :=
  ∀ (t : VType) (vd va vb : BitVec 5) (m : BitVec 3) (s : State), t.isFp = false →
    let eb := t.bits
    let lane (v : VWord) (l : Nat) : Nat := v.toNat / 2 ^ (eb * l) % 2 ^ eb
    let sg (x : Nat) : Int := if x < 2 ^ (eb - 1) then x else (x : Int) - 2 ^ eb
    let rd (x : Nat) : Int := if t.isS then sg x else x
    let gives (i : Instr) (srcs : List (BitVec 5)) (f : Nat → Nat → Int) : Prop :=
      s.VReady srcs [vd] → ∃ r : VWord, Completes i s (s.modC fun c => ((c.setV vd.toNat r).countBanks srcs).queued (srcs ++ [vd]))
        ∧ ∀ l, l < 1024 / eb → (lane r l : Int)
            = if (s.c.mask m).getLsbD l then f (lane (s.c.v va.toNat).val l) (lane (s.c.v vb.toNat).val l) % 2 ^ eb
              else lane (s.c.v vd.toNat).val l
    gives (.vadd t vd va vb m) [va, vb] (fun a b => rd a + rd b) ∧ gives (.vsub t vd va vb m) [va, vb] (fun a b => rd a - rd b)
    ∧ gives (.vmul t vd va vb m) [va, vb] (fun a b => rd a * rd b)
    ∧ gives (.vmin t vd va vb m) [va, vb] (fun a b => if rd a ≤ rd b then a else b) ∧ gives (.vmax t vd va vb m) [va, vb] (fun a b => if rd a ≤ rd b then b else a)
    ∧ gives (.vabs t vd va m) [va] (fun a _ => |sg a|) ∧ gives (.vneg t vd va m) [va] (fun a _ => -sg a)
    ∧ gives (.vand t vd va vb m) [va, vb] (fun a b => (a &&& b : Nat)) ∧ gives (.vor t vd va vb m) [va, vb] (fun a b => (a ||| b : Nat))
    ∧ gives (.vxor t vd va vb m) [va, vb] (fun a b => (a ^^^ b : Nat))
    ∧ gives (.vsll t vd va vb m) [va, vb] (fun a b => (a * 2 ^ (b % eb) : Nat)) ∧ gives (.vsrl t vd va vb m) [va, vb] (fun a b => (a / 2 ^ (b % eb) : Nat))
    ∧ gives (.vsra t vd va vb m) [va, vb] (fun a b => sg a / 2 ^ (b % eb))

/-- R304, R305, R313: the element-wise floating-point operations and functions round each active lane once from the exact result, keep the
others, and queue the flags of the active lanes, which join the activation's at the completion; `vfma` reads its destination; `vabs` and
`vneg` change the sign bit alone, a NaN made canonical; the results of the special inputs of `vexp2`, `vrcp` and `vrsqrt`. -/
def Obligations.VectorFpLanes : Prop :=
  ∀ (t : VType) (vd va vb : BitVec 5) (m : BitVec 3) (s : State), t.isFp = true →
    let eb := t.bits
    let lane (v : VWord) (l : Nat) : Nat := v.toNat / 2 ^ (eb * l) % 2 ^ eb
    let dec (x : Nat) : Val := decodeFp (vty t) x
    let inf (neg : Bool) : Nat := (vty t).inf neg
    let top := 2 ^ (eb - 1)
    let gives (i : Instr) (srcs : List (BitVec 5)) (f : Nat → Nat → Nat → Rounded) : Prop :=
      s.VReady srcs [vd] → ∃ (r : VWord) (fl : BitVec 5), Completes i s (s.modC fun c => ((c.setV vd.toNat r).countBanks srcs).queued (srcs ++ [vd]) fl)
        ∧ (∀ l, l < 1024 / eb → lane r l
            = if (s.c.mask m).getLsbD l then (f (lane (s.c.v va.toNat).val l) (lane (s.c.v vb.toNat).val l) (lane (s.c.v vd.toNat).val l)).bits % 2 ^ eb
              else lane (s.c.v vd.toNat).val l)
        ∧ ∀ j, fl.getLsbD j = true ↔ ∃ l, l < 1024 / eb ∧ (s.c.mask m).getLsbD l = true
            ∧ (f (lane (s.c.v va.toNat).val l) (lane (s.c.v vb.toNat).val l) (lane (s.c.v vd.toNat).val l)).flags.getLsbD j = true
    let fn (op : Nat) (f : Val → Exact) (x : Nat) : Nat × BitVec 5 := ((fnLane t op f x).bits, (fnLane t op f x).flags)
    gives (.vadd t vd va vb m) [va, vb] (fun a b _ => (addVal (dec a) (dec b)).round (vty t))
    ∧ gives (.vsub t vd va vb m) [va, vb] (fun a b _ => (subVal (dec a) (dec b)).round (vty t))
    ∧ gives (.vmul t vd va vb m) [va, vb] (fun a b _ => (mulVal (dec a) (dec b)).round (vty t))
    ∧ gives (.vfma t vd va vb m) [va, vb, vd] (fun a b d => (fmaVal (dec a) (dec b) (dec d)).round (vty t))
    ∧ gives (.vmin t vd va vb m) [va, vb] (fun a b _ => (minmaxVal false (dec a) (dec b)).round (vty t))
    ∧ gives (.vmax t vd va vb m) [va, vb] (fun a b _ => (minmaxVal true (dec a) (dec b)).round (vty t))
    ∧ (t = .f32 →
        gives (.vadd t vd va vb m) [va, vb] (fun a b _ =>
          let r := faddFn .s (BitVec.ofNat 64 a) (BitVec.ofNat 64 b); { bits := r.1.toNat, flags := r.2 })
        ∧ gives (.vmul t vd va vb m) [va, vb] (fun a b _ =>
          let r := fmulFn .s (BitVec.ofNat 64 a) (BitVec.ofNat 64 b); { bits := r.1.toNat, flags := r.2 }))
    ∧ (t ≠ .bf → gives (.vabs t vd va m) [va] (fun a _ _ => { bits := if (dec a).isNan then (vty t).nan else a % top })
        ∧ gives (.vneg t vd va m) [va] (fun a _ _ => { bits := if (dec a).isNan then (vty t).nan else if a < top then a + top else a - top }))
    ∧ (t = .bf → gives (.vabs t vd va m) [va] (fun a _ _ =>
          { bits := if (dec a).isNan then (vty t).nan else if a / 2 ^ 7 % 2 ^ 8 = 0 then 0 else a % top })
        ∧ gives (.vneg t vd va m) [va] (fun a _ _ =>
          { bits := if (dec a).isNan then (vty t).nan else (if a < top then top else 0) + if a / 2 ^ 7 % 2 ^ 8 = 0 then 0 else a % top }))
    ∧ gives (.vexp2 t vd va m) [va] (fun a _ _ => fnLane t 0 exp2Val a) ∧ gives (.vrcp t vd va m) [va] (fun a _ _ => fnLane t 1 rcpVal a)
    ∧ gives (.vrsqrt t vd va m) [va] (fun a _ _ => fnLane t 2 rsqrtVal a)
    ∧ fn 0 exp2Val (inf false) = (inf false, 0) ∧ fn 0 exp2Val (inf true) = (0, 0)
    ∧ fn 0 exp2Val 0 = ((roundFp (vty t) .rne .inf (.int 1)).bits, 0) ∧ fn 0 exp2Val top = ((roundFp (vty t) .rne .inf (.int 1)).bits, 0)
    ∧ fn 1 rcpVal (inf false) = (0, 0) ∧ fn 1 rcpVal (inf true) = (top, 0) ∧ fn 1 rcpVal 0 = (inf false, 2) ∧ fn 1 rcpVal top = (inf true, 2)
    ∧ fn 2 rsqrtVal (inf false) = (0, 0) ∧ fn 2 rsqrtVal (inf true) = ((vty t).nan, 1) ∧ fn 2 rsqrtVal 0 = (inf false, 2) ∧ fn 2 rsqrtVal top = (inf true, 2)
    ∧ (∀ x, top < x → x < inf true → (t = .bf → top + 2 ^ 7 ≤ x) → fn 2 rsqrtVal x = ((vty t).nan, 1))

/-- R307, R314: `vcmp` sets the bits of the active lanes that hold the relation and clears the others, up to bit 127; `vsel` takes each lane by
its mask bit; the mask operations are bitwise, `mpop` counts; m0 reads as ones and keeps its value. -/
def Obligations.VectorMasksAndSelect : Prop :=
  ∀ (t : VType) (cond : VCond) (vd va vb xd : BitVec 5) (md ma mb m : BitVec 3) (s : State),
    let eb := t.bits
    let lane (v : VWord) (l : Nat) : Nat := v.toNat / 2 ^ (eb * l) % 2 ^ eb
    let a (l : Nat) : Nat := lane (s.c.v va.toNat).val l
    let b (l : Nat) : Nat := lane (s.c.v vb.toNat).val l
    let rd (x : Nat) : Int := if t.isS ∧ 2 ^ (eb - 1) ≤ x then (x : Int) - 2 ^ eb else x
    let rel (d : Int) : Prop := match cond with
      | .eq => d = 0 | .ne => d ≠ 0 | .lt => d < 0 | .le => d ≤ 0 | .gt => 0 < d | .ge => 0 ≤ d
    let isNan (x : Nat) : Prop := (decodeFp (vty t) x).isNan = true
    let isSig (x : Nat) : Prop := (decodeFp (vty t) x).isSig = true
    let holds (l : Nat) : Prop :=
      if t.isFp = true then (if isNan (a l) ∨ isNan (b l) then cond = .ne else rel (cmpVal (decodeFp (vty t) (a l)) (decodeFp (vty t) (b l))))
      else rel (rd (a l) - rd (b l))
    let invalid (l : Nat) : Prop :=
      t.isFp = true ∧ (isSig (a l) ∨ isSig (b l) ∨ ((isNan (a l) ∨ isNan (b l)) ∧ cond ≠ .eq ∧ cond ≠ .ne))
    let masks (i : Instr) (f : BitVec 3 → MWord) : Prop := s.VReady [] [] → Completes i s (s.modC fun c => ((c.setMask md (f md)).countBanks []).queued [])
    (s.VReady [va, vb] [] → ∃ (w : MWord) (fl : BitVec 5),
        Completes (.vcmp cond t md va vb m) s (s.modC fun c => ((c.setMask md w).countBanks [va, vb]).queued [va, vb] fl)
        ∧ (∀ l, w.getLsbD l = true ↔ l < 1024 / eb ∧ (s.c.mask m).getLsbD l = true ∧ holds l)
        ∧ (fl = 0 ∨ fl = 1) ∧ (fl = 1 ↔ ∃ l, l < 1024 / eb ∧ (s.c.mask m).getLsbD l = true ∧ invalid l))
    ∧ (s.VReady [va, vb] [vd] → ∃ r : VWord, Completes (.vsel t vd va vb m) s (s.modC fun c => ((c.setV vd.toNat r).countBanks [va, vb]).queued [va, vb, vd])
        ∧ ∀ l, l < 1024 / eb → lane r l = if (s.c.mask m).getLsbD l then a l else b l)
    ∧ masks (.mand md ma mb) (fun _ => s.c.mask ma &&& s.c.mask mb) ∧ masks (.mor md ma mb) (fun _ => s.c.mask ma ||| s.c.mask mb)
    ∧ masks (.mnot md ma) (fun _ => ~~~(s.c.mask ma))
    ∧ (s.VReady [] [] → s.c.DestReady xd → ∃ n : Nat, n = ((List.range 128).filter fun l => (s.c.mask ma).getLsbD l).length
        ∧ Completes (.mpop xd ma) s (s.modC fun c => ((c.setX xd (BitVec.ofNat 64 n)).countBanks []).queued []))
    ∧ s.c.mask 0 = BitVec.allOnes 128 ∧ (∀ w, s.c.setMask 0 w = s.c) ∧ (∀ w, md ≠ 0 → (s.c.setMask md w).mask md = w)

/-- R308: the reductions write lane 0, `vmaxidx` lane 1 too, and zero to all others. The sum of the active lanes modulo 2^eb; the greatest or
least of them, the lowest lane that holds it; the values where no lane is active. That infinities of both signs raise NV even beside a quiet
NaN is the model's choice (notes/assumptions/31.md). -/
def Obligations.VectorReductions : Prop :=
  ∀ (t : VType) (vd va : BitVec 5) (m : BitVec 3) (s : State), s.VReady [va] [vd] →
    let eb := t.bits
    let lanes := 1024 / eb
    let lane (v : VWord) (l : Nat) : Nat := v.toNat / 2 ^ (eb * l) % 2 ^ eb
    let a (l : Nat) : Nat := lane (s.c.v va.toNat).val l
    let on (l : Nat) : Prop := l < lanes ∧ (s.c.mask m).getLsbD l = true
    let none := ∀ l, ¬ on l
    let rd (x : Nat) : Int := if t.isS ∧ 2 ^ (eb - 1) ≤ x then (x : Int) - 2 ^ eb else x
    let low : Nat := if t.isS then 2 ^ (eb - 1) else 0
    let high : Nat := if t.isS then 2 ^ (eb - 1) - 1 else 2 ^ eb - 1
    let gives (i : Instr) (x : Nat) (y : Nat) (fl : BitVec 5) : Prop :=
      ∃ r : VWord, Completes i s (s.modC fun c => ((c.setV vd.toNat r).countBanks [va]).queued [va, vd] fl)
        ∧ lane r 0 = x % 2 ^ eb ∧ lane r 1 = y % 2 ^ eb ∧ ∀ l, 2 ≤ l → l < lanes → lane r l = 0
    (t.isFp = false →
      gives (.vredsum t vd va m) (((List.range lanes).filter fun l => (s.c.mask m).getLsbD l).map a).sum 0 0
      ∧ (none → gives (.vredmax t vd va m) low 0 0 ∧ gives (.vredmin t vd va m) high 0 0 ∧ gives (.vmaxidx t vd va m) low lanes 0)
      ∧ (¬ none → (∃ l, on l ∧ (∀ j, on j → rd (a j) ≤ rd (a l)) ∧ (∀ j, j < l → on j → rd (a j) < rd (a l))
            ∧ gives (.vredmax t vd va m) (a l) 0 0 ∧ gives (.vmaxidx t vd va m) (a l) l 0)
          ∧ ∃ l, on l ∧ (∀ j, on j → rd (a l) ≤ rd (a j)) ∧ gives (.vredmin t vd va m) (a l) 0 0))
    ∧ (t.isFp = true →
      let v (l : Nat) : Val := decodeFp (vty t) (a l)
      let num (l : Nat) : Prop := on l ∧ (v l).isNan = false
      let nv : Prop := ∃ l, on l ∧ (v l).isSig = true
      let minusZero (x : Val) : Prop := x.isZero = true ∧ x.neg? = true
      let le (x y : Val) : Prop := cmpVal x y < 0 ∨ (cmpVal x y = 0 ∧ (minusZero y → minusZero x))
      ∃ fl : BitVec 5, (nv → fl = 1) ∧ (¬ nv → fl = 0)
        ∧ (none → gives (.vredsum t vd va m) 0 0 0 ∧ gives (.vredmax t vd va m) ((vty t).inf true) 0 fl
            ∧ gives (.vredmin t vd va m) ((vty t).inf false) 0 fl ∧ gives (.vmaxidx t vd va m) ((vty t).inf true) lanes fl)
        ∧ ((∃ l, num l) → (∃ l, num l ∧ (∀ j, num j → le (v j) (v l)) ∧ (∀ j, j < l → num j → ¬ le (v l) (v j))
              ∧ gives (.vredmax t vd va m) (roundFp (vty t) .rne .inf (v l)).bits 0 fl
              ∧ gives (.vmaxidx t vd va m) (roundFp (vty t) .rne .inf (v l)).bits l fl)
            ∧ ∃ l, num l ∧ (∀ j, num j → le (v l) (v j)) ∧ gives (.vredmin t vd va m) (roundFp (vty t) .rne .inf (v l)).bits 0 fl)
        ∧ ((∃ l, on l) → (¬ ∃ l, num l) → gives (.vredmax t vd va m) (vty t).nan 0 fl ∧ gives (.vredmin t vd va m) (vty t).nan 0 fl
            ∧ ∃ l, on l ∧ (∀ j, j < l → ¬ on j) ∧ gives (.vmaxidx t vd va m) (vty t).nan l fl)
        ∧ ((∃ l, on l ∧ (v l).isNan = true) → (¬ ∃ l j, on l ∧ on j ∧ v l = .inf false ∧ v j = .inf true) → gives (.vredsum t vd va m) (vty t).nan 0 fl)
        ∧ ((∃ l j, on l ∧ on j ∧ v l = .inf false ∧ v j = .inf true) → gives (.vredsum t vd va m) (vty t).nan 0 1)
        ∧ ((∀ l, on l → (v l).isNan = false) → (¬ ∃ l j, on l ∧ on j ∧ v l = .inf false ∧ v j = .inf true) →
            ∀ l0 rest, ((List.range lanes).filter fun l => (s.c.mask m).getLsbD l) = l0 :: rest →
              let r := roundFp (vty t) .rne .inf ((rest.map v).foldl (fun (x y : Val) => (addVal x y).val) (v l0))
              gives (.vredsum t vd va m) r.bits 0 r.flags))

/-- R306, R309, R312: lanes permuted, broadcast, inserted and extracted; sums of products into 32-bit lanes; table lookup in parameter window 1. -/
def Obligations.VectorMovesAndProducts : Prop :=
  ∀ (t : VType) (vd va vb xa xb xd : BitVec 5) (m : BitVec 3) (s : State),
    let eb := t.bits
    let L := 1024 / eb
    let lane (w : Nat) (v : VWord) (l : Nat) : Nat := v.toNat / 2 ^ (w * l) % 2 ^ w
    let a (l : Nat) : Nat := lane eb (s.c.v va.toNat).val l
    let b (l : Nat) : Nat := lane eb (s.c.v vb.toNat).val l
    let d (w l : Nat) : Nat := lane w (s.c.v vd.toNat).val l
    let on (l : Nat) : Prop := (s.c.mask m).getLsbD l = true
    let sg (w x : Nat) : Int := if 2 ^ (w - 1) ≤ x then (x : Int) - 2 ^ w else x
    let rd (x : Nat) : Int := if t.isS then sg eb x else x
    let dec (x : Nat) : Val := decodeFp (vty t) x
    let gives (i : Instr) (srcs : List (BitVec 5)) (w : Nat) (f : Nat → Nat) : Prop :=
      ∃ r : VWord, Completes i s (s.modC fun c => ((c.setV vd.toNat r).countBanks srcs).queued (srcs ++ [vd])) ∧ ∀ l, l < 1024 / w → lane w r l = f l
    let x := s.c.x xa
    let y := (s.c.x xb).toNat
    (s.VReady [va, vb] [vd] → gives (.vperm t vd va vb m) [va, vb] eb (fun l => if on l then a (b l % L) else d eb l))
    ∧ (s.VReady [] [vd] → s.c.SrcsReady [plainSrc xa 0] → gives (.vbcast t vd xa m) [] eb (fun l => if on l then x.toNat % 2 ^ eb else d eb l))
    ∧ (s.VReady [] [vd] → s.c.SrcsReady [plainSrc xa 0, plainSrc xb 1] →
        gives (.vins t vd xa xb m) [] eb (fun l => if l = y % L ∧ on l then x.toNat % 2 ^ eb else d eb l))
    ∧ (s.VReady [va] [] → s.c.SrcsReady [plainSrc xb 1] → s.c.DestReady xd →
        Completes (.vext t xd va xb) s (s.modC fun c => ((c.setX xd (BitVec.ofInt 64 (rd (a (y % L))))).countBanks [va]).queued [va]))
    ∧ (s.VReady [va, vb, vd] [vd] → t = .s8 ∨ t = .z8 →
        gives (.vdot t vd va vb m) [va, vb, vd] 32 (fun l => if on l then
            (((d 32 l : Nat) + rd (a (4 * l)) * rd (b (4 * l)) + rd (a (4 * l + 1)) * rd (b (4 * l + 1)) + rd (a (4 * l + 2)) * rd (b (4 * l + 2))
              + rd (a (4 * l + 3)) * rd (b (4 * l + 3))) % 2 ^ 32).toNat else d 32 l))
    ∧ (s.VReady [va, vb, vd] [vd] → t = .bf ∨ t = .hf → ∃ (r : VWord) (fl : BitVec 5),
        let dot (l : Nat) : Rounded :=
          (dotVal (decodeFp .f32 (d 32 l)) [(dec (a (2 * l)), dec (b (2 * l))), (dec (a (2 * l + 1)), dec (b (2 * l + 1)))]).round .f32
        Completes (.vdot t vd va vb m) s (s.modC fun c => ((c.setV vd.toNat r).countBanks [va, vb, vd]).queued [va, vb, vd, vd] fl)
        ∧ (∀ l, l < 32 → lane 32 r l = if on l then (dot l).bits % 2 ^ 32 else d 32 l)
        ∧ ∀ j, fl.getLsbD j = true ↔ ∃ l, l < 32 ∧ on l ∧ (dot l).flags.getLsbD j = true)
    ∧ (t.isFp = true → s.c.SrcsReady [plainSrc xb 1] → y % 8 = 0 →
        let out := s.windowOut 1 (s.c.x xb) 2064
        let entry (l : Nat) : Rounded := lutLane t (fun o => s.windowRead 1 y 2064 / 2 ^ (8 * o) % 2 ^ 32) (a l)
        (s.VReady [va] [vd] → out = false → ∃ (r : VWord) (fl : BitVec 5),
          Completes (.vlut t vd va xb m) s (s.modC fun c => ((c.setV vd.toNat r).countBanks [va]).queued [va, vd] fl)
          ∧ (∀ l, l < L → lane eb r l = if on l then (entry l).bits % 2 ^ eb else d eb l)
          ∧ ∀ j, fl.getLsbD j = true ↔ ∃ l, l < L ∧ on l ∧ (entry l).flags.getLsbD j = true)
        ∧ (s.VReady [va] [vd] → out = true → s.windowTrap = false → ∃ r : VWord,
          Completes (.vlut t vd va xb m) s (s.modC fun c => (((c.setV vd.toNat r).countBanks [va]).queued [va, vd]).modStatus fun u => { u with wrange := true })
          ∧ ∀ l, l < L → lane eb r l = if on l then 0 else d eb l)
        ∧ (s.VReady [va] [vd] → out = true → s.windowTrap = true → Traps (.vlut t vd va xb m) s 14 (BitVec.ofNat 64 (2 ^ 32 + min y 0xFFFFFFFF))))

/-- R310, R311: `vld` takes the active lanes from the bytes of the own scratchpad and keeps the others; `vst` writes the active lanes' bytes and
no other byte; with no active lane nothing is accessed; an address that is no multiple of the element's size is misaligned. R300, R108,
R113: an operand beyond the allotment traps with its number and its field, and a full queue holds an instruction until the unit completes
one, which is when its flags join the activation's and what a rollback restores. That of several operands outside TVAL names va before vb
before vd is the model's choice (notes/assumptions/97.md). -/
def Obligations.VectorLoadsStoresAndQueue : Prop :=
  ∀ (t : VType) (vd va vb xa : BitVec 5) (m : BitVec 3) (k : Nat) (s : State),
    let n := t.bits / 8
    let L := 1024 / t.bits
    let lane (v : VWord) (l : Nat) : Nat := v.toNat / 2 ^ (t.bits * l) % 2 ^ t.bits
    let a := s.c.x xa
    let at_ (l : Nat) : Nat := (a + BitVec.ofNat 64 (n * l)).toNat
    let on (l : Nat) : Prop := l < L ∧ (s.c.mask m).getLsbD l = true
    let own := ∀ l, on l → at_ l + n ≤ s.c.spsize
    let apart (w : Bool) := ∀ q ∈ s.c.pendingSpans s.cur, (laneSpan s.cur t.bits a (activeLanes L (s.c.mask m)) w).ordered q = false
    (s.MemOk → s.c.SrcsReady [plainSrc xa 0] → vd.toNat < s.c.ctx.allotV →
      ((∃ l, on l) → a.toNat % n = 0 → own → (s.c.v vd.toNat).full = true →
        (s.c.LogRoom → apart false → (∀ l, on l → s.LineReady (BitVec.ofNat 64 (at_ l))) →
          ∃ u, exec (.vld t vd xa m) s = .next u ∧ u.c.pc = s.c.pc + 4 ∧ u.c.ctx.instret = s.c.ctx.instret + 1 ∧ (u.c.v vd.toNat).full = true
            ∧ (∀ l, l < L → (on l → lane (u.c.v vd.toNat).val l = s.load (placePad s.cur (at_ l)) n)
                ∧ (¬ on l → lane (u.c.v vd.toNat).val l = lane (s.c.v vd.toNat).val l))
            ∧ (∀ j, j ≠ vd.toNat → u.c.v j = s.c.v j) ∧ u.c.xs = s.c.xs ∧ u.c.ms = s.c.ms ∧ u.c.ctx.flags = s.c.ctx.flags ∧ s.BytesSame u)
        ∧ (s.c.out = [] → s.c.storing = [] → apart true → s.c.Sound (vecSlot vd.toNat) →
          ∃ u ls, exec (.vst t vd xa m) s = .next u ∧ Completed (s.written u ls) u (s.c.pc + 4) ∧ u.MemOk ∧ (∀ x : Nat, x ∈ ls ↔ ∃ l, on l ∧ x = at_ l / 128)
            ∧ (∀ l, on l → u.load (placePad s.cur (at_ l)) n = lane (s.c.v vd.toNat).val l)
            ∧ ∀ p, (∀ l, on l → p < placePad s.cur (at_ l) ∨ placePad s.cur (at_ l) + n ≤ p) → u.byte p = s.byte p))
      ∧ ((¬ ∃ l, on l) → s.c.LogRoom → Completes (.vld t vd xa m) s s ∧ Completes (.vst t vd xa m) s s)
      ∧ ((∃ l, on l) → a.toNat % n ≠ 0 → Traps (.vld t vd xa m) s 4 a ∧ Traps (.vst t vd xa m) s 4 a))
    ∧ (let v := s.c.ctx.allotV
       (v ≤ va.toNat → Traps (.vadd t vd va vb m) s 2 (BitVec.ofNat 64 va.toNat))
       ∧ (va.toNat < v → v ≤ vb.toNat → Traps (.vadd t vd va vb m) s 2 (BitVec.ofNat 64 (vb.toNat + 2 ^ 8)))
       ∧ (va.toNat < v → vb.toNat < v → v ≤ vd.toNat → Traps (.vadd t vd va vb m) s 2 (BitVec.ofNat 64 (vd.toNat + 2 * 2 ^ 8)))
       ∧ (s.VReady [va, vb] [vd] → ∀ w, 2 ≤ w.length → Waits (.vadd t vd va vb m) (s.modC fun c => { c with vq := w })))
    ∧ (∀ (w : VecCmd) (rest : List VecCmd), (s.core k).vq = w :: rest → ∃ u, exec (.vectorCommandComplete k) s = .next u ∧ (u.core k).vq = rest
        ∧ ((s.core k).undo = [] → (u.core k).undo = []) ∧ (u.core k).ctx.instret = (s.core k).ctx.instret
        ∧ ∀ e : UndoEntry, (s.core k).undo = [e] → ∃ x : UndoEntry, (u.core k).undo = [x]
            ∧ x.ctx.flags = if w.instret < e.ctx.instret then e.ctx.flags ||| w.flags else e.ctx.flags)
    ∧ ((s.core k).vq = [] → exec (.vectorCommandComplete k) s = .next s)

/-- R281, R315, R316: `cvt` converts the lanes both types have, each rounded once into the destination, and writes zero above; `mx.unpack` and
`mx.scale` round each element times its block's scale, `mx.pack` writes the elements and the scales of its blocks; flags and saturations of
the active lanes are queued, to join the activation's at the completion, and stochastic roundings take their draws in ascending order. -/
def Obligations.ConversionsRoundOnce : Prop :=
  ∀ (dst src : NumType) (e : MxElem) (w : MxWide) (rm : RMode) (inf : Bool) (vd va vb : BitVec 5) (m : BitVec 3) (s : State),
    let lane (b : Nat) (v : VWord) (l : Nat) : Nat := v.toNat / 2 ^ (b * l) % 2 ^ b
    let A := (s.c.v va.toNat).val
    let B := (s.c.v vb.toNat).val
    let D := (s.c.v vd.toNat).val
    let on (l : Nat) : Bool := (s.c.mask m).getLsbD l
    let below (n : Nat) : Nat := ((List.range n).filter on).length
    let draw (j : Nat) : BitVec 32 := genDraw^[j] s.c.ctx.gen
    let rnd (l : Nat) : Rnd := match rm with | .rne => .rne | .rtz => .rtz | .sr => .sr (draw (below l + 1))
    let gen' (n : Nat) : BitVec 32 := if rm = .sr then draw (below n) else s.c.ctx.gen
    let joined (n : Nat) (f : Nat → Rounded) (fl : BitVec 5) (sat : Nat) : Prop :=
      (∀ j, fl.getLsbD j = true ↔ ∃ l, l < n ∧ on l = true ∧ (f l).flags.getLsbD j = true)
      ∧ sat = ((List.range n).filter fun l => on l && (f l).sat).length
    let done (i : Instr) (srcs : List (BitVec 5)) (r : VWord) (fl : BitVec 5) (sat : Nat) (g : BitVec 32) (two : Option VWord) : Prop :=
      Completes i s (s.modC fun c =>
        let c1 := c.setV vd.toNat r
        let c2 := match two with | some r2 => c1.setV vb.toNat r2 | none => c1
        ((c2.modCtx fun x => { x with gen := g }).countBanks srcs).queued (srcs ++ match two with | some _ => [vd, vb] | none => [vd]) fl sat)
    let W := (mxWide w).width
    let N := 1024 / W
    (s.VReady [va] [vd] →
      let x := cvtTy src
      let y := cvtTy dst
      let n := min (min 128 (1024 / x.bits)) (min 128 (1024 / y.bits))
      let f (l : Nat) : Rounded := y.round (rnd l) (if inf then .inf else .sat) (x.decode (lane x.bits A l))
      ∃ (r : VWord) (fl : BitVec 5) (sat : Nat), done (.cvt dst src rm inf vd va m) [va] r fl sat (gen' n) none ∧ joined n f fl sat
        ∧ (∀ l, l < n → lane y.bits r l = if on l then (f l).bits % 2 ^ y.bits else lane y.bits D l) ∧ ∀ b, y.bits * n ≤ b → r.getLsbD b = false)
    ∧ (s.VReady [va, vb] [vd] →
      let f (l : Nat) : Rounded := roundFp (mxWide w) (rnd l) .inf ((mxDecode e (lane (mxBits e) A l)).underScale (lane 8 B (l / 32)))
      let g (l : Nat) : Rounded := roundFp (mxWide w) .rne .inf ((decodeFp (mxWide w) (lane W A l)).underScale (lane 8 B (l / 32)))
      (∃ (r : VWord) (fl : BitVec 5), done (.mxUnpack w e rm vd va vb m) [va, vb] r fl 0 (gen' N) none ∧ joined N f fl 0
        ∧ ∀ l, l < N → lane W r l = if on l then (f l).bits % 2 ^ W else lane W D l)
      ∧ ∃ (r : VWord) (fl : BitVec 5), done (.mxScale w vd va vb m) [va, vb] r fl 0 s.c.ctx.gen none ∧ joined N g fl 0
        ∧ ∀ l, l < N → lane W r l = if on l then (g l).bits % 2 ^ W else lane W D l)
    ∧ (s.VReady [va] [vb, vd] →
      let blk (j : Nat) : MxBlock := packBlock e (fun i => rnd (32 * j + i))
        ((List.range 32).map fun i => if on (32 * j + i) then decodeFp (mxWide w) (lane W A (32 * j + i)) else .zero false)
      let el (l : Nat) : Rounded := (blk (l / 32)).els.getD (l % 32) { bits := 0 }
      ∃ (r r2 : VWord) (fl : BitVec 5) (sat : Nat), done (.mxPack e w rm vd va vb m) [va] r fl sat (gen' N) (some r2)
        ∧ (∀ j, fl.getLsbD j = true ↔ ∃ l, l < N ∧ (el l).flags.getLsbD j = true) ∧ sat = ((List.range N).filter fun l => (el l).sat).length
        ∧ (∀ l, l < N → lane (mxBits e) r l = (el l).bits % 2 ^ mxBits e) ∧ (∀ b, mxBits e * N ≤ b → r.getLsbD b = false)
        ∧ (∀ j, j < N / 32 → lane 8 r2 j = (blk j).scale % 2 ^ 8) ∧ ∀ b, 8 * (N / 32) ≤ b → r2.getLsbD b = false)

/-! The matrix engine. -/

/-- R321, R323, R324, R327, R331 to R334, R336: a matrix command whose views are live, permitted, of the right types and extents and inside the
own scratchpad enters its core's queue with its snapshots when an entry is free and no access is outstanding; with both entries taken
`mat.zero` waits. R329, R337: a view that is not live faults with reason 1; a multiply with the latch faults for its view's rank, extent,
type and missing scales, a latch load for its type and extent, a ring for a mask without the own core; a companion that is not valid is the
view fault with reason 5, of any KDIM; that its TVAL names the view D is the model's choice (notes/assumptions/109.md). Which reason of the
matrix fault is reported where several hold is the model's choice (notes/assumptions/34.md). R335: `mat.wait` completes once no command of
the accumulator, no latch load and no ring is left, and no event is unreported; a latch failure of the accumulator is reported as the matrix
fault with reason 7, once. R339: `mat.slot` sends its index and value to the engine, where they arrive 4 engine cycles later; a write
arrives with its engine cycle, and sets slot codes, weights or the switch time of the pending table; without the slot right it is the
permission fault with reason 7, with a bad index or value the matrix fault with reason 6. That TVAL of the first holds its reason alone is
the model's choice (notes/assumptions/127.md), and so is the order of writes and switches in one cycle (notes/assumptions/121.md). -/
def Obligations.MatrixCommandsQueueAndWait : Prop :=
  (∀ (pr : MmaPair) (tall ovr latch : Bool) (acc : BitVec 2) (qa qb : BitVec 4) (rd : BitVec 5) (sa sc : Src) (s : State), s.c.out = [] →
    let put (m : MCmd) : State := s.modC fun c => { c with mq := c.mq ++ [{ m with id := s.nextId, order := s.nextId, act := c.uid }] }
    let a := s.c.view qa.toNat
    let b := s.c.view qb.toNat
    let mx : Prop := pr ≠ .bfbf ∧ pr ≠ .hfhf ∧ pr ≠ .sfsf
    let uniform := decide mx && decide (sc.n ≠ 0)
    let scaled : Prop := mx ∧ sc.n = 0
    let kx := a.d0.extent.toNat
    let inside (v : View) : Prop := ∀ i j, i < v.d0.extent.toNat → j < v.rows →
      (byteAddr (v.bit2 i j)).toNat < s.c.spsize ∧ (byteAddr (v.bit2 i j + v.eb - 1)).toNat < s.c.spsize
    let comp (v : View) : View := s.c.view v.scv.toNat
    let compOk (v : View) (q : BitVec 4) (w : Bool) : Prop :=
      v.kdim = 0 ∧ companionOk v (comp v) q.toNat v.scv.toNat = true ∧ (comp v).live = true
        ∧ (if w then (comp v).canWrite else (comp v).canRead) = true ∧ inside (comp v)
    let operand (v : View) (q : BitVec 4) (rows ty : Nat) : Prop :=
      v.live = true ∧ v.canRead = true ∧ v.rank ≤ 2 ∧ 1 ≤ v.d0.extent.toNat ∧ v.d0.extent.toNat ≤ 2048 ∧ v.rows ≤ rows ∧ v.ty.toNat = ty ∧ inside v
        ∧ (scaled → v.sce = true ∧ compOk v q false)
    let m : MCmd :=
      { op := .mma pr tall ovr latch acc, a := a, b := if latch then {} else b, ac := if scaled then comp a else {}
        bc := if scaled ∧ latch = false then comp b else {}, aq := qa.toNat, bq := if latch then 16 else qb.toNat
        uniform := uniform, scales := (s.c.x sc.n).setWidth 16, markable := s.groupArmed, nk := (kx + 31) / 32 }
    let viewFault (i : Instr) (reason : Nat) (q : BitVec 4) : Prop := Traps i s 9 (BitVec.ofNat 64 (reason * 2 ^ 60 + q.toNat * 2 ^ 56))
    let matFault (i : Instr) (reason q : Nat) : Prop := Traps i s 22 (BitVec.ofNat 64 (reason * 2 ^ 60 + q * 2 ^ 56))
    let mxType := (codeMx a.ty.toNat).isSome
    let mask : BitVec 8 := (s.c.x sa.n).setWidth 8
    (s.c.mq.length < 2 →
      ((uniform = true → s.c.SrcsReady [(sc, 2)]) → operand a qa (if tall then 256 else 32) (pairTypes pr).1 →
        (latch = false → operand b qb (if tall then 4 else 32) (pairTypes pr).2 ∧ b.d0.extent = a.d0.extent) →
        Completes (.mma pr tall ovr latch acc qa qb sc) s (put m))
      ∧ Completes (.matZero acc) s (put { op := .zero acc })
      ∧ (a.live = true → a.canWrite = true → a.rank ≤ 2 → rdType a = true → inside a → (mxType = true → a.sce = true → compOk a qa true) →
          (∀ x ∈ s.c.mq, x.op.accOf = some acc → x.markable = false) → s.c.events = [] → s.c.accEcc = [] →
          Completes (.matRd qa acc) s (put { op := .rd acc, a := a, ac := if mxType = true ∧ a.sce = true then comp a else {}, aq := qa.toNat }))
      ∧ (a.live = true → a.canRead = true → ldbType a = true → a.rank ≤ 2 → kx ≤ 2048 → a.rows ≤ 32 → (kx * a.rows * a.eb + 7) / 8 ≤ 8192 → inside a →
          (a.sce = true → compOk a qa false) →
          Completes (.matLdb qa) s (put { op := .ldb, a := a, ac := if mxType = true ∧ a.sce = true then comp a else {}, aq := qa.toNat }))
      ∧ (s.c.SrcsReady (src1 sa) → mask.getLsbD (coreK s.cur) = true → 2 ≤ ((List.range 8).filter fun j => mask.getLsbD j).length →
          Completes (.matRing sa) s (put { op := .ring mask }))
      ∧ (s.c.DestReady rd → ∃ key, key = (if rd = 0 then 0 else s.c.key rd.toNat)
          ∧ Completes (.matSatc rd acc) s ((put { op := .satc key acc }).modC fun c => c.setEmptyKey key)))
    ∧ (2 ≤ s.c.mq.length → Waits (.matZero acc) s)
    ∧ (a.live = false → (uniform = true → s.c.SrcsReady [(sc, 2)]) →
        viewFault (.mma pr tall ovr latch acc qa qb sc) 1 qa ∧ viewFault (.matRd qa acc) 1 qa ∧ viewFault (.matLdb qa) 1 qa)
    ∧ (a.live = true → a.canRead = true →
        (2 < a.rank ∨ kx = 0 ∨ 2048 < kx ∨ (if tall then 256 else 32) < a.rows → matFault (.mma .bfbf tall ovr true acc qa qb sc) 1 qa.toNat)
        ∧ (a.sce = true → companionOk a (comp a) qa.toNat a.scv.toNat = false →
            (sc.n = 0 → viewFault (.mma .f8af8a tall ovr true acc qa qb sc) 5 qa) ∧ viewFault (.matLdb qa) 5 qa)
        ∧ (a.rank ≤ 2 → 1 ≤ kx → kx ≤ 2048 → a.rows ≤ (if tall then 256 else 32) → a.ty ≠ 1 → matFault (.mma .bfbf tall ovr true acc qa qb sc) 2 qa.toNat)
        ∧ (a.rank ≤ 2 → 1 ≤ kx → kx ≤ 2048 → a.rows ≤ (if tall then 256 else 32) → a.ty = 3 → a.sce = false → sc.n = 0 →
            matFault (.mma .f8af8a tall ovr true acc qa qb sc) 3 qa.toNat)
        ∧ (a.sce = false → ldbType a = false → matFault (.matLdb qa) 2 qa.toNat)
        ∧ (a.sce = false → ldbType a = true → 2048 < kx → matFault (.matLdb qa) 4 qa.toNat))
    ∧ (s.c.SrcsReady (src1 sa) → mask.getLsbD (coreK s.cur) = false → matFault (.matRing sa) 5 0))
  ∧ (∀ (acc : BitVec 2) (sa sb : Src) (g : Nat) (w : SlotWrite) (s : State),
    let i := (s.c.x sa.n).toNat
    let v := (s.c.x sb.n).toNat
    let nib (x n : Nat) : Nat := x / 16 ^ n % 16
    let e := (s.cluster g).engine
    let right := (s.job s.c.jobNum).slotRight = true
    let bad := 6 ≤ i ∨ (i < 4 ∧ ∃ n, n < 16 ∧ 8 < nib v n) ∨ (i = 4 ∧ ∃ n, n < 8 ∧ nib v n = 0)
    let takes (p : Engine → Prop) : Prop := ∃ t, exec (.slotTableSwitch g) s = .next t ∧ p (t.cluster g).engine ∧ ∀ h, h ≠ g → t.cluster h = s.cluster h
    ((∀ m ∈ s.c.mq, m.op.accOf ≠ some acc ∧ m.op.accOf ≠ none) → s.c.LogRoom →
      (s.c.events = [] → s.c.accEcc = [] → Completes (.matWait acc) s s)
      ∧ (∀ e rest, s.c.out = [] → s.c.events = e :: rest → e.acc = acc → e.kind = .reason7 →
          exec (.matWait acc) s = .next ((s.modC fun c => { c with events := c.events.filter fun x => decide (x.id ≠ e.id) }).takeTrap s.cur 22
            (BitVec.ofNat 64 (7 * 2 ^ 60 + acc.toNat)))))
    ∧ ((∃ m ∈ s.c.mq, m.op.accOf = some acc ∨ m.op.accOf = none) → Waits (.matWait acc) s)
    ∧ (s.c.SrcsReady (src2 sa sb) → s.c.LogRoom →
      (right → ¬ bad → Completes (.matSlot sa sb) s (s.modCluster (coreCluster s.cur) fun c =>
        { c with engine := { c.engine with coming := c.engine.coming ++ [⟨s.nextId, s.cyc10 + 80, s.cur, i, s.c.x sb.n⟩] } }))
      ∧ (¬ right → Traps (.matSlot sa sb) s 7 (BitVec.ofNat 64 (7 * 2 ^ 56)))
      ∧ (right → bad → Traps (.matSlot sa sb) s 22 (BitVec.ofNat 64 (6 * 2 ^ 60))))
    ∧ (e.coming = [w] → e.armed = none →
      (s.cyc10 / 20 < w.due / 20 → exec (.slotTableSwitch g) s = .next s)
      ∧ (w.due / 20 ≤ s.cyc10 / 20 → w.idx < 4 → takes fun u => (∀ n, n < 16 → Map.get 8 u.pend (16 * w.idx + n) = nib w.val.toNat n)
          ∧ (∀ n, n < 16 * w.idx ∨ 16 * w.idx + 16 ≤ n → Map.get 8 u.pend n = Map.get 8 e.pend n) ∧ u.coming = [] ∧ { u with pend := e.pend, coming := [w] } = e)
      ∧ (w.due / 20 ≤ s.cyc10 / 20 → w.idx = 4 → takes fun u => (∀ n, n < 8 → Map.get 1 u.pendW n = nib w.val.toNat n)
          ∧ u.coming = [] ∧ { u with pendW := e.pendW, coming := [w] } = e)
      ∧ (w.due / 20 ≤ s.cyc10 / 20 → w.idx = 5 → s.dieTime (g / 96) < w.val.toNat → takes fun u => u = { e with armed := some w.val, armedAt := w.due / 20, coming := [] })))

/-- R321, R327, R331 to R334, R336: the oldest command begins; the one after it does not while it is no multiply behind a multiply whose last
block step is issued; `mode=ovr` clears the accumulator; a multiply with no latch to read fails and leaves its accumulator. Each command
completes with its effect and leaves the queue. A ring passes every latch to the next core of the mask. -/
def Obligations.MatrixCommandsExecute : Prop :=
  ∀ (k g : Nat) (m p : MCmd) (rest : List MCmd) (s : State),
    let c := s.core k
    let set (c' : Core) : State := s.setCore k c'
    let begin := exec (.matrixCommandBegin k) s
    let complete := exec (.matrixCommandComplete k) s
    let accIs (c' : Core) (acc : BitVec 2) (a : Acc) : Prop := c'.acc acc = a ∧ ∀ j, j ≠ acc → c'.acc j = c.acc j
    (c.mq = m :: rest → (∀ x ∈ rest, x.id ≠ m.id) → m.begun = false →
      ((∀ pr tall ovr latch acc, m.op ≠ .mma pr tall ovr latch acc) → begin = .next (set { c with mq := { m with begun := true } :: rest }))
      ∧ ∀ pr tall ovr latch acc, m.op = .mma pr tall ovr latch acc →
          (latch = false → ∃ c', begin = .next (set c') ∧ c'.mq = { m with begun := true } :: rest
            ∧ accIs c' acc (if ovr then { el := [], ovf := 0, tall := tall } else { c.acc acc with tall := tall }) ∧ { c' with mq := c.mq, accs := c.accs } = c)
          ∧ (latch = true → c.latch = none → begin = .next (set { c with mq := { m with begun := true, ended := true, failed := true } :: rest })))
    ∧ (c.mq = [p, m] → p.begun = true → m.begun = false →
        ((∀ pr tall ovr latch acc, m.op ≠ .mma pr tall ovr latch acc) → begin = .next s) ∧ (p.ended = false → begin = .next s))
    ∧ (c.mq = m :: rest → m.begun = false → complete = .next s)
    ∧ (c.mq = m :: rest → (∀ x ∈ rest, x.id ≠ m.id) → m.begun = true →
      (∀ acc, m.op = .zero acc → ∃ c', complete = .next (set c') ∧ c'.mq = rest ∧ accIs c' acc { c.acc acc with el := [], ovf := 0 }
          ∧ { c' with mq := c.mq, accs := c.accs } = c)
      ∧ (∀ key acc, m.op = .satc key acc → complete = .next (set { c.putKey key ⟨(c.acc acc).ovf.setWidth 64, true⟩ with mq := rest }))
      ∧ (∀ pr tall ovr latch acc, m.op = .mma pr tall ovr latch acc → (m.ended = false → complete = .next s)
          ∧ (m.ended = true → m.failed = true → m.nan = none →
              complete = .next (set { c with mq := rest, events := c.events ++ [⟨m.id, acc, .reason7, tall, ⟨0, 0, 0⟩⟩] }))
          ∧ (m.ended = true → m.failed = false → m.nan = none → ∃ t, complete = .next t ∧ (t.core k).mq = rest ∧ (t.core k).accs = c.accs
              ∧ (t.core k).ctx.flags = c.ctx.flags ||| m.flags ∧ (t.core k).ctx.satcnt = BitVec.ofNat 64 (min (c.ctx.satcnt.toNat + m.sat) (2 ^ 64 - 1))
              ∧ (t.core k).events = c.events ∧ s.BytesSame t))
      ∧ (m.op = .ldb → c.clear k m = true → (∀ l ∈ m.loadLines, l ∉ c.empty) → ∃ t l, complete = .next t ∧ (t.core k).mq = rest ∧ (t.core k).latch = some l
          ∧ l.ty = m.a.ty ∧ l.kl = m.a.d0.extent.toNat ∧ l.nl = m.a.rows ∧ l.scl = m.ac.live
          ∧ (∀ i j, i < l.kl → l.kl ≤ 2048 → j < l.nl → m.a.eb ≤ 32 → l.elem i j = s.elem2 k m.a i j) ∧ (t.core k).accs = c.accs ∧ s.BytesSame t)
      ∧ (∀ mask, m.op = .ring mask → (m.ended = false → complete = .next s) ∧ (m.ended = true → complete = .next (set { c with mq := rest })))
      ∧ (∀ acc, m.op = .rd acc → c.clear k m = true → m.ac.live = false → s.MemOk → ∃ t, complete = .next t ∧ (t.core k).mq = rest ∧ t.MemOk
          ∧ (t.core k).ctx.flags = (m.rdWrites (c.acc acc)).foldl (fun (f : BitVec 5) w => f ||| w.2.2.flags) c.ctx.flags
          ∧ (∀ i j, i < m.a.rows → i < (shapeOf (c.acc acc).tall).1 → j < m.a.d0.extent.toNat → j < (shapeOf (c.acc acc).tall).2 →
              ((m.a.bit2 j i).toNat, m.a.eb, rdRound m.a.ty.toNat ((c.acc acc).elems.getD ((shapeOf (c.acc acc).tall).2 * i + j) 0)) ∈ m.rdWrites (c.acc acc))
          ∧ (∀ before w after, m.rdWrites (c.acc acc) = before ++ w :: after → (∀ y ∈ after, y.1 + y.2.1 ≤ w.1 ∨ w.1 + w.2.1 ≤ y.1) →
              t.padBits k w.1 w.2.1 = w.2.2.bits % 2 ^ w.2.1)
          ∧ (∀ x, (∀ w ∈ m.rdWrites (c.acc acc), x < placePad k (w.1 / 8) ∨ placePad k (w.1 / 8) + (w.1 % 8 + w.2.1 + 7) / 8 ≤ x) → t.byte x = s.byte x)))
    ∧ (∀ mask j, g < 768 → mask ≠ 0 → (∀ i, i < 8 → if mask.getLsbD i then s.ringAt (clusterCore g i) = some (mask, j) else s.ringAt (clusterCore g i) = none) →
        ∃ t, exec (.matRingRotation g) s = .next t
          ∧ (∀ i n, i < n → n < 8 → mask.getLsbD i = true → mask.getLsbD n = true → (∀ l, i < l → l < n → mask.getLsbD l = false) →
              (t.core (clusterCore g n)).latch = (s.core (clusterCore g i)).latch)
          ∧ (∀ i n, i ≤ n → n < 8 → mask.getLsbD i = true → mask.getLsbD n = true → (∀ l, l < i ∨ (n < l ∧ l < 8) → mask.getLsbD l = false) →
              (t.core (clusterCore g i)).latch = (s.core (clusterCore g n)).latch)
          ∧ ∀ i x, i < 8 → mask.getLsbD i = true → x ∈ (s.core (clusterCore g i)).mq → x.begun = true → x.ended = false →
              { x with ended := true } ∈ (t.core (clusterCore g i)).mq)

/-- R322, R327, R338 to R341, R344: a block is fetched when one of the two places is free and nothing earlier meets it; elements outside a view
are zero. At a decision point the slot's ready core issues its step, else the weighted round-robin's, the slot pointer moving on; a busy
count at twice the level holds a step back, and a filler runs where none is ready. An armed switch makes the pending table current. A
window's end moves the level by at most one, and not within 128 engine cycles of its last move. -/
def Obligations.MatrixArrayGranted : Prop :=
  ∀ (k g i : Nat) (m : MCmd) (rest : List MCmd) (pr : MmaPair) (tall ovr latch : Bool) (acc : BitVec 2) (s : State),
    let c := s.core k
    let e := (s.cluster g).engine
    let sh := shapeOf tall
    let eng (t : State) : Engine := (t.cluster g).engine
    let decide_ := exec (.blockStepDecision g) s
    let ready (j : Nat) : Prop := j < 8 ∧ ((s.core (clusterCore g j)).readyCmd).isSome = true
    let core := s.core (clusterCore g i)
    (m.op = .mma pr tall ovr latch acc → c.mq = m :: rest → (∀ x ∈ rest, x.id ≠ m.id) → m.begun = true → m.ended = false → m.staged < m.nk →
      (m.staged < m.issued + 2 → c.clear k m = true → (∀ l ∈ m.blockLines m.staged, l ∉ c.empty) →
        ∃ (t : State) (b : MBlock), exec (.operandFetch k) s = .next t ∧ (t.core k).mq = { m with staged := m.staged + 1, blocks := m.blocks ++ [b] } :: rest
          ∧ s.BytesSame t ∧ (t.core k).accs = c.accs
          ∧ (∀ r j, r < sh.1 → j < 32 → ((b.a.getD r []).getD j 0)
              = if r < m.a.rows ∧ 32 * m.staged + j < m.a.d0.extent.toNat then s.elem2 k m.a (32 * m.staged + j) r else 0)
          ∧ (latch = false → ∀ r j, r < sh.2 → j < 32 → ((b.b.getD r []).getD j 0)
              = if r < m.b.rows ∧ 32 * m.staged + j < m.b.d0.extent.toNat then s.elem2 k m.b (32 * m.staged + j) r else 0)
          ∧ (m.uniform = true → latch = false → ∀ r, (r < m.a.rows → r < sh.1 → b.sa.getD r 0 = m.scales.toNat % 256) ∧ (r < m.b.rows → r < sh.2 → b.sb.getD r 0 = m.scales.toNat / 256)))
      ∧ ((m.issued + 2 ≤ m.staged ∨ c.clear k m = false ∨ ∃ l ∈ m.blockLines m.staged, l ∈ c.empty) → exec (.operandFetch k) s = .next s))
    ∧ (s.cyc10 / 20 < s.nextWindow → e.coming = [] → s.cyc10 < e.freeAt → decide_ = .next s)
    ∧ (s.cyc10 / 20 < s.nextWindow → e.coming = [] → e.freeAt ≤ s.cyc10 → e.armed = none →
      (2 * e.level ≤ e.busy → (∃ j, ready j) → decide_ = .next (s.modCluster g fun x => { x with engine := { e with heldBack := true } }))
      ∧ (2 * e.level ≤ e.busy → (¬ ∃ j, ready j) → decide_ = .next s)
      ∧ (e.busy < 2 * e.level → (¬ ∃ j, ready j) →
          decide_ = .next (s.modCluster g fun x => { x with engine := { e with busy := e.busy + 4, filler := true, freeAt := s.cyc10 + 80 } }))
      ∧ (e.busy < 2 * e.level → core.readyCmd = some m → m.op = .mma pr tall ovr latch acc → i < 8 →
          (Map.get 8 e.cur e.p = i →
            decide_ = .next ((s.modCluster g fun x => { x with engine := { e with
              p := (e.p + 1) % 64, busy := e.busy + stepTime pr, freeAt := s.cyc10 + 20 * stepTime pr } }).modCore (clusterCore g i) fun c => c.blockStep m pr tall acc))
          ∧ (¬ ready (Map.get 8 e.cur e.p) → e.r ≤ i → (∀ j, e.r ≤ j → j < i → ¬ ready j) → 0 < Map.get 1 e.credit i →
            decide_ = .next ((s.modCluster g fun x => { x with engine := { e with
              credit := Map.put e.credit i (Map.get 1 e.credit i - 1), r := (i + 1) % 8
              p := (e.p + 1) % 64, busy := e.busy + stepTime pr, freeAt := s.cyc10 + 20 * stepTime pr } }).modCore (clusterCore g i) fun c => c.blockStep m pr tall acc))))
    ∧ (∀ due : XWord, e.armed = some due → e.coming = [] →
      (due.toNat ≤ s.dieTime (g / 96) → e.freeAt ≤ s.cyc10 → ∃ t, exec (.slotTableSwitch g) s = .next t ∧ (eng t).cur = e.pend ∧ (eng t).curW = e.pendW
          ∧ (eng t).p = 0 ∧ (eng t).r = 0 ∧ (eng t).armed = none ∧ (∀ j, j < 8 → Map.get 1 (eng t).credit j = Map.get 1 e.pendW j) ∧ (eng t).level = e.level
          ∧ s.BytesSame t ∧ ∀ h, h ≠ g → t.cluster h = s.cluster h)
      ∧ (s.dieTime (g / 96) < due.toNat → exec (.slotTableSwitch g) s = .next s))
    ∧ (e.armed = none → e.coming = [] → exec (.slotTableSwitch g) s = .next s)
    ∧ (s.cyc10 / 20 < s.nextWindow → exec .rampWindowEnd s = .next s)
    ∧ (s.nextWindow ≤ s.cyc10 / 20 → ∃ t, exec .rampWindowEnd s = .next t ∧ t.nextWindow = (s.cyc10 / 2560 + 1) * 128 ∧ t.cores = s.cores ∧ s.BytesSame t
        ∧ ((∃ n, e.movedAt = some n ∧ s.cyc10 / 20 < n + 128) → (eng t).level = e.level)
        ∧ ((∀ n, e.movedAt = some n → n + 128 ≤ s.cyc10 / 20) → (eng t).level = if e.heldBack = true ∧ e.filler = false then min 64 (e.level + 1) else if e.filler = true ∧ e.heldBack = false then e.level - 1 else e.level)
        ∧ (eng t).busy = 0 ∧ (eng t).heldBack = false ∧ (eng t).filler = false ∧ (eng t).cur = e.cur)

/-- R287, R288, R293: the result of one element's block step. A NaN scale, element or accumulator gives NaN, with NV for a signaling one only;
an invalid product or infinities of both signs NaN with NV; an infinite accumulator stays beside a finite sum; a sum of zero adds +0
whatever the scales; else the exact sum is rounded once. A block step writes element (i, j) of its shape at index N·i + j, and OVF counts
the elements it rounded to infinity. -/
def Obligations.BlockStepArithmetic : Prop :=
  ∀ (acc sa sb : Nat) (a b : List Val) (c : Core) (m : MCmd) (pr : MmaPair) (tall : Bool) (ac : BitVec 2) (blk : MBlock) (rest : List MBlock),
    let r := blockElem acc a b sa sb
    let x := decodeFp .f32 acc
    let ps := (List.zipWith mulVal a b).map fun p => p.val
    let isNan (v : Val) : Prop := v.isNan = true
    let isSig (v : Val) : Prop := v.isSig = true
    let anyNan := sa = 255 ∨ sb = 255 ∨ (∃ v ∈ a, isNan v) ∨ (∃ v ∈ b, isNan v) ∨ isNan x
    let bothInf := Val.inf false ∈ ps ∧ Val.inf true ∈ ps
    let noInf := Val.inf false ∉ ps ∧ Val.inf true ∉ ps
    let sum := ps.foldl (fun (u v : Val) => (addVal u v).val) (.zero false)
    let val (v : Val) : Rat := match v with | .fin n d e _ => (if n then -1 else 1) * d * (2 : Rat) ^ e | _ => 0
    (anyNan → r.bits = 0x7FC00000 ∧ r.toInf = false ∧ ((∃ v ∈ a, isSig v) ∨ (∃ v ∈ b, isSig v) ∨ isSig x → r.flags = 1)
        ∧ ((¬ ∃ v ∈ a, isSig v) → (¬ ∃ v ∈ b, isSig v) → ¬ isSig x → r.flags = 0))
    ∧ (¬ anyNan →
      ((∃ p ∈ ps, isNan p) ∨ bothInf → r.bits = 0x7FC00000 ∧ r.flags = 1)
      ∧ ((∀ p ∈ ps, ¬ isNan p) → ¬ bothInf → ∀ n, Val.inf n ∈ ps →
          (x = .inf (!n) → r.bits = 0x7FC00000 ∧ r.flags = 1) ∧ (x ≠ .inf (!n) → r = { bits := if n then 0xFF800000 else 0x7F800000 }))
      ∧ ((∀ p ∈ ps, ¬ isNan p) → noInf → ∀ n, x = .inf n → r = { bits := if n then 0xFF800000 else 0x7F800000 })
      ∧ ((∀ p ∈ ps, ¬ isNan p) → noInf → acc < 2 ^ 32 →
          (∃ n d e, sum = .fin n d e false ∧ val sum = (ps.map val).sum)
          ∧ (sum.isZero = true → (∀ n, x ≠ .inf n) → r.flags = 0 ∧ r.bits = if acc = 0x80000000 then 0 else acc)
          ∧ (sum.isZero = false → (∀ n, x ≠ .inf n) → r = roundFp .f32 .rne .inf (addVal x (sum.scale ((sa : Int) + sb - 254))).val)))
    ∧ (m.blocks = blk :: rest → (∀ y ∈ c.mq, y.id = m.id → y = m) →
        let sh := shapeOf tall
        let el (i j : Nat) : Rounded :=
          blockElem ((c.acc ac).elems.getD (sh.2 * i + j) 0) ((blk.a.getD i []).map (codeVal (pairTypes pr).1)) ((blk.b.getD j []).map (codeVal (pairTypes pr).2))
            (blk.sa.getD i 0) (blk.sb.getD j 0)
        let t := c.blockStep m pr tall ac
        blk.a.length = sh.1 → blk.sa.length = sh.1 → blk.b.length = sh.2 → blk.sb.length = sh.2 →
          (∀ i j, i < sh.1 → j < sh.2 → (t.acc ac).elems.getD (sh.2 * i + j) 0 = (el i j).bits % 2 ^ 32)
          ∧ (t.acc ac).ovf = BitVec.ofNat 32 (min ((c.acc ac).ovf.toNat
              + ((List.range 1024).filter fun n => (el (n / sh.2) (n % sh.2)).toInf).length) (2 ^ 32 - 1))
          ∧ (∀ n, n ≠ ac → t.acc n = c.acc n) ∧ t.count.msteps = c.count.msteps + 1 ∧ t.xs = c.xs ∧ t.vs = c.vs
          ∧ ∀ y ∈ t.mq, y.id = m.id → y.blocks = rest ∧ y.issued = m.issued + 1 ∧ (y.ended = true ↔ m.nk ≤ m.issued + 1))

/-! Copies, messages, actors, tasks. -/

/-- R173, R178, R183, R184, R194 to R196: engine registers keep their defined bits; `cpgo` queues the described copy under a fresh id, makes its
tag busy and clears its TAGS bit; `cpcancel` ends a queued copy with status 8, stops a running one and takes the push from one that only
waits to make it (this last is the model's choice, notes/assumptions/111.md); the tag instructions find, wait for, clear and report tags. -/
def Obligations.CopyLaunchAndTags : Prop :=
  ∀ (rd : BitVec 5) (sa sb : Src) (s : State), s.Ready (src2 sa sb) rd →
    let a := s.c.x sa.n
    let c := s.c
    let first (set : XWord) (u : Nat) : Prop :=
      ∃ j, j < 64 ∧ u = (c.ctx.rot.toNat + j) % 64 ∧ set.getLsbD u = true ∧ ∀ i, i < j → set.getLsbD ((c.ctx.rot.toNat + i) % 64) = false
    let finds (i : Instr) (u : Nat) (rot : BitVec 6) : Prop :=
      ∃ t, exec i s = .next t ∧ t.c.pc = c.pc + 4 ∧ t.c.ctx.instret = c.ctx.instret + 1 ∧ t.c.ctx.rot = rot ∧ t.c.ctx.tags = c.ctx.tags
        ∧ (∀ key, t.c.regAt key = (c.setX rd (BitVec.ofNat 64 u)).regAt key) ∧ s.BytesSame t
    /- Registers. -/
    (∀ n : BitVec 5, n.toNat ≤ 13 →
      (∃ t, exec (.cpw n sa) s = .next t ∧ Completed (s.modC fun c => { c with ctx := { t.c.ctx with instret := c.ctx.instret } }) t (c.pc + 4)
        ∧ (t.c.ctx.ceReg n.toNat = a &&& ceMask n.toNat) ∧ (∀ k, k ≠ n.toNat → t.c.ctx.ceReg k = c.ctx.ceReg k)
        ∧ { t.c.ctx with ce := c.ctx.ce, instret := c.ctx.instret, fevs := c.ctx.fevs } = c.ctx)
      ∧ Completes (.cpr rd n) s (s.modC fun c => c.setX rd (c.ctx.ceReg n.toNat)))
    ∧ (∃ t, exec (.cpr rd 14) s = .next t
        ∧ RegWritten s t rd (BitVec.ofNat 64 (c.copySeq.toNat * 2 ^ 32 + c.heldCopies % 128 * 2 ^ 8 + c.ctx.rot.toNat)) ∧ s.BytesSame t)
    /- The launch. -/
    ∧ (let x := s.describe a (s.c.x sb.n)
       (∀ g ∈ s.launchGates x, g = .go) → c.busy x.tag = false → c.out = [] → c.heldCopies < 64 → c.cmdq.length < 2 →
        ∃ t, exec (.cpgo rd sa sb) s = .next t ∧ t.c.pc = c.pc + 4 ∧ t.c.ctx.instret = c.ctx.instret + 1
          ∧ (∀ key, t.c.regAt key = (c.setX rd (BitVec.ofNat 64 (c.copySeq.toNat * 65536 + x.tag))).regAt key)
          ∧ t.c.copies = c.copies ++ [x] ∧ x.st = .queued ∧ t.c.copySeq = c.copySeq + 1 ∧ s.BytesSame t
          ∧ (∀ i, t.c.tagBusy.getLsbD i = (c.tagBusy.getLsbD i || decide (i = x.tag)))
          ∧ ∀ i, t.c.ctx.tags.getLsbD i = (c.ctx.tags.getLsbD i && decide (i ≠ x.tag)))
    ∧ (let x := s.describe a (s.c.x sb.n)
       x.ctl.getLsbD 16 = false → x.ctl.getLsbD 17 = false → (0 ∈ x.src.ext ∨ 0 ∈ x.dst.ext) →
        Traps (.cpgo rd sa sb) s 20 (BitVec.ofNat 64 (2 ^ 60)))
    ∧ (∀ x, c.copyOf a.toNat = some x → c.out = [] →
        (x.st = .queued → x.detached = false → c.act ≠ none → x.act = c.uid → c.ctx.wany = [] →
          ∃ t, exec (.cpcancel sa) s = .next t ∧ t.c.pc = c.pc + 4 ∧ t.c.ctx.instret = c.ctx.instret + 1 ∧ (∀ y ∈ t.c.copies, y.id ≠ x.id)
            ∧ Map.get 0 t.c.tagStat x.tag = 8 ∧ (x.tag < 64 → t.c.busy x.tag = false ∧ t.c.ctx.tags.getLsbD x.tag = true))
        ∧ (∀ st, x.st = .acting st → x.ctl.extractLsb' 4 2 = 2 → x.detached = false → c.act ≠ none → x.act = c.uid → c.ctx.wany = [] →
          ∃ t, exec (.cpcancel sa) s = .next t ∧ t.c.pc = c.pc + 4 ∧ t.c.ctx.instret = c.ctx.instret + 1 ∧ (∀ y ∈ t.c.copies, y.id ≠ x.id) ∧ t.c.deque = c.deque
            ∧ (c.busy x.tag = true → t.c.tagStat = c.tagStat) ∧ (c.busy x.tag = false → Map.get 0 t.c.tagStat x.tag = 8))
        ∧ (x.st = .running → ∃ t y, exec (.cpcancel sa) s = .next t ∧ t.c.pc = c.pc + 4 ∧ t.c.copyOf a.toNat = some y ∧ y.st = .cancelling))
    /- Tags. -/
    ∧ (c.tagBusy &&& a = 0 → Completes (.tagWall sa) s s) ∧ (c.tagBusy &&& a ≠ 0 → Waits (.tagWall sa) s)
    ∧ (∀ u, first (a &&& c.ctx.tags) u → finds (.tagWany rd sa) u (BitVec.ofNat 6 (u + 1)) ∧ finds (.tagFfr rd sa) u (BitVec.ofNat 6 (u + 1)))
    ∧ (a &&& c.ctx.tags = 0 → finds (.tagFfr rd sa) 64 c.ctx.rot ∧ (c.tagBusy &&& a = 0 → finds (.tagWany rd sa) 64 c.ctx.rot))
    ∧ (a &&& c.ctx.tags = 0 → c.tagBusy &&& a ≠ 0 → rd ≠ 0 →
        ∃ t, exec (.tagWany rd sa) s = .next t ∧ t.c.pc = c.pc + 4 ∧ (t.c.reg rd.toNat).full = false ∧ t.c.ctx.wany = c.ctx.wany ++ [⟨c.key rd.toNat, a⟩])
    ∧ (∃ tags, Completes (.tagClr sa) s (s.modC fun c => { c with ctx := { c.ctx with tags := tags } })
        ∧ ∀ i, i < 64 → tags.getLsbD i = (c.ctx.tags.getLsbD i && (!a.getLsbD i || c.tagBusy.getLsbD i)))
    ∧ ∃ t, exec (.tagTest rd sa) s = .next t ∧ s.BytesSame t
        ∧ RegWritten s t rd ((Map.get 0 c.tagStat (a.toNat % 64)).setWidth 64 ||| if c.tagBusy.getLsbD (a.toNat % 64) then 2 else 0)

/-- R185, R189, R191: the first queued copy starts where nothing holds it back; a good read reply of a copy to its own scratchpad stores its
bytes; a copy that has made every access and is quiet ends with status 1, one that fails with FAIL and its cause and a record in the job's
error queue; its tag is no longer busy and is set. -/
def Obligations.CopyRunsAndEnds : Prop :=
  ∀ (k id pid : Nat) (x : Copy) (s : State), s.MemOk → isCore k = true →
    let c := s.core k
    let ended (t : State) (status : Nat) : Prop :=
      (t.core k).copyOf id = none ∧ Map.get 0 (t.core k).tagStat x.tag = BitVec.ofNat 16 status ∧ (t.core k).busy x.tag = false
        ∧ (t.core k).ctx.tags.getLsbD x.tag = true
    let mine := x.detached = false ∧ c.act ≠ none ∧ x.act = c.uid ∧ c.ctx.wany = [] ∧ x.tag < 64
    (c.copies.find? (fun y => decide (y.st = .queued)) = some x → x.nomark = true → (c.copies.filter fun y => decide (y.st ≠ .queued) && !y.ended).length < 4 →
      s.heldBack k x = false → c.l1Dirty = false → (∀ p ∈ c.posted, p.kind ≠ 3) → c.copyOf x.id.toNat = some x →
      ∃ t y, exec (.copyStart k) s = .next t ∧ (t.core k).copyOf x.id.toNat = some y ∧ y.st = .running ∧ s.BytesSame t)
    ∧ (∀ p r d, s.Arrives pid p → s.takes p = true → p.body = .readRep r 0 d → r.copy = true → r.core = k → r.owner = id → c.copyOf id = some x →
        x.st = .running → ∀ q, x.asked.find? (fun q => decide (q.part = r.part)) = some q → ∀ tgt, s.copyTarget k x (x.dstAt r.part) .write true = .ok tgt → tgt.region = .own → 0 < x.unit →
        let n := q.n * x.unit
        tgt.place % 128 + n ≤ 128 →
      ∃ t, exec (.copyReadReply pid) s = .next t ∧ t.MemOk ∧ t.load tgt.place n = lineBytes d ((x.srcAt r.part).toNat % 128) n
        ∧ ∀ b, b < tgt.place ∨ tgt.place + n ≤ b → t.byte b = s.byte b)
    ∧ (c.copyOf id = some x → mine → x.st = .running → x.quiet = true → x.todo = [] → x.marked = [] → x.action = 0 →
      ∃ t, exec (.copyComplete k id) s = .next t ∧ ended t 1 ∧ s.BytesSame t)
    ∧ (∀ cause va wr n, c.copyOf id = some x → mine → x.st = .failing cause va wr n → x.quiet = true → x.marked = [] → x.action = 0 → cause < 256 →
      ∃ t e, exec (.copyFail k id) s = .next t ∧ ended t (4 + cause * 256) ∧ e ∈ (t.job x.job).errs ∧ e.addr = va ∧ e.cause.toNat = cause
        ∧ (e.kind.toNat = if wr then 5 else 4) ∧ e.size = BitVec.ofNat 8 n)

/-- R199 to R212: a send puts one packet on the network, to the home of its class and key, with the header fields of its control word, the
activation's sender fields and stamp and the payload bytes behind its block; a multicast is one packet with a destination for each listed
key; a forwarded message carries its own payload to its new key, once; nothing of the core's registers or of memory changes. R213:
`msg.done` ends the activation once no access, plain copy, matrix command or event of it is left and its views are retired: the core is
between activations, nothing of its registers is left, and, but for a task, the home is told. -/
def Obligations.MessagesSentAndActivationDone : Prop :=
  (∀ (flags : BitVec 3) (sa sb : Src) (q : BitVec 4) (a : Act) (s : State), s.c.act = some a → s.c.SrcsReady (src2 sa sb) →
    let b := (s.c.x sa.n).toNat
    let key := s.c.x sb.n
    let ctl := s.load (placePad s.cur b) 8
    let aux : XWord := BitVec.ofNat 64 (s.load (placePad s.cur (b + 8)) 8)
    let len := ctl / 2 ^ 18 % 256
    let sel : BitVec 6 := BitVec.ofNat 6 (ctl / 2 ^ 12)
    let cls : BitVec 12 := BitVec.ofNat 12 ctl
    let quiet (t : State) (p : Packet) : Prop :=
      t.c.pc = s.c.pc + 4 ∧ t.c.ctx.instret = s.c.ctx.instret + 1 ∧ t.c.xs = s.c.xs ∧ t.c.vs = s.c.vs ∧ s.BytesSame t ∧ t.net = s.net ++ [p]
        ∧ p.src = s.cur ∧ ∀ k, k ≠ s.cur → t.core k = s.core k
    let signed (m : Msg) : Prop :=
      m.job = a.job ∧ m.score = s.cur ∧ m.kind = (if a.kind = .task then 1 else 0) ∧ m.stamp = (if a.desc.explicit then s.c.ctx.stamp else s.c.ctx.entryStamp + 1)
        ∧ m.scls = (if a.kind = .task then 0 else a.cls) ∧ m.skey = (if a.kind = .task then BitVec.ofNat 64 s.cur else a.key)
    let sent (i : Instr) (k : XWord) (body : Msg → Prop) : Prop :=
      ∃ t p m, exec i s = .next t ∧ quiet t p ∧ p.body = .msg m ∧ p.legs = [] ∧ m.key = k ∧ m.cls = cls ∧ m.sel = sel ∧ m.flags = flags ∧ m.len = len
        ∧ signed m ∧ body m ∧ (cls ≠ 0 → p.dst = epHome (s.home cls k))
    let payload := Memory.readList s.mem (placePad s.cur (b + 16)) len
    (len ≤ 224 → s.PadReady b (16 + len) → s.CanSend cls sel key len →
      sent (.msgSend flags sa sb) key (fun m => m.payload = payload ∧ m.reply = false ∧ m.timed = false)
      ∧ sent (.msgReply flags sa sb) key (fun m => m.payload = payload ∧ m.reply = true ∧ m.timed = false)
      ∧ sent (.msgAt flags sa sb) key (fun m => m.payload = payload ∧ m.reply = false ∧ m.timed = true ∧ m.time = aux))
    ∧ (let v := s.c.view q.toNat
       let ls := v.lanes 0
       len ≤ 224 → s.PadReady b 16 → s.CanSend cls sel aux len → v.live = true → v.canRead = true → len ≤ (v.runLanes 0 * v.eb + 7) / 8 →
       (∀ l ∈ ls, l.va.toNat + (l.bit + l.width + 7) / 8 ≤ s.c.spsize ∧ ∀ o, l.va.toNat ≤ o → o < l.va.toNat + (l.bit + l.width + 7) / 8 →
         s.c.lineFull o = true ∧ s.ecc.contains (lineOf (placePad s.cur o)) = false) →
       (∀ x ∈ s.c.pendingSpans s.cur, (v.toSpan s.cur false).ordered x = false) →
        sent (.msgSendv flags sa q) aux (fun m => m.payload.length = len
          ∧ (v.eb = 8 → ∀ i, i < len → m.payload[i]? = some (s.byte (placePad s.cur (v.bitAddr (fun k => if k = 0 then i else 0) / 8).toNat)))))
    ∧ (let at_ := key.toNat
       let n := s.load (placePad s.cur at_) 8
       1 ≤ n → n ≤ 32 → len ≤ 224 → s.PadReady b (16 + len) → s.PadReady at_ (8 + 8 * n) →
       (∀ i, i < n → s.CanSend cls sel (BitVec.ofNat 64 (s.load (placePad s.cur (at_ + 8 + 8 * i)) 8)) len) →
        ∃ t p, exec (.msgMcast flags sa sb) s = .next t ∧ quiet t p ∧ p.legs.length = n - 1
          ∧ (p.copies.filterMap Packet.msg?).map Msg.key = (List.range n).map (fun i => BitVec.ofNat 64 (s.load (placePad s.cur (at_ + 8 + 8 * i)) 8))
          ∧ ∀ m ∈ p.copies.filterMap Packet.msg?, m.payload = payload ∧ m.cls = cls ∧ m.sel = sel ∧ signed m)
    ∧ (a.kind = .actor → a.forwarded = false → s.CanSend a.cls a.msg.sel (s.c.x sa.n) a.msg.len →
        ∃ t p m, exec (.msgFwd sa) s = .next t ∧ quiet t p ∧ p.body = .msg m ∧ m.key = s.c.x sa.n ∧ m.payload = a.msg.payload ∧ m.stamp = a.msg.stamp
          ∧ m.fwd = some ⟨a.cls, a.key, s.cur⟩ ∧ t.c.act = some { a with forwarded := true })
    ∧ ((a.kind ≠ .actor ∨ a.forwarded = true) → Traps (.msgFwd sa) s 19 (BitVec.ofNat 64 (6 * 2 ^ 60)))
    ∧ (224 < len → s.PadReady b 16 → Traps (.msgSend flags sa sb) s 19 (BitVec.ofNat 64 (2 * 2 ^ 60))))
  ∧ (∀ (a : Act) (s : State), s.c.act = some a →
    (s.c.out = [] → (∀ x ∈ s.c.copies, x.act = s.c.uid → x.plain = true → x.detached = true) → (∀ m ∈ s.c.mq, m.act ≠ s.c.uid) → s.c.events = [] →
      s.c.accEcc = [] → (∀ q, q < 16 → (s.c.view q).live = false) →
      ∃ t, exec .msgDone s = .next t ∧ t.c.act = none ∧ t.c.xs = [] ∧ t.c.vs = [] ∧ t.c.ctx = {} ∧ s.BytesSame t
        ∧ (a.kind ≠ .task → ∃ p ∈ t.net, p.src = s.cur ∧ p.dst = epHome a.home ∧ p.body = .done a.cls a.key a.eid)
        ∧ ∀ k, k ≠ s.cur → t.core k = s.core k)
    ∧ (s.c.out ≠ [] → Waits .msgDone s)
    ∧ (s.c.out = [] → (∃ m ∈ s.c.mq, m.act = s.c.uid) → Waits .msgDone s)
    ∧ (s.c.out = [] → (∃ x ∈ s.c.copies, x.act = s.c.uid ∧ x.ctl.extractLsb' 4 2 = 0 ∧ x.detached = false) → Waits .msgDone s))

/-- R245 to R247: an actor instruction sends its request to the actor's home and changes no register; `act.probe` leaves its destination empty
until the reply; a class below 64, one the job cannot address or one whose domain names no place is the message fault with reason 1, a move
to a core outside the class's domain reason 7. That the selector bits of TVAL are 0 for reason 1 is the model's choice
(notes/assumptions/62.md). -/
def Obligations.ActorRequestsSent : Prop :=
  ∀ (rd : BitVec 5) (sa sb : Src) (s : State), s.c.SrcsReady (src2 sa sb) → s.c.out = [] →
    let w := s.c.x sa.n
    let key := s.c.x sb.n
    let cls : BitVec 12 := w.extractLsb' 0 12
    let dst := w.toNat / 2 ^ 16 % 2 ^ 13
    let sends (i : Instr) (kind : AReqKind) : Prop :=
      ∃ t p r, exec i s = .next t ∧ t.c.pc = s.c.pc + 4 ∧ t.c.ctx.instret = s.c.ctx.instret + 1 ∧ t.c.xs = s.c.xs ∧ s.BytesSame t ∧ t.net = s.net ++ [p]
        ∧ p.src = s.cur ∧ p.dst = epHome (s.home cls key) ∧ p.body = .areq r ∧ r.kind = kind ∧ r.cls = cls ∧ r.key = key ∧ r.dst = dst ∧ r.core = s.cur
        ∧ ∀ k, k ≠ s.cur → t.core k = s.core k
    (64 ≤ cls.toNat → s.reachable s.c.jobNum cls = true →
      sends (.actRetire sa sb) .retire ∧ sends (.actPin sa sb) .pin ∧ sends (.actUnpin sa sb) .unpin
      ∧ (isCore dst = true → s.domainHas cls dst = true → sends (.actMove sa sb) .move)
      ∧ (¬ (isCore dst = true ∧ s.domainHas cls dst = true) → Traps (.actMove sa sb) s 19 (BitVec.ofNat 64 (7 * 2 ^ 60)))
      ∧ (s.c.DestReady rd → rd ≠ 0 →
          ∃ t p r acc, exec (.actProbe rd sa sb) s = .next t ∧ t.c.pc = s.c.pc + 4 ∧ (t.c.reg rd.toNat).full = false ∧ t.c.out = [acc] ∧ acc.st = .pending
            ∧ t.net = s.net ++ [p] ∧ p.dst = epHome (s.home cls key) ∧ p.body = .areq r ∧ r.kind = .probe ∧ r.acc = acc.id))
    ∧ ((cls.toNat < 64 ∨ s.reachable s.c.jobNum cls = false) →
        ∀ i ∈ [Instr.actRetire sa sb, .actPin sa sb, .actUnpin sa sb, .actMove sa sb, .actProbe rd sa sb],
          Traps i s 19 (BitVec.ofNat 64 (2 ^ 60 + cls.toNat)))

/-- R251, R255, R256, R273: `fork` adds one entry to its core's own deque, with the next task id, the pusher, the parent and the stamp of a
send, and is the task fault with reason 1 at 56 entries, a running or pre-empted task's entry counted among them and in the room of 64 by
the model's choice (notes/assumptions/77.md); a class that is not addressable is the message fault with reason 1, whose TVAL has selector
bits of 0, which is the model's choice (notes/assumptions/62.md). R259, R260, R261, R273, on a record of the own scratchpad: `jc.init` and
`dep.init` write DW0 and nothing else, and are the task fault with reason 2 for a count of zero or of 2³² and more. `jc.arrive`, `dep.dec`
and `dep.read` complete at issue with one access outstanding, `dep.read` with its destination marked empty; a decrement takes one from DW0,
and writes nothing where the kind is wrong or the count is zero. When the core then takes the answer, the access is outstanding no more and
`dep.read` fills its destination with DW0; the last decrement pushes the task, or sends the continuation, of DW1 to DW3, which is done when
the answer is taken, by the model's choice (notes/assumptions/71.md); a wrong kind marks the access with the underflow reason 2, a zero
count with reason 1. R264, R265: `bar.arrive` sets its core's bit in ARRIVED and writes PHASE, or, where that bit is set already, sets it in
PENDING and writes the opposite of PHASE; `bar.wait` completes once PHASE differs from bit 0 of its operand, and waits before; a core that
is no party of the barrier for its job is the task fault with reason 3. A phase completes where ARRIVED equals PARTIES, of which there is
one. -/
def Obligations.TasksCountersAndBarriers : Prop :=
  (∀ (rd : BitVec 5) (sa sb : Src) (act : Act) (s : State), s.MemOk → s.c.act = some act → s.c.SrcsReady (src2 sa sb) →
    let a := s.c.x sa.n
    let n := (s.c.x sb.n).toNat
    let p := placePad s.cur a.toNat
    let dw (i : Nat) : XWord := BitVec.ofNat 64 (s.load (p + 8 * i) 8)
    let w := s.load p 8
    let cls (x : XWord) : BitVec 12 := x.extractLsb' 32 12
    let stamp := if act.desc.explicit then s.c.ctx.stamp else s.c.ctx.entryStamp + 1
    let pushed (x : Task) (word arg : XWord) : Prop :=
      x.word = word ∧ x.arg = arg ∧ x.job = act.job ∧ x.pusher = s.cur ∧ x.tid = BitVec.ofNat 64 (s.cur * 2 ^ 32 + s.c.pushes % 2 ^ 32) ∧ x.stamp = stamp
        ∧ x.parent = if act.kind = .task then act.task.tid else 0
    let passed (t : State) : Prop :=
      t.c.pc = s.c.pc + 4 ∧ t.c.ctx.instret = s.c.ctx.instret + 1 ∧ t.c.vs = s.c.vs ∧ ∀ k, k ≠ s.cur → t.core k = s.core k
    let wrote (t : State) (v : Nat) : Prop := t.MemOk ∧ t.load p 8 = v ∧ ∀ q, q < p ∨ p + 8 ≤ q → t.byte q = s.byte q
    /- Fork. -/
    (s.addressable s.c.jobNum (cls a) = true → a.toNat % 4 = 0 →
      (s.c.dequeUsed < 56 → s.c.Released →
        ∃ t x, exec (.fork sa sb) s = .next t ∧ passed t ∧ t.c.xs = s.c.xs ∧ t.c.out = [] ∧ t.c.deque = s.c.deque ++ [x] ∧ pushed x a (s.c.x sb.n) ∧ s.BytesSame t)
      ∧ (56 ≤ s.c.dequeUsed → Traps (.fork sa sb) s 21 (BitVec.ofNat 64 (2 ^ 60))))
    ∧ (s.addressable s.c.jobNum (cls a) = false → Traps (.fork sa sb) s 19 (BitVec.ofNat 64 (2 ^ 60 + (cls a).toNat)))
    /- The set-up of counters. -/
    ∧ (a.toNat % 32 = 0 → a.toNat + 32 ≤ s.c.spsize →
      (s.c.Released → s.OwnAt a 8 true → 1 ≤ n → n < 2 ^ 32 →
        (∃ t, exec (.jcInit sa sb) s = .next t ∧ Completed (({ s with mem := t.mem } : State).unlogSaved s.cur (a.toNat / 128)) t (s.c.pc + 4) ∧ wrote t (2 ^ 62 + n))
        ∧ ∃ t, exec (.depInit sa sb) s = .next t ∧ Completed (({ s with mem := t.mem } : State).unlogSaved s.cur (a.toNat / 128)) t (s.c.pc + 4) ∧ wrote t (2 * 2 ^ 62 + n))
      ∧ ((n = 0 ∨ 2 ^ 32 ≤ n) → Traps (.jcInit sa sb) s 21 (BitVec.ofNat 64 (2 * 2 ^ 60)) ∧ Traps (.depInit sa sb) s 21 (BitVec.ofNat 64 (2 * 2 ^ 60))))
    /- Decrements: `t` is the state after the instruction, `u` that after its answer has been taken. -/
    ∧ (s.c.Released → s.c.blocked = none → s.OwnAt a 32 true → s.LineReady a →
      ∀ i k, (i, k) ∈ [(Instr.jcArrive sa, 1), (Instr.depDec sa, 2)] →
        ∃ t b, exec i s = .next t ∧ passed t ∧ t.c.xs = s.c.xs ∧ t.c.deque = s.c.deque ∧ t.net = s.net ∧ t.c.out = [b] ∧ b.va = a ∧ b.pc = s.c.pc
          ∧ let u := t.fillOwn s.cur
            (w / 2 ^ 62 = k → w % 2 ^ 32 ≠ 0 → wrote t (w - 1))
            ∧ (w / 2 ^ 62 ≠ k → s.BytesSame t ∧ u.c.out = [{ b with st := .underflow 2 }])
            ∧ (w / 2 ^ 62 = k → w % 2 ^ 32 = 0 → s.BytesSame t ∧ u.c.out = [{ b with st := .underflow 1 }])
            ∧ (w / 2 ^ 62 = k → 1 < w % 2 ^ 32 → u.c.out = [] ∧ u.c.deque = s.c.deque ∧ u.net = s.net)
            ∧ (k = 2 → w / 2 ^ 62 = k → w % 2 ^ 32 = 1 → s.addressable s.c.jobNum (cls (dw 1)) = true → s.c.dequeUsed < 64 →
                ∃ x, u.c.out = [] ∧ u.c.deque = s.c.deque ++ [x] ∧ pushed x (dw 1) (dw 2) ∧ u.net = s.net)
            ∧ (k = 1 → w / 2 ^ 62 = k → w % 2 ^ 32 = 1 → (dw 1).extractLsb' 18 8 = 8 → (dw 1).extractLsb' 0 12 ≠ 0 →
                s.CanSend ((dw 1).extractLsb' 0 12) ((dw 1).extractLsb' 12 6) (dw 2) 8 →
                ∃ q m, u.c.out = [] ∧ u.c.deque = s.c.deque ∧ u.net = s.net ++ [q] ∧ q.src = s.cur
                  ∧ q.dst = epHome (s.home ((dw 1).extractLsb' 0 12) (dw 2)) ∧ q.body = .msg m ∧ m.cls = (dw 1).extractLsb' 0 12
                  ∧ m.sel = (dw 1).extractLsb' 12 6 ∧ m.key = dw 2 ∧ m.len = 8 ∧ m.payload = leBytes 8 (dw 3).toNat ∧ m.stamp = stamp ∧ m.job = act.job))
    /- The read of a counter. -/
    ∧ (s.c.out = [] → s.c.blocked = none → s.c.DestReady rd → s.OwnAt a 32 false → s.LineReady a →
        ∃ t b, exec (.depRead rd sa) s = .next t ∧ passed t ∧ s.BytesSame t ∧ t.c.out = [b] ∧ (rd ≠ 0 → (t.c.reg rd.toNat).full = false)
          ∧ (∀ key, key ≠ s.c.destKey rd → t.c.regAt key = s.c.regAt key)
          ∧ (t.fillOwn s.cur).c.out = [] ∧ ∀ key, (t.fillOwn s.cur).c.regAt key = (s.c.setX rd (dw 0)).regAt key))
  ∧ (∀ (rd : BitVec 5) (n : BitVec 4) (sa : Src) (g : Nat) (s : State),
    let b := s.bar (coreCluster s.cur) n.toNat
    let i := coreK s.cur
    let party := b.en = true ∧ b.job.toNat = s.c.jobNum ∧ b.parties.getLsbD i = true
    let others (t : State) (g m : Nat) : Prop := ∀ h l, (h, l) ≠ (g, m) → t.bar h l = s.bar h l
    (party → s.c.DestReady rd → s.c.Released → b.pending.getLsbD i = false →
      (b.arrived.getLsbD i = false → ∃ t, exec (.barArrive rd n) s = .next t ∧ RegWritten s t rd (if b.phase then 1 else 0) ∧ s.BytesSame t
        ∧ t.bar (coreCluster s.cur) n.toNat = { b with arrived := b.arrived ||| (1 <<< i) } ∧ others t (coreCluster s.cur) n.toNat)
      ∧ (b.arrived.getLsbD i = true → ∃ t, exec (.barArrive rd n) s = .next t ∧ RegWritten s t rd (if b.phase then 0 else 1) ∧ s.BytesSame t
        ∧ t.bar (coreCluster s.cur) n.toNat = { b with pending := b.pending ||| (1 <<< i) } ∧ others t (coreCluster s.cur) n.toNat))
    ∧ (party → b.pending.getLsbD i = true → Waits (.barArrive rd n) s)
    ∧ (¬ party → Traps (.barArrive rd n) s 21 (BitVec.ofNat 64 (3 * 2 ^ 60)))
    ∧ (s.c.SrcsReady (src1 sa) →
        (party → b.phase ≠ (s.c.x sa.n).getLsbD 0 → s.c.l1Dirty = false → s.c.LogRoom →
          ∃ o, o.map (fun a : Access => { a with stale := false }) = s.c.out.map (fun a => { a with stale := false })
            ∧ Completes (.barWait sa n) s (s.modC fun c => { c with out := o, l1 := [] }))
        ∧ (party → b.phase = (s.c.x sa.n).getLsbD 0 → Waits (.barWait sa n) s)
        ∧ (¬ party → Traps (.barWait sa n) s 21 (BitVec.ofNat 64 (3 * 2 ^ 60))))
    ∧ (let b := s.bar g n.toNat
       b.en = true → b.parties ≠ 0 → b.arrived = b.parties →
        ∃ t, exec (.barrierPhaseComplete g n.toNat) s = .next t ∧ t.bar g n.toNat = { b with phase := !b.phase, arrived := b.pending, pending := 0 }
          ∧ others t g n.toNat ∧ s.BytesSame t)
    ∧ ((s.bar g n.toNat).arrived ≠ (s.bar g n.toNat).parties → exec (.barrierPhaseComplete g n.toNat) s = .next s))

/-! Targets, cores, homes. -/

/-- R120, R135, R138, R139, R140, R142, R258, R260, at the target, as a packet arrives there: a read request is answered with its line, or with
the cause of R135; a posted store writes the bytes of its mask and no other (the reserved bits of a block tag stay zero, R146), a posted
mark changes its line's full/empty state, and each is acknowledged, with its cause where it fails and changes nothing; an atomic writes its
new value as one event and returns the old one; a counter operation decrements its record and reports a zero, or its failure. -/
def Obligations.TargetsServeRequests : Prop :=
  ∀ (pid : Nat) (p : Packet) (s : State), s.MemOk → s.Arrives pid p → s.takes p = true →
    let gone := s.net.filter fun x => decide (x.id ≠ pid)
    let reply (t : State) (dst : Nat) (b : Body) : Prop := ∃ q ∈ t.net, q.src = p.dst ∧ q.dst = dst ∧ q.body = b
    let only (t : State) (at_ n : Nat) : Prop := t.MemOk ∧ ∀ x, x < at_ ∨ at_ + n ≤ x → t.byte x = s.byte x
    (∀ r, p.body = .read r →
      let f := s.placeFail p.dst r.line
      ∃ t q, exec (.readRequest pid) s = .next t ∧ s.BytesSame t ∧ t.net = gone ++ [q] ∧ q.src = p.dst ∧ q.dst = r.core ∧ q.cls = p.cls
        ∧ q.body = .readRep r f (if f = 0 then s.line r.line else 0))
    ∧ (∀ q, p.body = .posted q →
      let f := s.placeFail p.dst q.line
      let k := padCore q.line
      q.ep = p.dst →
      ∃ t, exec (.postedOperation pid) s = .next t ∧ reply t p.holder (.ack p.rtag p.gen p.seq f)
        ∧ (f ≠ 0 → s.BytesSame t)
        ∧ (f = 0 → q.kind ≠ 1 → q.kind ≠ 2 →
            only t q.line 128 ∧ ∀ i, i < 128 → t.byte (q.line + i) =
              if q.mask.getLsbD i then lineByte (if isTag q.line then tagLine q.data else q.data) i else s.byte (q.line + i))
        ∧ (f = 0 → (q.kind = 1 ∨ q.kind = 2) → q.last = false →
            s.BytesSame t ∧ ∀ l, (t.core k).lineFull (128 * l) =
              if l = padOff q.line / 128 then decide (q.kind = 2) else (s.core k).lineFull (128 * l)))
    ∧ (∀ r, p.body = .atomic r → s.placeFail p.dst (lineOf r.addr) = 0 →
      let n := if r.dbl then 8 else 4
      let old := s.load r.addr n
      ∃ t, exec (.atomicRequest pid) s = .next t ∧ only t r.addr n
        ∧ reply t r.core (.atomicRep r.acc 0 (amoResult r.op r.dbl old) (if r.op = .fadd then (faddFn .s (BitVec.ofNat 64 old) r.b).2 else 0) r.va)
        ∧ t.load r.addr n = (amoNew r.op r.dbl (BitVec.ofNat 64 old) r.b r.c).1.toNat % 2 ^ (8 * n)
        ∧ (r.op = .add → t.load r.addr n = (old + r.b.toNat) % 2 ^ (8 * n)) ∧ (r.op = .swap → t.load r.addr n = r.b.toNat % 2 ^ (8 * n))
        ∧ (r.op = .cas → r.dbl = true → t.load r.addr n = if old = r.b.toNat then r.c.toNat else old))
    ∧ (∀ r f, p.body = .atomic r → s.placeFail p.dst (lineOf r.addr) = f → f ≠ 0 →
      ∃ t, exec (.atomicRequest pid) s = .next t ∧ s.BytesSame t ∧ ∃ q ∈ t.net, q.src = p.dst ∧ q.dst = r.core ∧ ∃ v fl, q.body = .atomicRep r.acc f v fl r.va)
    ∧ (∀ r f, p.body = .counter r → s.placeFail p.dst (lineOf r.addr) = f → f ≠ 0 →
      ∃ t, exec (.counterOperation pid) s = .next t ∧ s.BytesSame t ∧ reply t r.core (.counterRep r.acc f 0 0 false 0 0 0 r.kind r.va))
    ∧ (∀ r, p.body = .counter r → s.placeFail p.dst (lineOf r.addr) = 0 →
      let w := s.load r.addr 8
      let dw (i : Nat) : XWord := BitVec.ofNat 64 (s.load (r.addr + 8 * i) 8)
      let kind := if r.kind = .arrive then 1 else 2
      ∃ t, exec (.counterOperation pid) s = .next t
        ∧ (r.kind = .read → s.BytesSame t ∧ reply t r.core (.counterRep r.acc 0 0 (dw 0) false 0 0 0 r.kind r.va))
        ∧ (r.kind ≠ .read → w / 2 ^ 62 ≠ kind → s.BytesSame t ∧ reply t r.core (.counterRep r.acc 0 2 0 false 0 0 0 r.kind r.va))
        ∧ (r.kind ≠ .read → w / 2 ^ 62 = kind → w % 2 ^ 32 = 0 → s.BytesSame t ∧ reply t r.core (.counterRep r.acc 0 1 0 false 0 0 0 r.kind r.va))
        ∧ (r.kind ≠ .read → w / 2 ^ 62 = kind → 1 < w % 2 ^ 32 →
            only t r.addr 8 ∧ t.load r.addr 8 = w - 1 ∧ reply t r.core (.counterRep r.acc 0 0 0 false 0 0 0 r.kind r.va))
        ∧ (r.kind ≠ .read → w / 2 ^ 62 = kind → w % 2 ^ 32 = 1 →
            only t r.addr 8 ∧ t.load r.addr 8 = w - 1 ∧ reply t r.core (.counterRep r.acc 0 0 0 true (dw 1) (dw 2) (dw 3) r.kind r.va)))

/-- R128, R133, R135, R136, R139, R140, R143, R246, R260, R402, at the core: the reply of a load fills its destination with its extended bytes,
that of an atomic with the old value, that of a counter read with DW0, that of a probe with its state word, and the access is outstanding no
more; an instruction that waited for it completes then. A failing reply, or none within 1,000,000 ticks, marks the access failed; the oldest
failed access rolls its core back, every logged register as it was before the oldest entry that names it and the context before the oldest
entry, and raises the remote-load failure with its cause and address, or the underflow with its reason. An acknowledgement ends its posted
operation and frees its retain entry; a failing one appends its error record. That a rollback sets INSTRET back to its value before the
access (notes/assumptions/55.md) and where the ring of the error queue lies (notes/assumptions/105.md) are the model's choices. -/
def Obligations.CoresTakeReplies : Prop :=
  ∀ (pid k id : Nat) (p : Packet) (a : Access) (s : State),
    let c := s.core k
    let fresh (a : Access) : Access := { a with stale := false, after := 0 }
    let ends (t : State) (key : Nat) (v : XWord) : Prop :=
      (t.core k).regAt key = ⟨v, true⟩ ∧ (∀ key', key' ≠ key → (t.core k).regAt key' = c.regAt key') ∧ (t.core k).out.map fresh = (c.out.filter fun b => decide (b.id ≠ id)).map fresh
        ∧ (t.core k).pc = (if c.blocked = some id then c.pc + 4 else c.pc) ∧ s.BytesSame t
    let fails (t : State) (st : AccState) : Prop := ∃ b, (t.core k).out.find? (fun b => decide (b.id = id)) = some b ∧ b.st = st ∧ s.BytesSame t
    let found := c.out.find? (fun b => decide (b.id = id)) = some a
    (s.Arrives pid p → s.takes p = true → isCore k = true → p.dst = k → found → a.st = .pending → a.acq = false →
      (∀ r f d, p.body = .readRep r f d → r.copy = false → r.core = k → r.owner = id →
        (∀ (z : Size) key sext part o, f = 0 → a.parts = [part] → r.part = 0 → key ≠ 0 → a.dest = .x key (8 * sizeBytes z) sext →
            a.pieces = [⟨0, 8 * o, 8 * sizeBytes z, 0⟩] → a.flags = 0 →
          let v := lineBytes d o (sizeBytes z)
          ∃ t, exec (.loadReply pid) s = .next t
            ∧ ends t key (if sext then BitVec.ofInt 64 (BitVec.ofNat (8 * sizeBytes z) v).toInt else BitVec.ofNat 64 v))
        ∧ (f ≠ 0 → ∃ t, exec (.loadReply pid) s = .next t ∧ fails t (.failed f)))
      ∧ (∀ f old fl va key, p.body = .atomicRep id f old fl va →
        (f = 0 → key ≠ 0 → a.dest = .x key 64 false →
          ∃ t, exec (.atomicReply pid) s = .next t ∧ ends t key old ∧ (t.core k).ctx.flags = c.ctx.flags ||| fl)
        ∧ (f ≠ 0 → ∃ t, exec (.atomicReply pid) s = .next t ∧ fails t (.failed f)))
      ∧ (∀ w key, p.body = .probeRep id w → key ≠ 0 → a.dest = .x key 64 false → a.flags = 0 → ∃ t, exec (.probeReply pid) s = .next t ∧ ends t key w)
      ∧ ∀ f u v z d1 d2 d3 kind va key, p.body = .counterRep id f u v z d1 d2 d3 kind va →
        (f = 0 → u = 0 → kind = .read → key ≠ 0 → a.dest = .x key 64 false → a.flags = 0 → ∃ t, exec (.counterReply pid) s = .next t ∧ ends t key v)
        ∧ (f ≠ 0 → ∃ t, exec (.counterReply pid) s = .next t ∧ fails t (.failed f))
        ∧ (f = 0 → u ≠ 0 → ∃ t, exec (.counterReply pid) s = .next t ∧ fails t (.underflow u)))
    ∧ (found → a.remote = true →
        (a.issued + 1000000 ≤ s.dtime → ∃ t, exec (.replyTimeout k id) s = .next t ∧ fails t (.failed 4))
        ∧ (s.dtime < a.issued + 1000000 → exec (.replyTimeout k id) s = .next s))
    /- What the oldest entry that names a register recorded of it, and the context before the oldest entry. -/
    ∧ (∀ rest key bits sext cause tval, c.finish = none → c.act ≠ none → c.held = none → c.out = a :: rest → a.dest = .x key bits sext → c.vq = [] → c.timers = [] →
        (a.st = .failed tval ∧ cause = 8 ∨ a.st = .underflow tval ∧ cause = 10) →
        let was := (c.undo.getLast?.map UndoEntry.ctx).getD c.ctx
        let oldX (n : Nat) : Reg := (c.undo.reverse.findSome? fun e => (e.xs.reverse.find? fun r => decide (r.1 = n)).map (·.2)).getD (c.regAt n)
        let oldV (n : Nat) : VReg := (c.undo.reverse.findSome? fun e => (e.vs.reverse.find? fun r => decide (r.1 = n)).map (·.2)).getD (c.v n)
        was.tvecEn = true → was.status.intrap = false → was.depth < 65535 → 0 < ({ c with ctx := was }).freeSlots →
        ∃ t, exec (.remoteLoadFailure k) s = .next t ∧ (t.core k).ctx.epc = a.pc ∧ (t.core k).ctx.cause = BitVec.ofNat 8 cause
          ∧ (t.core k).ctx.tval = BitVec.ofNat 64 ((if cause = 8 then tval * 2 ^ 56 else tval * 2 ^ 60) + a.va.toNat % 2 ^ 48)
          ∧ (t.core k).pc = was.tvecAddr ++ (0 : BitVec 2) ∧ (t.core k).ctx.instret = a.instret ∧ (t.core k).out = [] ∧ (t.core k).undo = []
          ∧ (∀ x, x < 16 * was.depth + 32 → (t.core k).regAt x = if x = key ∧ key ≠ 0 then a.oldX else oldX x) ∧ (∀ n, (t.core k).v n = oldV n)
          ∧ (t.core k).ctx.flags = was.flags ∧ (t.core k).ctx.views = was.views ∧ (t.core k).ctx.allotV = was.allotV
          ∧ ((∀ e ∈ c.undo, ∀ y, e.shared = some y → y.tags = []) → s.BytesSame t))
    ∧ (∀ rtag gen seq f r q, s.Arrives pid p → s.MemOk → isCore p.dst = true → p.body = .ack rtag gen seq f → s.retained p.dst rtag gen = some r → r.pkt.body = .posted q → q.copy = none →
        (∀ x ∈ (s.ep p.dst).retain, x.rtag = rtag → x.gen = gen → x.waits ≤ 1) →
        ∃ t, exec (.acknowledgement pid) s = .next t ∧ (t.core q.core).posted = (s.core q.core).posted.filter (fun x => decide (x.id ≠ q.id))
          ∧ (∀ x ∈ (t.ep p.dst).retain, ¬ (x.rtag = rtag ∧ x.gen = gen))
          ∧ (f = 0 → t.jobs = s.jobs ∧ s.BytesSame t)
          ∧ (f ≠ 0 → q.kind ≤ 2 → s.ErrRoom q.job → f < 65536 →
              ∃ e, s.Recorded t q.job e ∧ e.addr = q.va ∧ e.cause.toNat = f ∧ e.kind.toNat = q.kind ∧ e.src = BitVec.ofNat 16 q.core))

/-- R117 to R123: the end of a walk fills the TLB of the waiting cluster with the job's leaf, as its most recent entry, or raises the page fault
of the waiting core with its TVAL; an invalidation takes the entries it names, and no others, out of its cluster's TLB, and is acknowledged
there once nothing translated through them is left; an extra write-back posts the dirty bytes of its line, which stays, clean. That accesses
issued after the invalidation has arrived are waited for too (notes/assumptions/48.md), and that a walk reads its table when it ends
(notes/assumptions/49.md), are the model's choices. -/
def Obligations.WalksInvalidationsWriteBacks : Prop :=
  ∀ (id g k line : Nat) (s : State),
    (∀ w x, s.walks.find? (fun w => decide (w.id = id)) = some w → w.waiters = [(g, x)] →
      (∀ e, s.walk w.job w.page = some e →
        ∃ t, exec (.pageWalk id) s = .next t ∧ (∀ y ∈ t.walks, y.id ≠ id) ∧ s.BytesSame t
          ∧ (t.cluster g).tlb.head? = some ⟨w.job, e.page, e.size, e.leaf⟩ ∧ (t.cluster g).tlb.length ≤ 512)
      ∧ (∀ tval, s.walk w.job w.page = none → x = .core k tval → (s.core k).act ≠ none → (s.core k).held = none → (s.core k).vq = [] → (s.core k).timers = [] → (s.core k).out = [] →
          (s.core k).ctx.tvecEn = true → (s.core k).ctx.status.intrap = false → (s.core k).ctx.depth < 65535 → 0 < (s.core k).freeSlots →
          ∃ t, exec (.pageWalk id) s = .next t ∧ (t.core k).ctx.epc = (s.core k).pc ∧ (t.core k).ctx.cause = 6 ∧ (t.core k).ctx.tval = tval
            ∧ (t.core k).pc = (s.core k).ctx.tvecAddr ++ (0 : BitVec 2) ∧ s.BytesSame t))
    ∧ (∀ v, s.invals.find? (fun v => decide (v.id = id)) = some v → g ∈ v.left →
        ∃ t, exec (.tlbInvalidation id g) s = .next t ∧ s.BytesSame t
          ∧ (∀ e ∈ (s.cluster g).tlb, e ∈ (t.cluster g).tlb ↔
              ¬ (e.job = v.job ∧ (v.all = true ∨ e.page ≤ v.va ∧ v.va < e.page + e.size ∧ (v.size = 0 ∨ e.size = v.size))))
          ∧ (∀ h, h ≠ g → t.cluster h = s.cluster h)
          ∧ ((∀ i, i < 8 → (s.core (clusterCore g i)).translating v = false) →
              (∀ y ∈ t.invals, y.id = id → g ∉ y.left) ∧ (v.left = [g] → ∀ y ∈ t.invals, y.id ≠ id))
          ∧ ((∃ i, i < 8 ∧ (s.core (clusterCore g i)).translating v = true) → t.invals = s.invals))
    ∧ (∀ x, (s.core k).l1 = [x] → x.line = line → x.dirty ≠ 0 →
        ∃ t p, exec (.l1ExtraWriteBack k line) s = .next t ∧ (t.core k).l1 = [{ x with dirty := 0, stores := [] }] ∧ t.net = s.net ++ [p] ∧ p.src = k ∧ p.dst = x.ep
          ∧ (∃ q, p.body = .posted q ∧ q.kind = 3 ∧ q.line = line ∧ q.mask = x.dirty ∧ q.data = x.data) ∧ s.BytesSame t)

/-- R205, R209, R210, R218 to R221, R232, R246, R433, at a home that can take the packet: a message of a live actor with a free slot joins its
host's inbox, counts in PEND and is acknowledged; one that finds no slot is refused, to its sender's endpoint and in the sticky list. A
refused message of a core's or a queue's stream, and a returned reply, waits 256 ticks, doubled with each refusal up to 8,000, and is then
sent again, the first that is resent of a refused pair with RESUME; a refused message of an actor's stream is released. A timed message is
due at its time. A request for a live actor sets or clears PIN (a pin has no effect while the slice holds 4,096 pinned entries), sets RETQ
unless the class is cave-exhausted, or starts a move, which to the present host is only the next incarnation, or is a probe, answered with
the entry's state word; while an earlier request for the actor of another stream is in progress it waits, as it does behind one of its own
stream that waits. Which earlier requests count as in progress is the model's choice (notes/assumptions/20.md), and that such a move
checkpoints a captured actor's curd is another (notes/assumptions/46.md). -/
def Obligations.HomesAcceptAndRefuse : Prop :=
  ∀ (pid ep id : Nat) (p : Packet) (s : State),
    let g := p.dst - 0x2000
    let again (t : State) (r : Retain) : Prop :=
      ∃ r' ∈ (t.ep p.dst).retain, r'.rtag = r.rtag ∧ r'.gen = r.gen ∧ r'.pkt = r.pkt ∧ r'.refusals = r.refusals + 1
        ∧ r'.resendAt = some (s.dtime + min (256 * 2 ^ r.refusals) 8000)
    (s.Arrives pid p → s.takes p = true →
      (∀ m e, p.body = .msg m → m.cls ≠ 0 → (s.cls m.cls).valid = true → (s.cluster g).sticky = [] → (s.cluster g).entryOf m.cls m.key = some e → e.st = .live →
        e.retq = false → e.moveTo = none → s.waitsFor g m.cls m.key m.space = false →
        (s.inboxTakes e.host m = true →
          ∃ t x, exec (.homeMessageArrival pid) s = .next t ∧ s.BytesSame t ∧ (t.core e.host).inbox = (s.core e.host).inbox ++ [x] ∧ x.msg = m ∧ x.running = false
            ∧ x.due = (!m.timed || decide (m.time.toNat ≤ s.coreTime e.host)) ∧ (t.cluster g).entryOf m.cls m.key = some { e with pend := e.pend + 1 }
            ∧ ∃ q ∈ t.net, q.src = p.dst ∧ q.dst = p.holder ∧ q.body = .ack p.rtag p.gen p.seq 0)
        ∧ (s.inboxTakes e.host m = false → m.exempt = false → m.noreply = false →
          ∃ t, exec (.homeMessageArrival pid) s = .next t ∧ ((∀ c k, m.stream = .actor c k → s.handler c 63 ≠ none) → s.BytesSame t)
            ∧ (t.core e.host).inbox = (s.core e.host).inbox ∧ (∃ q ∈ t.net, q.src = p.dst ∧ q.dst = p.holder ∧ q.body = .refuse p.rtag p.gen p.seq)
            ∧ (t.cluster g).sticky = [m.pair] ∧ (t.cluster g).flow = (s.cluster g).flow))
      ∧ (∀ rtag gen seq r m, p.body = .refuse rtag gen seq → s.retained p.dst rtag gen = some r → r.pkt.legs = [] → r.pkt.dst = p.src → r.pkt.seq = seq →
          r.pkt.body = .msg m →
          (p.dst ≠ epHost → ∀ k, m.stream = .core k → ∃ t, exec (.refusalArrival pid) s = .next t ∧ again t r ∧ s.BytesSame t)
          ∧ (p.dst ≠ epHost → ∀ c k, m.stream = .actor c k → (∀ x ∈ (s.ep p.dst).retain, x.rtag = rtag → x.gen = gen → x.waits ≤ 1) →
              ∃ t, exec (.refusalArrival pid) s = .next t ∧ s.BytesSame t ∧ r ∉ (t.ep p.dst).retain)
          ∧ (p.dst = epHost → ∀ q, m.stream = .queue q → (s.queue q).state = 1 →
              ∃ t, exec (.hostPartRefusal pid) s = .next t ∧ again t r ∧ (t.queue q).lock = none ∧ s.BytesSame t))
      ∧ (∀ rtag gen r, p.body = .returned rtag gen → s.retained p.dst rtag gen = some r → r.pkt.legs = [] →
          ∃ t, exec (.returnedReply pid) s = .next t ∧ again t r ∧ s.BytesSame t)
      ∧ (∀ r e, p.body = .areq r → (s.cluster g).entryOf r.cls r.key = some e → s.entry g e.id = some e → e.st = .live →
          let held := (s.cluster g).heldReqs
          /- An earlier request of another stream is in progress, or one that waits is of this stream or for this actor. -/
          let busy := (∃ x, e.byReq = some x ∧ x ≠ r.sid) ∨ ∃ q ∈ held, q.sid = r.sid ∨ q.cls = r.cls ∧ q.key = r.key
          let after (x : FEntry) : Prop := ∃ t, exec (.actorRequest pid) s = .next t ∧ s.BytesSame t ∧ (t.cluster g).entryOf r.cls r.key = some x
          (¬ busy →
            (r.kind = .retire → e.idle = false → (s.cls e.cls).exhausted = false → after { e with retq := true, byReq := some r.sid })
            ∧ (r.kind = .retire → (s.cls e.cls).exhausted = true → after e)
            ∧ (r.kind = .unpin → (e.idle = true → (s.cluster g).hold = [] ∧ ∀ x ∈ (s.cluster g).flow, x.st = .activating → x.hosted = true) →
                after { e with pin := false })
            ∧ (r.kind = .pin → ((s.cluster g).flow.filter fun x => x.pin).length < 4096 → after { e with pin := true })
            ∧ (r.kind = .pin → 4096 ≤ ((s.cluster g).flow.filter fun x => x.pin).length → after e)
            ∧ (r.kind = .move → r.dst ≠ e.host → after { e with st := .moving, moveTo := some r.dst, reported := false, byReq := some r.sid })
            ∧ (r.kind = .move → r.dst = e.host → (s.cluster g).hold = [] →
                let log := (s.job e.job).capture
                let logged := log.classes.contains e.cls
                ∃ t, exec (.actorRequest pid) s = .next t ∧ (logged = false → s.BytesSame t)
                  ∧ (t.cluster g).entryOf r.cls r.key
                      = some { e with incarn := if e.incarn + 1 = 0 then 1 else e.incarn + 1, ck := if logged then some log.next else e.ck })
            ∧ (r.kind = .probe → ∃ t q w, exec (.actorRequest pid) s = .next t ∧ s.BytesSame t ∧ q ∈ t.net ∧ q.src = epHome g ∧ q.dst = r.core ∧ q.body = .probeRep r.acc w
                ∧ w.extractLsb' 0 16 = e.incarn ∧ w.extractLsb' 32 13 = BitVec.ofNat 13 e.host ∧ w.extractLsb' 61 3 = 2 ∧ w.getLsbD 60 = e.pin
                ∧ w.getLsbD 59 = e.retq))
          ∧ (busy →
              ∃ t, exec (.actorRequest pid) s = .next t ∧ s.BytesSame t ∧ (t.cluster g).flow = (s.cluster g).flow
                ∧ (t.cluster g).hold = (s.cluster g).hold ++ [.req r])))
    ∧ (∀ r tm m, (s.ep ep).retain.find? (fun r => decide (r.rtag = id)) = some r → r.resendAt = some tm → r.pkt.body = .msg m → m.exempt = false →
        (s.ep ep).olderFirst r m = false → (epIsCore ep = true → (s.core ep).Released) →
        (ep = epHost → s.retainRoom ep (retainBytes m.len) = true ∧ ∀ q tag gen, FeEvent.refused q tag gen ∉ s.feEvents) →
        (tm ≤ s.dtime → ∃ t q m', exec (.hardwareResend ep id) s = .next t ∧ s.BytesSame t ∧ t.net = s.net ++ [q] ∧ q.src = ep ∧ q.body = .msg m' ∧ m'.key = m.key
          ∧ m'.cls = m.cls ∧ m'.sel = m.sel ∧ m'.stamp = m.stamp ∧ m'.payload = m.payload ∧ m'.flags = if (s.ep ep).resumedAfter m r.pkt.id then m.flags else m.flags ||| 1)
        ∧ (s.dtime < tm → exec (.hardwareResend ep id) s = .next s))
    ∧ ∀ x, (s.core ep).inbox = [x] → x.order = id → x.due = false →
        ∃ t y, exec (.timedMessageDue ep id) s = .next t ∧ (t.core ep).inbox = [y] ∧ y.msg = x.msg ∧ y.due = decide (x.msg.time.toNat ≤ s.coreTime ep) ∧ s.BytesSame t

/-- R198, R216, R232, R235 to R239, R254, R362: a core between activations starts its candidate, a message, an init handler or a task, in the
entry state; an entry whose curd is in place goes live with the next incarnation; the end of an activation counts PEND down, or marks its
init handler completed, and that of an activation of an entry the actor has no more changes nothing; an idle actor whose timer has run out
retires, unless its job is stopped (R452); the cave write of which all is acknowledged leaves its entry a HINT with its slot, the end of a
discard leaves none (that the entry stays until then is the model's choice, notes/assumptions/120.md); a class whose cave can grow no more
is marked, and its actor live again with the next incarnation; a message under back-off returns to its live actor's inbox at its tick. -/
def Obligations.ActivationsStartAndEnd : Prop :=
  ∀ (pid k g id : Nat) (p : Packet) (s : State),
    let started (t : State) (kind : ActKind) (pc : BitVec 32) (r8 r9 r11 r12 : XWord) : Prop :=
      ∃ a, (t.core k).act = some a ∧ a.kind = kind ∧ (t.core k).pc = pc ∧ (t.core k).x 8 = r8 ∧ (t.core k).x 9 = r9
        ∧ (t.core k).x 11 = r11 ∧ (t.core k).x 12 = r12 ∧ (t.core k).x 1 = BitVec.ofNat 64 a.curd ∧ (∀ n : BitVec 5, 16 ≤ n.toNat → (t.core k).reg n.toNat = {})
        ∧ (t.core k).vs = [] ∧ (t.core k).l1 = [] ∧ (t.core k).ctx.depth = 0 ∧ (t.core k).ctx.instret = 0 ∧ (t.core k).ctx.stamp.setWidth 64 = r11
        ∧ ((∀ j c, (s.job j).capture.classes.contains c = false) → s.BytesSame t)
    let nowhere := ∀ c ∈ s.clusters, c.2.hold = [] ∧ ∀ e ∈ c.2.flow, e.st ≠ .activating ∨ e.hosted = true
    let next (i : BitVec 16) : BitVec 16 := if i + 1 = 0 then 1 else i + 1
    (s.between k = true →
      (∀ x, s.candidate k = some (.msg x) →
        ∃ t, exec (.activationStart k) s = .next t
          ∧ started t .actor (s.handlerPc x.msg.cls x.msg.sel) x.msg.key x.msg.skey (x.msg.stamp.setWidth 64) (BitVec.ofNat 64 (leNat (x.msg.payload.take 8))))
      ∧ (∀ h e, s.candidate k = some (.init h e) →
        ∃ t, exec (.activationStart k) s = .next t ∧ started t .init (s.cls e.cls).init e.key 0 (e.initStamp.setWidth 64) 0)
      ∧ (∀ x, s.candidate k = some (.task x) →
        ∃ t, exec (.activationStart k) s = .next t
          ∧ started t .task (x.word.extractLsb' 0 32) x.arg (BitVec.ofNat 64 x.pusher) (x.stamp.setWidth 64) x.word)
      ∧ (s.candidate k = none → ∃ t, exec (.activationStart k) s = .next t ∧ t = s))
    ∧ (s.between k = false → exec (.activationStart k) s = .next s)
    ∧ (nowhere → ∀ e, s.entry g id = some e →
      (e.st = .activating → e.hosted = true → e.initDone = true → s.xferDone g id = true → e.retq = false →
        let r := (s.job e.job).capture
        let logged := r.classes.contains e.cls
        ∃ t, exec (.activationGoLive g id) s = .next t ∧ (logged = false → s.BytesSame t)
          ∧ t.entry g id = some { e with st := .live, incarn := next e.incarn, idleSince := s.dtime, pend := 0, byReq := none,
                                         ck := if logged then some r.next else e.ck })
      ∧ ((e.initDone = false ∨ s.xferDone g id = false) → exec (.activationGoLive g id) s = .next s)
      ∧ ((s.cluster g).entryOf e.cls e.key = some e → s.Arrives pid p → p.dst = epHome g → (∃ n, p.body = .done e.cls e.key n ∧ n ≠ id) →
          ∃ t, exec (.activationDoneAtHome pid) s = .next t ∧ s.BytesSame t ∧ t.entry g id = some e)
      ∧ ((s.cluster g).entryOf e.cls e.key = some e → s.Arrives pid p → p.dst = epHome g → p.body = .done e.cls e.key id →
          (e.st = .activating →
            ∃ t, exec (.activationDoneAtHome pid) s = .next t ∧ s.BytesSame t ∧ t.entry g id = some { e with initDone := true })
          ∧ (e.st ≠ .activating → 2 ≤ e.pend →
            ∃ t, exec (.activationDoneAtHome pid) s = .next t ∧ s.BytesSame t ∧ t.entry g id = some { e with pend := e.pend - 1, idleSince := s.dtime }))
      ∧ (s.retirable e = true → (s.job e.job).stopping = true → exec (.idleTimerExpiry g id) s = .next s)
      ∧ (s.retirable e = true → (s.job e.job).stopping = false → (s.cls e.cls).idle ≠ 0 →
          (e.idleSince + (s.cls e.cls).idle.toNat ≤ s.dtime →
            ∃ t, exec (.idleTimerExpiry g id) s = .next t ∧ s.BytesSame t
              ∧ t.entry g id = some { e with st := .retiring, retq := false, byReq := none, press := none })
          ∧ (s.dtime < e.idleSince + (s.cls e.cls).idle.toNat → exec (.idleTimerExpiry g id) s = .next s))
      ∧ (∀ x, s.xferOf g id = some x → x.kind = .cave →
          (x.complete = true →
            ∃ t, exec (.caveWriteAck g id) s = .next t ∧ s.BytesSame t
              ∧ t.entry g id = some { e with st := .hint, hosted := false, slot := x.slot, curd := 0, seqn := s.nextId, byReq := none, press := none })
          ∧ (x.complete = false → exec (.caveWriteAck g id) s = .next s))
      ∧ (∀ x, s.xferOf g id = some x → x.kind = .clear →
          (x.complete = true →
            ∃ t, exec (.caveWriteAck g id) s = .next t ∧ s.BytesSame t ∧ t.entry g id = none)
          ∧ (x.complete = false → exec (.caveWriteAck g id) s = .next s))
      ∧ (∀ last, s.feEvents = [.caveFull g id last] → s.poolIdle ≠ none → e.st = .retiring →
          let s0 : State := { s with feEvents := [] }
          let job := (s.cls e.cls).job
          let r := (s.job e.job).capture
          s0.newBucket job e.cls (s0.chainEnd job last chainFuel) = none →
          ∃ t, exec (.caveFullEvent id) s = .next t ∧ (t.cls e.cls).exhausted = true ∧ t.feEvents = []
            ∧ t.entry g id = some { e with st := .live, byReq := none, press := none, incarn := next e.incarn,
                                                               ck := if r.classes.contains e.cls then some r.next else e.ck })
      ∧ (∀ r, s.redel = [r] → r.id = id → r.due ≤ s.dtime → r.msg.cls ≠ 0 → r.g = g → e.cls = r.msg.cls → e.key = r.msg.key →
          (s.cluster g).entryOf e.cls e.key = some e → e.st = .live → e.retq = false → e.moveTo = none → s.inboxTakes e.host r.msg = true →
          ∃ t x, exec (.retryRedelivery id) s = .next t ∧ t.redel = [] ∧ (t.core e.host).inbox = (s.core e.host).inbox ++ [x] ∧ x.msg = r.msg ∧ s.BytesSame t))

/-- R228, R240, R241, R253: the balancer reads once every 2,000 ticks and commands within its bounds (what it commands is a free value, log
entry 9); a command makes its source ask the homes of idle, unpinned actors of jobs that are not stopped, at most its count, to move; a home
starts the move of a live, unpinned actor, which to the present host is only the next incarnation; the source reports once nothing of the
actor runs there and all it sent is settled, and the copy to the destination's free lines begins or, without room there, the move is
abandoned; a line that comes back is written to its destination; once all is written the actor is live at the destination with the next
incarnation; a thief takes a stealable task of another core and runs it. That the thief starts the task at once, and the order in which it
chooses among a core's tasks, are the model's choices (notes/assumptions/68.md); which requests a move in progress holds back is one too
(notes/assumptions/20.md), and that a return to LIVE checkpoints a captured actor's curd another (notes/assumptions/46.md). R269, R270, R290
to R294, R296: at its tick the floor of each job is published: EMPTY says whether any work is outstanding, and MIN is the least stamp of the
work there is. A forward reaches its group's home, its clear before its flags; at its tick every group's flags are broadcast; the first
report while the group is armed is granted and disarms it, any other is refused; reports of one core keep their order. When a forward
leaves, and that a broadcast reaches every core at once, are the model's choices (notes/assumptions/74.md, notes/assumptions/98.md). -/
def Obligations.ActorsMoveAndFloorsPublish : Prop :=
  (∀ (pid k src dst n g id : Nat) (p : Packet) (s : State),
    let quiet := ∀ c ∈ s.clusters, c.2.hold = [] ∧ ∀ e ∈ c.2.flow, e.st ≠ .activating ∨ e.hosted = true
    let next (i : BitVec 16) : BitVec 16 := if i + 1 = 0 then 1 else i + 1
    /- Capture of the actor's class, and the place its entry then keeps as it enters LIVE. -/
    let logged (e : FEntry) := (s.job e.job).capture.classes.contains e.cls
    let mark (e : FEntry) := if logged e then some (s.job e.job).capture.next else e.ck
    (s.nextBalance ≤ s.dtime →
      ∃ t l, exec .balancerPeriod s = .next t ∧ s.dtime < t.nextBalance ∧ t.nextBalance ≤ s.dtime + 2000 ∧ t.nextBalance % 2000 = 0 ∧ t.migr = s.migr ++ l ∧ s.BytesSame t
        ∧ ∀ c ∈ l, isCore c.1 = true ∧ isCore c.2.1 = true ∧ 1 ≤ c.2.2 ∧ c.2.2 ≤ 16)
    ∧ (s.dtime < s.nextBalance → exec .balancerPeriod s = .next s)
    ∧ ((src, dst, n) ∈ s.migr →
      ∃ t ps, exec (.migrationCommand src dst n) s = .next t ∧ t.net = s.net ++ ps ∧ ps.length ≤ n ∧ t.migr = s.migr.erase (src, dst, n) ∧ s.BytesSame t
        ∧ ∀ q ∈ ps, q.src = src ∧ ∃ c ∈ s.clusters, ∃ e ∈ c.2.flow, q.dst = epHome c.1 ∧ q.body = .move e.cls e.key dst ∧ e.host = src ∧ e.st = .live ∧ e.pend = 0
            ∧ e.pin = false ∧ (s.job e.job).stopping = false ∧ s.domainHas e.cls dst = true)
    ∧ (∀ e cls key, s.Arrives pid p → p.dst = epHome g → p.body = .move cls key dst → (s.cluster g).entryOf cls key = some e → s.entry g e.id = some e → e.st = .live → e.moveTo = none →
        (e.pin = false → (s.job e.job).stopping = false → dst ≠ e.host → ∃ t, exec (.moveRequest pid) s = .next t ∧ s.BytesSame t
          ∧ (t.cluster g).entryOf cls key = some { e with st := .moving, moveTo := some dst, reported := false, byReq := none })
        ∧ (e.pin = false → (s.job e.job).stopping = false → dst = e.host → (s.cluster g).hold = [] → ∃ t, exec (.moveRequest pid) s = .next t ∧ (logged e = false → s.BytesSame t)
          ∧ (t.cluster g).entryOf cls key = some { e with incarn := next e.incarn, ck := mark e })
        ∧ (e.pin = true ∨ (s.job e.job).stopping = true → ∃ t, exec (.moveRequest pid) s = .next t ∧ s.BytesSame t ∧ (t.cluster g).entryOf cls key = some e))
    ∧ (∀ e to_, quiet → s.entryHome id = some g → s.entry g id = some e → e.st = .moving → e.moveTo = some to_ → e.reported = false →
        let lines := (s.cls e.cls).curdl.toNat
        let run := s.freeRun (s.cls e.cls).job to_
        (e.pend = 0 → s.sentSettled e.host e.cls e.key = true →
          (run.2 < lines → e.retq = false → ∃ t, exec (.moveSourceReport id) s = .next t ∧ (logged e = false → s.BytesSame t)
            ∧ t.entry g id = some { e with st := .live, moveTo := none, byReq := none, ck := mark e })
          ∧ (lines ≤ run.2 → ∃ t x, exec (.moveSourceReport id) s = .next t ∧ s.BytesSame t ∧ t.entry g id = some { e with reported := true }
              ∧ t.xfers = s.xfers ++ [x] ∧ x.heads = [] ∧ x.g = g ∧ x.entry = id ∧ x.kind = .move ∧ x.host = to_ ∧ x.curd = 128 * run.1 ∧ x.dsts = curdLines to_ (128 * run.1) lines
              ∧ x.reads = List.range lines))
        ∧ ((e.pend ≠ 0 ∨ s.sentSettled e.host e.cls e.key = false) → exec (.moveSourceReport id) s = .next s))
    ∧ (∀ r x d pl ep, s.Arrives pid p → s.takes p = true → p.body = .readRep r 0 d → r.copy = false → r.core = epHome g → g < 768 →
        s.xfers.find? (fun x => decide (x.id = r.owner)) = some x → x.heads = [] → r.part ∈ x.reads → x.dsts[r.part]? = some (pl, ep) →
        ∃ t, exec (.loadReply pid) s = .next t ∧ s.BytesSame t
          ∧ ∃ q ∈ t.net, q.dst = ep ∧ ∃ w, q.body = .posted w ∧ w.line = lineOf pl ∧ w.mask = BitVec.allOnes 128 ∧ w.data = d)
    ∧ (∀ e x, quiet → s.entry g id = some e → e.st = .moving → e.retq = false → s.xferOf g id = some x → x.kind = .move →
        (x.complete = true → ∃ t, exec (.moveComplete g id) s = .next t ∧ (logged e = false → s.BytesSame t)
          ∧ t.entry g id = some { e with st := .live, moveTo := none, reported := false, byReq := none, host := x.host, curd := x.curd, incarn := next e.incarn,
                                         ck := mark e })
        ∧ (x.complete = false → exec (.moveComplete g id) s = .next s))
    ∧ (∀ v x, s.between k = true → s.candidate k = none → s.victim k = some v → s.loot k v = some x →
        s.stealable k v x = true ∧ v ≠ k
        ∧ ∃ t a, exec (.steal k) s = .next t ∧ (t.core k).act = some a ∧ a.kind = .task ∧ a.task = x ∧ (t.core k).pc = x.word.extractLsb' 0 32
            ∧ (t.core v).deque = (s.core v).deque.filter (fun y => decide (y.tid ≠ x.tid))
            ∧ ((∀ j c, (s.job j).capture.classes.contains c = false) → s.BytesSame t))
    ∧ (s.candidate k ≠ none → exec (.steal k) s = .next s))
  ∧ (∀ (job id : Nat) (s : State),
    (s.nextFloor ≤ s.dtime →
      ∃ t, exec .floorPublish s = .next t ∧ s.BytesSame t ∧ s.dtime < t.nextFloor ∧ t.nextFloor % 64 = 0
        ∧ ((∃ x, (job, x) ∈ s.jobs) →
            ((t.job job).floorEmpty = true ↔ s.outstanding job = []) ∧ (∀ x ∈ s.outstanding job, (t.job job).floorMin ≤ x)
            ∧ ((t.job job).floorMin ∈ s.outstanding job ∨ (t.job job).floorMin = 0xFFFFFFFF)))
    ∧ (s.dtime < s.nextFloor → exec .floorPublish s = .next s)
    ∧ (∀ f, s.fwds.find? (fun f => decide (f.id = id)) = some f →
        ∃ t, exec (.groupFlagForward id) s = .next t ∧ s.BytesSame t ∧ t.fwds = s.fwds.filter (fun x => decide (x.id ≠ id))
          ∧ (t.group f.group).flags = ((s.group f.group).flags &&& ~~~f.clear) ||| f.set ∧ (∀ n, n ≠ f.group → t.group n = s.group n))
    ∧ (s.nextFlags ≤ s.dtime →
        ∃ t, exec .groupFlagBroadcast s = .next t ∧ s.BytesSame t ∧ ∀ n, (t.group n).sent = (s.group n).flags ∧ (t.group n).flags = (s.group n).flags)
    ∧ (∀ r e, s.nanReports.find? (fun r => decide (r.id = id) && s.nanNext r) = some r → (s.core r.core).uid = r.act → (s.core r.core).events = [e] → e.id = r.cmd →
        e.kind = .reportPending →
        ∃ t, exec (.firstNanReport id) s = .next t ∧ s.BytesSame t ∧ (∀ x ∈ t.nanReports, x.id ≠ id) ∧ (t.group r.group).fnarm = false
          ∧ (t.core r.core).events = if (s.group r.group).fnarm then [{ e with kind := .granted }] else []))

/-! The system. -/

/-- R146, R353: a fetch that misses is told to Fleiz once; Fleiz loads the 4,096 bytes of its block of the job's image into one block of the
core's cluster and tags it, and the fetch is made again, or reports the code absent, and the fetched instruction takes the code fault with
its address. That Fleiz loads no block into a cluster whose store a patch is on its way to is the model's choice (notes/assumptions/45.md).
R364 to R370: a request that Fleiz has to make is taken for a live job of a better priority in whose cluster set the core lies, and is
ignored otherwise; a drained core at a pre-emption point whose record for that priority is free saves the context of its activation, all of
its registers, and runs none; its inbox and its copies stay; one with no free record runs on; a request past GAP + 2,048 cycles is an error
record of kind 9 with cause 15 and makes the boundary a pre-emption point; at the end of the save the record stands in device memory (its
places there are the model's, log entry 76); with no candidate and no request left the context comes back, every register as it was and the
saved lines of the scratchpad rewritten, with RESUMED set, DIST 0 and what it waited for with tag.wany judged again. The place of the error
record in the queue's ring is the model's (notes/assumptions/105.md). -/
def Obligations.CodeMissesAndPreemption : Prop :=
  (∀ (k : Nat) (s : State), s.MemOk →
    let g := coreCluster k
    let c := s.core k
    (∀ h, c.fetch = some h → h.taken = false → s.eventRoom = true →
      ∃ t, exec (.codeMissEvent k) s = .next t ∧ t.feEvents = s.feEvents ++ [.codeMiss k c.jobNum h.addr] ∧ (t.core k).fetch = some { h with taken := true }
        ∧ s.BytesSame t)
    ∧ (∀ h, c.fetch = some h → (h.taken = true ∨ s.eventRoom = false) → exec (.codeMissEvent k) s = .next s)
    ∧ (∀ j a, s.missOf k = some (j, a) → s.poolTakes (.codeMiss k j a) = true → c.fetch = some ⟨a, true⟩ → c.jobNum = j →
      (∀ bs, s.codeBlock j (a.toNat / 4096) = some bs → s.patching g = false →
        (∀ p ∈ (s.job j).patches, p.on = true → p.addr.toNat / 4096 ≠ a.toNat / 4096) →
        ∃ t i, exec (.codeBlockLoaded k) s = .next t ∧ i < 16 ∧ t.blockTag g i = 2 ^ 63 + j % 256 * 2 ^ 40 + a.toNat / 4096 * 4096 ∧ bs.length = 4096
          ∧ Memory.readList t.mem (placeStore g (0x80000 + 4096 * i)) 4096 = bs ∧ (t.core k).fetch = none ∧ t.MemOk
          ∧ ∀ q, (q < placeStore g (0x80000 + 4096 * i) ∨ placeStore g (0x80000 + 4096 * i) + 4096 ≤ q) → (q < tagPlace g i ∨ tagPlace g i + 8 ≤ q) →
              t.byte q = s.byte q)
      ∧ (s.codeBlock j (a.toNat / 4096) = none → ({ s with cur := k } : State).HandlerReady → s.preqStands k = false →
        ∃ t, exec (.codeMissTrap k) s = .next t ∧ (t.core k).ctx.epc = c.pc ∧ (t.core k).ctx.cause = 12 ∧ (t.core k).ctx.tval = a.setWidth 64
          ∧ (t.core k).ctx.status.intrap = true ∧ (t.core k).pc = c.ctx.tvecAddr ++ (0 : BitVec 2) ∧ (t.core k).fetch = none ∧ s.BytesSame t)))
  ∧ (∀ (k job : Nat) (a : Act) (s : State),
    let c := s.core k
    ((k, job) ∈ s.requests →
      (c.act = some a → (s.job job).live = true → (s.job job).cset.getLsbD (coreCluster k) = true → (s.job job).prio.toNat < (s.job a.job).prio.toNat →
        ∃ t, exec (.preemptionRequest k job) s = .next t ∧ (t.core k).preq = some job ∧ t.requests = s.requests.erase (k, job) ∧ s.BytesSame t)
      ∧ (c.act = some a → ((s.job job).cset.getLsbD (coreCluster k) = false ∨ (s.job a.job).prio.toNat ≤ (s.job job).prio.toNat) →
        ∃ t, exec (.preemptionRequest k job) s = .next t ∧ t.core k = c ∧ t.requests = s.requests.erase (k, job) ∧ s.BytesSame t))
    ∧ ((k, job) ∉ s.requests → exec (.preemptionRequest k job) s = .next s)
    ∧ (c.act = some a → s.recordFree k a.job = true → c.drained = true → (c.preempting = true ∨ (s.preqStands k = true ∧ s.waitsAtPoint k = true)) →
      ∃ t x, exec (.preemption k) s = .next t ∧ (t.core k).act = none ∧ (t.core k).xs = [] ∧ (t.core k).vs = [] ∧ (t.core k).saving = true
        ∧ (t.core k).inbox = c.inbox ∧ (t.core k).copies = c.copies
        ∧ (t.core k).saved = x :: c.saved ∧ x.act = a ∧ x.pc = c.pc ∧ x.xs = c.xs ∧ x.ms = c.ms ∧ x.accs = c.accs ∧ x.latch = c.latch
        ∧ x.record = (s.job a.job).prio.toNat ∧ x.ctx = { c.ctx with status := { c.ctx.status with jprio := (s.job a.job).prio } }
        ∧ x.vs = c.vs.filter (fun v => decide (v.1 < c.ctx.allotV)) ∧ (∀ b ∈ x.spills, b.2 = s.byte (placePad k b.1)) ∧ s.BytesSame t)
    ∧ (c.act = some a → s.recordFree k a.job = true → c.drained = false → exec (.preemption k) s = .next s)
    ∧ (c.act = some a → s.recordFree k a.job = false → ∃ t, exec (.preemption k) s = .next t ∧ t.core k = { c with preempting := false } ∧ s.BytesSame t)
    ∧ (c.act = some a → s.preqStands k = true → c.preempting = false → c.held = none → c.finish = none → c.gap ≠ 0xFFFFFFFF →
      (c.gap.toNat + 2048 < s.dist k → s.ErrRoom a.job → s.MemOk →
        ∃ t e, exec (.forcedPreemption k) s = .next t ∧ (t.core k).preempting = true ∧ s.Recorded t a.job e ∧ e.kind = 9 ∧ e.cause = 15
          ∧ e.src = BitVec.ofNat 16 k)
      ∧ (s.dist k ≤ c.gap.toNat + 2048 → exec (.forcedPreemption k) s = .next s))
    ∧ (∀ x rest, c.saving = true → c.saved = x :: rest → ∃ t, exec (.contextSaveComplete k) s = .next t ∧ (t.core k).saving = false ∧ (t.core k).saved = c.saved
        ∧ ∀ p, t.byte p = (s.writeRecord k x).byte p)
    ∧ (∀ x rest, s.MemOk → c.saved = x :: rest → s.between k = true → c.preq = none → s.candidate k = none → (s.job x.act.job).stopping = false →
      (∀ b b', b ∈ x.spills → b' ∈ x.spills → b.1 = b'.1 → b = b') →
      let j := x.ctx.judgeWany
      ∃ t, exec (.resumption k) s = .next t ∧ (t.core k).act = some x.act ∧ (t.core k).pc = x.pc ∧ (t.core k).xs = fillTags x.xs j.2.2 ∧ (t.core k).vs = x.vs ∧ (t.core k).ms = x.ms
        ∧ (t.core k).accs = x.accs ∧ (t.core k).latch = x.latch ∧ (t.core k).saved = rest
        ∧ (t.core k).ctx = { x.ctx with status := { x.ctx.status with resumed := true }, rot := j.1, wany := j.2.1, distBase := s.cycles }
        ∧ (∀ b ∈ x.spills, t.byte (placePad k b.1) = b.2) ∧ ∀ q, (∀ b ∈ x.spills, q ≠ placePad k b.1) → t.byte q = s.byte q))

/-- R396 to R399, R403, R405 to R408, R414: a served head, first of its output's input ports, moves one hop, whole, or, past the trim mark of
its port, as a whey of class 0 that carries its kind, length and key and is counted; one not served stays. A whey leaves a hole with its
holder, pulled after 64 ticks. At its timer a hole is pulled again, its wait doubled up to 8,000 ticks. A holder answers a pull with its
retained packet in class 1, or with GONE. A retransmission that its hole awaits is accepted and the hole ends; another is a counted
duplicate. A hole that is gone, or is 1,000,000 ticks old, is given up and counted lost; a core's retained entry as old is dropped and what
it held has failed with cause 4; a core's posted operation discarded as unreachable fails with cause 3, and its entry is dropped. How
packets of one place are queued is read from the rules (notes/assumptions/84.md), and the place of a record in the error ring is the model's
(notes/assumptions/105.md). R416, R417, R440: a failing tag costs its counter value and counts; the next flit of a transmitter goes under
its next key, from counter 0, if one stands ready; where none does, the flit at the last counter value makes it idle and raise a
key-exhaustion event; the eighth failure in a row fails the link and is reported; a key installed beside a key in use waits; one where there
is none, or the counter has run out, is used at once from counter 0 (that it is used at once where no key was in force, and the boundary at
which a transmitter changes, are the model's choices, notes/assumptions/29.md; so are those of notes/assumptions/50.md on failing tags); an
event raised tells the owner once, with a notification of kind 5, also when a key has come first, and signals no vector while no function
owns the device by the model's choice (notes/assumptions/117.md). -/
def Obligations.PacketsMoveAndLinksCount : Prop :=
  (∀ (pid ep id : Nat) (p : Packet) (s : State), s.MemOk →
    let e := s.ep p.dst
    (∀ r o, s.packet pid = some p → p.legs = [] → s.hop p = .to r o → o ≠ .fabric →
      ((s.served p = false ∨ s.firstIn p (.to r o) = false) → exec (.packetHeadSwitch pid) s = .next s)
      ∧ (s.served p = true → s.firstIn p (.to r o) = true → s.trims p r o = false → ∃ t, exec (.packetHeadSwitch pid) s = .next t ∧ t.packet pid = some { p with loc := .queue r o } ∧ s.BytesSame t)
      ∧ (s.served p = true → s.firstIn p (.to r o) = true → s.trims p r o = true →
          ∃ t q, exec (.packetHeadSwitch pid) s = .next t ∧ t.packet pid = some q ∧ s.BytesSame t ∧ q.loc = .queue r o ∧ q.cls = 0 ∧ q.len = 0 ∧ q.src = p.src ∧ q.dst = p.dst
            ∧ q.seq = p.seq ∧ q.holder = p.holder ∧ q.body = .whey p.body.pkind p.cls p.len p.body.what p.body.request
            ∧ q.trimBy = BitVec.ofNat 16 (clx r * 16 + cly r) ∧ q.ttick = BitVec.ofNat 32 s.dtime
            ∧ (let n := 16 * r + 2 * o.code + (p.cls - 2)
               (Map.get {} t.ports n).trims = (Map.get {} s.ports n).trims + 1)))
    ∧ (∀ pk oc ol what re, s.Arrives pid p → p.body = .whey pk oc ol what re →
        ∃ t h, exec (.wheyArrival pid) s = .next t ∧ s.BytesSame t ∧ (t.ep p.dst).holes = e.holes ++ [h] ∧ h.src = p.src ∧ h.seq = p.seq ∧ h.holder = p.holder
          ∧ h.rtag = p.rtag ∧ h.gen = p.gen ∧ h.known = true ∧ h.n = 0 ∧ h.timer = s.dtime + 64 ∧ h.born = s.dtime ∧ h.re = re ∧ h.job = p.job
          ∧ (t.ep p.dst).count.holes = e.count.holes + 1)
    ∧ (∀ h, (s.ep ep).holes.find? (fun h => decide (h.id = id)) = some h →
        (h.timer ≤ s.dtime → ∃ t h' q, exec (.pull ep id) s = .next t ∧ s.BytesSame t ∧ h' ∈ (t.ep ep).holes ∧ h'.id = id ∧ h'.n = h.n + 1
          ∧ h'.timer = s.dtime + min (64 * 2 ^ (h.n + 1)) 8000 ∧ t.net = s.net ++ [q] ∧ q.src = ep ∧ q.dst = h.holder ∧ q.cls = 0
          ∧ q.body = .pull { hole := id, src := h.src, seq := h.seq, inorder := h.inorder, known := h.known, rtag := h.rtag, gen := h.gen, re := h.re }
          ∧ (t.ep ep).count.pulls = (s.ep ep).count.pulls + 1)
        ∧ (s.dtime < h.timer → exec (.pull ep id) s = .next s)
        ∧ (h.re = none → h.inorder = false → s.giveUpRoom ep h = true → h.born + 1000000 ≤ s.dtime →
            ∃ t, exec (.holeTimeout ep id) s = .next t ∧ s.BytesSame t ∧ (∀ x ∈ (t.ep ep).holes, x.id ≠ id) ∧ (t.ep ep).count.lost = (s.ep ep).count.lost + 1)
        ∧ (s.dtime < h.born + 1000000 → exec (.holeTimeout ep id) s = .next s))
    ∧ (∀ x, s.Arrives pid p → p.body = .pull x → x.re = none → x.known = true →
        (∀ r, e.retain = [r] → r.rtag = x.rtag → r.gen = x.gen → r.pkt.legs = [] → r.pkt.dst = p.src → r.pkt.seq = x.seq → r.pkt.inorder = x.inorder →
          ∃ t q, exec (.pullReceived pid) s = .next t ∧ s.BytesSame t ∧ q ∈ t.net ∧ q.again = true ∧ q.cls = 1 ∧ q.dst = p.src ∧ q.seq = x.seq ∧ q.body = r.pkt.body
            ∧ q.loc = .source)
        ∧ (e.retain = [] → ∃ t q, exec (.pullReceived pid) s = .next t ∧ s.BytesSame t ∧ q ∈ t.net ∧ q.src = p.dst ∧ q.dst = p.src ∧ q.body = .gone x.hole))
    ∧ (∀ q, s.packet pid = some p → p.again = true → p.transit = false → s.atEnd p = true → p.legs = [] → p.inorder = false → p.body = .posted q → q.ep = p.dst → q.kind = 0 →
        (∀ h, e.holeOf p = some h → h.known = true → h.holder = p.holder → h.rtag = p.rtag → h.gen = p.gen → s.placeFail q.ep q.line = 0 →
          ∃ t, exec (.retransmissionArrival pid) s = .next t ∧ (∀ x ∈ (t.ep p.dst).holes, x.id ≠ h.id)
            ∧ ∀ i, i < 128 → t.byte (q.line + i) =
              if q.mask.getLsbD i then lineByte (if isTag q.line then tagLine q.data else q.data) i else s.byte (q.line + i))
        ∧ (e.holeOf p = none → ∃ t, exec (.retransmissionArrival pid) s = .next t ∧ s.BytesSame t ∧ (t.ep p.dst).count.dups = e.count.dups + 1
            ∧ (t.ep p.dst).holes = e.holes))
    ∧ (∀ hole h, s.packet pid = some p → p.transit = false → s.atEnd p = true → p.body = .gone hole → e.holes.find? (fun h => decide (h.id = hole)) = some h → h.re = none → h.inorder = false →
        ∃ t, exec (.goneReport pid) s = .next t ∧ s.BytesSame t ∧ (∀ x ∈ (t.ep p.dst).holes, x.id ≠ h.id) ∧ (t.ep p.dst).count.lost = e.count.lost + 1)
    ∧ (∀ r, (s.ep ep).retain.find? (fun r => decide (r.rtag = id)) = some r → isCore ep = true → r.resendAt = none →
        (r.born + 1000000 ≤ s.dtime → ∃ t, exec (.retainTimeout ep id) s = .next t
          ∧ (t.ep ep).retain = (s.ep ep).retain.filter (fun x => decide (x.rtag ≠ id))
          ∧ (∀ m, r.pkt.body = .msg m → r.pkt.legs = [] → r.done = [] → s.ErrRoom m.job →
              ∃ x, s.Recorded t m.job x ∧ x.kind = 13 ∧ x.addr = m.key ∧ x.src = BitVec.ofNat 16 m.score)
          ∧ (∀ q, r.pkt.body = .posted q → q.copy = none → q.kind ≤ 2 → s.ErrRoom q.job →
              ∃ x, s.Recorded t q.job x ∧ x.cause = 4 ∧ x.addr = q.va))
        ∧ (s.dtime < r.born + 1000000 → exec (.retainTimeout ep id) s = .next s))
    ∧ ∀ rtag gen r, s.Arrives pid p → isCore p.dst = true → p.body = .unreach (some (rtag, gen)) none → s.retained p.dst rtag gen = some r →
        (∀ q, r.pkt.body = .posted q → q.copy = none → q.kind ≤ 2 → s.ErrRoom q.job →
          ∃ t x, exec (.unreachReport pid) s = .next t ∧ s.Recorded t q.job x ∧ x.cause = 3 ∧ x.addr = q.va
            ∧ (t.core q.core).posted = (s.core q.core).posted.filter (fun y => decide (y.id ≠ q.id))
            ∧ ∀ y ∈ (t.ep p.dst).retain, ¬ (y.rtag = rtag ∧ y.gen = gen))
        ∧ (∀ q, r.pkt.body = .areq q →
          ∃ t, exec (.unreachReport pid) s = .next t ∧ s.BytesSame t ∧ t.jobs = s.jobs ∧ ∀ y ∈ (t.ep p.dst).retain, ¬ (y.rtag = rtag ∧ y.gen = gen)))
  ∧ (∀ (port : Nat) (rx : Bool) (key : BitVec 256) (salt : BitVec 48) (s : State), s.MemOk → port < 16 →
    let l := s.link port
    let d := if rx then l.rx else l.tx
    let dir (t : State) : LinkDir := if rx then (t.link port).rx else (t.link port).tx
    (l.failed = false → d.key ≠ none → d.idle = false →
      ∃ t, exec (.flitTagFailure port rx) s = .next t ∧ s.BytesSame t ∧ (dir t).fails = d.fails + 1
        ∧ (d.ctr.toNat + 1 < 2 ^ 48 → (rx = true ∨ d.next = none) →
            (dir t).ctr = d.ctr + 1 ∧ (dir t).idle = false ∧ (dir t).key = d.key ∧ (dir t).next = d.next ∧ (dir t).due = d.due)
        ∧ (d.ctr.toNat + 1 = 2 ^ 48 → rx = false → d.next = none → (dir t).idle = true ∧ (dir t).due = true ∧ (dir t).ctr = d.ctr ∧ (dir t).key = d.key)
        ∧ (∀ k x, rx = false → d.next = some (k, x) →
            (dir t).key = some k ∧ (dir t).salt = x ∧ (dir t).ctr = 1 ∧ (dir t).next = none ∧ (dir t).idle = false ∧ (dir t).due = d.due)
        ∧ ((t.link port).failed = true ↔ 8 ≤ d.fails + 1) ∧ t.feEvents = (if 8 ≤ d.fails + 1 then s.feEvents ++ [.report 1 port] else s.feEvents))
    ∧ (∃ t, exec (.keyInstall port rx key salt) s = .next t ∧ s.BytesSame t ∧ (dir t).due = d.due
        ∧ ((d.key = none ∨ d.idle = true) → (dir t).key = some key ∧ (dir t).salt = salt ∧ (dir t).ctr = 0 ∧ (dir t).idle = false ∧ (dir t).next = none)
        ∧ (d.key ≠ none → d.idle = false → (dir t).key = d.key ∧ (dir t).ctr = d.ctr ∧ (dir t).next = some (key, salt)))
    ∧ (let n := s.bar0.notifyLog.toNat
       let at_ := placeHost (s.bar0.notifyBase.toNat * 256 + 32 * (s.bar0.notifyTail.toNat % 2 ^ n))
       l.tx.due = true → 4 ≤ n → n ≤ 12 → (s.bar0.notifyTail - s.bar0.notifyHead).toNat ≠ 2 ^ n →
        ∃ t, exec (.keyExhaustion port) s = .next t ∧ (t.link port).tx = { l.tx with due := false } ∧ t.bar0.notifyTail = s.bar0.notifyTail + 1
          ∧ (∀ f, Map.get 0 t.bar0.msix0 f = Map.get 0 s.bar0.msix0 f
              + if s.bar0.claim.getLsbD 63 = true ∧ f = (s.bar0.claim.extractLsb' 0 2).toNat then 1 else 0)
          ∧ t.load at_ 2 = 5 ∧ t.load (at_ + 16) 8 = s.dtime % 2 ^ 64 ∧ ∀ q, q < at_ ∨ at_ + 32 ≤ q → t.byte q = s.byte q)
    ∧ (l.tx.due = false → exec (.keyExhaustion port) s = .next s))

/-- R418 to R420, R422, R429, R430, R435, R436, R441, R445, R447: only the owner that CLAIM names writes the registers; a function claims an
unowned device, or takes the offer made to it, by a compare and swap; the owner offers and releases; its reset releases. MBOX starts one
command at a time. A doorbell within 32,767 of the last sets the tail and raises an event, any other is counted; a queue becomes active from
index zero or, with a bad field, goes to error; a drain discards what is not dispatched. -/
def Obligations.OwnerWritesRegisters : Prop :=
  ∀ (f q : Nat) (old new v : XWord) (s : State), f < 4 →
    let own := s.owner f = true ∧ s.barWrites = true
    let x := s.queue q
    let owned (i : Instr) : Prop := s.owner f = false → exec i s = .next s
    let sets (i : Instr) (b : Bar0) : Prop := ∃ t, exec i s = .next t ∧ t = { s with bar0 := b }
    (s.barWrites = true → s.bar0.claim = old → new = claimed f → (old = 0 ∨ old.toNat / 4 * 4 = 0xC000000000000000 + 256 * f) →
      sets (.claimCas f old new) { s.bar0 with claim := claimed f })
    ∧ ((s.bar0.claim ≠ old ∨ new ≠ claimed f) → exec (.claimCas f old new) s = .next s)
    ∧ (own → (v = 0 ∨ ∃ g, g < 4 ∧ v.toNat = 0xC000000000000000 + 256 * g + f) → sets (.claimWrite f v) { s.bar0 with claim := v }) ∧ owned (.claimWrite f v)
    ∧ (s.owner f = true → sets (.functionLevelReset f) { s.bar0 with claim := 0 }) ∧ owned (.functionLevelReset f)
    ∧ (own → sets (.notify f v) { s.bar0 with notifyBase := v.extractLsb' 8 56, notifyLog := v.extractLsb' 0 4, notifyHead := 0, notifyTail := 0, lost := 0 })
    ∧ owned (.notify f v)
    ∧ (own → (v.setWidth 32 - s.bar0.notifyHead).toNat ≤ (s.bar0.notifyTail - s.bar0.notifyHead).toNat →
        sets (.notifyhead f v) { s.bar0 with notifyHead := v.setWidth 32 }) ∧ owned (.notifyhead f v)
    ∧ (own → s.bar0.mboxState ≠ 1 → sets (.registerWrite f 0x200 v) { s.bar0 with mboxAddr := v.extractLsb' 8 56, mboxState := 1 })
    ∧ (s.bar0.mboxState = 1 → exec (.registerWrite f 0x200 v) s = .next s) ∧ owned (.registerWrite f 0x200 v)
    ∧ (own → ∃ t, exec (.pwrcap f v) s = .next t ∧ t.bar0 = { s.bar0 with cap := v.extractLsb' 0 2 }
        ∧ t.power = max s.power (if s.anyJob then min (v.toNat % 4) 2 else v.toNat % 4) ∧ s.BytesSame t) ∧ owned (.pwrcap f v)
    ∧ (own → q = v.toNat % 2 ^ 10 →
        let seq : BitVec 16 := v.extractLsb' 16 16
        let d := (seq - x.lseq).toNat
        (x.state = 1 → 1 ≤ d → d ≤ 32767 →
          ∃ t, exec (.doorbell f v) s = .next t ∧ t.queue q = { x with lseq := seq, tail := BitVec.ofNat 16 (v.toNat / 2 ^ 32 % 2 ^ 16 % 2 ^ x.log.toNat) }
            ∧ FeEvent.tail q ∈ t.feEvents ∧ s.BytesSame t)
        ∧ (¬ (x.state = 1 ∧ 1 ≤ d ∧ d ≤ 32767) →
          ∃ t, exec (.doorbell f v) s = .next t ∧ t.queue q = { x with dbdrop := x.dbdrop + 1 } ∧ t.feEvents = s.feEvents))
    ∧ owned (.doorbell f v)
    ∧ (own → q < 1024 → v.toNat / 2 ^ 60 % 8 = 1 → x.state ≠ 1 → x.state ≠ 2 →
        let job := v.toNat / 2 ^ 48 % 2 ^ 8
        let log := v.toNat % 32
        ∃ t, exec (.queueActivate f q v) s = .next t ∧ (t.queue q).log.toNat = log ∧ (t.queue q).job.toNat = job
          ∧ (t.queue q).base.toNat = v.toNat % 2 ^ 48 / 256 * 256 ∧ s.BytesSame t
          ∧ (4 ≤ log → log ≤ 16 → (s.job job).live = true →
              (t.queue q).state = 1 ∧ (t.queue q).head = 0 ∧ (t.queue q).tail = 0 ∧ (t.queue q).lseq = 0 ∧ (t.queue q).part = 0 ∧ (t.queue q).dbdrop = 0)
          ∧ (¬ (4 ≤ log ∧ log ≤ 16 ∧ (s.job job).live = true) → (t.queue q).state = 3))
    ∧ owned (.queueActivate f q v)
    ∧ (own → q < 1024 → v.toNat / 2 ^ 60 % 8 = 2 → x.state = 1 →
        (x.lock ≠ none → ∃ t, exec (.queueDrain f q v) s = .next t ∧ t.queue q = { x with state := 2 })
        ∧ (x.lock = none → x.open_ = [] → ∃ t, exec (.queueDrain f q v) s = .next t ∧ (t.queue q).state = 0 ∧ (t.queue q).head = x.tail))
    ∧ owned (.queueDrain f q v)

/-- R421 to R424, R439, R444, R445: Fleiz performs the command at the mailbox by its OP, and then sets STATE to 2 and LAST to its result: 1 for
an operand out of its range, 2 where no job number or no pool is left, 3 for a class or a group of another job, a domain in use, or a system
class that no firmware defines, 4 for an OP of no command, with nothing of jobs, classes, domains, groups and queues changed; 0 for a
command performed. A created job has a number that was free, its descriptor's fields and its pool; a destroyed one is killed first and freed
once nothing of it is on its way, and the power state is then one that CAP allows; a defined class, or a redefined one that moves nothing
while it is in use, has its image and its group; a domain its masks; a copy moves its bytes, either way; a group its job with FNARM as
FNTEN; an opened class is among the job's. That a redefinition makes the whole record the new one, its cave-exhausted mark cleared, is the
model's choice (notes/assumptions/86.md). An attestation is written with its digests, versions and signature (a free value, log entry 8),
and counted for its function's interrupt. That a created job has priority 0 (notes/assumptions/30.md), which free number it gets
(notes/assumptions/28.md), that the block is read once and where (notes/assumptions/41.md), what a kill leaves to wait for
(notes/assumptions/44.md), and the range of a base without a length (notes/assumptions/122.md) are the model's choices. -/
def Obligations.MailboxCommands : Prop :=
  ∀ (f : Nat) (v : XWord) (s : State), s.MemOk →
    let dw := s.cmdDw
    let w := (dw 2).toNat
    let ends (i : Instr) (code : Nat) (P : State → Prop) : Prop := ∃ t, exec i s = .next t ∧ t.bar0.mboxState = 2 ∧ t.bar0.mboxLast = BitVec.ofNat 16 code ∧ t.bar0.block = none ∧ P t
    let same (t : State) : Prop := t.jobs = s.jobs ∧ t.classes = s.classes ∧ t.domains = s.domains ∧ (∀ n, t.group n = s.group n) ∧ t.queues = s.queues
    (s.cmdOp = some 1 →
      (s.jobDescOk = false → ends .createJob 1 same)
      ∧ (s.jobDescOk = true → (s.poolPlace (s.cmdMask 8) ((dw 7).extractLsb' 16 16).toNat = none ∨ s.freeJobs = []) → ends .createJob 2 same)
      ∧ (∀ base, s.jobDescOk = true → s.poolPlace (s.cmdMask 8) ((dw 7).extractLsb' 16 16).toNat = some base → s.freeJobs ≠ [] →
          ends .createJob 0 fun t => ∃ j, 1 ≤ j ∧ j ≤ 255 ∧ (s.job j).live = false ∧ (t.job j).live = true ∧ (t.job j).root = w ∧ (t.job j).code = dw 3
            ∧ (t.job j).codelen = (dw 4).toNat ∧ (t.job j).jpar = dw 5 ∧ (t.job j).cset = s.cmdMask 8 ∧ (t.job j).poolBase = base
            ∧ (t.job j).poolLines = ((dw 7).extractLsb' 16 16).toNat ∧ (t.job j).prio = 0 ∧ (t.job j).gap = 0xFFFFFFFF ∧ ∀ i, i ≠ j → t.job i = s.job i))
    ∧ (s.cmdOp = some 2 →
      (s.jobOk (dw 2) = false → ends .destroyJob 1 same)
      ∧ (s.jobOk (dw 2) = true → (s.job w).dying = false → ∃ t, exec .destroyJob s = .next t ∧ (t.job w).dying = true ∧ ∀ k a, (t.core k).act = some a → a.job ≠ w)
      ∧ (s.jobOk (dw 2) = true → (s.job w).dying = true → s.jobGone w = false →
          ∃ t, exec .destroyJob s = .next t ∧ t = { s with bar0 := { s.bar0 with block := t.bar0.block } })
      ∧ (s.jobOk (dw 2) = true → (s.job w).dying = true → s.jobGone w = true → ends .destroyJob 0 fun t => t.job w = {} ∧ t.power = max s.power t.capNow ∧ ∀ i, i ≠ w → t.job i = s.job i))
    ∧ (s.cmdOp = some 3 → (s.jobOk (dw 2) = false ∨ (dw 3).toNat < 64 ∨ 4095 < (dw 3).toNat) → ends .defineClass 1 same)
    ∧ (s.cmdOp = some 3 → s.jobOk (dw 2) = true → 64 ≤ (dw 3).toNat → (dw 3).toNat ≤ 4095 →
      let c : BitVec 12 := BitVec.ofNat 12 (dw 3).toNat
      let img := s.classImage
      (s.classImageOk = false → ends .defineClass 1 same)
      ∧ (s.classImageOk = true → (s.cls c).valid = true → (s.cls c).job ≠ w → ends .defineClass 3 same)
      ∧ (s.classImageOk = true → (s.cls c).valid = false → s.groupTaken img.ngrp.toNat w = false → dw 6 ≠ 0 →
          ends .defineClass 0 fun t => t.cls c = { img with nbkt := BitVec.ofNat 32 ((dw 7).toNat / img.bucket) } ∧ (t.group img.ngrp.toNat).job = some w
            ∧ ∀ d, d ≠ c → t.cls d = s.cls d)
      ∧ (s.classImageOk = true → (s.cls c).valid = false → s.groupTaken img.ngrp.toNat w = true → ends .defineClass 3 same)
      ∧ (s.classImageOk = true → (s.cls c).valid = true → (s.cls c).job = w →
          let old := s.cls c
          let n := BitVec.ofNat 32 ((dw 7).toNat / img.bucket)
          let new : ClassDesc := { img with nbkt := n, caveb := if dw 6 = 0 ∧ old.nbkt = n ∧ old.curdl = img.curdl then old.caveb else img.caveb }
          ((old.moves new = true ∧ s.classInUse c = true) ∨ s.groupTaken img.ngrp.toNat w = true → ends .defineClass 3 same)
          ∧ ((old.moves new = false ∨ s.classInUse c = false) → s.groupTaken img.ngrp.toNat w = false → new.caveb ≠ 0 →
              ends .defineClass 0 fun t => t.cls c = new ∧ (t.group img.ngrp.toNat).job = some w ∧ ∀ d, d ≠ c → t.cls d = s.cls d)))
    ∧ (s.cmdOp = some 4 →
      (64 ≤ w → ends .writePlacementDomain 1 same)
      ∧ (w < 64 → s.domainInUse w = true → ends .writePlacementDomain 3 same)
      ∧ (w < 64 → s.domainInUse w = false → ends .writePlacementDomain 0 fun t => t.domain w = ⟨s.cmdMask 4, (dw 3).setWidth 8⟩ ∧ ∀ d, d ≠ w → t.domain d = s.domain d))
    ∧ (s.cmdOp = some 5 →
      let p := (dw 3).toNat
      let n := (dw 4).toNat
      ((n = 0 ∨ 2 ^ 32 < n ∨ 2 ^ 39 < p + n ∨ 2 ^ 64 < w + n) → ends .copy 1 same)
      ∧ (1 ≤ n → n ≤ 2 ^ 32 → p + n ≤ 2 ^ 39 → w + n ≤ 2 ^ 64 → (dw 5).getLsbD 0 = false →
          ends .copy 0 fun t => same t ∧ (∀ i, i < n → t.byte (p + i) = s.byte (placeHost w + i)) ∧ ∀ a, a < 2 ^ 39 → a < p ∨ p + n ≤ a → t.byte a = s.byte a)
      ∧ (1 ≤ n → n ≤ 2 ^ 32 → p + n ≤ 2 ^ 39 → w + n ≤ 2 ^ 64 → (dw 5).getLsbD 0 = true →
          let res := placeHost (s.bar0.mboxAddr.toNat * 256 + 248)
          let note := placeHost (s.bar0.notifyBase.toNat * 256 + 32 * (s.bar0.notifyTail.toNat % 2 ^ s.bar0.notifyLog.toNat))
          ends .copy 0 fun t => same t ∧ (∀ a, a < 2 ^ 39 → t.byte a = s.byte a)
            ∧ ∀ i, i < n → (let a := placeHost w + i; (a < res ∨ res + 8 ≤ a) → (a < note ∨ note + 32 ≤ a) → t.byte a = s.byte (p + i))))
    ∧ (s.cmdOp = some 6 →
      let n := (dw 3).toNat
      let arm := (dw 4).getLsbD 0
      ((s.jobOk (dw 2) = false ∨ 255 < n) → ends .assignNumericsGroup 1 same)
      ∧ (s.jobOk (dw 2) = true → n ≤ 255 → s.groupTaken n w = true → ends .assignNumericsGroup 3 same)
      ∧ (s.jobOk (dw 2) = true → n ≤ 255 → s.groupTaken n w = false →
          ends .assignNumericsGroup 0 fun t => t.group n = { job := some w, fnten := arm, fnarm := arm } ∧ ∀ m, m ≠ n → t.group m = s.group m))
    ∧ (s.cmdOp = some 7 → (s.jobOk (dw 2) = false ∨ (dw 3).toNat = 0 ∨ 63 < (dw 3).toNat) → ends .openSystemClass 1 same)
    ∧ (s.cmdOp = some 7 → s.jobOk (dw 2) = true → 1 ≤ (dw 3).toNat → (dw 3).toNat ≤ 63 →
      let c := (dw 3).toNat
      ((s.cls (BitVec.ofNat 12 c)).valid = false → ends .openSystemClass 3 same)
      ∧ ((s.cls (BitVec.ofNat 12 c)).valid = true → ends .openSystemClass 0 fun t => ∀ n, n ∈ (t.job w).opened ↔ n = c ∨ n ∈ (s.job w).opened))
    ∧ (∀ op, s.cmdOp = some op → (op = 0 ∨ 7 < op) → ends .unknownOp 4 same)
    ∧ (s.fleizUp = true → f < 4 →
      let at_ := placeHost v.toNat
      ∃ t, exec (.attestationRequest f v) s = .next t ∧ Map.get 0 t.bar0.msix1 f = Map.get 0 s.bar0.msix1 f + 1
        ∧ t.load (at_ + 48) 48 = (Config.sha384 s.boot.rom).toNat ∧ t.load (at_ + 96) 48 = s.boot.digest.toNat ∧ t.load (at_ + 144) 4 = s.boot.fwver.toNat
        ∧ t.load (at_ + 148) 4 = s.boot.minVersion.toNat ∧ t.load (at_ + 152) 96 = (Config.attestSignature (Memory.readList t.mem at_ 152)).toNat
        ∧ t.load (at_ + 248) 8 = 0 ∧ ∀ q, q < at_ + 48 ∨ at_ + 256 ≤ q → t.byte q = s.byte q)

/-- R427 to R434, R437, R438: every 10,000 ticks a tail the host has shadowed is taken up; an idle front-end core takes the oldest event and its
queue's lock; it injects the message of the part at HEAD with its key, sender and payload, and HEAD moves with the last part; a fence
completes once the floor is above its stamp; a barrier packet loads its cluster's barriers; a kill ends every activation of its job; a
front-end core fenced out leaves its queue's event at the head, and a drain that came meanwhile ends the packet it was in; a failing
descriptor puts its queue into error and the owner is told where its ring has room. That the shadow tail is read in host memory whatever LOC
says is the model's choice (notes/assumptions/41.md), as is how the timer's work takes a core (notes/assumptions/52.md). -/
def Obligations.FrontEndDispatchesPackets : Prop :=
  ∀ (q i : Nat) (s : State), s.MemOk →
    let x := s.queue q
    let dw := s.slotDw x
    let serves (type : Nat) : Prop := s.dispatching q = true ∧ x.state = 1 ∧ x.part = 0 ∧ x.open_ = [] ∧ s.slotType x = type ∧ s.badPacket x = false
    let moved (t : State) : Prop := (t.queue q).head = BitVec.ofNat 16 ((x.head.toNat + 1) % 2 ^ x.log.toNat) ∧ (t.queue q).part = 0
    let injects (e : Instr) (key : XWord) (cls : BitVec 12) (sel : BitVec 6) : Prop :=
      ∃ t p m, exec e s = .next t ∧ moved t ∧ t.net = s.net ++ [p] ∧ p.src = epHost ∧ p.body = .msg m ∧ m.key = key ∧ m.cls = cls ∧ m.sel = sel ∧ m.kind = 2
        ∧ m.skey = BitVec.ofNat 64 q ∧ m.job = x.job.toNat ∧ m.stamp = (dw 3).setWidth 32 ∧ m.len = (dw 2).toNat / 2 ^ 18 % 256
        ∧ m.payload = Memory.readList s.mem (x.slotPlace + 32) m.len
    let free (key : XWord) (cls : BitVec 12) : Prop :=
      s.retainRoom epHost (retainBytes (ctlLen (dw 2))) = true ∧ ∀ m : Msg, m.key = key → m.cls = cls → s.resendAhead epHost m = false
    (s.fleizUp = true → s.poolTakes (.tail q) = true → x.state = 1 → x.head ≠ x.tail →
      ∃ t c, exec (.tailEvent q) s = .next t ∧ s.poolIdle = some c ∧ t.queue q = { x with lock := some c } ∧ t.feEvents = s.feEvents.erase (.tail q) ∧ s.BytesSame t)
    ∧ (serves 0 → s.slotKeys x = 0 → free (dw 1) ((dw 2).extractLsb' 0 12) →
        injects (.actorMessage q) (dw 1) ((dw 2).extractLsb' 0 12) ((dw 2).extractLsb' 12 6))
    ∧ (serves 1 → free (dw 1) 0 → injects (.addressOwnedActiveMessage q) (dw 1) 0 0)
    ∧ (serves 2 → s.slotOp x = 0 →
        let v : BitVec 32 := (dw 3).setWidth 32
        let j := s.job x.job.toNat
        ((j.floorEmpty = true ∨ v < j.floorMin) → ∃ t, exec (.jobControlFence q) s = .next t ∧ moved t ∧ (t.queue q).count = x.count + 1 ∧ (t.queue q).open_ = [])
        ∧ (¬ (j.floorEmpty = true ∨ v < j.floorMin) →
            ∃ t p, exec (.jobControlFence q) s = .next t ∧ moved t ∧ (t.queue q).count = x.count ∧ (t.queue q).open_ = [p] ∧ p.fence = some v))
    ∧ (serves 2 → s.slotOp x = 1 →
        let g := (dw 1).toNat
        ∃ t, exec (.barrierLoad q) s = .next t ∧ moved t ∧ (t.queue q).count = x.count + 1
          ∧ ∀ n, n < 16 → t.bar g n =
              { en := (dw (4 + n)).getLsbD 63, job := x.job, phase := (s.bar g n).phase, parties := (dw (4 + n)).extractLsb' 16 8, arrived := 0, pending := 0 })
    ∧ (serves 2 → s.slotOp x = 2 →
        ∃ t, exec (.killJob q) s = .next t ∧ moved t ∧ (t.queue q).count = x.count + 1
          ∧ ∀ k, (∀ a, (t.core k).act = some a → a.job ≠ x.job.toNat) ∧ (∀ y ∈ (t.core k).deque, y.job ≠ x.job.toNat) ∧ ∀ y ∈ (t.core k).inbox, y.msg.job ≠ x.job.toNat)
    ∧ (i < 12 → s.fenced = [] → s.queues = [(q, x)] → x.lock = some i →
        ∃ t, exec (.frontEndCoreFence i) s = .next t ∧ t.fenced = [i] ∧ (t.queue q).lock = none ∧ t.feEvents.head? = some (.tail q)
          ∧ (x.state = 1 → t.queue q = { x with lock := none }) ∧ (x.state = 2 → (t.queue q).head = x.tail ∧ (t.queue q).part = 0))
    ∧ (q < 1024 → let n := s.bar0.notifyLog.toNat
        let at_ := placeHost (s.bar0.notifyBase.toNat * 256 + 32 * (s.bar0.notifyTail.toNat % 2 ^ n))
        ∃ t, exec (.queueDescriptorError q) s = .next t ∧ t.queue q = { x with state := 3, lock := none }
          ∧ (4 ≤ n → n ≤ 12 → (s.bar0.notifyTail - s.bar0.notifyHead).toNat ≠ 2 ^ n →
              t.bar0.notifyTail = s.bar0.notifyTail + 1 ∧ t.load at_ 2 = 2 ∧ t.load (at_ + 8) 8 = q ∧ t.load (at_ + 16) 8 = s.dtime % 2 ^ 64))
    ∧ (s.nextShadow ≤ s.dtime → s.fleizUp = true → s.feEvents = [] → s.poolIdle ≠ none → s.queues = [(q, x)] → x.state = 1 →
        let n := 2 ^ x.log.toNat
        let shadow := s.load (placeHost x.shadow.toNat) 8
        let ahead := (shadow + n - x.tail.toNat % n) % n
        let room := (x.head.toNat + 2 * n - x.tail.toNat % n - 1) % n
        ∃ t, exec .shadowReconcile s = .next t ∧ s.dtime < t.nextShadow ∧ t.nextShadow ≤ s.dtime + 10000 ∧ t.nextShadow % 10000 = 0 ∧ s.BytesSame t
          ∧ (0 < ahead → ahead ≤ room → t.queue q = { x with tail := BitVec.ofNat 16 (shadow % n) } ∧ FeEvent.tail q ∈ t.feEvents)
          ∧ (¬ (0 < ahead ∧ ahead ≤ room) → t.queue q = x))

/-- R353, R440, R442, R443, R445 to R447: of the sources in their order the first image that is new enough and whose digest, signature and key
agree is booted, else the boot has failed; at 100 °C the power state goes up by one, once per 100 µs, and comes back by one below 95 °C,
once per 1 ms, not past CAP; at 110 °C every job is killed, once, and the clocks are gated; LEVELSUM is the sum of the engines' levels; an
unread ECC error is an event. -/
def Obligations.BootAndPower : Prop :=
  ∀ (what : Nat) (s : State),
    let b := s.boot
    let fine (i : Image) : Prop :=
      b.minVersion ≤ i.version ∧ Config.sha384 i.bytes = i.digest ∧ Config.ecdsaVerify i.pubkey i.digest i.sig = true ∧ Config.sha384 i.pubkey = b.keyHash
    let boots (src : BitVec 4) (i : Image) (t : State) : Prop := t = { s with boot := { b with state := 3, source := src, fwver := i.version, digest := i.digest } }
    let top := if s.anyJob then 2 else 3
    (b.state = 0 → ∀ i j, b.flash = some i → b.nvme = some j →
      let first := if b.bootsel then j else i
      let other := if b.bootsel then i else j
      ∃ t, exec .secureBoot s = .next t
        ∧ ((fine first ∧ boots (if b.bootsel then 2 else 1) first t) ∨ (¬ fine first ∧ fine other ∧ boots (if b.bootsel then 1 else 2) other t)
          ∨ (¬ fine first ∧ ¬ fine other ∧ t = { s with boot := { b with state := 4 } })))
    ∧ (s.fleizUp = true → s.hotAt ≤ s.dtime →
        ∃ t, exec .thermalThrottle s = .next t ∧ t.power = max s.power (min top (s.power + 1)) ∧ t.hotAt = s.dtime + 100000 ∧ t.cores = s.cores)
    ∧ (s.dtime < s.hotAt → exec .thermalThrottle s = .next s)
    ∧ (s.fleizUp = true → s.coolAt ≤ s.dtime → s.tripped = false →
        (s.capNow < s.power → ∃ t, exec .thermalRecovery s = .next t ∧ t = { s with power := s.power - 1, coolAt := s.dtime + 1000000 })
        ∧ (s.power ≤ s.capNow → exec .thermalRecovery s = .next s))
    ∧ (s.fleizUp = true → s.tripped = false →
        ∃ t, exec .thermalTrip s = .next t ∧ t.tripped = true ∧ t.gated = true ∧ ∀ k a, (t.core k).act = some a → (s.job a.job).live = false)
    ∧ (s.tripped = true → exec .thermalTrip s = .next s)
    ∧ (s.nextLevel ≤ s.dtime →
        ∃ t, exec .levelsumSample s = .next t ∧ t.bar0 = { s.bar0 with levelsum := BitVec.ofNat 16 (s.clusters.map fun g => g.2.engine.level).sum }
          ∧ s.dtime < t.nextLevel ∧ t.nextLevel ≤ s.dtime + 1000 ∧ t.nextLevel % 1000 = 0 ∧ t.cores = s.cores ∧ s.BytesSame t)
    ∧ ∃ t, exec (.unreadEccError what) s = .next t ∧ t = { s with feEvents := s.feEvents ++ [.report 0 what] }

/-- R450 to R455: a debugger's attachment sets HOLD; a fetch that matches a breakpoint register, or finds `ebreak`, holds its core of a held job
and asks the job to stop, unless the fetched word lies in failing storage; a core whose step has ended is held; a job stop marks the job; GO
and STEP release held cores; a software breakpoint is posted over its word to the store that holds it, and taken back with the original,
each in place once its store is acknowledged; an inspection write changes its register, mask, view, accumulator element or doubleword alone;
a reverse step to a boundary that can be replayed puts the core back as it stood, its private lines with it, held. Where Fleiz patches from
and how a removal goes (notes/assumptions/45.md), the format of the replay region (notes/assumptions/46.md), and which instruction a stop
has let go (notes/assumptions/80.md) are the model's choices. -/
def Obligations.DebuggerStopsAndInspects : Prop :=
  ∀ (job k n id : Nat) (r : BitVec 5) (v : XWord) (a : Nat) (addr : BitVec 32) (s : State), s.MemOk →
    let c := s.core k
    ((s.job job).live = true → ∃ t, exec (.nernathAttach job) s = .next t ∧ t.job job = { s.job job with hold := true } ∧ (∀ j, j ≠ job → t.job j = s.job j) ∧ s.BytesSame t)
    ∧ (∀ w, s.fetches k = true → s.fetchWord k = some w → s.jobHeld k = true → s.fetchEcc k = false → c.noMatch = false → c.replay = false →
        (∀ m, s.matchBp k = some m → ∃ t, exec (.breakpointStop k) s = .next t ∧ (t.core k).held = some (1 + m) ∧ (t.job c.jobNum).stopReq = true ∧ (t.core k).pc = c.pc
          ∧ (t.core k).xs = c.xs ∧ s.BytesSame t)
        ∧ (s.matchBp k = none → decode w = some .ebreak → ∃ t, exec (.breakpointStop k) s = .next t ∧ (t.core k).held = some 17 ∧ (t.job c.jobNum).stopReq = true
            ∧ (t.core k).pc = c.pc ∧ s.BytesSame t)
        ∧ (s.matchBp k = none → decode w ≠ some .ebreak → exec (.breakpointStop k) s = .next s))
    /- No breakpoint where the fetch does not succeed; at the end of a step the core stops before it fetches. -/
    ∧ (s.fetches k = true → s.fetchWord k ≠ none → s.fetchEcc k = true → exec (.breakpointStop k) s = .next s)
    ∧ (s.coreNext k = .hold → ∃ t, exec (.breakpointStop k) s = .next t ∧ (t.core k).held = some 19 ∧ (t.core k).pc = c.pc ∧ (t.core k).xs = c.xs ∧ t.jobs = s.jobs
        ∧ s.BytesSame t)
    ∧ (∀ w, s.fetches k = true → s.fetchWord k = some w → s.jobHeld k = true → s.fetchEcc k = false → c.noMatch = true → s.original c.jobNum c.pc = none → decode w = some .ebreak →
        ∃ t, exec (.breakpointStop k) s = .next t ∧ (t.core k).held = some 17 ∧ (t.core k).pc = c.pc ∧ s.BytesSame t)
    ∧ ((s.job job).live = true → (s.job job).stopping = false →
        ∃ t, exec (.jobStop job) s = .next t ∧ (t.job job).stopping = true ∧ (t.job job).stopReq = false ∧ s.BytesSame t)
    ∧ ((s.job job).live = true →
        ∃ t, exec (.go job) s = .next t ∧ (t.job job).stopping = false ∧ (t.job job).stopReq = false ∧ s.BytesSame t
          ∧ ∀ act, c.act = some act → act.job = job → c.replay = false → c.held ≠ none → k ∈ s.jobCores job → (s.jobCores job).Nodup →
              (t.core k).held = none ∧ (t.core k).pc = c.pc ∧ (t.core k).xs = c.xs ∧ (t.core k).noMatch = true)
    ∧ (c.held ≠ none → c.replay = false →
        ∃ t, exec (.step k) s = .next t ∧ (t.core k).held = none ∧ (t.core k).stepping = true ∧ (t.core k).noMatch = true ∧ (t.core k).pc = c.pc ∧ (t.core k).xs = c.xs
          ∧ s.BytesSame t)
    ∧ (∀ g i, (∃ x, (job, x) ∈ s.jobs) → (s.job job).live = true → addr.toNat % 4 = 0 → s.codeClusters job addr = [g] → s.fetchHit g job addr = some i →
        let p := fetchPlace g i addr
        let room := (s.core patchCore).posted.length < 32 ∧ s.retainRoom patchCore (retainBytes 4) = true
        /- A word is on its way to the place, from Fleiz's core, in order. -/
        let posts (t : State) (w : Word) : Prop :=
          ∃ q ∈ t.net, q.src = patchCore ∧ q.dst = padCore p ∧ ∃ x, q.body = .posted x ∧ x.line = lineOf p ∧ x.kind = 0
            ∧ (∀ j, j < 128 → (x.mask.getLsbD j = true ↔ p % 128 ≤ j ∧ j < p % 128 + 4)) ∧ x.data.extractLsb' (8 * (p % 128)) 32 = w
        let patch := (s.job job).patches.find? fun x => decide (x.addr = addr)
        (patch = none → room → ∃ t, exec (.softwareBreakpointPatch job addr true) s = .next t ∧ posts t 0x10000018 ∧ t.patchInPlace job addr = false
            ∧ t.original job addr = some (BitVec.ofNat 32 (s.load p 4)) ∧ s.BytesSame t)
        ∧ (∀ x, patch = some x → x.on = true → s.settled x = true →
            s.patchInPlace job addr = true
            ∧ (room → ∃ t, exec (.softwareBreakpointPatch job addr false) s = .next t ∧ posts t x.word ∧ t.original job addr = some x.word
                ∧ t.patchInPlace job addr = false ∧ s.BytesSame t)
            ∧ exec (.softwareBreakpointPatch job addr true) s = .next s)
        ∧ (∀ x, patch = some x → x.on = false → s.settled x = true →
            ∃ t, exec (.softwareBreakpointPatch job addr false) s = .next t ∧ t.original job addr = none ∧ s.BytesSame t))
    ∧ (c.held ≠ none → (c.reg r.toNat).full = true →
        ∃ t, exec (.inspectionWrite k (.x r) v) s = .next t ∧ (∀ key, (t.core k).regAt key = (c.setX r v).regAt key) ∧ (t.core k).held = c.held ∧ s.BytesSame t)
    ∧ (c.held ≠ none → a % 8 = 0 → a + 8 ≤ c.spsize →
        ∃ t, exec (.inspectionWrite k (.pad a) v) s = .next t ∧ t.load (placePad k a) 8 = v.toNat ∧ t.core k = { c with logged := c.logged.filter (fun l => decide (l ≠ a / 128)), saved := c.saved.map fun x => x.unlog (a / 128) }
          ∧ ∀ q, q < placePad k a ∨ placePad k a + 8 ≤ q → t.byte q = s.byte q)
    ∧ (c.held ≠ none → ∀ (m : BitVec 3) (d : Nat), d < 2 → m ≠ 0 →
        ∃ t, exec (.inspectionWrite k (.m m d) v) s = .next t ∧ ((t.core k).mask m).extractLsb' (64 * d) 64 = v
          ∧ ((t.core k).mask m).extractLsb' (64 * (1 - d)) 64 = (c.mask m).extractLsb' (64 * (1 - d)) 64 ∧ (t.core k).xs = c.xs ∧ s.BytesSame t)
    ∧ (c.held ≠ none → ∀ (z : BitVec 2) (i : Nat), i < 1024 →
        ∃ t, exec (.inspectionWrite k (.acc z i) v) s = .next t ∧ (∀ j, Map.get 0 ((t.core k).acc z).el j = if j = i then v.setWidth 32 else Map.get 0 (c.acc z).el j)
          ∧ (t.core k).xs = c.xs ∧ s.BytesSame t)
    ∧ (c.held ≠ none → ∀ q : BitVec 4, ∃ t, exec (.inspectionWrite k (.q q 0) v) s = .next t ∧ (t.core k).view q.toNat = { c.view q.toNat with base := v } ∧ s.BytesSame t)
    ∧ (c.held = none → ∀ what, exec (.inspectionWrite k what v) s = .next s)
    ∧ ∀ x, c.act = none → c.saving = false → (s.job job).cset.getLsbD (coreCluster k) = true → s.snaps = [x] → x.job = job → x.uid = id → x.instret = n →
        (∀ b b', b ∈ x.priv → b' ∈ x.priv → b.1 = b'.1 → b = b') →
        (s.replayable x = false → exec (.reverseStep job id k n) s = .next s)
        ∧ (s.replayable x = true →
        ∃ t, exec (.reverseStep job id k n) s = .next t ∧ (t.core k).held = some 19 ∧ (t.core k).replay = true ∧ (t.core k).act = x.core.act ∧ (t.core k).pc = x.core.pc
          ∧ (t.core k).xs = x.core.xs ∧ (t.core k).vs = x.core.vs ∧ (t.core k).ctx = { x.core.ctx with distBase := s.cycles }
          ∧ (∀ b ∈ x.priv, t.byte (placePad k b.1) = b.2)
          ∧ ∀ o, o < x.core.spsize → x.core.privateLine (o / 128) = true → (∀ b ∈ x.priv, b.1 ≠ o) → t.byte (placePad k o) = 0)
end

