-- ==== Sys2Proof/Laws/Map.lean ====
section
/-! SUPPORT. Reading a finite map after a change of it. -/

namespace Sys2Proof

/-- Reading after a put: the value put, or what stood there. -/
theorem Map.get_put {α : Type} (d : α) (m : Map α) (k j : Nat) (v : α) :
    Map.get d (Map.put m k v) j = if k = j then v else Map.get d m j := by
  induction m with
  | nil => rfl
  | cons p t ih =>
    obtain ⟨a, b⟩ := p
    simp only [Map.put]
    split
    · rfl
    · split
      · rename_i h1 h2
        subst h2
        by_cases h : k = j <;> simp [Map.get, h]
      · rename_i h1 h2
        by_cases h : a = j
        · subst h; simp [Map.get, h2]
        · simp [Map.get, h, ih]

/-- Reading the key just put. -/
@[simp] theorem Map.get_put_same {α : Type} (d : α) (m : Map α) (k : Nat) (v : α) : Map.get d (Map.put m k v) k = v := by
  simp [Map.get_put]

/-- Reading another key. -/
theorem Map.get_put_other {α : Type} (d : α) (m : Map α) (k j : Nat) (v : α) (h : k ≠ j) :
    Map.get d (Map.put m k v) j = Map.get d m j := by
  simp [Map.get_put, h]

/-- An empty map lists nothing. -/
@[simp] theorem Map.get_nil {α : Type} (d : α) (k : Nat) : Map.get d [] k = d := rfl

/-- Reading after a removal. -/
theorem Map.get_del {α : Type} (d : α) (m : Map α) (k j : Nat) :
    Map.get d (Map.del m k) j = if k = j then d else Map.get d m j := by
  induction m with
  | nil => simp [Map.del]
  | cons p t ih =>
    obtain ⟨a, b⟩ := p
    simp only [Map.del]
    split
    · rename_i h
      subst h
      rw [ih]
      by_cases h : a = j <;> simp [Map.get, h]
    · rename_i h
      by_cases ha : a = j
      · subst ha; simp [Map.get, Ne.symm h]
      · simp [Map.get, ha, ih]

end Sys2Proof
end

