-- ==== Sys2Proof/Laws/Memory.lean ====
section
/-! SUPPORT. The laws of the one memory: its canonical form is kept by every operation, and a read after a write. -/

namespace Sys2Proof.Machine

/-- Canonical form of a longer list: the first entry, its order and the rest. -/
theorem Memory.wf_cons (a : Nat) (b : Byte) (t : Memory) :
    Memory.wf ((a, b) :: t) = true ↔ b ≠ Memory.unlisted ∧ (∀ p ∈ t, a < p.1) ∧ Memory.wf t = true := by
  induction t generalizing a b with
  | nil => simp [Memory.wf]
  | cons q t ih =>
    obtain ⟨a', b'⟩ := q
    have h := ih a' b'
    simp only [Memory.wf, Bool.and_eq_true, decide_eq_true_eq] at h ⊢
    constructor
    · rintro ⟨⟨hb, ha⟩, hw⟩
      obtain ⟨h1, h2, h3⟩ := h.1 hw
      refine ⟨hb, ?_, hw⟩
      intro p hp
      rcases List.mem_cons.1 hp with rfl | hp
      · exact ha
      · exact lt_trans ha (h2 p hp)
    · rintro ⟨hb, ha, hw⟩
      exact ⟨⟨hb, ha _ (List.mem_cons_self ..)⟩, hw⟩

/-- The addresses of a written memory: those there, and the one written. -/
theorem Memory.mem_write (m : Memory) (p : Nat) (v : Byte) : ∀ q ∈ m.write p v, q.1 = p ∨ q ∈ m := by
  induction m with
  | nil =>
    intro q hq
    simp only [Memory.write] at hq
    split at hq <;> simp_all
  | cons c t ih =>
    obtain ⟨a, b⟩ := c
    intro q hq
    simp only [Memory.write] at hq
    split at hq
    · split at hq
      · exact .inr hq
      · rcases List.mem_cons.1 hq with rfl | h
        · exact .inl rfl
        · exact .inr h
    · split at hq
      · split at hq
        · exact .inr (List.mem_cons_of_mem _ hq)
        · rcases List.mem_cons.1 hq with rfl | h
          · exact .inl rfl
          · exact .inr (List.mem_cons_of_mem _ h)
      · rcases List.mem_cons.1 hq with rfl | h
        · exact .inr (List.mem_cons_self ..)
        · rcases ih q h with h | h
          · exact .inl h
          · exact .inr (List.mem_cons_of_mem _ h)

/-- A write keeps the canonical form. -/
theorem Memory.write_wf (m : Memory) (p : Nat) (v : Byte) (h : m.wf = true) : (m.write p v).wf = true := by
  induction m with
  | nil =>
    simp only [Memory.write]
    split
    · rfl
    · rename_i hv; simp [Memory.wf, hv]
  | cons c t ih =>
    obtain ⟨a, b⟩ := c
    obtain ⟨hb, ha, ht⟩ := (Memory.wf_cons a b t).1 h
    simp only [Memory.write]
    split
    · rename_i hp
      split
      · exact h
      · rename_i hv
        refine (Memory.wf_cons p v _).2 ⟨hv, ?_, h⟩
        intro q hq
        rcases List.mem_cons.1 hq with rfl | hq
        · exact hp
        · exact lt_trans hp (ha q hq)
    · split
      · rename_i hp1 hp
        split
        · exact ht
        · rename_i hv
          exact (Memory.wf_cons p v _).2 ⟨hv, by subst hp; exact ha, ht⟩
      · rename_i hp1 hp2
        refine (Memory.wf_cons a b _).2 ⟨hb, ?_, ih ht⟩
        intro q hq
        rcases Memory.mem_write t p v q hq with h | h
        · omega
        · exact ha q h

/-- No entry below a bound: an address below it reads as unlisted. -/
theorem Memory.read_below (m : Memory) (p : Nat) (h : ∀ q ∈ m, p < q.1) : m.read p = Memory.unlisted := by
  cases m with
  | nil => rfl
  | cons c t =>
    obtain ⟨a, b⟩ := c
    have := h (a, b) (List.mem_cons_self ..)
    simp only at this
    simp [Memory.read, this, Nat.ne_of_gt this]

/-- A read after a write: the byte written, or what stood there. -/
theorem Memory.read_write (m : Memory) (p q : Nat) (v : Byte) (h : m.wf = true) :
    (m.write p v).read q = if p = q then v else m.read q := by
  induction m with
  | nil =>
    simp only [Memory.write]
    split
    · rename_i hv; subst hv; by_cases hp : p = q <;> simp [Memory.read]
    · by_cases hp : p = q <;> simp [Memory.read, hp]
  | cons c t ih =>
    obtain ⟨a, b⟩ := c
    obtain ⟨hb, ha, ht⟩ := (Memory.wf_cons a b t).1 h
    simp only [Memory.write]
    split
    · rename_i hp
      split
      · rename_i hv
        subst hv
        by_cases hq : p = q
        · subst hq
          simp [Memory.read, Nat.ne_of_gt hp, hp]
        · simp [hq]
      · by_cases hq : p = q
        · simp [Memory.read, hq]
        · simp only [Memory.read, hq, if_false]
          split
          · have h1 : ¬ a = q := by omega
            have h2 : q < a := by omega
            simp [h1, h2]
          · rfl
    · split
      · rename_i hp1 hp
        subst hp
        split
        · rename_i hv
          subst hv
          by_cases hq : p = q
          · subst hq; simp [Memory.read_below t p ha]
          · simp only [Memory.read, hq, if_false]
            split
            · rename_i h1
              exact Memory.read_below t q fun x hx => lt_trans h1 (ha x hx)
            · rfl
        · by_cases hq : p = q <;> simp [Memory.read, hq]
      · rename_i hp1 hp2
        simp only [Memory.read, ih ht]
        by_cases hq : p = q
        · subst hq
          have h1 : ¬ a = p := fun e => hp2 e.symm
          simp [h1, hp1]
        · simp [hq]

/-- Writing a list of bytes keeps the canonical form. -/
theorem Memory.writeList_wf (bs : List Byte) (m : Memory) (p : Nat) (h : m.wf = true) : (m.writeList p bs).wf = true := by
  induction bs generalizing m p with
  | nil => exact h
  | cons b t ih => exact ih _ _ (Memory.write_wf m p b h)

/-- A read after a list of bytes is written: inside, the byte of its place; outside, what stood there. -/
theorem Memory.read_writeList (bs : List Byte) (m : Memory) (p q : Nat) (h : m.wf = true) :
    (m.writeList p bs).read q = if p ≤ q ∧ q < p + bs.length then bs.getD (q - p) 0 else m.read q := by
  induction bs generalizing m p with
  | nil =>
    have h0 : ¬ (p ≤ q ∧ q < p + 0) := by omega
    simp only [Memory.writeList, List.length_nil, h0, if_false]
  | cons b t ih =>
    simp only [Memory.writeList, ih _ _ (Memory.write_wf m p b h), Memory.read_write m p q b h, List.length_cons]
    by_cases h1 : p + 1 ≤ q ∧ q < p + 1 + t.length
    · have h2 : p ≤ q ∧ q < p + (t.length + 1) := by omega
      obtain ⟨k, hk⟩ : ∃ k, q - p = k + 1 := ⟨q - p - 1, by omega⟩
      have h3 : q - (p + 1) = k := by omega
      simp [h1, h2, hk, h3]
    · by_cases h2 : p = q
      · subst h2; simp
      · have h3 : ¬ (p ≤ q ∧ q < p + (t.length + 1)) := by omega
        rw [if_neg h1, if_neg h2, if_neg h3]

/-- Writing the masked bytes of a line keeps the canonical form. -/
theorem Memory.writeMasked_wf (m : Memory) (p : Nat) (mask : BitVec 128) (d : BitVec 1024) (n : Nat) (h : m.wf = true) :
    (m.writeMasked p mask d n).wf = true := by
  induction n with
  | zero => exact h
  | succ n ih =>
    simp only [Memory.writeMasked]
    split
    · exact Memory.write_wf _ _ _ ih
    · exact ih

/-- A read after the masked bytes of a line are written. -/
theorem Memory.read_writeMasked (m : Memory) (p : Nat) (mask : BitVec 128) (d : BitVec 1024) (n q : Nat) (h : m.wf = true) :
    (m.writeMasked p mask d n).read q =
      if p ≤ q ∧ q < p + n ∧ mask.getLsbD (q - p) = true then lineByte d (q - p) else m.read q := by
  induction n with
  | zero =>
    have h0 : ¬ (p ≤ q ∧ q < p + 0 ∧ mask.getLsbD (q - p) = true) := by omega
    simp only [Memory.writeMasked, h0, if_false]
  | succ n ih =>
    have hw := Memory.writeMasked_wf m p mask d n h
    simp only [Memory.writeMasked]
    by_cases hq : q = p + n
    · subst hq
      have h0 : ¬ (p ≤ p + n ∧ p + n < p + n ∧ mask.getLsbD (p + n - p) = true) := by omega
      split
      · rename_i hm; simp [Memory.read_write _ _ _ _ hw, hm]
      · rename_i hm; rw [ih]; simp [hm]
    · have e : (p ≤ q ∧ q < p + n ∧ mask.getLsbD (q - p) = true) ↔ (p ≤ q ∧ q < p + (n + 1) ∧ mask.getLsbD (q - p) = true) := by
        constructor <;> rintro ⟨a, b, c⟩ <;> exact ⟨a, by omega, c⟩
      split
      · rw [Memory.read_write _ _ _ _ hw, ih]
        simp [Ne.symm hq, e]
      · rw [ih]; simp only [e]

/-- Clearing a longer list. -/
theorem Memory.clear_cons (a : Nat) (b : Byte) (t : Memory) (p n : Nat) :
    Memory.clear ((a, b) :: t) p n = if p ≤ a ∧ a < p + n then Memory.clear t p n else (a, b) :: Memory.clear t p n := by
  unfold Memory.clear
  rw [List.filter_cons]
  by_cases h : p ≤ a ∧ a < p + n
  · simp [h]
  · have : (decide (p ≤ a) && decide (a < p + n)) = false := by simpa using h
    simp only [this, if_neg h]; rfl

/-- Clearing a range keeps the canonical form. -/
theorem Memory.clear_wf (m : Memory) (p n : Nat) (h : m.wf = true) : (m.clear p n).wf = true := by
  induction m with
  | nil => rfl
  | cons c t ih =>
    obtain ⟨a, b⟩ := c
    rw [Memory.wf_cons] at h
    by_cases hc : p ≤ a ∧ a < p + n
    · rw [Memory.clear_cons, if_pos hc]; exact ih h.2.2
    · rw [Memory.clear_cons, if_neg hc, Memory.wf_cons]
      exact ⟨h.1, fun q hq => h.2.1 q (List.mem_of_mem_filter hq), ih h.2.2⟩

/-- A cleared byte reads as an unlisted one, every other as before. -/
theorem Memory.read_clear (m : Memory) (p n q : Nat) (h : m.wf = true) :
    (m.clear p n).read q = if p ≤ q ∧ q < p + n then Memory.unlisted else m.read q := by
  have below (t : Memory) (a : Nat) (ha : ∀ x ∈ t, a < x.1) (hq : q < a) : t.read q = Memory.unlisted :=
    Memory.read_below t q fun x hx => lt_trans hq (ha x hx)
  induction m with
  | nil => simp [Memory.clear, Memory.read]
  | cons c t ih =>
    obtain ⟨a, b⟩ := c
    obtain ⟨-, ha, ht⟩ := (Memory.wf_cons a b t).1 h
    by_cases hc : p ≤ a ∧ a < p + n
    · rw [Memory.clear_cons, if_pos hc, ih ht]
      by_cases hr : p ≤ q ∧ q < p + n
      · simp [hr]
      · have hne : a ≠ q := fun e => hr (e ▸ hc)
        rw [if_neg hr, if_neg hr, Memory.read, if_neg hne]
        split
        · exact below t a ha ‹_›
        · rfl
    · rw [Memory.clear_cons, if_neg hc, Memory.read, Memory.read, ih ht]
      by_cases hne : a = q
      · subst hne; simp [hc]
      · rw [if_neg hne, if_neg hne]
        split
        · simp
        · rfl

/-- The number of bytes that `leBytes` gives. -/
@[simp] theorem leBytes_length (n v : Nat) : (leBytes n v).length = n := by
  induction n generalizing v with
  | zero => rfl
  | succ n ih => simp [leBytes, ih]

/-- The bytes of a number give it back. -/
theorem leNat_leBytes (n v : Nat) : leNat (leBytes n v) = v % 256 ^ n := by
  induction n generalizing v with
  | zero => simp [leBytes, leNat, Nat.mod_one]
  | succ n ih =>
    have e : (BitVec.ofNat 8 v).toNat = v % 256 := BitVec.toNat_ofNat v 8
    rw [leBytes, leNat, ih, e, Nat.pow_succ', Nat.mod_mul]

/-- What a read of several bytes depends on. -/
theorem Memory.readList_congr (m m' : Memory) (p n : Nat) (h : ∀ q, p ≤ q → q < p + n → m.read q = m'.read q) :
    m.readList p n = m'.readList p n := by
  induction n generalizing p with
  | zero => rfl
  | succ n ih =>
    simp only [Memory.readList]
    rw [h p (Nat.le_refl _) (by omega), ih (p + 1) fun q h1 h2 => h q (by omega) (by omega)]

/-- The bytes just written, read back. -/
theorem Memory.readList_writeList (bs : List Byte) (m : Memory) (p : Nat) (h : m.wf = true) :
    (m.writeList p bs).readList p bs.length = bs := by
  induction bs generalizing m p with
  | nil => rfl
  | cons b t ih =>
    have hw := Memory.write_wf m p b h
    simp only [List.length_cons, Memory.readList, Memory.writeList, ih _ _ hw, List.cons.injEq, and_true]
    rw [Memory.read_writeList t _ (p + 1) p hw, Memory.read_write m p p b h]
    simp

/-- A number stored reads back. -/
theorem State.load_store (s : State) (p n v : Nat) (h : Memory.wf s.mem = true) : (s.store p n v).load p n = v % 256 ^ n := by
  have e := Memory.readList_writeList (leBytes n v) s.mem p h
  rw [leBytes_length] at e
  simp only [State.load, State.store, e, leNat_leBytes]

/-- A byte outside the bytes stored stays as it was. -/
theorem State.byte_store (s : State) (p n v q : Nat) (h : Memory.wf s.mem = true) (hq : q < p ∨ p + n ≤ q) :
    (s.store p n v).byte q = s.byte q := by
  have hn : ¬ (p ≤ q ∧ q < p + (leBytes n v).length) := by rw [leBytes_length]; omega
  simp only [State.byte, State.store, Memory.read_writeList _ _ _ _ h, hn, if_false]

end Sys2Proof.Machine
end

