-- ==== Sys2Proof/Laws/State.lean ====
section
/-! SUPPORT. What each named update of the state leaves of each field, true by unfolding, so that no later proof unfolds a record update. -/

namespace Sys2Proof.Machine

/-! Records after an update. -/

/-- A core's record after one is replaced. -/
theorem State.core_setCore (s : State) (k j : Nat) (c : Core) : (s.setCore k c).core j = if k = j then c else s.core j := Map.get_put ..
/-- The record replaced. -/
@[simp] theorem State.core_setCore_same (s : State) (k : Nat) (c : Core) : (s.setCore k c).core k = c := Map.get_put_same ..
/-- A core's record after a change of one. -/
theorem State.core_modCore (s : State) (k j : Nat) (f : Core → Core) :
    (s.modCore k f).core j = if k = j then f (s.core k) else s.core j := Map.get_put ..
/-- The record changed. -/
@[simp] theorem State.core_modCore_same (s : State) (k : Nat) (f : Core → Core) : (s.modCore k f).core k = f (s.core k) := Map.get_put_same ..
/-- The executing core's record after it is replaced. -/
@[simp] theorem State.c_setC (s : State) (c : Core) : (s.setC c).c = c := Map.get_put_same ..
/-- The executing core's record after a change. -/
@[simp] theorem State.c_modC (s : State) (f : Core → Core) : (s.modC f).c = f s.c := Map.get_put_same ..
/-- Another core's record after the executing core's is replaced. -/
theorem State.core_setC_other (s : State) (c : Core) (k : Nat) (h : k ≠ s.cur) : (s.setC c).core k = s.core k :=
  Map.get_put_other _ _ _ _ _ (Ne.symm h)
/-- Another core's record after a change of the executing core's. -/
theorem State.core_modC_other (s : State) (f : Core → Core) (k : Nat) (h : k ≠ s.cur) : (s.modC f).core k = s.core k :=
  Map.get_put_other _ _ _ _ _ (Ne.symm h)
/-- A cluster's record after a change of one. -/
theorem State.cluster_modCluster (s : State) (g j : Nat) (f : Cluster → Cluster) :
    (s.modCluster g f).cluster j = if g = j then f (s.cluster g) else s.cluster j := Map.get_put ..
/-- The record changed. -/
@[simp] theorem State.cluster_modCluster_same (s : State) (g : Nat) (f : Cluster → Cluster) :
    (s.modCluster g f).cluster g = f (s.cluster g) := Map.get_put_same ..
/-- An endpoint's record after a change of one. -/
theorem State.ep_modEp (s : State) (e j : Nat) (f : Endpoint → Endpoint) : (s.modEp e f).ep j = if e = j then f (s.ep e) else s.ep j :=
  Map.get_put ..
/-- A job's record after a change of one. -/
theorem State.job_modJob (s : State) (n j : Nat) (f : Job → Job) : (s.modJob n f).job j = if n = j then f (s.job n) else s.job j :=
  Map.get_put ..
/-- The record changed. -/
@[simp] theorem State.job_modJob_same (s : State) (n : Nat) (f : Job → Job) : (s.modJob n f).job n = f (s.job n) := Map.get_put_same ..
/-- A group's record after a change of one. -/
theorem State.group_modGroup (s : State) (n j : Nat) (f : Group → Group) :
    (s.modGroup n f).group j = if n = j then f (s.group n) else s.group j := by
  show Map.get {} ((s.modGroup n f).cluster (groupHome j)).groups j = _
  rw [State.modGroup, State.cluster_modCluster]
  by_cases h : groupHome n = groupHome j
  · rw [if_pos h, h]; exact Map.get_put ..
  · rw [if_neg h, if_neg fun e => h (congrArg groupHome e)]; rfl
/-- A queue's record after a change of one. -/
theorem State.queue_modQueue (s : State) (n j : Nat) (f : Queue → Queue) :
    (s.modQueue n f).queue j = if n = j then f (s.queue n) else s.queue j := Map.get_put ..
/-- The record changed. -/
@[simp] theorem State.queue_modQueue_same (s : State) (n : Nat) (f : Queue → Queue) : (s.modQueue n f).queue n = f (s.queue n) :=
  Map.get_put_same ..

/-! Fields of the state after an update. -/

@[simp] theorem State.setCore_cur (s : State) (k : Nat) (c : Core) : (s.setCore k c).cur = s.cur := rfl
@[simp] theorem State.setCore_schedule (s : State) (k : Nat) (c : Core) : (s.setCore k c).schedule = s.schedule := rfl
@[simp] theorem State.setCore_turn (s : State) (k : Nat) (c : Core) : (s.setCore k c).turn = s.turn := rfl
@[simp] theorem State.setCore_free (s : State) (k : Nat) (c : Core) : (s.setCore k c).free = s.free := rfl
@[simp] theorem State.setCore_nextId (s : State) (k : Nat) (c : Core) : (s.setCore k c).nextId = s.nextId := rfl
@[simp] theorem State.setCore_pace (s : State) (k : Nat) (c : Core) : (s.setCore k c).pace = s.pace := rfl
@[simp] theorem State.setCore_dtime (s : State) (k : Nat) (c : Core) : (s.setCore k c).dtime = s.dtime := rfl
@[simp] theorem State.setCore_cyc10 (s : State) (k : Nat) (c : Core) : (s.setCore k c).cyc10 = s.cyc10 := rfl
@[simp] theorem State.setCore_mem (s : State) (k : Nat) (c : Core) : (s.setCore k c).mem = s.mem := rfl
@[simp] theorem State.setCore_ecc (s : State) (k : Nat) (c : Core) : (s.setCore k c).ecc = s.ecc := rfl
@[simp] theorem State.setCore_poison (s : State) (k : Nat) (c : Core) : (s.setCore k c).poison = s.poison := rfl
@[simp] theorem State.setCore_unreachable (s : State) (k : Nat) (c : Core) : (s.setCore k c).unreachable = s.unreachable := rfl
@[simp] theorem State.setCore_clusters (s : State) (k : Nat) (c : Core) : (s.setCore k c).clusters = s.clusters := rfl
@[simp] theorem State.setCore_eps (s : State) (k : Nat) (c : Core) : (s.setCore k c).eps = s.eps := rfl
@[simp] theorem State.setCore_net (s : State) (k : Nat) (c : Core) : (s.setCore k c).net = s.net := rfl
@[simp] theorem State.setCore_ports (s : State) (k : Nat) (c : Core) : (s.setCore k c).ports = s.ports := rfl
@[simp] theorem State.setCore_share (s : State) (k : Nat) (c : Core) : (s.setCore k c).share = s.share := rfl
@[simp] theorem State.setCore_jobs (s : State) (k : Nat) (c : Core) : (s.setCore k c).jobs = s.jobs := rfl
@[simp] theorem State.setCore_classes (s : State) (k : Nat) (c : Core) : (s.setCore k c).classes = s.classes := rfl
@[simp] theorem State.setCore_domains (s : State) (k : Nat) (c : Core) : (s.setCore k c).domains = s.domains := rfl
@[simp] theorem State.setCore_fwds (s : State) (k : Nat) (c : Core) : (s.setCore k c).fwds = s.fwds := rfl
@[simp] theorem State.setCore_nanReports (s : State) (k : Nat) (c : Core) : (s.setCore k c).nanReports = s.nanReports := rfl
@[simp] theorem State.setCore_walks (s : State) (k : Nat) (c : Core) : (s.setCore k c).walks = s.walks := rfl
@[simp] theorem State.setCore_invals (s : State) (k : Nat) (c : Core) : (s.setCore k c).invals = s.invals := rfl
@[simp] theorem State.setCore_redel (s : State) (k : Nat) (c : Core) : (s.setCore k c).redel = s.redel := rfl
@[simp] theorem State.setCore_xfers (s : State) (k : Nat) (c : Core) : (s.setCore k c).xfers = s.xfers := rfl
@[simp] theorem State.setCore_reserve (s : State) (k : Nat) (c : Core) : (s.setCore k c).reserve = s.reserve := rfl
@[simp] theorem State.setCore_caveRoom (s : State) (k : Nat) (c : Core) : (s.setCore k c).caveRoom = s.caveRoom := rfl
@[simp] theorem State.setCore_migr (s : State) (k : Nat) (c : Core) : (s.setCore k c).migr = s.migr := rfl
@[simp] theorem State.setCore_queues (s : State) (k : Nat) (c : Core) : (s.setCore k c).queues = s.queues := rfl
@[simp] theorem State.setCore_feEvents (s : State) (k : Nat) (c : Core) : (s.setCore k c).feEvents = s.feEvents := rfl
@[simp] theorem State.setCore_fenced (s : State) (k : Nat) (c : Core) : (s.setCore k c).fenced = s.fenced := rfl
@[simp] theorem State.setCore_requests (s : State) (k : Nat) (c : Core) : (s.setCore k c).requests = s.requests := rfl
@[simp] theorem State.setCore_bar0 (s : State) (k : Nat) (c : Core) : (s.setCore k c).bar0 = s.bar0 := rfl
@[simp] theorem State.setCore_boot (s : State) (k : Nat) (c : Core) : (s.setCore k c).boot = s.boot := rfl
@[simp] theorem State.setCore_power (s : State) (k : Nat) (c : Core) : (s.setCore k c).power = s.power := rfl
@[simp] theorem State.setCore_hotAt (s : State) (k : Nat) (c : Core) : (s.setCore k c).hotAt = s.hotAt := rfl
@[simp] theorem State.setCore_coolAt (s : State) (k : Nat) (c : Core) : (s.setCore k c).coolAt = s.coolAt := rfl
@[simp] theorem State.setCore_tripped (s : State) (k : Nat) (c : Core) : (s.setCore k c).tripped = s.tripped := rfl
@[simp] theorem State.setCore_links (s : State) (k : Nat) (c : Core) : (s.setCore k c).links = s.links := rfl
@[simp] theorem State.setCore_peer (s : State) (k : Nat) (c : Core) : (s.setCore k c).peer = s.peer := rfl
@[simp] theorem State.setCore_ring0 (s : State) (k : Nat) (c : Core) : (s.setCore k c).ring0 = s.ring0 := rfl
@[simp] theorem State.setCore_ring1 (s : State) (k : Nat) (c : Core) : (s.setCore k c).ring1 = s.ring1 := rfl
@[simp] theorem State.setCore_mesh0 (s : State) (k : Nat) (c : Core) : (s.setCore k c).mesh0 = s.mesh0 := rfl
@[simp] theorem State.setCore_mesh1 (s : State) (k : Nat) (c : Core) : (s.setCore k c).mesh1 = s.mesh1 := rfl
@[simp] theorem State.setCore_nextBalance (s : State) (k : Nat) (c : Core) : (s.setCore k c).nextBalance = s.nextBalance := rfl
@[simp] theorem State.setCore_nextFloor (s : State) (k : Nat) (c : Core) : (s.setCore k c).nextFloor = s.nextFloor := rfl
@[simp] theorem State.setCore_nextFlags (s : State) (k : Nat) (c : Core) : (s.setCore k c).nextFlags = s.nextFlags := rfl
@[simp] theorem State.setCore_nextLevel (s : State) (k : Nat) (c : Core) : (s.setCore k c).nextLevel = s.nextLevel := rfl
@[simp] theorem State.setCore_nextShadow (s : State) (k : Nat) (c : Core) : (s.setCore k c).nextShadow = s.nextShadow := rfl
@[simp] theorem State.setCore_nextWindow (s : State) (k : Nat) (c : Core) : (s.setCore k c).nextWindow = s.nextWindow := rfl
@[simp] theorem State.setCore_snaps (s : State) (k : Nat) (c : Core) : (s.setCore k c).snaps = s.snaps := rfl
@[simp] theorem State.modCore_cur (s : State) (k : Nat) (f : Core → Core) : (s.modCore k f).cur = s.cur := rfl
@[simp] theorem State.modCore_schedule (s : State) (k : Nat) (f : Core → Core) : (s.modCore k f).schedule = s.schedule := rfl
@[simp] theorem State.modCore_turn (s : State) (k : Nat) (f : Core → Core) : (s.modCore k f).turn = s.turn := rfl
@[simp] theorem State.modCore_free (s : State) (k : Nat) (f : Core → Core) : (s.modCore k f).free = s.free := rfl
@[simp] theorem State.modCore_nextId (s : State) (k : Nat) (f : Core → Core) : (s.modCore k f).nextId = s.nextId := rfl
@[simp] theorem State.modCore_pace (s : State) (k : Nat) (f : Core → Core) : (s.modCore k f).pace = s.pace := rfl
@[simp] theorem State.modCore_dtime (s : State) (k : Nat) (f : Core → Core) : (s.modCore k f).dtime = s.dtime := rfl
@[simp] theorem State.modCore_cyc10 (s : State) (k : Nat) (f : Core → Core) : (s.modCore k f).cyc10 = s.cyc10 := rfl
@[simp] theorem State.modCore_mem (s : State) (k : Nat) (f : Core → Core) : (s.modCore k f).mem = s.mem := rfl
@[simp] theorem State.modCore_ecc (s : State) (k : Nat) (f : Core → Core) : (s.modCore k f).ecc = s.ecc := rfl
@[simp] theorem State.modCore_poison (s : State) (k : Nat) (f : Core → Core) : (s.modCore k f).poison = s.poison := rfl
@[simp] theorem State.modCore_unreachable (s : State) (k : Nat) (f : Core → Core) : (s.modCore k f).unreachable = s.unreachable := rfl
@[simp] theorem State.modCore_clusters (s : State) (k : Nat) (f : Core → Core) : (s.modCore k f).clusters = s.clusters := rfl
@[simp] theorem State.modCore_eps (s : State) (k : Nat) (f : Core → Core) : (s.modCore k f).eps = s.eps := rfl
@[simp] theorem State.modCore_net (s : State) (k : Nat) (f : Core → Core) : (s.modCore k f).net = s.net := rfl
@[simp] theorem State.modCore_ports (s : State) (k : Nat) (f : Core → Core) : (s.modCore k f).ports = s.ports := rfl
@[simp] theorem State.modCore_share (s : State) (k : Nat) (f : Core → Core) : (s.modCore k f).share = s.share := rfl
@[simp] theorem State.modCore_jobs (s : State) (k : Nat) (f : Core → Core) : (s.modCore k f).jobs = s.jobs := rfl
@[simp] theorem State.modCore_classes (s : State) (k : Nat) (f : Core → Core) : (s.modCore k f).classes = s.classes := rfl
@[simp] theorem State.modCore_domains (s : State) (k : Nat) (f : Core → Core) : (s.modCore k f).domains = s.domains := rfl
@[simp] theorem State.modCore_fwds (s : State) (k : Nat) (f : Core → Core) : (s.modCore k f).fwds = s.fwds := rfl
@[simp] theorem State.modCore_nanReports (s : State) (k : Nat) (f : Core → Core) : (s.modCore k f).nanReports = s.nanReports := rfl
@[simp] theorem State.modCore_walks (s : State) (k : Nat) (f : Core → Core) : (s.modCore k f).walks = s.walks := rfl
@[simp] theorem State.modCore_invals (s : State) (k : Nat) (f : Core → Core) : (s.modCore k f).invals = s.invals := rfl
@[simp] theorem State.modCore_redel (s : State) (k : Nat) (f : Core → Core) : (s.modCore k f).redel = s.redel := rfl
@[simp] theorem State.modCore_xfers (s : State) (k : Nat) (f : Core → Core) : (s.modCore k f).xfers = s.xfers := rfl
@[simp] theorem State.modCore_reserve (s : State) (k : Nat) (f : Core → Core) : (s.modCore k f).reserve = s.reserve := rfl
@[simp] theorem State.modCore_caveRoom (s : State) (k : Nat) (f : Core → Core) : (s.modCore k f).caveRoom = s.caveRoom := rfl
@[simp] theorem State.modCore_migr (s : State) (k : Nat) (f : Core → Core) : (s.modCore k f).migr = s.migr := rfl
@[simp] theorem State.modCore_queues (s : State) (k : Nat) (f : Core → Core) : (s.modCore k f).queues = s.queues := rfl
@[simp] theorem State.modCore_feEvents (s : State) (k : Nat) (f : Core → Core) : (s.modCore k f).feEvents = s.feEvents := rfl
@[simp] theorem State.modCore_fenced (s : State) (k : Nat) (f : Core → Core) : (s.modCore k f).fenced = s.fenced := rfl
@[simp] theorem State.modCore_requests (s : State) (k : Nat) (f : Core → Core) : (s.modCore k f).requests = s.requests := rfl
@[simp] theorem State.modCore_bar0 (s : State) (k : Nat) (f : Core → Core) : (s.modCore k f).bar0 = s.bar0 := rfl
@[simp] theorem State.modCore_boot (s : State) (k : Nat) (f : Core → Core) : (s.modCore k f).boot = s.boot := rfl
@[simp] theorem State.modCore_power (s : State) (k : Nat) (f : Core → Core) : (s.modCore k f).power = s.power := rfl
@[simp] theorem State.modCore_hotAt (s : State) (k : Nat) (f : Core → Core) : (s.modCore k f).hotAt = s.hotAt := rfl
@[simp] theorem State.modCore_coolAt (s : State) (k : Nat) (f : Core → Core) : (s.modCore k f).coolAt = s.coolAt := rfl
@[simp] theorem State.modCore_tripped (s : State) (k : Nat) (f : Core → Core) : (s.modCore k f).tripped = s.tripped := rfl
@[simp] theorem State.modCore_links (s : State) (k : Nat) (f : Core → Core) : (s.modCore k f).links = s.links := rfl
@[simp] theorem State.modCore_peer (s : State) (k : Nat) (f : Core → Core) : (s.modCore k f).peer = s.peer := rfl
@[simp] theorem State.modCore_ring0 (s : State) (k : Nat) (f : Core → Core) : (s.modCore k f).ring0 = s.ring0 := rfl
@[simp] theorem State.modCore_ring1 (s : State) (k : Nat) (f : Core → Core) : (s.modCore k f).ring1 = s.ring1 := rfl
@[simp] theorem State.modCore_mesh0 (s : State) (k : Nat) (f : Core → Core) : (s.modCore k f).mesh0 = s.mesh0 := rfl
@[simp] theorem State.modCore_mesh1 (s : State) (k : Nat) (f : Core → Core) : (s.modCore k f).mesh1 = s.mesh1 := rfl
@[simp] theorem State.modCore_nextBalance (s : State) (k : Nat) (f : Core → Core) : (s.modCore k f).nextBalance = s.nextBalance := rfl
@[simp] theorem State.modCore_nextFloor (s : State) (k : Nat) (f : Core → Core) : (s.modCore k f).nextFloor = s.nextFloor := rfl
@[simp] theorem State.modCore_nextFlags (s : State) (k : Nat) (f : Core → Core) : (s.modCore k f).nextFlags = s.nextFlags := rfl
@[simp] theorem State.modCore_nextLevel (s : State) (k : Nat) (f : Core → Core) : (s.modCore k f).nextLevel = s.nextLevel := rfl
@[simp] theorem State.modCore_nextShadow (s : State) (k : Nat) (f : Core → Core) : (s.modCore k f).nextShadow = s.nextShadow := rfl
@[simp] theorem State.modCore_nextWindow (s : State) (k : Nat) (f : Core → Core) : (s.modCore k f).nextWindow = s.nextWindow := rfl
@[simp] theorem State.modCore_snaps (s : State) (k : Nat) (f : Core → Core) : (s.modCore k f).snaps = s.snaps := rfl
@[simp] theorem State.setC_cur (s : State) (c : Core) : (s.setC c).cur = s.cur := rfl
@[simp] theorem State.setC_schedule (s : State) (c : Core) : (s.setC c).schedule = s.schedule := rfl
@[simp] theorem State.setC_turn (s : State) (c : Core) : (s.setC c).turn = s.turn := rfl
@[simp] theorem State.setC_free (s : State) (c : Core) : (s.setC c).free = s.free := rfl
@[simp] theorem State.setC_nextId (s : State) (c : Core) : (s.setC c).nextId = s.nextId := rfl
@[simp] theorem State.setC_pace (s : State) (c : Core) : (s.setC c).pace = s.pace := rfl
@[simp] theorem State.setC_dtime (s : State) (c : Core) : (s.setC c).dtime = s.dtime := rfl
@[simp] theorem State.setC_cyc10 (s : State) (c : Core) : (s.setC c).cyc10 = s.cyc10 := rfl
@[simp] theorem State.setC_mem (s : State) (c : Core) : (s.setC c).mem = s.mem := rfl
@[simp] theorem State.setC_ecc (s : State) (c : Core) : (s.setC c).ecc = s.ecc := rfl
@[simp] theorem State.setC_poison (s : State) (c : Core) : (s.setC c).poison = s.poison := rfl
@[simp] theorem State.setC_unreachable (s : State) (c : Core) : (s.setC c).unreachable = s.unreachable := rfl
@[simp] theorem State.setC_clusters (s : State) (c : Core) : (s.setC c).clusters = s.clusters := rfl
@[simp] theorem State.setC_eps (s : State) (c : Core) : (s.setC c).eps = s.eps := rfl
@[simp] theorem State.setC_net (s : State) (c : Core) : (s.setC c).net = s.net := rfl
@[simp] theorem State.setC_ports (s : State) (c : Core) : (s.setC c).ports = s.ports := rfl
@[simp] theorem State.setC_share (s : State) (c : Core) : (s.setC c).share = s.share := rfl
@[simp] theorem State.setC_jobs (s : State) (c : Core) : (s.setC c).jobs = s.jobs := rfl
@[simp] theorem State.setC_classes (s : State) (c : Core) : (s.setC c).classes = s.classes := rfl
@[simp] theorem State.setC_domains (s : State) (c : Core) : (s.setC c).domains = s.domains := rfl
@[simp] theorem State.setC_fwds (s : State) (c : Core) : (s.setC c).fwds = s.fwds := rfl
@[simp] theorem State.setC_nanReports (s : State) (c : Core) : (s.setC c).nanReports = s.nanReports := rfl
@[simp] theorem State.setC_walks (s : State) (c : Core) : (s.setC c).walks = s.walks := rfl
@[simp] theorem State.setC_invals (s : State) (c : Core) : (s.setC c).invals = s.invals := rfl
@[simp] theorem State.setC_redel (s : State) (c : Core) : (s.setC c).redel = s.redel := rfl
@[simp] theorem State.setC_xfers (s : State) (c : Core) : (s.setC c).xfers = s.xfers := rfl
@[simp] theorem State.setC_reserve (s : State) (c : Core) : (s.setC c).reserve = s.reserve := rfl
@[simp] theorem State.setC_caveRoom (s : State) (c : Core) : (s.setC c).caveRoom = s.caveRoom := rfl
@[simp] theorem State.setC_migr (s : State) (c : Core) : (s.setC c).migr = s.migr := rfl
@[simp] theorem State.setC_queues (s : State) (c : Core) : (s.setC c).queues = s.queues := rfl
@[simp] theorem State.setC_feEvents (s : State) (c : Core) : (s.setC c).feEvents = s.feEvents := rfl
@[simp] theorem State.setC_fenced (s : State) (c : Core) : (s.setC c).fenced = s.fenced := rfl
@[simp] theorem State.setC_requests (s : State) (c : Core) : (s.setC c).requests = s.requests := rfl
@[simp] theorem State.setC_bar0 (s : State) (c : Core) : (s.setC c).bar0 = s.bar0 := rfl
@[simp] theorem State.setC_boot (s : State) (c : Core) : (s.setC c).boot = s.boot := rfl
@[simp] theorem State.setC_power (s : State) (c : Core) : (s.setC c).power = s.power := rfl
@[simp] theorem State.setC_hotAt (s : State) (c : Core) : (s.setC c).hotAt = s.hotAt := rfl
@[simp] theorem State.setC_coolAt (s : State) (c : Core) : (s.setC c).coolAt = s.coolAt := rfl
@[simp] theorem State.setC_tripped (s : State) (c : Core) : (s.setC c).tripped = s.tripped := rfl
@[simp] theorem State.setC_links (s : State) (c : Core) : (s.setC c).links = s.links := rfl
@[simp] theorem State.setC_peer (s : State) (c : Core) : (s.setC c).peer = s.peer := rfl
@[simp] theorem State.setC_ring0 (s : State) (c : Core) : (s.setC c).ring0 = s.ring0 := rfl
@[simp] theorem State.setC_ring1 (s : State) (c : Core) : (s.setC c).ring1 = s.ring1 := rfl
@[simp] theorem State.setC_mesh0 (s : State) (c : Core) : (s.setC c).mesh0 = s.mesh0 := rfl
@[simp] theorem State.setC_mesh1 (s : State) (c : Core) : (s.setC c).mesh1 = s.mesh1 := rfl
@[simp] theorem State.setC_nextBalance (s : State) (c : Core) : (s.setC c).nextBalance = s.nextBalance := rfl
@[simp] theorem State.setC_nextFloor (s : State) (c : Core) : (s.setC c).nextFloor = s.nextFloor := rfl
@[simp] theorem State.setC_nextFlags (s : State) (c : Core) : (s.setC c).nextFlags = s.nextFlags := rfl
@[simp] theorem State.setC_nextLevel (s : State) (c : Core) : (s.setC c).nextLevel = s.nextLevel := rfl
@[simp] theorem State.setC_nextShadow (s : State) (c : Core) : (s.setC c).nextShadow = s.nextShadow := rfl
@[simp] theorem State.setC_nextWindow (s : State) (c : Core) : (s.setC c).nextWindow = s.nextWindow := rfl
@[simp] theorem State.setC_snaps (s : State) (c : Core) : (s.setC c).snaps = s.snaps := rfl
@[simp] theorem State.modC_cur (s : State) (f : Core → Core) : (s.modC f).cur = s.cur := rfl
@[simp] theorem State.modC_schedule (s : State) (f : Core → Core) : (s.modC f).schedule = s.schedule := rfl
@[simp] theorem State.modC_turn (s : State) (f : Core → Core) : (s.modC f).turn = s.turn := rfl
@[simp] theorem State.modC_free (s : State) (f : Core → Core) : (s.modC f).free = s.free := rfl
@[simp] theorem State.modC_nextId (s : State) (f : Core → Core) : (s.modC f).nextId = s.nextId := rfl
@[simp] theorem State.modC_pace (s : State) (f : Core → Core) : (s.modC f).pace = s.pace := rfl
@[simp] theorem State.modC_dtime (s : State) (f : Core → Core) : (s.modC f).dtime = s.dtime := rfl
@[simp] theorem State.modC_cyc10 (s : State) (f : Core → Core) : (s.modC f).cyc10 = s.cyc10 := rfl
@[simp] theorem State.modC_mem (s : State) (f : Core → Core) : (s.modC f).mem = s.mem := rfl
@[simp] theorem State.modC_ecc (s : State) (f : Core → Core) : (s.modC f).ecc = s.ecc := rfl
@[simp] theorem State.modC_poison (s : State) (f : Core → Core) : (s.modC f).poison = s.poison := rfl
@[simp] theorem State.modC_unreachable (s : State) (f : Core → Core) : (s.modC f).unreachable = s.unreachable := rfl
@[simp] theorem State.modC_clusters (s : State) (f : Core → Core) : (s.modC f).clusters = s.clusters := rfl
@[simp] theorem State.modC_eps (s : State) (f : Core → Core) : (s.modC f).eps = s.eps := rfl
@[simp] theorem State.modC_net (s : State) (f : Core → Core) : (s.modC f).net = s.net := rfl
@[simp] theorem State.modC_ports (s : State) (f : Core → Core) : (s.modC f).ports = s.ports := rfl
@[simp] theorem State.modC_share (s : State) (f : Core → Core) : (s.modC f).share = s.share := rfl
@[simp] theorem State.modC_jobs (s : State) (f : Core → Core) : (s.modC f).jobs = s.jobs := rfl
@[simp] theorem State.modC_classes (s : State) (f : Core → Core) : (s.modC f).classes = s.classes := rfl
@[simp] theorem State.modC_domains (s : State) (f : Core → Core) : (s.modC f).domains = s.domains := rfl
@[simp] theorem State.modC_fwds (s : State) (f : Core → Core) : (s.modC f).fwds = s.fwds := rfl
@[simp] theorem State.modC_nanReports (s : State) (f : Core → Core) : (s.modC f).nanReports = s.nanReports := rfl
@[simp] theorem State.modC_walks (s : State) (f : Core → Core) : (s.modC f).walks = s.walks := rfl
@[simp] theorem State.modC_invals (s : State) (f : Core → Core) : (s.modC f).invals = s.invals := rfl
@[simp] theorem State.modC_redel (s : State) (f : Core → Core) : (s.modC f).redel = s.redel := rfl
@[simp] theorem State.modC_xfers (s : State) (f : Core → Core) : (s.modC f).xfers = s.xfers := rfl
@[simp] theorem State.modC_reserve (s : State) (f : Core → Core) : (s.modC f).reserve = s.reserve := rfl
@[simp] theorem State.modC_caveRoom (s : State) (f : Core → Core) : (s.modC f).caveRoom = s.caveRoom := rfl
@[simp] theorem State.modC_migr (s : State) (f : Core → Core) : (s.modC f).migr = s.migr := rfl
@[simp] theorem State.modC_queues (s : State) (f : Core → Core) : (s.modC f).queues = s.queues := rfl
@[simp] theorem State.modC_feEvents (s : State) (f : Core → Core) : (s.modC f).feEvents = s.feEvents := rfl
@[simp] theorem State.modC_fenced (s : State) (f : Core → Core) : (s.modC f).fenced = s.fenced := rfl
@[simp] theorem State.modC_requests (s : State) (f : Core → Core) : (s.modC f).requests = s.requests := rfl
@[simp] theorem State.modC_bar0 (s : State) (f : Core → Core) : (s.modC f).bar0 = s.bar0 := rfl
@[simp] theorem State.modC_boot (s : State) (f : Core → Core) : (s.modC f).boot = s.boot := rfl
@[simp] theorem State.modC_power (s : State) (f : Core → Core) : (s.modC f).power = s.power := rfl
@[simp] theorem State.modC_hotAt (s : State) (f : Core → Core) : (s.modC f).hotAt = s.hotAt := rfl
@[simp] theorem State.modC_coolAt (s : State) (f : Core → Core) : (s.modC f).coolAt = s.coolAt := rfl
@[simp] theorem State.modC_tripped (s : State) (f : Core → Core) : (s.modC f).tripped = s.tripped := rfl
@[simp] theorem State.modC_links (s : State) (f : Core → Core) : (s.modC f).links = s.links := rfl
@[simp] theorem State.modC_peer (s : State) (f : Core → Core) : (s.modC f).peer = s.peer := rfl
@[simp] theorem State.modC_ring0 (s : State) (f : Core → Core) : (s.modC f).ring0 = s.ring0 := rfl
@[simp] theorem State.modC_ring1 (s : State) (f : Core → Core) : (s.modC f).ring1 = s.ring1 := rfl
@[simp] theorem State.modC_mesh0 (s : State) (f : Core → Core) : (s.modC f).mesh0 = s.mesh0 := rfl
@[simp] theorem State.modC_mesh1 (s : State) (f : Core → Core) : (s.modC f).mesh1 = s.mesh1 := rfl
@[simp] theorem State.modC_nextBalance (s : State) (f : Core → Core) : (s.modC f).nextBalance = s.nextBalance := rfl
@[simp] theorem State.modC_nextFloor (s : State) (f : Core → Core) : (s.modC f).nextFloor = s.nextFloor := rfl
@[simp] theorem State.modC_nextFlags (s : State) (f : Core → Core) : (s.modC f).nextFlags = s.nextFlags := rfl
@[simp] theorem State.modC_nextLevel (s : State) (f : Core → Core) : (s.modC f).nextLevel = s.nextLevel := rfl
@[simp] theorem State.modC_nextShadow (s : State) (f : Core → Core) : (s.modC f).nextShadow = s.nextShadow := rfl
@[simp] theorem State.modC_nextWindow (s : State) (f : Core → Core) : (s.modC f).nextWindow = s.nextWindow := rfl
@[simp] theorem State.modC_snaps (s : State) (f : Core → Core) : (s.modC f).snaps = s.snaps := rfl
@[simp] theorem State.setCluster_cur (s : State) (g : Nat) (c : Cluster) : (s.setCluster g c).cur = s.cur := rfl
@[simp] theorem State.setCluster_schedule (s : State) (g : Nat) (c : Cluster) : (s.setCluster g c).schedule = s.schedule := rfl
@[simp] theorem State.setCluster_turn (s : State) (g : Nat) (c : Cluster) : (s.setCluster g c).turn = s.turn := rfl
@[simp] theorem State.setCluster_free (s : State) (g : Nat) (c : Cluster) : (s.setCluster g c).free = s.free := rfl
@[simp] theorem State.setCluster_nextId (s : State) (g : Nat) (c : Cluster) : (s.setCluster g c).nextId = s.nextId := rfl
@[simp] theorem State.setCluster_pace (s : State) (g : Nat) (c : Cluster) : (s.setCluster g c).pace = s.pace := rfl
@[simp] theorem State.setCluster_dtime (s : State) (g : Nat) (c : Cluster) : (s.setCluster g c).dtime = s.dtime := rfl
@[simp] theorem State.setCluster_cyc10 (s : State) (g : Nat) (c : Cluster) : (s.setCluster g c).cyc10 = s.cyc10 := rfl
@[simp] theorem State.setCluster_mem (s : State) (g : Nat) (c : Cluster) : (s.setCluster g c).mem = s.mem := rfl
@[simp] theorem State.setCluster_ecc (s : State) (g : Nat) (c : Cluster) : (s.setCluster g c).ecc = s.ecc := rfl
@[simp] theorem State.setCluster_poison (s : State) (g : Nat) (c : Cluster) : (s.setCluster g c).poison = s.poison := rfl
@[simp] theorem State.setCluster_unreachable (s : State) (g : Nat) (c : Cluster) : (s.setCluster g c).unreachable = s.unreachable := rfl
@[simp] theorem State.setCluster_cores (s : State) (g : Nat) (c : Cluster) : (s.setCluster g c).cores = s.cores := rfl
@[simp] theorem State.setCluster_eps (s : State) (g : Nat) (c : Cluster) : (s.setCluster g c).eps = s.eps := rfl
@[simp] theorem State.setCluster_net (s : State) (g : Nat) (c : Cluster) : (s.setCluster g c).net = s.net := rfl
@[simp] theorem State.setCluster_ports (s : State) (g : Nat) (c : Cluster) : (s.setCluster g c).ports = s.ports := rfl
@[simp] theorem State.setCluster_share (s : State) (g : Nat) (c : Cluster) : (s.setCluster g c).share = s.share := rfl
@[simp] theorem State.setCluster_jobs (s : State) (g : Nat) (c : Cluster) : (s.setCluster g c).jobs = s.jobs := rfl
@[simp] theorem State.setCluster_classes (s : State) (g : Nat) (c : Cluster) : (s.setCluster g c).classes = s.classes := rfl
@[simp] theorem State.setCluster_domains (s : State) (g : Nat) (c : Cluster) : (s.setCluster g c).domains = s.domains := rfl
@[simp] theorem State.setCluster_fwds (s : State) (g : Nat) (c : Cluster) : (s.setCluster g c).fwds = s.fwds := rfl
@[simp] theorem State.setCluster_nanReports (s : State) (g : Nat) (c : Cluster) : (s.setCluster g c).nanReports = s.nanReports := rfl
@[simp] theorem State.setCluster_walks (s : State) (g : Nat) (c : Cluster) : (s.setCluster g c).walks = s.walks := rfl
@[simp] theorem State.setCluster_invals (s : State) (g : Nat) (c : Cluster) : (s.setCluster g c).invals = s.invals := rfl
@[simp] theorem State.setCluster_redel (s : State) (g : Nat) (c : Cluster) : (s.setCluster g c).redel = s.redel := rfl
@[simp] theorem State.setCluster_xfers (s : State) (g : Nat) (c : Cluster) : (s.setCluster g c).xfers = s.xfers := rfl
@[simp] theorem State.setCluster_reserve (s : State) (g : Nat) (c : Cluster) : (s.setCluster g c).reserve = s.reserve := rfl
@[simp] theorem State.setCluster_caveRoom (s : State) (g : Nat) (c : Cluster) : (s.setCluster g c).caveRoom = s.caveRoom := rfl
@[simp] theorem State.setCluster_migr (s : State) (g : Nat) (c : Cluster) : (s.setCluster g c).migr = s.migr := rfl
@[simp] theorem State.setCluster_queues (s : State) (g : Nat) (c : Cluster) : (s.setCluster g c).queues = s.queues := rfl
@[simp] theorem State.setCluster_feEvents (s : State) (g : Nat) (c : Cluster) : (s.setCluster g c).feEvents = s.feEvents := rfl
@[simp] theorem State.setCluster_fenced (s : State) (g : Nat) (c : Cluster) : (s.setCluster g c).fenced = s.fenced := rfl
@[simp] theorem State.setCluster_requests (s : State) (g : Nat) (c : Cluster) : (s.setCluster g c).requests = s.requests := rfl
@[simp] theorem State.setCluster_bar0 (s : State) (g : Nat) (c : Cluster) : (s.setCluster g c).bar0 = s.bar0 := rfl
@[simp] theorem State.setCluster_boot (s : State) (g : Nat) (c : Cluster) : (s.setCluster g c).boot = s.boot := rfl
@[simp] theorem State.setCluster_power (s : State) (g : Nat) (c : Cluster) : (s.setCluster g c).power = s.power := rfl
@[simp] theorem State.setCluster_hotAt (s : State) (g : Nat) (c : Cluster) : (s.setCluster g c).hotAt = s.hotAt := rfl
@[simp] theorem State.setCluster_coolAt (s : State) (g : Nat) (c : Cluster) : (s.setCluster g c).coolAt = s.coolAt := rfl
@[simp] theorem State.setCluster_tripped (s : State) (g : Nat) (c : Cluster) : (s.setCluster g c).tripped = s.tripped := rfl
@[simp] theorem State.setCluster_links (s : State) (g : Nat) (c : Cluster) : (s.setCluster g c).links = s.links := rfl
@[simp] theorem State.setCluster_peer (s : State) (g : Nat) (c : Cluster) : (s.setCluster g c).peer = s.peer := rfl
@[simp] theorem State.setCluster_ring0 (s : State) (g : Nat) (c : Cluster) : (s.setCluster g c).ring0 = s.ring0 := rfl
@[simp] theorem State.setCluster_ring1 (s : State) (g : Nat) (c : Cluster) : (s.setCluster g c).ring1 = s.ring1 := rfl
@[simp] theorem State.setCluster_mesh0 (s : State) (g : Nat) (c : Cluster) : (s.setCluster g c).mesh0 = s.mesh0 := rfl
@[simp] theorem State.setCluster_mesh1 (s : State) (g : Nat) (c : Cluster) : (s.setCluster g c).mesh1 = s.mesh1 := rfl
@[simp] theorem State.setCluster_nextBalance (s : State) (g : Nat) (c : Cluster) : (s.setCluster g c).nextBalance = s.nextBalance := rfl
@[simp] theorem State.setCluster_nextFloor (s : State) (g : Nat) (c : Cluster) : (s.setCluster g c).nextFloor = s.nextFloor := rfl
@[simp] theorem State.setCluster_nextFlags (s : State) (g : Nat) (c : Cluster) : (s.setCluster g c).nextFlags = s.nextFlags := rfl
@[simp] theorem State.setCluster_nextLevel (s : State) (g : Nat) (c : Cluster) : (s.setCluster g c).nextLevel = s.nextLevel := rfl
@[simp] theorem State.setCluster_nextShadow (s : State) (g : Nat) (c : Cluster) : (s.setCluster g c).nextShadow = s.nextShadow := rfl
@[simp] theorem State.setCluster_nextWindow (s : State) (g : Nat) (c : Cluster) : (s.setCluster g c).nextWindow = s.nextWindow := rfl
@[simp] theorem State.setCluster_snaps (s : State) (g : Nat) (c : Cluster) : (s.setCluster g c).snaps = s.snaps := rfl
@[simp] theorem State.modCluster_cur (s : State) (g : Nat) (f : Cluster → Cluster) : (s.modCluster g f).cur = s.cur := rfl
@[simp] theorem State.modCluster_schedule (s : State) (g : Nat) (f : Cluster → Cluster) : (s.modCluster g f).schedule = s.schedule := rfl
@[simp] theorem State.modCluster_turn (s : State) (g : Nat) (f : Cluster → Cluster) : (s.modCluster g f).turn = s.turn := rfl
@[simp] theorem State.modCluster_free (s : State) (g : Nat) (f : Cluster → Cluster) : (s.modCluster g f).free = s.free := rfl
@[simp] theorem State.modCluster_nextId (s : State) (g : Nat) (f : Cluster → Cluster) : (s.modCluster g f).nextId = s.nextId := rfl
@[simp] theorem State.modCluster_pace (s : State) (g : Nat) (f : Cluster → Cluster) : (s.modCluster g f).pace = s.pace := rfl
@[simp] theorem State.modCluster_dtime (s : State) (g : Nat) (f : Cluster → Cluster) : (s.modCluster g f).dtime = s.dtime := rfl
@[simp] theorem State.modCluster_cyc10 (s : State) (g : Nat) (f : Cluster → Cluster) : (s.modCluster g f).cyc10 = s.cyc10 := rfl
@[simp] theorem State.modCluster_mem (s : State) (g : Nat) (f : Cluster → Cluster) : (s.modCluster g f).mem = s.mem := rfl
@[simp] theorem State.modCluster_ecc (s : State) (g : Nat) (f : Cluster → Cluster) : (s.modCluster g f).ecc = s.ecc := rfl
@[simp] theorem State.modCluster_poison (s : State) (g : Nat) (f : Cluster → Cluster) : (s.modCluster g f).poison = s.poison := rfl
@[simp] theorem State.modCluster_unreachable (s : State) (g : Nat) (f : Cluster → Cluster) : (s.modCluster g f).unreachable = s.unreachable := rfl
@[simp] theorem State.modCluster_cores (s : State) (g : Nat) (f : Cluster → Cluster) : (s.modCluster g f).cores = s.cores := rfl
@[simp] theorem State.modCluster_eps (s : State) (g : Nat) (f : Cluster → Cluster) : (s.modCluster g f).eps = s.eps := rfl
@[simp] theorem State.modCluster_net (s : State) (g : Nat) (f : Cluster → Cluster) : (s.modCluster g f).net = s.net := rfl
@[simp] theorem State.modCluster_ports (s : State) (g : Nat) (f : Cluster → Cluster) : (s.modCluster g f).ports = s.ports := rfl
@[simp] theorem State.modCluster_share (s : State) (g : Nat) (f : Cluster → Cluster) : (s.modCluster g f).share = s.share := rfl
@[simp] theorem State.modCluster_jobs (s : State) (g : Nat) (f : Cluster → Cluster) : (s.modCluster g f).jobs = s.jobs := rfl
@[simp] theorem State.modCluster_classes (s : State) (g : Nat) (f : Cluster → Cluster) : (s.modCluster g f).classes = s.classes := rfl
@[simp] theorem State.modCluster_domains (s : State) (g : Nat) (f : Cluster → Cluster) : (s.modCluster g f).domains = s.domains := rfl
@[simp] theorem State.modCluster_fwds (s : State) (g : Nat) (f : Cluster → Cluster) : (s.modCluster g f).fwds = s.fwds := rfl
@[simp] theorem State.modCluster_nanReports (s : State) (g : Nat) (f : Cluster → Cluster) : (s.modCluster g f).nanReports = s.nanReports := rfl
@[simp] theorem State.modCluster_walks (s : State) (g : Nat) (f : Cluster → Cluster) : (s.modCluster g f).walks = s.walks := rfl
@[simp] theorem State.modCluster_invals (s : State) (g : Nat) (f : Cluster → Cluster) : (s.modCluster g f).invals = s.invals := rfl
@[simp] theorem State.modCluster_redel (s : State) (g : Nat) (f : Cluster → Cluster) : (s.modCluster g f).redel = s.redel := rfl
@[simp] theorem State.modCluster_xfers (s : State) (g : Nat) (f : Cluster → Cluster) : (s.modCluster g f).xfers = s.xfers := rfl
@[simp] theorem State.modCluster_reserve (s : State) (g : Nat) (f : Cluster → Cluster) : (s.modCluster g f).reserve = s.reserve := rfl
@[simp] theorem State.modCluster_caveRoom (s : State) (g : Nat) (f : Cluster → Cluster) : (s.modCluster g f).caveRoom = s.caveRoom := rfl
@[simp] theorem State.modCluster_migr (s : State) (g : Nat) (f : Cluster → Cluster) : (s.modCluster g f).migr = s.migr := rfl
@[simp] theorem State.modCluster_queues (s : State) (g : Nat) (f : Cluster → Cluster) : (s.modCluster g f).queues = s.queues := rfl
@[simp] theorem State.modCluster_feEvents (s : State) (g : Nat) (f : Cluster → Cluster) : (s.modCluster g f).feEvents = s.feEvents := rfl
@[simp] theorem State.modCluster_fenced (s : State) (g : Nat) (f : Cluster → Cluster) : (s.modCluster g f).fenced = s.fenced := rfl
@[simp] theorem State.modCluster_requests (s : State) (g : Nat) (f : Cluster → Cluster) : (s.modCluster g f).requests = s.requests := rfl
@[simp] theorem State.modCluster_bar0 (s : State) (g : Nat) (f : Cluster → Cluster) : (s.modCluster g f).bar0 = s.bar0 := rfl
@[simp] theorem State.modCluster_boot (s : State) (g : Nat) (f : Cluster → Cluster) : (s.modCluster g f).boot = s.boot := rfl
@[simp] theorem State.modCluster_power (s : State) (g : Nat) (f : Cluster → Cluster) : (s.modCluster g f).power = s.power := rfl
@[simp] theorem State.modCluster_hotAt (s : State) (g : Nat) (f : Cluster → Cluster) : (s.modCluster g f).hotAt = s.hotAt := rfl
@[simp] theorem State.modCluster_coolAt (s : State) (g : Nat) (f : Cluster → Cluster) : (s.modCluster g f).coolAt = s.coolAt := rfl
@[simp] theorem State.modCluster_tripped (s : State) (g : Nat) (f : Cluster → Cluster) : (s.modCluster g f).tripped = s.tripped := rfl
@[simp] theorem State.modCluster_links (s : State) (g : Nat) (f : Cluster → Cluster) : (s.modCluster g f).links = s.links := rfl
@[simp] theorem State.modCluster_peer (s : State) (g : Nat) (f : Cluster → Cluster) : (s.modCluster g f).peer = s.peer := rfl
@[simp] theorem State.modCluster_ring0 (s : State) (g : Nat) (f : Cluster → Cluster) : (s.modCluster g f).ring0 = s.ring0 := rfl
@[simp] theorem State.modCluster_ring1 (s : State) (g : Nat) (f : Cluster → Cluster) : (s.modCluster g f).ring1 = s.ring1 := rfl
@[simp] theorem State.modCluster_mesh0 (s : State) (g : Nat) (f : Cluster → Cluster) : (s.modCluster g f).mesh0 = s.mesh0 := rfl
@[simp] theorem State.modCluster_mesh1 (s : State) (g : Nat) (f : Cluster → Cluster) : (s.modCluster g f).mesh1 = s.mesh1 := rfl
@[simp] theorem State.modCluster_nextBalance (s : State) (g : Nat) (f : Cluster → Cluster) : (s.modCluster g f).nextBalance = s.nextBalance := rfl
@[simp] theorem State.modCluster_nextFloor (s : State) (g : Nat) (f : Cluster → Cluster) : (s.modCluster g f).nextFloor = s.nextFloor := rfl
@[simp] theorem State.modCluster_nextFlags (s : State) (g : Nat) (f : Cluster → Cluster) : (s.modCluster g f).nextFlags = s.nextFlags := rfl
@[simp] theorem State.modCluster_nextLevel (s : State) (g : Nat) (f : Cluster → Cluster) : (s.modCluster g f).nextLevel = s.nextLevel := rfl
@[simp] theorem State.modCluster_nextShadow (s : State) (g : Nat) (f : Cluster → Cluster) : (s.modCluster g f).nextShadow = s.nextShadow := rfl
@[simp] theorem State.modCluster_nextWindow (s : State) (g : Nat) (f : Cluster → Cluster) : (s.modCluster g f).nextWindow = s.nextWindow := rfl
@[simp] theorem State.modCluster_snaps (s : State) (g : Nat) (f : Cluster → Cluster) : (s.modCluster g f).snaps = s.snaps := rfl
@[simp] theorem State.modEp_cur (s : State) (e : Nat) (f : Endpoint → Endpoint) : (s.modEp e f).cur = s.cur := rfl
@[simp] theorem State.modEp_schedule (s : State) (e : Nat) (f : Endpoint → Endpoint) : (s.modEp e f).schedule = s.schedule := rfl
@[simp] theorem State.modEp_turn (s : State) (e : Nat) (f : Endpoint → Endpoint) : (s.modEp e f).turn = s.turn := rfl
@[simp] theorem State.modEp_free (s : State) (e : Nat) (f : Endpoint → Endpoint) : (s.modEp e f).free = s.free := rfl
@[simp] theorem State.modEp_nextId (s : State) (e : Nat) (f : Endpoint → Endpoint) : (s.modEp e f).nextId = s.nextId := rfl
@[simp] theorem State.modEp_pace (s : State) (e : Nat) (f : Endpoint → Endpoint) : (s.modEp e f).pace = s.pace := rfl
@[simp] theorem State.modEp_dtime (s : State) (e : Nat) (f : Endpoint → Endpoint) : (s.modEp e f).dtime = s.dtime := rfl
@[simp] theorem State.modEp_cyc10 (s : State) (e : Nat) (f : Endpoint → Endpoint) : (s.modEp e f).cyc10 = s.cyc10 := rfl
@[simp] theorem State.modEp_mem (s : State) (e : Nat) (f : Endpoint → Endpoint) : (s.modEp e f).mem = s.mem := rfl
@[simp] theorem State.modEp_ecc (s : State) (e : Nat) (f : Endpoint → Endpoint) : (s.modEp e f).ecc = s.ecc := rfl
@[simp] theorem State.modEp_poison (s : State) (e : Nat) (f : Endpoint → Endpoint) : (s.modEp e f).poison = s.poison := rfl
@[simp] theorem State.modEp_unreachable (s : State) (e : Nat) (f : Endpoint → Endpoint) : (s.modEp e f).unreachable = s.unreachable := rfl
@[simp] theorem State.modEp_cores (s : State) (e : Nat) (f : Endpoint → Endpoint) : (s.modEp e f).cores = s.cores := rfl
@[simp] theorem State.modEp_clusters (s : State) (e : Nat) (f : Endpoint → Endpoint) : (s.modEp e f).clusters = s.clusters := rfl
@[simp] theorem State.modEp_net (s : State) (e : Nat) (f : Endpoint → Endpoint) : (s.modEp e f).net = s.net := rfl
@[simp] theorem State.modEp_ports (s : State) (e : Nat) (f : Endpoint → Endpoint) : (s.modEp e f).ports = s.ports := rfl
@[simp] theorem State.modEp_share (s : State) (e : Nat) (f : Endpoint → Endpoint) : (s.modEp e f).share = s.share := rfl
@[simp] theorem State.modEp_jobs (s : State) (e : Nat) (f : Endpoint → Endpoint) : (s.modEp e f).jobs = s.jobs := rfl
@[simp] theorem State.modEp_classes (s : State) (e : Nat) (f : Endpoint → Endpoint) : (s.modEp e f).classes = s.classes := rfl
@[simp] theorem State.modEp_domains (s : State) (e : Nat) (f : Endpoint → Endpoint) : (s.modEp e f).domains = s.domains := rfl
@[simp] theorem State.modEp_fwds (s : State) (e : Nat) (f : Endpoint → Endpoint) : (s.modEp e f).fwds = s.fwds := rfl
@[simp] theorem State.modEp_nanReports (s : State) (e : Nat) (f : Endpoint → Endpoint) : (s.modEp e f).nanReports = s.nanReports := rfl
@[simp] theorem State.modEp_walks (s : State) (e : Nat) (f : Endpoint → Endpoint) : (s.modEp e f).walks = s.walks := rfl
@[simp] theorem State.modEp_invals (s : State) (e : Nat) (f : Endpoint → Endpoint) : (s.modEp e f).invals = s.invals := rfl
@[simp] theorem State.modEp_redel (s : State) (e : Nat) (f : Endpoint → Endpoint) : (s.modEp e f).redel = s.redel := rfl
@[simp] theorem State.modEp_xfers (s : State) (e : Nat) (f : Endpoint → Endpoint) : (s.modEp e f).xfers = s.xfers := rfl
@[simp] theorem State.modEp_reserve (s : State) (e : Nat) (f : Endpoint → Endpoint) : (s.modEp e f).reserve = s.reserve := rfl
@[simp] theorem State.modEp_caveRoom (s : State) (e : Nat) (f : Endpoint → Endpoint) : (s.modEp e f).caveRoom = s.caveRoom := rfl
@[simp] theorem State.modEp_migr (s : State) (e : Nat) (f : Endpoint → Endpoint) : (s.modEp e f).migr = s.migr := rfl
@[simp] theorem State.modEp_queues (s : State) (e : Nat) (f : Endpoint → Endpoint) : (s.modEp e f).queues = s.queues := rfl
@[simp] theorem State.modEp_feEvents (s : State) (e : Nat) (f : Endpoint → Endpoint) : (s.modEp e f).feEvents = s.feEvents := rfl
@[simp] theorem State.modEp_fenced (s : State) (e : Nat) (f : Endpoint → Endpoint) : (s.modEp e f).fenced = s.fenced := rfl
@[simp] theorem State.modEp_requests (s : State) (e : Nat) (f : Endpoint → Endpoint) : (s.modEp e f).requests = s.requests := rfl
@[simp] theorem State.modEp_bar0 (s : State) (e : Nat) (f : Endpoint → Endpoint) : (s.modEp e f).bar0 = s.bar0 := rfl
@[simp] theorem State.modEp_boot (s : State) (e : Nat) (f : Endpoint → Endpoint) : (s.modEp e f).boot = s.boot := rfl
@[simp] theorem State.modEp_power (s : State) (e : Nat) (f : Endpoint → Endpoint) : (s.modEp e f).power = s.power := rfl
@[simp] theorem State.modEp_hotAt (s : State) (e : Nat) (f : Endpoint → Endpoint) : (s.modEp e f).hotAt = s.hotAt := rfl
@[simp] theorem State.modEp_coolAt (s : State) (e : Nat) (f : Endpoint → Endpoint) : (s.modEp e f).coolAt = s.coolAt := rfl
@[simp] theorem State.modEp_tripped (s : State) (e : Nat) (f : Endpoint → Endpoint) : (s.modEp e f).tripped = s.tripped := rfl
@[simp] theorem State.modEp_links (s : State) (e : Nat) (f : Endpoint → Endpoint) : (s.modEp e f).links = s.links := rfl
@[simp] theorem State.modEp_peer (s : State) (e : Nat) (f : Endpoint → Endpoint) : (s.modEp e f).peer = s.peer := rfl
@[simp] theorem State.modEp_ring0 (s : State) (e : Nat) (f : Endpoint → Endpoint) : (s.modEp e f).ring0 = s.ring0 := rfl
@[simp] theorem State.modEp_ring1 (s : State) (e : Nat) (f : Endpoint → Endpoint) : (s.modEp e f).ring1 = s.ring1 := rfl
@[simp] theorem State.modEp_mesh0 (s : State) (e : Nat) (f : Endpoint → Endpoint) : (s.modEp e f).mesh0 = s.mesh0 := rfl
@[simp] theorem State.modEp_mesh1 (s : State) (e : Nat) (f : Endpoint → Endpoint) : (s.modEp e f).mesh1 = s.mesh1 := rfl
@[simp] theorem State.modEp_nextBalance (s : State) (e : Nat) (f : Endpoint → Endpoint) : (s.modEp e f).nextBalance = s.nextBalance := rfl
@[simp] theorem State.modEp_nextFloor (s : State) (e : Nat) (f : Endpoint → Endpoint) : (s.modEp e f).nextFloor = s.nextFloor := rfl
@[simp] theorem State.modEp_nextFlags (s : State) (e : Nat) (f : Endpoint → Endpoint) : (s.modEp e f).nextFlags = s.nextFlags := rfl
@[simp] theorem State.modEp_nextLevel (s : State) (e : Nat) (f : Endpoint → Endpoint) : (s.modEp e f).nextLevel = s.nextLevel := rfl
@[simp] theorem State.modEp_nextShadow (s : State) (e : Nat) (f : Endpoint → Endpoint) : (s.modEp e f).nextShadow = s.nextShadow := rfl
@[simp] theorem State.modEp_nextWindow (s : State) (e : Nat) (f : Endpoint → Endpoint) : (s.modEp e f).nextWindow = s.nextWindow := rfl
@[simp] theorem State.modEp_snaps (s : State) (e : Nat) (f : Endpoint → Endpoint) : (s.modEp e f).snaps = s.snaps := rfl
@[simp] theorem State.modJob_cur (s : State) (j : Nat) (f : Job → Job) : (s.modJob j f).cur = s.cur := rfl
@[simp] theorem State.modJob_schedule (s : State) (j : Nat) (f : Job → Job) : (s.modJob j f).schedule = s.schedule := rfl
@[simp] theorem State.modJob_turn (s : State) (j : Nat) (f : Job → Job) : (s.modJob j f).turn = s.turn := rfl
@[simp] theorem State.modJob_free (s : State) (j : Nat) (f : Job → Job) : (s.modJob j f).free = s.free := rfl
@[simp] theorem State.modJob_nextId (s : State) (j : Nat) (f : Job → Job) : (s.modJob j f).nextId = s.nextId := rfl
@[simp] theorem State.modJob_pace (s : State) (j : Nat) (f : Job → Job) : (s.modJob j f).pace = s.pace := rfl
@[simp] theorem State.modJob_dtime (s : State) (j : Nat) (f : Job → Job) : (s.modJob j f).dtime = s.dtime := rfl
@[simp] theorem State.modJob_cyc10 (s : State) (j : Nat) (f : Job → Job) : (s.modJob j f).cyc10 = s.cyc10 := rfl
@[simp] theorem State.modJob_mem (s : State) (j : Nat) (f : Job → Job) : (s.modJob j f).mem = s.mem := rfl
@[simp] theorem State.modJob_ecc (s : State) (j : Nat) (f : Job → Job) : (s.modJob j f).ecc = s.ecc := rfl
@[simp] theorem State.modJob_poison (s : State) (j : Nat) (f : Job → Job) : (s.modJob j f).poison = s.poison := rfl
@[simp] theorem State.modJob_unreachable (s : State) (j : Nat) (f : Job → Job) : (s.modJob j f).unreachable = s.unreachable := rfl
@[simp] theorem State.modJob_cores (s : State) (j : Nat) (f : Job → Job) : (s.modJob j f).cores = s.cores := rfl
@[simp] theorem State.modJob_clusters (s : State) (j : Nat) (f : Job → Job) : (s.modJob j f).clusters = s.clusters := rfl
@[simp] theorem State.modJob_eps (s : State) (j : Nat) (f : Job → Job) : (s.modJob j f).eps = s.eps := rfl
@[simp] theorem State.modJob_net (s : State) (j : Nat) (f : Job → Job) : (s.modJob j f).net = s.net := rfl
@[simp] theorem State.modJob_ports (s : State) (j : Nat) (f : Job → Job) : (s.modJob j f).ports = s.ports := rfl
@[simp] theorem State.modJob_share (s : State) (j : Nat) (f : Job → Job) : (s.modJob j f).share = s.share := rfl
@[simp] theorem State.modJob_classes (s : State) (j : Nat) (f : Job → Job) : (s.modJob j f).classes = s.classes := rfl
@[simp] theorem State.modJob_domains (s : State) (j : Nat) (f : Job → Job) : (s.modJob j f).domains = s.domains := rfl
@[simp] theorem State.modJob_fwds (s : State) (j : Nat) (f : Job → Job) : (s.modJob j f).fwds = s.fwds := rfl
@[simp] theorem State.modJob_nanReports (s : State) (j : Nat) (f : Job → Job) : (s.modJob j f).nanReports = s.nanReports := rfl
@[simp] theorem State.modJob_walks (s : State) (j : Nat) (f : Job → Job) : (s.modJob j f).walks = s.walks := rfl
@[simp] theorem State.modJob_invals (s : State) (j : Nat) (f : Job → Job) : (s.modJob j f).invals = s.invals := rfl
@[simp] theorem State.modJob_redel (s : State) (j : Nat) (f : Job → Job) : (s.modJob j f).redel = s.redel := rfl
@[simp] theorem State.modJob_xfers (s : State) (j : Nat) (f : Job → Job) : (s.modJob j f).xfers = s.xfers := rfl
@[simp] theorem State.modJob_reserve (s : State) (j : Nat) (f : Job → Job) : (s.modJob j f).reserve = s.reserve := rfl
@[simp] theorem State.modJob_caveRoom (s : State) (j : Nat) (f : Job → Job) : (s.modJob j f).caveRoom = s.caveRoom := rfl
@[simp] theorem State.modJob_migr (s : State) (j : Nat) (f : Job → Job) : (s.modJob j f).migr = s.migr := rfl
@[simp] theorem State.modJob_queues (s : State) (j : Nat) (f : Job → Job) : (s.modJob j f).queues = s.queues := rfl
@[simp] theorem State.modJob_feEvents (s : State) (j : Nat) (f : Job → Job) : (s.modJob j f).feEvents = s.feEvents := rfl
@[simp] theorem State.modJob_fenced (s : State) (j : Nat) (f : Job → Job) : (s.modJob j f).fenced = s.fenced := rfl
@[simp] theorem State.modJob_requests (s : State) (j : Nat) (f : Job → Job) : (s.modJob j f).requests = s.requests := rfl
@[simp] theorem State.modJob_bar0 (s : State) (j : Nat) (f : Job → Job) : (s.modJob j f).bar0 = s.bar0 := rfl
@[simp] theorem State.modJob_boot (s : State) (j : Nat) (f : Job → Job) : (s.modJob j f).boot = s.boot := rfl
@[simp] theorem State.modJob_power (s : State) (j : Nat) (f : Job → Job) : (s.modJob j f).power = s.power := rfl
@[simp] theorem State.modJob_hotAt (s : State) (j : Nat) (f : Job → Job) : (s.modJob j f).hotAt = s.hotAt := rfl
@[simp] theorem State.modJob_coolAt (s : State) (j : Nat) (f : Job → Job) : (s.modJob j f).coolAt = s.coolAt := rfl
@[simp] theorem State.modJob_tripped (s : State) (j : Nat) (f : Job → Job) : (s.modJob j f).tripped = s.tripped := rfl
@[simp] theorem State.modJob_links (s : State) (j : Nat) (f : Job → Job) : (s.modJob j f).links = s.links := rfl
@[simp] theorem State.modJob_peer (s : State) (j : Nat) (f : Job → Job) : (s.modJob j f).peer = s.peer := rfl
@[simp] theorem State.modJob_ring0 (s : State) (j : Nat) (f : Job → Job) : (s.modJob j f).ring0 = s.ring0 := rfl
@[simp] theorem State.modJob_ring1 (s : State) (j : Nat) (f : Job → Job) : (s.modJob j f).ring1 = s.ring1 := rfl
@[simp] theorem State.modJob_mesh0 (s : State) (j : Nat) (f : Job → Job) : (s.modJob j f).mesh0 = s.mesh0 := rfl
@[simp] theorem State.modJob_mesh1 (s : State) (j : Nat) (f : Job → Job) : (s.modJob j f).mesh1 = s.mesh1 := rfl
@[simp] theorem State.modJob_nextBalance (s : State) (j : Nat) (f : Job → Job) : (s.modJob j f).nextBalance = s.nextBalance := rfl
@[simp] theorem State.modJob_nextFloor (s : State) (j : Nat) (f : Job → Job) : (s.modJob j f).nextFloor = s.nextFloor := rfl
@[simp] theorem State.modJob_nextFlags (s : State) (j : Nat) (f : Job → Job) : (s.modJob j f).nextFlags = s.nextFlags := rfl
@[simp] theorem State.modJob_nextLevel (s : State) (j : Nat) (f : Job → Job) : (s.modJob j f).nextLevel = s.nextLevel := rfl
@[simp] theorem State.modJob_nextShadow (s : State) (j : Nat) (f : Job → Job) : (s.modJob j f).nextShadow = s.nextShadow := rfl
@[simp] theorem State.modJob_nextWindow (s : State) (j : Nat) (f : Job → Job) : (s.modJob j f).nextWindow = s.nextWindow := rfl
@[simp] theorem State.modJob_snaps (s : State) (j : Nat) (f : Job → Job) : (s.modJob j f).snaps = s.snaps := rfl
@[simp] theorem State.modCls_cur (s : State) (c : BitVec 12) (f : ClassDesc → ClassDesc) : (s.modCls c f).cur = s.cur := rfl
@[simp] theorem State.modCls_schedule (s : State) (c : BitVec 12) (f : ClassDesc → ClassDesc) : (s.modCls c f).schedule = s.schedule := rfl
@[simp] theorem State.modCls_turn (s : State) (c : BitVec 12) (f : ClassDesc → ClassDesc) : (s.modCls c f).turn = s.turn := rfl
@[simp] theorem State.modCls_free (s : State) (c : BitVec 12) (f : ClassDesc → ClassDesc) : (s.modCls c f).free = s.free := rfl
@[simp] theorem State.modCls_nextId (s : State) (c : BitVec 12) (f : ClassDesc → ClassDesc) : (s.modCls c f).nextId = s.nextId := rfl
@[simp] theorem State.modCls_pace (s : State) (c : BitVec 12) (f : ClassDesc → ClassDesc) : (s.modCls c f).pace = s.pace := rfl
@[simp] theorem State.modCls_dtime (s : State) (c : BitVec 12) (f : ClassDesc → ClassDesc) : (s.modCls c f).dtime = s.dtime := rfl
@[simp] theorem State.modCls_cyc10 (s : State) (c : BitVec 12) (f : ClassDesc → ClassDesc) : (s.modCls c f).cyc10 = s.cyc10 := rfl
@[simp] theorem State.modCls_mem (s : State) (c : BitVec 12) (f : ClassDesc → ClassDesc) : (s.modCls c f).mem = s.mem := rfl
@[simp] theorem State.modCls_ecc (s : State) (c : BitVec 12) (f : ClassDesc → ClassDesc) : (s.modCls c f).ecc = s.ecc := rfl
@[simp] theorem State.modCls_poison (s : State) (c : BitVec 12) (f : ClassDesc → ClassDesc) : (s.modCls c f).poison = s.poison := rfl
@[simp] theorem State.modCls_unreachable (s : State) (c : BitVec 12) (f : ClassDesc → ClassDesc) : (s.modCls c f).unreachable = s.unreachable := rfl
@[simp] theorem State.modCls_cores (s : State) (c : BitVec 12) (f : ClassDesc → ClassDesc) : (s.modCls c f).cores = s.cores := rfl
@[simp] theorem State.modCls_clusters (s : State) (c : BitVec 12) (f : ClassDesc → ClassDesc) : (s.modCls c f).clusters = s.clusters := rfl
@[simp] theorem State.modCls_eps (s : State) (c : BitVec 12) (f : ClassDesc → ClassDesc) : (s.modCls c f).eps = s.eps := rfl
@[simp] theorem State.modCls_net (s : State) (c : BitVec 12) (f : ClassDesc → ClassDesc) : (s.modCls c f).net = s.net := rfl
@[simp] theorem State.modCls_ports (s : State) (c : BitVec 12) (f : ClassDesc → ClassDesc) : (s.modCls c f).ports = s.ports := rfl
@[simp] theorem State.modCls_share (s : State) (c : BitVec 12) (f : ClassDesc → ClassDesc) : (s.modCls c f).share = s.share := rfl
@[simp] theorem State.modCls_jobs (s : State) (c : BitVec 12) (f : ClassDesc → ClassDesc) : (s.modCls c f).jobs = s.jobs := rfl
@[simp] theorem State.modCls_domains (s : State) (c : BitVec 12) (f : ClassDesc → ClassDesc) : (s.modCls c f).domains = s.domains := rfl
@[simp] theorem State.modCls_fwds (s : State) (c : BitVec 12) (f : ClassDesc → ClassDesc) : (s.modCls c f).fwds = s.fwds := rfl
@[simp] theorem State.modCls_nanReports (s : State) (c : BitVec 12) (f : ClassDesc → ClassDesc) : (s.modCls c f).nanReports = s.nanReports := rfl
@[simp] theorem State.modCls_walks (s : State) (c : BitVec 12) (f : ClassDesc → ClassDesc) : (s.modCls c f).walks = s.walks := rfl
@[simp] theorem State.modCls_invals (s : State) (c : BitVec 12) (f : ClassDesc → ClassDesc) : (s.modCls c f).invals = s.invals := rfl
@[simp] theorem State.modCls_redel (s : State) (c : BitVec 12) (f : ClassDesc → ClassDesc) : (s.modCls c f).redel = s.redel := rfl
@[simp] theorem State.modCls_xfers (s : State) (c : BitVec 12) (f : ClassDesc → ClassDesc) : (s.modCls c f).xfers = s.xfers := rfl
@[simp] theorem State.modCls_reserve (s : State) (c : BitVec 12) (f : ClassDesc → ClassDesc) : (s.modCls c f).reserve = s.reserve := rfl
@[simp] theorem State.modCls_caveRoom (s : State) (c : BitVec 12) (f : ClassDesc → ClassDesc) : (s.modCls c f).caveRoom = s.caveRoom := rfl
@[simp] theorem State.modCls_migr (s : State) (c : BitVec 12) (f : ClassDesc → ClassDesc) : (s.modCls c f).migr = s.migr := rfl
@[simp] theorem State.modCls_queues (s : State) (c : BitVec 12) (f : ClassDesc → ClassDesc) : (s.modCls c f).queues = s.queues := rfl
@[simp] theorem State.modCls_feEvents (s : State) (c : BitVec 12) (f : ClassDesc → ClassDesc) : (s.modCls c f).feEvents = s.feEvents := rfl
@[simp] theorem State.modCls_fenced (s : State) (c : BitVec 12) (f : ClassDesc → ClassDesc) : (s.modCls c f).fenced = s.fenced := rfl
@[simp] theorem State.modCls_requests (s : State) (c : BitVec 12) (f : ClassDesc → ClassDesc) : (s.modCls c f).requests = s.requests := rfl
@[simp] theorem State.modCls_bar0 (s : State) (c : BitVec 12) (f : ClassDesc → ClassDesc) : (s.modCls c f).bar0 = s.bar0 := rfl
@[simp] theorem State.modCls_boot (s : State) (c : BitVec 12) (f : ClassDesc → ClassDesc) : (s.modCls c f).boot = s.boot := rfl
@[simp] theorem State.modCls_power (s : State) (c : BitVec 12) (f : ClassDesc → ClassDesc) : (s.modCls c f).power = s.power := rfl
@[simp] theorem State.modCls_hotAt (s : State) (c : BitVec 12) (f : ClassDesc → ClassDesc) : (s.modCls c f).hotAt = s.hotAt := rfl
@[simp] theorem State.modCls_coolAt (s : State) (c : BitVec 12) (f : ClassDesc → ClassDesc) : (s.modCls c f).coolAt = s.coolAt := rfl
@[simp] theorem State.modCls_tripped (s : State) (c : BitVec 12) (f : ClassDesc → ClassDesc) : (s.modCls c f).tripped = s.tripped := rfl
@[simp] theorem State.modCls_links (s : State) (c : BitVec 12) (f : ClassDesc → ClassDesc) : (s.modCls c f).links = s.links := rfl
@[simp] theorem State.modCls_peer (s : State) (c : BitVec 12) (f : ClassDesc → ClassDesc) : (s.modCls c f).peer = s.peer := rfl
@[simp] theorem State.modCls_ring0 (s : State) (c : BitVec 12) (f : ClassDesc → ClassDesc) : (s.modCls c f).ring0 = s.ring0 := rfl
@[simp] theorem State.modCls_ring1 (s : State) (c : BitVec 12) (f : ClassDesc → ClassDesc) : (s.modCls c f).ring1 = s.ring1 := rfl
@[simp] theorem State.modCls_mesh0 (s : State) (c : BitVec 12) (f : ClassDesc → ClassDesc) : (s.modCls c f).mesh0 = s.mesh0 := rfl
@[simp] theorem State.modCls_mesh1 (s : State) (c : BitVec 12) (f : ClassDesc → ClassDesc) : (s.modCls c f).mesh1 = s.mesh1 := rfl
@[simp] theorem State.modCls_nextBalance (s : State) (c : BitVec 12) (f : ClassDesc → ClassDesc) : (s.modCls c f).nextBalance = s.nextBalance := rfl
@[simp] theorem State.modCls_nextFloor (s : State) (c : BitVec 12) (f : ClassDesc → ClassDesc) : (s.modCls c f).nextFloor = s.nextFloor := rfl
@[simp] theorem State.modCls_nextFlags (s : State) (c : BitVec 12) (f : ClassDesc → ClassDesc) : (s.modCls c f).nextFlags = s.nextFlags := rfl
@[simp] theorem State.modCls_nextLevel (s : State) (c : BitVec 12) (f : ClassDesc → ClassDesc) : (s.modCls c f).nextLevel = s.nextLevel := rfl
@[simp] theorem State.modCls_nextShadow (s : State) (c : BitVec 12) (f : ClassDesc → ClassDesc) : (s.modCls c f).nextShadow = s.nextShadow := rfl
@[simp] theorem State.modCls_nextWindow (s : State) (c : BitVec 12) (f : ClassDesc → ClassDesc) : (s.modCls c f).nextWindow = s.nextWindow := rfl
@[simp] theorem State.modCls_snaps (s : State) (c : BitVec 12) (f : ClassDesc → ClassDesc) : (s.modCls c f).snaps = s.snaps := rfl
@[simp] theorem State.modGroup_cur (s : State) (n : Nat) (f : Group → Group) : (s.modGroup n f).cur = s.cur := rfl
@[simp] theorem State.modGroup_schedule (s : State) (n : Nat) (f : Group → Group) : (s.modGroup n f).schedule = s.schedule := rfl
@[simp] theorem State.modGroup_turn (s : State) (n : Nat) (f : Group → Group) : (s.modGroup n f).turn = s.turn := rfl
@[simp] theorem State.modGroup_free (s : State) (n : Nat) (f : Group → Group) : (s.modGroup n f).free = s.free := rfl
@[simp] theorem State.modGroup_nextId (s : State) (n : Nat) (f : Group → Group) : (s.modGroup n f).nextId = s.nextId := rfl
@[simp] theorem State.modGroup_pace (s : State) (n : Nat) (f : Group → Group) : (s.modGroup n f).pace = s.pace := rfl
@[simp] theorem State.modGroup_dtime (s : State) (n : Nat) (f : Group → Group) : (s.modGroup n f).dtime = s.dtime := rfl
@[simp] theorem State.modGroup_cyc10 (s : State) (n : Nat) (f : Group → Group) : (s.modGroup n f).cyc10 = s.cyc10 := rfl
@[simp] theorem State.modGroup_mem (s : State) (n : Nat) (f : Group → Group) : (s.modGroup n f).mem = s.mem := rfl
@[simp] theorem State.modGroup_ecc (s : State) (n : Nat) (f : Group → Group) : (s.modGroup n f).ecc = s.ecc := rfl
@[simp] theorem State.modGroup_poison (s : State) (n : Nat) (f : Group → Group) : (s.modGroup n f).poison = s.poison := rfl
@[simp] theorem State.modGroup_unreachable (s : State) (n : Nat) (f : Group → Group) : (s.modGroup n f).unreachable = s.unreachable := rfl
@[simp] theorem State.modGroup_cores (s : State) (n : Nat) (f : Group → Group) : (s.modGroup n f).cores = s.cores := rfl
@[simp] theorem State.modGroup_eps (s : State) (n : Nat) (f : Group → Group) : (s.modGroup n f).eps = s.eps := rfl
@[simp] theorem State.modGroup_net (s : State) (n : Nat) (f : Group → Group) : (s.modGroup n f).net = s.net := rfl
@[simp] theorem State.modGroup_ports (s : State) (n : Nat) (f : Group → Group) : (s.modGroup n f).ports = s.ports := rfl
@[simp] theorem State.modGroup_share (s : State) (n : Nat) (f : Group → Group) : (s.modGroup n f).share = s.share := rfl
@[simp] theorem State.modGroup_jobs (s : State) (n : Nat) (f : Group → Group) : (s.modGroup n f).jobs = s.jobs := rfl
@[simp] theorem State.modGroup_classes (s : State) (n : Nat) (f : Group → Group) : (s.modGroup n f).classes = s.classes := rfl
@[simp] theorem State.modGroup_domains (s : State) (n : Nat) (f : Group → Group) : (s.modGroup n f).domains = s.domains := rfl
@[simp] theorem State.modGroup_fwds (s : State) (n : Nat) (f : Group → Group) : (s.modGroup n f).fwds = s.fwds := rfl
@[simp] theorem State.modGroup_nanReports (s : State) (n : Nat) (f : Group → Group) : (s.modGroup n f).nanReports = s.nanReports := rfl
@[simp] theorem State.modGroup_walks (s : State) (n : Nat) (f : Group → Group) : (s.modGroup n f).walks = s.walks := rfl
@[simp] theorem State.modGroup_invals (s : State) (n : Nat) (f : Group → Group) : (s.modGroup n f).invals = s.invals := rfl
@[simp] theorem State.modGroup_redel (s : State) (n : Nat) (f : Group → Group) : (s.modGroup n f).redel = s.redel := rfl
@[simp] theorem State.modGroup_xfers (s : State) (n : Nat) (f : Group → Group) : (s.modGroup n f).xfers = s.xfers := rfl
@[simp] theorem State.modGroup_reserve (s : State) (n : Nat) (f : Group → Group) : (s.modGroup n f).reserve = s.reserve := rfl
@[simp] theorem State.modGroup_caveRoom (s : State) (n : Nat) (f : Group → Group) : (s.modGroup n f).caveRoom = s.caveRoom := rfl
@[simp] theorem State.modGroup_migr (s : State) (n : Nat) (f : Group → Group) : (s.modGroup n f).migr = s.migr := rfl
@[simp] theorem State.modGroup_queues (s : State) (n : Nat) (f : Group → Group) : (s.modGroup n f).queues = s.queues := rfl
@[simp] theorem State.modGroup_feEvents (s : State) (n : Nat) (f : Group → Group) : (s.modGroup n f).feEvents = s.feEvents := rfl
@[simp] theorem State.modGroup_fenced (s : State) (n : Nat) (f : Group → Group) : (s.modGroup n f).fenced = s.fenced := rfl
@[simp] theorem State.modGroup_requests (s : State) (n : Nat) (f : Group → Group) : (s.modGroup n f).requests = s.requests := rfl
@[simp] theorem State.modGroup_bar0 (s : State) (n : Nat) (f : Group → Group) : (s.modGroup n f).bar0 = s.bar0 := rfl
@[simp] theorem State.modGroup_boot (s : State) (n : Nat) (f : Group → Group) : (s.modGroup n f).boot = s.boot := rfl
@[simp] theorem State.modGroup_power (s : State) (n : Nat) (f : Group → Group) : (s.modGroup n f).power = s.power := rfl
@[simp] theorem State.modGroup_hotAt (s : State) (n : Nat) (f : Group → Group) : (s.modGroup n f).hotAt = s.hotAt := rfl
@[simp] theorem State.modGroup_coolAt (s : State) (n : Nat) (f : Group → Group) : (s.modGroup n f).coolAt = s.coolAt := rfl
@[simp] theorem State.modGroup_tripped (s : State) (n : Nat) (f : Group → Group) : (s.modGroup n f).tripped = s.tripped := rfl
@[simp] theorem State.modGroup_links (s : State) (n : Nat) (f : Group → Group) : (s.modGroup n f).links = s.links := rfl
@[simp] theorem State.modGroup_peer (s : State) (n : Nat) (f : Group → Group) : (s.modGroup n f).peer = s.peer := rfl
@[simp] theorem State.modGroup_ring0 (s : State) (n : Nat) (f : Group → Group) : (s.modGroup n f).ring0 = s.ring0 := rfl
@[simp] theorem State.modGroup_ring1 (s : State) (n : Nat) (f : Group → Group) : (s.modGroup n f).ring1 = s.ring1 := rfl
@[simp] theorem State.modGroup_mesh0 (s : State) (n : Nat) (f : Group → Group) : (s.modGroup n f).mesh0 = s.mesh0 := rfl
@[simp] theorem State.modGroup_mesh1 (s : State) (n : Nat) (f : Group → Group) : (s.modGroup n f).mesh1 = s.mesh1 := rfl
@[simp] theorem State.modGroup_nextBalance (s : State) (n : Nat) (f : Group → Group) : (s.modGroup n f).nextBalance = s.nextBalance := rfl
@[simp] theorem State.modGroup_nextFloor (s : State) (n : Nat) (f : Group → Group) : (s.modGroup n f).nextFloor = s.nextFloor := rfl
@[simp] theorem State.modGroup_nextFlags (s : State) (n : Nat) (f : Group → Group) : (s.modGroup n f).nextFlags = s.nextFlags := rfl
@[simp] theorem State.modGroup_nextLevel (s : State) (n : Nat) (f : Group → Group) : (s.modGroup n f).nextLevel = s.nextLevel := rfl
@[simp] theorem State.modGroup_nextShadow (s : State) (n : Nat) (f : Group → Group) : (s.modGroup n f).nextShadow = s.nextShadow := rfl
@[simp] theorem State.modGroup_nextWindow (s : State) (n : Nat) (f : Group → Group) : (s.modGroup n f).nextWindow = s.nextWindow := rfl
@[simp] theorem State.modGroup_snaps (s : State) (n : Nat) (f : Group → Group) : (s.modGroup n f).snaps = s.snaps := rfl
@[simp] theorem State.modQueue_cur (s : State) (q : Nat) (f : Queue → Queue) : (s.modQueue q f).cur = s.cur := rfl
@[simp] theorem State.modQueue_schedule (s : State) (q : Nat) (f : Queue → Queue) : (s.modQueue q f).schedule = s.schedule := rfl
@[simp] theorem State.modQueue_turn (s : State) (q : Nat) (f : Queue → Queue) : (s.modQueue q f).turn = s.turn := rfl
@[simp] theorem State.modQueue_free (s : State) (q : Nat) (f : Queue → Queue) : (s.modQueue q f).free = s.free := rfl
@[simp] theorem State.modQueue_nextId (s : State) (q : Nat) (f : Queue → Queue) : (s.modQueue q f).nextId = s.nextId := rfl
@[simp] theorem State.modQueue_pace (s : State) (q : Nat) (f : Queue → Queue) : (s.modQueue q f).pace = s.pace := rfl
@[simp] theorem State.modQueue_dtime (s : State) (q : Nat) (f : Queue → Queue) : (s.modQueue q f).dtime = s.dtime := rfl
@[simp] theorem State.modQueue_cyc10 (s : State) (q : Nat) (f : Queue → Queue) : (s.modQueue q f).cyc10 = s.cyc10 := rfl
@[simp] theorem State.modQueue_mem (s : State) (q : Nat) (f : Queue → Queue) : (s.modQueue q f).mem = s.mem := rfl
@[simp] theorem State.modQueue_ecc (s : State) (q : Nat) (f : Queue → Queue) : (s.modQueue q f).ecc = s.ecc := rfl
@[simp] theorem State.modQueue_poison (s : State) (q : Nat) (f : Queue → Queue) : (s.modQueue q f).poison = s.poison := rfl
@[simp] theorem State.modQueue_unreachable (s : State) (q : Nat) (f : Queue → Queue) : (s.modQueue q f).unreachable = s.unreachable := rfl
@[simp] theorem State.modQueue_cores (s : State) (q : Nat) (f : Queue → Queue) : (s.modQueue q f).cores = s.cores := rfl
@[simp] theorem State.modQueue_clusters (s : State) (q : Nat) (f : Queue → Queue) : (s.modQueue q f).clusters = s.clusters := rfl
@[simp] theorem State.modQueue_eps (s : State) (q : Nat) (f : Queue → Queue) : (s.modQueue q f).eps = s.eps := rfl
@[simp] theorem State.modQueue_net (s : State) (q : Nat) (f : Queue → Queue) : (s.modQueue q f).net = s.net := rfl
@[simp] theorem State.modQueue_ports (s : State) (q : Nat) (f : Queue → Queue) : (s.modQueue q f).ports = s.ports := rfl
@[simp] theorem State.modQueue_share (s : State) (q : Nat) (f : Queue → Queue) : (s.modQueue q f).share = s.share := rfl
@[simp] theorem State.modQueue_jobs (s : State) (q : Nat) (f : Queue → Queue) : (s.modQueue q f).jobs = s.jobs := rfl
@[simp] theorem State.modQueue_classes (s : State) (q : Nat) (f : Queue → Queue) : (s.modQueue q f).classes = s.classes := rfl
@[simp] theorem State.modQueue_domains (s : State) (q : Nat) (f : Queue → Queue) : (s.modQueue q f).domains = s.domains := rfl
@[simp] theorem State.modQueue_fwds (s : State) (q : Nat) (f : Queue → Queue) : (s.modQueue q f).fwds = s.fwds := rfl
@[simp] theorem State.modQueue_nanReports (s : State) (q : Nat) (f : Queue → Queue) : (s.modQueue q f).nanReports = s.nanReports := rfl
@[simp] theorem State.modQueue_walks (s : State) (q : Nat) (f : Queue → Queue) : (s.modQueue q f).walks = s.walks := rfl
@[simp] theorem State.modQueue_invals (s : State) (q : Nat) (f : Queue → Queue) : (s.modQueue q f).invals = s.invals := rfl
@[simp] theorem State.modQueue_redel (s : State) (q : Nat) (f : Queue → Queue) : (s.modQueue q f).redel = s.redel := rfl
@[simp] theorem State.modQueue_xfers (s : State) (q : Nat) (f : Queue → Queue) : (s.modQueue q f).xfers = s.xfers := rfl
@[simp] theorem State.modQueue_reserve (s : State) (q : Nat) (f : Queue → Queue) : (s.modQueue q f).reserve = s.reserve := rfl
@[simp] theorem State.modQueue_caveRoom (s : State) (q : Nat) (f : Queue → Queue) : (s.modQueue q f).caveRoom = s.caveRoom := rfl
@[simp] theorem State.modQueue_migr (s : State) (q : Nat) (f : Queue → Queue) : (s.modQueue q f).migr = s.migr := rfl
@[simp] theorem State.modQueue_feEvents (s : State) (q : Nat) (f : Queue → Queue) : (s.modQueue q f).feEvents = s.feEvents := rfl
@[simp] theorem State.modQueue_fenced (s : State) (q : Nat) (f : Queue → Queue) : (s.modQueue q f).fenced = s.fenced := rfl
@[simp] theorem State.modQueue_requests (s : State) (q : Nat) (f : Queue → Queue) : (s.modQueue q f).requests = s.requests := rfl
@[simp] theorem State.modQueue_bar0 (s : State) (q : Nat) (f : Queue → Queue) : (s.modQueue q f).bar0 = s.bar0 := rfl
@[simp] theorem State.modQueue_boot (s : State) (q : Nat) (f : Queue → Queue) : (s.modQueue q f).boot = s.boot := rfl
@[simp] theorem State.modQueue_power (s : State) (q : Nat) (f : Queue → Queue) : (s.modQueue q f).power = s.power := rfl
@[simp] theorem State.modQueue_hotAt (s : State) (q : Nat) (f : Queue → Queue) : (s.modQueue q f).hotAt = s.hotAt := rfl
@[simp] theorem State.modQueue_coolAt (s : State) (q : Nat) (f : Queue → Queue) : (s.modQueue q f).coolAt = s.coolAt := rfl
@[simp] theorem State.modQueue_tripped (s : State) (q : Nat) (f : Queue → Queue) : (s.modQueue q f).tripped = s.tripped := rfl
@[simp] theorem State.modQueue_links (s : State) (q : Nat) (f : Queue → Queue) : (s.modQueue q f).links = s.links := rfl
@[simp] theorem State.modQueue_peer (s : State) (q : Nat) (f : Queue → Queue) : (s.modQueue q f).peer = s.peer := rfl
@[simp] theorem State.modQueue_ring0 (s : State) (q : Nat) (f : Queue → Queue) : (s.modQueue q f).ring0 = s.ring0 := rfl
@[simp] theorem State.modQueue_ring1 (s : State) (q : Nat) (f : Queue → Queue) : (s.modQueue q f).ring1 = s.ring1 := rfl
@[simp] theorem State.modQueue_mesh0 (s : State) (q : Nat) (f : Queue → Queue) : (s.modQueue q f).mesh0 = s.mesh0 := rfl
@[simp] theorem State.modQueue_mesh1 (s : State) (q : Nat) (f : Queue → Queue) : (s.modQueue q f).mesh1 = s.mesh1 := rfl
@[simp] theorem State.modQueue_nextBalance (s : State) (q : Nat) (f : Queue → Queue) : (s.modQueue q f).nextBalance = s.nextBalance := rfl
@[simp] theorem State.modQueue_nextFloor (s : State) (q : Nat) (f : Queue → Queue) : (s.modQueue q f).nextFloor = s.nextFloor := rfl
@[simp] theorem State.modQueue_nextFlags (s : State) (q : Nat) (f : Queue → Queue) : (s.modQueue q f).nextFlags = s.nextFlags := rfl
@[simp] theorem State.modQueue_nextLevel (s : State) (q : Nat) (f : Queue → Queue) : (s.modQueue q f).nextLevel = s.nextLevel := rfl
@[simp] theorem State.modQueue_nextShadow (s : State) (q : Nat) (f : Queue → Queue) : (s.modQueue q f).nextShadow = s.nextShadow := rfl
@[simp] theorem State.modQueue_nextWindow (s : State) (q : Nat) (f : Queue → Queue) : (s.modQueue q f).nextWindow = s.nextWindow := rfl
@[simp] theorem State.modQueue_snaps (s : State) (q : Nat) (f : Queue → Queue) : (s.modQueue q f).snaps = s.snaps := rfl
@[simp] theorem State.store_cur (s : State) (p n v : Nat) : (s.store p n v).cur = s.cur := rfl
@[simp] theorem State.store_schedule (s : State) (p n v : Nat) : (s.store p n v).schedule = s.schedule := rfl
@[simp] theorem State.store_turn (s : State) (p n v : Nat) : (s.store p n v).turn = s.turn := rfl
@[simp] theorem State.store_free (s : State) (p n v : Nat) : (s.store p n v).free = s.free := rfl
@[simp] theorem State.store_nextId (s : State) (p n v : Nat) : (s.store p n v).nextId = s.nextId := rfl
@[simp] theorem State.store_pace (s : State) (p n v : Nat) : (s.store p n v).pace = s.pace := rfl
@[simp] theorem State.store_dtime (s : State) (p n v : Nat) : (s.store p n v).dtime = s.dtime := rfl
@[simp] theorem State.store_cyc10 (s : State) (p n v : Nat) : (s.store p n v).cyc10 = s.cyc10 := rfl
@[simp] theorem State.store_ecc (s : State) (p n v : Nat) : (s.store p n v).ecc = s.ecc := rfl
@[simp] theorem State.store_poison (s : State) (p n v : Nat) : (s.store p n v).poison = s.poison := rfl
@[simp] theorem State.store_unreachable (s : State) (p n v : Nat) : (s.store p n v).unreachable = s.unreachable := rfl
@[simp] theorem State.store_cores (s : State) (p n v : Nat) : (s.store p n v).cores = s.cores := rfl
@[simp] theorem State.store_clusters (s : State) (p n v : Nat) : (s.store p n v).clusters = s.clusters := rfl
@[simp] theorem State.store_eps (s : State) (p n v : Nat) : (s.store p n v).eps = s.eps := rfl
@[simp] theorem State.store_net (s : State) (p n v : Nat) : (s.store p n v).net = s.net := rfl
@[simp] theorem State.store_ports (s : State) (p n v : Nat) : (s.store p n v).ports = s.ports := rfl
@[simp] theorem State.store_share (s : State) (p n v : Nat) : (s.store p n v).share = s.share := rfl
@[simp] theorem State.store_jobs (s : State) (p n v : Nat) : (s.store p n v).jobs = s.jobs := rfl
@[simp] theorem State.store_classes (s : State) (p n v : Nat) : (s.store p n v).classes = s.classes := rfl
@[simp] theorem State.store_domains (s : State) (p n v : Nat) : (s.store p n v).domains = s.domains := rfl
@[simp] theorem State.store_fwds (s : State) (p n v : Nat) : (s.store p n v).fwds = s.fwds := rfl
@[simp] theorem State.store_nanReports (s : State) (p n v : Nat) : (s.store p n v).nanReports = s.nanReports := rfl
@[simp] theorem State.store_walks (s : State) (p n v : Nat) : (s.store p n v).walks = s.walks := rfl
@[simp] theorem State.store_invals (s : State) (p n v : Nat) : (s.store p n v).invals = s.invals := rfl
@[simp] theorem State.store_redel (s : State) (p n v : Nat) : (s.store p n v).redel = s.redel := rfl
@[simp] theorem State.store_xfers (s : State) (p n v : Nat) : (s.store p n v).xfers = s.xfers := rfl
@[simp] theorem State.store_reserve (s : State) (p n v : Nat) : (s.store p n v).reserve = s.reserve := rfl
@[simp] theorem State.store_caveRoom (s : State) (p n v : Nat) : (s.store p n v).caveRoom = s.caveRoom := rfl
@[simp] theorem State.store_migr (s : State) (p n v : Nat) : (s.store p n v).migr = s.migr := rfl
@[simp] theorem State.store_queues (s : State) (p n v : Nat) : (s.store p n v).queues = s.queues := rfl
@[simp] theorem State.store_feEvents (s : State) (p n v : Nat) : (s.store p n v).feEvents = s.feEvents := rfl
@[simp] theorem State.store_fenced (s : State) (p n v : Nat) : (s.store p n v).fenced = s.fenced := rfl
@[simp] theorem State.store_requests (s : State) (p n v : Nat) : (s.store p n v).requests = s.requests := rfl
@[simp] theorem State.store_bar0 (s : State) (p n v : Nat) : (s.store p n v).bar0 = s.bar0 := rfl
@[simp] theorem State.store_boot (s : State) (p n v : Nat) : (s.store p n v).boot = s.boot := rfl
@[simp] theorem State.store_power (s : State) (p n v : Nat) : (s.store p n v).power = s.power := rfl
@[simp] theorem State.store_hotAt (s : State) (p n v : Nat) : (s.store p n v).hotAt = s.hotAt := rfl
@[simp] theorem State.store_coolAt (s : State) (p n v : Nat) : (s.store p n v).coolAt = s.coolAt := rfl
@[simp] theorem State.store_tripped (s : State) (p n v : Nat) : (s.store p n v).tripped = s.tripped := rfl
@[simp] theorem State.store_links (s : State) (p n v : Nat) : (s.store p n v).links = s.links := rfl
@[simp] theorem State.store_peer (s : State) (p n v : Nat) : (s.store p n v).peer = s.peer := rfl
@[simp] theorem State.store_ring0 (s : State) (p n v : Nat) : (s.store p n v).ring0 = s.ring0 := rfl
@[simp] theorem State.store_ring1 (s : State) (p n v : Nat) : (s.store p n v).ring1 = s.ring1 := rfl
@[simp] theorem State.store_mesh0 (s : State) (p n v : Nat) : (s.store p n v).mesh0 = s.mesh0 := rfl
@[simp] theorem State.store_mesh1 (s : State) (p n v : Nat) : (s.store p n v).mesh1 = s.mesh1 := rfl
@[simp] theorem State.store_nextBalance (s : State) (p n v : Nat) : (s.store p n v).nextBalance = s.nextBalance := rfl
@[simp] theorem State.store_nextFloor (s : State) (p n v : Nat) : (s.store p n v).nextFloor = s.nextFloor := rfl
@[simp] theorem State.store_nextFlags (s : State) (p n v : Nat) : (s.store p n v).nextFlags = s.nextFlags := rfl
@[simp] theorem State.store_nextLevel (s : State) (p n v : Nat) : (s.store p n v).nextLevel = s.nextLevel := rfl
@[simp] theorem State.store_nextShadow (s : State) (p n v : Nat) : (s.store p n v).nextShadow = s.nextShadow := rfl
@[simp] theorem State.store_nextWindow (s : State) (p n v : Nat) : (s.store p n v).nextWindow = s.nextWindow := rfl
@[simp] theorem State.store_snaps (s : State) (p n v : Nat) : (s.store p n v).snaps = s.snaps := rfl
@[simp] theorem State.storeList_cur (s : State) (p : Nat) (bs : List Byte) : (s.storeList p bs).cur = s.cur := rfl
@[simp] theorem State.storeList_schedule (s : State) (p : Nat) (bs : List Byte) : (s.storeList p bs).schedule = s.schedule := rfl
@[simp] theorem State.storeList_turn (s : State) (p : Nat) (bs : List Byte) : (s.storeList p bs).turn = s.turn := rfl
@[simp] theorem State.storeList_free (s : State) (p : Nat) (bs : List Byte) : (s.storeList p bs).free = s.free := rfl
@[simp] theorem State.storeList_nextId (s : State) (p : Nat) (bs : List Byte) : (s.storeList p bs).nextId = s.nextId := rfl
@[simp] theorem State.storeList_pace (s : State) (p : Nat) (bs : List Byte) : (s.storeList p bs).pace = s.pace := rfl
@[simp] theorem State.storeList_dtime (s : State) (p : Nat) (bs : List Byte) : (s.storeList p bs).dtime = s.dtime := rfl
@[simp] theorem State.storeList_cyc10 (s : State) (p : Nat) (bs : List Byte) : (s.storeList p bs).cyc10 = s.cyc10 := rfl
@[simp] theorem State.storeList_ecc (s : State) (p : Nat) (bs : List Byte) : (s.storeList p bs).ecc = s.ecc := rfl
@[simp] theorem State.storeList_poison (s : State) (p : Nat) (bs : List Byte) : (s.storeList p bs).poison = s.poison := rfl
@[simp] theorem State.storeList_unreachable (s : State) (p : Nat) (bs : List Byte) : (s.storeList p bs).unreachable = s.unreachable := rfl
@[simp] theorem State.storeList_cores (s : State) (p : Nat) (bs : List Byte) : (s.storeList p bs).cores = s.cores := rfl
@[simp] theorem State.storeList_clusters (s : State) (p : Nat) (bs : List Byte) : (s.storeList p bs).clusters = s.clusters := rfl
@[simp] theorem State.storeList_eps (s : State) (p : Nat) (bs : List Byte) : (s.storeList p bs).eps = s.eps := rfl
@[simp] theorem State.storeList_net (s : State) (p : Nat) (bs : List Byte) : (s.storeList p bs).net = s.net := rfl
@[simp] theorem State.storeList_ports (s : State) (p : Nat) (bs : List Byte) : (s.storeList p bs).ports = s.ports := rfl
@[simp] theorem State.storeList_share (s : State) (p : Nat) (bs : List Byte) : (s.storeList p bs).share = s.share := rfl
@[simp] theorem State.storeList_jobs (s : State) (p : Nat) (bs : List Byte) : (s.storeList p bs).jobs = s.jobs := rfl
@[simp] theorem State.storeList_classes (s : State) (p : Nat) (bs : List Byte) : (s.storeList p bs).classes = s.classes := rfl
@[simp] theorem State.storeList_domains (s : State) (p : Nat) (bs : List Byte) : (s.storeList p bs).domains = s.domains := rfl
@[simp] theorem State.storeList_fwds (s : State) (p : Nat) (bs : List Byte) : (s.storeList p bs).fwds = s.fwds := rfl
@[simp] theorem State.storeList_nanReports (s : State) (p : Nat) (bs : List Byte) : (s.storeList p bs).nanReports = s.nanReports := rfl
@[simp] theorem State.storeList_walks (s : State) (p : Nat) (bs : List Byte) : (s.storeList p bs).walks = s.walks := rfl
@[simp] theorem State.storeList_invals (s : State) (p : Nat) (bs : List Byte) : (s.storeList p bs).invals = s.invals := rfl
@[simp] theorem State.storeList_redel (s : State) (p : Nat) (bs : List Byte) : (s.storeList p bs).redel = s.redel := rfl
@[simp] theorem State.storeList_xfers (s : State) (p : Nat) (bs : List Byte) : (s.storeList p bs).xfers = s.xfers := rfl
@[simp] theorem State.storeList_reserve (s : State) (p : Nat) (bs : List Byte) : (s.storeList p bs).reserve = s.reserve := rfl
@[simp] theorem State.storeList_caveRoom (s : State) (p : Nat) (bs : List Byte) : (s.storeList p bs).caveRoom = s.caveRoom := rfl
@[simp] theorem State.storeList_migr (s : State) (p : Nat) (bs : List Byte) : (s.storeList p bs).migr = s.migr := rfl
@[simp] theorem State.storeList_queues (s : State) (p : Nat) (bs : List Byte) : (s.storeList p bs).queues = s.queues := rfl
@[simp] theorem State.storeList_feEvents (s : State) (p : Nat) (bs : List Byte) : (s.storeList p bs).feEvents = s.feEvents := rfl
@[simp] theorem State.storeList_fenced (s : State) (p : Nat) (bs : List Byte) : (s.storeList p bs).fenced = s.fenced := rfl
@[simp] theorem State.storeList_requests (s : State) (p : Nat) (bs : List Byte) : (s.storeList p bs).requests = s.requests := rfl
@[simp] theorem State.storeList_bar0 (s : State) (p : Nat) (bs : List Byte) : (s.storeList p bs).bar0 = s.bar0 := rfl
@[simp] theorem State.storeList_boot (s : State) (p : Nat) (bs : List Byte) : (s.storeList p bs).boot = s.boot := rfl
@[simp] theorem State.storeList_power (s : State) (p : Nat) (bs : List Byte) : (s.storeList p bs).power = s.power := rfl
@[simp] theorem State.storeList_hotAt (s : State) (p : Nat) (bs : List Byte) : (s.storeList p bs).hotAt = s.hotAt := rfl
@[simp] theorem State.storeList_coolAt (s : State) (p : Nat) (bs : List Byte) : (s.storeList p bs).coolAt = s.coolAt := rfl
@[simp] theorem State.storeList_tripped (s : State) (p : Nat) (bs : List Byte) : (s.storeList p bs).tripped = s.tripped := rfl
@[simp] theorem State.storeList_links (s : State) (p : Nat) (bs : List Byte) : (s.storeList p bs).links = s.links := rfl
@[simp] theorem State.storeList_peer (s : State) (p : Nat) (bs : List Byte) : (s.storeList p bs).peer = s.peer := rfl
@[simp] theorem State.storeList_ring0 (s : State) (p : Nat) (bs : List Byte) : (s.storeList p bs).ring0 = s.ring0 := rfl
@[simp] theorem State.storeList_ring1 (s : State) (p : Nat) (bs : List Byte) : (s.storeList p bs).ring1 = s.ring1 := rfl
@[simp] theorem State.storeList_mesh0 (s : State) (p : Nat) (bs : List Byte) : (s.storeList p bs).mesh0 = s.mesh0 := rfl
@[simp] theorem State.storeList_mesh1 (s : State) (p : Nat) (bs : List Byte) : (s.storeList p bs).mesh1 = s.mesh1 := rfl
@[simp] theorem State.storeList_nextBalance (s : State) (p : Nat) (bs : List Byte) : (s.storeList p bs).nextBalance = s.nextBalance := rfl
@[simp] theorem State.storeList_nextFloor (s : State) (p : Nat) (bs : List Byte) : (s.storeList p bs).nextFloor = s.nextFloor := rfl
@[simp] theorem State.storeList_nextFlags (s : State) (p : Nat) (bs : List Byte) : (s.storeList p bs).nextFlags = s.nextFlags := rfl
@[simp] theorem State.storeList_nextLevel (s : State) (p : Nat) (bs : List Byte) : (s.storeList p bs).nextLevel = s.nextLevel := rfl
@[simp] theorem State.storeList_nextShadow (s : State) (p : Nat) (bs : List Byte) : (s.storeList p bs).nextShadow = s.nextShadow := rfl
@[simp] theorem State.storeList_nextWindow (s : State) (p : Nat) (bs : List Byte) : (s.storeList p bs).nextWindow = s.nextWindow := rfl
@[simp] theorem State.storeList_snaps (s : State) (p : Nat) (bs : List Byte) : (s.storeList p bs).snaps = s.snaps := rfl
@[simp] theorem State.writeLine_cur (s : State) (p : Nat) (mask : BitVec 128) (d : BitVec 1024) : (s.writeLine p mask d).cur = s.cur := rfl
@[simp] theorem State.writeLine_schedule (s : State) (p : Nat) (mask : BitVec 128) (d : BitVec 1024) : (s.writeLine p mask d).schedule = s.schedule := rfl
@[simp] theorem State.writeLine_turn (s : State) (p : Nat) (mask : BitVec 128) (d : BitVec 1024) : (s.writeLine p mask d).turn = s.turn := rfl
@[simp] theorem State.writeLine_free (s : State) (p : Nat) (mask : BitVec 128) (d : BitVec 1024) : (s.writeLine p mask d).free = s.free := rfl
@[simp] theorem State.writeLine_nextId (s : State) (p : Nat) (mask : BitVec 128) (d : BitVec 1024) : (s.writeLine p mask d).nextId = s.nextId := rfl
@[simp] theorem State.writeLine_pace (s : State) (p : Nat) (mask : BitVec 128) (d : BitVec 1024) : (s.writeLine p mask d).pace = s.pace := rfl
@[simp] theorem State.writeLine_dtime (s : State) (p : Nat) (mask : BitVec 128) (d : BitVec 1024) : (s.writeLine p mask d).dtime = s.dtime := rfl
@[simp] theorem State.writeLine_cyc10 (s : State) (p : Nat) (mask : BitVec 128) (d : BitVec 1024) : (s.writeLine p mask d).cyc10 = s.cyc10 := rfl
@[simp] theorem State.writeLine_ecc (s : State) (p : Nat) (mask : BitVec 128) (d : BitVec 1024) : (s.writeLine p mask d).ecc = s.ecc := rfl
@[simp] theorem State.writeLine_poison (s : State) (p : Nat) (mask : BitVec 128) (d : BitVec 1024) : (s.writeLine p mask d).poison = s.poison := rfl
@[simp] theorem State.writeLine_unreachable (s : State) (p : Nat) (mask : BitVec 128) (d : BitVec 1024) : (s.writeLine p mask d).unreachable = s.unreachable := rfl
@[simp] theorem State.writeLine_cores (s : State) (p : Nat) (mask : BitVec 128) (d : BitVec 1024) : (s.writeLine p mask d).cores = s.cores := rfl
@[simp] theorem State.writeLine_clusters (s : State) (p : Nat) (mask : BitVec 128) (d : BitVec 1024) : (s.writeLine p mask d).clusters = s.clusters := rfl
@[simp] theorem State.writeLine_eps (s : State) (p : Nat) (mask : BitVec 128) (d : BitVec 1024) : (s.writeLine p mask d).eps = s.eps := rfl
@[simp] theorem State.writeLine_net (s : State) (p : Nat) (mask : BitVec 128) (d : BitVec 1024) : (s.writeLine p mask d).net = s.net := rfl
@[simp] theorem State.writeLine_ports (s : State) (p : Nat) (mask : BitVec 128) (d : BitVec 1024) : (s.writeLine p mask d).ports = s.ports := rfl
@[simp] theorem State.writeLine_share (s : State) (p : Nat) (mask : BitVec 128) (d : BitVec 1024) : (s.writeLine p mask d).share = s.share := rfl
@[simp] theorem State.writeLine_jobs (s : State) (p : Nat) (mask : BitVec 128) (d : BitVec 1024) : (s.writeLine p mask d).jobs = s.jobs := rfl
@[simp] theorem State.writeLine_classes (s : State) (p : Nat) (mask : BitVec 128) (d : BitVec 1024) : (s.writeLine p mask d).classes = s.classes := rfl
@[simp] theorem State.writeLine_domains (s : State) (p : Nat) (mask : BitVec 128) (d : BitVec 1024) : (s.writeLine p mask d).domains = s.domains := rfl
@[simp] theorem State.writeLine_fwds (s : State) (p : Nat) (mask : BitVec 128) (d : BitVec 1024) : (s.writeLine p mask d).fwds = s.fwds := rfl
@[simp] theorem State.writeLine_nanReports (s : State) (p : Nat) (mask : BitVec 128) (d : BitVec 1024) : (s.writeLine p mask d).nanReports = s.nanReports := rfl
@[simp] theorem State.writeLine_walks (s : State) (p : Nat) (mask : BitVec 128) (d : BitVec 1024) : (s.writeLine p mask d).walks = s.walks := rfl
@[simp] theorem State.writeLine_invals (s : State) (p : Nat) (mask : BitVec 128) (d : BitVec 1024) : (s.writeLine p mask d).invals = s.invals := rfl
@[simp] theorem State.writeLine_redel (s : State) (p : Nat) (mask : BitVec 128) (d : BitVec 1024) : (s.writeLine p mask d).redel = s.redel := rfl
@[simp] theorem State.writeLine_xfers (s : State) (p : Nat) (mask : BitVec 128) (d : BitVec 1024) : (s.writeLine p mask d).xfers = s.xfers := rfl
@[simp] theorem State.writeLine_reserve (s : State) (p : Nat) (mask : BitVec 128) (d : BitVec 1024) : (s.writeLine p mask d).reserve = s.reserve := rfl
@[simp] theorem State.writeLine_caveRoom (s : State) (p : Nat) (mask : BitVec 128) (d : BitVec 1024) : (s.writeLine p mask d).caveRoom = s.caveRoom := rfl
@[simp] theorem State.writeLine_migr (s : State) (p : Nat) (mask : BitVec 128) (d : BitVec 1024) : (s.writeLine p mask d).migr = s.migr := rfl
@[simp] theorem State.writeLine_queues (s : State) (p : Nat) (mask : BitVec 128) (d : BitVec 1024) : (s.writeLine p mask d).queues = s.queues := rfl
@[simp] theorem State.writeLine_feEvents (s : State) (p : Nat) (mask : BitVec 128) (d : BitVec 1024) : (s.writeLine p mask d).feEvents = s.feEvents := rfl
@[simp] theorem State.writeLine_fenced (s : State) (p : Nat) (mask : BitVec 128) (d : BitVec 1024) : (s.writeLine p mask d).fenced = s.fenced := rfl
@[simp] theorem State.writeLine_requests (s : State) (p : Nat) (mask : BitVec 128) (d : BitVec 1024) : (s.writeLine p mask d).requests = s.requests := rfl
@[simp] theorem State.writeLine_bar0 (s : State) (p : Nat) (mask : BitVec 128) (d : BitVec 1024) : (s.writeLine p mask d).bar0 = s.bar0 := rfl
@[simp] theorem State.writeLine_boot (s : State) (p : Nat) (mask : BitVec 128) (d : BitVec 1024) : (s.writeLine p mask d).boot = s.boot := rfl
@[simp] theorem State.writeLine_power (s : State) (p : Nat) (mask : BitVec 128) (d : BitVec 1024) : (s.writeLine p mask d).power = s.power := rfl
@[simp] theorem State.writeLine_hotAt (s : State) (p : Nat) (mask : BitVec 128) (d : BitVec 1024) : (s.writeLine p mask d).hotAt = s.hotAt := rfl
@[simp] theorem State.writeLine_coolAt (s : State) (p : Nat) (mask : BitVec 128) (d : BitVec 1024) : (s.writeLine p mask d).coolAt = s.coolAt := rfl
@[simp] theorem State.writeLine_tripped (s : State) (p : Nat) (mask : BitVec 128) (d : BitVec 1024) : (s.writeLine p mask d).tripped = s.tripped := rfl
@[simp] theorem State.writeLine_links (s : State) (p : Nat) (mask : BitVec 128) (d : BitVec 1024) : (s.writeLine p mask d).links = s.links := rfl
@[simp] theorem State.writeLine_peer (s : State) (p : Nat) (mask : BitVec 128) (d : BitVec 1024) : (s.writeLine p mask d).peer = s.peer := rfl
@[simp] theorem State.writeLine_ring0 (s : State) (p : Nat) (mask : BitVec 128) (d : BitVec 1024) : (s.writeLine p mask d).ring0 = s.ring0 := rfl
@[simp] theorem State.writeLine_ring1 (s : State) (p : Nat) (mask : BitVec 128) (d : BitVec 1024) : (s.writeLine p mask d).ring1 = s.ring1 := rfl
@[simp] theorem State.writeLine_mesh0 (s : State) (p : Nat) (mask : BitVec 128) (d : BitVec 1024) : (s.writeLine p mask d).mesh0 = s.mesh0 := rfl
@[simp] theorem State.writeLine_mesh1 (s : State) (p : Nat) (mask : BitVec 128) (d : BitVec 1024) : (s.writeLine p mask d).mesh1 = s.mesh1 := rfl
@[simp] theorem State.writeLine_nextBalance (s : State) (p : Nat) (mask : BitVec 128) (d : BitVec 1024) : (s.writeLine p mask d).nextBalance = s.nextBalance := rfl
@[simp] theorem State.writeLine_nextFloor (s : State) (p : Nat) (mask : BitVec 128) (d : BitVec 1024) : (s.writeLine p mask d).nextFloor = s.nextFloor := rfl
@[simp] theorem State.writeLine_nextFlags (s : State) (p : Nat) (mask : BitVec 128) (d : BitVec 1024) : (s.writeLine p mask d).nextFlags = s.nextFlags := rfl
@[simp] theorem State.writeLine_nextLevel (s : State) (p : Nat) (mask : BitVec 128) (d : BitVec 1024) : (s.writeLine p mask d).nextLevel = s.nextLevel := rfl
@[simp] theorem State.writeLine_nextShadow (s : State) (p : Nat) (mask : BitVec 128) (d : BitVec 1024) : (s.writeLine p mask d).nextShadow = s.nextShadow := rfl
@[simp] theorem State.writeLine_nextWindow (s : State) (p : Nat) (mask : BitVec 128) (d : BitVec 1024) : (s.writeLine p mask d).nextWindow = s.nextWindow := rfl
@[simp] theorem State.writeLine_snaps (s : State) (p : Nat) (mask : BitVec 128) (d : BitVec 1024) : (s.writeLine p mask d).snaps = s.snaps := rfl

/-! Records that an update of another component leaves. -/

@[simp] theorem State.setCore_cluster (s : State) (k : Nat) (c : Core) (x : Nat) : (s.setCore k c).cluster x = s.cluster x := rfl
@[simp] theorem State.setCore_ep (s : State) (k : Nat) (c : Core) (x : Nat) : (s.setCore k c).ep x = s.ep x := rfl
@[simp] theorem State.setCore_job (s : State) (k : Nat) (c : Core) (x : Nat) : (s.setCore k c).job x = s.job x := rfl
@[simp] theorem State.setCore_cls (s : State) (k : Nat) (c : Core) (x : BitVec 12) : (s.setCore k c).cls x = s.cls x := rfl
@[simp] theorem State.setCore_group (s : State) (k : Nat) (c : Core) (x : Nat) : (s.setCore k c).group x = s.group x := rfl
@[simp] theorem State.setCore_queue (s : State) (k : Nat) (c : Core) (x : Nat) : (s.setCore k c).queue x = s.queue x := rfl
@[simp] theorem State.setCore_byte (s : State) (k : Nat) (c : Core) (x : Nat) : (s.setCore k c).byte x = s.byte x := rfl
@[simp] theorem State.modCore_cluster (s : State) (k : Nat) (f : Core → Core) (x : Nat) : (s.modCore k f).cluster x = s.cluster x := rfl
@[simp] theorem State.modCore_ep (s : State) (k : Nat) (f : Core → Core) (x : Nat) : (s.modCore k f).ep x = s.ep x := rfl
@[simp] theorem State.modCore_job (s : State) (k : Nat) (f : Core → Core) (x : Nat) : (s.modCore k f).job x = s.job x := rfl
@[simp] theorem State.modCore_cls (s : State) (k : Nat) (f : Core → Core) (x : BitVec 12) : (s.modCore k f).cls x = s.cls x := rfl
@[simp] theorem State.modCore_group (s : State) (k : Nat) (f : Core → Core) (x : Nat) : (s.modCore k f).group x = s.group x := rfl
@[simp] theorem State.modCore_queue (s : State) (k : Nat) (f : Core → Core) (x : Nat) : (s.modCore k f).queue x = s.queue x := rfl
@[simp] theorem State.modCore_byte (s : State) (k : Nat) (f : Core → Core) (x : Nat) : (s.modCore k f).byte x = s.byte x := rfl
@[simp] theorem State.setC_cluster (s : State) (c : Core) (x : Nat) : (s.setC c).cluster x = s.cluster x := rfl
@[simp] theorem State.setC_ep (s : State) (c : Core) (x : Nat) : (s.setC c).ep x = s.ep x := rfl
@[simp] theorem State.setC_job (s : State) (c : Core) (x : Nat) : (s.setC c).job x = s.job x := rfl
@[simp] theorem State.setC_cls (s : State) (c : Core) (x : BitVec 12) : (s.setC c).cls x = s.cls x := rfl
@[simp] theorem State.setC_group (s : State) (c : Core) (x : Nat) : (s.setC c).group x = s.group x := rfl
@[simp] theorem State.setC_queue (s : State) (c : Core) (x : Nat) : (s.setC c).queue x = s.queue x := rfl
@[simp] theorem State.setC_byte (s : State) (c : Core) (x : Nat) : (s.setC c).byte x = s.byte x := rfl
@[simp] theorem State.modC_cluster (s : State) (f : Core → Core) (x : Nat) : (s.modC f).cluster x = s.cluster x := rfl
@[simp] theorem State.modC_ep (s : State) (f : Core → Core) (x : Nat) : (s.modC f).ep x = s.ep x := rfl
@[simp] theorem State.modC_job (s : State) (f : Core → Core) (x : Nat) : (s.modC f).job x = s.job x := rfl
@[simp] theorem State.modC_cls (s : State) (f : Core → Core) (x : BitVec 12) : (s.modC f).cls x = s.cls x := rfl
@[simp] theorem State.modC_group (s : State) (f : Core → Core) (x : Nat) : (s.modC f).group x = s.group x := rfl
@[simp] theorem State.modC_queue (s : State) (f : Core → Core) (x : Nat) : (s.modC f).queue x = s.queue x := rfl
@[simp] theorem State.modC_byte (s : State) (f : Core → Core) (x : Nat) : (s.modC f).byte x = s.byte x := rfl
@[simp] theorem State.setCluster_core (s : State) (g : Nat) (c : Cluster) (x : Nat) : (s.setCluster g c).core x = s.core x := rfl
@[simp] theorem State.setCluster_ep (s : State) (g : Nat) (c : Cluster) (x : Nat) : (s.setCluster g c).ep x = s.ep x := rfl
@[simp] theorem State.setCluster_job (s : State) (g : Nat) (c : Cluster) (x : Nat) : (s.setCluster g c).job x = s.job x := rfl
@[simp] theorem State.setCluster_cls (s : State) (g : Nat) (c : Cluster) (x : BitVec 12) : (s.setCluster g c).cls x = s.cls x := rfl
@[simp] theorem State.setCluster_queue (s : State) (g : Nat) (c : Cluster) (x : Nat) : (s.setCluster g c).queue x = s.queue x := rfl
@[simp] theorem State.setCluster_byte (s : State) (g : Nat) (c : Cluster) (x : Nat) : (s.setCluster g c).byte x = s.byte x := rfl
@[simp] theorem State.setCluster_c (s : State) (g : Nat) (c : Cluster) : (s.setCluster g c).c = s.c := rfl
@[simp] theorem State.modCluster_core (s : State) (g : Nat) (f : Cluster → Cluster) (x : Nat) : (s.modCluster g f).core x = s.core x := rfl
@[simp] theorem State.modCluster_ep (s : State) (g : Nat) (f : Cluster → Cluster) (x : Nat) : (s.modCluster g f).ep x = s.ep x := rfl
@[simp] theorem State.modCluster_job (s : State) (g : Nat) (f : Cluster → Cluster) (x : Nat) : (s.modCluster g f).job x = s.job x := rfl
@[simp] theorem State.modCluster_cls (s : State) (g : Nat) (f : Cluster → Cluster) (x : BitVec 12) : (s.modCluster g f).cls x = s.cls x := rfl
@[simp] theorem State.modCluster_queue (s : State) (g : Nat) (f : Cluster → Cluster) (x : Nat) : (s.modCluster g f).queue x = s.queue x := rfl
@[simp] theorem State.modCluster_byte (s : State) (g : Nat) (f : Cluster → Cluster) (x : Nat) : (s.modCluster g f).byte x = s.byte x := rfl
@[simp] theorem State.modCluster_c (s : State) (g : Nat) (f : Cluster → Cluster) : (s.modCluster g f).c = s.c := rfl
@[simp] theorem State.modEp_core (s : State) (e : Nat) (f : Endpoint → Endpoint) (x : Nat) : (s.modEp e f).core x = s.core x := rfl
@[simp] theorem State.modEp_cluster (s : State) (e : Nat) (f : Endpoint → Endpoint) (x : Nat) : (s.modEp e f).cluster x = s.cluster x := rfl
@[simp] theorem State.modEp_job (s : State) (e : Nat) (f : Endpoint → Endpoint) (x : Nat) : (s.modEp e f).job x = s.job x := rfl
@[simp] theorem State.modEp_cls (s : State) (e : Nat) (f : Endpoint → Endpoint) (x : BitVec 12) : (s.modEp e f).cls x = s.cls x := rfl
@[simp] theorem State.modEp_group (s : State) (e : Nat) (f : Endpoint → Endpoint) (x : Nat) : (s.modEp e f).group x = s.group x := rfl
@[simp] theorem State.modEp_queue (s : State) (e : Nat) (f : Endpoint → Endpoint) (x : Nat) : (s.modEp e f).queue x = s.queue x := rfl
@[simp] theorem State.modEp_byte (s : State) (e : Nat) (f : Endpoint → Endpoint) (x : Nat) : (s.modEp e f).byte x = s.byte x := rfl
@[simp] theorem State.modEp_c (s : State) (e : Nat) (f : Endpoint → Endpoint) : (s.modEp e f).c = s.c := rfl
@[simp] theorem State.modJob_core (s : State) (j : Nat) (f : Job → Job) (x : Nat) : (s.modJob j f).core x = s.core x := rfl
@[simp] theorem State.modJob_cluster (s : State) (j : Nat) (f : Job → Job) (x : Nat) : (s.modJob j f).cluster x = s.cluster x := rfl
@[simp] theorem State.modJob_ep (s : State) (j : Nat) (f : Job → Job) (x : Nat) : (s.modJob j f).ep x = s.ep x := rfl
@[simp] theorem State.modJob_cls (s : State) (j : Nat) (f : Job → Job) (x : BitVec 12) : (s.modJob j f).cls x = s.cls x := rfl
@[simp] theorem State.modJob_group (s : State) (j : Nat) (f : Job → Job) (x : Nat) : (s.modJob j f).group x = s.group x := rfl
@[simp] theorem State.modJob_queue (s : State) (j : Nat) (f : Job → Job) (x : Nat) : (s.modJob j f).queue x = s.queue x := rfl
@[simp] theorem State.modJob_byte (s : State) (j : Nat) (f : Job → Job) (x : Nat) : (s.modJob j f).byte x = s.byte x := rfl
@[simp] theorem State.modJob_c (s : State) (j : Nat) (f : Job → Job) : (s.modJob j f).c = s.c := rfl
@[simp] theorem State.modCls_core (s : State) (c : BitVec 12) (f : ClassDesc → ClassDesc) (x : Nat) : (s.modCls c f).core x = s.core x := rfl
@[simp] theorem State.modCls_cluster (s : State) (c : BitVec 12) (f : ClassDesc → ClassDesc) (x : Nat) : (s.modCls c f).cluster x = s.cluster x := rfl
@[simp] theorem State.modCls_ep (s : State) (c : BitVec 12) (f : ClassDesc → ClassDesc) (x : Nat) : (s.modCls c f).ep x = s.ep x := rfl
@[simp] theorem State.modCls_job (s : State) (c : BitVec 12) (f : ClassDesc → ClassDesc) (x : Nat) : (s.modCls c f).job x = s.job x := rfl
@[simp] theorem State.modCls_group (s : State) (c : BitVec 12) (f : ClassDesc → ClassDesc) (x : Nat) : (s.modCls c f).group x = s.group x := rfl
@[simp] theorem State.modCls_queue (s : State) (c : BitVec 12) (f : ClassDesc → ClassDesc) (x : Nat) : (s.modCls c f).queue x = s.queue x := rfl
@[simp] theorem State.modCls_byte (s : State) (c : BitVec 12) (f : ClassDesc → ClassDesc) (x : Nat) : (s.modCls c f).byte x = s.byte x := rfl
@[simp] theorem State.modCls_c (s : State) (c : BitVec 12) (f : ClassDesc → ClassDesc) : (s.modCls c f).c = s.c := rfl
@[simp] theorem State.modGroup_core (s : State) (n : Nat) (f : Group → Group) (x : Nat) : (s.modGroup n f).core x = s.core x := rfl
@[simp] theorem State.modGroup_ep (s : State) (n : Nat) (f : Group → Group) (x : Nat) : (s.modGroup n f).ep x = s.ep x := rfl
@[simp] theorem State.modGroup_job (s : State) (n : Nat) (f : Group → Group) (x : Nat) : (s.modGroup n f).job x = s.job x := rfl
@[simp] theorem State.modGroup_cls (s : State) (n : Nat) (f : Group → Group) (x : BitVec 12) : (s.modGroup n f).cls x = s.cls x := rfl
@[simp] theorem State.modGroup_queue (s : State) (n : Nat) (f : Group → Group) (x : Nat) : (s.modGroup n f).queue x = s.queue x := rfl
@[simp] theorem State.modGroup_byte (s : State) (n : Nat) (f : Group → Group) (x : Nat) : (s.modGroup n f).byte x = s.byte x := rfl
@[simp] theorem State.modGroup_c (s : State) (n : Nat) (f : Group → Group) : (s.modGroup n f).c = s.c := rfl
@[simp] theorem State.modQueue_core (s : State) (q : Nat) (f : Queue → Queue) (x : Nat) : (s.modQueue q f).core x = s.core x := rfl
@[simp] theorem State.modQueue_cluster (s : State) (q : Nat) (f : Queue → Queue) (x : Nat) : (s.modQueue q f).cluster x = s.cluster x := rfl
@[simp] theorem State.modQueue_ep (s : State) (q : Nat) (f : Queue → Queue) (x : Nat) : (s.modQueue q f).ep x = s.ep x := rfl
@[simp] theorem State.modQueue_job (s : State) (q : Nat) (f : Queue → Queue) (x : Nat) : (s.modQueue q f).job x = s.job x := rfl
@[simp] theorem State.modQueue_cls (s : State) (q : Nat) (f : Queue → Queue) (x : BitVec 12) : (s.modQueue q f).cls x = s.cls x := rfl
@[simp] theorem State.modQueue_group (s : State) (q : Nat) (f : Queue → Queue) (x : Nat) : (s.modQueue q f).group x = s.group x := rfl
@[simp] theorem State.modQueue_byte (s : State) (q : Nat) (f : Queue → Queue) (x : Nat) : (s.modQueue q f).byte x = s.byte x := rfl
@[simp] theorem State.modQueue_c (s : State) (q : Nat) (f : Queue → Queue) : (s.modQueue q f).c = s.c := rfl
@[simp] theorem State.store_core (s : State) (p n v : Nat) (x : Nat) : (s.store p n v).core x = s.core x := rfl
@[simp] theorem State.store_cluster (s : State) (p n v : Nat) (x : Nat) : (s.store p n v).cluster x = s.cluster x := rfl
@[simp] theorem State.store_ep (s : State) (p n v : Nat) (x : Nat) : (s.store p n v).ep x = s.ep x := rfl
@[simp] theorem State.store_job (s : State) (p n v : Nat) (x : Nat) : (s.store p n v).job x = s.job x := rfl
@[simp] theorem State.store_cls (s : State) (p n v : Nat) (x : BitVec 12) : (s.store p n v).cls x = s.cls x := rfl
@[simp] theorem State.store_group (s : State) (p n v : Nat) (x : Nat) : (s.store p n v).group x = s.group x := rfl
@[simp] theorem State.store_queue (s : State) (p n v : Nat) (x : Nat) : (s.store p n v).queue x = s.queue x := rfl
@[simp] theorem State.store_c (s : State) (p n v : Nat) : (s.store p n v).c = s.c := rfl
@[simp] theorem State.storeList_core (s : State) (p : Nat) (bs : List Byte) (x : Nat) : (s.storeList p bs).core x = s.core x := rfl
@[simp] theorem State.storeList_cluster (s : State) (p : Nat) (bs : List Byte) (x : Nat) : (s.storeList p bs).cluster x = s.cluster x := rfl
@[simp] theorem State.storeList_ep (s : State) (p : Nat) (bs : List Byte) (x : Nat) : (s.storeList p bs).ep x = s.ep x := rfl
@[simp] theorem State.storeList_job (s : State) (p : Nat) (bs : List Byte) (x : Nat) : (s.storeList p bs).job x = s.job x := rfl
@[simp] theorem State.storeList_cls (s : State) (p : Nat) (bs : List Byte) (x : BitVec 12) : (s.storeList p bs).cls x = s.cls x := rfl
@[simp] theorem State.storeList_group (s : State) (p : Nat) (bs : List Byte) (x : Nat) : (s.storeList p bs).group x = s.group x := rfl
@[simp] theorem State.storeList_queue (s : State) (p : Nat) (bs : List Byte) (x : Nat) : (s.storeList p bs).queue x = s.queue x := rfl
@[simp] theorem State.storeList_c (s : State) (p : Nat) (bs : List Byte) : (s.storeList p bs).c = s.c := rfl
@[simp] theorem State.writeLine_core (s : State) (p : Nat) (mask : BitVec 128) (d : BitVec 1024) (x : Nat) : (s.writeLine p mask d).core x = s.core x := rfl
@[simp] theorem State.writeLine_cluster (s : State) (p : Nat) (mask : BitVec 128) (d : BitVec 1024) (x : Nat) : (s.writeLine p mask d).cluster x = s.cluster x := rfl
@[simp] theorem State.writeLine_ep (s : State) (p : Nat) (mask : BitVec 128) (d : BitVec 1024) (x : Nat) : (s.writeLine p mask d).ep x = s.ep x := rfl
@[simp] theorem State.writeLine_job (s : State) (p : Nat) (mask : BitVec 128) (d : BitVec 1024) (x : Nat) : (s.writeLine p mask d).job x = s.job x := rfl
@[simp] theorem State.writeLine_cls (s : State) (p : Nat) (mask : BitVec 128) (d : BitVec 1024) (x : BitVec 12) : (s.writeLine p mask d).cls x = s.cls x := rfl
@[simp] theorem State.writeLine_group (s : State) (p : Nat) (mask : BitVec 128) (d : BitVec 1024) (x : Nat) : (s.writeLine p mask d).group x = s.group x := rfl
@[simp] theorem State.writeLine_queue (s : State) (p : Nat) (mask : BitVec 128) (d : BitVec 1024) (x : Nat) : (s.writeLine p mask d).queue x = s.queue x := rfl
@[simp] theorem State.writeLine_c (s : State) (p : Nat) (mask : BitVec 128) (d : BitVec 1024) : (s.writeLine p mask d).c = s.c := rfl

/-! Fields of a core after an update. -/

@[simp] theorem Core.putKey_act (c : Core) (key : Nat) (r : Reg) : (c.putKey key r).act = c.act := by unfold Core.putKey; split <;> rfl
@[simp] theorem Core.putKey_pc (c : Core) (key : Nat) (r : Reg) : (c.putKey key r).pc = c.pc := by unfold Core.putKey; split <;> rfl
@[simp] theorem Core.putKey_ir (c : Core) (key : Nat) (r : Reg) : (c.putKey key r).ir = c.ir := by unfold Core.putKey; split <;> rfl
@[simp] theorem Core.putKey_vs (c : Core) (key : Nat) (r : Reg) : (c.putKey key r).vs = c.vs := by unfold Core.putKey; split <;> rfl
@[simp] theorem Core.putKey_ms (c : Core) (key : Nat) (r : Reg) : (c.putKey key r).ms = c.ms := by unfold Core.putKey; split <;> rfl
@[simp] theorem Core.putKey_ctx (c : Core) (key : Nat) (r : Reg) : (c.putKey key r).ctx = c.ctx := by unfold Core.putKey; split <;> rfl
@[simp] theorem Core.putKey_carve (c : Core) (key : Nat) (r : Reg) : (c.putKey key r).carve = c.carve := by unfold Core.putKey; split <;> rfl
@[simp] theorem Core.putKey_accepted (c : Core) (key : Nat) (r : Reg) : (c.putKey key r).accepted = c.accepted := by unfold Core.putKey; split <;> rfl
@[simp] theorem Core.putKey_eng (c : Core) (key : Nat) (r : Reg) : (c.putKey key r).eng = c.eng := by unfold Core.putKey; split <;> rfl
@[simp] theorem Core.putKey_empty (c : Core) (key : Nat) (r : Reg) : (c.putKey key r).empty = c.empty := by unfold Core.putKey; split <;> rfl
@[simp] theorem Core.putKey_l1 (c : Core) (key : Nat) (r : Reg) : (c.putKey key r).l1 = c.l1 := by unfold Core.putKey; split <;> rfl
@[simp] theorem Core.putKey_out (c : Core) (key : Nat) (r : Reg) : (c.putKey key r).out = c.out := by unfold Core.putKey; split <;> rfl
@[simp] theorem Core.putKey_undo (c : Core) (key : Nat) (r : Reg) : (c.putKey key r).undo = c.undo := by unfold Core.putKey; split <;> rfl
@[simp] theorem Core.putKey_blocked (c : Core) (key : Nat) (r : Reg) : (c.putKey key r).blocked = c.blocked := by unfold Core.putKey; split <;> rfl
@[simp] theorem Core.putKey_posted (c : Core) (key : Nat) (r : Reg) : (c.putKey key r).posted = c.posted := by unfold Core.putKey; split <;> rfl
@[simp] theorem Core.putKey_drain (c : Core) (key : Nat) (r : Reg) : (c.putKey key r).drain = c.drain := by unfold Core.putKey; split <;> rfl
@[simp] theorem Core.putKey_timers (c : Core) (key : Nat) (r : Reg) : (c.putKey key r).timers = c.timers := by unfold Core.putKey; split <;> rfl
@[simp] theorem Core.putKey_tlbi (c : Core) (key : Nat) (r : Reg) : (c.putKey key r).tlbi = c.tlbi := by unfold Core.putKey; split <;> rfl
@[simp] theorem Core.putKey_enterWait (c : Core) (key : Nat) (r : Reg) : (c.putKey key r).enterWait = c.enterWait := by unfold Core.putKey; split <;> rfl
@[simp] theorem Core.putKey_copies (c : Core) (key : Nat) (r : Reg) : (c.putKey key r).copies = c.copies := by unfold Core.putKey; split <;> rfl
@[simp] theorem Core.putKey_copySeq (c : Core) (key : Nat) (r : Reg) : (c.putKey key r).copySeq = c.copySeq := by unfold Core.putKey; split <;> rfl
@[simp] theorem Core.putKey_tagBusy (c : Core) (key : Nat) (r : Reg) : (c.putKey key r).tagBusy = c.tagBusy := by unfold Core.putKey; split <;> rfl
@[simp] theorem Core.putKey_tagStat (c : Core) (key : Nat) (r : Reg) : (c.putKey key r).tagStat = c.tagStat := by unfold Core.putKey; split <;> rfl
@[simp] theorem Core.putKey_cmdq (c : Core) (key : Nat) (r : Reg) : (c.putKey key r).cmdq = c.cmdq := by unfold Core.putKey; split <;> rfl
@[simp] theorem Core.putKey_accs (c : Core) (key : Nat) (r : Reg) : (c.putKey key r).accs = c.accs := by unfold Core.putKey; split <;> rfl
@[simp] theorem Core.putKey_latch (c : Core) (key : Nat) (r : Reg) : (c.putKey key r).latch = c.latch := by unfold Core.putKey; split <;> rfl
@[simp] theorem Core.putKey_mq (c : Core) (key : Nat) (r : Reg) : (c.putKey key r).mq = c.mq := by unfold Core.putKey; split <;> rfl
@[simp] theorem Core.putKey_events (c : Core) (key : Nat) (r : Reg) : (c.putKey key r).events = c.events := by unfold Core.putKey; split <;> rfl
@[simp] theorem Core.putKey_vq (c : Core) (key : Nat) (r : Reg) : (c.putKey key r).vq = c.vq := by unfold Core.putKey; split <;> rfl
@[simp] theorem Core.putKey_storing (c : Core) (key : Nat) (r : Reg) : (c.putKey key r).storing = c.storing := by unfold Core.putKey; split <;> rfl
@[simp] theorem Core.putKey_inbox (c : Core) (key : Nat) (r : Reg) : (c.putKey key r).inbox = c.inbox := by unfold Core.putKey; split <;> rfl
@[simp] theorem Core.putKey_deque (c : Core) (key : Nat) (r : Reg) : (c.putKey key r).deque = c.deque := by unfold Core.putKey; split <;> rfl
@[simp] theorem Core.putKey_pushes (c : Core) (key : Nat) (r : Reg) : (c.putKey key r).pushes = c.pushes := by unfold Core.putKey; split <;> rfl
@[simp] theorem Core.putKey_fetch (c : Core) (key : Nat) (r : Reg) : (c.putKey key r).fetch = c.fetch := by unfold Core.putKey; split <;> rfl
@[simp] theorem Core.putKey_held (c : Core) (key : Nat) (r : Reg) : (c.putKey key r).held = c.held := by unfold Core.putKey; split <;> rfl
@[simp] theorem Core.putKey_resumeAt (c : Core) (key : Nat) (r : Reg) : (c.putKey key r).resumeAt = c.resumeAt := by unfold Core.putKey; split <;> rfl
@[simp] theorem Core.putKey_stepping (c : Core) (key : Nat) (r : Reg) : (c.putKey key r).stepping = c.stepping := by unfold Core.putKey; split <;> rfl
@[simp] theorem Core.putKey_replay (c : Core) (key : Nat) (r : Reg) : (c.putKey key r).replay = c.replay := by unfold Core.putKey; split <;> rfl
@[simp] theorem Core.putKey_preq (c : Core) (key : Nat) (r : Reg) : (c.putKey key r).preq = c.preq := by unfold Core.putKey; split <;> rfl
@[simp] theorem Core.putKey_preempting (c : Core) (key : Nat) (r : Reg) : (c.putKey key r).preempting = c.preempting := by unfold Core.putKey; split <;> rfl
@[simp] theorem Core.putKey_gap (c : Core) (key : Nat) (r : Reg) : (c.putKey key r).gap = c.gap := by unfold Core.putKey; split <;> rfl
@[simp] theorem Core.putKey_heldSince (c : Core) (key : Nat) (r : Reg) : (c.putKey key r).heldSince = c.heldSince := by unfold Core.putKey; split <;> rfl
@[simp] theorem Core.putKey_saved (c : Core) (key : Nat) (r : Reg) : (c.putKey key r).saved = c.saved := by unfold Core.putKey; split <;> rfl
@[simp] theorem Core.putKey_saving (c : Core) (key : Nat) (r : Reg) : (c.putKey key r).saving = c.saving := by unfold Core.putKey; split <;> rfl
@[simp] theorem Core.putKey_finish (c : Core) (key : Nat) (r : Reg) : (c.putKey key r).finish = c.finish := by unfold Core.putKey; split <;> rfl
@[simp] theorem Core.putKey_latacc (c : Core) (key : Nat) (r : Reg) : (c.putKey key r).latacc = c.latacc := by unfold Core.putKey; split <;> rfl
@[simp] theorem Core.putKey_accEcc (c : Core) (key : Nat) (r : Reg) : (c.putKey key r).accEcc = c.accEcc := by unfold Core.putKey; split <;> rfl
@[simp] theorem Core.putKey_regEcc (c : Core) (key : Nat) (r : Reg) : (c.putKey key r).regEcc = c.regEcc := by unfold Core.putKey; split <;> rfl
@[simp] theorem Core.putKey_trapWait (c : Core) (key : Nat) (r : Reg) : (c.putKey key r).trapWait = c.trapWait := by unfold Core.putKey; split <;> rfl
@[simp] theorem Core.putKey_ckAt (c : Core) (key : Nat) (r : Reg) : (c.putKey key r).ckAt = c.ckAt := by unfold Core.putKey; split <;> rfl
@[simp] theorem Core.putKey_ckPeriod (c : Core) (key : Nat) (r : Reg) : (c.putKey key r).ckPeriod = c.ckPeriod := by unfold Core.putKey; split <;> rfl
@[simp] theorem Core.putKey_logged (c : Core) (key : Nat) (r : Reg) : (c.putKey key r).logged = c.logged := by unfold Core.putKey; split <;> rfl
@[simp] theorem Core.putKey_capBuf (c : Core) (key : Nat) (r : Reg) : (c.putKey key r).capBuf = c.capBuf := by unfold Core.putKey; split <;> rfl
@[simp] theorem Core.putKey_entering (c : Core) (key : Nat) (r : Reg) : (c.putKey key r).entering = c.entering := by unfold Core.putKey; split <;> rfl
@[simp] theorem Core.putKey_count (c : Core) (key : Nat) (r : Reg) : (c.putKey key r).count = c.count := by unfold Core.putKey; split <;> rfl
@[simp] theorem Core.setX_act (c : Core) (n : BitVec 5) (v : XWord) : (c.setX n v).act = c.act := Core.putKey_act ..
@[simp] theorem Core.setX_pc (c : Core) (n : BitVec 5) (v : XWord) : (c.setX n v).pc = c.pc := Core.putKey_pc ..
@[simp] theorem Core.setX_ir (c : Core) (n : BitVec 5) (v : XWord) : (c.setX n v).ir = c.ir := Core.putKey_ir ..
@[simp] theorem Core.setX_vs (c : Core) (n : BitVec 5) (v : XWord) : (c.setX n v).vs = c.vs := Core.putKey_vs ..
@[simp] theorem Core.setX_ms (c : Core) (n : BitVec 5) (v : XWord) : (c.setX n v).ms = c.ms := Core.putKey_ms ..
@[simp] theorem Core.setX_ctx (c : Core) (n : BitVec 5) (v : XWord) : (c.setX n v).ctx = c.ctx := Core.putKey_ctx ..
@[simp] theorem Core.setX_carve (c : Core) (n : BitVec 5) (v : XWord) : (c.setX n v).carve = c.carve := Core.putKey_carve ..
@[simp] theorem Core.setX_accepted (c : Core) (n : BitVec 5) (v : XWord) : (c.setX n v).accepted = c.accepted := Core.putKey_accepted ..
@[simp] theorem Core.setX_eng (c : Core) (n : BitVec 5) (v : XWord) : (c.setX n v).eng = c.eng := Core.putKey_eng ..
@[simp] theorem Core.setX_empty (c : Core) (n : BitVec 5) (v : XWord) : (c.setX n v).empty = c.empty := Core.putKey_empty ..
@[simp] theorem Core.setX_l1 (c : Core) (n : BitVec 5) (v : XWord) : (c.setX n v).l1 = c.l1 := Core.putKey_l1 ..
@[simp] theorem Core.setX_out (c : Core) (n : BitVec 5) (v : XWord) : (c.setX n v).out = c.out := Core.putKey_out ..
@[simp] theorem Core.setX_undo (c : Core) (n : BitVec 5) (v : XWord) : (c.setX n v).undo = c.undo := Core.putKey_undo ..
@[simp] theorem Core.setX_blocked (c : Core) (n : BitVec 5) (v : XWord) : (c.setX n v).blocked = c.blocked := Core.putKey_blocked ..
@[simp] theorem Core.setX_posted (c : Core) (n : BitVec 5) (v : XWord) : (c.setX n v).posted = c.posted := Core.putKey_posted ..
@[simp] theorem Core.setX_drain (c : Core) (n : BitVec 5) (v : XWord) : (c.setX n v).drain = c.drain := Core.putKey_drain ..
@[simp] theorem Core.setX_timers (c : Core) (n : BitVec 5) (v : XWord) : (c.setX n v).timers = c.timers := Core.putKey_timers ..
@[simp] theorem Core.setX_tlbi (c : Core) (n : BitVec 5) (v : XWord) : (c.setX n v).tlbi = c.tlbi := Core.putKey_tlbi ..
@[simp] theorem Core.setX_enterWait (c : Core) (n : BitVec 5) (v : XWord) : (c.setX n v).enterWait = c.enterWait := Core.putKey_enterWait ..
@[simp] theorem Core.setX_copies (c : Core) (n : BitVec 5) (v : XWord) : (c.setX n v).copies = c.copies := Core.putKey_copies ..
@[simp] theorem Core.setX_copySeq (c : Core) (n : BitVec 5) (v : XWord) : (c.setX n v).copySeq = c.copySeq := Core.putKey_copySeq ..
@[simp] theorem Core.setX_tagBusy (c : Core) (n : BitVec 5) (v : XWord) : (c.setX n v).tagBusy = c.tagBusy := Core.putKey_tagBusy ..
@[simp] theorem Core.setX_tagStat (c : Core) (n : BitVec 5) (v : XWord) : (c.setX n v).tagStat = c.tagStat := Core.putKey_tagStat ..
@[simp] theorem Core.setX_cmdq (c : Core) (n : BitVec 5) (v : XWord) : (c.setX n v).cmdq = c.cmdq := Core.putKey_cmdq ..
@[simp] theorem Core.setX_accs (c : Core) (n : BitVec 5) (v : XWord) : (c.setX n v).accs = c.accs := Core.putKey_accs ..
@[simp] theorem Core.setX_latch (c : Core) (n : BitVec 5) (v : XWord) : (c.setX n v).latch = c.latch := Core.putKey_latch ..
@[simp] theorem Core.setX_mq (c : Core) (n : BitVec 5) (v : XWord) : (c.setX n v).mq = c.mq := Core.putKey_mq ..
@[simp] theorem Core.setX_events (c : Core) (n : BitVec 5) (v : XWord) : (c.setX n v).events = c.events := Core.putKey_events ..
@[simp] theorem Core.setX_vq (c : Core) (n : BitVec 5) (v : XWord) : (c.setX n v).vq = c.vq := Core.putKey_vq ..
@[simp] theorem Core.setX_storing (c : Core) (n : BitVec 5) (v : XWord) : (c.setX n v).storing = c.storing := Core.putKey_storing ..
@[simp] theorem Core.setX_inbox (c : Core) (n : BitVec 5) (v : XWord) : (c.setX n v).inbox = c.inbox := Core.putKey_inbox ..
@[simp] theorem Core.setX_deque (c : Core) (n : BitVec 5) (v : XWord) : (c.setX n v).deque = c.deque := Core.putKey_deque ..
@[simp] theorem Core.setX_pushes (c : Core) (n : BitVec 5) (v : XWord) : (c.setX n v).pushes = c.pushes := Core.putKey_pushes ..
@[simp] theorem Core.setX_fetch (c : Core) (n : BitVec 5) (v : XWord) : (c.setX n v).fetch = c.fetch := Core.putKey_fetch ..
@[simp] theorem Core.setX_held (c : Core) (n : BitVec 5) (v : XWord) : (c.setX n v).held = c.held := Core.putKey_held ..
@[simp] theorem Core.setX_resumeAt (c : Core) (n : BitVec 5) (v : XWord) : (c.setX n v).resumeAt = c.resumeAt := Core.putKey_resumeAt ..
@[simp] theorem Core.setX_stepping (c : Core) (n : BitVec 5) (v : XWord) : (c.setX n v).stepping = c.stepping := Core.putKey_stepping ..
@[simp] theorem Core.setX_replay (c : Core) (n : BitVec 5) (v : XWord) : (c.setX n v).replay = c.replay := Core.putKey_replay ..
@[simp] theorem Core.setX_preq (c : Core) (n : BitVec 5) (v : XWord) : (c.setX n v).preq = c.preq := Core.putKey_preq ..
@[simp] theorem Core.setX_preempting (c : Core) (n : BitVec 5) (v : XWord) : (c.setX n v).preempting = c.preempting := Core.putKey_preempting ..
@[simp] theorem Core.setX_gap (c : Core) (n : BitVec 5) (v : XWord) : (c.setX n v).gap = c.gap := Core.putKey_gap ..
@[simp] theorem Core.setX_heldSince (c : Core) (n : BitVec 5) (v : XWord) : (c.setX n v).heldSince = c.heldSince := Core.putKey_heldSince ..
@[simp] theorem Core.setX_saved (c : Core) (n : BitVec 5) (v : XWord) : (c.setX n v).saved = c.saved := Core.putKey_saved ..
@[simp] theorem Core.setX_saving (c : Core) (n : BitVec 5) (v : XWord) : (c.setX n v).saving = c.saving := Core.putKey_saving ..
@[simp] theorem Core.setX_finish (c : Core) (n : BitVec 5) (v : XWord) : (c.setX n v).finish = c.finish := Core.putKey_finish ..
@[simp] theorem Core.setX_latacc (c : Core) (n : BitVec 5) (v : XWord) : (c.setX n v).latacc = c.latacc := Core.putKey_latacc ..
@[simp] theorem Core.setX_accEcc (c : Core) (n : BitVec 5) (v : XWord) : (c.setX n v).accEcc = c.accEcc := Core.putKey_accEcc ..
@[simp] theorem Core.setX_regEcc (c : Core) (n : BitVec 5) (v : XWord) : (c.setX n v).regEcc = c.regEcc := Core.putKey_regEcc ..
@[simp] theorem Core.setX_trapWait (c : Core) (n : BitVec 5) (v : XWord) : (c.setX n v).trapWait = c.trapWait := Core.putKey_trapWait ..
@[simp] theorem Core.setX_ckAt (c : Core) (n : BitVec 5) (v : XWord) : (c.setX n v).ckAt = c.ckAt := Core.putKey_ckAt ..
@[simp] theorem Core.setX_ckPeriod (c : Core) (n : BitVec 5) (v : XWord) : (c.setX n v).ckPeriod = c.ckPeriod := Core.putKey_ckPeriod ..
@[simp] theorem Core.setX_logged (c : Core) (n : BitVec 5) (v : XWord) : (c.setX n v).logged = c.logged := Core.putKey_logged ..
@[simp] theorem Core.setX_capBuf (c : Core) (n : BitVec 5) (v : XWord) : (c.setX n v).capBuf = c.capBuf := Core.putKey_capBuf ..
@[simp] theorem Core.setX_entering (c : Core) (n : BitVec 5) (v : XWord) : (c.setX n v).entering = c.entering := Core.putKey_entering ..
@[simp] theorem Core.setX_count (c : Core) (n : BitVec 5) (v : XWord) : (c.setX n v).count = c.count := Core.putKey_count ..
@[simp] theorem Core.setEmptyKey_act (c : Core) (key : Nat) : (c.setEmptyKey key).act = c.act := Core.putKey_act ..
@[simp] theorem Core.setEmptyKey_pc (c : Core) (key : Nat) : (c.setEmptyKey key).pc = c.pc := Core.putKey_pc ..
@[simp] theorem Core.setEmptyKey_ir (c : Core) (key : Nat) : (c.setEmptyKey key).ir = c.ir := Core.putKey_ir ..
@[simp] theorem Core.setEmptyKey_vs (c : Core) (key : Nat) : (c.setEmptyKey key).vs = c.vs := Core.putKey_vs ..
@[simp] theorem Core.setEmptyKey_ms (c : Core) (key : Nat) : (c.setEmptyKey key).ms = c.ms := Core.putKey_ms ..
@[simp] theorem Core.setEmptyKey_ctx (c : Core) (key : Nat) : (c.setEmptyKey key).ctx = c.ctx := Core.putKey_ctx ..
@[simp] theorem Core.setEmptyKey_carve (c : Core) (key : Nat) : (c.setEmptyKey key).carve = c.carve := Core.putKey_carve ..
@[simp] theorem Core.setEmptyKey_accepted (c : Core) (key : Nat) : (c.setEmptyKey key).accepted = c.accepted := Core.putKey_accepted ..
@[simp] theorem Core.setEmptyKey_eng (c : Core) (key : Nat) : (c.setEmptyKey key).eng = c.eng := Core.putKey_eng ..
@[simp] theorem Core.setEmptyKey_empty (c : Core) (key : Nat) : (c.setEmptyKey key).empty = c.empty := Core.putKey_empty ..
@[simp] theorem Core.setEmptyKey_l1 (c : Core) (key : Nat) : (c.setEmptyKey key).l1 = c.l1 := Core.putKey_l1 ..
@[simp] theorem Core.setEmptyKey_out (c : Core) (key : Nat) : (c.setEmptyKey key).out = c.out := Core.putKey_out ..
@[simp] theorem Core.setEmptyKey_undo (c : Core) (key : Nat) : (c.setEmptyKey key).undo = c.undo := Core.putKey_undo ..
@[simp] theorem Core.setEmptyKey_blocked (c : Core) (key : Nat) : (c.setEmptyKey key).blocked = c.blocked := Core.putKey_blocked ..
@[simp] theorem Core.setEmptyKey_posted (c : Core) (key : Nat) : (c.setEmptyKey key).posted = c.posted := Core.putKey_posted ..
@[simp] theorem Core.setEmptyKey_drain (c : Core) (key : Nat) : (c.setEmptyKey key).drain = c.drain := Core.putKey_drain ..
@[simp] theorem Core.setEmptyKey_timers (c : Core) (key : Nat) : (c.setEmptyKey key).timers = c.timers := Core.putKey_timers ..
@[simp] theorem Core.setEmptyKey_tlbi (c : Core) (key : Nat) : (c.setEmptyKey key).tlbi = c.tlbi := Core.putKey_tlbi ..
@[simp] theorem Core.setEmptyKey_enterWait (c : Core) (key : Nat) : (c.setEmptyKey key).enterWait = c.enterWait := Core.putKey_enterWait ..
@[simp] theorem Core.setEmptyKey_copies (c : Core) (key : Nat) : (c.setEmptyKey key).copies = c.copies := Core.putKey_copies ..
@[simp] theorem Core.setEmptyKey_copySeq (c : Core) (key : Nat) : (c.setEmptyKey key).copySeq = c.copySeq := Core.putKey_copySeq ..
@[simp] theorem Core.setEmptyKey_tagBusy (c : Core) (key : Nat) : (c.setEmptyKey key).tagBusy = c.tagBusy := Core.putKey_tagBusy ..
@[simp] theorem Core.setEmptyKey_tagStat (c : Core) (key : Nat) : (c.setEmptyKey key).tagStat = c.tagStat := Core.putKey_tagStat ..
@[simp] theorem Core.setEmptyKey_cmdq (c : Core) (key : Nat) : (c.setEmptyKey key).cmdq = c.cmdq := Core.putKey_cmdq ..
@[simp] theorem Core.setEmptyKey_accs (c : Core) (key : Nat) : (c.setEmptyKey key).accs = c.accs := Core.putKey_accs ..
@[simp] theorem Core.setEmptyKey_latch (c : Core) (key : Nat) : (c.setEmptyKey key).latch = c.latch := Core.putKey_latch ..
@[simp] theorem Core.setEmptyKey_mq (c : Core) (key : Nat) : (c.setEmptyKey key).mq = c.mq := Core.putKey_mq ..
@[simp] theorem Core.setEmptyKey_events (c : Core) (key : Nat) : (c.setEmptyKey key).events = c.events := Core.putKey_events ..
@[simp] theorem Core.setEmptyKey_vq (c : Core) (key : Nat) : (c.setEmptyKey key).vq = c.vq := Core.putKey_vq ..
@[simp] theorem Core.setEmptyKey_storing (c : Core) (key : Nat) : (c.setEmptyKey key).storing = c.storing := Core.putKey_storing ..
@[simp] theorem Core.setEmptyKey_inbox (c : Core) (key : Nat) : (c.setEmptyKey key).inbox = c.inbox := Core.putKey_inbox ..
@[simp] theorem Core.setEmptyKey_deque (c : Core) (key : Nat) : (c.setEmptyKey key).deque = c.deque := Core.putKey_deque ..
@[simp] theorem Core.setEmptyKey_pushes (c : Core) (key : Nat) : (c.setEmptyKey key).pushes = c.pushes := Core.putKey_pushes ..
@[simp] theorem Core.setEmptyKey_fetch (c : Core) (key : Nat) : (c.setEmptyKey key).fetch = c.fetch := Core.putKey_fetch ..
@[simp] theorem Core.setEmptyKey_held (c : Core) (key : Nat) : (c.setEmptyKey key).held = c.held := Core.putKey_held ..
@[simp] theorem Core.setEmptyKey_resumeAt (c : Core) (key : Nat) : (c.setEmptyKey key).resumeAt = c.resumeAt := Core.putKey_resumeAt ..
@[simp] theorem Core.setEmptyKey_stepping (c : Core) (key : Nat) : (c.setEmptyKey key).stepping = c.stepping := Core.putKey_stepping ..
@[simp] theorem Core.setEmptyKey_replay (c : Core) (key : Nat) : (c.setEmptyKey key).replay = c.replay := Core.putKey_replay ..
@[simp] theorem Core.setEmptyKey_preq (c : Core) (key : Nat) : (c.setEmptyKey key).preq = c.preq := Core.putKey_preq ..
@[simp] theorem Core.setEmptyKey_preempting (c : Core) (key : Nat) : (c.setEmptyKey key).preempting = c.preempting := Core.putKey_preempting ..
@[simp] theorem Core.setEmptyKey_gap (c : Core) (key : Nat) : (c.setEmptyKey key).gap = c.gap := Core.putKey_gap ..
@[simp] theorem Core.setEmptyKey_heldSince (c : Core) (key : Nat) : (c.setEmptyKey key).heldSince = c.heldSince := Core.putKey_heldSince ..
@[simp] theorem Core.setEmptyKey_saved (c : Core) (key : Nat) : (c.setEmptyKey key).saved = c.saved := Core.putKey_saved ..
@[simp] theorem Core.setEmptyKey_saving (c : Core) (key : Nat) : (c.setEmptyKey key).saving = c.saving := Core.putKey_saving ..
@[simp] theorem Core.setEmptyKey_finish (c : Core) (key : Nat) : (c.setEmptyKey key).finish = c.finish := Core.putKey_finish ..
@[simp] theorem Core.setEmptyKey_latacc (c : Core) (key : Nat) : (c.setEmptyKey key).latacc = c.latacc := Core.putKey_latacc ..
@[simp] theorem Core.setEmptyKey_accEcc (c : Core) (key : Nat) : (c.setEmptyKey key).accEcc = c.accEcc := Core.putKey_accEcc ..
@[simp] theorem Core.setEmptyKey_regEcc (c : Core) (key : Nat) : (c.setEmptyKey key).regEcc = c.regEcc := Core.putKey_regEcc ..
@[simp] theorem Core.setEmptyKey_trapWait (c : Core) (key : Nat) : (c.setEmptyKey key).trapWait = c.trapWait := Core.putKey_trapWait ..
@[simp] theorem Core.setEmptyKey_ckAt (c : Core) (key : Nat) : (c.setEmptyKey key).ckAt = c.ckAt := Core.putKey_ckAt ..
@[simp] theorem Core.setEmptyKey_ckPeriod (c : Core) (key : Nat) : (c.setEmptyKey key).ckPeriod = c.ckPeriod := Core.putKey_ckPeriod ..
@[simp] theorem Core.setEmptyKey_logged (c : Core) (key : Nat) : (c.setEmptyKey key).logged = c.logged := Core.putKey_logged ..
@[simp] theorem Core.setEmptyKey_capBuf (c : Core) (key : Nat) : (c.setEmptyKey key).capBuf = c.capBuf := Core.putKey_capBuf ..
@[simp] theorem Core.setEmptyKey_entering (c : Core) (key : Nat) : (c.setEmptyKey key).entering = c.entering := Core.putKey_entering ..
@[simp] theorem Core.setEmptyKey_count (c : Core) (key : Nat) : (c.setEmptyKey key).count = c.count := Core.putKey_count ..
@[simp] theorem Core.putV_act (c : Core) (n : Nat) (r : VReg) : (c.putV n r).act = c.act := rfl
@[simp] theorem Core.putV_pc (c : Core) (n : Nat) (r : VReg) : (c.putV n r).pc = c.pc := rfl
@[simp] theorem Core.putV_ir (c : Core) (n : Nat) (r : VReg) : (c.putV n r).ir = c.ir := rfl
@[simp] theorem Core.putV_xs (c : Core) (n : Nat) (r : VReg) : (c.putV n r).xs = c.xs := rfl
@[simp] theorem Core.putV_ms (c : Core) (n : Nat) (r : VReg) : (c.putV n r).ms = c.ms := rfl
@[simp] theorem Core.putV_ctx (c : Core) (n : Nat) (r : VReg) : (c.putV n r).ctx = c.ctx := rfl
@[simp] theorem Core.putV_carve (c : Core) (n : Nat) (r : VReg) : (c.putV n r).carve = c.carve := rfl
@[simp] theorem Core.putV_accepted (c : Core) (n : Nat) (r : VReg) : (c.putV n r).accepted = c.accepted := rfl
@[simp] theorem Core.putV_eng (c : Core) (n : Nat) (r : VReg) : (c.putV n r).eng = c.eng := rfl
@[simp] theorem Core.putV_empty (c : Core) (n : Nat) (r : VReg) : (c.putV n r).empty = c.empty := rfl
@[simp] theorem Core.putV_l1 (c : Core) (n : Nat) (r : VReg) : (c.putV n r).l1 = c.l1 := rfl
@[simp] theorem Core.putV_out (c : Core) (n : Nat) (r : VReg) : (c.putV n r).out = c.out := rfl
@[simp] theorem Core.putV_undo (c : Core) (n : Nat) (r : VReg) : (c.putV n r).undo = c.undo := rfl
@[simp] theorem Core.putV_blocked (c : Core) (n : Nat) (r : VReg) : (c.putV n r).blocked = c.blocked := rfl
@[simp] theorem Core.putV_posted (c : Core) (n : Nat) (r : VReg) : (c.putV n r).posted = c.posted := rfl
@[simp] theorem Core.putV_drain (c : Core) (n : Nat) (r : VReg) : (c.putV n r).drain = c.drain := rfl
@[simp] theorem Core.putV_timers (c : Core) (n : Nat) (r : VReg) : (c.putV n r).timers = c.timers := rfl
@[simp] theorem Core.putV_tlbi (c : Core) (n : Nat) (r : VReg) : (c.putV n r).tlbi = c.tlbi := rfl
@[simp] theorem Core.putV_enterWait (c : Core) (n : Nat) (r : VReg) : (c.putV n r).enterWait = c.enterWait := rfl
@[simp] theorem Core.putV_copies (c : Core) (n : Nat) (r : VReg) : (c.putV n r).copies = c.copies := rfl
@[simp] theorem Core.putV_copySeq (c : Core) (n : Nat) (r : VReg) : (c.putV n r).copySeq = c.copySeq := rfl
@[simp] theorem Core.putV_tagBusy (c : Core) (n : Nat) (r : VReg) : (c.putV n r).tagBusy = c.tagBusy := rfl
@[simp] theorem Core.putV_tagStat (c : Core) (n : Nat) (r : VReg) : (c.putV n r).tagStat = c.tagStat := rfl
@[simp] theorem Core.putV_cmdq (c : Core) (n : Nat) (r : VReg) : (c.putV n r).cmdq = c.cmdq := rfl
@[simp] theorem Core.putV_accs (c : Core) (n : Nat) (r : VReg) : (c.putV n r).accs = c.accs := rfl
@[simp] theorem Core.putV_latch (c : Core) (n : Nat) (r : VReg) : (c.putV n r).latch = c.latch := rfl
@[simp] theorem Core.putV_mq (c : Core) (n : Nat) (r : VReg) : (c.putV n r).mq = c.mq := rfl
@[simp] theorem Core.putV_events (c : Core) (n : Nat) (r : VReg) : (c.putV n r).events = c.events := rfl
@[simp] theorem Core.putV_vq (c : Core) (n : Nat) (r : VReg) : (c.putV n r).vq = c.vq := rfl
@[simp] theorem Core.putV_storing (c : Core) (n : Nat) (r : VReg) : (c.putV n r).storing = c.storing := rfl
@[simp] theorem Core.putV_inbox (c : Core) (n : Nat) (r : VReg) : (c.putV n r).inbox = c.inbox := rfl
@[simp] theorem Core.putV_deque (c : Core) (n : Nat) (r : VReg) : (c.putV n r).deque = c.deque := rfl
@[simp] theorem Core.putV_pushes (c : Core) (n : Nat) (r : VReg) : (c.putV n r).pushes = c.pushes := rfl
@[simp] theorem Core.putV_fetch (c : Core) (n : Nat) (r : VReg) : (c.putV n r).fetch = c.fetch := rfl
@[simp] theorem Core.putV_held (c : Core) (n : Nat) (r : VReg) : (c.putV n r).held = c.held := rfl
@[simp] theorem Core.putV_resumeAt (c : Core) (n : Nat) (r : VReg) : (c.putV n r).resumeAt = c.resumeAt := rfl
@[simp] theorem Core.putV_stepping (c : Core) (n : Nat) (r : VReg) : (c.putV n r).stepping = c.stepping := rfl
@[simp] theorem Core.putV_replay (c : Core) (n : Nat) (r : VReg) : (c.putV n r).replay = c.replay := rfl
@[simp] theorem Core.putV_preq (c : Core) (n : Nat) (r : VReg) : (c.putV n r).preq = c.preq := rfl
@[simp] theorem Core.putV_preempting (c : Core) (n : Nat) (r : VReg) : (c.putV n r).preempting = c.preempting := rfl
@[simp] theorem Core.putV_gap (c : Core) (n : Nat) (r : VReg) : (c.putV n r).gap = c.gap := rfl
@[simp] theorem Core.putV_heldSince (c : Core) (n : Nat) (r : VReg) : (c.putV n r).heldSince = c.heldSince := rfl
@[simp] theorem Core.putV_saved (c : Core) (n : Nat) (r : VReg) : (c.putV n r).saved = c.saved := rfl
@[simp] theorem Core.putV_saving (c : Core) (n : Nat) (r : VReg) : (c.putV n r).saving = c.saving := rfl
@[simp] theorem Core.putV_finish (c : Core) (n : Nat) (r : VReg) : (c.putV n r).finish = c.finish := rfl
@[simp] theorem Core.putV_latacc (c : Core) (n : Nat) (r : VReg) : (c.putV n r).latacc = c.latacc := rfl
@[simp] theorem Core.putV_accEcc (c : Core) (n : Nat) (r : VReg) : (c.putV n r).accEcc = c.accEcc := rfl
@[simp] theorem Core.putV_regEcc (c : Core) (n : Nat) (r : VReg) : (c.putV n r).regEcc = c.regEcc := rfl
@[simp] theorem Core.putV_trapWait (c : Core) (n : Nat) (r : VReg) : (c.putV n r).trapWait = c.trapWait := rfl
@[simp] theorem Core.putV_ckAt (c : Core) (n : Nat) (r : VReg) : (c.putV n r).ckAt = c.ckAt := rfl
@[simp] theorem Core.putV_ckPeriod (c : Core) (n : Nat) (r : VReg) : (c.putV n r).ckPeriod = c.ckPeriod := rfl
@[simp] theorem Core.putV_logged (c : Core) (n : Nat) (r : VReg) : (c.putV n r).logged = c.logged := rfl
@[simp] theorem Core.putV_capBuf (c : Core) (n : Nat) (r : VReg) : (c.putV n r).capBuf = c.capBuf := rfl
@[simp] theorem Core.putV_entering (c : Core) (n : Nat) (r : VReg) : (c.putV n r).entering = c.entering := rfl
@[simp] theorem Core.putV_count (c : Core) (n : Nat) (r : VReg) : (c.putV n r).count = c.count := rfl
@[simp] theorem Core.setV_act (c : Core) (n : Nat) (v : VWord) : (c.setV n v).act = c.act := rfl
@[simp] theorem Core.setV_pc (c : Core) (n : Nat) (v : VWord) : (c.setV n v).pc = c.pc := rfl
@[simp] theorem Core.setV_ir (c : Core) (n : Nat) (v : VWord) : (c.setV n v).ir = c.ir := rfl
@[simp] theorem Core.setV_xs (c : Core) (n : Nat) (v : VWord) : (c.setV n v).xs = c.xs := rfl
@[simp] theorem Core.setV_ms (c : Core) (n : Nat) (v : VWord) : (c.setV n v).ms = c.ms := rfl
@[simp] theorem Core.setV_ctx (c : Core) (n : Nat) (v : VWord) : (c.setV n v).ctx = c.ctx := rfl
@[simp] theorem Core.setV_carve (c : Core) (n : Nat) (v : VWord) : (c.setV n v).carve = c.carve := rfl
@[simp] theorem Core.setV_accepted (c : Core) (n : Nat) (v : VWord) : (c.setV n v).accepted = c.accepted := rfl
@[simp] theorem Core.setV_eng (c : Core) (n : Nat) (v : VWord) : (c.setV n v).eng = c.eng := rfl
@[simp] theorem Core.setV_empty (c : Core) (n : Nat) (v : VWord) : (c.setV n v).empty = c.empty := rfl
@[simp] theorem Core.setV_l1 (c : Core) (n : Nat) (v : VWord) : (c.setV n v).l1 = c.l1 := rfl
@[simp] theorem Core.setV_out (c : Core) (n : Nat) (v : VWord) : (c.setV n v).out = c.out := rfl
@[simp] theorem Core.setV_undo (c : Core) (n : Nat) (v : VWord) : (c.setV n v).undo = c.undo := rfl
@[simp] theorem Core.setV_blocked (c : Core) (n : Nat) (v : VWord) : (c.setV n v).blocked = c.blocked := rfl
@[simp] theorem Core.setV_posted (c : Core) (n : Nat) (v : VWord) : (c.setV n v).posted = c.posted := rfl
@[simp] theorem Core.setV_drain (c : Core) (n : Nat) (v : VWord) : (c.setV n v).drain = c.drain := rfl
@[simp] theorem Core.setV_timers (c : Core) (n : Nat) (v : VWord) : (c.setV n v).timers = c.timers := rfl
@[simp] theorem Core.setV_tlbi (c : Core) (n : Nat) (v : VWord) : (c.setV n v).tlbi = c.tlbi := rfl
@[simp] theorem Core.setV_enterWait (c : Core) (n : Nat) (v : VWord) : (c.setV n v).enterWait = c.enterWait := rfl
@[simp] theorem Core.setV_copies (c : Core) (n : Nat) (v : VWord) : (c.setV n v).copies = c.copies := rfl
@[simp] theorem Core.setV_copySeq (c : Core) (n : Nat) (v : VWord) : (c.setV n v).copySeq = c.copySeq := rfl
@[simp] theorem Core.setV_tagBusy (c : Core) (n : Nat) (v : VWord) : (c.setV n v).tagBusy = c.tagBusy := rfl
@[simp] theorem Core.setV_tagStat (c : Core) (n : Nat) (v : VWord) : (c.setV n v).tagStat = c.tagStat := rfl
@[simp] theorem Core.setV_cmdq (c : Core) (n : Nat) (v : VWord) : (c.setV n v).cmdq = c.cmdq := rfl
@[simp] theorem Core.setV_accs (c : Core) (n : Nat) (v : VWord) : (c.setV n v).accs = c.accs := rfl
@[simp] theorem Core.setV_latch (c : Core) (n : Nat) (v : VWord) : (c.setV n v).latch = c.latch := rfl
@[simp] theorem Core.setV_mq (c : Core) (n : Nat) (v : VWord) : (c.setV n v).mq = c.mq := rfl
@[simp] theorem Core.setV_events (c : Core) (n : Nat) (v : VWord) : (c.setV n v).events = c.events := rfl
@[simp] theorem Core.setV_vq (c : Core) (n : Nat) (v : VWord) : (c.setV n v).vq = c.vq := rfl
@[simp] theorem Core.setV_storing (c : Core) (n : Nat) (v : VWord) : (c.setV n v).storing = c.storing := rfl
@[simp] theorem Core.setV_inbox (c : Core) (n : Nat) (v : VWord) : (c.setV n v).inbox = c.inbox := rfl
@[simp] theorem Core.setV_deque (c : Core) (n : Nat) (v : VWord) : (c.setV n v).deque = c.deque := rfl
@[simp] theorem Core.setV_pushes (c : Core) (n : Nat) (v : VWord) : (c.setV n v).pushes = c.pushes := rfl
@[simp] theorem Core.setV_fetch (c : Core) (n : Nat) (v : VWord) : (c.setV n v).fetch = c.fetch := rfl
@[simp] theorem Core.setV_held (c : Core) (n : Nat) (v : VWord) : (c.setV n v).held = c.held := rfl
@[simp] theorem Core.setV_resumeAt (c : Core) (n : Nat) (v : VWord) : (c.setV n v).resumeAt = c.resumeAt := rfl
@[simp] theorem Core.setV_stepping (c : Core) (n : Nat) (v : VWord) : (c.setV n v).stepping = c.stepping := rfl
@[simp] theorem Core.setV_replay (c : Core) (n : Nat) (v : VWord) : (c.setV n v).replay = c.replay := rfl
@[simp] theorem Core.setV_preq (c : Core) (n : Nat) (v : VWord) : (c.setV n v).preq = c.preq := rfl
@[simp] theorem Core.setV_preempting (c : Core) (n : Nat) (v : VWord) : (c.setV n v).preempting = c.preempting := rfl
@[simp] theorem Core.setV_gap (c : Core) (n : Nat) (v : VWord) : (c.setV n v).gap = c.gap := rfl
@[simp] theorem Core.setV_heldSince (c : Core) (n : Nat) (v : VWord) : (c.setV n v).heldSince = c.heldSince := rfl
@[simp] theorem Core.setV_saved (c : Core) (n : Nat) (v : VWord) : (c.setV n v).saved = c.saved := rfl
@[simp] theorem Core.setV_saving (c : Core) (n : Nat) (v : VWord) : (c.setV n v).saving = c.saving := rfl
@[simp] theorem Core.setV_finish (c : Core) (n : Nat) (v : VWord) : (c.setV n v).finish = c.finish := rfl
@[simp] theorem Core.setV_latacc (c : Core) (n : Nat) (v : VWord) : (c.setV n v).latacc = c.latacc := rfl
@[simp] theorem Core.setV_accEcc (c : Core) (n : Nat) (v : VWord) : (c.setV n v).accEcc = c.accEcc := rfl
@[simp] theorem Core.setV_regEcc (c : Core) (n : Nat) (v : VWord) : (c.setV n v).regEcc = c.regEcc := rfl
@[simp] theorem Core.setV_trapWait (c : Core) (n : Nat) (v : VWord) : (c.setV n v).trapWait = c.trapWait := rfl
@[simp] theorem Core.setV_ckAt (c : Core) (n : Nat) (v : VWord) : (c.setV n v).ckAt = c.ckAt := rfl
@[simp] theorem Core.setV_ckPeriod (c : Core) (n : Nat) (v : VWord) : (c.setV n v).ckPeriod = c.ckPeriod := rfl
@[simp] theorem Core.setV_logged (c : Core) (n : Nat) (v : VWord) : (c.setV n v).logged = c.logged := rfl
@[simp] theorem Core.setV_capBuf (c : Core) (n : Nat) (v : VWord) : (c.setV n v).capBuf = c.capBuf := rfl
@[simp] theorem Core.setV_entering (c : Core) (n : Nat) (v : VWord) : (c.setV n v).entering = c.entering := rfl
@[simp] theorem Core.setV_count (c : Core) (n : Nat) (v : VWord) : (c.setV n v).count = c.count := rfl
@[simp] theorem Core.setMask_act (c : Core) (n : BitVec 3) (v : MWord) : (c.setMask n v).act = c.act := by unfold Core.setMask; split <;> rfl
@[simp] theorem Core.setMask_pc (c : Core) (n : BitVec 3) (v : MWord) : (c.setMask n v).pc = c.pc := by unfold Core.setMask; split <;> rfl
@[simp] theorem Core.setMask_ir (c : Core) (n : BitVec 3) (v : MWord) : (c.setMask n v).ir = c.ir := by unfold Core.setMask; split <;> rfl
@[simp] theorem Core.setMask_xs (c : Core) (n : BitVec 3) (v : MWord) : (c.setMask n v).xs = c.xs := by unfold Core.setMask; split <;> rfl
@[simp] theorem Core.setMask_vs (c : Core) (n : BitVec 3) (v : MWord) : (c.setMask n v).vs = c.vs := by unfold Core.setMask; split <;> rfl
@[simp] theorem Core.setMask_ctx (c : Core) (n : BitVec 3) (v : MWord) : (c.setMask n v).ctx = c.ctx := by unfold Core.setMask; split <;> rfl
@[simp] theorem Core.setMask_carve (c : Core) (n : BitVec 3) (v : MWord) : (c.setMask n v).carve = c.carve := by unfold Core.setMask; split <;> rfl
@[simp] theorem Core.setMask_accepted (c : Core) (n : BitVec 3) (v : MWord) : (c.setMask n v).accepted = c.accepted := by unfold Core.setMask; split <;> rfl
@[simp] theorem Core.setMask_eng (c : Core) (n : BitVec 3) (v : MWord) : (c.setMask n v).eng = c.eng := by unfold Core.setMask; split <;> rfl
@[simp] theorem Core.setMask_empty (c : Core) (n : BitVec 3) (v : MWord) : (c.setMask n v).empty = c.empty := by unfold Core.setMask; split <;> rfl
@[simp] theorem Core.setMask_l1 (c : Core) (n : BitVec 3) (v : MWord) : (c.setMask n v).l1 = c.l1 := by unfold Core.setMask; split <;> rfl
@[simp] theorem Core.setMask_out (c : Core) (n : BitVec 3) (v : MWord) : (c.setMask n v).out = c.out := by unfold Core.setMask; split <;> rfl
@[simp] theorem Core.setMask_undo (c : Core) (n : BitVec 3) (v : MWord) : (c.setMask n v).undo = c.undo := by unfold Core.setMask; split <;> rfl
@[simp] theorem Core.setMask_blocked (c : Core) (n : BitVec 3) (v : MWord) : (c.setMask n v).blocked = c.blocked := by unfold Core.setMask; split <;> rfl
@[simp] theorem Core.setMask_posted (c : Core) (n : BitVec 3) (v : MWord) : (c.setMask n v).posted = c.posted := by unfold Core.setMask; split <;> rfl
@[simp] theorem Core.setMask_drain (c : Core) (n : BitVec 3) (v : MWord) : (c.setMask n v).drain = c.drain := by unfold Core.setMask; split <;> rfl
@[simp] theorem Core.setMask_timers (c : Core) (n : BitVec 3) (v : MWord) : (c.setMask n v).timers = c.timers := by unfold Core.setMask; split <;> rfl
@[simp] theorem Core.setMask_tlbi (c : Core) (n : BitVec 3) (v : MWord) : (c.setMask n v).tlbi = c.tlbi := by unfold Core.setMask; split <;> rfl
@[simp] theorem Core.setMask_enterWait (c : Core) (n : BitVec 3) (v : MWord) : (c.setMask n v).enterWait = c.enterWait := by unfold Core.setMask; split <;> rfl
@[simp] theorem Core.setMask_copies (c : Core) (n : BitVec 3) (v : MWord) : (c.setMask n v).copies = c.copies := by unfold Core.setMask; split <;> rfl
@[simp] theorem Core.setMask_copySeq (c : Core) (n : BitVec 3) (v : MWord) : (c.setMask n v).copySeq = c.copySeq := by unfold Core.setMask; split <;> rfl
@[simp] theorem Core.setMask_tagBusy (c : Core) (n : BitVec 3) (v : MWord) : (c.setMask n v).tagBusy = c.tagBusy := by unfold Core.setMask; split <;> rfl
@[simp] theorem Core.setMask_tagStat (c : Core) (n : BitVec 3) (v : MWord) : (c.setMask n v).tagStat = c.tagStat := by unfold Core.setMask; split <;> rfl
@[simp] theorem Core.setMask_cmdq (c : Core) (n : BitVec 3) (v : MWord) : (c.setMask n v).cmdq = c.cmdq := by unfold Core.setMask; split <;> rfl
@[simp] theorem Core.setMask_accs (c : Core) (n : BitVec 3) (v : MWord) : (c.setMask n v).accs = c.accs := by unfold Core.setMask; split <;> rfl
@[simp] theorem Core.setMask_latch (c : Core) (n : BitVec 3) (v : MWord) : (c.setMask n v).latch = c.latch := by unfold Core.setMask; split <;> rfl
@[simp] theorem Core.setMask_mq (c : Core) (n : BitVec 3) (v : MWord) : (c.setMask n v).mq = c.mq := by unfold Core.setMask; split <;> rfl
@[simp] theorem Core.setMask_events (c : Core) (n : BitVec 3) (v : MWord) : (c.setMask n v).events = c.events := by unfold Core.setMask; split <;> rfl
@[simp] theorem Core.setMask_vq (c : Core) (n : BitVec 3) (v : MWord) : (c.setMask n v).vq = c.vq := by unfold Core.setMask; split <;> rfl
@[simp] theorem Core.setMask_storing (c : Core) (n : BitVec 3) (v : MWord) : (c.setMask n v).storing = c.storing := by unfold Core.setMask; split <;> rfl
@[simp] theorem Core.setMask_inbox (c : Core) (n : BitVec 3) (v : MWord) : (c.setMask n v).inbox = c.inbox := by unfold Core.setMask; split <;> rfl
@[simp] theorem Core.setMask_deque (c : Core) (n : BitVec 3) (v : MWord) : (c.setMask n v).deque = c.deque := by unfold Core.setMask; split <;> rfl
@[simp] theorem Core.setMask_pushes (c : Core) (n : BitVec 3) (v : MWord) : (c.setMask n v).pushes = c.pushes := by unfold Core.setMask; split <;> rfl
@[simp] theorem Core.setMask_fetch (c : Core) (n : BitVec 3) (v : MWord) : (c.setMask n v).fetch = c.fetch := by unfold Core.setMask; split <;> rfl
@[simp] theorem Core.setMask_held (c : Core) (n : BitVec 3) (v : MWord) : (c.setMask n v).held = c.held := by unfold Core.setMask; split <;> rfl
@[simp] theorem Core.setMask_resumeAt (c : Core) (n : BitVec 3) (v : MWord) : (c.setMask n v).resumeAt = c.resumeAt := by unfold Core.setMask; split <;> rfl
@[simp] theorem Core.setMask_stepping (c : Core) (n : BitVec 3) (v : MWord) : (c.setMask n v).stepping = c.stepping := by unfold Core.setMask; split <;> rfl
@[simp] theorem Core.setMask_replay (c : Core) (n : BitVec 3) (v : MWord) : (c.setMask n v).replay = c.replay := by unfold Core.setMask; split <;> rfl
@[simp] theorem Core.setMask_preq (c : Core) (n : BitVec 3) (v : MWord) : (c.setMask n v).preq = c.preq := by unfold Core.setMask; split <;> rfl
@[simp] theorem Core.setMask_preempting (c : Core) (n : BitVec 3) (v : MWord) : (c.setMask n v).preempting = c.preempting := by unfold Core.setMask; split <;> rfl
@[simp] theorem Core.setMask_gap (c : Core) (n : BitVec 3) (v : MWord) : (c.setMask n v).gap = c.gap := by unfold Core.setMask; split <;> rfl
@[simp] theorem Core.setMask_heldSince (c : Core) (n : BitVec 3) (v : MWord) : (c.setMask n v).heldSince = c.heldSince := by unfold Core.setMask; split <;> rfl
@[simp] theorem Core.setMask_saved (c : Core) (n : BitVec 3) (v : MWord) : (c.setMask n v).saved = c.saved := by unfold Core.setMask; split <;> rfl
@[simp] theorem Core.setMask_saving (c : Core) (n : BitVec 3) (v : MWord) : (c.setMask n v).saving = c.saving := by unfold Core.setMask; split <;> rfl
@[simp] theorem Core.setMask_finish (c : Core) (n : BitVec 3) (v : MWord) : (c.setMask n v).finish = c.finish := by unfold Core.setMask; split <;> rfl
@[simp] theorem Core.setMask_latacc (c : Core) (n : BitVec 3) (v : MWord) : (c.setMask n v).latacc = c.latacc := by unfold Core.setMask; split <;> rfl
@[simp] theorem Core.setMask_accEcc (c : Core) (n : BitVec 3) (v : MWord) : (c.setMask n v).accEcc = c.accEcc := by unfold Core.setMask; split <;> rfl
@[simp] theorem Core.setMask_regEcc (c : Core) (n : BitVec 3) (v : MWord) : (c.setMask n v).regEcc = c.regEcc := by unfold Core.setMask; split <;> rfl
@[simp] theorem Core.setMask_trapWait (c : Core) (n : BitVec 3) (v : MWord) : (c.setMask n v).trapWait = c.trapWait := by unfold Core.setMask; split <;> rfl
@[simp] theorem Core.setMask_ckAt (c : Core) (n : BitVec 3) (v : MWord) : (c.setMask n v).ckAt = c.ckAt := by unfold Core.setMask; split <;> rfl
@[simp] theorem Core.setMask_ckPeriod (c : Core) (n : BitVec 3) (v : MWord) : (c.setMask n v).ckPeriod = c.ckPeriod := by unfold Core.setMask; split <;> rfl
@[simp] theorem Core.setMask_logged (c : Core) (n : BitVec 3) (v : MWord) : (c.setMask n v).logged = c.logged := by unfold Core.setMask; split <;> rfl
@[simp] theorem Core.setMask_capBuf (c : Core) (n : BitVec 3) (v : MWord) : (c.setMask n v).capBuf = c.capBuf := by unfold Core.setMask; split <;> rfl
@[simp] theorem Core.setMask_entering (c : Core) (n : BitVec 3) (v : MWord) : (c.setMask n v).entering = c.entering := by unfold Core.setMask; split <;> rfl
@[simp] theorem Core.setMask_count (c : Core) (n : BitVec 3) (v : MWord) : (c.setMask n v).count = c.count := by unfold Core.setMask; split <;> rfl
@[simp] theorem Core.modCtx_act (c : Core) (f : Ctx → Ctx) : (c.modCtx f).act = c.act := rfl
@[simp] theorem Core.modCtx_pc (c : Core) (f : Ctx → Ctx) : (c.modCtx f).pc = c.pc := rfl
@[simp] theorem Core.modCtx_ir (c : Core) (f : Ctx → Ctx) : (c.modCtx f).ir = c.ir := rfl
@[simp] theorem Core.modCtx_xs (c : Core) (f : Ctx → Ctx) : (c.modCtx f).xs = c.xs := rfl
@[simp] theorem Core.modCtx_vs (c : Core) (f : Ctx → Ctx) : (c.modCtx f).vs = c.vs := rfl
@[simp] theorem Core.modCtx_ms (c : Core) (f : Ctx → Ctx) : (c.modCtx f).ms = c.ms := rfl
@[simp] theorem Core.modCtx_carve (c : Core) (f : Ctx → Ctx) : (c.modCtx f).carve = c.carve := rfl
@[simp] theorem Core.modCtx_accepted (c : Core) (f : Ctx → Ctx) : (c.modCtx f).accepted = c.accepted := rfl
@[simp] theorem Core.modCtx_eng (c : Core) (f : Ctx → Ctx) : (c.modCtx f).eng = c.eng := rfl
@[simp] theorem Core.modCtx_empty (c : Core) (f : Ctx → Ctx) : (c.modCtx f).empty = c.empty := rfl
@[simp] theorem Core.modCtx_l1 (c : Core) (f : Ctx → Ctx) : (c.modCtx f).l1 = c.l1 := rfl
@[simp] theorem Core.modCtx_out (c : Core) (f : Ctx → Ctx) : (c.modCtx f).out = c.out := rfl
@[simp] theorem Core.modCtx_undo (c : Core) (f : Ctx → Ctx) : (c.modCtx f).undo = c.undo := rfl
@[simp] theorem Core.modCtx_blocked (c : Core) (f : Ctx → Ctx) : (c.modCtx f).blocked = c.blocked := rfl
@[simp] theorem Core.modCtx_posted (c : Core) (f : Ctx → Ctx) : (c.modCtx f).posted = c.posted := rfl
@[simp] theorem Core.modCtx_drain (c : Core) (f : Ctx → Ctx) : (c.modCtx f).drain = c.drain := rfl
@[simp] theorem Core.modCtx_timers (c : Core) (f : Ctx → Ctx) : (c.modCtx f).timers = c.timers := rfl
@[simp] theorem Core.modCtx_tlbi (c : Core) (f : Ctx → Ctx) : (c.modCtx f).tlbi = c.tlbi := rfl
@[simp] theorem Core.modCtx_enterWait (c : Core) (f : Ctx → Ctx) : (c.modCtx f).enterWait = c.enterWait := rfl
@[simp] theorem Core.modCtx_copies (c : Core) (f : Ctx → Ctx) : (c.modCtx f).copies = c.copies := rfl
@[simp] theorem Core.modCtx_copySeq (c : Core) (f : Ctx → Ctx) : (c.modCtx f).copySeq = c.copySeq := rfl
@[simp] theorem Core.modCtx_tagBusy (c : Core) (f : Ctx → Ctx) : (c.modCtx f).tagBusy = c.tagBusy := rfl
@[simp] theorem Core.modCtx_tagStat (c : Core) (f : Ctx → Ctx) : (c.modCtx f).tagStat = c.tagStat := rfl
@[simp] theorem Core.modCtx_cmdq (c : Core) (f : Ctx → Ctx) : (c.modCtx f).cmdq = c.cmdq := rfl
@[simp] theorem Core.modCtx_accs (c : Core) (f : Ctx → Ctx) : (c.modCtx f).accs = c.accs := rfl
@[simp] theorem Core.modCtx_latch (c : Core) (f : Ctx → Ctx) : (c.modCtx f).latch = c.latch := rfl
@[simp] theorem Core.modCtx_mq (c : Core) (f : Ctx → Ctx) : (c.modCtx f).mq = c.mq := rfl
@[simp] theorem Core.modCtx_events (c : Core) (f : Ctx → Ctx) : (c.modCtx f).events = c.events := rfl
@[simp] theorem Core.modCtx_vq (c : Core) (f : Ctx → Ctx) : (c.modCtx f).vq = c.vq := rfl
@[simp] theorem Core.modCtx_storing (c : Core) (f : Ctx → Ctx) : (c.modCtx f).storing = c.storing := rfl
@[simp] theorem Core.modCtx_inbox (c : Core) (f : Ctx → Ctx) : (c.modCtx f).inbox = c.inbox := rfl
@[simp] theorem Core.modCtx_deque (c : Core) (f : Ctx → Ctx) : (c.modCtx f).deque = c.deque := rfl
@[simp] theorem Core.modCtx_pushes (c : Core) (f : Ctx → Ctx) : (c.modCtx f).pushes = c.pushes := rfl
@[simp] theorem Core.modCtx_fetch (c : Core) (f : Ctx → Ctx) : (c.modCtx f).fetch = c.fetch := rfl
@[simp] theorem Core.modCtx_held (c : Core) (f : Ctx → Ctx) : (c.modCtx f).held = c.held := rfl
@[simp] theorem Core.modCtx_resumeAt (c : Core) (f : Ctx → Ctx) : (c.modCtx f).resumeAt = c.resumeAt := rfl
@[simp] theorem Core.modCtx_stepping (c : Core) (f : Ctx → Ctx) : (c.modCtx f).stepping = c.stepping := rfl
@[simp] theorem Core.modCtx_replay (c : Core) (f : Ctx → Ctx) : (c.modCtx f).replay = c.replay := rfl
@[simp] theorem Core.modCtx_preq (c : Core) (f : Ctx → Ctx) : (c.modCtx f).preq = c.preq := rfl
@[simp] theorem Core.modCtx_preempting (c : Core) (f : Ctx → Ctx) : (c.modCtx f).preempting = c.preempting := rfl
@[simp] theorem Core.modCtx_gap (c : Core) (f : Ctx → Ctx) : (c.modCtx f).gap = c.gap := rfl
@[simp] theorem Core.modCtx_heldSince (c : Core) (f : Ctx → Ctx) : (c.modCtx f).heldSince = c.heldSince := rfl
@[simp] theorem Core.modCtx_saved (c : Core) (f : Ctx → Ctx) : (c.modCtx f).saved = c.saved := rfl
@[simp] theorem Core.modCtx_saving (c : Core) (f : Ctx → Ctx) : (c.modCtx f).saving = c.saving := rfl
@[simp] theorem Core.modCtx_finish (c : Core) (f : Ctx → Ctx) : (c.modCtx f).finish = c.finish := rfl
@[simp] theorem Core.modCtx_latacc (c : Core) (f : Ctx → Ctx) : (c.modCtx f).latacc = c.latacc := rfl
@[simp] theorem Core.modCtx_accEcc (c : Core) (f : Ctx → Ctx) : (c.modCtx f).accEcc = c.accEcc := rfl
@[simp] theorem Core.modCtx_regEcc (c : Core) (f : Ctx → Ctx) : (c.modCtx f).regEcc = c.regEcc := rfl
@[simp] theorem Core.modCtx_trapWait (c : Core) (f : Ctx → Ctx) : (c.modCtx f).trapWait = c.trapWait := rfl
@[simp] theorem Core.modCtx_ckAt (c : Core) (f : Ctx → Ctx) : (c.modCtx f).ckAt = c.ckAt := rfl
@[simp] theorem Core.modCtx_ckPeriod (c : Core) (f : Ctx → Ctx) : (c.modCtx f).ckPeriod = c.ckPeriod := rfl
@[simp] theorem Core.modCtx_writes (c : Core) (f : Ctx → Ctx) : (c.modCtx f).writes = c.writes := rfl
@[simp] theorem Core.modCtx_logged (c : Core) (f : Ctx → Ctx) : (c.modCtx f).logged = c.logged := rfl
@[simp] theorem Core.modCtx_capBuf (c : Core) (f : Ctx → Ctx) : (c.modCtx f).capBuf = c.capBuf := rfl
@[simp] theorem Core.modCtx_entering (c : Core) (f : Ctx → Ctx) : (c.modCtx f).entering = c.entering := rfl
@[simp] theorem Core.modCtx_count (c : Core) (f : Ctx → Ctx) : (c.modCtx f).count = c.count := rfl
@[simp] theorem Core.modStatus_act (c : Core) (f : Status → Status) : (c.modStatus f).act = c.act := rfl
@[simp] theorem Core.modStatus_pc (c : Core) (f : Status → Status) : (c.modStatus f).pc = c.pc := rfl
@[simp] theorem Core.modStatus_ir (c : Core) (f : Status → Status) : (c.modStatus f).ir = c.ir := rfl
@[simp] theorem Core.modStatus_xs (c : Core) (f : Status → Status) : (c.modStatus f).xs = c.xs := rfl
@[simp] theorem Core.modStatus_vs (c : Core) (f : Status → Status) : (c.modStatus f).vs = c.vs := rfl
@[simp] theorem Core.modStatus_ms (c : Core) (f : Status → Status) : (c.modStatus f).ms = c.ms := rfl
@[simp] theorem Core.modStatus_carve (c : Core) (f : Status → Status) : (c.modStatus f).carve = c.carve := rfl
@[simp] theorem Core.modStatus_accepted (c : Core) (f : Status → Status) : (c.modStatus f).accepted = c.accepted := rfl
@[simp] theorem Core.modStatus_eng (c : Core) (f : Status → Status) : (c.modStatus f).eng = c.eng := rfl
@[simp] theorem Core.modStatus_empty (c : Core) (f : Status → Status) : (c.modStatus f).empty = c.empty := rfl
@[simp] theorem Core.modStatus_l1 (c : Core) (f : Status → Status) : (c.modStatus f).l1 = c.l1 := rfl
@[simp] theorem Core.modStatus_out (c : Core) (f : Status → Status) : (c.modStatus f).out = c.out := rfl
@[simp] theorem Core.modStatus_undo (c : Core) (f : Status → Status) : (c.modStatus f).undo = c.undo := rfl
@[simp] theorem Core.modStatus_blocked (c : Core) (f : Status → Status) : (c.modStatus f).blocked = c.blocked := rfl
@[simp] theorem Core.modStatus_posted (c : Core) (f : Status → Status) : (c.modStatus f).posted = c.posted := rfl
@[simp] theorem Core.modStatus_drain (c : Core) (f : Status → Status) : (c.modStatus f).drain = c.drain := rfl
@[simp] theorem Core.modStatus_timers (c : Core) (f : Status → Status) : (c.modStatus f).timers = c.timers := rfl
@[simp] theorem Core.modStatus_tlbi (c : Core) (f : Status → Status) : (c.modStatus f).tlbi = c.tlbi := rfl
@[simp] theorem Core.modStatus_enterWait (c : Core) (f : Status → Status) : (c.modStatus f).enterWait = c.enterWait := rfl
@[simp] theorem Core.modStatus_copies (c : Core) (f : Status → Status) : (c.modStatus f).copies = c.copies := rfl
@[simp] theorem Core.modStatus_copySeq (c : Core) (f : Status → Status) : (c.modStatus f).copySeq = c.copySeq := rfl
@[simp] theorem Core.modStatus_tagBusy (c : Core) (f : Status → Status) : (c.modStatus f).tagBusy = c.tagBusy := rfl
@[simp] theorem Core.modStatus_tagStat (c : Core) (f : Status → Status) : (c.modStatus f).tagStat = c.tagStat := rfl
@[simp] theorem Core.modStatus_cmdq (c : Core) (f : Status → Status) : (c.modStatus f).cmdq = c.cmdq := rfl
@[simp] theorem Core.modStatus_accs (c : Core) (f : Status → Status) : (c.modStatus f).accs = c.accs := rfl
@[simp] theorem Core.modStatus_latch (c : Core) (f : Status → Status) : (c.modStatus f).latch = c.latch := rfl
@[simp] theorem Core.modStatus_mq (c : Core) (f : Status → Status) : (c.modStatus f).mq = c.mq := rfl
@[simp] theorem Core.modStatus_events (c : Core) (f : Status → Status) : (c.modStatus f).events = c.events := rfl
@[simp] theorem Core.modStatus_vq (c : Core) (f : Status → Status) : (c.modStatus f).vq = c.vq := rfl
@[simp] theorem Core.modStatus_storing (c : Core) (f : Status → Status) : (c.modStatus f).storing = c.storing := rfl
@[simp] theorem Core.modStatus_inbox (c : Core) (f : Status → Status) : (c.modStatus f).inbox = c.inbox := rfl
@[simp] theorem Core.modStatus_deque (c : Core) (f : Status → Status) : (c.modStatus f).deque = c.deque := rfl
@[simp] theorem Core.modStatus_pushes (c : Core) (f : Status → Status) : (c.modStatus f).pushes = c.pushes := rfl
@[simp] theorem Core.modStatus_fetch (c : Core) (f : Status → Status) : (c.modStatus f).fetch = c.fetch := rfl
@[simp] theorem Core.modStatus_held (c : Core) (f : Status → Status) : (c.modStatus f).held = c.held := rfl
@[simp] theorem Core.modStatus_resumeAt (c : Core) (f : Status → Status) : (c.modStatus f).resumeAt = c.resumeAt := rfl
@[simp] theorem Core.modStatus_stepping (c : Core) (f : Status → Status) : (c.modStatus f).stepping = c.stepping := rfl
@[simp] theorem Core.modStatus_replay (c : Core) (f : Status → Status) : (c.modStatus f).replay = c.replay := rfl
@[simp] theorem Core.modStatus_preq (c : Core) (f : Status → Status) : (c.modStatus f).preq = c.preq := rfl
@[simp] theorem Core.modStatus_preempting (c : Core) (f : Status → Status) : (c.modStatus f).preempting = c.preempting := rfl
@[simp] theorem Core.modStatus_gap (c : Core) (f : Status → Status) : (c.modStatus f).gap = c.gap := rfl
@[simp] theorem Core.modStatus_heldSince (c : Core) (f : Status → Status) : (c.modStatus f).heldSince = c.heldSince := rfl
@[simp] theorem Core.modStatus_saved (c : Core) (f : Status → Status) : (c.modStatus f).saved = c.saved := rfl
@[simp] theorem Core.modStatus_saving (c : Core) (f : Status → Status) : (c.modStatus f).saving = c.saving := rfl
@[simp] theorem Core.modStatus_finish (c : Core) (f : Status → Status) : (c.modStatus f).finish = c.finish := rfl
@[simp] theorem Core.modStatus_latacc (c : Core) (f : Status → Status) : (c.modStatus f).latacc = c.latacc := rfl
@[simp] theorem Core.modStatus_accEcc (c : Core) (f : Status → Status) : (c.modStatus f).accEcc = c.accEcc := rfl
@[simp] theorem Core.modStatus_regEcc (c : Core) (f : Status → Status) : (c.modStatus f).regEcc = c.regEcc := rfl
@[simp] theorem Core.modStatus_trapWait (c : Core) (f : Status → Status) : (c.modStatus f).trapWait = c.trapWait := rfl
@[simp] theorem Core.modStatus_ckAt (c : Core) (f : Status → Status) : (c.modStatus f).ckAt = c.ckAt := rfl
@[simp] theorem Core.modStatus_ckPeriod (c : Core) (f : Status → Status) : (c.modStatus f).ckPeriod = c.ckPeriod := rfl
@[simp] theorem Core.modStatus_writes (c : Core) (f : Status → Status) : (c.modStatus f).writes = c.writes := rfl
@[simp] theorem Core.modStatus_logged (c : Core) (f : Status → Status) : (c.modStatus f).logged = c.logged := rfl
@[simp] theorem Core.modStatus_capBuf (c : Core) (f : Status → Status) : (c.modStatus f).capBuf = c.capBuf := rfl
@[simp] theorem Core.modStatus_entering (c : Core) (f : Status → Status) : (c.modStatus f).entering = c.entering := rfl
@[simp] theorem Core.modStatus_count (c : Core) (f : Status → Status) : (c.modStatus f).count = c.count := rfl
@[simp] theorem Core.setView_act (c : Core) (q : Nat) (v : View) : (c.setView q v).act = c.act := rfl
@[simp] theorem Core.setView_pc (c : Core) (q : Nat) (v : View) : (c.setView q v).pc = c.pc := rfl
@[simp] theorem Core.setView_ir (c : Core) (q : Nat) (v : View) : (c.setView q v).ir = c.ir := rfl
@[simp] theorem Core.setView_xs (c : Core) (q : Nat) (v : View) : (c.setView q v).xs = c.xs := rfl
@[simp] theorem Core.setView_vs (c : Core) (q : Nat) (v : View) : (c.setView q v).vs = c.vs := rfl
@[simp] theorem Core.setView_ms (c : Core) (q : Nat) (v : View) : (c.setView q v).ms = c.ms := rfl
@[simp] theorem Core.setView_carve (c : Core) (q : Nat) (v : View) : (c.setView q v).carve = c.carve := rfl
@[simp] theorem Core.setView_accepted (c : Core) (q : Nat) (v : View) : (c.setView q v).accepted = c.accepted := rfl
@[simp] theorem Core.setView_eng (c : Core) (q : Nat) (v : View) : (c.setView q v).eng = c.eng := rfl
@[simp] theorem Core.setView_empty (c : Core) (q : Nat) (v : View) : (c.setView q v).empty = c.empty := rfl
@[simp] theorem Core.setView_l1 (c : Core) (q : Nat) (v : View) : (c.setView q v).l1 = c.l1 := rfl
@[simp] theorem Core.setView_out (c : Core) (q : Nat) (v : View) : (c.setView q v).out = c.out := rfl
@[simp] theorem Core.setView_undo (c : Core) (q : Nat) (v : View) : (c.setView q v).undo = c.undo := rfl
@[simp] theorem Core.setView_blocked (c : Core) (q : Nat) (v : View) : (c.setView q v).blocked = c.blocked := rfl
@[simp] theorem Core.setView_posted (c : Core) (q : Nat) (v : View) : (c.setView q v).posted = c.posted := rfl
@[simp] theorem Core.setView_drain (c : Core) (q : Nat) (v : View) : (c.setView q v).drain = c.drain := rfl
@[simp] theorem Core.setView_timers (c : Core) (q : Nat) (v : View) : (c.setView q v).timers = c.timers := rfl
@[simp] theorem Core.setView_tlbi (c : Core) (q : Nat) (v : View) : (c.setView q v).tlbi = c.tlbi := rfl
@[simp] theorem Core.setView_enterWait (c : Core) (q : Nat) (v : View) : (c.setView q v).enterWait = c.enterWait := rfl
@[simp] theorem Core.setView_copies (c : Core) (q : Nat) (v : View) : (c.setView q v).copies = c.copies := rfl
@[simp] theorem Core.setView_copySeq (c : Core) (q : Nat) (v : View) : (c.setView q v).copySeq = c.copySeq := rfl
@[simp] theorem Core.setView_tagBusy (c : Core) (q : Nat) (v : View) : (c.setView q v).tagBusy = c.tagBusy := rfl
@[simp] theorem Core.setView_tagStat (c : Core) (q : Nat) (v : View) : (c.setView q v).tagStat = c.tagStat := rfl
@[simp] theorem Core.setView_cmdq (c : Core) (q : Nat) (v : View) : (c.setView q v).cmdq = c.cmdq := rfl
@[simp] theorem Core.setView_accs (c : Core) (q : Nat) (v : View) : (c.setView q v).accs = c.accs := rfl
@[simp] theorem Core.setView_latch (c : Core) (q : Nat) (v : View) : (c.setView q v).latch = c.latch := rfl
@[simp] theorem Core.setView_mq (c : Core) (q : Nat) (v : View) : (c.setView q v).mq = c.mq := rfl
@[simp] theorem Core.setView_events (c : Core) (q : Nat) (v : View) : (c.setView q v).events = c.events := rfl
@[simp] theorem Core.setView_vq (c : Core) (q : Nat) (v : View) : (c.setView q v).vq = c.vq := rfl
@[simp] theorem Core.setView_storing (c : Core) (q : Nat) (v : View) : (c.setView q v).storing = c.storing := rfl
@[simp] theorem Core.setView_inbox (c : Core) (q : Nat) (v : View) : (c.setView q v).inbox = c.inbox := rfl
@[simp] theorem Core.setView_deque (c : Core) (q : Nat) (v : View) : (c.setView q v).deque = c.deque := rfl
@[simp] theorem Core.setView_pushes (c : Core) (q : Nat) (v : View) : (c.setView q v).pushes = c.pushes := rfl
@[simp] theorem Core.setView_fetch (c : Core) (q : Nat) (v : View) : (c.setView q v).fetch = c.fetch := rfl
@[simp] theorem Core.setView_held (c : Core) (q : Nat) (v : View) : (c.setView q v).held = c.held := rfl
@[simp] theorem Core.setView_resumeAt (c : Core) (q : Nat) (v : View) : (c.setView q v).resumeAt = c.resumeAt := rfl
@[simp] theorem Core.setView_stepping (c : Core) (q : Nat) (v : View) : (c.setView q v).stepping = c.stepping := rfl
@[simp] theorem Core.setView_replay (c : Core) (q : Nat) (v : View) : (c.setView q v).replay = c.replay := rfl
@[simp] theorem Core.setView_preq (c : Core) (q : Nat) (v : View) : (c.setView q v).preq = c.preq := rfl
@[simp] theorem Core.setView_preempting (c : Core) (q : Nat) (v : View) : (c.setView q v).preempting = c.preempting := rfl
@[simp] theorem Core.setView_gap (c : Core) (q : Nat) (v : View) : (c.setView q v).gap = c.gap := rfl
@[simp] theorem Core.setView_heldSince (c : Core) (q : Nat) (v : View) : (c.setView q v).heldSince = c.heldSince := rfl
@[simp] theorem Core.setView_saved (c : Core) (q : Nat) (v : View) : (c.setView q v).saved = c.saved := rfl
@[simp] theorem Core.setView_saving (c : Core) (q : Nat) (v : View) : (c.setView q v).saving = c.saving := rfl
@[simp] theorem Core.setView_finish (c : Core) (q : Nat) (v : View) : (c.setView q v).finish = c.finish := rfl
@[simp] theorem Core.setView_latacc (c : Core) (q : Nat) (v : View) : (c.setView q v).latacc = c.latacc := rfl
@[simp] theorem Core.setView_accEcc (c : Core) (q : Nat) (v : View) : (c.setView q v).accEcc = c.accEcc := rfl
@[simp] theorem Core.setView_regEcc (c : Core) (q : Nat) (v : View) : (c.setView q v).regEcc = c.regEcc := rfl
@[simp] theorem Core.setView_trapWait (c : Core) (q : Nat) (v : View) : (c.setView q v).trapWait = c.trapWait := rfl
@[simp] theorem Core.setView_ckAt (c : Core) (q : Nat) (v : View) : (c.setView q v).ckAt = c.ckAt := rfl
@[simp] theorem Core.setView_ckPeriod (c : Core) (q : Nat) (v : View) : (c.setView q v).ckPeriod = c.ckPeriod := rfl
@[simp] theorem Core.setView_logged (c : Core) (q : Nat) (v : View) : (c.setView q v).logged = c.logged := rfl
@[simp] theorem Core.setView_capBuf (c : Core) (q : Nat) (v : View) : (c.setView q v).capBuf = c.capBuf := rfl
@[simp] theorem Core.setView_entering (c : Core) (q : Nat) (v : View) : (c.setView q v).entering = c.entering := rfl
@[simp] theorem Core.setView_count (c : Core) (q : Nat) (v : View) : (c.setView q v).count = c.count := rfl
@[simp] theorem Core.raiseFlags_act (c : Core) (f : BitVec 5) : (c.raiseFlags f).act = c.act := rfl
@[simp] theorem Core.raiseFlags_pc (c : Core) (f : BitVec 5) : (c.raiseFlags f).pc = c.pc := rfl
@[simp] theorem Core.raiseFlags_ir (c : Core) (f : BitVec 5) : (c.raiseFlags f).ir = c.ir := rfl
@[simp] theorem Core.raiseFlags_xs (c : Core) (f : BitVec 5) : (c.raiseFlags f).xs = c.xs := rfl
@[simp] theorem Core.raiseFlags_vs (c : Core) (f : BitVec 5) : (c.raiseFlags f).vs = c.vs := rfl
@[simp] theorem Core.raiseFlags_ms (c : Core) (f : BitVec 5) : (c.raiseFlags f).ms = c.ms := rfl
@[simp] theorem Core.raiseFlags_carve (c : Core) (f : BitVec 5) : (c.raiseFlags f).carve = c.carve := rfl
@[simp] theorem Core.raiseFlags_accepted (c : Core) (f : BitVec 5) : (c.raiseFlags f).accepted = c.accepted := rfl
@[simp] theorem Core.raiseFlags_eng (c : Core) (f : BitVec 5) : (c.raiseFlags f).eng = c.eng := rfl
@[simp] theorem Core.raiseFlags_empty (c : Core) (f : BitVec 5) : (c.raiseFlags f).empty = c.empty := rfl
@[simp] theorem Core.raiseFlags_l1 (c : Core) (f : BitVec 5) : (c.raiseFlags f).l1 = c.l1 := rfl
@[simp] theorem Core.raiseFlags_out (c : Core) (f : BitVec 5) : (c.raiseFlags f).out = c.out := rfl
@[simp] theorem Core.raiseFlags_undo (c : Core) (f : BitVec 5) : (c.raiseFlags f).undo = c.undo := rfl
@[simp] theorem Core.raiseFlags_blocked (c : Core) (f : BitVec 5) : (c.raiseFlags f).blocked = c.blocked := rfl
@[simp] theorem Core.raiseFlags_posted (c : Core) (f : BitVec 5) : (c.raiseFlags f).posted = c.posted := rfl
@[simp] theorem Core.raiseFlags_drain (c : Core) (f : BitVec 5) : (c.raiseFlags f).drain = c.drain := rfl
@[simp] theorem Core.raiseFlags_timers (c : Core) (f : BitVec 5) : (c.raiseFlags f).timers = c.timers := rfl
@[simp] theorem Core.raiseFlags_tlbi (c : Core) (f : BitVec 5) : (c.raiseFlags f).tlbi = c.tlbi := rfl
@[simp] theorem Core.raiseFlags_enterWait (c : Core) (f : BitVec 5) : (c.raiseFlags f).enterWait = c.enterWait := rfl
@[simp] theorem Core.raiseFlags_copies (c : Core) (f : BitVec 5) : (c.raiseFlags f).copies = c.copies := rfl
@[simp] theorem Core.raiseFlags_copySeq (c : Core) (f : BitVec 5) : (c.raiseFlags f).copySeq = c.copySeq := rfl
@[simp] theorem Core.raiseFlags_tagBusy (c : Core) (f : BitVec 5) : (c.raiseFlags f).tagBusy = c.tagBusy := rfl
@[simp] theorem Core.raiseFlags_tagStat (c : Core) (f : BitVec 5) : (c.raiseFlags f).tagStat = c.tagStat := rfl
@[simp] theorem Core.raiseFlags_cmdq (c : Core) (f : BitVec 5) : (c.raiseFlags f).cmdq = c.cmdq := rfl
@[simp] theorem Core.raiseFlags_accs (c : Core) (f : BitVec 5) : (c.raiseFlags f).accs = c.accs := rfl
@[simp] theorem Core.raiseFlags_latch (c : Core) (f : BitVec 5) : (c.raiseFlags f).latch = c.latch := rfl
@[simp] theorem Core.raiseFlags_mq (c : Core) (f : BitVec 5) : (c.raiseFlags f).mq = c.mq := rfl
@[simp] theorem Core.raiseFlags_events (c : Core) (f : BitVec 5) : (c.raiseFlags f).events = c.events := rfl
@[simp] theorem Core.raiseFlags_vq (c : Core) (f : BitVec 5) : (c.raiseFlags f).vq = c.vq := rfl
@[simp] theorem Core.raiseFlags_storing (c : Core) (f : BitVec 5) : (c.raiseFlags f).storing = c.storing := rfl
@[simp] theorem Core.raiseFlags_inbox (c : Core) (f : BitVec 5) : (c.raiseFlags f).inbox = c.inbox := rfl
@[simp] theorem Core.raiseFlags_deque (c : Core) (f : BitVec 5) : (c.raiseFlags f).deque = c.deque := rfl
@[simp] theorem Core.raiseFlags_pushes (c : Core) (f : BitVec 5) : (c.raiseFlags f).pushes = c.pushes := rfl
@[simp] theorem Core.raiseFlags_fetch (c : Core) (f : BitVec 5) : (c.raiseFlags f).fetch = c.fetch := rfl
@[simp] theorem Core.raiseFlags_held (c : Core) (f : BitVec 5) : (c.raiseFlags f).held = c.held := rfl
@[simp] theorem Core.raiseFlags_resumeAt (c : Core) (f : BitVec 5) : (c.raiseFlags f).resumeAt = c.resumeAt := rfl
@[simp] theorem Core.raiseFlags_stepping (c : Core) (f : BitVec 5) : (c.raiseFlags f).stepping = c.stepping := rfl
@[simp] theorem Core.raiseFlags_replay (c : Core) (f : BitVec 5) : (c.raiseFlags f).replay = c.replay := rfl
@[simp] theorem Core.raiseFlags_preq (c : Core) (f : BitVec 5) : (c.raiseFlags f).preq = c.preq := rfl
@[simp] theorem Core.raiseFlags_preempting (c : Core) (f : BitVec 5) : (c.raiseFlags f).preempting = c.preempting := rfl
@[simp] theorem Core.raiseFlags_gap (c : Core) (f : BitVec 5) : (c.raiseFlags f).gap = c.gap := rfl
@[simp] theorem Core.raiseFlags_heldSince (c : Core) (f : BitVec 5) : (c.raiseFlags f).heldSince = c.heldSince := rfl
@[simp] theorem Core.raiseFlags_saved (c : Core) (f : BitVec 5) : (c.raiseFlags f).saved = c.saved := rfl
@[simp] theorem Core.raiseFlags_saving (c : Core) (f : BitVec 5) : (c.raiseFlags f).saving = c.saving := rfl
@[simp] theorem Core.raiseFlags_finish (c : Core) (f : BitVec 5) : (c.raiseFlags f).finish = c.finish := rfl
@[simp] theorem Core.raiseFlags_latacc (c : Core) (f : BitVec 5) : (c.raiseFlags f).latacc = c.latacc := rfl
@[simp] theorem Core.raiseFlags_accEcc (c : Core) (f : BitVec 5) : (c.raiseFlags f).accEcc = c.accEcc := rfl
@[simp] theorem Core.raiseFlags_regEcc (c : Core) (f : BitVec 5) : (c.raiseFlags f).regEcc = c.regEcc := rfl
@[simp] theorem Core.raiseFlags_trapWait (c : Core) (f : BitVec 5) : (c.raiseFlags f).trapWait = c.trapWait := rfl
@[simp] theorem Core.raiseFlags_ckAt (c : Core) (f : BitVec 5) : (c.raiseFlags f).ckAt = c.ckAt := rfl
@[simp] theorem Core.raiseFlags_ckPeriod (c : Core) (f : BitVec 5) : (c.raiseFlags f).ckPeriod = c.ckPeriod := rfl
@[simp] theorem Core.raiseFlags_writes (c : Core) (f : BitVec 5) : (c.raiseFlags f).writes = c.writes := rfl
@[simp] theorem Core.raiseFlags_logged (c : Core) (f : BitVec 5) : (c.raiseFlags f).logged = c.logged := rfl
@[simp] theorem Core.raiseFlags_capBuf (c : Core) (f : BitVec 5) : (c.raiseFlags f).capBuf = c.capBuf := rfl
@[simp] theorem Core.raiseFlags_entering (c : Core) (f : BitVec 5) : (c.raiseFlags f).entering = c.entering := rfl
@[simp] theorem Core.raiseFlags_count (c : Core) (f : BitVec 5) : (c.raiseFlags f).count = c.count := rfl
@[simp] theorem Core.markFull_act (c : Core) (l : Nat) : (c.markFull l).act = c.act := rfl
@[simp] theorem Core.markFull_pc (c : Core) (l : Nat) : (c.markFull l).pc = c.pc := rfl
@[simp] theorem Core.markFull_ir (c : Core) (l : Nat) : (c.markFull l).ir = c.ir := rfl
@[simp] theorem Core.markFull_xs (c : Core) (l : Nat) : (c.markFull l).xs = c.xs := rfl
@[simp] theorem Core.markFull_vs (c : Core) (l : Nat) : (c.markFull l).vs = c.vs := rfl
@[simp] theorem Core.markFull_ms (c : Core) (l : Nat) : (c.markFull l).ms = c.ms := rfl
@[simp] theorem Core.markFull_ctx (c : Core) (l : Nat) : (c.markFull l).ctx = c.ctx := rfl
@[simp] theorem Core.markFull_carve (c : Core) (l : Nat) : (c.markFull l).carve = c.carve := rfl
@[simp] theorem Core.markFull_accepted (c : Core) (l : Nat) : (c.markFull l).accepted = c.accepted := rfl
@[simp] theorem Core.markFull_eng (c : Core) (l : Nat) : (c.markFull l).eng = c.eng := rfl
@[simp] theorem Core.markFull_l1 (c : Core) (l : Nat) : (c.markFull l).l1 = c.l1 := rfl
@[simp] theorem Core.markFull_out (c : Core) (l : Nat) : (c.markFull l).out = c.out := rfl
@[simp] theorem Core.markFull_undo (c : Core) (l : Nat) : (c.markFull l).undo = c.undo := rfl
@[simp] theorem Core.markFull_blocked (c : Core) (l : Nat) : (c.markFull l).blocked = c.blocked := rfl
@[simp] theorem Core.markFull_posted (c : Core) (l : Nat) : (c.markFull l).posted = c.posted := rfl
@[simp] theorem Core.markFull_drain (c : Core) (l : Nat) : (c.markFull l).drain = c.drain := rfl
@[simp] theorem Core.markFull_timers (c : Core) (l : Nat) : (c.markFull l).timers = c.timers := rfl
@[simp] theorem Core.markFull_tlbi (c : Core) (l : Nat) : (c.markFull l).tlbi = c.tlbi := rfl
@[simp] theorem Core.markFull_enterWait (c : Core) (l : Nat) : (c.markFull l).enterWait = c.enterWait := rfl
@[simp] theorem Core.markFull_copies (c : Core) (l : Nat) : (c.markFull l).copies = c.copies := rfl
@[simp] theorem Core.markFull_copySeq (c : Core) (l : Nat) : (c.markFull l).copySeq = c.copySeq := rfl
@[simp] theorem Core.markFull_tagBusy (c : Core) (l : Nat) : (c.markFull l).tagBusy = c.tagBusy := rfl
@[simp] theorem Core.markFull_tagStat (c : Core) (l : Nat) : (c.markFull l).tagStat = c.tagStat := rfl
@[simp] theorem Core.markFull_cmdq (c : Core) (l : Nat) : (c.markFull l).cmdq = c.cmdq := rfl
@[simp] theorem Core.markFull_accs (c : Core) (l : Nat) : (c.markFull l).accs = c.accs := rfl
@[simp] theorem Core.markFull_latch (c : Core) (l : Nat) : (c.markFull l).latch = c.latch := rfl
@[simp] theorem Core.markFull_mq (c : Core) (l : Nat) : (c.markFull l).mq = c.mq := rfl
@[simp] theorem Core.markFull_events (c : Core) (l : Nat) : (c.markFull l).events = c.events := rfl
@[simp] theorem Core.markFull_vq (c : Core) (l : Nat) : (c.markFull l).vq = c.vq := rfl
@[simp] theorem Core.markFull_storing (c : Core) (l : Nat) : (c.markFull l).storing = c.storing := rfl
@[simp] theorem Core.markFull_inbox (c : Core) (l : Nat) : (c.markFull l).inbox = c.inbox := rfl
@[simp] theorem Core.markFull_deque (c : Core) (l : Nat) : (c.markFull l).deque = c.deque := rfl
@[simp] theorem Core.markFull_pushes (c : Core) (l : Nat) : (c.markFull l).pushes = c.pushes := rfl
@[simp] theorem Core.markFull_fetch (c : Core) (l : Nat) : (c.markFull l).fetch = c.fetch := rfl
@[simp] theorem Core.markFull_held (c : Core) (l : Nat) : (c.markFull l).held = c.held := rfl
@[simp] theorem Core.markFull_resumeAt (c : Core) (l : Nat) : (c.markFull l).resumeAt = c.resumeAt := rfl
@[simp] theorem Core.markFull_stepping (c : Core) (l : Nat) : (c.markFull l).stepping = c.stepping := rfl
@[simp] theorem Core.markFull_replay (c : Core) (l : Nat) : (c.markFull l).replay = c.replay := rfl
@[simp] theorem Core.markFull_preq (c : Core) (l : Nat) : (c.markFull l).preq = c.preq := rfl
@[simp] theorem Core.markFull_preempting (c : Core) (l : Nat) : (c.markFull l).preempting = c.preempting := rfl
@[simp] theorem Core.markFull_gap (c : Core) (l : Nat) : (c.markFull l).gap = c.gap := rfl
@[simp] theorem Core.markFull_heldSince (c : Core) (l : Nat) : (c.markFull l).heldSince = c.heldSince := rfl
@[simp] theorem Core.markFull_saved (c : Core) (l : Nat) : (c.markFull l).saved = c.saved := rfl
@[simp] theorem Core.markFull_saving (c : Core) (l : Nat) : (c.markFull l).saving = c.saving := rfl
@[simp] theorem Core.markFull_finish (c : Core) (l : Nat) : (c.markFull l).finish = c.finish := rfl
@[simp] theorem Core.markFull_latacc (c : Core) (l : Nat) : (c.markFull l).latacc = c.latacc := rfl
@[simp] theorem Core.markFull_accEcc (c : Core) (l : Nat) : (c.markFull l).accEcc = c.accEcc := rfl
@[simp] theorem Core.markFull_regEcc (c : Core) (l : Nat) : (c.markFull l).regEcc = c.regEcc := rfl
@[simp] theorem Core.markFull_trapWait (c : Core) (l : Nat) : (c.markFull l).trapWait = c.trapWait := rfl
@[simp] theorem Core.markFull_ckAt (c : Core) (l : Nat) : (c.markFull l).ckAt = c.ckAt := rfl
@[simp] theorem Core.markFull_ckPeriod (c : Core) (l : Nat) : (c.markFull l).ckPeriod = c.ckPeriod := rfl
@[simp] theorem Core.markFull_writes (c : Core) (l : Nat) : (c.markFull l).writes = c.writes := rfl
@[simp] theorem Core.markFull_logged (c : Core) (l : Nat) : (c.markFull l).logged = c.logged := rfl
@[simp] theorem Core.markFull_capBuf (c : Core) (l : Nat) : (c.markFull l).capBuf = c.capBuf := rfl
@[simp] theorem Core.markFull_entering (c : Core) (l : Nat) : (c.markFull l).entering = c.entering := rfl
@[simp] theorem Core.markFull_count (c : Core) (l : Nat) : (c.markFull l).count = c.count := rfl
@[simp] theorem Core.markEmpty_act (c : Core) (l : Nat) : (c.markEmpty l).act = c.act := rfl
@[simp] theorem Core.markEmpty_pc (c : Core) (l : Nat) : (c.markEmpty l).pc = c.pc := rfl
@[simp] theorem Core.markEmpty_ir (c : Core) (l : Nat) : (c.markEmpty l).ir = c.ir := rfl
@[simp] theorem Core.markEmpty_xs (c : Core) (l : Nat) : (c.markEmpty l).xs = c.xs := rfl
@[simp] theorem Core.markEmpty_vs (c : Core) (l : Nat) : (c.markEmpty l).vs = c.vs := rfl
@[simp] theorem Core.markEmpty_ms (c : Core) (l : Nat) : (c.markEmpty l).ms = c.ms := rfl
@[simp] theorem Core.markEmpty_ctx (c : Core) (l : Nat) : (c.markEmpty l).ctx = c.ctx := rfl
@[simp] theorem Core.markEmpty_carve (c : Core) (l : Nat) : (c.markEmpty l).carve = c.carve := rfl
@[simp] theorem Core.markEmpty_accepted (c : Core) (l : Nat) : (c.markEmpty l).accepted = c.accepted := rfl
@[simp] theorem Core.markEmpty_eng (c : Core) (l : Nat) : (c.markEmpty l).eng = c.eng := rfl
@[simp] theorem Core.markEmpty_l1 (c : Core) (l : Nat) : (c.markEmpty l).l1 = c.l1 := rfl
@[simp] theorem Core.markEmpty_out (c : Core) (l : Nat) : (c.markEmpty l).out = c.out := rfl
@[simp] theorem Core.markEmpty_undo (c : Core) (l : Nat) : (c.markEmpty l).undo = c.undo := rfl
@[simp] theorem Core.markEmpty_blocked (c : Core) (l : Nat) : (c.markEmpty l).blocked = c.blocked := rfl
@[simp] theorem Core.markEmpty_posted (c : Core) (l : Nat) : (c.markEmpty l).posted = c.posted := rfl
@[simp] theorem Core.markEmpty_drain (c : Core) (l : Nat) : (c.markEmpty l).drain = c.drain := rfl
@[simp] theorem Core.markEmpty_timers (c : Core) (l : Nat) : (c.markEmpty l).timers = c.timers := rfl
@[simp] theorem Core.markEmpty_tlbi (c : Core) (l : Nat) : (c.markEmpty l).tlbi = c.tlbi := rfl
@[simp] theorem Core.markEmpty_enterWait (c : Core) (l : Nat) : (c.markEmpty l).enterWait = c.enterWait := rfl
@[simp] theorem Core.markEmpty_copies (c : Core) (l : Nat) : (c.markEmpty l).copies = c.copies := rfl
@[simp] theorem Core.markEmpty_copySeq (c : Core) (l : Nat) : (c.markEmpty l).copySeq = c.copySeq := rfl
@[simp] theorem Core.markEmpty_tagBusy (c : Core) (l : Nat) : (c.markEmpty l).tagBusy = c.tagBusy := rfl
@[simp] theorem Core.markEmpty_tagStat (c : Core) (l : Nat) : (c.markEmpty l).tagStat = c.tagStat := rfl
@[simp] theorem Core.markEmpty_cmdq (c : Core) (l : Nat) : (c.markEmpty l).cmdq = c.cmdq := rfl
@[simp] theorem Core.markEmpty_accs (c : Core) (l : Nat) : (c.markEmpty l).accs = c.accs := rfl
@[simp] theorem Core.markEmpty_latch (c : Core) (l : Nat) : (c.markEmpty l).latch = c.latch := rfl
@[simp] theorem Core.markEmpty_mq (c : Core) (l : Nat) : (c.markEmpty l).mq = c.mq := rfl
@[simp] theorem Core.markEmpty_events (c : Core) (l : Nat) : (c.markEmpty l).events = c.events := rfl
@[simp] theorem Core.markEmpty_vq (c : Core) (l : Nat) : (c.markEmpty l).vq = c.vq := rfl
@[simp] theorem Core.markEmpty_storing (c : Core) (l : Nat) : (c.markEmpty l).storing = c.storing := rfl
@[simp] theorem Core.markEmpty_inbox (c : Core) (l : Nat) : (c.markEmpty l).inbox = c.inbox := rfl
@[simp] theorem Core.markEmpty_deque (c : Core) (l : Nat) : (c.markEmpty l).deque = c.deque := rfl
@[simp] theorem Core.markEmpty_pushes (c : Core) (l : Nat) : (c.markEmpty l).pushes = c.pushes := rfl
@[simp] theorem Core.markEmpty_fetch (c : Core) (l : Nat) : (c.markEmpty l).fetch = c.fetch := rfl
@[simp] theorem Core.markEmpty_held (c : Core) (l : Nat) : (c.markEmpty l).held = c.held := rfl
@[simp] theorem Core.markEmpty_resumeAt (c : Core) (l : Nat) : (c.markEmpty l).resumeAt = c.resumeAt := rfl
@[simp] theorem Core.markEmpty_stepping (c : Core) (l : Nat) : (c.markEmpty l).stepping = c.stepping := rfl
@[simp] theorem Core.markEmpty_replay (c : Core) (l : Nat) : (c.markEmpty l).replay = c.replay := rfl
@[simp] theorem Core.markEmpty_preq (c : Core) (l : Nat) : (c.markEmpty l).preq = c.preq := rfl
@[simp] theorem Core.markEmpty_preempting (c : Core) (l : Nat) : (c.markEmpty l).preempting = c.preempting := rfl
@[simp] theorem Core.markEmpty_gap (c : Core) (l : Nat) : (c.markEmpty l).gap = c.gap := rfl
@[simp] theorem Core.markEmpty_heldSince (c : Core) (l : Nat) : (c.markEmpty l).heldSince = c.heldSince := rfl
@[simp] theorem Core.markEmpty_saved (c : Core) (l : Nat) : (c.markEmpty l).saved = c.saved := rfl
@[simp] theorem Core.markEmpty_saving (c : Core) (l : Nat) : (c.markEmpty l).saving = c.saving := rfl
@[simp] theorem Core.markEmpty_finish (c : Core) (l : Nat) : (c.markEmpty l).finish = c.finish := rfl
@[simp] theorem Core.markEmpty_latacc (c : Core) (l : Nat) : (c.markEmpty l).latacc = c.latacc := rfl
@[simp] theorem Core.markEmpty_accEcc (c : Core) (l : Nat) : (c.markEmpty l).accEcc = c.accEcc := rfl
@[simp] theorem Core.markEmpty_regEcc (c : Core) (l : Nat) : (c.markEmpty l).regEcc = c.regEcc := rfl
@[simp] theorem Core.markEmpty_trapWait (c : Core) (l : Nat) : (c.markEmpty l).trapWait = c.trapWait := rfl
@[simp] theorem Core.markEmpty_ckAt (c : Core) (l : Nat) : (c.markEmpty l).ckAt = c.ckAt := rfl
@[simp] theorem Core.markEmpty_ckPeriod (c : Core) (l : Nat) : (c.markEmpty l).ckPeriod = c.ckPeriod := rfl
@[simp] theorem Core.markEmpty_writes (c : Core) (l : Nat) : (c.markEmpty l).writes = c.writes := rfl
@[simp] theorem Core.markEmpty_logged (c : Core) (l : Nat) : (c.markEmpty l).logged = c.logged := rfl
@[simp] theorem Core.markEmpty_capBuf (c : Core) (l : Nat) : (c.markEmpty l).capBuf = c.capBuf := rfl
@[simp] theorem Core.markEmpty_entering (c : Core) (l : Nat) : (c.markEmpty l).entering = c.entering := rfl
@[simp] theorem Core.markEmpty_count (c : Core) (l : Nat) : (c.markEmpty l).count = c.count := rfl
@[simp] theorem Core.countBanks_act (c : Core) (vs : List (BitVec 5)) : (c.countBanks vs).act = c.act := rfl
@[simp] theorem Core.countBanks_pc (c : Core) (vs : List (BitVec 5)) : (c.countBanks vs).pc = c.pc := rfl
@[simp] theorem Core.countBanks_ir (c : Core) (vs : List (BitVec 5)) : (c.countBanks vs).ir = c.ir := rfl
@[simp] theorem Core.countBanks_xs (c : Core) (vs : List (BitVec 5)) : (c.countBanks vs).xs = c.xs := rfl
@[simp] theorem Core.countBanks_vs (c : Core) (vs : List (BitVec 5)) : (c.countBanks vs).vs = c.vs := rfl
@[simp] theorem Core.countBanks_ms (c : Core) (vs : List (BitVec 5)) : (c.countBanks vs).ms = c.ms := rfl
@[simp] theorem Core.countBanks_ctx (c : Core) (vs : List (BitVec 5)) : (c.countBanks vs).ctx = c.ctx := rfl
@[simp] theorem Core.countBanks_carve (c : Core) (vs : List (BitVec 5)) : (c.countBanks vs).carve = c.carve := rfl
@[simp] theorem Core.countBanks_accepted (c : Core) (vs : List (BitVec 5)) : (c.countBanks vs).accepted = c.accepted := rfl
@[simp] theorem Core.countBanks_eng (c : Core) (vs : List (BitVec 5)) : (c.countBanks vs).eng = c.eng := rfl
@[simp] theorem Core.countBanks_empty (c : Core) (vs : List (BitVec 5)) : (c.countBanks vs).empty = c.empty := rfl
@[simp] theorem Core.countBanks_l1 (c : Core) (vs : List (BitVec 5)) : (c.countBanks vs).l1 = c.l1 := rfl
@[simp] theorem Core.countBanks_out (c : Core) (vs : List (BitVec 5)) : (c.countBanks vs).out = c.out := rfl
@[simp] theorem Core.countBanks_undo (c : Core) (vs : List (BitVec 5)) : (c.countBanks vs).undo = c.undo := rfl
@[simp] theorem Core.countBanks_blocked (c : Core) (vs : List (BitVec 5)) : (c.countBanks vs).blocked = c.blocked := rfl
@[simp] theorem Core.countBanks_posted (c : Core) (vs : List (BitVec 5)) : (c.countBanks vs).posted = c.posted := rfl
@[simp] theorem Core.countBanks_drain (c : Core) (vs : List (BitVec 5)) : (c.countBanks vs).drain = c.drain := rfl
@[simp] theorem Core.countBanks_timers (c : Core) (vs : List (BitVec 5)) : (c.countBanks vs).timers = c.timers := rfl
@[simp] theorem Core.countBanks_tlbi (c : Core) (vs : List (BitVec 5)) : (c.countBanks vs).tlbi = c.tlbi := rfl
@[simp] theorem Core.countBanks_enterWait (c : Core) (vs : List (BitVec 5)) : (c.countBanks vs).enterWait = c.enterWait := rfl
@[simp] theorem Core.countBanks_copies (c : Core) (vs : List (BitVec 5)) : (c.countBanks vs).copies = c.copies := rfl
@[simp] theorem Core.countBanks_copySeq (c : Core) (vs : List (BitVec 5)) : (c.countBanks vs).copySeq = c.copySeq := rfl
@[simp] theorem Core.countBanks_tagBusy (c : Core) (vs : List (BitVec 5)) : (c.countBanks vs).tagBusy = c.tagBusy := rfl
@[simp] theorem Core.countBanks_tagStat (c : Core) (vs : List (BitVec 5)) : (c.countBanks vs).tagStat = c.tagStat := rfl
@[simp] theorem Core.countBanks_cmdq (c : Core) (vs : List (BitVec 5)) : (c.countBanks vs).cmdq = c.cmdq := rfl
@[simp] theorem Core.countBanks_accs (c : Core) (vs : List (BitVec 5)) : (c.countBanks vs).accs = c.accs := rfl
@[simp] theorem Core.countBanks_latch (c : Core) (vs : List (BitVec 5)) : (c.countBanks vs).latch = c.latch := rfl
@[simp] theorem Core.countBanks_mq (c : Core) (vs : List (BitVec 5)) : (c.countBanks vs).mq = c.mq := rfl
@[simp] theorem Core.countBanks_events (c : Core) (vs : List (BitVec 5)) : (c.countBanks vs).events = c.events := rfl
@[simp] theorem Core.countBanks_vq (c : Core) (vs : List (BitVec 5)) : (c.countBanks vs).vq = c.vq := rfl
@[simp] theorem Core.countBanks_storing (c : Core) (vs : List (BitVec 5)) : (c.countBanks vs).storing = c.storing := rfl
@[simp] theorem Core.countBanks_inbox (c : Core) (vs : List (BitVec 5)) : (c.countBanks vs).inbox = c.inbox := rfl
@[simp] theorem Core.countBanks_deque (c : Core) (vs : List (BitVec 5)) : (c.countBanks vs).deque = c.deque := rfl
@[simp] theorem Core.countBanks_pushes (c : Core) (vs : List (BitVec 5)) : (c.countBanks vs).pushes = c.pushes := rfl
@[simp] theorem Core.countBanks_fetch (c : Core) (vs : List (BitVec 5)) : (c.countBanks vs).fetch = c.fetch := rfl
@[simp] theorem Core.countBanks_held (c : Core) (vs : List (BitVec 5)) : (c.countBanks vs).held = c.held := rfl
@[simp] theorem Core.countBanks_resumeAt (c : Core) (vs : List (BitVec 5)) : (c.countBanks vs).resumeAt = c.resumeAt := rfl
@[simp] theorem Core.countBanks_stepping (c : Core) (vs : List (BitVec 5)) : (c.countBanks vs).stepping = c.stepping := rfl
@[simp] theorem Core.countBanks_replay (c : Core) (vs : List (BitVec 5)) : (c.countBanks vs).replay = c.replay := rfl
@[simp] theorem Core.countBanks_preq (c : Core) (vs : List (BitVec 5)) : (c.countBanks vs).preq = c.preq := rfl
@[simp] theorem Core.countBanks_preempting (c : Core) (vs : List (BitVec 5)) : (c.countBanks vs).preempting = c.preempting := rfl
@[simp] theorem Core.countBanks_gap (c : Core) (vs : List (BitVec 5)) : (c.countBanks vs).gap = c.gap := rfl
@[simp] theorem Core.countBanks_heldSince (c : Core) (vs : List (BitVec 5)) : (c.countBanks vs).heldSince = c.heldSince := rfl
@[simp] theorem Core.countBanks_saved (c : Core) (vs : List (BitVec 5)) : (c.countBanks vs).saved = c.saved := rfl
@[simp] theorem Core.countBanks_saving (c : Core) (vs : List (BitVec 5)) : (c.countBanks vs).saving = c.saving := rfl
@[simp] theorem Core.countBanks_finish (c : Core) (vs : List (BitVec 5)) : (c.countBanks vs).finish = c.finish := rfl
@[simp] theorem Core.countBanks_latacc (c : Core) (vs : List (BitVec 5)) : (c.countBanks vs).latacc = c.latacc := rfl
@[simp] theorem Core.countBanks_accEcc (c : Core) (vs : List (BitVec 5)) : (c.countBanks vs).accEcc = c.accEcc := rfl
@[simp] theorem Core.countBanks_regEcc (c : Core) (vs : List (BitVec 5)) : (c.countBanks vs).regEcc = c.regEcc := rfl
@[simp] theorem Core.countBanks_trapWait (c : Core) (vs : List (BitVec 5)) : (c.countBanks vs).trapWait = c.trapWait := rfl
@[simp] theorem Core.countBanks_ckAt (c : Core) (vs : List (BitVec 5)) : (c.countBanks vs).ckAt = c.ckAt := rfl
@[simp] theorem Core.countBanks_ckPeriod (c : Core) (vs : List (BitVec 5)) : (c.countBanks vs).ckPeriod = c.ckPeriod := rfl
@[simp] theorem Core.countBanks_writes (c : Core) (vs : List (BitVec 5)) : (c.countBanks vs).writes = c.writes := rfl
@[simp] theorem Core.countBanks_logged (c : Core) (vs : List (BitVec 5)) : (c.countBanks vs).logged = c.logged := rfl
@[simp] theorem Core.countBanks_capBuf (c : Core) (vs : List (BitVec 5)) : (c.countBanks vs).capBuf = c.capBuf := rfl
@[simp] theorem Core.countBanks_entering (c : Core) (vs : List (BitVec 5)) : (c.countBanks vs).entering = c.entering := rfl

end Sys2Proof.Machine
end

