-- ==== Sys2Proof/Laws/Completed.lean ====
section
/-! SUPPORT. What completion leaves: every part of the state but PC, INSTRET, the undo log and the forwards is that of the effect. -/

namespace Sys2Proof.Machine

/-! The device. -/

theorem Completed.cur {e t : State} {pc : BitVec 32} (h : Completed e t pc) : t.cur = e.cur := (congrArg State.cur h.device :)
theorem Completed.schedule {e t : State} {pc : BitVec 32} (h : Completed e t pc) : t.schedule = e.schedule := (congrArg State.schedule h.device :)
theorem Completed.turn {e t : State} {pc : BitVec 32} (h : Completed e t pc) : t.turn = e.turn := (congrArg State.turn h.device :)
theorem Completed.free {e t : State} {pc : BitVec 32} (h : Completed e t pc) : t.free = e.free := (congrArg State.free h.device :)
theorem Completed.pace {e t : State} {pc : BitVec 32} (h : Completed e t pc) : t.pace = e.pace := (congrArg State.pace h.device :)
theorem Completed.dtime {e t : State} {pc : BitVec 32} (h : Completed e t pc) : t.dtime = e.dtime := (congrArg State.dtime h.device :)
theorem Completed.cyc10 {e t : State} {pc : BitVec 32} (h : Completed e t pc) : t.cyc10 = e.cyc10 := (congrArg State.cyc10 h.device :)
theorem Completed.mem {e t : State} {pc : BitVec 32} (h : Completed e t pc) : t.mem = e.mem := (congrArg State.mem h.device :)
theorem Completed.ecc {e t : State} {pc : BitVec 32} (h : Completed e t pc) : t.ecc = e.ecc := (congrArg State.ecc h.device :)
theorem Completed.poison {e t : State} {pc : BitVec 32} (h : Completed e t pc) : t.poison = e.poison := (congrArg State.poison h.device :)
theorem Completed.unreachable {e t : State} {pc : BitVec 32} (h : Completed e t pc) : t.unreachable = e.unreachable := (congrArg State.unreachable h.device :)
theorem Completed.clusters {e t : State} {pc : BitVec 32} (h : Completed e t pc) : t.clusters = e.clusters := (congrArg State.clusters h.device :)
theorem Completed.eps {e t : State} {pc : BitVec 32} (h : Completed e t pc) : t.eps = e.eps := (congrArg State.eps h.device :)
theorem Completed.net {e t : State} {pc : BitVec 32} (h : Completed e t pc) : t.net = e.net := (congrArg State.net h.device :)
theorem Completed.ports {e t : State} {pc : BitVec 32} (h : Completed e t pc) : t.ports = e.ports := (congrArg State.ports h.device :)
theorem Completed.share {e t : State} {pc : BitVec 32} (h : Completed e t pc) : t.share = e.share := (congrArg State.share h.device :)
theorem Completed.jobs {e t : State} {pc : BitVec 32} (h : Completed e t pc) : t.jobs = e.jobs := (congrArg State.jobs h.device :)
theorem Completed.classes {e t : State} {pc : BitVec 32} (h : Completed e t pc) : t.classes = e.classes := (congrArg State.classes h.device :)
theorem Completed.domains {e t : State} {pc : BitVec 32} (h : Completed e t pc) : t.domains = e.domains := (congrArg State.domains h.device :)
theorem Completed.nanReports {e t : State} {pc : BitVec 32} (h : Completed e t pc) : t.nanReports = e.nanReports := (congrArg State.nanReports h.device :)
theorem Completed.walks {e t : State} {pc : BitVec 32} (h : Completed e t pc) : t.walks = e.walks := (congrArg State.walks h.device :)
theorem Completed.invals {e t : State} {pc : BitVec 32} (h : Completed e t pc) : t.invals = e.invals := (congrArg State.invals h.device :)
theorem Completed.redel {e t : State} {pc : BitVec 32} (h : Completed e t pc) : t.redel = e.redel := (congrArg State.redel h.device :)
theorem Completed.xfers {e t : State} {pc : BitVec 32} (h : Completed e t pc) : t.xfers = e.xfers := (congrArg State.xfers h.device :)
theorem Completed.reserve {e t : State} {pc : BitVec 32} (h : Completed e t pc) : t.reserve = e.reserve := (congrArg State.reserve h.device :)
theorem Completed.caveRoom {e t : State} {pc : BitVec 32} (h : Completed e t pc) : t.caveRoom = e.caveRoom := (congrArg State.caveRoom h.device :)
theorem Completed.migr {e t : State} {pc : BitVec 32} (h : Completed e t pc) : t.migr = e.migr := (congrArg State.migr h.device :)
theorem Completed.queues {e t : State} {pc : BitVec 32} (h : Completed e t pc) : t.queues = e.queues := (congrArg State.queues h.device :)
theorem Completed.feEvents {e t : State} {pc : BitVec 32} (h : Completed e t pc) : t.feEvents = e.feEvents := (congrArg State.feEvents h.device :)
theorem Completed.fenced {e t : State} {pc : BitVec 32} (h : Completed e t pc) : t.fenced = e.fenced := (congrArg State.fenced h.device :)
theorem Completed.requests {e t : State} {pc : BitVec 32} (h : Completed e t pc) : t.requests = e.requests := (congrArg State.requests h.device :)
theorem Completed.bar0 {e t : State} {pc : BitVec 32} (h : Completed e t pc) : t.bar0 = e.bar0 := (congrArg State.bar0 h.device :)
theorem Completed.boot {e t : State} {pc : BitVec 32} (h : Completed e t pc) : t.boot = e.boot := (congrArg State.boot h.device :)
theorem Completed.power {e t : State} {pc : BitVec 32} (h : Completed e t pc) : t.power = e.power := (congrArg State.power h.device :)
theorem Completed.hotAt {e t : State} {pc : BitVec 32} (h : Completed e t pc) : t.hotAt = e.hotAt := (congrArg State.hotAt h.device :)
theorem Completed.coolAt {e t : State} {pc : BitVec 32} (h : Completed e t pc) : t.coolAt = e.coolAt := (congrArg State.coolAt h.device :)
theorem Completed.tripped {e t : State} {pc : BitVec 32} (h : Completed e t pc) : t.tripped = e.tripped := (congrArg State.tripped h.device :)
theorem Completed.links {e t : State} {pc : BitVec 32} (h : Completed e t pc) : t.links = e.links := (congrArg State.links h.device :)
theorem Completed.peer {e t : State} {pc : BitVec 32} (h : Completed e t pc) : t.peer = e.peer := (congrArg State.peer h.device :)
theorem Completed.ring0 {e t : State} {pc : BitVec 32} (h : Completed e t pc) : t.ring0 = e.ring0 := (congrArg State.ring0 h.device :)
theorem Completed.ring1 {e t : State} {pc : BitVec 32} (h : Completed e t pc) : t.ring1 = e.ring1 := (congrArg State.ring1 h.device :)
theorem Completed.mesh0 {e t : State} {pc : BitVec 32} (h : Completed e t pc) : t.mesh0 = e.mesh0 := (congrArg State.mesh0 h.device :)
theorem Completed.mesh1 {e t : State} {pc : BitVec 32} (h : Completed e t pc) : t.mesh1 = e.mesh1 := (congrArg State.mesh1 h.device :)
theorem Completed.nextBalance {e t : State} {pc : BitVec 32} (h : Completed e t pc) : t.nextBalance = e.nextBalance := (congrArg State.nextBalance h.device :)
theorem Completed.nextFloor {e t : State} {pc : BitVec 32} (h : Completed e t pc) : t.nextFloor = e.nextFloor := (congrArg State.nextFloor h.device :)
theorem Completed.nextFlags {e t : State} {pc : BitVec 32} (h : Completed e t pc) : t.nextFlags = e.nextFlags := (congrArg State.nextFlags h.device :)
theorem Completed.nextLevel {e t : State} {pc : BitVec 32} (h : Completed e t pc) : t.nextLevel = e.nextLevel := (congrArg State.nextLevel h.device :)
theorem Completed.nextShadow {e t : State} {pc : BitVec 32} (h : Completed e t pc) : t.nextShadow = e.nextShadow := (congrArg State.nextShadow h.device :)
theorem Completed.nextWindow {e t : State} {pc : BitVec 32} (h : Completed e t pc) : t.nextWindow = e.nextWindow := (congrArg State.nextWindow h.device :)

/-! The executing core. -/

theorem Completed.c_act {e t : State} {pc : BitVec 32} (h : Completed e t pc) : t.c.act = e.c.act := (congrArg Core.act h.core :)
theorem Completed.c_ir {e t : State} {pc : BitVec 32} (h : Completed e t pc) : t.c.ir = e.c.ir := (congrArg Core.ir h.core :)
theorem Completed.c_xs {e t : State} {pc : BitVec 32} (h : Completed e t pc) : t.c.xs = e.c.xs := (congrArg Core.xs h.core :)
theorem Completed.c_vs {e t : State} {pc : BitVec 32} (h : Completed e t pc) : t.c.vs = e.c.vs := (congrArg Core.vs h.core :)
theorem Completed.c_ms {e t : State} {pc : BitVec 32} (h : Completed e t pc) : t.c.ms = e.c.ms := (congrArg Core.ms h.core :)
theorem Completed.c_carve {e t : State} {pc : BitVec 32} (h : Completed e t pc) : t.c.carve = e.c.carve := (congrArg Core.carve h.core :)
theorem Completed.c_accepted {e t : State} {pc : BitVec 32} (h : Completed e t pc) : t.c.accepted = e.c.accepted := (congrArg Core.accepted h.core :)
theorem Completed.c_eng {e t : State} {pc : BitVec 32} (h : Completed e t pc) : t.c.eng = e.c.eng := (congrArg Core.eng h.core :)
theorem Completed.c_empty {e t : State} {pc : BitVec 32} (h : Completed e t pc) : t.c.empty = e.c.empty := (congrArg Core.empty h.core :)
theorem Completed.c_l1 {e t : State} {pc : BitVec 32} (h : Completed e t pc) : t.c.l1 = e.c.l1 := (congrArg Core.l1 h.core :)
theorem Completed.c_out {e t : State} {pc : BitVec 32} (h : Completed e t pc) : t.c.out = e.c.out := (congrArg Core.out h.core :)
theorem Completed.c_blocked {e t : State} {pc : BitVec 32} (h : Completed e t pc) : t.c.blocked = e.c.blocked := (congrArg Core.blocked h.core :)
theorem Completed.c_posted {e t : State} {pc : BitVec 32} (h : Completed e t pc) : t.c.posted = e.c.posted := (congrArg Core.posted h.core :)
theorem Completed.c_drain {e t : State} {pc : BitVec 32} (h : Completed e t pc) : t.c.drain = e.c.drain := (congrArg Core.drain h.core :)
theorem Completed.c_timers {e t : State} {pc : BitVec 32} (h : Completed e t pc) : t.c.timers = e.c.timers := (congrArg Core.timers h.core :)
theorem Completed.c_tlbi {e t : State} {pc : BitVec 32} (h : Completed e t pc) : t.c.tlbi = e.c.tlbi := (congrArg Core.tlbi h.core :)
theorem Completed.c_enterWait {e t : State} {pc : BitVec 32} (h : Completed e t pc) : t.c.enterWait = e.c.enterWait := (congrArg Core.enterWait h.core :)
theorem Completed.c_copies {e t : State} {pc : BitVec 32} (h : Completed e t pc) : t.c.copies = e.c.copies := (congrArg Core.copies h.core :)
theorem Completed.c_copySeq {e t : State} {pc : BitVec 32} (h : Completed e t pc) : t.c.copySeq = e.c.copySeq := (congrArg Core.copySeq h.core :)
theorem Completed.c_tagBusy {e t : State} {pc : BitVec 32} (h : Completed e t pc) : t.c.tagBusy = e.c.tagBusy := (congrArg Core.tagBusy h.core :)
theorem Completed.c_tagStat {e t : State} {pc : BitVec 32} (h : Completed e t pc) : t.c.tagStat = e.c.tagStat := (congrArg Core.tagStat h.core :)
theorem Completed.c_cmdq {e t : State} {pc : BitVec 32} (h : Completed e t pc) : t.c.cmdq = e.c.cmdq := (congrArg Core.cmdq h.core :)
theorem Completed.c_accs {e t : State} {pc : BitVec 32} (h : Completed e t pc) : t.c.accs = e.c.accs := (congrArg Core.accs h.core :)
theorem Completed.c_latch {e t : State} {pc : BitVec 32} (h : Completed e t pc) : t.c.latch = e.c.latch := (congrArg Core.latch h.core :)
theorem Completed.c_mq {e t : State} {pc : BitVec 32} (h : Completed e t pc) : t.c.mq = e.c.mq := (congrArg Core.mq h.core :)
theorem Completed.c_events {e t : State} {pc : BitVec 32} (h : Completed e t pc) : t.c.events = e.c.events := (congrArg Core.events h.core :)
theorem Completed.c_vq {e t : State} {pc : BitVec 32} (h : Completed e t pc) : t.c.vq = e.c.vq := (congrArg Core.vq h.core :)
theorem Completed.c_storing {e t : State} {pc : BitVec 32} (h : Completed e t pc) : t.c.storing = e.c.storing := (congrArg Core.storing h.core :)
theorem Completed.c_inbox {e t : State} {pc : BitVec 32} (h : Completed e t pc) : t.c.inbox = e.c.inbox := (congrArg Core.inbox h.core :)
theorem Completed.c_deque {e t : State} {pc : BitVec 32} (h : Completed e t pc) : t.c.deque = e.c.deque := (congrArg Core.deque h.core :)
theorem Completed.c_pushes {e t : State} {pc : BitVec 32} (h : Completed e t pc) : t.c.pushes = e.c.pushes := (congrArg Core.pushes h.core :)
theorem Completed.c_fetch {e t : State} {pc : BitVec 32} (h : Completed e t pc) : t.c.fetch = e.c.fetch := (congrArg Core.fetch h.core :)
theorem Completed.c_held {e t : State} {pc : BitVec 32} (h : Completed e t pc) : t.c.held = e.c.held := (congrArg Core.held h.core :)
theorem Completed.c_resumeAt {e t : State} {pc : BitVec 32} (h : Completed e t pc) : t.c.resumeAt = e.c.resumeAt := (congrArg Core.resumeAt h.core :)
theorem Completed.c_stepping {e t : State} {pc : BitVec 32} (h : Completed e t pc) : t.c.stepping = e.c.stepping := (congrArg Core.stepping h.core :)
theorem Completed.c_replay {e t : State} {pc : BitVec 32} (h : Completed e t pc) : t.c.replay = e.c.replay := (congrArg Core.replay h.core :)
theorem Completed.c_preq {e t : State} {pc : BitVec 32} (h : Completed e t pc) : t.c.preq = e.c.preq := (congrArg Core.preq h.core :)
theorem Completed.c_preempting {e t : State} {pc : BitVec 32} (h : Completed e t pc) : t.c.preempting = e.c.preempting := (congrArg Core.preempting h.core :)
theorem Completed.c_gap {e t : State} {pc : BitVec 32} (h : Completed e t pc) : t.c.gap = e.c.gap := (congrArg Core.gap h.core :)
theorem Completed.c_heldSince {e t : State} {pc : BitVec 32} (h : Completed e t pc) : t.c.heldSince = e.c.heldSince := (congrArg Core.heldSince h.core :)
theorem Completed.c_saved {e t : State} {pc : BitVec 32} (h : Completed e t pc) : t.c.saved = e.c.saved := (congrArg Core.saved h.core :)
theorem Completed.c_saving {e t : State} {pc : BitVec 32} (h : Completed e t pc) : t.c.saving = e.c.saving := (congrArg Core.saving h.core :)
theorem Completed.c_finish {e t : State} {pc : BitVec 32} (h : Completed e t pc) : t.c.finish = e.c.finish := (congrArg Core.finish h.core :)
theorem Completed.c_latacc {e t : State} {pc : BitVec 32} (h : Completed e t pc) : t.c.latacc = e.c.latacc := (congrArg Core.latacc h.core :)
theorem Completed.c_accEcc {e t : State} {pc : BitVec 32} (h : Completed e t pc) : t.c.accEcc = e.c.accEcc := (congrArg Core.accEcc h.core :)
theorem Completed.c_regEcc {e t : State} {pc : BitVec 32} (h : Completed e t pc) : t.c.regEcc = e.c.regEcc := (congrArg Core.regEcc h.core :)
theorem Completed.c_trapWait {e t : State} {pc : BitVec 32} (h : Completed e t pc) : t.c.trapWait = e.c.trapWait := (congrArg Core.trapWait h.core :)
theorem Completed.c_ckAt {e t : State} {pc : BitVec 32} (h : Completed e t pc) : t.c.ckAt = e.c.ckAt := (congrArg Core.ckAt h.core :)
theorem Completed.c_ckPeriod {e t : State} {pc : BitVec 32} (h : Completed e t pc) : t.c.ckPeriod = e.c.ckPeriod := (congrArg Core.ckPeriod h.core :)
theorem Completed.c_logged {e t : State} {pc : BitVec 32} (h : Completed e t pc) : t.c.logged = e.c.logged := (congrArg Core.logged h.core :)
theorem Completed.c_capBuf {e t : State} {pc : BitVec 32} (h : Completed e t pc) : t.c.capBuf = e.c.capBuf := (congrArg Core.capBuf h.core :)
theorem Completed.c_entering {e t : State} {pc : BitVec 32} (h : Completed e t pc) : t.c.entering = e.c.entering := (congrArg Core.entering h.core :)
theorem Completed.c_count {e t : State} {pc : BitVec 32} (h : Completed e t pc) : t.c.count = e.c.count := (congrArg Core.count h.core :)

/-! Its context. -/

theorem Completed.ctx_status {e t : State} {pc : BitVec 32} (h : Completed e t pc) : t.c.ctx.status = e.c.ctx.status := (congrArg Ctx.status h.ctx :)
theorem Completed.ctx_cause {e t : State} {pc : BitVec 32} (h : Completed e t pc) : t.c.ctx.cause = e.c.ctx.cause := (congrArg Ctx.cause h.ctx :)
theorem Completed.ctx_epc {e t : State} {pc : BitVec 32} (h : Completed e t pc) : t.c.ctx.epc = e.c.ctx.epc := (congrArg Ctx.epc h.ctx :)
theorem Completed.ctx_tval {e t : State} {pc : BitVec 32} (h : Completed e t pc) : t.c.ctx.tval = e.c.ctx.tval := (congrArg Ctx.tval h.ctx :)
theorem Completed.ctx_tvecEn {e t : State} {pc : BitVec 32} (h : Completed e t pc) : t.c.ctx.tvecEn = e.c.ctx.tvecEn := (congrArg Ctx.tvecEn h.ctx :)
theorem Completed.ctx_tvecAddr {e t : State} {pc : BitVec 32} (h : Completed e t pc) : t.c.ctx.tvecAddr = e.c.ctx.tvecAddr := (congrArg Ctx.tvecAddr h.ctx :)
theorem Completed.ctx_stamp {e t : State} {pc : BitVec 32} (h : Completed e t pc) : t.c.ctx.stamp = e.c.ctx.stamp := (congrArg Ctx.stamp h.ctx :)
theorem Completed.ctx_entryStamp {e t : State} {pc : BitVec 32} (h : Completed e t pc) : t.c.ctx.entryStamp = e.c.ctx.entryStamp := (congrArg Ctx.entryStamp h.ctx :)
theorem Completed.ctx_flags {e t : State} {pc : BitVec 32} (h : Completed e t pc) : t.c.ctx.flags = e.c.ctx.flags := (congrArg Ctx.flags h.ctx :)
theorem Completed.ctx_satcnt {e t : State} {pc : BitVec 32} (h : Completed e t pc) : t.c.ctx.satcnt = e.c.ctx.satcnt := (congrArg Ctx.satcnt h.ctx :)
theorem Completed.ctx_gen {e t : State} {pc : BitVec 32} (h : Completed e t pc) : t.c.ctx.gen = e.c.ctx.gen := (congrArg Ctx.gen h.ctx :)
theorem Completed.ctx_depth {e t : State} {pc : BitVec 32} (h : Completed e t pc) : t.c.ctx.depth = e.c.ctx.depth := (congrArg Ctx.depth h.ctx :)
theorem Completed.ctx_spilled {e t : State} {pc : BitVec 32} (h : Completed e t pc) : t.c.ctx.spilled = e.c.ctx.spilled := (congrArg Ctx.spilled h.ctx :)
theorem Completed.ctx_spillBase {e t : State} {pc : BitVec 32} (h : Completed e t pc) : t.c.ctx.spillBase = e.c.ctx.spillBase := (congrArg Ctx.spillBase h.ctx :)
theorem Completed.ctx_spillLim {e t : State} {pc : BitVec 32} (h : Completed e t pc) : t.c.ctx.spillLim = e.c.ctx.spillLim := (congrArg Ctx.spillLim h.ctx :)
theorem Completed.ctx_spillTop {e t : State} {pc : BitVec 32} (h : Completed e t pc) : t.c.ctx.spillTop = e.c.ctx.spillTop := (congrArg Ctx.spillTop h.ctx :)
theorem Completed.ctx_allotV {e t : State} {pc : BitVec 32} (h : Completed e t pc) : t.c.ctx.allotV = e.c.ctx.allotV := (congrArg Ctx.allotV h.ctx :)
theorem Completed.ctx_mirror {e t : State} {pc : BitVec 32} (h : Completed e t pc) : t.c.ctx.mirror = e.c.ctx.mirror := (congrArg Ctx.mirror h.ctx :)
theorem Completed.ctx_views {e t : State} {pc : BitVec 32} (h : Completed e t pc) : t.c.ctx.views = e.c.ctx.views := (congrArg Ctx.views h.ctx :)
theorem Completed.ctx_ce {e t : State} {pc : BitVec 32} (h : Completed e t pc) : t.c.ctx.ce = e.c.ctx.ce := (congrArg Ctx.ce h.ctx :)
theorem Completed.ctx_tags {e t : State} {pc : BitVec 32} (h : Completed e t pc) : t.c.ctx.tags = e.c.ctx.tags := (congrArg Ctx.tags h.ctx :)
theorem Completed.ctx_rot {e t : State} {pc : BitVec 32} (h : Completed e t pc) : t.c.ctx.rot = e.c.ctx.rot := (congrArg Ctx.rot h.ctx :)
theorem Completed.ctx_wany {e t : State} {pc : BitVec 32} (h : Completed e t pc) : t.c.ctx.wany = e.c.ctx.wany := (congrArg Ctx.wany h.ctx :)
theorem Completed.ctx_distBase {e t : State} {pc : BitVec 32} (h : Completed e t pc) : t.c.ctx.distBase = e.c.ctx.distBase := (congrArg Ctx.distBase h.ctx :)

/-! Accessors. -/

/-- Every byte of memory is that of the effect. -/
theorem Completed.byte {e t : State} {pc : BitVec 32} (h : Completed e t pc) (p : Nat) : t.byte p = e.byte p := by
  simp only [State.byte, h.mem]
/-- Every scalar register is that of the effect. -/
theorem Completed.reg {e t : State} {pc : BitVec 32} (h : Completed e t pc) (n : Nat) : t.c.reg n = e.c.reg n := by
  simp only [Core.reg, Core.regAt, Core.key, h.c_xs, h.ctx_depth]
/-- Every register at a key is that of the effect. -/
theorem Completed.regAt {e t : State} {pc : BitVec 32} (h : Completed e t pc) (key : Nat) : t.c.regAt key = e.c.regAt key := by
  simp only [Core.regAt, h.c_xs]
/-- Every vector register is that of the effect. -/
theorem Completed.v {e t : State} {pc : BitVec 32} (h : Completed e t pc) (n : Nat) : t.c.v n = e.c.v n := by
  simp only [Core.v, h.c_vs]

end Sys2Proof.Machine
end

