-- ==== Sys2Proof/Laws/Ops.lean ====
section
/-! SUPPORT. What the shared operations can do, said once: checks in a row, completion, the answers of the register, floating-point and
vector instructions, taking a trap. -/

namespace Sys2Proof.Machine

/-! Checks. -/

/-- A check that lets the instruction go on adds nothing. -/
@[simp] theorem firstStop_go_cons (gs : List Gate) : firstStop (.go :: gs) = firstStop gs := rfl

/-- No checks stop nothing. -/
@[simp] theorem firstStop_nil : firstStop [] = .go := rfl

/-- Checks that let the instruction go on, before others. -/
theorem firstStop_append {gs hs : List Gate} (h : firstStop gs = .go) : firstStop (gs ++ hs) = firstStop hs := by
  induction gs with
  | nil => rfl
  | cons g t ih =>
    cases g with
    | go => exact ih h
    | _ => cases h

/-- All checks let the instruction go on when each does. -/
theorem firstStop_all {gs : List Gate} (h : ∀ g ∈ gs, g = .go) : firstStop gs = .go := by
  induction gs with
  | nil => rfl
  | cons g t ih =>
    rw [h g (List.mem_cons_self ..)]
    exact ih fun x hx => h x (List.mem_cons_of_mem _ hx)

/-- A wait whose condition holds. -/
@[simp] theorem waitUntil_true : waitUntil true = .go := rfl
/-- A trap whose condition does not hold. -/
@[simp] theorem trapIf_false (cause : Nat) (tval : XWord) : trapIf false cause tval = .go := rfl
/-- A trap whose condition holds. -/
@[simp] theorem trapIf_true (cause : Nat) (tval : XWord) : trapIf true cause tval = .trap cause tval := rfl

/-- A register in a sound line raises no error. -/
theorem Core.eccGate_sound {c : Core} {slot : Nat} (h : c.Sound slot) : c.eccGate slot = .go := by
  have e : (c.regEcc.find? fun e => decide (e.1 = slot)) = none := by
    rw [List.find?_eq_none]
    intro x hx
    simpa using h x hx
  simp only [Core.eccGate, e]

/-- The sources' test passes when they are ready. -/
theorem srcGates_ready {c : Core} {srcs : List (Src × Nat)} (h : c.SrcsReady srcs) : firstStop (srcGates c srcs) = .go := by
  apply firstStop_all
  intro g hg
  simp only [srcGates, List.mem_append, List.mem_map, List.mem_cons, List.mem_filter] at hg
  rcases hg with ⟨p, hp, rfl⟩ | rfl | ⟨p, ⟨hp, hn⟩, rfl⟩
  · simp [(h p hp).1]
  · have e : (srcs.all fun p => (c.reg p.1.n.toNat).full) = true := List.all_eq_true.2 fun p hp => (h p hp).1
    rw [e]; rfl
  · exact Core.eccGate_sound ((h p hp).2 (by simpa using hn))

/-- The destination's test passes when it is ready. -/
theorem destGate_ready {c : Core} {rd : BitVec 5} (h : c.DestReady rd) : destGate c rd = .go := by
  unfold destGate; rw [h]; rfl

/-- The answer of checks that all pass. -/
theorem checked_go {s k : State} {gs : List Gate} (h : firstStop gs = .go) : checked s gs k = .done k := by
  unfold checked; rw [h]

/-- The answer of checks that all pass, before more. -/
theorem checkedThen_go {s : State} {gs : List Gate} {k : Unit → Ans} (h : firstStop gs = .go) : checkedThen s gs k = k () := by
  unfold checkedThen; rw [h]

/-! Completion. -/

/-- A context is the same as itself. -/
theorem Ctx.Same.refl (x : Ctx) : Ctx.Same x x := rfl

/-- With log room no instruction stalls for an entry. -/
theorem State.logFull_room {s : State} (h : s.c.LogRoom) (s' : State) : s.logFull s' = false := by
  rcases h with h | h
  · simp [State.logFull, h]
  · have : ¬ 16 ≤ s.c.undo.length := by omega
    simp [State.logFull, this]

/-- The snapshot of a boundary changes the snapshots alone. -/
theorem State.snapshot_eq (s : State) (k : Nat) : ∃ l, s.snapshot k = { s with snaps := l } := by
  unfold State.snapshot
  split
  · exact ⟨_, rfl⟩
  · exact ⟨s.snaps, rfl⟩

/-- Forwarding changes what waits to be forwarded, the forwards and the count of identities. -/
theorem State.forwardFlags_eq (s : State) :
    s.forwardFlags s.cur = s ∨ ∃ b l n, s.forwardFlags s.cur
      = { s.modC (fun c => c.modCtxAll fun x => x.forwarded b) with fwds := l, nextId := n } := by
  unfold State.forwardFlags
  dsimp only
  split
  · split
    · exact .inr ⟨_, _, _, rfl⟩
    · exact .inl rfl
  · exact .inl rfl

/-- An instruction retired is completed with its effect. -/
theorem State.retire_completed (s e : State) (pc : BitVec 32) (hc : e.cur = s.cur) : Completed e (s.retire e pc) pc := by
  have hlog : ∃ u, (s.c.logEntry { e.c with pc := pc, ctx := { e.c.ctx with instret := e.c.ctx.instret + 1 } } s.nextId (s.sharedUndo e))
      = { e.c with pc := pc, ctx := { e.c.ctx with instret := e.c.ctx.instret + 1 }, undo := u } := by
    unfold Core.logEntry
    split
    · exact ⟨e.c.undo, rfl⟩
    · exact ⟨_, rfl⟩
  obtain ⟨u, hu⟩ := hlog
  have hr : s.retire e pc = ((e.setC { e.c with pc := pc, ctx := { e.c.ctx with instret := e.c.ctx.instret + 1 }, undo := u }).snapshot e.cur).forwardFlags
      e.cur := by
    simp only [State.retire, hu, hc]
  obtain ⟨sn, hsn⟩ := State.snapshot_eq (e.setC { e.c with pc := pc, ctx := { e.c.ctx with instret := e.c.ctx.instret + 1 }, undo := u }) e.cur
  rw [hr, hsn]
  have h := State.forwardFlags_eq
    { e.setC { e.c with pc := pc, ctx := { e.c.ctx with instret := e.c.ctx.instret + 1 }, undo := u } with snaps := sn }
  have hcur : ({ e.setC { e.c with pc := pc, ctx := { e.c.ctx with instret := e.c.ctx.instret + 1 }, undo := u } with snaps := sn } : State).cur
      = e.cur := rfl
  rw [hcur] at h
  have hcc : ({ e.setC { e.c with pc := pc, ctx := { e.c.ctx with instret := e.c.ctx.instret + 1 }, undo := u } with snaps := sn } : State).c
      = { e.c with pc := pc, ctx := { e.c.ctx with instret := e.c.ctx.instret + 1 }, undo := u } := State.c_setC _ _
  have hother : ∀ k, k ≠ e.cur → ({ e.setC { e.c with pc := pc, ctx := { e.c.ctx with instret := e.c.ctx.instret + 1 }, undo := u }
      with snaps := sn } : State).core k = e.core k := fun k hk => State.core_setC_other e _ k hk
  rcases h with h | ⟨b, l, n, h⟩
  · rw [h]
    refine ⟨?_, ?_, ?_, ?_, hother, rfl⟩
    · rw [hcc]
    · rw [hcc]
    · rw [hcc]; rfl
    · rw [hcc]
  · rw [h]
    generalize hx : ({ e.setC { e.c with pc := pc, ctx := { e.c.ctx with instret := e.c.ctx.instret + 1 }, undo := u } with snaps := sn } : State)
      = x at hcc hother
    have ht : ({ x.modC (fun c => c.modCtxAll fun x => x.forwarded b) with fwds := l, nextId := n } : State).c
        = { e.c with pc := pc, undo := u.map fun w => { w with ctx := w.ctx.forwarded b }
                     ctx := { e.c.ctx with instret := e.c.ctx.instret + 1 }.forwarded b } := by
      have := State.c_modC x (fun c => c.modCtxAll fun x => x.forwarded b)
      rw [hcc] at this
      exact this
    have hxc : x.cur = e.cur := by rw [← hx]; rfl
    refine ⟨?_, ?_, ?_, ?_, ?_, ?_⟩
    · rw [ht]
    · rw [ht]; rfl
    · rw [ht]; rfl
    · rw [ht]
    · intro k hk
      have := State.core_modC_other x (fun c => c.modCtxAll fun x => x.forwarded b) k (by rw [hxc]; exact hk)
      exact this.trans (hother k hk)
    · rw [← hx]; rfl

/-- A completed answer with log room has a next state, the effect completed. -/
theorem perform_done {s e : State} (hr : s.c.LogRoom) (hc : e.cur = s.cur) :
    ∃ t, perform s (.done e) = .next t ∧ Completed e t (s.c.pc + 4) :=
  ⟨_, by simp only [perform, State.complete, State.logFull_room hr]; rfl, State.retire_completed s e _ hc⟩

/-- A jump with log room has a next state, the effect completed, at its target. -/
theorem perform_jump {s e : State} {pc : BitVec 32} (hr : s.c.LogRoom) (hc : e.cur = s.cur) :
    ∃ t, perform s (.jump e pc) = .next t ∧ Completed e t pc :=
  ⟨_, by simp only [perform, State.complete, State.logFull_room hr]; rfl, State.retire_completed s e _ hc⟩

/-- A step's next state of a register instruction whose operands are ready. -/
theorem perform_regAns {s : State} {srcs : List (Src × Nat)} {rd : BitVec 5} (v : XWord) (h : s.Ready srcs rd) :
    ∃ t, perform s (s.regAns srcs rd v) = .next t ∧ Completed (s.modC fun c => c.setX rd v) t (s.c.pc + 4) := by
  have hg : firstStop (srcGates s.c srcs ++ [destGate s.c rd]) = .go := by
    rw [firstStop_append (srcGates_ready h.srcs), destGate_ready h.dest]; rfl
  rw [State.regAns, checked_go hg]
  exact perform_done h.room rfl

/-- A step's next state of a floating-point instruction whose operands are ready. -/
theorem perform_fpAns {s : State} {srcs : List (Src × Nat)} {rd : BitVec 5} (r : XWord × BitVec 5) (h : s.Ready srcs rd) :
    ∃ t, perform s (s.fpAns srcs rd r) = .next t ∧ Completed (s.modC fun c => (c.setX rd r.1).raiseFlags r.2) t (s.c.pc + 4) := by
  have hg : firstStop (srcGates s.c srcs ++ [destGate s.c rd]) = .go := by
    rw [firstStop_append (srcGates_ready h.srcs), destGate_ready h.dest]; rfl
  rw [State.fpAns, checked_go hg]
  exact perform_done h.room rfl

/-- The sources' test of an instruction that finds one empty, with no E bit set: a wait. -/
theorem srcGates_wait {c : Core} {srcs : List (Src × Nat)} (he : ∀ p ∈ srcs, p.1.e = false)
    (hf : ∃ p ∈ srcs, (c.reg p.1.n.toNat).full = false) (gs : List Gate) : firstStop (srcGates c srcs ++ gs) = .wait := by
  have h1 : firstStop (srcs.map fun p => trapIf (!(c.reg p.1.n.toNat).full && effE srcs p.1) 3 (emptyTval p.1.n p.2)) = .go := by
    apply firstStop_all
    intro g hg
    obtain ⟨p, _, rfl⟩ := List.mem_map.1 hg
    have : effE srcs p.1 = false := by
      rw [effE, List.any_eq_false]
      intro q hq
      simp [he q hq]
    simp [this]
  obtain ⟨p, hp, hpf⟩ := hf
  have h2 : (srcs.all fun p => (c.reg p.1.n.toNat).full) = false := by
    rw [List.all_eq_false]
    exact ⟨p, hp, by simp [hpf]⟩
  rw [srcGates, List.append_assoc, firstStop_append h1]
  simp [h2, waitUntil, firstStop]

end Sys2Proof.Machine
end

