-- ==== Sys2Proof/Laws/Frames.lean ====
section
/-! SUPPORT. The register file and its windows: reads after writes, new and old frames. -/

namespace Sys2Proof.Machine

/-- A register after a put at a key that is not x0's. -/
theorem Core.regAt_putKey (c : Core) (key j : Nat) (r : Reg) (h : key ≠ 0) : (c.putKey key r).regAt j = if key = j then r else c.regAt j := by
  unfold Core.putKey
  rw [if_neg h]
  exact Map.get_put ..

/-- A register other than the one put. -/
theorem Core.regAt_putKey_other (c : Core) (key j : Nat) (r : Reg) (h : key ≠ j) : (c.putKey key r).regAt j = c.regAt j := by
  unfold Core.putKey
  split
  · rfl
  · exact Map.get_put_other _ _ _ _ _ h

/-- The registers after a new frame is made fresh. -/
theorem Core.regAt_freshFrame (c : Core) (d key : Nat) :
    (c.freshFrame d).regAt key = if 16 * d + 16 ≤ key ∧ key < 16 * d + 32 then {} else c.regAt key := by
  have gen : ∀ n, n ≤ 16 → ∀ m : Map Reg, Map.get ({} : Reg) ((List.range n).foldl (fun m i => Map.put m (16 * d + 16 + i) {}) m) key
      = if 16 * d + 16 ≤ key ∧ key < 16 * d + 16 + n then {} else Map.get {} m key := by
    intro n
    induction n with
    | zero =>
      intro _ m
      have h : ¬ (16 * d + 16 ≤ key ∧ key < 16 * d + 16 + 0) := by omega
      rw [if_neg h]; rfl
    | succ n ih =>
      intro hn m
      rw [List.range_succ, List.foldl_append]
      simp only [List.foldl_cons, List.foldl_nil, Map.get_put]
      rw [ih (by omega)]
      by_cases h : 16 * d + 16 + n = key
      · have h' : 16 * d + 16 ≤ key ∧ key < 16 * d + 16 + (n + 1) := by omega
        rw [if_pos h, if_pos h']
      · have e : (16 * d + 16 ≤ key ∧ key < 16 * d + 16 + (n + 1)) ↔ (16 * d + 16 ≤ key ∧ key < 16 * d + 16 + n) := by omega
        rw [if_neg h]; simp only [e]
  have h := gen 16 (Nat.le_refl _) c.xs
  unfold Core.regAt Core.freshFrame
  simp only
  exact h

/-- A spill that starts writes no register. -/
@[simp] theorem Core.startSpill_xs (c : Core) : c.startSpill.xs = c.xs := by unfold Core.startSpill; split <;> rfl
/-- A spill that starts changes no context. -/
@[simp] theorem Core.startSpill_ctx (c : Core) : c.startSpill.ctx = c.ctx := by unfold Core.startSpill; split <;> rfl
/-- A fill that starts writes no register. -/
@[simp] theorem Core.startFill_xs (c : Core) : c.startFill.xs = c.xs := by unfold Core.startFill; (repeat' split) <;> rfl
/-- A fill that starts changes no context. -/
@[simp] theorem Core.startFill_ctx (c : Core) : c.startFill.ctx = c.ctx := by unfold Core.startFill; (repeat' split) <;> rfl

/-- The registers of a pushed frame make a new frame. -/
theorem NewFrame.of_push {c c' : Core} (hx : c'.xs = c.pushFrame.xs) (hd : c'.ctx.depth = c.ctx.depth + 1) : NewFrame c c' := by
  have hk : ∀ key, c'.regAt key = if 16 * (c.ctx.depth + 1) + 16 ≤ key ∧ key < 16 * (c.ctx.depth + 1) + 32 then {} else c.regAt key := by
    intro key
    have h := Core.regAt_freshFrame (c.modCtx fun x => { x with depth := c.ctx.depth + 1 }) (c.ctx.depth + 1) key
    rw [Core.regAt, hx, Core.pushFrame, Core.startSpill_xs]
    exact h
  refine ⟨hd, ?_, ?_, ?_, ?_⟩
  · intro n hn
    simp only [Core.reg, Core.key, physX, hn, if_true]
    split
    · rfl
    · rw [hk, if_neg]; omega
  · intro n h1 h2
    have h3 : ¬ n < 8 := by omega
    have h4 : ¬ n + 16 < 8 := by omega
    simp only [Core.reg, Core.key, physX, h3, h4, if_false, hd]
    rw [if_neg (by omega), if_neg (by omega), hk, if_neg (by omega)]
    congr 1; omega
  · intro n h1 h2
    have h3 : ¬ n < 8 := by omega
    simp only [Core.reg, Core.key, physX, h3, if_false, hd]
    rw [if_neg (by omega), hk, if_pos (by omega)]
  · intro key h
    rw [hk, if_neg (by omega)]

/-- A frame left makes an old frame. -/
theorem OldFrame.of_pop {c c' : Core} (hx : c'.xs = c.xs) (hd : c'.ctx.depth + 1 = c.ctx.depth) : OldFrame c c' := by
  refine ⟨hd, ?_, fun key => by simp only [Core.regAt, hx]⟩
  intro n h1 h2
  have h3 : ¬ n < 8 := by omega
  have h4 : ¬ n - 16 < 8 := by omega
  simp only [Core.reg, Core.key, physX, h3, h4, if_false, Core.regAt, hx]
  rw [if_neg (by omega), if_neg (by omega)]
  congr 1; omega

end Sys2Proof.Machine
end

