-- ==== Sys2Proof/Laws/Report.lean ====
section
/-! SUPPORT. What trace records and logged values leave as it was. -/

namespace Sys2Proof.Machine

/-- A trace record changes no memory. -/
@[simp] theorem State.traceOf_mem (s : State) (k job : Nat) (a : Act) (st : BitVec 32) (kind code aux : Nat) : (s.traceOf k job a st kind code aux).mem = s.mem := by
  unfold State.traceOf
  dsimp only
  repeat' (first | rfl | split)
/-- A trace record keeps the executing core. -/
@[simp] theorem State.traceOf_cur (s : State) (k job : Nat) (a : Act) (st : BitVec 32) (kind code aux : Nat) : (s.traceOf k job a st kind code aux).cur = s.cur := by
  unfold State.traceOf
  dsimp only
  repeat' (first | rfl | split)
/-- A trace record of a core changes no other core. -/
theorem State.traceOf_core_other (s : State) (k job : Nat) (a : Act) (st : BitVec 32) (kind code aux j : Nat) (h : j ≠ k) :
    (s.traceOf k job a st kind code aux).core j = s.core j := by
  unfold State.traceOf
  dsimp only
  repeat' (first | rfl | (rw [State.core_modCore, if_neg (Ne.symm h)]) | split)
/-- A trace record of a core changes its counters at most. -/
theorem State.traceOf_core (s : State) (k job : Nat) (a : Act) (st : BitVec 32) (kind code aux : Nat) :
    ∃ n, (s.traceOf k job a st kind code aux).core k = { s.core k with count := n } := by
  unfold State.traceOf
  dsimp only
  repeat' (first | exact ⟨_, rfl⟩ | (rw [State.core_modCore_same]; exact ⟨_, rfl⟩) | split)
/-- A trace record of the running activation changes no memory. -/
@[simp] theorem State.trace_mem (s : State) (k kind code aux : Nat) : (s.trace k kind code aux).mem = s.mem := by
  unfold State.trace State.traceAct; split <;> simp
/-- A trace record of the running activation keeps the executing core. -/
@[simp] theorem State.trace_cur (s : State) (k kind code aux : Nat) : (s.trace k kind code aux).cur = s.cur := by
  unfold State.trace State.traceAct; split <;> simp
/-- A trace record of the running activation changes no other core. -/
theorem State.trace_core_other (s : State) (k kind code aux j : Nat) (h : j ≠ k) : (s.trace k kind code aux).core j = s.core j := by
  unfold State.trace
  split
  · exact State.traceOf_core_other _ _ _ _ _ _ _ _ _ h
  · rfl
/-- A trace record of the running activation changes its core's counters at most. -/
theorem State.trace_core (s : State) (k kind code aux : Nat) : ∃ n, (s.trace k kind code aux).core k = { s.core k with count := n } := by
  unfold State.trace
  split
  · exact State.traceOf_core ..
  · exact ⟨_, rfl⟩
/-- A logged value changes its core's capture buffer at most. -/
theorem State.logAt_eq (s : State) (k n kind where_ : Nat) (v : BitVec 1024) :
    s.logAt k n kind where_ v = s ∨ ∃ l : Core → List LogEntry, s.logAt k n kind where_ v = s.modCore k fun c => { c with capBuf := l c } := by
  unfold State.logAt State.logOf
  split
  · split
    · exact .inr ⟨_, rfl⟩
    · exact .inl rfl
  · exact .inl rfl
/-- A logged value changes the capture buffer of its core at most. -/
theorem State.logAt_core (s : State) (k n kind where_ : Nat) (v : BitVec 1024) :
    ∃ l, (s.logAt k n kind where_ v).core k = { s.core k with capBuf := l } := by
  rcases State.logAt_eq s k n kind where_ v with h | ⟨l, h⟩
  · exact ⟨(s.core k).capBuf, by rw [h]⟩
  · exact ⟨l (s.core k), by rw [h, State.core_modCore_same]⟩
/-- A logged value changes no other core. -/
theorem State.logAt_core_other (s : State) (k n kind where_ : Nat) (v : BitVec 1024) (j : Nat) (hj : j ≠ k) :
    (s.logAt k n kind where_ v).core j = s.core j := by
  rcases State.logAt_eq s k n kind where_ v with h | ⟨l, h⟩
  · rw [h]
  · rw [h, State.core_modCore, if_neg (Ne.symm hj)]
/-- A logged value changes no memory. -/
@[simp] theorem State.logAt_mem (s : State) (k n kind where_ : Nat) (v : BitVec 1024) : (s.logAt k n kind where_ v).mem = s.mem := by
  rcases State.logAt_eq s k n kind where_ v with h | ⟨l, h⟩ <;> rw [h] <;> rfl
/-- A logged value keeps the executing core. -/
@[simp] theorem State.logAt_cur (s : State) (k n kind where_ : Nat) (v : BitVec 1024) : (s.logAt k n kind where_ v).cur = s.cur := by
  rcases State.logAt_eq s k n kind where_ v with h | ⟨l, h⟩ <;> rw [h] <;> rfl
/-- Logging a line changes its core's logged lines and capture buffer at most. -/
theorem State.logLineAt_core (s : State) (k n l : Nat) :
    ∃ g b, (s.logLineAt k n l).core k = { s.core k with logged := g, capBuf := b } := by
  unfold State.logLineAt
  dsimp only
  split
  · exact ⟨_, _, rfl⟩
  · obtain ⟨b, hb⟩ := State.logAt_core s k n 0 l (s.line (placePad k (128 * l)))
    rw [State.core_modCore_same, hb]; exact ⟨_, b, rfl⟩
/-- Logging a line changes no memory. -/
@[simp] theorem State.logLineAt_mem (s : State) (k n l : Nat) : (s.logLineAt k n l).mem = s.mem := by
  unfold State.logLineAt
  dsimp only
  split
  · rfl
  · simp
/-- Logging a line keeps the executing core. -/
@[simp] theorem State.logLineAt_cur (s : State) (k n l : Nat) : (s.logLineAt k n l).cur = s.cur := by
  unfold State.logLineAt
  dsimp only
  split
  · rfl
  · simp
/-- Logging a line changes no other core. -/
theorem State.logLineAt_core_other (s : State) (k n l j : Nat) (h : j ≠ k) : (s.logLineAt k n l).core j = s.core j := by
  unfold State.logLineAt
  dsimp only
  split
  · rfl
  · rw [State.core_modCore, if_neg (Ne.symm h), State.logAt_core_other _ _ _ _ _ _ _ h]

end Sys2Proof.Machine
end

