-- ==== Sys2Proof/Laws/Run.lean ====
section
/-! SUPPORT. What the passing of time can do: the clocks move, and the periodic work that is due touches no byte of memory and no core. -/

namespace Sys2Proof.Machine

/-- Two states with the same memory and the same cores. -/
def State.Still (s t : State) : Prop := t.mem = s.mem ∧ t.cores = s.cores ∧ t.cur = s.cur

theorem State.Still.refl (s : State) : s.Still s := ⟨rfl, rfl, rfl⟩
theorem State.Still.trans {s t u : State} (h : s.Still t) (g : t.Still u) : s.Still u :=
  ⟨g.1.trans h.1, g.2.1.trans h.2.1, g.2.2.trans h.2.2⟩

/-- A window's end. -/
theorem State.rampEnd_still (s : State) : s.Still s.rampEnd := by
  unfold State.rampEnd; split
  · exact .refl s
  · exact ⟨rfl, rfl, rfl⟩

/-- The switches of the slot tables. -/
theorem State.slotSwitches_still (s : State) : s.Still s.slotSwitches := ⟨rfl, rfl, rfl⟩

/-- A forward taken at its group's home. -/
theorem State.takeForward_still (s : State) (id : Nat) : s.Still (s.takeForward id) := by
  unfold State.takeForward; split
  · exact ⟨rfl, rfl, rfl⟩
  · exact .refl s

/-- The forwards that a broadcast must carry. -/
theorem State.takeOldForwards_still (s : State) : s.Still s.takeOldForwards := by
  unfold State.takeOldForwards
  generalize s.fwds.filter _ = l
  induction l generalizing s with
  | nil => exact .refl s
  | cons f t ih => exact (s.takeForward_still f.id).trans (ih _)

/-- The broadcast of the flags. -/
theorem State.broadcastFlags_still (s : State) : s.Still s.broadcastFlags := by
  unfold State.broadcastFlags; split
  · exact .refl s
  · exact ⟨rfl, rfl, rfl⟩

/-- The floors. -/
theorem State.publishFloor_still (s : State) : s.Still s.publishFloor := by
  unfold State.publishFloor; split
  · exact .refl s
  · exact ⟨rfl, rfl, rfl⟩

/-- The sample of the levels. -/
theorem State.sampleLevels_still (s : State) : s.Still s.sampleLevels := by
  unfold State.sampleLevels; split
  · exact .refl s
  · exact ⟨rfl, rfl, rfl⟩

/-- The balancer's reading. -/
theorem State.balance_still (s : State) : s.Still s.balance := by
  unfold State.balance; split
  · exact .refl s
  · exact ⟨rfl, rfl, rfl⟩

/-- The reconcile timer. -/
theorem State.raiseReconcile_still (s : State) : s.Still s.raiseReconcile := by
  unfold State.raiseReconcile; split
  · exact .refl s
  · exact ⟨rfl, rfl, rfl⟩

/-- The passing of a step's time. -/
theorem State.pass_still (s : State) : s.Still s.pass :=
  (((((((show s.Still s.tick from ⟨rfl, rfl, rfl⟩).trans (State.rampEnd_still _)).trans (State.slotSwitches_still _)).trans
    (State.takeOldForwards_still _)).trans
    (State.broadcastFlags_still _)).trans (State.publishFloor_still _)).trans (State.sampleLevels_still _)).trans
    ((State.balance_still _).trans (State.raiseReconcile_still _))

/-- The passing of time keeps the memory's canonical form. -/
theorem State.pass_wf {s : State} (h : Memory.wf s.mem = true) : Memory.wf s.pass.mem = true := by rw [s.pass_still.1]; exact h

end Sys2Proof.Machine
end

