-- ==== Sys2Proof/Tests/Slice0.lean ====
section
/-! SUPPORT. Tests: ill-formed terms that WellFormed refuses, words written out from the spec's encodings, a state that meets the premises of each statement
(witness_<statement>), and results the rules of spec/ give (test_). -/

namespace Sys2Proof.Tests
open Sys2Proof Sys2Proof.Machine
set_option Elab.async false

/-! Ill-formed terms: one for each check of `Instr.wf`, refused. -/

theorem test_wf_refuses_orderings :
    (Instr.ldOrdered .d false 6 5 ⟨6, false⟩).wf = false ∧ (Instr.ldp .d false 3 5 ⟨6, false⟩).wf = false
    ∧ (Instr.stOrdered .d 5 ⟨6, false⟩ ⟨7, false⟩).wf = false ∧ (Instr.stOrdered .d 11 ⟨6, false⟩ ⟨7, false⟩).wf = false
    ∧ (Instr.amoCasD 0 5 ⟨6, false⟩ ⟨7, false⟩).wf = false ∧ (Instr.amoCasD 0 5 ⟨6, false⟩ ⟨0, false⟩).wf = false
    ∧ (Instr.fence 5).wf = false := by
  decide +kernel

theorem test_wf_refuses_numbers :
    (Instr.csrr 5 0x006).wf = false ∧ (Instr.csrw 0x016 ⟨6, false⟩).wf = false ∧ (Instr.csrs 0x034 ⟨6, false⟩).wf = false
    ∧ (Instr.csrc 0x140 ⟨6, false⟩).wf = false ∧ (Instr.vwGet 5 3 6).wf = false ∧ (Instr.cpw 14 ⟨6, false⟩).wf = false ∧ (Instr.cpr 5 15).wf = false
    ∧ (Instr.allotGrow 0).wf = false ∧ (Instr.allotGrow 5).wf = false ∧ (Instr.allotShrink 0).wf = false ∧ (Instr.allotShrink 5).wf = false := by
  decide +kernel

theorem test_wf_refuses_types :
    (Instr.vfma .s8 1 2 3 0).wf = false ∧ (Instr.vabs .z8 1 2 0).wf = false ∧ (Instr.vneg .z64 1 2 0).wf = false ∧ (Instr.vand .f32 1 2 3 0).wf = false
    ∧ (Instr.vor .bf 1 2 3 0).wf = false ∧ (Instr.vxor .hf 1 2 3 0).wf = false ∧ (Instr.vsll .f32 1 2 3 0).wf = false ∧ (Instr.vsrl .bf 1 2 3 0).wf = false
    ∧ (Instr.vsra .hf 1 2 3 0).wf = false ∧ (Instr.vlut .s8 1 2 3 0).wf = false ∧ (Instr.vexp2 .s16 1 2 0).wf = false ∧ (Instr.vrcp .z32 1 2 0).wf = false
    ∧ (Instr.vrsqrt .s64 1 2 0).wf = false ∧ (Instr.vdot .f32 1 2 3 0).wf = false ∧ (Instr.vdot .s16 1 2 3 0).wf = false := by
  decide +kernel

theorem test_wf_refuses_conversions :
    (Instr.cvt .z8 .f32 .rne false 1 2 0).wf = false ∧ (Instr.cvt .f32 .f32 .rne false 1 2 0).wf = false ∧ (Instr.cvt .f8a .f32 .rne true 1 2 0).wf = false
    ∧ (Instr.mma .bfbf false false false 0 1 2 ⟨3, false⟩).wf = false ∧ (Instr.mma .f8af8a false false true 0 1 2 ⟨0, false⟩).wf = false := by
  decide +kernel

/-- The words that would hold them decode to nothing: R48 to R58 call those encodings undefined. -/
theorem test_decode_refuses_undefined :
    decode 0x30637284 = none ∧ decode 0x00000000 = none ∧ decode 0x00C0028F = none ∧ decode 0x0000500D = none ∧ decode 0xE875748C = none
    ∧ decode 0x060030A3 = none ∧ decode 0xB0003023 = none ∧ decode 0x0C028233 = none ∧ decode 0x00028230 = none ∧ decode 0x0000005F = none := by
  decide +kernel


/-! Decoding: for every instruction a word written out from its row of the operation table (spec/03_formats.md R35 to R58), all reserved bits one. -/

theorem test_decode_integer0 :
    decode 0x04830281 = some (.add 5 ⟨6, false⟩ ⟨8, true⟩)
    ∧ decode 0x0C830281 = some (.sub 5 ⟨6, false⟩ ⟨8, true⟩)
    ∧ decode 0x14830281 = some (.and 5 ⟨6, false⟩ ⟨8, true⟩)
    ∧ decode 0x1C830281 = some (.or 5 ⟨6, false⟩ ⟨8, true⟩)
    ∧ decode 0x24830281 = some (.xor 5 ⟨6, false⟩ ⟨8, true⟩)
    ∧ decode 0x2C830281 = some (.andn 5 ⟨6, false⟩ ⟨8, true⟩)
    ∧ decode 0x34830281 = some (.sll 5 ⟨6, false⟩ ⟨8, true⟩)
    ∧ decode 0x3C830281 = some (.srl 5 ⟨6, false⟩ ⟨8, true⟩)
    ∧ decode 0x44830281 = some (.sra 5 ⟨6, false⟩ ⟨8, true⟩)
    ∧ decode 0x4C830281 = some (.rol 5 ⟨6, false⟩ ⟨8, true⟩)
    ∧ decode 0x54830281 = some (.slt 5 ⟨6, false⟩ ⟨8, true⟩)
    ∧ decode 0x5C830281 = some (.sltz 5 ⟨6, false⟩ ⟨8, true⟩)
    ∧ decode 0x64830281 = some (.mul 5 ⟨6, false⟩ ⟨8, true⟩)
    ∧ decode 0x6C830281 = some (.mulh 5 ⟨6, false⟩ ⟨8, true⟩) := by
  decide +kernel

theorem test_decode_integer1 :
    decode 0x74830281 = some (.mulhz 5 ⟨6, false⟩ ⟨8, true⟩)
    ∧ decode 0x7C830281 = some (.div 5 ⟨6, false⟩ ⟨8, true⟩)
    ∧ decode 0x84830281 = some (.divz 5 ⟨6, false⟩ ⟨8, true⟩)
    ∧ decode 0x8C830281 = some (.rem 5 ⟨6, false⟩ ⟨8, true⟩)
    ∧ decode 0x94830281 = some (.remz 5 ⟨6, false⟩ ⟨8, true⟩)
    ∧ decode 0x9C830281 = some (.min 5 ⟨6, false⟩ ⟨8, true⟩)
    ∧ decode 0xA4830281 = some (.max 5 ⟨6, false⟩ ⟨8, true⟩)
    ∧ decode 0xAC830281 = some (.minz 5 ⟨6, false⟩ ⟨8, true⟩)
    ∧ decode 0xB4830281 = some (.maxz 5 ⟨6, false⟩ ⟨8, true⟩)
    ∧ decode 0xBDF30281 = some (.clz 5 ⟨6, false⟩)
    ∧ decode 0xC5F30281 = some (.ctz 5 ⟨6, false⟩)
    ∧ decode 0xCDF30281 = some (.popc 5 ⟨6, false⟩)
    ∧ decode 0xD4830281 = some (.ins 5 ⟨6, false⟩ ⟨8, true⟩)
    ∧ decode 0xDC830281 = some (.ext 5 ⟨6, false⟩ ⟨8, true⟩) := by
  decide +kernel

theorem test_decode_integer2 :
    decode 0xAB430282 = some (.addi 5 ⟨6, false⟩ 1370)
    ∧ decode 0xAB431282 = some (.andi 5 ⟨6, false⟩ 1370)
    ∧ decode 0xAB432282 = some (.ori 5 ⟨6, false⟩ 1370)
    ∧ decode 0xAB433282 = some (.xori 5 ⟨6, false⟩ 1370)
    ∧ decode 0xAB434282 = some (.slti 5 ⟨6, false⟩ 1370)
    ∧ decode 0xAB435282 = some (.sltzi 5 ⟨6, false⟩ 1370)
    ∧ decode 0x3CA36282 = some (.slli 5 ⟨6, false⟩ 37)
    ∧ decode 0x7CA36282 = some (.srli 5 ⟨6, false⟩ 37)
    ∧ decode 0xBCA36282 = some (.srai 5 ⟨6, false⟩ 37)
    ∧ decode 0x5555A283 = some (.liu 5 349530)
    ∧ decode 0x5555A29A = some (.addpc 5 349530) := by
  decide +kernel

theorem test_decode_control :
    decode 0x54830D06 = some (.beq ⟨6, false⟩ ⟨8, true⟩ 346)
    ∧ decode 0x54831D06 = some (.bne ⟨6, false⟩ ⟨8, true⟩ 346)
    ∧ decode 0x54832D06 = some (.blt ⟨6, false⟩ ⟨8, true⟩ 346)
    ∧ decode 0x54833D06 = some (.bge ⟨6, false⟩ ⟨8, true⟩ 346)
    ∧ decode 0x54834D06 = some (.bltz ⟨6, false⟩ ⟨8, true⟩ 346)
    ∧ decode 0x54835D06 = some (.bgez ⟨6, false⟩ ⟨8, true⟩ 346)
    ∧ decode 0xAAAAAD07 = some (.j 22369626)
    ∧ decode 0xAAAAAD08 = some (.call 22369626)
    ∧ decode 0x05F37F89 = some (.jr ⟨6, false⟩)
    ∧ decode 0x0DF37F89 = some (.callr ⟨6, false⟩)
    ∧ decode 0x17FFFF89 = some (.ret) := by
  decide +kernel

theorem test_decode_fp0 :
    decode 0x0483728A = some (.fadd .d 5 ⟨6, false⟩ ⟨8, true⟩)
    ∧ decode 0x0C83728A = some (.fsub .d 5 ⟨6, false⟩ ⟨8, true⟩)
    ∧ decode 0x1483728A = some (.fmul .d 5 ⟨6, false⟩ ⟨8, true⟩)
    ∧ decode 0x1C83728A = some (.fdiv .d 5 ⟨6, false⟩ ⟨8, true⟩)
    ∧ decode 0x25F3728A = some (.fsqrt .d 5 ⟨6, false⟩)
    ∧ decode 0x2C83728A = some (.fmin .d 5 ⟨6, false⟩ ⟨8, true⟩)
    ∧ decode 0x3483728A = some (.fmax .d 5 ⟨6, false⟩ ⟨8, true⟩)
    ∧ decode 0x3C83328A = some (.fcmp .d .lt 5 ⟨6, false⟩ ⟨8, true⟩)
    ∧ decode 0x45F3728A = some (.fclass .d 5 ⟨6, false⟩)
    ∧ decode 0x4DF3328A = some (.fcvtToFp .d .s64 5 ⟨6, false⟩)
    ∧ decode 0x55F3728A = some (.fcvtS64 .d true 5 ⟨6, false⟩)
    ∧ decode 0x5DF3728A = some (.fcvtZ64 .d true 5 ⟨6, false⟩)
    ∧ decode 0x4C83628B = some (.csel 5 ⟨6, false⟩ ⟨8, true⟩ ⟨9, true⟩)
    ∧ decode 0x4C83428B = some (.fmaS 5 ⟨6, false⟩ ⟨8, true⟩ ⟨9, true⟩) := by
  decide +kernel

theorem test_decode_fp1 :
    decode 0x4C83528B = some (.fmaD 5 ⟨6, false⟩ ⟨8, true⟩ ⟨9, true⟩) := by
  decide +kernel

theorem test_decode_memory0 :
    decode 0xAB434284 = some (.ld .bz 5 ⟨6, false⟩ 1370)
    ∧ decode 0x6D437284 = some (.ldOrdered .w true 4 5 ⟨6, false⟩)
    ∧ decode 0x9DE37284 = some (.ldp .h false 2 5 ⟨6, false⟩)
    ∧ decode 0x54831D05 = some (.st .h ⟨8, true⟩ ⟨6, false⟩ 346)
    ∧ decode 0xBC837F85 = some (.stOrdered .d 7 ⟨8, true⟩ ⟨6, false⟩)
    ∧ decode 0x3C83028C = some (.amoAdd 3 true 5 ⟨6, false⟩ ⟨8, true⟩)
    ∧ decode 0x3C83128C = some (.amoAnd 3 true 5 ⟨6, false⟩ ⟨8, true⟩)
    ∧ decode 0x3C83228C = some (.amoOr 3 true 5 ⟨6, false⟩ ⟨8, true⟩)
    ∧ decode 0x3C83328C = some (.amoXor 3 true 5 ⟨6, false⟩ ⟨8, true⟩)
    ∧ decode 0x3C83428C = some (.amoMin 3 true 5 ⟨6, false⟩ ⟨8, true⟩)
    ∧ decode 0x3C83528C = some (.amoMax 3 true 5 ⟨6, false⟩ ⟨8, true⟩)
    ∧ decode 0x3C83628C = some (.amoSwap 3 true 5 ⟨6, false⟩ ⟨8, true⟩)
    ∧ decode 0x3483728C = some (.amoFaddW 3 5 ⟨6, false⟩ ⟨8, true⟩)
    ∧ decode 0x3C83728C = some (.amoCasD 3 5 ⟨6, false⟩ ⟨8, true⟩) := by
  decide +kernel

theorem test_decode_memory1 :
    decode 0x07FFBF8D = some (.fence 3)
    ∧ decode 0x0DF37F8D = some (.lmarkE ⟨6, false⟩)
    ∧ decode 0x15F37F8D = some (.lmarkF ⟨6, false⟩)
    ∧ decode 0x1DF37F8D = some (.lwaitf ⟨6, false⟩)
    ∧ decode 0x25F3728D = some (.ltest 5 ⟨6, false⟩)
    ∧ decode 0x2C837F8D = some (.l1Inv ⟨6, false⟩ ⟨8, true⟩)
    ∧ decode 0x34837F8D = some (.l1Wb ⟨6, false⟩ ⟨8, true⟩)
    ∧ decode 0x3C837F8D = some (.iinv ⟨6, false⟩ ⟨8, true⟩)
    ∧ decode 0xAB43428E = some (.rld .bz 5 ⟨6, false⟩ 1370)
    ∧ decode 0xFFFFFF8E = some (.rstSync) := by
  decide +kernel

theorem test_decode_csr :
    decode 0x067F828F = some (.csrr 5 51)
    ∧ decode 0x06631F8F = some (.csrw 51 ⟨6, false⟩)
    ∧ decode 0x06632F8F = some (.csrs 51 ⟨6, false⟩)
    ∧ decode 0x06633F8F = some (.csrc 51 ⟨6, false⟩) := by
  decide +kernel

theorem test_decode_view :
    decode 0x04837D90 = some (.vwSet 11 ⟨6, false⟩ ⟨8, true⟩)
    ∧ decode 0x0C832D90 = some (.vwDim 11 2 ⟨6, false⟩ ⟨8, true⟩)
    ∧ decode 0x15F37D90 = some (.vwFmt 11 ⟨6, false⟩)
    ∧ decode 0x07F33291 = some (.vwGet 5 6 3)
    ∧ decode 0x0E837291 = some (.vwLd 5 6 ⟨8, true⟩)
    ∧ decode 0x16837291 = some (.vwSt 5 6 ⟨8, true⟩)
    ∧ decode 0x1E837291 = some (.vwMeet 5 6 8)
    ∧ decode 0x27F37F91 = some (.vwRet 6) := by
  decide +kernel

theorem test_decode_copy :
    decode 0x0DF30F92 = some (.cpw 1 ⟨6, false⟩)
    ∧ decode 0x0FFF9292 = some (.cpr 5 1)
    ∧ decode 0xFC832292 = some (.cpgo 5 ⟨6, false⟩ ⟨8, true⟩)
    ∧ decode 0xFDF33F92 = some (.cpcancel ⟨6, false⟩)
    ∧ decode 0x05F37293 = some (.tagWany 5 ⟨6, false⟩)
    ∧ decode 0x0DF37F93 = some (.tagWall ⟨6, false⟩)
    ∧ decode 0x15F37293 = some (.tagFfr 5 ⟨6, false⟩)
    ∧ decode 0x1DF37F93 = some (.tagClr ⟨6, false⟩)
    ∧ decode 0x25F37293 = some (.tagTest 5 ⟨6, false⟩) := by
  decide +kernel

theorem test_decode_message :
    decode 0x04835F94 = some (.msgSend 5 ⟨6, false⟩ ⟨8, true⟩)
    ∧ decode 0x0C835F94 = some (.msgSendv 5 ⟨6, false⟩ 8)
    ∧ decode 0x14835F94 = some (.msgMcast 5 ⟨6, false⟩ ⟨8, true⟩)
    ∧ decode 0x1C835F94 = some (.msgReply 5 ⟨6, false⟩ ⟨8, true⟩)
    ∧ decode 0x24835F94 = some (.msgAt 5 ⟨6, false⟩ ⟨8, true⟩)
    ∧ decode 0x2DF37F94 = some (.msgFwd ⟨6, false⟩)
    ∧ decode 0x37FFFF94 = some (.msgDone)
    ∧ decode 0x04837F95 = some (.actRetire ⟨6, false⟩ ⟨8, true⟩)
    ∧ decode 0x0C837F95 = some (.actPin ⟨6, false⟩ ⟨8, true⟩)
    ∧ decode 0x14837F95 = some (.actUnpin ⟨6, false⟩ ⟨8, true⟩)
    ∧ decode 0x1C837F95 = some (.actMove ⟨6, false⟩ ⟨8, true⟩)
    ∧ decode 0x24837295 = some (.actProbe 5 ⟨6, false⟩ ⟨8, true⟩) := by
  decide +kernel

theorem test_decode_task :
    decode 0x04837F96 = some (.fork ⟨6, false⟩ ⟨8, true⟩)
    ∧ decode 0x0C837F96 = some (.jcInit ⟨6, false⟩ ⟨8, true⟩)
    ∧ decode 0x15F37F96 = some (.jcArrive ⟨6, false⟩)
    ∧ decode 0x1C837F96 = some (.depInit ⟨6, false⟩ ⟨8, true⟩)
    ∧ decode 0x25F37F96 = some (.depDec ⟨6, false⟩)
    ∧ decode 0x2DF37296 = some (.depRead 5 ⟨6, false⟩)
    ∧ decode 0x073FF297 = some (.barArrive 5 3)
    ∧ decode 0x0D337F97 = some (.barWait ⟨6, false⟩ 3)
    ∧ decode 0x15F37F97 = some (.floorWait ⟨6, false⟩)
    ∧ decode 0x1DF37F97 = some (.stampSet ⟨6, false⟩) := by
  decide +kernel

theorem test_decode_system :
    decode 0x05F37F98 = some (.trap ⟨6, false⟩)
    ∧ decode 0x0FFFFF98 = some (.eret)
    ∧ decode 0x17FFFF98 = some (.ebreak)
    ∧ decode 0x1FFFFF98 = some (.ppt)
    ∧ decode 0x24837F98 = some (.tlbi ⟨6, false⟩ ⟨8, true⟩)
    ∧ decode 0x05337F99 = some (.allotSet ⟨6, false⟩ 3)
    ∧ decode 0x0FBFFF99 = some (.allotGrow 3)
    ∧ decode 0x17BFFF99 = some (.allotShrink 3)
    ∧ decode 0x1E8FFF99 = some (.allotMirror 8)
    ∧ decode 0x27FFF299 = some (.allotQuery 5) := by
  decide +kernel

theorem test_decode_vector0 :
    decode 0x008332A3 = some (.vadd .s8 5 6 8 3)
    ∧ decode 0x028332A3 = some (.vsub .s8 5 6 8 3)
    ∧ decode 0x048332A3 = some (.vmul .s8 5 6 8 3)
    ∧ decode 0x068332A1 = some (.vfma .bf 5 6 8 3)
    ∧ decode 0x088332A3 = some (.vmin .s8 5 6 8 3)
    ∧ decode 0x0A8332A3 = some (.vmax .s8 5 6 8 3)
    ∧ decode 0x0DF332A3 = some (.vabs .s8 5 6 3)
    ∧ decode 0x0FF332A3 = some (.vneg .s8 5 6 3)
    ∧ decode 0x108332A9 = some (.vand .z32 5 6 8 3)
    ∧ decode 0x128332A9 = some (.vor .z32 5 6 8 3)
    ∧ decode 0x148332A9 = some (.vxor .z32 5 6 8 3)
    ∧ decode 0x168332A9 = some (.vsll .z32 5 6 8 3)
    ∧ decode 0x188332A9 = some (.vsrl .z32 5 6 8 3)
    ∧ decode 0x1A8332A9 = some (.vsra .z32 5 6 8 3) := by
  decide +kernel

theorem test_decode_vector1 :
    decode 0x228332A3 = some (.vcmp .ne .s8 5 6 8 3)
    ∧ decode 0x2C8332A3 = some (.vsel .s8 5 6 8 3)
    ∧ decode 0x31F332A3 = some (.vredsum .s8 5 6 3)
    ∧ decode 0x33F332A3 = some (.vredmax .s8 5 6 3)
    ∧ decode 0x35F332A3 = some (.vredmin .s8 5 6 3)
    ∧ decode 0x37F332A3 = some (.vmaxidx .s8 5 6 3)
    ∧ decode 0x408332A3 = some (.vperm .s8 5 6 8 3)
    ∧ decode 0x43F332A3 = some (.vbcast .s8 5 6 3)
    ∧ decode 0x448332A3 = some (.vins .s8 5 6 8 3)
    ∧ decode 0x468372A3 = some (.vext .s8 5 6 8)
    ∧ decode 0x49F332A3 = some (.vld .s8 5 6 3)
    ∧ decode 0x4BF332A3 = some (.vst .s8 5 6 3)
    ∧ decode 0x508332A1 = some (.vlut .bf 5 6 8 3)
    ∧ decode 0x53F332A1 = some (.vexp2 .bf 5 6 3) := by
  decide +kernel

theorem test_decode_vector2 :
    decode 0x55F332A1 = some (.vrcp .bf 5 6 3)
    ∧ decode 0x57F332A1 = some (.vrsqrt .bf 5 6 3)
    ∧ decode 0x588332A7 = some (.vdot .z8 5 6 8 3)
    ∧ decode 0x008372AB = some (.mand 5 6 0)
    ∧ decode 0x028372AB = some (.mor 5 6 0)
    ∧ decode 0x05F372AB = some (.mnot 5 6)
    ∧ decode 0x07F372AB = some (.mpop 5 6) := by
  decide +kernel

theorem test_decode_convert :
    decode 0x0BF332B4 = some (.cvt .f8b .f32 .sr true 5 6 3)
    ∧ decode 0xB48332BC = some (.mxPack .i8 .hf .sr 5 6 8 3)
    ∧ decode 0xB48332BD = some (.mxUnpack .hf .i8 .sr 5 6 8 3)
    ∧ decode 0xF68332BE = some (.mxScale .hf 5 6 8 3) := by
  decide +kernel

theorem test_decode_matrix :
    decode 0xFFFFF2C0 = some (.matZero 1)
    ∧ decode 0xFFF372C1 = some (.matRd 5 2)
    ∧ decode 0xFC837FC2 = some (.matSlot ⟨6, false⟩ ⟨8, true⟩)
    ∧ decode 0xFFF37FC3 = some (.matLdb 6)
    ∧ decode 0xFDF37FC4 = some (.matRing ⟨6, false⟩)
    ∧ decode 0xFFF37FC5 = some (.matWait 2)
    ∧ decode 0xFFF372C6 = some (.matSatc 5 2)
    ∧ decode 0x02986CD3 = some (.mma .f8af8b true true false 1 6 8 ⟨9, true⟩)
    ∧ decode 0xFFFFFFF5 = some (.nop) := by
  decide +kernel


/-! The states of the tests. -/

/-- Core 0 runs an activation of class 64 of job 1, which has a page table of one page of 1 GiB at 2^40, all clusters, a pool of curds, a class with a handler table, and code. -/
def world : State :=
  let s := State.reset.withFetchWord 32 0x70
  let s := (s.modJob 1 fun j => { j with root := 0x10000, code := 0x10000000000, codelen := 4096, cset := BitVec.allOnes 768, poolBase := 100, poolLines := 8 }).modCls 64
    fun _ => { loadedClass with hbase := 0x10000000000, caveb := 0x10000010000, nbkt := 1, curdl := 1, quota := 1, idle := 5, init := 0xFFFFFFFF }
  let s : State := { s with domains := [(0, ⟨1, 0xFF⟩)] }
  let s := (s.store 0x10010 8 0x20001).store 0x20000 8 0x40000007
  let s := s.modCluster 0 fun c => { c with tlb := [⟨1, 0x10000000000, 0x40000000, 0x40000007⟩] }
  { s with nextId := 50, dtime := 10, cyc10 := 180 }

/-- A source with E = 0. -/
def r (n : BitVec 5) : Src := ⟨n, false⟩
/-- A source with E = 1. -/
def re (n : BitVec 5) : Src := ⟨n, true⟩
/-- `world` with registers. -/
def regs (l : List (BitVec 5 × XWord)) : State := world.modC fun c => l.foldl (fun c p => c.setX p.1 p.2) c
/-- What an instruction leaves is judged. -/
def runs (i : Instr) (s : State) (p : State → Bool) : Bool := match exec i s with | .next t => p t | _ => false
/-- A register of the executing core is empty. -/
def hole (s : State) (n : BitVec 5) : State := s.modC fun c => c.setEmptyKey (c.destKey n)
/-- A packet for an endpoint, arrived. -/
def arrived (dst src : Nat) (b : Body) : Packet := { id := 7, cls := 2, src := src, dst := dst, holder := src, loc := .arrived, body := b }
/-- `s` with one packet on the network. -/
def got (s : State) (p : Packet) : State := { s with net := [p] }

theorem world_memOk : world.MemOk := by unfold State.MemOk; decide +kernel


/-! Witnesses: for each statement a state and operands that meet its hypotheses; for a statement of several clauses, one for each, at boundary values. -/

theorem witness_EncodeThenDecode : (Instr.amoCasD 15 5 (r 6) (r 30)).wf = true ∧ (Instr.amoCasD 15 5 (r 6) (r 30)).isWord = true := by decide +kernel
theorem witness_DecodedIsWellFormed : decode 0xF04500FF = some .nop ∧ decode 0x00730281 = some (.add 5 (r 6) (r 7)) := by decide +kernel

/-- The next move is core 0's, and its word decodes, or is none. -/
theorem witness_StepRunsDecoded : world.schedule = [.core 0] ∧ world.CanRun 0 0x70 ∧ decode 0x70 = some .nop
    ∧ (State.withFetchWord world 32 0x1B).CanRun 0 0x1B ∧ decode 0x1B = none :=
  ⟨by decide +kernel, by constructor <;> decide +kernel, by decide +kernel, by constructor <;> decide +kernel, by decide +kernel⟩
/-- Tag 0 or tag 15 names the block of PC. -/
theorem witness_StepRunsDecoded_fetch :
    (tagOf (world.blockTag 0 0) (world.core 0).jobNum = true ∧ tagBlock (world.blockTag 0 0) = (world.core 0).pc.toNat / 4096 ∧ ((world.core 0).pc = class0Entry → (world.core 0).inClass0 = false))
    ∧ (let s := (world.store (tagPlace 0 0) 8 0).store (tagPlace 0 15) 8 (2 ^ 63 + 2 ^ 40)
       tagOf (s.blockTag 0 15) (s.core 0).jobNum = true ∧ tagBlock (s.blockTag 0 15) = (s.core 0).pc.toNat / 4096
       ∧ ∀ j, j < 15 → ¬ (tagOf (s.blockTag 0 j) (s.core 0).jobNum = true ∧ tagBlock (s.blockTag 0 j) = (s.core 0).pc.toNat / 4096)) := by
  decide +kernel
/-- The first instruction of an activation. -/
def first : State := world.modC fun c => { c with entering := true }
theorem witness_StepRunsDecoded_first :
    first.schedule = [.core 0] ∧ first.CanRun 0 0x70 ∧ (first.core 0).entering = true ∧ ((first.entered 0).core 0).entering = false ∧ ((first.entered 0).core 0).pc = 0 :=
  ⟨by decide +kernel, by constructor <;> decide +kernel, by decide +kernel, by decide +kernel, by decide +kernel⟩
theorem witness_StepKeepsMemoryCanonical : world.MemOk ∧ (match step world with | .next t => decide (t.dtime = 11) | _ => false) = true :=
  ⟨world_memOk, by decide +kernel⟩
theorem witness_CanonicalMemoryAndByteOrder : Memory.wf [(0, 1), (2 ^ 70, 255)] = true ∧ ((world.store 5 8 (2 ^ 64 + 3)).load 5 8 = 3) := by decide +kernel

/-- Quotients at the ends of their ranges: by zero, of the least number by −1. -/
def intState : State := regs [(6, 0x8000000000000000), (7, -1), (8, 0), (9, 0x2003)]
theorem witness_IntegerOperationResults : intState.Ready (src2 (r 6) (r 7)) 5 ∧ intState.Ready (src2 (r 6) (r 8)) 0 ∧ intState.Ready (src1 (r 8)) 31
    ∧ intState.Ready (src2 (r 6) (r 9) ++ [plainSrc 5 3]) 5 ∧ intState.c.x 6 = 2 ^ 63 ∧ intState.c.x 7 = -1 ∧ intState.c.x 8 = 0 := by
  refine ⟨?_, ?_, ?_, ?_, by decide +kernel, by decide +kernel, by decide +kernel⟩ <;> constructor <;> (try unfold Core.SrcsReady Core.Sound)
    <;> (try unfold Core.DestReady) <;> (try unfold Core.LogRoom) <;> decide +kernel
theorem witness_ImmediateAndSelectResults : intState.Ready (src1 (r 6)) 5 ∧ intState.c.DestReady 0 ∧ intState.c.LogRoom ∧ intState.Ready (src3 (r 6) (r 7) (r 8)) 5 := by
  refine ⟨?_, by unfold Core.DestReady; decide +kernel, by unfold Core.LogRoom; decide +kernel, ?_⟩ <;> constructor <;> (try unfold Core.SrcsReady Core.Sound)
    <;> (try unfold Core.DestReady) <;> (try unfold Core.LogRoom) <;> decide +kernel
theorem witness_BranchAndJumpTargets : intState.c.LogRoom ∧ intState.c.SrcsReady (src2 (r 6) (r 7)) ∧ (intState.c.x 8).toNat % 4 = 0 ∧ (intState.c.x 7).toNat % 4 ≠ 0 := by
  unfold Core.LogRoom Core.SrcsReady Core.Sound; decide +kernel
theorem witness_EmptyOperandsWaitOrTrap :
    ((hole intState 6).c.reg 6).full = false ∧ (hole intState 7).c.SrcsReady (src2 (r 6) (r 8)) ∧ ¬ (hole intState 7).c.DestReady 7
    ∧ ((hole intState 7).c.reg 6).full = true := by
  unfold Core.SrcsReady Core.DestReady Core.Sound; decide +kernel


/-- A trap handler at 0x800, and the state within it. -/
def handling : State := (regs [(6, 0x1234), (15, 0x40)]).modC fun c => { c with ctx := { c.ctx with tvecEn := true, tvecAddr := 0x200 } }
def inHandler : State := match exec (.trap (r 6)) handling with | .next t => t | _ => handling
theorem handling_ready : handling.HandlerReady := by constructor <;> decide +kernel

theorem witness_CallAndReturnFrames :
    (world.c.ctx.depth < 65535 ∧ 0 < world.c.freeSlots ∧ world.c.DestReady 31 ∧ world.c.LogRoom ∧ world.c.SrcsReady (src1 (r 0)) ∧ (world.c.x 0).toNat % 4 = 0)
    ∧ world.c.ctx.depth = 0
    ∧ (let s := inHandler.modC fun c => c.setX 15 0x40
       0 < s.c.ctx.depth ∧ s.c.SrcsReady [plainSrc 15 0] ∧ (s.c.x 15).toNat % 4 = 0 ∧ (∀ n, 16 ≤ n → n < 32 → (s.c.reg n).full = true)
       ∧ s.c.ctx.spilled < s.c.ctx.depth ∧ s.c.LogRoom) := by
  unfold Core.SrcsReady Core.DestReady Core.LogRoom Core.Sound; decide +kernel
theorem witness_SystemTrapsEnterHandler : handling.HandlerReady ∧ handling.c.SrcsReady (src1 (r 6)) ∧ handling.jobHeld handling.cur = false :=
  ⟨handling_ready, by unfold Core.SrcsReady Core.Sound; decide +kernel, by decide +kernel⟩
theorem witness_TrapReturnAndContainment :
    (inHandler.c.ctx.status.intrap = true ∧ inHandler.c.ctx.depth = inHandler.c.ctx.status.tdepth.toNat + 1 ∧ inHandler.c.ctx.status.decline = false
      ∧ inHandler.c.ctx.epc.toNat % 4 = 0 ∧ (∀ n, 16 ≤ n → n < 32 → (inHandler.c.reg n).full = true) ∧ inHandler.c.LogRoom)
    ∧ world.c.ctx.status.intrap = false ∧ (inHandler.modC fun c => { c with ctx := { c.ctx with epc := 1 } }).c.ctx.epc.toNat % 4 ≠ 0
    ∧ inHandler.c.vq = [] ∧ inHandler.c.timers = [] ∧ world.c.ctx.tvecEn = false := by
  unfold Core.LogRoom; decide +kernel

theorem witness_ScalarFpCompletes : intState.Ready (src3 (r 6) (r 7) (r 8)) 5 ∧ intState.Ready (src2 (r 6) (r 6)) 0 := by
  refine ⟨?_, ?_⟩ <;> constructor <;> (try unfold Core.SrcsReady Core.Sound) <;> (try unfold Core.DestReady) <;> (try unfold Core.LogRoom) <;> decide +kernel
/-- The bounds of the NaNs of both precisions. -/
theorem witness_NanAndInvalidResults :
    (let isNan (x : XWord) : Bool := x.toNat / 2 ^ 52 % 2048 = 2047 && x.toNat % 2 ^ 52 ≠ 0
     isNan 0x7FF0000000000001 = true ∧ isNan 0x7FF8000000000000 = true ∧ isNan 0x7FF0000000000000 = false)
    ∧ (faddFn .d 0x7FF0000000000001 0).2 = 1 ∧ (fdivFn .d 1 0x8000000000000000) = (0xFFF0000000000000, 2) := by
  decide +kernel
theorem witness_RoundingToNearestEven : roundUnit 5 0 1 false .rne = (2, true) ∧ roundUnit 7 0 1 false .rne = (4, true) ∧ roundUnit 6 1 1 true .rne = (6, true) := by
  decide +kernel
/-- Finite operands of both precisions: the greatest, the least, and zeros of both signs. -/
theorem witness_RoundingToNearestEven_values :
    (let fin (mb eb : Nat) (x : XWord) : Bool := decide (x.toNat / 2 ^ mb % 2 ^ eb < 2 ^ eb - 1)
     fin 52 11 0x7FEFFFFFFFFFFFFF = true ∧ fin 52 11 1 = true ∧ fin 52 11 0x8000000000000000 = true ∧ fin 23 8 0x7F7FFFFF = true ∧ fin 23 8 0x80000001 = true)
    ∧ faddFn .d 0x7FEFFFFFFFFFFFFF 0x7FEFFFFFFFFFFFFF = (0x7FF0000000000000, 0x14) ∧ fmulFn .d 1 1 = (0, 0x18) ∧ faddFn .s 0x80000000 0x80000000 = (0x80000000, 0)
    ∧ fcvtToIntFn true .d false 0x4004000000000000 = (2, 0x10) := by
  decide +kernel
theorem witness_ComparisonAndClassOfDoubles :
    fcmpFn .d .le 0x8000000000000000 0 = (1, 0) ∧ fclassFn .d 1 = 0xFBCE00000001 ∧ fclassFn .d 0x7FF0000000000001 = 5 ∧ fclassFn .d 0x0010000000000000 = 0xFC0200000002 := by
  decide +kernel

/-- Operands at the ends of the own scratchpad, of 320 KiB. -/
def padState : State := (regs [(6, 0x4FFF8), (7, 0xFEDC), (8, 0x10000000000), (9, 0x100100000), (12, 1), (13, 7)]).modC fun c =>
  { c with act := some { loadedAct with msg := { key := 3, len := 8, payload := [1, 2, 3, 4, 5, 6, 7, 8] } } }
theorem witness_LoadsAndRemoteLoads :
    padState.Ready (src1 (r 6)) 5 ∧ padState.OwnAt (padState.c.x 6) 8 false ∧ padState.LineReady (padState.c.x 6) ∧ padState.Ready (src1 (r 0)) 5
    ∧ (padState.c.x 0).toNat + 8 ≤ 8 ∧ isCore 1 = true ∧ (padState.job padState.c.jobNum).cset.getLsbD (coreCluster 1) = true
    ∧ padState.c.l1Find (lineOf (placePad 1 0)) = none ∧ (∀ q ∈ padState.c.pendingSpans padState.cur, (plainSpan padState.cur (padState.c.x 9) 8 false).ordered q = false) := by
  refine ⟨?_, ?_, ?_, ?_, by decide +kernel⟩ <;> constructor <;> (try unfold Core.SrcsReady Core.Sound) <;> (try unfold Core.DestReady)
    <;> (try unfold Core.LogRoom) <;> decide +kernel
/-- Nothing for a release of core scope to wait for, or an atomic through the own aperture. -/
def viaAperture : State := padState.modC fun c => { c with out := [{ id := 9, parts := [{ line := placePad 0 0x400 }] }] }
theorem padState_released : padState.CoreReleased := by constructor <;> decide +kernel
theorem witness_LoadsAndRemoteLoads_release :
    padState.CoreReleased ∧ ¬ viaAperture.CoreReleased ∧ viaAperture.OwnAt (viaAperture.c.x 6) 8 false ∧ viaAperture.c.out.length < 16 ∧ ordOf 4 = .acq ∧ ordOf 10 = .rel :=
  ⟨padState_released, fun h => absurd (h.replies _ (List.mem_cons_self ..)) (by decide +kernel), by constructor <;> decide +kernel, by decide +kernel, by decide, by decide⟩
/-- The class constants stand in mapped memory. -/
def constState : State := padState.modC fun c => { c with act := c.act.map fun a => { a with desc := { a.desc with constb := 0x10000000040, constlen := 8 } } }
theorem witness_LoadsAndRemoteLoads_windows :
    (∃ a, constState.c.act = some a ∧ a.kind = .actor ∧ (constState.c.x 0).toNat + 8 ≤ a.desc.constlen.toNat ∧ (constState.fleizRead a.job (a.desc.constb.toNat + (constState.c.x 0).toNat) 8).isSome = true
      ∧ a.desc.constlen.toNat < (constState.c.x 6).toNat + 8) ∧ (constState.job 1).jparlen < (constState.c.x 6).toNat + 8 := by
  exact ⟨⟨_, by rfl, by decide +kernel⟩, by decide +kernel⟩
/-- Beyond the payload, with the window trap or without. -/
theorem witness_LoadsAndRemoteLoads_window :
    ∃ a, padState.c.act = some a ∧ a.kind = .actor ∧ (padState.c.x 6).toNat % 8 = 0 ∧ a.msg.len < (padState.c.x 6).toNat + 8 ∧ a.desc.wrt = false := by
  exact ⟨_, by rfl, by decide +kernel⟩
theorem witness_StoresWriteOnlyTheirBytes : padState.MemOk ∧ padState.c.SrcsReady (src2 (r 6) (r 7)) ∧ padState.c.out = [] ∧ padState.OwnAt (padState.c.x 6) 8 true
    ∧ padState.c.Released := by
  refine ⟨by unfold State.MemOk; decide +kernel, by unfold Core.SrcsReady Core.Sound; decide +kernel, by decide +kernel, ?_, ?_⟩ <;> constructor <;> decide +kernel
theorem witness_AtomicsExchangeValues : padState.MemOk ∧ padState.c.out = [] ∧ padState.c.Released ∧ padState.c.DestReady 5
    ∧ padState.c.SrcsReady (src2 (r 6) (r 12) ++ [(⟨13, false⟩, 1)]) ∧ padState.OwnAt (padState.c.x 6) 8 true ∧ padState.LineReady (padState.c.x 6) := by
  refine ⟨by unfold State.MemOk; decide +kernel, by decide +kernel, ?_, by unfold Core.DestReady; decide +kernel, by unfold Core.SrcsReady Core.Sound; decide +kernel, ?_, ?_⟩
    <;> constructor <;> decide +kernel
theorem witness_LineMarksWaitsAndTests :
    padState.c.SrcsReady (src1 (r 6)) ∧ padState.c.LogRoom ∧ (padState.c.x 6).toNat < padState.c.spsize ∧ padState.c.out = [] ∧ padState.c.lineFull (padState.c.x 6).toNat = true
    ∧ (padState.modC fun c => c.markEmpty 2559).c.lineFull (padState.c.x 6).toNat = false ∧ padState.c.DestReady 5
    ∧ padState.c.SrcsReady (src1 (r 8)) ∧ 2 ^ 40 ≤ (padState.c.x 8).toNat ∧ (padState.c.x 8).toNat < 2 ^ 48 := by
  unfold Core.SrcsReady Core.DestReady Core.LogRoom Core.Sound; decide +kernel
/-- A posted store of the activation, and an invalidation of its `tlbi`. -/
def postState : State := { padState.modC fun c => { c with posted := [{ id := 9, act := 1 }], tlbi := some 3 } with invals := [⟨3, 0, 1, true, 0, 0, [5]⟩] }
theorem witness_FencesSyncsAndInvalidation_core : padState.CoreReleased ∧ ¬ viaAperture.CoreReleased ∧ viaAperture.c.LogRoom :=
  ⟨padState_released, witness_LoadsAndRemoteLoads_release.2.1, by unfold Core.LogRoom; decide +kernel⟩
theorem witness_FencesSyncsAndInvalidation :
    padState.c.LogRoom ∧ padState.c.Released ∧ padState.c.drain = false ∧ padState.c.SrcsReady (src2 (r 6) (r 7)) ∧ padState.c.l1Dirty = false
    ∧ (∀ p ∈ padState.c.posted, p.kind ≠ 3) ∧ (∃ p ∈ postState.c.posted, p.act = postState.c.uid ∧ p.copy = none ∧ p.kind ≠ 3)
    ∧ (postState.c.tlbi = some 3 ∧ ∃ v ∈ postState.invals, v.id = 3) ∧ (∀ v ∈ ({ postState with invals := [] } : State).invals, v.id ≠ 3) := by
  refine ⟨by unfold Core.LogRoom; decide +kernel, by constructor <;> decide +kernel, by decide +kernel, by unfold Core.SrcsReady Core.Sound; decide +kernel, by decide +kernel⟩

theorem witness_CsrReadsAndWrites :
    padState.c.DestReady 0 ∧ padState.c.LogRoom ∧ padState.c.vq = [] ∧ (padState.modC fun c => { c with vq := [⟨[], 1, 2, 0⟩] }).c.vq = [⟨[], 1, 2, 0⟩] ∧ padState.c.SrcsReady (src1 (r 6))
    ∧ (let s := padState.modC fun c => c.setX 6 0x50000
       let v := (s.c.x 6 ).extractLsb' 7 12
       s.c.ctx.spillBase.toNat + s.c.ctx.spilled ≤ v.toNat ∧ v.toNat ≤ s.c.ctx.spillTop.toNat) := by
  unfold Core.SrcsReady Core.DestReady Core.LogRoom Core.Sound; decide +kernel
/-- Bit 9 set, for a group that traps NaNs; saturations at their greatest count. -/
def armable : State := (padState.modC fun c => { c.setX 6 0x200 with vq := [⟨[], 1, 2, 0⟩], ctx := { c.ctx with satcnt := 2 ^ 64 - 2 } }).modGroup 0 fun g => { g with fnten := true }
theorem witness_CsrReadsAndWrites_group :
    (∃ a, armable.c.act = some a ∧ (armable.group a.desc.ngrp.toNat).fnten = true ∧ (padState.group a.desc.ngrp.toNat).fnten = false)
    ∧ (armable.c.x 6).getLsbD 9 = true ∧ armable.c.out = [] ∧ (armable.core 0).vq = [⟨[], 1, 2, 0⟩] := by
  exact ⟨⟨_, by rfl, by decide +kernel⟩, by decide +kernel⟩
theorem test_satcnt_held :
    runs (.vectorCommandComplete 0) armable (fun t => decide (t.c.ctx.satcnt = 2 ^ 64 - 1) && decide (t.c.vq = []))
    ∧ runs (.csrs 0x31 (r 6)) armable (fun t => (t.group 0).fnarm) = true := by decide +kernel
theorem witness_FloorStampsAndAllotment :
    padState.c.LogRoom ∧ padState.c.SrcsReady (src1 (r 0)) ∧ padState.c.ctx.entryStamp ≤ (padState.c.x 0).setWidth 32
    ∧ (let s := padState.modC fun c => { c with ctx := { c.ctx with entryStamp := 1 } }
       let v : BitVec 32 := (s.c.x 0).setWidth 32
       v < s.c.ctx.entryStamp ∧ (s.job s.c.jobNum).floorEmpty = true ∧ s.c.l1Dirty = false ∧ s.c.drain = false
         ∧ (let s := s.modJob 1 fun j => { j with floorEmpty := false, floorMin := 0 }; (s.job s.c.jobNum).floorEmpty = false ∧ (s.job s.c.jobNum).floorMin ≤ v))
    ∧ (padState.c.ctx.allotV = 32 ∧ padState.c.ctx.allotV + 8 > 32 ∧ padState.c.namesFrom 0 = false ∧ (padState.c.v 31).full = true ∧ 1 ≤ padState.c.freeSlots)
    ∧ (let s := padState.modC fun c => { c with ctx := { c.ctx with allotV := 0 } }; s.c.ctx.allotV + 32 ≤ 32 ∧ (0 : Int) ≤ s.c.freeSlots - 32 ∧ s.c.ctx.allotV < 8) := by
  unfold Core.SrcsReady Core.LogRoom Core.Sound; decide +kernel
/-- Core 0 spills frame 0, or fills it again. -/
def spilling : State := inHandler.modC fun c => { c with eng := .spilling }
theorem witness_SpillFillAndCarveOut :
    spilling.MemOk ∧ (spilling.core 0).eng = .spilling ∧ (spilling.core 0).out = [] ∧ (∀ i, i < 16 → ((spilling.core 0).regAt (16 * (spilling.core 0).ctx.spilled + 8 + i)).full = true)
    ∧ (let s := spilling.modC fun c => { c with eng := .filling, ctx := { c.ctx with spilled := 1 } }; (s.core 0).eng = .filling ∧ 0 < (s.core 0).ctx.spilled)
    ∧ (let s := world.modCore 1 fun c => { c with accepted := some ⟨6, 0, 1⟩ }
       (s.core 1).accepted = some ⟨6, 0, 1⟩ ∧ (s.core 1).act = none ∧ (s.core 1).finish = none ∧ (s.core 1).saving = false ∧ (s.core 1).saved = [] ∧ (s.core 1).l1 = []
       ∧ (∀ p ∈ (s.core 1).posted, p.kind ≠ 3) ∧ s.curdsBeyond 1 (⟨6, 0, 1⟩ : Carve).spsize = []) := by
  unfold State.MemOk; decide +kernel


/-- View 3: 12 elements f32, from byte 0 of the scratchpad; view 4 beyond it; view 5 not live. -/
def viewF32 : View := { live := true, base := 0, ty := 0, perm := 3, d0 := ⟨1, 0, 12⟩, d1 := ⟨16, 0, 1⟩, d2 := ⟨0, 0, 1⟩, d3 := ⟨0, 0, 1⟩ }
def viewState : State := (regs [(6, 0x40), (7, 0xC0), (8, 0x10001), (9, 0x1), (10, 0x0)]).modC fun c => (c.setView 3 viewF32).setView 4 { viewF32 with base := 0x4FFC0, perm := 1 }

theorem witness_ViewsSetReadAndRetired :
    viewState.c.SrcsReady (src2 (r 6) (r 7)) ∧ viewState.c.LogRoom ∧ viewState.c.enterWait = none ∧ viewState.c.DestReady 5
    ∧ ((viewState.c.x 7).extractLsb' 6 2 ≠ 0 ∧ ((viewState.c.x 7).extractLsb' 0 5).toNat < 18 ∧ ((viewState.c.x 7).extractLsb' 20 3).toNat < 5)
    ∧ (viewState.c.view 3).live = true ∧ viewState.c.viewQuiet 3 = true ∧ (viewState.c.view 3).scope = 0 ∧ (viewState.c.x 10).extractLsb' 6 2 = 0
    ∧ (0 : BitVec 2).toNat ≤ (viewState.c.view 3).rankm1.toNat ∧ (viewState.c.x 6).setWidth 16 ≠ (0 : BitVec 16) ∧ (viewState.c.view 3).rankm1.toNat < (1 : BitVec 2).toNat
    ∧ ((viewState.c.x 9).extractLsb' 0 5).toNat < 18 ∧ (viewState.c.view 5).live = false ∧ viewState.blockers viewState.cur viewF32 = [] := by
  unfold Core.SrcsReady Core.DestReady Core.LogRoom Core.Sound; decide +kernel
theorem witness_DisjointVerdictIsSound :
    (let v := viewState.c.view 3
     let w := viewState.c.view 4
     (v.base.toNat < 0x60000 ↔ w.base.toNat < 0x60000) ∧ (v.toSpan 0 true).verdict (w.toSpan 0 true) ≠ 3 ∧ v.inside (fun k => if k = 0 then 11 else 0) = true
       ∧ w.inside (fun _ => 0) = true) := by
  decide +kernel
/-- A run from the last element on, and one from the first. -/
theorem witness_ViewRunsMoveElements :
    viewState.MemOk ∧ viewState.c.SrcsReady [(r 10, 1)] ∧ viewState.c.LogRoom ∧ (31 : BitVec 5).toNat < viewState.c.ctx.allotV ∧ (viewState.c.view 3).canRead = true
    ∧ (viewState.c.view 3).canWrite = true ∧ (viewState.c.view 3).inside (fun k => if k = 0 then 11 else 0) = true ∧ (viewState.c.v 31).full = true ∧ viewState.c.out = [] ∧ viewState.c.storing = []
    ∧ viewState.c.Sound (vecSlot 31) ∧ (viewState.c.view 3).ragged (viewState.c.x 10) = false ∧ (viewState.c.view 4).canWrite = false
    ∧ (∀ x ∈ viewState.c.pendingSpans viewState.cur, ((viewState.c.view 3).toSpan viewState.cur true).ordered x = false)
    ∧ ((viewState.modC fun c => c.setView 3 { viewF32 with perm := 2 }).c.view 3).canRead = false := by
  unfold State.MemOk Core.SrcsReady Core.LogRoom Core.Sound; decide +kernel

/-! Vectors. -/

/-- A state with vector registers; lane 0 of register 2 is the least of each signed type, register 3 holds ones. -/
def vecState : State := (regs [(6, 0x40), (7, 0x7), (8, 0x10000)]).modC fun c => ((c.setV 2 0x80000000).setV 3 (BitVec.allOnes 1024)).setMask 1 5
theorem vec_ready : vecState.VReady [2, 3, 31] [0] := by
  constructor <;> (try unfold Core.Sound) <;> (try unfold Core.LogRoom) <;> decide +kernel
theorem witness_VectorIntegerLanes : VType.s64.isFp = false ∧ vecState.VReady [2, 3, 31] [0] := ⟨by decide, vec_ready⟩
theorem witness_VectorFpLanes : VType.bf.isFp = true ∧ VType.f32.isFp = true ∧ vecState.VReady [2, 3, 31] [0] := ⟨by decide, by decide, vec_ready⟩
theorem witness_VectorMasksAndSelect : vecState.VReady [2, 3] [0] ∧ vecState.VReady [] [] ∧ vecState.c.DestReady 0 ∧ vecState.c.mask 1 = 5 := by
  refine ⟨?_, ?_, by unfold Core.DestReady; decide +kernel, by decide +kernel⟩ <;> constructor <;> (try unfold Core.Sound) <;> (try unfold Core.LogRoom) <;> decide +kernel
/-- Active lanes 0 and 2, or none. -/
theorem witness_VectorReductions :
    vecState.VReady [2, 3, 31] [0] ∧ (vecState.c.mask 1).getLsbD 0 = true ∧ (vecState.c.mask 1).getLsbD 1 = false ∧ vecState.c.mask 2 = 0 := ⟨vec_ready, by decide +kernel⟩
theorem witness_VectorMovesAndProducts :
    vecState.VReady [2, 3, 31] [0] ∧ vecState.c.SrcsReady [plainSrc 6 0, plainSrc 7 1] ∧ vecState.c.DestReady 5 ∧ (vecState.c.x 6).toNat % 8 = 0
    ∧ vecState.windowOut 1 (vecState.c.x 6) 2064 = true ∧ vecState.windowTrap = false ∧ vecState.c.ctx.allotV = 32 := by
  refine ⟨vec_ready, by unfold Core.SrcsReady Core.Sound; decide +kernel, by unfold Core.DestReady; decide +kernel, by decide +kernel⟩
theorem witness_VectorLoadsStoresAndQueue :
    vecState.MemOk ∧ vecState.c.SrcsReady [plainSrc 6 0] ∧ (31 : BitVec 5).toNat < vecState.c.ctx.allotV ∧ (vecState.c.x 6).toNat % 8 = 0 ∧ (vecState.c.x 7).toNat % 8 ≠ 0
    ∧ (∀ l, l < 16 → (vecState.c.x 6 + BitVec.ofNat 64 (8 * l)).toNat + 8 ≤ vecState.c.spsize) ∧ (vecState.c.v 31).full = true ∧ vecState.c.LogRoom ∧ vecState.c.out = []
    ∧ vecState.c.pendingSpans vecState.cur = [] ∧ vecState.c.Sound (vecSlot 31) ∧ vecState.c.mask 2 = 0 ∧ vecState.c.storing = [] ∧ (vecState.core 0).vq = []
    ∧ ((vecState.modC fun c => { c with vq := [⟨[], 1, 2, 0⟩] }).core 0).vq = [⟨[], 1, 2, 0⟩] ∧ (vecState.modC fun c => { c with ctx := { c.ctx with allotV := 8 } }).c.ctx.allotV ≤ (8 : BitVec 5).toNat := by
  unfold State.MemOk Core.SrcsReady Core.LogRoom Core.Sound; decide +kernel
theorem witness_VectorLoadsStoresAndQueue_line : vecState.LineReady (BitVec.ofNat 64 0x40) := by constructor <;> decide +kernel
theorem witness_ConversionsRoundOnce : vecState.VReady [2] [3] ∧ vecState.VReady [2, 3] [31] ∧ vecState.VReady [2] [3, 31] := by
  refine ⟨?_, ?_, ?_⟩ <;> constructor <;> (try unfold Core.Sound) <;> (try unfold Core.LogRoom) <;> decide +kernel


/-! The matrix engine. -/

/-- View 1: 33 × 2 elements bf; view 2 the same elsewhere; view 3: 40 elements f8a with view 4 as its companion of scales. -/
def viewBf : View := { live := true, base := 0x400, ty := 1, perm := 3, rankm1 := 1, d0 := ⟨1, 0, 33⟩, d1 := ⟨64, 0, 2⟩, d2 := ⟨0, 0, 1⟩, d3 := ⟨0, 0, 1⟩ }
def viewF8 : View := { live := true, base := 0x800, ty := 3, perm := 3, d0 := ⟨1, 0, 40⟩, d1 := ⟨0, 0, 1⟩, d2 := ⟨0, 0, 1⟩, d3 := ⟨0, 0, 1⟩, scv := 4, sce := true }
def viewE8 : View := { live := true, base := 0x900, ty := 17, perm := 3, d0 := ⟨1, 0, 2⟩, d1 := ⟨0, 0, 1⟩, d2 := ⟨0, 0, 1⟩, d3 := ⟨0, 0, 1⟩ }
def mat : State := (regs [(6, 0x3), (7, 0x7F7F), (8, 0x8), (9, 0xFFFF)]).modC fun c => (((c.setView 1 viewBf).setView 2 { viewBf with base := 0x600 }).setView 3 viewF8).setView 4 viewE8

theorem witness_MatrixCommandsQueueAndWait :
    mat.c.out = [] ∧ mat.c.mq = [] ∧ mat.c.SrcsReady [(r 7, 2)]
    ∧ (∀ v ∈ [mat.c.view 1, mat.c.view 2, mat.c.view 3, mat.c.view 4], v.live = true ∧ v.canRead = true ∧ v.canWrite = true ∧ v.rank ≤ 2 ∧ 1 ≤ v.d0.extent.toNat ∧ v.d0.extent.toNat ≤ 2048 ∧ v.rows ≤ 4
        ∧ (∀ i, i < v.d0.extent.toNat → ∀ j, j < v.rows → (byteAddr (v.bit2 i j)).toNat < mat.c.spsize ∧ (byteAddr (v.bit2 i j + v.eb - 1)).toNat < mat.c.spsize))
    ∧ (mat.c.view 1).ty.toNat = (pairTypes .bfbf).1 ∧ (mat.c.view 2).d0.extent = (mat.c.view 1).d0.extent ∧ (mat.c.view 3).ty.toNat = (pairTypes .f8af8a).1 ∧ (mat.c.view 3).kdim = 0
    ∧ companionOk (mat.c.view 3) (mat.c.view 4) 3 4 = true ∧ rdType (mat.c.view 1) = true ∧ mat.c.events = [] ∧ mat.c.accEcc = [] ∧ ldbType (mat.c.view 1) = true
    ∧ mat.c.SrcsReady (src1 (r 6)) ∧ (let m : BitVec 8 := (mat.c.x 6).setWidth 8; m.getLsbD (coreK mat.cur) = true ∧ ((List.range 8).filter fun j => m.getLsbD j).length = 2)
    ∧ (let m : BitVec 8 := (mat.c.x 8).setWidth 8; m.getLsbD (coreK mat.cur) = false) ∧ mat.c.DestReady 5 ∧ (mat.c.view 5).live = false := by
  unfold Core.SrcsReady Core.DestReady Core.Sound; decide +kernel
/-- Two commands fill the queue; a latch failure is unreported. -/
theorem witness_MatrixWait :
    (let s := mat.modC fun c => { c with mq := [{ id := 1, op := .zero 2 }, { id := 2, op := .rd 2 }], events := [⟨7, 1, .reason7, false, ⟨0, 0, 0⟩⟩] }
     2 ≤ s.c.mq.length ∧ s.c.out = [] ∧ (∀ m ∈ s.c.mq, m.op.accOf ≠ some 1 ∧ m.op.accOf ≠ none) ∧ (∃ m ∈ s.c.mq, m.op.accOf = some 2) ∧ s.c.LogRoom
       ∧ ∀ e rest, s.c.events = e :: rest → e.acc = 1 ∧ e.kind = .reason7) := by
  refine ⟨by decide +kernel, by decide +kernel, by decide +kernel, by decide +kernel, by unfold Core.LogRoom; decide +kernel, ?_⟩
  intro e rest h
  have h' : [(⟨7, 1, .reason7, false, ⟨0, 0, 0⟩⟩ : MEvent)] = e :: rest := by rw [← h]; decide +kernel
  injection h' with h1 h2
  subst h1
  exact ⟨rfl, rfl⟩
/-- The right to the slot table; one slot code of 8 for no core, weights of 15, and a weight of 0. -/
theorem witness_MatrixSlots :
    (let s := mat.modJob 1 fun j => { j with slotRight := true }
     (s.job s.c.jobNum).slotRight = true ∧ s.c.SrcsReady (src2 (r 6) (r 9)) ∧ s.c.LogRoom ∧ (s.c.x 6).toNat < 4 ∧ (∀ n, n < 16 → 0x8888888888888888 / 16 ^ n % 16 ≤ 8)
       ∧ (∀ n, n < 8 → 0xFFFFFFFF / 16 ^ n % 16 ≠ 0) ∧ ∃ n, n < 8 ∧ 0xFFFF / 16 ^ n % 16 = 0)
    ∧ ¬ ((mat.job mat.c.jobNum).slotRight = true) := by
  unfold Core.SrcsReady Core.LogRoom Core.Sound; decide +kernel
/-- A write of `mat.slot` that arrives at engine cycle 9, in time or not yet. -/
theorem witness_MatrixSlots_arrive :
    (let w : SlotWrite := ⟨9, 180, 0, 3, 0x8888888888888880⟩
     let s := mat.modCluster 0 fun c => { c with engine := { coming := [w] } }
     (s.cluster 0).engine.coming = [w] ∧ (s.cluster 0).engine.armed = none ∧ w.due ≤ s.cyc10 ∧ w.idx < 4
       ∧ runs (.slotTableSwitch 0) s (fun t => decide (Map.get 8 (t.cluster 0).engine.pend 48 = 0) && decide (Map.get 8 (t.cluster 0).engine.pend 49 = 8) && decide ((t.cluster 0).engine.coming = [])) = true)
    ∧ mat.cyc10 < 181
    ∧ runs (.matSlot (r 6) (r 10)) (mat.modJob 1 fun j => { j with slotRight := true }) (fun t => decide ((t.cluster 0).engine.coming.map (fun w => (w.due, w.idx, w.val)) = [(260, 3, 0)])) = true := by
  decide +kernel

/-- A time far ahead is not yet reached on any die. -/
theorem witness_MatrixSlots_ahead (die : Nat) : mat.dieTime die < (BitVec.allOnes 64).toNat := by
  have h : mat.dtime = 10 := by decide +kernel
  have : (BitVec.allOnes 64).toNat = 2 ^ 64 - 1 := by decide
  unfold State.dieTime; omega

/-- A multiply of views 1 and 2, and what stands in the queue in each of its stages. -/
def mul : MCmd := { id := 4, op := .mma .bfbf false true false 1, a := viewBf, b := { viewBf with base := 0x600 }, aq := 1, bq := 2, nk := 2 }
def mulBegun : MCmd := { mul with begun := true }
def queued (l : List MCmd) : State := mat.modC fun c => { c with mq := l }
/-- Of the commands begun: a satc, a latch load, a ring, a read of the accumulator, and a multiply that failed. -/
theorem witness_MatrixCommandsExecute :
    ((queued [mul]).core 0).mq = mul :: [] ∧ mul.begun = false ∧ ((queued [mul]).core 0).latch = none ∧ ((queued [mulBegun, mul]).core 0).mq = [mulBegun, mul] ∧ mulBegun.begun = true
    ∧ mulBegun.ended = false ∧ (queued [mul]).MemOk := by
  unfold State.MemOk; decide +kernel
theorem witness_MatrixCommandsExecute_completes :
    (let m : MCmd := { id := 4, op := .ldb, a := viewBf, begun := true }
     ((queued [m]).core 0).mq = m :: [] ∧ ((queued [m]).core 0).clear 0 m = true ∧ (∀ l ∈ m.loadLines, l ∉ ((queued [m]).core 0).empty) ∧ m.a.eb ≤ 32)
    ∧ (let m : MCmd := { id := 4, op := .rd 1, a := viewBf, begun := true }
       ((queued [m]).core 0).mq = m :: [] ∧ ((queued [m]).core 0).clear 0 m = true ∧ m.ac.live = false
         ∧ ∃ w, m.rdWrites (((queued [m]).core 0).acc 1) = [] ++ w :: (m.rdWrites (((queued [m]).core 0).acc 1)).tail
           ∧ ∀ y ∈ (m.rdWrites (((queued [m]).core 0).acc 1)).tail, y.1 + y.2.1 ≤ w.1 ∨ w.1 + w.2.1 ≤ y.1)
    ∧ ({ mulBegun with ended := true, failed := true } : MCmd).nan = none := by
  refine ⟨by decide +kernel, ⟨by decide +kernel, by decide +kernel, by decide +kernel, _, by rfl, by decide +kernel⟩, by decide +kernel⟩
/-- Cores 0 and 1 of cluster 0 in a ring. -/
def ringOf2 : State :=
  let m : MCmd := { id := 4, op := .ring 3, begun := true }
  (mat.modC fun c => { c with mq := [m], latch := some { kl := 5 } }).modCore 1 fun c => { c with mq := [m], act := some loadedAct }
theorem witness_MatrixCommandsExecute_ring :
    (∀ i, i < 8 → if (3 : BitVec 8).getLsbD i then ringOf2.ringAt (clusterCore 0 i) = some (3, 1) else ringOf2.ringAt (clusterCore 0 i) = none)
    ∧ runs (.matRingRotation 0) ringOf2 (fun t => decide ((t.core 1).latch = some { kl := 5 }) && decide ((t.core 0).latch = none)) = true := by
  decide +kernel

/-- A multiply with a block staged, and one fetch more to make. -/
def staged : State := match exec (.operandFetch 0) (queued [mulBegun]) with | .next t => t | _ => mat
def mulStaged : MCmd := ((staged.core 0).readyCmd).getD {}
def engine0 (e : Engine) : State := staged.modCluster 0 fun x => { x with engine := e }
theorem witness_MatrixArrayGranted :
    ((queued [mulBegun]).core 0).mq = mulBegun :: [] ∧ mulBegun.staged < mulBegun.nk ∧ ((queued [mulBegun]).core 0).clear 0 mulBegun = true
    ∧ (∀ l ∈ mulBegun.blockLines 0, l ∉ ((queued [mulBegun]).core 0).empty)
    ∧ (staged.core 0).readyCmd = some mulStaged ∧ mulStaged.op = .mma .bfbf false true false 1 ∧ mulStaged.id = 4
    ∧ (let e : Engine := { level := 8, cur := [(0, 0)] }
       ((engine0 e).cluster 0).engine = e ∧ e.coming = [] ∧ (engine0 e).cyc10 / 20 < (engine0 e).nextWindow ∧ e.freeAt ≤ (engine0 e).cyc10 ∧ e.armed = none ∧ e.busy < 2 * e.level ∧ Map.get 8 e.cur e.p = 0)
    ∧ (let e : Engine := { level := 8, credit := [(0, 1)] }
       ¬ (Map.get 8 e.cur e.p < 8 ∧ ((engine0 e).core (clusterCore 0 (Map.get 8 e.cur e.p))).readyCmd.isSome = true) ∧ e.r ≤ 0 ∧ 0 < Map.get 1 e.credit 0)
    ∧ (let e : Engine := { armed := some 0 }
       (0 : XWord).toNat ≤ (engine0 e).dieTime 0 ∧ e.freeAt ≤ (engine0 e).cyc10 ∧ 2 * e.level ≤ e.busy)
    ∧ (∀ j, j < 8 → ((mat.core (clusterCore 0 j)).readyCmd).isSome = false) := by
  decide +kernel
/-- Blocks of the shape 32 × 32, elements and accumulators of every kind. -/
theorem witness_BlockStepArithmetic :
    (∃ blk rest, mulStaged.blocks = blk :: rest ∧ blk.a.length = 32 ∧ blk.sa.length = 32 ∧ blk.b.length = 32 ∧ blk.sb.length = 32)
    ∧ (∀ y ∈ (staged.core 0).mq, y.id = mulStaged.id → y = mulStaged)
    ∧ blockElem 0x7FC00000 [] [] 127 127 = { bits := 0x7FC00000 } ∧ (blockElem 0 [.inf false] [.zero false] 127 127).flags = 1
    ∧ blockElem 0xFF800000 [.inf true] [codeVal 1 0x3F80] 127 127 = { bits := 0xFF800000 }
    ∧ (blockElem 0x3F800000 [codeVal 1 0x3F80] [codeVal 1 0x3F80] 127 127).bits = 0x40000000 ∧ (blockElem 0x80000000 [codeVal 1 0] [codeVal 1 0] 0 0).bits = 0 := by
  refine ⟨⟨(mulStaged.blocks.headD {}), mulStaged.blocks.tail, by decide +kernel⟩, by decide +kernel⟩

/-! Copies. -/

/-- The copy registers describe 4 elements of 8 bytes, tag 5, without marks; register 6 is the source address, 7 the destination, 8 and 9 sets of tags, 10 an id. -/
def copying : State :=
  ((regs [(6, 0x100), (7, 0x200), (8, 0x20), (9, 0x3), (10, 5)]).modC fun c =>
    { c with ctx := { c.ctx with tags := 0x30, rot := 3, ce := [(0, 0x50B), (1, 0x0000000800000004), (2, 1), (3, 1), (4, 1), (5, 0x0000000800000004), (6, 1), (7, 1), (8, 1)] } })
def launched : State := match exec (.cpgo 5 (r 6) (r 7)) copying with | .next t => t | _ => copying
def copyStarted : State := match exec (.copyStart 0) launched with | .next t => t | _ => copying
def theCopy (s : State) : Copy := ((s.core 0).copyOf 5).getD {}
def setCopy (f : Copy → Copy) : State := copyStarted.modC fun c => { c with copies := c.copies.map f }
def copyDoneState : State := setCopy fun x => { x with todo := [] }
def copyFailing : State := setCopy fun x => { x with st := .failing 17 0x100 false 8 }

theorem copying_ready : copying.Ready (src2 (r 6) (r 7)) 5 := by
  constructor <;> (try unfold Core.SrcsReady Core.Sound) <;> (try unfold Core.DestReady) <;> (try unfold Core.LogRoom) <;> decide +kernel
theorem witness_CopyLaunchAndTags :
    (let x := copying.describe 0x100 0x200
     (copying.launchGates x).all (fun g => match g with | .go => true | _ => false) = true ∧ copying.c.busy x.tag = false ∧ copying.c.out = [] ∧ copying.c.heldCopies < 64 ∧ copying.c.cmdq.length < 2)
    ∧ (let s := copying.modC fun c => { c with ctx := { c.ctx with ce := [(0, 0x50B), (1, 0)] } }; let x := s.describe 0x100 0x200; x.ctl.getLsbD 16 = false ∧ x.ctl.getLsbD 17 = false ∧ 0 ∈ x.src.ext)
    ∧ launched.c.copyOf (10 - 5) = some (theCopy launched) ∧ (theCopy launched).st = .queued ∧ (theCopy launched).detached = false ∧ launched.c.act ≠ none
    ∧ (theCopy launched).act = launched.c.uid ∧ launched.c.ctx.wany = [] ∧ (theCopy copyStarted).st = .running
    ∧ launched.c.tagBusy &&& launched.c.x 9 = 0 ∧ launched.c.tagBusy &&& launched.c.x 8 ≠ 0 ∧ launched.c.ctx.tags &&& launched.c.x 8 = 0 ∧ copying.c.ctx.tags &&& copying.c.x 8 ≠ 0 := by
  decide +kernel
/-- The launch and the instructions for tags, by their results. -/
theorem test_copy_launch :
    runs (.cpgo 5 (r 6) (r 7)) copying (fun t => decide (t.c.x 5 = 5) && t.c.busy 5 && decide (t.c.ctx.tags = 0x10) && decide (t.c.copySeq = copying.c.copySeq + 1)) = true
    ∧ runs (.tagFfr 5 (r 8)) copying (fun t => decide (t.c.x 5 = 5) && decide (t.c.ctx.rot = 6)) = true
    ∧ runs (.cpcancel (r 10)) launched (fun t => decide (t.c.copies = []) && decide (Map.get 0 t.c.tagStat 5 = 8) && !t.c.busy 5 && t.c.ctx.tags.getLsbD 5) = true
    ∧ runs (.tagTest 5 (r 10)) launched (fun t => decide (t.c.x 5 = 2)) = true := by
  decide +kernel

theorem witness_CopyRunsAndEnds :
    launched.MemOk ∧ (launched.core 0).copies.find? (fun y => decide (y.st = .queued)) = some (theCopy launched) ∧ (theCopy launched).nomark = true
    ∧ ((launched.core 0).copies.filter fun y => decide (y.st ≠ .queued) && !y.ended).length < 4 ∧ launched.heldBack 0 (theCopy launched) = false ∧ (launched.core 0).l1Dirty = false
    ∧ (∀ p ∈ (launched.core 0).posted, p.kind ≠ 3) ∧ (launched.core 0).copyOf (theCopy launched).id.toNat = some (theCopy launched)
    ∧ (let x := theCopy copyDoneState; (copyDoneState.core 0).copyOf 5 = some x ∧ x.detached = false ∧ (copyDoneState.core 0).act ≠ none ∧ x.act = (copyDoneState.core 0).uid
        ∧ (copyDoneState.core 0).ctx.wany = [] ∧ x.tag < 64 ∧ x.st = .running ∧ x.quiet = true ∧ x.todo = [] ∧ x.marked = [] ∧ x.action = 0)
    ∧ (let x := theCopy copyFailing; (copyFailing.core 0).copyOf 5 = some x ∧ x.act = (copyFailing.core 0).uid ∧ x.st = .failing 17 0x100 false 8 ∧ x.quiet = true ∧ x.marked = []) := by
  unfold State.MemOk; decide +kernel
/-- A copy from remote core 1 to the own scratchpad, and the reply to its first read. -/
def remoteCopy : State := setCopy fun x => { x with todo := [1, 2, 3], asked := [⟨0, 1, 5⟩], src := { x.src with base := 0x100100000 } }
def copyReply : Packet := arrived 0 1 (.readRep { core := 0, copy := true, owner := 5, part := 0, line := 0 } 0 0x1122334455667788)
def copyReplied : State := got remoteCopy copyReply
theorem copyReply_arrives : copyReplied.Arrives 7 copyReply := by constructor <;> decide +kernel
theorem witness_CopyRunsAndEnds_reply :
    copyReplied.MemOk ∧ copyReplied.takes copyReply = true ∧ (let x := theCopy copyReplied
      ∃ tgt, copyReplied.copyTarget 0 x (x.dstAt 0) .write true = .ok tgt ∧ tgt.region = .own ∧ x.asked.find? (fun q => decide (q.part = 0)) = some ⟨0, 1, 5⟩ ∧ tgt.place % 128 + 1 * x.unit ≤ 128 ∧ 0 < x.unit ∧ x.st = .running) := by
  refine ⟨by unfold State.MemOk; decide +kernel, by decide +kernel, _, by rfl, by decide +kernel⟩
theorem test_copy_ends :
    runs (.copyStart 0) launched (fun t => decide ((theCopy t).st = .running)) = true
    ∧ runs (.copyReadReply 7) copyReplied (fun t => decide (t.load (placePad 0 0x200) 8 = 0x1122334455667788)) = true
    ∧ runs (.copyComplete 0 5) copyDoneState (fun t => decide ((t.core 0).copyOf 5 = none) && decide (Map.get 0 (t.core 0).tagStat 5 = 1) && (t.core 0).ctx.tags.getLsbD 5) = true
    ∧ runs (.copyFail 0 5) copyFailing (fun t => decide (Map.get 0 (t.core 0).tagStat 5 = 0x1104) && (t.job 1).errs.any fun e => decide (e.addr = 0x100) && decide (e.kind = 4) && decide (e.cause = 17) && decide (e.size = 8)) = true := by
  decide +kernel

/-! Messages, actor requests, tasks, counters, barriers. -/

/-- A send block at 0x100 for class 64, handler 0, with 8 payload bytes, a key list of 2 keys at 0x200, a counter of 3 at 0x300 and one of 1 at 0x340. -/
def sending : State :=
  let s := (regs [(6, 0x100), (7, 0x55), (8, 0x200), (9, 0x3), (10, 0x300), (11, 0x340), (12, 0x20), (13, 0x4000000000), (14, 0x320), (15, 0x10040)]).modC
    fun c => { c with act := some { loadedAct with home := 5, msg := { key := 3, len := 8, payload := [1, 2, 3, 4, 5, 6, 7, 8] } } }
  let s := ((s.store (placePad 0 0x100) 8 0x200040).store (placePad 0 0x108) 8 0x77).store (placePad 0 0x110) 8 0x0807060504030201
  let s := ((s.store (placePad 0 0x200) 8 2).store (placePad 0 0x208) 8 0x55).store (placePad 0 0x210) 8 0x56
  let s := (s.store (placePad 0 0x300) 8 (2 ^ 62 + 3)).store (placePad 0 0x320) 8 (2 ^ 63 + 1)
  let s := (s.store (placePad 0 0x328) 8 0x4000000100).store (placePad 0 0x330) 8 0x99
  let s := ((s.store (placePad 0 0x340) 8 (2 ^ 62 + 1)).store (placePad 0 0x348) 8 0x200040).store (placePad 0 0x350) 8 0x66
  s.modC fun c => c.setView 3 { live := true, base := 0x110, ty := 12, perm := 1, d0 := ⟨1, 0, 8⟩, d1 := ⟨0, 0, 1⟩, d2 := ⟨0, 0, 1⟩, d3 := ⟨0, 0, 1⟩ }
def sentMsg (s : State) : Msg := (s.net.head?.bind Packet.msg?).getD {}

theorem witness_MessagesSent :
    (∃ a, sending.c.act = some a ∧ a.kind = .actor ∧ a.forwarded = false) ∧ sending.c.SrcsReady (src2 (r 6) (r 7)) ∧ sending.c.SrcsReady (src2 (r 6) (r 8))
    ∧ sending.load (placePad 0 0x100) 8 / 2 ^ 18 % 256 = 8 ∧ sending.load (placePad 0 0x200) 8 = 2 ∧ (sending.c.view 3).live = true ∧ (sending.c.view 3).canRead = true
    ∧ 8 ≤ ((sending.c.view 3).runLanes 0 * (sending.c.view 3).eb + 7) / 8 ∧ (∀ x ∈ sending.c.pendingSpans sending.cur, ((sending.c.view 3).toSpan sending.cur false).ordered x = false)
    ∧ (∀ l ∈ (sending.c.view 3).lanes 0, l.va.toNat + (l.bit + l.width + 7) / 8 ≤ sending.c.spsize ∧ (l.bit + l.width + 7) / 8 = 1
        ∧ sending.c.lineFull l.va.toNat = true ∧ sending.ecc.contains (lineOf (placePad sending.cur l.va.toNat)) = false) := by
  refine ⟨⟨sending.c.act.getD {}, by decide +kernel⟩, by unfold Core.SrcsReady Core.Sound; decide +kernel⟩
/-- Where an endpoint retains nothing, no message waits there to be sent again. -/
theorem resendAhead_nil (s : State) (k : Nat) (m : Msg) (h : (s.ep k).retain = []) : s.resendAhead k m = false := by
  simp only [State.resendAhead, Endpoint.unsettled, h, List.flatMap_nil, List.filter_nil, List.any_nil]
theorem sending_quiet (m : Msg) : sending.resendAhead sending.cur m = false := resendAhead_nil _ _ _ (by decide +kernel)
theorem witness_MessagesSent_ready : sending.PadReady 0x100 24 ∧ sending.PadReady 0x200 24 ∧ sending.CanSend 64 0 0x55 8 ∧ sending.CanSend 64 0 0x56 8 := by
  refine ⟨⟨by decide, by decide +kernel, ?_, ?_, by decide +kernel⟩, ⟨by decide, by decide +kernel, ?_, ?_, by decide +kernel⟩, ?_, ?_⟩
  · intro o h1 h2; have : ∀ i, i < 24 → sending.c.lineFull (0x100 + i) = true := by decide +kernel
    have := this (o - 0x100) (by omega); rwa [Nat.add_sub_cancel' h1] at this
  · intro o h1 h2; have : ∀ i, i < 24 → sending.ecc.contains (lineOf (placePad sending.cur (0x100 + i))) = false := by decide +kernel
    have := this (o - 0x100) (by omega); rwa [Nat.add_sub_cancel' h1] at this
  · intro o h1 h2; have : ∀ i, i < 24 → sending.c.lineFull (0x200 + i) = true := by decide +kernel
    have := this (o - 0x200) (by omega); rwa [Nat.add_sub_cancel' h1] at this
  · intro o h1 h2; have : ∀ i, i < 24 → sending.ecc.contains (lineOf (placePad sending.cur (0x200 + i))) = false := by decide +kernel
    have := this (o - 0x200) (by omega); rwa [Nat.add_sub_cancel' h1] at this
  · exact ⟨by decide +kernel, by decide +kernel, fun m _ _ => sending_quiet m, .inl (by decide), by constructor <;> decide +kernel, by decide +kernel⟩
  · exact ⟨by decide +kernel, by decide +kernel, fun m _ _ => sending_quiet m, .inl (by decide), by constructor <;> decide +kernel, by decide +kernel⟩
/-- R197 to R212: the message of each send. -/
theorem test_sends :
    runs (.msgSend 2 (r 6) (r 7)) sending (fun t => let m := sentMsg t; decide (t.net.length = 1) && decide (m.key = 0x55) && decide (m.cls = 64) && decide (m.len = 8) && decide (m.flags = 2)
      && decide (m.payload = [1, 2, 3, 4, 5, 6, 7, 8]) && decide (m.stamp = sending.c.ctx.stamp + 1) && !m.reply) = true
    ∧ runs (.msgAt 0 (r 6) (r 7)) sending (fun t => let m := sentMsg t; m.timed && decide (m.time = 0x77)) = true
    ∧ runs (.msgReply 0 (r 6) (r 7)) sending (fun t => (sentMsg t).reply) = true
    ∧ runs (.msgSendv 0 (r 6) 3) sending (fun t => let m := sentMsg t; decide (m.key = 0x77) && decide (m.payload = [1, 2, 3, 4, 5, 6, 7, 8])) = true
    ∧ runs (.msgMcast 0 (r 6) (r 8)) sending (fun t => decide ((t.net.flatMap Packet.copies).filterMap (fun p => p.msg?.map Msg.key) = [0x55, 0x56])) = true
    ∧ runs (.msgFwd (r 7)) sending (fun t => let m := sentMsg t; decide (m.fwd = some ⟨64, 0, 0⟩) && decide (m.payload = [1, 2, 3, 4, 5, 6, 7, 8]) && t.c.act.any Act.forwarded) = true := by
  decide +kernel
theorem witness_ActivationDone :
    (let s := sending.modC fun c => c.setView 3 {}
     s.c.out = [] ∧ s.c.copies = [] ∧ s.c.mq = [] ∧ s.c.events = [] ∧ s.c.accEcc = [] ∧ (∀ q, q < 16 → (s.c.view q).live = false)
       ∧ runs .msgDone s (fun t => t.c.act.isNone && decide (t.c.xs = []) && t.net.any fun p => decide (p.dst = epHome 5) && decide (p.body = .done 64 0 0)) = true)
    ∧ ({ sending.c with out := [{ id := 3 }] } : Core).out ≠ [] := by
  decide +kernel

theorem witness_ActorRequestsSent :
    sending.c.SrcsReady (src2 (r 15) (r 7)) ∧ sending.c.out = [] ∧ 64 ≤ ((sending.c.x 15).extractLsb' 0 12 : BitVec 12).toNat
    ∧ sending.reachable sending.c.jobNum ((sending.c.x 15).extractLsb' 0 12) = true ∧ isCore ((sending.c.x 15).toNat / 2 ^ 16 % 2 ^ 13) = true
    ∧ sending.domainHas ((sending.c.x 15).extractLsb' 0 12) 1 = true ∧ sending.domainHas 64 700 = false ∧ sending.c.DestReady 5
    ∧ ((sending.c.x 12).extractLsb' 0 12 : BitVec 12).toNat < 64 ∧ sending.reachable sending.c.jobNum 65 = false := by
  unfold Core.SrcsReady Core.DestReady Core.Sound; decide +kernel
theorem test_actor_requests :
    runs (.actMove (r 15) (r 7)) sending (fun t => t.net.any fun p => match p.body with | .areq q => decide (q.kind = .move) && decide (q.cls = 64) && decide (q.key = 0x55) && decide (q.dst = 1) | _ => false) = true
    ∧ runs (.actProbe 5 (r 15) (r 7)) sending (fun t => !(t.c.reg 5).full && decide (t.c.out.length = 1) && decide (t.net.length = 1)) = true := by
  decide +kernel

theorem witness_TasksCountersAndBarriers :
    sending.MemOk ∧ sending.c.act ≠ none ∧ sending.c.SrcsReady (src2 (r 13) (r 9)) ∧ sending.addressable sending.c.jobNum ((sending.c.x 13).extractLsb' 32 12) = true
    ∧ (sending.c.x 13).toNat % 4 = 0 ∧ sending.c.dequeUsed < 56 ∧ (sending.modC fun c => { c with deque := List.replicate 56 {} }).c.dequeUsed = 56
    ∧ sending.addressable sending.c.jobNum 65 = false ∧ sending.c.SrcsReady (src2 (r 10) (r 9)) ∧ (sending.c.x 10).toNat % 32 = 0 ∧ (sending.c.x 10).toNat + 32 ≤ sending.c.spsize
    ∧ 1 ≤ (sending.c.x 9).toNat ∧ (sending.c.x 9).toNat < 2 ^ 32 ∧ sending.c.blocked = none ∧ sending.load (placePad 0 0x300) 8 / 2 ^ 62 = 1 ∧ 1 < sending.load (placePad 0 0x300) 8 % 2 ^ 32
    ∧ sending.load (placePad 0 0x320) 8 / 2 ^ 62 = 2 ∧ sending.load (placePad 0 0x320) 8 % 2 ^ 32 = 1
    ∧ sending.load (placePad 0 0x340) 8 / 2 ^ 62 = 1 ∧ sending.load (placePad 0 0x340) 8 % 2 ^ 32 = 1
    ∧ (let dw1 : XWord := BitVec.ofNat 64 (sending.load (placePad 0 0x348) 8); dw1.extractLsb' 18 8 = (8 : BitVec 8) ∧ dw1.extractLsb' 0 12 = (64 : BitVec 12)) := by
  unfold State.MemOk Core.SrcsReady Core.Sound; decide +kernel
theorem witness_TasksCountersAndBarriers_ready :
    sending.OwnAt (sending.c.x 10) 32 true ∧ sending.LineReady (sending.c.x 10) ∧ sending.OwnAt (sending.c.x 11) 32 true ∧ sending.c.Released ∧ sending.CanSend 64 0 0x66 8 := by
  refine ⟨?_, ?_, ?_, ?_, by decide +kernel, by decide +kernel, fun m _ _ => sending_quiet m, .inl (by decide), ?_, by decide +kernel⟩ <;> constructor <;> decide +kernel
theorem test_tasks_and_counters :
    runs (.fork (r 13) (r 9)) sending (fun t => t.c.deque.any fun x => decide (x.word = 0x4000000000) && decide (x.arg = 3) && decide (x.pusher = 0)) = true
    ∧ runs (.jcInit (r 10) (r 9)) sending (fun t => decide (t.load (placePad 0 0x300) 8 = 2 ^ 62 + 3)) = true
    ∧ runs (.jcArrive (r 10)) sending (fun t => decide (t.load (placePad 0 0x300) 8 = 2 ^ 62 + 2) && decide (t.c.pc = sending.c.pc + 4)) = true
    ∧ runs (.jcArrive (r 11)) sending (fun t => let m := sentMsg (t.fillOwn 0); decide (t.load (placePad 0 0x340) 8 = 2 ^ 62) && decide (m.key = 0x66) && decide (m.len = 8) && decide (m.cls = 64)) = true
    ∧ runs (.depDec (r 14)) sending (fun t => decide (t.load (placePad 0 0x320) 8 = 2 ^ 63) && (t.fillOwn 0).c.deque.any fun x => decide (x.word = 0x4000000100) && decide (x.arg = 0x99)) = true
    ∧ runs (.depRead 5 (r 10)) sending (fun t => !(t.c.reg 5).full && decide ((t.fillOwn 0).c.x 5 = 2 ^ 62 + 3) && decide ((t.fillOwn 0).c.out = [])) = true := by
  decide +kernel
/-- Barrier 2 of cluster 0 with cores 0 and 1 as parties. -/
def atBar (arrived pending : BitVec 8) : State := sending.modBar 0 2 fun _ => { en := true, job := 1, parties := 3, arrived := arrived, pending := pending }
theorem witness_Barriers :
    (let b := (atBar 0 0).bar (coreCluster (atBar 0 0).cur) 2
     b.en = true ∧ b.job.toNat = (atBar 0 0).c.jobNum ∧ b.parties.getLsbD (coreK (atBar 0 0).cur) = true ∧ b.pending.getLsbD 0 = false ∧ b.arrived.getLsbD 0 = false)
    ∧ ((atBar 1 0).bar 0 2).arrived.getLsbD 0 = true ∧ ((atBar 1 1).bar 0 2).pending.getLsbD 0 = true ∧ ((atBar 0 0).bar 0 3).en = false
    ∧ (let b := (atBar 3 1).bar 0 2; b.en = true ∧ b.parties ≠ 0 ∧ b.arrived = b.parties) ∧ (atBar 1 0).c.l1Dirty = false ∧ ((atBar 1 0).bar 0 2).phase ≠ ((atBar 1 0).c.x 9).getLsbD 0 := by
  decide +kernel
theorem test_barriers :
    runs (.barArrive 5 2) (atBar 0 0) (fun t => decide ((t.bar 0 2).arrived = 1) && decide (t.c.x 5 = 0)) = true
    ∧ runs (.barArrive 5 2) (atBar 1 0) (fun t => decide ((t.bar 0 2).pending = 1) && decide (t.c.x 5 = 1)) = true
    ∧ runs (.barWait (r 9) 2) (atBar 1 0) (fun t => decide (t.c.pc = sending.c.pc + 4)) = true
    ∧ runs (.barrierPhaseComplete 0 2) (atBar 3 1) (fun t => (t.bar 0 2).phase && decide ((t.bar 0 2).arrived = 1) && decide ((t.bar 0 2).pending = 0)) = true := by
  decide +kernel

/-! Requests at their targets, replies at their cores. -/

/-- Device memory and core 1's scratchpad hold something; a counter record at 0x40000100 with 2, and one at 0x40000140 with 1, of kind 1. -/
def served : State :=
  let s := (world.store (placeDev 0x40000080) 8 0x1122334455667788).store (placePad 1 0x400) 8 0x99
  let s := (s.store (placeDev 0x40000100) 8 (2 ^ 62 + 2)).store (placeDev 0x40000140) 8 (2 ^ 62 + 1)
  (s.store (placeDev 0x40000148) 8 7).modCore 1 fun c => { c with act := some loadedAct }
def pRead : Packet := arrived (epHome 0) 1 (.read { core := 1, copy := false, owner := 9, part := 0, line := placeDev 0x40000080 })
def pStore : Packet := { arrived 1 0 (.posted { id := 9, line := placePad 1 0x400, mask := 0xF0, data := 0x1234567800000000, ep := 1 }) with inorder := true }
def pMark : Packet := arrived 1 0 (.posted { id := 9, kind := 1, line := placePad 1 0x400, ep := 1 })
def pAtomic (op : AmoOp) (b c : XWord) : Packet := arrived (epHome 0) 1 (.atomic ⟨1, 9, op, true, placeDev 0x40000080, b, c, 1, 0, 0⟩)
def pCounter (k : CtrKind) (a : Nat) : Packet := arrived (epHome 0) 1 (.counter ⟨1, 9, k, placeDev a, 0x10000000100, 1, 0⟩)
theorem witness_TargetsServeRequests :
    served.MemOk ∧ (∀ p ∈ [pRead, pStore, pMark, pAtomic .add 1 0, pAtomic .cas 0x1122334455667788 5, pCounter .arrive 0x40000100, pCounter .dec 0x40000100, pCounter .read 0x40000140],
      (got served p).takes p = true)
    ∧ isTag (lineOf (tagPlace 0 1)) = true ∧ isTag (placePad 1 0x400) = false
    ∧ served.placeFail (epHome 0) (placeDev 0x40000080) = 0 ∧ served.placeFail 1 (placePad 1 0x400) = 0 ∧ served.placeFail 1 (placePad 1 0x5FF80) = 2
    ∧ served.load (placeDev 0x40000100) 8 / 2 ^ 62 = 1 ∧ served.load (placeDev 0x40000100) 8 % 2 ^ 32 = 2 ∧ served.load (placeDev 0x40000180) 8 / 2 ^ 62 = 0 := by
  unfold State.MemOk; decide +kernel
theorem witness_TargetsServeRequests_arrives :
    (got served pRead).Arrives 7 pRead ∧ (got served pStore).Arrives 7 pStore ∧ (got served pMark).Arrives 7 pMark ∧ (got served (pAtomic .add 1 0)).Arrives 7 (pAtomic .add 1 0)
    ∧ (got served (pCounter .arrive 0x40000100)).Arrives 7 (pCounter .arrive 0x40000100) := by
  refine ⟨?_, ?_, ?_, ?_, ?_⟩ <;> constructor <;> decide +kernel
theorem test_targets :
    runs (.readRequest 7) (got served pRead) (fun t => t.net.any fun q => decide (q.dst = 1) && match q.body with | .readRep _ 0 d => decide (d.toNat % 2 ^ 64 = 0x1122334455667788) | _ => false) = true
    ∧ runs (.postedOperation 7) (got served pStore) (fun t => decide (t.load (placePad 1 0x400) 8 = 0x1234567800000099) && t.net.any fun q => decide (q.body = .ack 0 0 0 0)) = true
    ∧ runs (.postedOperation 7) (got served pMark) (fun t => !(t.core 1).lineFull 0x400 && (t.core 1).lineFull 0x480) = true
    ∧ runs (.atomicRequest 7) (got served (pAtomic .add 1 0)) (fun t => decide (t.load (placeDev 0x40000080) 8 = 0x1122334455667789)
        && t.net.any fun q => decide (q.dst = 1) && match q.body with | .atomicRep 9 0 v _ _ => decide (v = 0x1122334455667788) | _ => false) = true
    ∧ runs (.atomicRequest 7) (got served (pAtomic .cas 0x1122334455667788 5)) (fun t => decide (t.load (placeDev 0x40000080) 8 = 5)) = true
    ∧ runs (.counterOperation 7) (got served (pCounter .arrive 0x40000100)) (fun t => decide (t.load (placeDev 0x40000100) 8 = 2 ^ 62 + 1)) = true
    ∧ runs (.counterOperation 7) (got served (pCounter .arrive 0x40000140)) (fun t => t.net.any fun q => match q.body with | .counterRep 9 0 0 0 z d _ _ _ _ => z && decide (d = 7) | _ => false) = true
    ∧ runs (.counterOperation 7) (got served (pCounter .dec 0x40000100)) (fun t => t.net.any fun q => match q.body with | .counterRep _ 0 2 0 _ _ _ _ _ _ => true | _ => false) = true := by
  decide +kernel

/-- Core 0 with an outstanding access for register 5, whose instruction stands at 0x40. -/
def waiting (a : Access) : State := world.modC fun c => { c.setX 5 0x77 with out := [{ a with id := 9, pc := 0x40, instret := 3, oldX := ⟨0x77, true⟩, dest := .x 5 64 false, va := 0x123 }], blocked := some 9 }
def loading : State := waiting { id := 9, parts := [{ line := placePad 1 0 }], pieces := [⟨0, 64, 64, 0⟩] }
def repLoad (f : Nat) : Packet := arrived 0 1 (.readRep { core := 0, copy := false, owner := 9, part := 0, line := placePad 1 0 } f (0xABCDEF * 2 ^ 64))
def repAtomic : Packet := arrived 0 1 (.atomicRep 9 0 0x66 1 0x123)
def repCounter (f u : Nat) : Packet := arrived 0 1 (.counterRep 9 f u 0x55 false 0 0 0 .read 0x123)
def repProbe : Packet := arrived 0 1 (.probeRep 9 0x44)
theorem witness_CoresTakeReplies :
    (loading.core 0).out.find? (fun b => decide (b.id = 9)) = some ((loading.core 0).out.headD { id := 0 }) ∧ ((loading.core 0).out.headD { id := 0 }).st = .pending
    ∧ ((loading.core 0).out.headD { id := 0 }).acq = false ∧ ((loading.core 0).out.headD { id := 0 }).parts = [{ line := placePad 1 0 }]
    ∧ ((loading.core 0).out.headD { id := 0 }).pieces = [⟨0, 8 * 8, 8 * sizeBytes .d, 0⟩] ∧ ((loading.core 0).out.headD { id := 0 }).dest = .x 5 (8 * sizeBytes .d) false
    ∧ ((loading.core 0).out.headD { id := 0 }).remote = true ∧ (∀ p ∈ [repLoad 0, repLoad 3, repAtomic, repCounter 0 0, repCounter 0 2, repCounter 1 0, repProbe], (got loading p).takes p = true)
    ∧ isCore 0 = true ∧ (loading.core 0).out.map (fun a => a.flags) = [0] := by
  decide +kernel
theorem witness_CoresTakeReplies_arrives :
    (got loading (repLoad 0)).Arrives 7 (repLoad 0) ∧ (got loading repAtomic).Arrives 7 repAtomic ∧ (got loading repProbe).Arrives 7 repProbe
    ∧ (got loading (repCounter 0 0)).Arrives 7 (repCounter 0 0) := by
  refine ⟨?_, ?_, ?_, ?_⟩ <;> constructor <;> decide +kernel
/-- A failed access of a core with a handler. -/
def failedAcc (st : AccState) : State := (waiting { id := 9, st := st }).modC fun c => { c with ctx := { c.ctx with tvecEn := true, tvecAddr := 0x200 } }
/-- A posted store in core 0's retain buffer, under tag 2, generation 1. -/
def ackState (f : Nat) : State :=
  let q : Posted := { id := 9, va := 0x100100000, line := placePad 1 0, ep := 1, job := 1 }
  got ((world.modC fun c => { c with posted := [q] }).modEp 0 fun e => { e with retain := [{ rtag := 2, gen := 1, bytes := 32, born := 0, pkt := { arrived 1 0 (.posted q) with rtag := 2, gen := 1 } }] })
    (arrived 0 1 (.ack 2 1 0 f))
theorem witness_CoresTakeReplies_fails :
    (let c := (failedAcc (.failed 3)).core 0
     c.finish = none ∧ c.act ≠ none ∧ c.held = none ∧ c.out.length = 1 ∧ c.vq = [] ∧ c.timers = [] ∧ c.ctx.tvecEn = true ∧ c.ctx.status.intrap = false ∧ c.ctx.depth < 65535 ∧ 0 < c.freeSlots)
    ∧ (let s := ackState 2; (∃ r, s.retained 0 2 1 = some r ∧ ∃ q, r.pkt.body = .posted q ∧ q.copy = none ∧ q.kind ≤ 2 ∧ s.ErrRoom q.job)
        ∧ ∀ x ∈ (s.ep 0).retain, x.waits ≤ 1) := by
  refine ⟨by decide +kernel, ⟨_, by rfl, _, by rfl, by unfold State.ErrRoom; decide +kernel⟩, by decide +kernel⟩
theorem witness_CoresTakeReplies_ack : (ackState 2).Arrives 7 (arrived 0 1 (.ack 2 1 0 2)) := by constructor <;> decide +kernel
theorem test_replies :
    runs (.loadReply 7) (got loading (repLoad 0)) (fun t => decide (t.c.x 5 = 0xABCDEF) && decide (t.c.out = []) && decide (t.c.pc = loading.c.pc + 4)) = true
    ∧ runs (.loadReply 7) (got loading (repLoad 3)) (fun t => t.c.out.any fun a => decide (a.st = .failed 3)) = true
    ∧ runs (.atomicReply 7) (got loading repAtomic) (fun t => decide (t.c.x 5 = 0x66) && decide (t.c.ctx.flags = 1) && decide (t.c.out = [])) = true
    ∧ runs (.probeReply 7) (got loading repProbe) (fun t => decide (t.c.x 5 = 0x44) && decide (t.c.out = [])) = true
    ∧ runs (.counterReply 7) (got loading (repCounter 0 0)) (fun t => decide (t.c.x 5 = 0x55) && decide (t.c.out = [])) = true
    ∧ runs (.counterReply 7) (got loading (repCounter 0 2)) (fun t => t.c.out.any fun a => decide (a.st = .underflow 2)) = true
    ∧ runs (.counterReply 7) (got loading (repCounter 1 0)) (fun t => t.c.out.any fun a => decide (a.st = .failed 1)) = true
    ∧ runs (.replyTimeout 0 9) { loading with dtime := 1000000 } (fun t => t.c.out.any fun a => decide (a.st = .failed 4)) = true
    ∧ runs (.remoteLoadFailure 0) (failedAcc (.failed 3)) (fun t => decide (t.c.ctx.epc = 0x40) && decide (t.c.ctx.cause = 8) && decide (t.c.ctx.tval = 0x0300000000000123) && decide (t.c.pc = 0x800)
        && decide (t.c.ctx.instret = 3) && decide (t.c.out = [])) = true
    ∧ runs (.remoteLoadFailure 0) (failedAcc (.underflow 2)) (fun t => decide (t.c.ctx.cause = 10) && decide (t.c.ctx.tval = 0x2000000000000123)) = true
    ∧ runs (.acknowledgement 7) (ackState 2) (fun t => decide (t.c.posted = []) && decide ((t.ep 0).retain = []) && (t.job 1).errs.any fun e => decide (e.cause = 2) && decide (e.addr = 0x100100000)) = true := by
  decide +kernel

/-- A failed load with two entries in the undo log, the older of which recorded register 6. -/
def undone : State := (failedAcc (.failed 3)).modC fun c =>
  { (c.setX 6 0x99).modCtx (fun x => { x with instret := 9, flags := 4 }) with
    undo := [⟨[], [], [], [], { c.ctx with instret := 5 }, [], none, 12⟩, ⟨[(6, ⟨0x66, true⟩)], [], [], [], { c.ctx with instret := 3, flags := 1 }, [], none, 11⟩] }
theorem witness_CoresTakeReplies_undo :
    let c := undone.core 0
    let was := (c.undo.getLast?.map UndoEntry.ctx).getD c.ctx
    was.tvecEn = true ∧ was.status.intrap = false ∧ was.depth < 65535 ∧ 0 < ({ c with ctx := was } : Core).freeSlots ∧ c.out.length = 1 ∧ was.flags = 1
      ∧ c.undo.length = 2 ∧ (c.reg 6).val = 0x99 := by decide +kernel
theorem test_undone :
    runs (.remoteLoadFailure 0) undone (fun t => decide (t.c.ctx.epc = 0x40) && decide ((t.c.regAt (undone.c.key 6)).val = 0x66) && decide (t.c.ctx.flags = 1) && decide (t.c.ctx.instret = 3)
      && decide (t.c.undo = [])) = true := by decide +kernel

/-- A walk for core 0's page fault, and an invalidation of one page on its way to cluster 0. -/
def walking (page : Nat) : State := { (failedAcc .good).modC fun c => { c with out := [], blocked := none } with walks := [⟨5, 0, 1, page, [(0, .core 0 0x99)]⟩] }
def invalidating : State := { world with invals := [⟨3, 9, 1, false, 2 ^ 40, 0, [0]⟩] }
def extraBack : State := world.modC fun c => { c with l1 := [{ line := placeDev 0x40000080, ep := epHome 0, data := 5, dirty := 1 }] }
theorem witness_WalksInvalidationsWriteBacks :
    (∃ w, (walking (2 ^ 40)).walks.find? (fun w => decide (w.id = 5)) = some w ∧ w.waiters = [(0, .core 0 0x99)] ∧ ∃ e, (walking (2 ^ 40)).walk w.job w.page = some e)
    ∧ (walking (2 ^ 41)).walk 1 (2 ^ 41) = none ∧ (let c := (walking (2 ^ 41)).core 0
        c.act ≠ none ∧ c.held = none ∧ c.vq = [] ∧ c.timers = [] ∧ c.out = [] ∧ c.ctx.tvecEn = true ∧ c.ctx.status.intrap = false ∧ c.ctx.depth < 65535 ∧ 0 < c.freeSlots)
    ∧ (∃ v, invalidating.invals.find? (fun v => decide (v.id = 3)) = some v ∧ 0 ∈ v.left ∧ v.left = [0] ∧ ∀ i, i < 8 → (invalidating.core (clusterCore 0 i)).translating v = false)
    ∧ (∃ x, (extraBack.core 0).l1 = [x] ∧ x.line = placeDev 0x40000080 ∧ x.dirty ≠ 0) := by
  refine ⟨⟨_, by rfl, by decide +kernel, _, by rfl⟩, by decide +kernel, by decide +kernel, ⟨_, by rfl, by decide +kernel⟩, ⟨_, by rfl, by decide +kernel⟩⟩
theorem test_walks :
    runs (.pageWalk 5) (walking (2 ^ 40)) (fun t => decide ((t.cluster 0).tlb.head? = some ⟨1, 2 ^ 40, 2 ^ 30, 0x40000007⟩) && decide (t.walks = [])) = true
    ∧ runs (.pageWalk 5) (walking (2 ^ 41)) (fun t => decide (t.c.ctx.cause = 6) && decide (t.c.ctx.tval = 0x99) && decide (t.c.pc = 0x800)) = true
    ∧ runs (.tlbInvalidation 3 0) invalidating (fun t => decide ((t.cluster 0).tlb = []) && decide (t.invals = [])) = true
    ∧ runs (.l1ExtraWriteBack 0 (placeDev 0x40000080)) extraBack (fun t => t.net.any fun p => decide (p.dst = epHome 0) && match p.body with | .posted q => decide (q.kind = 3) && decide (q.data = 5) | _ => false) = true := by
  decide +kernel

/-! Homes, activations, placement. -/

/-- Actor (64, 0x55) in cluster 0's slice, as entry 20, hosted by core 2 with its curd at line 100. -/
def actor : FEntry := { id := 20, cls := 64, key := 0x55, job := 1, st := .live, host := 2, hosted := true, incarn := 4, curd := 12800, idleSince := 1 }
def home (e : FEntry) : State := (world.modCluster 0 fun c => { c with flow := [e] }).modCore 1 fun c => { c with count := { c.count with refused := 1 } }
def letter : Msg := { key := 0x55, cls := 64, job := 1, len := 8, payload := [1, 2, 3, 4, 5, 6, 7, 8], kind := 1, score := 1, stamp := 6 }
def pMsg : Packet := arrived (epHome 0) 1 (.msg letter)
/-- The home with one packet. -/
def post (e : FEntry) (b : Body) : State := got (home e) (arrived (epHome 0) 1 b)
/-- A full quota. -/
def crowded : State := got ((home actor).modCore 2 fun c => { c with inbox := [⟨{ letter with seq := 1 }, 3, 0, true, false, 0⟩] }) pMsg
/-- Core 0 or the host's endpoint retains a message, under tag 2, generation 1, sequence number 4. -/
def retained (ep : Nat) (m : Msg) (b : Body) (at_ : Option Nat) (refusals : Nat) : State :=
  got (world.modEp ep fun e => { e with retain := [{ rtag := 2, gen := 1, bytes := 32, born := 0, refusals := refusals, resendAt := at_, pkt := { arrived (epHome 0) ep (.msg m) with seq := 4, rtag := 2, gen := 1 } }] })
    (arrived ep (epHome 0) b)
def req (k : AReqKind) : AReq := ⟨.core 1, k, 64, 0x55, 3, 1, 1, 9, 6⟩
def ask (k : AReqKind) : Body := .areq (req k)
/-- A request of core 5's stream waits for the actor, and one of core 1's for another. -/
def heldBack : State := (home { actor with pend := 1, retq := true, byReq := some (.core 5) }).modCluster 0 fun c => { c with hold := [.req { req .pin with sid := .core 5 }] }
def ownHeld : State := (home actor).modCluster 0 fun c => { c with hold := [.req { req .pin with key := 0x66 }] }

theorem witness_HomesAcceptAndRefuse :
    (let s := got (home actor) pMsg
     (s.cls letter.cls).valid = true ∧ (s.cluster 0).sticky = [] ∧ (s.cluster 0).entryOf letter.cls letter.key = some actor ∧ s.waitsFor 0 64 0x55 letter.space = false ∧ s.inboxTakes 2 letter = true)
    ∧ crowded.inboxTakes 2 letter = false ∧ letter.exempt = false ∧ letter.noreply = false ∧ letter.stream = .core 1 ∧ (got (home actor) pMsg).takes pMsg = true
    ∧ (home actor).reqBusy 0 (req .pin) [] = false ∧ (home { actor with byReq := some (.core 5) }).reqBusy 0 (req .pin) [] = true ∧ (home { actor with byReq := some (.core 1) }).reqBusy 0 (req .pin) [] = false
    ∧ (heldBack.cluster 0).heldReqs = [{ req .pin with sid := .core 5 }] ∧ (ownHeld.cluster 0).heldReqs = [{ req .pin with key := 0x66 }] ∧ actor.byReq = none ∧ (∀ k ∈ [AReqKind.retire, .pin, .unpin, .move, .probe], heldBack.reqBusy 0 (req k) (heldBack.cluster 0).heldReqs = true) ∧ ownHeld.reqBusy 0 (req .probe) (ownHeld.cluster 0).heldReqs = true ∧ ((home actor).cls 64).exhausted = false
    ∧ ({ letter with kind := 0, scls := 64, skey := 3 } : Msg).stream = .actor 64 3 ∧ ({ letter with kind := 2, skey := 3 } : Msg).stream = .queue 3
    ∧ (∀ r ∈ ((retained 0 letter (.refuse 2 1 4) (some 10) 3).ep 0).retain, ((retained 0 letter (.refuse 2 1 4) (some 10) 3).ep 0).olderFirst r letter = false) ∧ actor.retq = false ∧ actor.moveTo = none ∧ ({ actor with pend := 1 } : FEntry).idle = false := by
  decide +kernel
theorem witness_HomesAcceptAndRefuse_retained :
    ∃ r, (retained 0 letter (.refuse 2 1 4) none 3).retained 0 2 1 = some r ∧ r.pkt.legs = [] ∧ r.pkt.dst = epHome 0 ∧ r.pkt.seq = 4 ∧ r.pkt.body = .msg letter ∧ r.waits ≤ 1 :=
  ⟨_, by rfl, by decide +kernel⟩
theorem witness_HomesAcceptAndRefuse_released : ((retained 0 letter (.refuse 2 1 4) (some 10) 3).core 0).Released := by constructor <;> decide +kernel
theorem witness_HomesAcceptAndRefuse_arrives :
    (got (home actor) pMsg).Arrives 7 pMsg ∧ (retained 0 letter (.refuse 2 1 4) none 3).Arrives 7 (arrived 0 (epHome 0) (.refuse 2 1 4))
    ∧ (retained epHost letter (.returned 2 1) none 3).Arrives 7 (arrived epHost (epHome 0) (.returned 2 1)) ∧ (post actor (ask .move)).Arrives 7 (arrived (epHome 0) 1 (ask .move)) := by
  refine ⟨?_, ?_, ?_, ?_⟩ <;> constructor <;> decide +kernel
def entry20 (t : State) : FEntry := (t.entry 0 20).getD {}
def again (ep : Nat) (t : State) : Bool := (t.ep ep).retain.any fun x => decide (x.refusals = 4) && decide (x.resendAt = some (10 + 2048))
theorem test_homes :
    runs (.homeMessageArrival 7) (got (home actor) pMsg) (fun t => ((t.core 2).inbox.any fun x => decide (x.msg = letter) && x.due && !x.running) && decide (entry20 t = { actor with pend := 1 })
      && t.net.any fun q => decide (q.dst = 1) && decide (q.body = .ack 0 0 0 0)) = true
    ∧ runs (.homeMessageArrival 7) crowded (fun t => decide ((t.core 2).inbox.length = 1) && decide ((t.cluster 0).sticky = [⟨.core 1, 64, 0x55, 0⟩]) && t.net.any fun q => decide (q.body = .refuse 0 0 0)) = true
    ∧ runs (.refusalArrival 7) (retained 0 letter (.refuse 2 1 4) none 3) (again 0) = true
    ∧ runs (.refusalArrival 7) (retained 0 { letter with kind := 0, scls := 64, skey := 3 } (.refuse 2 1 4) none 3) (fun t => decide ((t.ep 0).retain = [])) = true
    ∧ runs (.hostPartRefusal 7) ((retained epHost { letter with kind := 2, skey := 3 } (.refuse 2 1 4) none 3).modQueue 3 fun q => { q with state := 1, lock := some 2 })
        (fun t => again epHost t && decide ((t.queue 3).lock = none)) = true
    ∧ runs (.returnedReply 7) (retained 0 letter (.returned 2 1) none 3) (again 0) = true
    ∧ runs (.hardwareResend 0 2) (retained 0 letter (.returned 2 1) (some 10) 3) (fun t => t.net.any fun q => match q.body with | .msg m => decide (m.key = 0x55) && decide (m.flags = 1) && decide (m.payload = letter.payload) | _ => false) = true
    ∧ runs (.timedMessageDue 2 3) ((home actor).modCore 2 fun c => { c with inbox := [⟨{ letter with timed := true, time := 0 }, 3, 0, false, false, 0⟩] }) (fun t => ((t.core 2).inbox.all fun x => x.due)) = true := by
  decide +kernel
theorem test_actor_requests_at_home :
    runs (.actorRequest 7) (post { actor with pend := 1 } (ask .retire)) (fun t => decide (entry20 t = { actor with pend := 1, retq := true, byReq := some (.core 1) })) = true
    ∧ runs (.actorRequest 7) (post { actor with pin := true } (ask .unpin)) (fun t => decide (entry20 t = actor)) = true
    ∧ runs (.actorRequest 7) (post actor (ask .pin)) (fun t => decide (entry20 t = { actor with pin := true })) = true
    ∧ runs (.actorRequest 7) (post actor (ask .move)) (fun t => decide (entry20 t = { actor with st := .moving, moveTo := some 3, byReq := some (.core 1) })) = true
    ∧ runs (.actorRequest 7) (got heldBack (arrived (epHome 0) 1 (ask .unpin))) (fun t => decide ((t.cluster 0).heldReqs = [{ req .pin with sid := .core 5 }, req .unpin])) = true
    ∧ runs (.actorRequest 7) (post { actor with pend := 3 } (ask .probe)) (fun t => t.net.any fun q => decide (q.dst = 1) && decide (q.body = .probeRep 9 0x4003000200000004)) = true := by
  decide +kernel

/-- Core 2, between activations, with a message or a task. -/
def withLetter : State := (home { actor with pend := 1 }).modCore 2 fun c => { c with inbox := [⟨{ letter with skey := 0x33 }, 3, 0, true, false, 0⟩] }
def withTask : State := (home actor).modCore 2 fun c => { c with deque := [{ word := 0x4000000100, arg := 0x99, stamp := 6, pusher := 5, tid := 7, job := 1 }] }
def starts : State := home { actor with st := .activating, initDone := true }
def written : Xfer := { id := 30, g := 0, entry := 20, slot := 2 ^ 40 + 0x10003, job := 1 }
def retiring : State := { home { actor with st := .retiring } with xfers := [written] }
theorem witness_ActivationsStartAndEnd :
    withLetter.between 2 = true ∧ withLetter.candidate 2 = some (.msg ⟨{ letter with skey := 0x33 }, 3, 0, true, false, 0⟩)
    ∧ withTask.between 2 = true ∧ withTask.candidate 2 = some (.task { word := 0x4000000100, arg := 0x99, stamp := 6, pusher := 5, tid := 7, job := 1 }) ∧ world.between 0 = false
    ∧ (∀ c ∈ starts.clusters, c.2.hold = [] ∧ ∀ e ∈ c.2.flow, e.st ≠ .activating ∨ e.hosted = true) ∧ starts.entry 0 20 = some { actor with st := .activating, initDone := true }
    ∧ ((home { actor with pend := 2 }).cluster 0).entryOf 64 0x55 = some { actor with pend := 2 } ∧ (home actor).retirable actor = true ∧ ((home actor).cls 64).idle = 5
    ∧ starts.xferDone 0 20 = true ∧ retiring.xferOf 0 20 = some written ∧ written.complete = true
    ∧ ({ written with writes := 1 } : Xfer).complete = false := by
  decide +kernel
theorem witness_ActivationsStartAndEnd_done : (post { actor with pend := 2 } (.done 64 0x55 20)).Arrives 7 (arrived (epHome 0) 1 (.done 64 0x55 20)) := by constructor <;> decide +kernel
/-- The page tables are full and no page of the reserve is left, or a message under back-off. -/
def caveFull : State := { (home { actor with st := .retiring }) with feEvents := [.caveFull 0 20 (2 ^ 40)] }
def fullTables : State := caveFull.store 0x10010 8 3
def backOff : State := { home actor with redel := [⟨8, 10, 0, 64, 0x55, letter⟩] }
theorem witness_ActivationsStartAndEnd_events :
    caveFull.poolIdle ≠ none ∧ (let r : Redeliver := ⟨8, 10, 0, 64, 0x55, letter⟩; backOff.redel = [r] ∧ r.due ≤ backOff.dtime ∧ backOff.inboxTakes 2 r.msg = true) := by
  decide +kernel
theorem witness_ActivationsStartAndEnd_full :
    fullTables.poolIdle ≠ none ∧ (let s0 : State := { fullTables with feEvents := [] }; s0.newBucket 1 64 (s0.chainEnd 1 (2 ^ 40) chainFuel) = none)
    ∧ runs (.caveFullEvent 20) fullTables (fun t => decide (entry20 t = { actor with incarn := 5 }) && (t.cls 64).exhausted && decide (t.feEvents = [])) = true := by
  decide +kernel
theorem test_activations :
    runs (.activationStart 2) withLetter (fun t => ((t.core 2).act.any fun a => decide (a.kind = .actor)) && decide ((t.core 2).x 8 = 0x55) && decide ((t.core 2).x 9 = 0x33) && decide ((t.core 2).x 11 = 6)
      && decide ((t.core 2).x 12 = 0x0807060504030201) && decide ((t.core 2).x 1 = 12800)) = true
    ∧ runs (.activationStart 2) withTask (fun t => ((t.core 2).act.any fun a => decide (a.kind = .task)) && decide ((t.core 2).pc = 0x100) && decide ((t.core 2).x 8 = 0x99) && decide ((t.core 2).x 9 = 5)
      && decide ((t.core 2).x 12 = 0x4000000100)) = true
    ∧ runs (.activationGoLive 0 20) starts (fun t => decide (entry20 t = { actor with incarn := 5, idleSince := 10, initDone := true })) = true
    ∧ runs (.activationDoneAtHome 7) (post { actor with pend := 2 } (.done 64 0x55 20)) (fun t => decide (entry20 t = { actor with pend := 1, idleSince := 10 })) = true
    ∧ runs (.activationDoneAtHome 7) (post { actor with pend := 2 } (.done 64 0x55 19)) (fun t => decide (entry20 t = { actor with pend := 2 })) = true
    ∧ runs (.idleTimerExpiry 0 20) (home actor) (fun t => decide (entry20 t = { actor with st := .retiring }) && decide (t.xfers.map Xfer.kind = [.cave])) = true
    ∧ runs (.caveWriteAck 0 20) retiring (fun t => decide (entry20 t = { actor with st := .hint, hosted := false, slot := 2 ^ 40 + 0x10003, curd := 0, seqn := retiring.nextId })) = true
    ∧ runs (.retryRedelivery 8) backOff (fun t => decide (t.redel = []) && (t.core 2).inbox.any fun x => decide (x.msg = letter)) = true := by
  decide +kernel

/-- A commanded migration from core 2 to core 3; a move to core 3 under way; a task that core 3 may steal. -/
def commanded : State := { home actor with migr := [(2, 3, 4)] }
def leaving (pool : Nat) : State := (home { actor with st := .moving, moveTo := some 3 }).modJob 1 fun j => { j with poolLines := pool }
def copied : Xfer := { id := 30, g := 0, entry := 20, kind := .move, host := 3, curd := 12800, job := 1 }
def moving (x : Xfer) : State := { home { actor with st := .moving, moveTo := some 3, reported := true } with xfers := [x] }
/-- A line of the curd has come back to cluster 0's home. -/
def line0 : Body := .readRep { core := epHome 0, copy := false, owner := 30, part := 0, line := placePad 2 12800 } 0 0x1234
def reading : State := got (moving { copied with dsts := curdLines 3 12800 1, reads := [0] }) (arrived (epHome 0) 2 line0)
def stealing : State := ((home actor).modJob 1 fun j => { j with steal := 1 }).modCore 5 fun c => { c with deque := [{ word := 0x4000000100, tid := 7, job := 1 }] }
theorem witness_ActorsMoveAndFloorsPublish :
    (2, 3, 4) ∈ commanded.migr ∧ (∀ c ∈ (leaving 8).clusters, c.2.hold = [] ∧ ∀ e ∈ c.2.flow, e.st ≠ .activating ∨ e.hosted = true)
    ∧ ((leaving 8).cls 64).curdl.toNat ≤ ((leaving 8).freeRun 1 3).2 ∧ ((leaving 0).freeRun 1 3).2 < ((leaving 0).cls 64).curdl.toNat ∧ (leaving 8).entryHome 20 = some 0
    ∧ (leaving 8).sentSettled 2 64 0x55 = true ∧ (moving copied).xferOf 0 20 = some copied ∧ copied.complete = true ∧ ({ copied with reads := [0] } : Xfer).complete = false
    ∧ (∀ c ∈ (moving copied).clusters, c.2.hold = [] ∧ ∀ e ∈ c.2.flow, e.st ≠ .activating ∨ e.hosted = true)
    ∧ reading.takes (arrived (epHome 0) 2 line0) = true ∧ (curdLines 3 12800 1)[0]? = some (placePad 3 12800, 3) ∧ ((home actor).cluster 0).hold = []
    ∧ stealing.between 3 = true ∧ stealing.candidate 3 = none ∧ stealing.victim 3 = some 5
    ∧ stealing.loot 3 5 = some { word := 0x4000000100, tid := 7, job := 1 } ∧ withTask.candidate 2 ≠ none := by
  decide +kernel
theorem witness_ActorsMove_arrives :
    (post actor (.move 64 0x55 3)).Arrives 7 (arrived (epHome 0) 1 (.move 64 0x55 3)) ∧ reading.Arrives 7 (arrived (epHome 0) 2 line0) := by
  refine ⟨?_, ?_⟩ <;> constructor <;> decide +kernel
theorem test_moves :
    runs (.migrationCommand 2 3 4) commanded (fun t => decide (t.migr = []) && t.net.any fun q => decide (q.src = 2) && decide (q.dst = epHome 0) && decide (q.body = .move 64 0x55 3)) = true
    ∧ runs (.moveRequest 7) (post actor (.move 64 0x55 3)) (fun t => decide (entry20 t = { actor with st := .moving, moveTo := some 3 })) = true
    ∧ runs (.moveRequest 7) (post actor (.move 64 0x55 2)) (fun t => decide (entry20 t = { actor with incarn := 5 })) = true
    ∧ runs (.moveSourceReport 20) (leaving 8) (fun t => (entry20 t).reported && decide (t.xfers.map (fun x => (x.host, x.curd, x.reads)) = [(3, 12800, [0])])) = true
    ∧ runs (.moveSourceReport 20) (leaving 0) (fun t => decide (entry20 t = actor)) = true
    ∧ runs (.loadReply 7) reading (fun t => t.net.any fun q => decide (q.dst = 3) && match q.body with | .posted w => decide (w.line = placePad 3 12800) && decide (w.data = 0x1234) | _ => false) = true
    ∧ runs (.moveComplete 0 20) (moving copied) (fun t => decide (entry20 t = { actor with host := 3, incarn := 5, curd := 12800 })) = true
    ∧ runs (.steal 3) stealing (fun t => ((t.core 3).act.any fun a => decide (a.kind = .task) && decide (a.task.tid = 7)) && decide ((t.core 5).deque = []) && decide ((t.core 3).pc = 0x100)) = true := by
  decide +kernel
/-- Flags on their way to group 3, and a first-NaN report of core 0. -/
def numbers : State := { ((world.modGroup 3 fun g => { g with flags := 3, fnarm := true }).modC fun c => { c with events := [⟨4, 1, .reportPending, false, ⟨0, 0, 0⟩⟩] }) with
  fwds := [{ id := 6, group := 3, set := 4, clear := 1 }], nanReports := [⟨7, 3, 0, 4, 1⟩], dtime := 64 }
theorem witness_FloorsAndGroups :
    numbers.nextFloor ≤ numbers.dtime ∧ numbers.nextFlags ≤ numbers.dtime ∧ (∃ x, (1, x) ∈ numbers.jobs) ∧ numbers.outstanding 1 ≠ []
    ∧ numbers.fwds.find? (fun f => decide (f.id = 6)) = some { id := 6, group := 3, set := 4, clear := 1 }
    ∧ (let x : NanReport := ⟨7, 3, 0, 4, 1⟩; numbers.nanReports.find? (fun r => decide (r.id = 7) && numbers.nanNext r) = some x ∧ (numbers.core x.core).uid = x.act) := by
  refine ⟨by decide +kernel, by decide +kernel, ⟨numbers.job 1, by decide +kernel⟩, by decide +kernel⟩
theorem test_numbers_groups :
    runs .floorPublish numbers (fun t => !(t.job 1).floorEmpty && decide ((t.job 1).floorMin ∈ numbers.outstanding 1) && decide (t.nextFloor = 128)) = true
    ∧ runs (.groupFlagForward 6) numbers (fun t => decide ((t.group 3).flags = 6) && decide (t.fwds = [])) = true
    ∧ runs .groupFlagBroadcast numbers (fun t => decide ((t.group 3).sent = 3)) = true
    ∧ runs (.firstNanReport 7) numbers (fun t => decide ((t.core 0).events.map MEvent.kind = [.granted]) && !(t.group 3).fnarm && decide (t.nanReports = [])) = true := by
  decide +kernel

/-! Code misses, pre-emption, the network, links. -/

/-- Core 0 of job 1 holds a fetch of an address in its image, which stands in mapped device memory, or beyond it. -/
def fetching (a : BitVec 32) (taken : Bool) : State :=
  { ((world.modJob 1 fun j => { j with codelen := 8192 }).modC fun c => { c with fetch := some ⟨a, taken⟩, ctx := { c.ctx with tvecEn := true, tvecAddr := 0x200 } }).store (placeDev 0x40001004) 4 0x13 with
    feEvents := if taken then [.codeMiss 0 1 a] else [] }
/-- A walk depends on its address by 64 KiB pages only. -/
theorem walkFrom_page (s : State) (a b : Nat) (h : a / 65536 = b / 65536) : ∀ n t l, s.walkFrom a t l n = s.walkFrom b t l n := by
  have shift : ∀ l, a / 2 ^ levelShift l = b / 2 ^ levelShift l := by
    intro l
    have : levelShift l = 39 ∨ levelShift l = 30 ∨ levelShift l = 21 ∨ levelShift l = 16 := by
      unfold levelShift; repeat' split
      all_goals simp_all
    rcases this with h | h | h | h <;> rw [h] <;> omega
  have ok : ∀ size e, s.leafOk a size e = s.leafOk b size e := by
    intro size e
    have h1 : (2 ^ 40 ≤ a) = (2 ^ 40 ≤ b) := by rw [eq_iff_iff]; omega
    have h2 : (a < 0x018000000000) = (b < 0x018000000000) := by rw [eq_iff_iff]; omega
    simp only [State.leafOk, h1, h2]
  intro n
  induction n with
  | zero => intro t l; rfl
  | succ n ih => intro t l; simp only [State.walkFrom, entryAt, shift, ih]; congr! 4; exact ok _ _ ▸ rfl
/-- A block of device memory without failing lines is read, whatever its bytes. -/
theorem codeBlock_isSome (s : State) (j b : Nat) (e : Leaf) (h : ¬ (s.job j).codelen < 4096 * b + 4096) (hw : s.walk j ((s.job j).code.toNat + 4096 * b) = some e)
    (ht : (e.leaf.extractLsb' 60 4).toNat = 0) (hs : (e.leaf.extractLsb' 16 32).toNat * 65536 + e.size < 2 ^ 39) (hz : 0 < e.size)
    (ha : (s.job j).code.toNat % 65536 = 0) (hc : 2 ^ 40 ≤ (s.job j).code.toNat) (hb : b < 16) (h1 : s.ecc = []) (h2 : s.poison = []) (h3 : s.unreachable = []) : (s.codeBlock j b).isSome = true := by
  have place : ∀ i, i < 4096 → ∃ p, s.placeOf? j ((s.job j).code.toNat + 4096 * b + i) = some p ∧ s.placeFail p.2 (lineOf p.1) = 0 := by
    intro i hi
    have hw' : s.walk j ((s.job j).code.toNat + 4096 * b + i) = some e := by
      rw [← hw]; exact walkFrom_page s _ _ (by omega) _ _ _
    refine ⟨_, by rw [State.placeOf?, if_neg (by omega), hw']; rfl, ?_⟩
    have hm : e.pa ((s.job j).code.toNat + 4096 * b + i) < 2 ^ 39 := by
      have := Nat.mod_lt ((s.job j).code.toNat + 4096 * b + i) hz
      unfold Leaf.pa; omega
    have hp : isPad (lineOf (placeDev (e.pa ((s.job j).code.toNat + 4096 * b + i)))) = false := by
      simp only [isPad, lineOf, placeDev, if_pos hm, Bool.and_eq_false_iff, decide_eq_false_iff_not]; left; omega
    simp only [State.leafTgt, ht]
    simp [State.placeFail, hp, h1, h2, h3]
  have all : ∀ l : List Nat, (∀ i ∈ l, i < 4096) → (l.foldr (fun i (r : Option (List Byte)) =>
      match r, s.placeOf? j ((s.job j).code.toNat + 4096 * b + i) with
      | some l, some p => if s.placeFail p.2 (lineOf p.1) = 0 then some (s.byte p.1 :: l) else none
      | _, _ => none) (some [])).isSome = true := by
    intro l
    induction l with
    | nil => intro _; rfl
    | cons i t ih =>
      intro hl
      obtain ⟨r, hr⟩ := Option.isSome_iff_exists.mp (ih fun x hx => hl x (List.mem_cons_of_mem _ hx))
      obtain ⟨p, hp, hf⟩ := place i (hl i List.mem_cons_self)
      rw [List.foldr_cons, hr]
      simp only [hp]; rw [if_pos hf]; rfl
  simp only [State.codeBlock, if_neg h]
  exact all _ fun i hi => List.mem_range.mp hi

theorem witness_CodeMissesAndPreemption_block : ((fetching 0x1004 true).codeBlock 1 1).isSome = true := by
  apply codeBlock_isSome _ _ _ ⟨2 ^ 40, 2 ^ 30, 0x40000007⟩ <;> decide +kernel
theorem witness_CodeMissesAndPreemption :
    (fetching 0x1004 false).MemOk ∧ ((fetching 0x1004 false).core 0).fetch = some ⟨0x1004, false⟩ ∧ (fetching 0x1004 false).eventRoom = true ∧ (fetching 0x1004 true).patching 0 = false ∧ (fetching 0x2004 true).preqStands 0 = false
    ∧ (fetching 0x1004 true).missOf 0 = some (1, 0x1004)
    ∧ (fetching 0x1004 true).poolTakes (.codeMiss 0 1 0x1004) = true ∧ ((fetching 0x1004 true).core 0).jobNum = 1 
    ∧ ((fetching 0x1004 true).job 1).patches = [] ∧ (fetching 0x2004 true).missOf 0 = some (1, 0x2004) ∧ (fetching 0x2004 true).poolTakes (.codeMiss 0 1 0x2004) = true
    ∧ (fetching 0x2004 true).codeBlock 1 2 = none := by
  unfold State.MemOk; decide +kernel
theorem witness_CodeMissesAndPreemption_ready : ({ fetching 0x2004 true with cur := 0 } : State).HandlerReady := by constructor <;> decide +kernel
theorem test_code_misses :
    runs (.codeMissEvent 0) (fetching 0x1004 false) (fun t => decide (t.feEvents = [.codeMiss 0 1 0x1004]) && decide ((t.core 0).fetch = some ⟨0x1004, true⟩)) = true
    ∧ runs (.codeMissTrap 0) (fetching 0x2004 true) (fun t => decide ((t.core 0).ctx.cause = 12) && decide ((t.core 0).ctx.tval = 0x2004) && decide ((t.core 0).pc = 0x800) && decide ((t.core 0).fetch = none)) = true := by
  decide +kernel

/-- Job 2 of a better priority; core 0 at a pre-emption point, with a request that stands for long, and with a saved activation. -/
def urgent : State := ((world.modJob 1 fun j => { j with prio := 3 }).modJob 2 fun j => { j with live := true, prio := 1, cset := 1 }).modC fun c => { c with preq := some 2, gap := 10 }
def asked : State := { urgent with cores := world.cores, requests := [(0, 2)] }
def atPoint : State := (urgent.store (placePad 0 0x50000) 1 7).modC fun c => { c.setX 6 0x77 with preempting := true }
def late : State := { urgent with cyc10 := 100000 }
def preempted : State := match exec (.preemption 0) atPoint with | .next t => t | _ => world
def savedState : State := match exec (.contextSaveComplete 0) preempted with | .next t => t | _ => world
theorem witness_Preemption :
    (0, 2) ∈ asked.requests ∧ asked.c.act = some loadedAct ∧ (asked.job 2).live = true ∧ (asked.job 2).cset.getLsbD (coreCluster 0) = true ∧ (0, 2) ∉ urgent.requests
    ∧ ((asked.modJob 2 fun j => { j with cset := 2 }).job 2).cset.getLsbD (coreCluster 0) = false ∧ atPoint.recordFree 0 loadedAct.job = true
    ∧ (atPoint.modC fun c => { c with saved := [{ record := 3 }] }).recordFree 0 loadedAct.job = false ∧ (urgent.job 2).prio.toNat < (urgent.job loadedAct.job).prio.toNat
    ∧ atPoint.c.drained = true ∧ atPoint.c.preempting = true ∧ (queued [mul]).c.drained = false ∧ late.preqStands 0 = true ∧ late.c.preempting = false ∧ late.c.held = none ∧ late.c.finish = none
    ∧ late.c.gap ≠ 0xFFFFFFFF ∧ late.c.gap.toNat + 2048 < late.dist 0 ∧ late.ErrRoom 1 ∧ late.MemOk ∧ urgent.dist 0 ≤ urgent.c.gap.toNat + 2048
    ∧ preempted.c.saving = true ∧ savedState.MemOk ∧ savedState.between 0 = true ∧ savedState.c.preq = none ∧ savedState.candidate 0 = none
    ∧ (savedState.c.saved.all fun x => !(savedState.job x.act.job).stopping && decide (x.ctx.wany = [])) = true ∧ savedState.c.saved.length = 1
    ∧ (savedState.c.saved.all fun x => decide ((x.spills.map Prod.fst).Nodup)) = true := by
  unfold State.MemOk State.ErrRoom; decide +kernel
theorem test_preemption :
    runs (.preemptionRequest 0 2) asked (fun t => decide (t.c.preq = some 2) && decide (t.requests = [])) = true
    ∧ runs (.preemption 0) atPoint (fun t => t.c.act.isNone && t.c.saving && t.c.saved.any fun x => decide (Map.get {} x.xs 6 = ⟨0x77, true⟩)) = true
    ∧ runs (.forcedPreemption 0) late (fun t => t.c.preempting && (t.job 1).errs.any fun e => decide (e.kind = 9) && decide (e.cause = 15)) = true
    ∧ runs (.resumption 0) savedState (fun t => decide (t.c.act = some loadedAct) && decide (t.c.x 6 = 0x77) && t.c.ctx.status.resumed && decide (t.c.saved = [])) = true := by
  decide +kernel

/-- A message of core 0 to the home of cluster 1, at its source; the queue to the east holds more than 48 flits of class 2. -/
def letterOut : Packet := { id := 7, cls := 2, src := 0, dst := epHome 1, holder := 0, len := 8, pkind := 0, body := .msg { letter with key := 0x55 } }
def full : State := got world letterOut |> fun s => { s with net := s.net ++ (List.range 25).map fun i => { letterOut with id := 60 + i, loc := .queue 0 .east } }
def pWhey : Packet := { arrived 1 0 (.whey 1 2 8 0x55 none) with cls := 0, seq := 4, rtag := 2, gen := 1 }
def pulling (h : Hole) (p : Packet) (retain : List Retain) : State := (got ((world.modEp 1 fun e => { e with holes := [h] }).modEp 0 fun e => { e with retain := retain }) p)
def hole1 : Hole := { id := 5, src := 0, seq := 4, inorder := false, holder := 0, rtag := 2, gen := 1, known := true, timer := 10, born := 3 }
def pull1 : Pull := { hole := 5, src := 0, seq := 4, rtag := 2, gen := 1 }
def stored : Packet := { arrived 1 0 (.posted { id := 9, va := 0x100100400, line := placePad 1 0x400, mask := 0xF, data := 0x12345678, ep := 1, job := 1 }) with seq := 4, rtag := 2, gen := 1 }
def kept : Retain := { rtag := 2, gen := 1, bytes := 32, born := 0, pkt := stored }
def keptMsg : Retain := { kept with pkt := { letterOut with seq := 4, rtag := 2, gen := 1 } }
def keptReq : Retain := { kept with pkt := { arrived (epHome 0) 0 (ask .pin) with seq := 4, rtag := 2, gen := 1 } }
def again1 : Packet := { stored with again := true, cls := 1 }
theorem witness_PacketsMoveAndLinksCount :
    (got world letterOut).packet 7 = some letterOut ∧ (got world letterOut).hop letterOut = .to 0 .east ∧ (got world letterOut).served letterOut = true
    ∧ (got world letterOut).firstIn letterOut (.to 0 .east) = true ∧ full.firstIn letterOut (.to 0 .east) = true ∧ (got world letterOut).trims letterOut 0 .east = false ∧ full.served letterOut = true ∧ full.trims letterOut 0 .east = true ∧ full.packet 7 = some letterOut
    ∧ ((pulling hole1 stored []).ep 1).holes.find? (fun h => decide (h.id = 5)) = some hole1 ∧ hole1.timer ≤ (pulling hole1 stored []).dtime
    ∧ ((pulling hole1 (arrived 0 1 (.pull pull1)) [kept]).ep 0).retain = [kept] ∧ kept.pkt.dst = 1 ∧ kept.pkt.seq = hole1.seq
    ∧ (pulling hole1 again1 [kept]).packet 7 = some again1 ∧ (pulling hole1 again1 [kept]).atEnd again1 = true ∧ ((pulling hole1 again1 [kept]).ep 1).holeOf again1 = some hole1
    ∧ (pulling hole1 again1 [kept]).placeFail 1 (placePad 1 0x400) = 0 ∧ (({ (pulling hole1 again1 [kept]) with eps := [] } : State).ep 1).holeOf again1 = none
    ∧ (pulling hole1 (arrived 1 0 (.gone 5)) []).packet 7 = some (arrived 1 0 (.gone 5)) ∧ (pulling hole1 (arrived 1 0 (.gone 5)) []).atEnd (arrived 1 0 (.gone 5)) = true
    ∧ kept.resendAt = none ∧ hole1.known = true ∧ hole1.holder = again1.holder ∧ hole1.gen = again1.gen ∧ world.ErrRoom 1
    ∧ world.MemOk ∧ letterOut.legs = [] ∧ (Port.east ≠ .fabric) ∧ (pulling hole1 stored []).giveUpRoom 1 hole1 = true ∧ hole1.re = none ∧ kept.done = [] ∧ keptMsg.done = [] ∧ keptMsg.resendAt = none
    ∧ isCore 1 = true ∧ again1.transit = false ∧ again1.legs = [] ∧ (match again1.body with | .posted q => decide (q.ep = again1.dst) && decide (q.kind = 0) && decide (q.copy = none) | _ => false) = true ∧ (pulling hole1 stored [kept]).retained 0 2 1 = some kept
    ∧ (pulling hole1 stored [keptReq]).retained 0 2 1 = some keptReq ∧ { hole1 with born := 20 }.born + 1000000 > world.dtime := by
  unfold State.MemOk State.ErrRoom; decide +kernel
theorem witness_PacketsMove_arrives :
    (got world pWhey).Arrives 7 pWhey ∧ (pulling hole1 (arrived 0 1 (.pull pull1)) [kept]).Arrives 7 (arrived 0 1 (.pull pull1))
    ∧ (pulling hole1 (arrived 0 1 (.unreach (some (2, 1)) none)) [kept]).Arrives 7 (arrived 0 1 (.unreach (some (2, 1)) none)) ∧ (pulling hole1 (arrived 0 1 (.pull pull1)) []).Arrives 7 (arrived 0 1 (.pull pull1)) := by
  refine ⟨?_, ?_, ?_, ?_⟩ <;> constructor <;> decide +kernel
theorem test_packets :
    runs (.packetHeadSwitch 7) (got world letterOut) (fun t => decide (t.packet 7 = some { letterOut with loc := .queue 0 .east })) = true
    ∧ runs (.packetHeadSwitch 7) full (fun t => (t.packet 7).any fun q => decide (q.cls = 0) && decide (q.body = .whey 0 2 8 0x55 none) && decide (q.trimBy = 0) && decide (q.ttick = 10)) = true
    ∧ runs (.wheyArrival 7) (got world pWhey) (fun t => (t.ep 1).holes.any fun h => decide (h.seq = 4) && decide (h.holder = 0) && decide (h.rtag = 2) && h.known && decide (h.timer = 74)) = true
    ∧ runs (.pull 1 5) (pulling hole1 stored []) (fun t => ((t.ep 1).holes.any fun h => decide (h.n = 1) && decide (h.timer = 138)) && t.net.any fun q => decide (q.dst = 0) && decide (q.body = .pull pull1)) = true
    ∧ runs (.holeTimeout 1 5) { pulling hole1 stored [] with dtime := 1000003 } (fun t => decide ((t.ep 1).holes = []) && decide ((t.ep 1).count.lost = 1)) = true
    ∧ runs (.pullReceived 7) (pulling hole1 (arrived 0 1 (.pull pull1)) [kept]) (fun t => t.net.any fun q => q.again && decide (q.cls = 1) && decide (q.dst = 1) && decide (q.seq = 4)) = true
    ∧ runs (.pullReceived 7) (pulling hole1 (arrived 0 1 (.pull pull1)) []) (fun t => t.net.any fun q => decide (q.dst = 1) && decide (q.body = .gone 5)) = true
    ∧ runs (.retransmissionArrival 7) (pulling hole1 again1 [kept]) (fun t => decide ((t.ep 1).holes = []) && decide (t.load (placePad 1 0x400) 4 = 0x12345678)) = true
    ∧ runs (.retransmissionArrival 7) { pulling hole1 again1 [kept] with eps := [] } (fun t => decide ((t.ep 1).count.dups = 1)) = true
    ∧ runs (.goneReport 7) (pulling hole1 (arrived 1 0 (.gone 5)) []) (fun t => decide ((t.ep 1).holes = []) && decide ((t.ep 1).count.lost = 1)) = true
    ∧ runs (.retainTimeout 0 2) { pulling hole1 stored [kept] with dtime := 1000000 } (fun t => decide ((t.ep 0).retain = []) && (t.job 1).errs.any fun e => decide (e.cause = 4) && decide (e.addr = 0x100100400)) = true
    ∧ runs (.unreachReport 7) (pulling hole1 (arrived 0 1 (.unreach (some (2, 1)) none)) [keptReq]) (fun t => decide ((t.ep 0).retain = []) && decide ((t.job 1).errs = [])) = true
    ∧ runs (.unreachReport 7) (pulling hole1 (arrived 0 1 (.unreach (some (2, 1)) none)) [kept]) (fun t => (t.job 1).errs.any fun e => decide (e.cause = 3) && decide (e.addr = 0x100100400)) = true := by
  decide +kernel

/-- Link 3 with keys in both directions, and failed tags. -/
def linked (d : LinkDir) : State := { world with links := [(3, { tx := d, rx := d })], bar0 := { notifyLog := 4 } }
theorem witness_Links :
    (let d : LinkDir := { key := some 5, fails := 7 }; ((linked d).link 3).failed = false ∧ d.key ≠ none ∧ d.idle = false)
    ∧ (let d : LinkDir := { key := some 5, idle := true, due := true }; ((linked d).link 3).tx.due = true ∧ ((linked d).bar0.notifyTail - (linked d).bar0.notifyHead).toNat ≠ 2 ^ 4) ∧ (linked {}).MemOk
    ∧ (let d : LinkDir := { key := some 5, ctr := 2 ^ 48 - 1 }; ((linked d).link 3).tx.next = none ∧ d.ctr.toNat + 1 = 2 ^ 48 ∧ d.key ≠ none ∧ d.idle = false ∧ ((linked d).link 3).tx.due = false)
    ∧ (let d : LinkDir := { key := some 5, ctr := 2 ^ 48 - 1, next := some (9, 8) }; ((linked d).link 3).tx.next = some (9, 8) ∧ d.key ≠ none ∧ d.idle = false) ∧ ({} : LinkDir).key = none := by
  unfold State.MemOk; decide +kernel
theorem test_links :
    runs (.flitTagFailure 3 true) (linked { key := some 5, fails := 6 }) (fun t => decide ((t.link 3).rx.fails = 7) && decide ((t.link 3).rx.ctr = 1) && !(t.link 3).failed) = true
    ∧ runs (.flitTagFailure 3 false) (linked { key := some 5, fails := 7 }) (fun t => (t.link 3).failed && decide (t.feEvents = [.report 1 3])) = true
    ∧ runs (.flitTagFailure 3 false) (linked { key := some 5, ctr := 2 ^ 48 - 1 }) (fun t => (t.link 3).tx.idle && (t.link 3).tx.due && decide ((t.link 3).tx.ctr = 2 ^ 48 - 1)) = true
    ∧ runs (.flitTagFailure 3 false) (linked { key := some 5, ctr := 2 ^ 48 - 1, next := some (9, 8) }) (fun t => !(t.link 3).tx.idle && !(t.link 3).tx.due && decide ((t.link 3).tx.key = some 9) && decide ((t.link 3).tx.ctr = 1)) = true
    ∧ runs (.keyInstall 3 false 9 8) (linked { key := some 5, ctr := 4 }) (fun t => decide ((t.link 3).tx.key = some 5) && decide ((t.link 3).tx.next = some (9, 8)) && decide ((t.link 3).tx.ctr = 4)) = true
    ∧ runs (.keyInstall 3 true 9 8) (linked { key := some 5, ctr := 4, idle := true }) (fun t => decide ((t.link 3).rx.key = some 9) && decide ((t.link 3).rx.ctr = 0)) = true
    ∧ runs (.keyExhaustion 3) { linked { key := some 5, idle := true, due := true } with bar0 := { notifyLog := 4, claim := claimed 2 } } (fun t => !(t.link 3).tx.due && decide (t.bar0.notifyTail = 1) && decide (Map.get 0 t.bar0.msix0 2 = 1) && decide (Map.get 0 t.bar0.msix0 0 = 0)) = true := by
  decide +kernel

/-! Management, the front end, boot, power, debug. -/

/-- Function 0 owns the device, Fleiz runs. -/
def managed : State := { world with bar0 := { claim := claimed 0, notifyLog := 4, notifyTail := 2 }, boot := { state := 3, fwver := 7, minVersion := 5 } }
def ringing : State := managed.modQueue 3 fun q => { q with state := 1, log := 4, job := 1 }
theorem witness_OwnerWritesRegisters :
    managed.owner 0 = true ∧ managed.barWrites = true ∧ managed.owner 1 = false ∧ world.barWrites = true ∧ world.bar0.claim = 0
    ∧ (0xC000000000000101 : XWord).toNat / 4 * 4 = 0xC000000000000000 + 256 * 1 ∧ (0xC000000000000100 : XWord).toNat = 0xC000000000000000 + 256 * 1 + 0
    ∧ ((1 : XWord).setWidth 32 - managed.bar0.notifyHead).toNat ≤ (managed.bar0.notifyTail - managed.bar0.notifyHead).toNat ∧ managed.bar0.mboxState ≠ 1
    ∧ (managed.withBar fun b => { b with mboxState := 1 }).bar0.mboxState = 1
    ∧ (let v : XWord := 0x0000000500020003; v.toNat % 2 ^ 10 = 3 ∧ (ringing.queue 3).state = 1 ∧ (v.extractLsb' 16 16 - (ringing.queue 3).lseq).toNat = 2)
    ∧ (let v : XWord := 0x1001000000020004; v.toNat / 2 ^ 60 % 8 = 1 ∧ v.toNat / 2 ^ 48 % 2 ^ 8 = 1 ∧ v.toNat % 32 = 4 ∧ (managed.job 1).live = true ∧ (managed.queue 3).state = 0)
    ∧ (let v : XWord := 2 ^ 61; v.toNat / 2 ^ 60 % 8 = 2 ∧ (ringing.queue 3).lock = none ∧ (ringing.queue 3).open_ = [])
    ∧ ((ringing.modQueue 3 fun q => { q with lock := some 1 }).queue 3).lock ≠ none := by
  decide +kernel
theorem test_registers :
    runs (.claimCas 1 0 (claimed 1)) world (fun t => decide (t.bar0.claim = claimed 1)) = true
    ∧ runs (.claimCas 1 (claimed 0) (claimed 1)) managed (fun t => decide (t.bar0.claim = claimed 0)) = true
    ∧ runs (.claimWrite 0 0xC000000000000100) managed (fun t => decide (t.bar0.claim = 0xC000000000000100)) = true
    ∧ runs (.functionLevelReset 0) managed (fun t => decide (t.bar0.claim = 0)) = true
    ∧ runs (.notify 0 0x1234506) managed (fun t => decide (t.bar0.notifyBase = 0x12345) && decide (t.bar0.notifyLog = 6) && decide (t.bar0.notifyTail = 0)) = true
    ∧ runs (.notifyhead 0 1) managed (fun t => decide (t.bar0.notifyHead = 1)) = true
    ∧ runs (.registerWrite 0 0x200 0x1200) managed (fun t => decide (t.bar0.mboxAddr = 0x12) && decide (t.bar0.mboxState = 1)) = true
    ∧ runs (.pwrcap 0 3) managed (fun t => decide (t.bar0.cap = 3) && decide (t.power = 2)) = true
    ∧ runs (.doorbell 0 0x0000000500020003) ringing (fun t => decide ((t.queue 3).tail = 5) && decide ((t.queue 3).lseq = 2) && decide (t.feEvents = [.tail 3])) = true
    ∧ runs (.queueActivate 0 3 0x1001000000020004) managed (fun t => decide ((t.queue 3).state = 1) && decide ((t.queue 3).job = 1) && decide ((t.queue 3).base = 0x20000) && decide ((t.queue 3).log = 4)) = true
    ∧ runs (.queueDrain 0 3 (2 ^ 61)) (ringing.modQueue 3 fun q => { q with tail := 5 }) (fun t => decide ((t.queue 3).state = 0) && decide ((t.queue 3).head = 5)) = true := by
  decide +kernel

/-- A command block at host address 0x100: doublewords by number. -/
def cmd (l : List (Nat × Nat)) : State :=
  l.foldl (fun s p => s.store (placeHost (0x100 + 8 * p.1)) 8 p.2) (managed.withBar fun b => { b with mboxAddr := 1, mboxState := 1 })
def createCmd : State := cmd [(0, 1), (2, 0x11000), (3, 2 ^ 40), (4, 4096), (5, 2 ^ 40), (7, 0x640 + 0x100000), (8, 3)]
def defineCmd : State := cmd [(0, 3), (2, 1), (3, 65), (4, 2 ^ 40), (5, 2 ^ 64 - 1), (6, 2 ^ 40 + 0x10000), (7, 1024), (10, 2 ^ 28 + 1), (11, 5)]
/-- Groups, domains and copies. -/
def domainCmd : State := cmd [(0, 4), (2, 9), (3, 3), (4, 5)]
def copyCmd : State := (cmd [(0, 5), (2, 0x4000), (3, 0x5000), (4, 8)]).store (placeHost 0x4000) 8 0x1122334455667788
theorem witness_MailboxCommands :
    createCmd.MemOk ∧ createCmd.cmdOp = some 1 ∧ createCmd.jobDescOk = true ∧ (createCmd.poolPlace (createCmd.cmdMask 8) 16).isSome = true ∧ createCmd.freeJobs ≠ []
    ∧ ((createCmd.cmdDw 7).extractLsb' 16 16 : BitVec 16).toNat = 16
    ∧ (cmd [(0, 1)]).jobDescOk = false ∧ (let s := cmd [(0, 2), (2, 1)]; s.cmdOp = some 2 ∧ s.jobOk (s.cmdDw 2) = true ∧ (s.job 1).dying = false)
    ∧ (let s := (cmd [(0, 2), (2, 1)]).modJob 1 fun j => { j with dying := true }; s.jobGone 1 = true ∧ (s.job 1).dying = true)
    ∧ (let s := ((cmd [(0, 2), (2, 1)]).modJob 1 fun j => { j with dying := true }).modC fun c => { c with posted := [{ id := 9, job := 1 }] }; s.jobGone 1 = false)
    ∧ defineCmd.cmdOp = some 3 ∧ defineCmd.jobOk (defineCmd.cmdDw 2) = true ∧ (defineCmd.cmdDw 3).toNat = 65 ∧ defineCmd.classImageOk = true ∧ (defineCmd.cls 65).valid = false
    ∧ defineCmd.groupTaken defineCmd.classImage.ngrp.toNat 1 = false ∧ defineCmd.cmdDw 6 ≠ 0
    ∧ (cmd [(0, 3), (2, 1), (3, 65)]).classImageOk = false ∧ (let s := defineCmd.modCls 65 fun _ => { loadedClass with job := 2 }; (s.cls 65).valid = true ∧ (s.cls 65).job ≠ 1)
    ∧ domainCmd.cmdOp = some 4 ∧ (domainCmd.cmdDw 2).toNat = 9 ∧ copyCmd.cmdOp = some 5 ∧ (copyCmd.cmdDw 4).toNat = 8 ∧ (copyCmd.cmdDw 5).getLsbD 0 = false
    ∧ (let s := cmd [(0, 6), (2, 1), (3, 200), (4, 1)]; s.cmdOp = some 6 ∧ s.jobOk (s.cmdDw 2) = true ∧ (s.cmdDw 3).toNat = 200 ∧ s.groupTaken 200 1 = false
        ∧ ((s.modJob 2 fun j => { j with live := true }).modGroup 200 fun g => { g with job := some 2 }).groupTaken 200 1 = true)
    ∧ (let s := cmd [(0, 7), (2, 1), (3, 63)]; s.cmdOp = some 7 ∧ s.jobOk (s.cmdDw 2) = true ∧ (s.cls 63).valid = false ∧ ((s.modCls 63 fun _ => loadedClass).cls 63).valid = true)
    ∧ (cmd [(0, 8)]).cmdOp = some 8 ∧ (cmd []).cmdOp = some 0 ∧ managed.fleizUp = true := by
  unfold State.MemOk; decide +kernel
/-- Class 64 redefined, as it is or with another size of its curds, while an actor of it is in the table. -/
def redefine (dw10 : Nat) : State :=
  let s := cmd [(0, 3), (2, 1), (3, 64), (4, 2 ^ 40), (5, 2 ^ 64 - 1), (6, 2 ^ 40 + 0x10000), (7, 1920), (10, dw10), (11, 5)]
  (s.modCls 64 fun _ => { s.classImage with nbkt := BitVec.ofNat 32 ((s.cmdDw 7).toNat / s.classImage.bucket), valid := true, job := 1, curdl := 1 }).modCluster 0 fun c => { c with flow := [actor] }
theorem witness_MailboxCommands_redefine :
    (let s := redefine (2 ^ 28 + 1)
     s.cmdOp = some 3 ∧ s.jobOk (s.cmdDw 2) = true ∧ s.classImageOk = true ∧ (s.cls 64).valid = true ∧ (s.cls 64).job = 1 ∧ s.classInUse 64 = true ∧ s.groupTaken s.classImage.ngrp.toNat 1 = false)
    ∧ runs .defineClass (redefine (2 ^ 28 + 1)) (fun t => decide (t.bar0.mboxLast = 0) && decide (t.bar0.mboxState = 2) && decide ((t.cls 64).idle = 5)) = true
    ∧ runs .defineClass (redefine (2 ^ 28 + 2)) (fun t => decide (t.bar0.mboxLast = 3)) = true := by
  decide +kernel
theorem test_mailbox :
    runs .defineClass defineCmd (fun t => decide (t.bar0.mboxState = 2) && decide (t.bar0.mboxLast = 0) && decide ((t.cls 65).nbkt = 1) && decide ((t.cls 65).idle = 5) && decide ((t.group 0).job = some 1)) = true
    ∧ runs .copy copyCmd (fun t => decide (t.load 0x5000 8 = 0x1122334455667788) && decide (t.bar0.mboxLast = 0)) = true
    ∧ runs .assignNumericsGroup (cmd [(0, 6), (2, 1), (3, 200), (4, 1)]) (fun t => decide (t.group 200 = { job := some 1, fnten := true, fnarm := true }) && decide (t.bar0.mboxLast = 0)) = true
    ∧ runs .openSystemClass (cmd [(0, 7), (2, 1), (3, 63)]) (fun t => decide (t.bar0.mboxLast = 3)) = true
    ∧ runs .openSystemClass ((cmd [(0, 7), (2, 1), (3, 63)]).modCls 63 fun _ => loadedClass) (fun t => decide (t.bar0.mboxLast = 0) && decide ((t.job 1).opened = [63])) = true
    ∧ runs .unknownOp (cmd [(0, 8)]) (fun t => decide (t.bar0.mboxLast = 4) && decide (t.bar0.mboxState = 2)) = true
    ∧ runs .createJob (cmd [(0, 1)]) (fun t => decide (t.bar0.mboxLast = 1)) = true
    ∧ runs .destroyJob (cmd [(0, 2), (2, 1)]) (fun t => (t.job 1).dying && t.c.act.isNone) = true
    ∧ runs .destroyJob ((cmd [(0, 2), (2, 1)]).modJob 1 fun j => { j with dying := true }) (fun t => decide (t.bar0.mboxLast = 0) && !(t.job 1).live) = true := by
  decide +kernel

/-- Queue 3 of job 1 with its ring at host address 0x20000, its slot filled, and front-end core 2 in charge of it. -/
def slot (l : List (Nat × Nat)) : State :=
  let s := managed.modQueue 3 fun q => { q with state := 1, log := 4, job := 1, base := 0x20000, tail := 1, lock := some 2, compl := 0x3000, shadow := 0x4000 }
  l.foldl (fun s p => s.store (placeHost (0x20000 + 8 * p.1)) 8 p.2) s
def actorPacket : State := slot [(0, 0), (1, 0x55), (2, 0x200040), (3, 0x9), (4, 0x0807060504030201)]
def addrPacket : State := slot [(0, 1), (1, 2 ^ 40), (2, 0x200000), (3, 0x9), (4, 0x0807060504030201)]
def served3 (s : State) (type : Nat) : Bool :=
  s.dispatching 3 && decide ((s.queue 3).state = 1) && decide ((s.queue 3).part = 0) && decide ((s.queue 3).open_ = []) && decide (s.slotType (s.queue 3) = type) && !s.badPacket (s.queue 3)
def tailed : State := { (slot []).modQueue 3 fun q => { q with lock := none } with feEvents := [.tail 3] }
theorem witness_FrontEndDispatchesPackets :
    tailed.MemOk ∧ tailed.fleizUp = true ∧ tailed.poolTakes (.tail 3) = true ∧ (tailed.queue 3).state = 1 ∧ (tailed.queue 3).head ≠ (tailed.queue 3).tail
    ∧ served3 actorPacket 0 = true ∧ actorPacket.slotKeys (actorPacket.queue 3) = 0 ∧ actorPacket.retainRoom epHost (retainBytes 8) = true ∧ served3 addrPacket 1 = true
    ∧ (let s := slot [(0, 2), (3, 9)]; served3 s 2 = true ∧ s.slotOp (s.queue 3) = 0 ∧ (s.job 1).floorEmpty = true)
    ∧ (let s := (slot [(0, 2), (3, 9)]).modJob 1 fun j => { j with floorEmpty := false, floorMin := 9 }; served3 s 2 = true ∧ (s.job 1).floorMin = 9)
    ∧ (let s := slot [(0, 2), (2, 1), (4, 2 ^ 63 + 0x30000)]; served3 s 2 = true ∧ s.slotOp (s.queue 3) = 1)
    ∧ (let s := slot [(0, 2), (2, 2)]; served3 s 2 = true ∧ s.slotOp (s.queue 3) = 2)
    ∧ (let s := slot []; s.fenced = [] ∧ s.queues = [(3, s.queue 3)] ∧ (s.queue 3).lock = some 2)
    ∧ (let s : State := { (slot []).store (placeHost 0x4000) 8 5 with nextShadow := 10 }; s.nextShadow ≤ s.dtime ∧ s.poolIdle ≠ none ∧ s.feEvents = [] ∧ s.queues = [(3, s.queue 3)])
    ∧ 4 ≤ managed.bar0.notifyLog.toNat ∧ (managed.bar0.notifyTail - managed.bar0.notifyHead).toNat ≠ 2 ^ managed.bar0.notifyLog.toNat := by
  unfold State.MemOk; decide +kernel
theorem witness_FrontEndDispatchesPackets_free :
    actorPacket.MemOk ∧ actorPacket.resendAhead epHost { letter with key := 0x55, cls := 64, kind := 2, skey := 3, job := 1 } = false ∧ (actorPacket.ep epHost).retain = []
    ∧ (let s := (slot []).modQueue 3 fun q => { q with state := 2, part := 1 }; s.queues = [(3, s.queue 3)] ∧ (s.queue 3).state = 2 ∧ (s.queue 3).lock = some 2)
    ∧ runs (.frontEndCoreFence 2) ((slot []).modQueue 3 fun q => { q with state := 2, part := 1 }) (fun t => decide ((t.queue 3).head = 1) && decide ((t.queue 3).part = 0) && decide ((t.queue 3).state = 0)) = true := by
  unfold State.MemOk; decide +kernel
theorem test_front_end :
    runs (.tailEvent 3) tailed (fun t => decide ((t.queue 3).lock = some 0) && decide (t.feEvents = [])) = true
    ∧ runs (.actorMessage 3) actorPacket (fun t => let m := sentMsg t; decide (m.key = 0x55) && decide (m.cls = 64) && decide (m.stamp = 9) && decide (m.skey = 3) && decide (m.kind = 2)
        && decide (m.payload = [1, 2, 3, 4, 5, 6, 7, 8]) && decide ((t.queue 3).head = 1)) = true
    ∧ runs (.addressOwnedActiveMessage 3) addrPacket (fun t => let m := sentMsg t; decide (m.key = 2 ^ 40) && decide (m.cls = 0) && decide (m.len = 8)) = true
    ∧ runs (.jobControlFence 3) (slot [(0, 2), (3, 9)]) (fun t => decide ((t.queue 3).count = 1) && decide ((t.queue 3).head = 1)) = true
    ∧ runs (.jobControlFence 3) ((slot [(0, 2), (3, 9)]).modJob 1 fun j => { j with floorEmpty := false, floorMin := 9 })
        (fun t => decide ((t.queue 3).count = 0) && (t.queue 3).open_.any fun p => decide (p.fence = some 9)) = true
    ∧ runs (.barrierLoad 3) (slot [(0, 2), (2, 1), (4, 2 ^ 63 + 0x30000)]) (fun t => decide (t.bar 0 0 = { en := true, job := 1, parties := 3 }) && decide ((t.queue 3).count = 1)) = true
    ∧ runs (.killJob 3) (slot [(0, 2), (2, 2)]) (fun t => t.c.act.isNone && decide ((t.queue 3).count = 1)) = true
    ∧ runs (.frontEndCoreFence 2) (slot []) (fun t => decide (t.fenced = [2]) && decide ((t.queue 3).lock = none) && decide (t.feEvents = [.tail 3])) = true
    ∧ runs (.queueDescriptorError 3) (slot []) (fun t => decide ((t.queue 3).state = 3)) = true
    ∧ runs .shadowReconcile { (slot []).store (placeHost 0x4000) 8 5 with nextShadow := 10 } (fun t => decide ((t.queue 3).tail = 5) && decide (t.feEvents = [.tail 3]) && decide (t.nextShadow = 10000)) = true := by
  decide +kernel

theorem witness_BootAndPower :
    (let i : Image := ⟨7, [1], 0, [2], [3]⟩; let s : State := { State.reset with boot := { flash := some i, nvme := some i } }; s.boot.state = 0 ∧ s.boot.flash = some i ∧ s.boot.nvme = some i)
    ∧ managed.fleizUp = true ∧ managed.hotAt ≤ managed.dtime ∧ managed.coolAt ≤ managed.dtime ∧ managed.tripped = false ∧ managed.capNow < ({ managed with power := 2 } : State).power
    ∧ ({ managed with nextLevel := 10 } : State).nextLevel ≤ managed.dtime := by
  decide +kernel
theorem test_power :
    runs .thermalThrottle managed (fun t => decide (t.power = 1) && decide (t.hotAt = 100010)) = true
    ∧ runs .thermalRecovery { managed with power := 2 } (fun t => decide (t.power = 1) && decide (t.coolAt = 1000010)) = true
    ∧ runs .thermalTrip managed (fun t => t.tripped && t.gated && t.c.act.isNone) = true
    ∧ runs .levelsumSample { managed.modCluster 0 fun c => { c with engine := { level := 5 } } with nextLevel := 10 } (fun t => decide (t.bar0.levelsum = 5)) = true := by
  decide +kernel

/-- Job 1 is held by a debugger; breakpoint register 4 of cluster 0 matches PC 0, or `ebreak` stands there. -/
def debugged : State := world.modJob 1 fun j => { j with hold := true }
def matched : State := debugged.modCluster 0 fun c => { c with bps := [(4, { en := true, anyc := true, job := 1 })] }
def ebreaking : State := debugged.store (placeStore 0 0x80000) 4 0x10000018
/-- A core let go at its `ebreak`. -/
def letGo : State := ebreaking.modC fun c => { c with resumeAt := some (c.pc, c.ctx.instret, c.ctx.depth) }
def heldCore : State := debugged.modC fun c => { c.setX 6 0x77 with held := some 17 }
/-- The core's activation has been captured from the region's line 2 on, of which nothing has been overwritten. -/
def snapped : State :=
  let s := debugged.modJob 1 fun j => { j with capture := { classes := [64], base := 0x20000, lines := 8, next := 9 } }
  { s.modC (fun c => { c with act := none }) with snaps := [⟨1, 1, 5, { heldCore.core 0 with act := some { loadedAct with ck := some 2, curd := 12800, desc := { loadedClass with curdl := 1 } } }, [(12803, 7)]⟩] }
def snap : Snap := snapped.snaps.headD ⟨0, 0, 0, {}, []⟩
theorem witness_DebuggerStopsAndInspects :
    matched.MemOk ∧ (world.job 1).live = true ∧ matched.fetches 0 = true ∧ (matched.fetchWord 0).isSome = true ∧ matched.jobHeld 0 = true ∧ (matched.core 0).noMatch = false
    ∧ (matched.core 0).replay = false ∧ matched.matchBp 0 = some 4 ∧ ebreaking.matchBp 0 = none ∧ (ebreaking.fetchWord 0).bind decode = some .ebreak ∧ ebreaking.fetches 0 = true
    ∧ (debugged.job 1).stopping = false ∧ (letGo.core 0).noMatch = true ∧ letGo.original 1 (letGo.core 0).pc = none ∧ (letGo.fetchWord 0).bind decode = some .ebreak := by
  unfold State.MemOk; decide +kernel
theorem witness_DebuggerStops_held :
    (heldCore.core 0).held ≠ none ∧ (heldCore.core 0).replay = false ∧ (debugged.original 1 0) = none
    ∧ ((heldCore.core 0).reg 6).full = true ∧ 0x40 + 8 ≤ (heldCore.core 0).spsize ∧ (snapped.core 0).act = none ∧ (snapped.core 0).saving = false
    ∧ (snapped.job 1).cset.getLsbD (coreCluster 0) = true ∧ (snapped.snaps.map fun x => (x.job, x.uid, x.instret, x.priv)) = [(1, 1, 5, [(12803, 7)])]
    ∧ snapped.snaps = [snap] ∧ snapped.replayable snap = true ∧ (snapped.modJob 1 fun j => { j with capture := { j.capture with next := 11 } }).replayable snap = false
    ∧ snapped.MemOk ∧ (world.core 0).held = none ∧ 12804 < snap.core.spsize ∧ snap.core.privateLine (12804 / 128) = true := by
  unfold State.MemOk; decide +kernel
/-- A job of one cluster, whose code block 0 stands in one store. -/
def oneCluster : State := debugged.modJob 1 fun j => { j with cset := 1 }
def patch4 : Patch := { addr := 4, word := 0x13, id := 70 }
def patched : State := oneCluster.modJob 1 fun j => { j with patches := [patch4] }
theorem witness_DebuggerStops_patch :
    oneCluster.codeClusters 1 4 = [0] ∧ oneCluster.fetchHit 0 1 4 = some 0 ∧ fetchPlace 0 0 4 = placeStore 0 0x80004 ∧ (1, oneCluster.job 1) ∈ oneCluster.jobs ∧ (oneCluster.job 1).live = true
    ∧ (oneCluster.core patchCore).posted.length < 32 ∧ oneCluster.retainRoom patchCore (retainBytes 4) = true ∧ (oneCluster.job 1).patches = [] ∧ (oneCluster.jobCores 1).Nodup ∧ 0 ∈ oneCluster.jobCores 1 ∧ (4 : BitVec 32).toNat % 4 = 0
    ∧ patched.original 1 4 = some 0x13 ∧ patched.settled patch4 = true ∧ (patched.job 1).patches.find? (fun x => decide (x.addr = 4)) = some patch4 ∧ patch4.on = true
    ∧ patched.patchInPlace 1 4 = true ∧ (oneCluster.modJob 1 fun j => { j with patches := [{ patch4 with on := false }] }).settled { patch4 with on := false } = true := by
  decide +kernel
theorem test_debug :
    runs (.nernathAttach 1) world (fun t => (t.job 1).hold) = true
    ∧ runs (.breakpointStop 0) matched (fun t => decide (t.c.held = some 5) && (t.job 1).stopReq) = true
    ∧ runs (.breakpointStop 0) ebreaking (fun t => decide (t.c.held = some 17)) = true
    ∧ runs (.breakpointStop 0) letGo (fun t => decide (t.c.held = some 17)) = true
    ∧ runs (.step 0) heldCore (fun t => t.c.held.isNone && t.c.stepping && t.c.noMatch) = true
    ∧ runs (.softwareBreakpointPatch 1 4 true) oneCluster (fun t => (t.original 1 4).isSome && !t.patchInPlace 1 4 && t.net.any fun p => decide (p.dst = 0) && match p.body with
        | .posted x => decide (x.line = placeStore 0 0x80000) && decide (x.mask = 0xF0) && decide (x.data = 0x10000018 * 2 ^ 32) | _ => false) = true
    ∧ runs (.softwareBreakpointPatch 1 4 false) patched (fun t => !t.patchInPlace 1 4 && t.net.any fun p => match p.body with | .posted x => decide (x.data = 0x13 * 2 ^ 32) | _ => false) = true
    ∧ runs (.softwareBreakpointPatch 1 4 false) (oneCluster.modJob 1 fun j => { j with patches := [{ patch4 with on := false }] }) (fun t => (t.original 1 4).isNone) = true
    ∧ runs (.inspectionWrite 0 (.m 3 1) 5) heldCore (fun t => decide (t.c.mask 3 = 5 * 2 ^ 64)) = true
    ∧ runs (.inspectionWrite 0 (.acc 2 1023) 5) heldCore (fun t => decide (Map.get 0 (t.c.acc 2).el 1023 = 5)) = true
    ∧ runs (.inspectionWrite 0 (.q 7 0) 5) heldCore (fun t => decide ((t.c.view 7).base = 5)) = true
    ∧ runs (.inspectionWrite 0 (.x 6) 0x99) heldCore (fun t => decide (t.c.x 6 = 0x99)) = true
    ∧ runs (.inspectionWrite 0 (.pad 0x40) 0x99) heldCore (fun t => decide (t.load (placePad 0 0x40) 8 = 0x99)) = true
    ∧ runs (.reverseStep 1 1 0 5) (snapped.store (placePad 0 12800) 8 (2 ^ 64 - 1)) (fun t => decide (t.c.held = some 19) && t.c.replay && decide (t.c.x 6 = 0x77) && decide (t.load (placePad 0 12800) 8 = 7 * 2 ^ 24)) = true
    ∧ runs (.go 1) (oneCluster.modC fun c => { c with held := some 17 }) (fun t => t.c.held.isNone && t.c.noMatch) = true := by
  decide +kernel

/-! Results that the spec works out. -/

/-- spec/01_machine.md: core 0x152E stands at (26, 47). -/
theorem test_mesh_place : meshX 0x152E = 26 ∧ meshY 0x152E = 47 ∧ meshCore 26 47 = 0x152E := by decide +kernel
/-- spec/06_memory.md R120: the home of a line of a hashed page. -/
theorem test_line_home : lineHash 0x41A80 = 0x835 ∧ maskPick (2 ^ 3 + 2 ^ 17 + 2 ^ 200) (lineHash 0x41A80) = 17 := by decide +kernel
/-- spec/04_scalar.md R86 to R88: −0.75 and −0. -/
theorem test_scalar_fp :
    runs (.fclass .d 5 (r 6)) (regs [(6, 0xBFE8000000000000)]) (fun t => decide (t.c.x 5 = 0x0000FFFF00000012)) = true
    ∧ runs (.fclass .s 5 (r 6)) (regs [(6, 0x80000000)]) (fun t => decide (t.c.x 5 = 0x10)) = true
    ∧ runs (.fcvtZ64 .d true 5 (r 6)) (regs [(6, 0xBFE8000000000000)]) (fun t => decide (t.c.x 5 = 0) && decide (t.c.ctx.flags = 0x10)) = true
    ∧ runs (.fcvtZ64 .d true 5 (r 6)) (regs [(6, 0xBFF0000000000000)]) (fun t => decide (t.c.x 5 = 0) && decide (t.c.ctx.flags = 0x1)) = true := by
  decide +kernel
/-- spec/13_vector.md R316 with spec/12_numbers.md R286: 1,000.0, 3.0 and −0.1 to f8a and back; R315: 0.3 to f8a. -/
def packing : State := world.modC fun c => c.setV 5 0xBDCCCCCD40400000447A0000
theorem test_mx :
    runs (.mxPack .f8a .f32 .rne 4 5 6 0) packing (fun t => decide ((t.c.v 4).val = 0x953C7E) && decide ((t.c.v 6).val = 0x80) && decide (t.c.ctx.flags = 0) && runs (.vectorCommandComplete 0) t fun u => decide (u.c.ctx.flags = 0x14) && decide (u.c.ctx.satcnt = 1)) = true
    ∧ runs (.mxUnpack .f32 .f8a .rne 7 4 6 0) (packing.modC fun c => (c.setV 4 0x953C7E).setV 6 0x80)
        (fun t => decide ((t.c.v 7).val = 0xBDD000004040000044600000) && runs (.vectorCommandComplete 0) t fun u => decide (u.c.ctx.flags = 0)) = true
    ∧ runs (.cvt .f8a .f32 .rne false 4 5 0) (world.modC fun c => (c.setV 5 0x3E99999A).setV 4 (BitVec.allOnes 1024)) (fun t => decide ((t.c.v 4).val = 0x2A)) = true := by
  decide +kernel

/-! Remote operations of the issuing core, containment, and what an operand's absence does. -/

/-- Registers 6 and 7 are empty, 8 is full. -/
def hole67 : State := (hole (hole intState 6) 7).modC fun c => { c with ctx := { c.ctx with tvecEn := true, tvecAddr := 0x200 } }
theorem witness_EmptyOperandsWaitOrTrap_mixed :
    (hole67.c.reg 6).full = false ∧ (hole67.c.reg 7).full = false ∧ (hole67.c.reg 8).full = true ∧ (r 6).e = false ∧ (re 7).e = true ∧ hole67.c.SrcsReady (src3 (re 8) (r 8) (r 8))
    ∧ ¬ hole67.c.DestReady 7 := by
  unfold Core.SrcsReady Core.DestReady Core.Sound; decide +kernel
/-- The first empty source with E = 1 is named, and one with E = 0 beside full ones only waits. -/
theorem test_empty_operands :
    runs (.csel 5 (r 8) (r 6) (re 7)) hole67 (fun t => decide (t.c.ctx.cause = 3) && decide (t.c.ctx.tval = 2 * 256 + 7)) = true
    ∧ runs (.beq (r 6) (re 7) 5) hole67 (fun t => decide (t.c.ctx.cause = 3) && decide (t.c.ctx.tval = 256 + 7)) = true
    ∧ runs (.st .d (r 6) (re 8) 0) hole67 (fun t => decide (t = hole67)) = true := by
  decide +kernel

/-- `st` and an atomic through the aperture of core 1. -/
theorem witness_RemoteStoreIssues :
    padState.c.out = [] ∧ isCore 1 = true ∧ (padState.job padState.c.jobNum).cset.getLsbD (coreCluster 1) = true ∧ padState.c.SrcsReady (src2 (r 9) (r 7))
    ∧ 2 ^ 32 + 1 * 2 ^ 20 ≤ (padState.c.x 9).toNat ∧ (padState.c.x 9).toNat - (2 ^ 32 + 1 * 2 ^ 20) < 0x60000 ∧ (padState.c.x 9).toNat % 8 = 0
    ∧ (∀ q ∈ padState.c.pendingSpans padState.cur, (plainSpan padState.cur (padState.c.x 9) 8 true).ordered q = false) ∧ padState.c.backing (lineOf (placePad 1 0)) = false
    ∧ (padState.c.posted.filter fun p => decide (p.kind ≠ 3) && p.copy.isNone).length < 32 ∧ padState.retainRoom padState.cur (retainBytes 8) = true
    ∧ (let s := padState.modC fun c => { c with posted := List.replicate 32 { id := 9, act := 1 } }; 32 ≤ (s.c.posted.filter fun p => decide (p.kind ≠ 3) && p.copy.isNone).length) := by
  unfold Core.SrcsReady Core.Sound; decide +kernel
theorem witness_RemoteStoreIssues_released : padState.c.Released := by constructor <;> decide +kernel
/-- A vector store of 32 lanes of 32 bits that begins 8 bytes before the end of a line. -/
def vstState : State := padState.modC fun c => { (c.setX 9 0x100100078).setV 2 (BitVec.ofNat 1024 (2 ^ 32 + 7)) with ctx := { c.ctx with allotV := 32 } }
theorem witness_RemoteStoreIssues_vector :
    vstState.c.SrcsReady [plainSrc 9 0] ∧ (vstState.c.v 2).full = true ∧ vstState.c.Sound (vecSlot 2) ∧ vstState.c.storing = [] ∧ (vstState.c.x 9).toNat % 4 = 0
    ∧ (vstState.c.mask 0).getLsbD 0 = true
    ∧ (∀ l, l < 32 → 2 ^ 32 + 2 ^ 20 ≤ (vstState.c.x 9 + BitVec.ofNat 64 (4 * l)).toNat ∧ (vstState.c.x 9 + BitVec.ofNat 64 (4 * l)).toNat + 4 ≤ 2 ^ 32 + 2 ^ 20 + 0x60000
        ∧ vstState.c.backing (lineOf (placePad 1 ((vstState.c.x 9 + BitVec.ofNat 64 (4 * l)).toNat - (2 ^ 32 + 2 ^ 20)))) = false)
    ∧ (vstState.c.posted.filter fun p => decide (p.kind ≠ 3) && p.copy.isNone).length + 2 ≤ 32 ∧ vstState.retainRoom vstState.cur (2 * retainBytes 128) = true
    ∧ (∀ q ∈ vstState.c.pendingSpans vstState.cur, (laneSpan vstState.cur 32 (vstState.c.x 9) (activeLanes 32 (vstState.c.mask 0)) true).ordered q = false) := by
  unfold Core.SrcsReady Core.Sound; decide +kernel
theorem witness_RemoteAtomicIssues :
    padState.c.DestReady 5 ∧ padState.c.SrcsReady (src2 (r 9) (r 12)) ∧ padState.c.SrcsReady (src2 (r 9) (r 12) ++ [(⟨13, false⟩, 1)]) ∧ padState.c.l1Find (lineOf (placePad 1 0)) = none
    ∧ padState.retainRoom padState.cur (retainBytes 16) = true := by
  unfold Core.DestReady Core.SrcsReady Core.Sound; decide +kernel
theorem test_remote_issue :
    runs (.stOrdered .h 8 (r 7) (r 9)) padState (fun t => (t.net.any fun p => decide (p.dst = 1) && match p.body with
      | .posted x => decide (x.line = placePad 1 0) && decide (x.mask = 3) && decide (x.data = 0xFEDC) | _ => false) && decide (t.c.posted.length = 1)) = true
    ∧ runs (.vst .s32 2 9 0) vstState (fun t => decide (t.c.posted.map (fun x => (x.line, x.mask)) = [(placePad 1 0, 0xFF * 2 ^ 120), (placePad 1 128, 2 ^ 120 - 1)])) = true
    ∧ runs (.amoCasD 0 5 (r 9) (r 12)) padState (fun t => (t.net.any fun p => match p.body with
      | .atomic q => decide (q.addr = placePad 1 0) && decide (q.b = 1) && decide (q.c = 7) | _ => false) && !(t.c.reg 5).full) = true
    ∧ runs (.lmarkF (r 9)) padState (fun t => t.net.any fun p => match p.body with | .posted x => decide (x.kind = 2) && decide (x.line = placePad 1 0) | _ => false) = true := by
  decide +kernel

/-- Rows of 3 of every 8 elements of 8 bits: apart by residues, meeting, out of each other's reach. -/
def column (base step : Nat) : View := { live := true, base := BitVec.ofNat 64 base, ty := 4, rankm1 := 1, d0 := ⟨1, 0, 3⟩, d1 := ⟨BitVec.ofNat 32 step, 0, 4⟩, d2 := ⟨0, 0, 1⟩, d3 := ⟨0, 0, 1⟩ }
theorem witness_DisjointVerdictIsSound_exact :
    (∀ d, d < (column 0 8).rank → 1 ≤ ((column 0 8).dim d).extent.toNat) ∧ (column 0 8).eb = 8 ∧ ((column 0 8).base.toNat < 0x60000 ↔ (column 3 8).base.toNat < 0x60000)
    ∧ ((column 0 8).toSpan 0 true).verdict ((column 3 8).toSpan 0 true) = 2 ∧ ((column 0 8).toSpan 0 true).verdict ((column 2 8).toSpan 0 true) = 3
    ∧ ((column 0 8).toSpan 0 true).verdict ((column 64 8).toSpan 0 true) = 1 ∧ (column 0 8).inside (fun k => if k = 0 then 2 else 0) = true ∧ (column 3 8).inside (fun _ => 0) = true
    ∧ (plainSpan 0 0 8 true).lo ≤ (plainSpan 0 0 8 true).hi ∧ (plainSpan 0 0 8 true).verdict (plainSpan 0 7 1 true) = 3 ∧ (plainSpan 0 0 8 true).verdict (plainSpan 0 8 1 true) = 1 := by
  decide +kernel

/-- The activation's job, its class's group and the distances of its core, read. -/
theorem test_csr_reads :
    runs (.csrr 5 0x13) padState (fun t => decide (t.c.x 5 = 64)) = true ∧ runs (.csrr 5 0x14) (padState.modC fun c => { c with act := c.act.map fun a => { a with incarn := 9 } }) (fun t => decide (t.c.x 5 = 9)) = true
    ∧ runs (.csrr 5 0x11) padState (fun t => decide (t.c.x 5 = BitVec.ofNat 64 (256 * meshY 0 + meshX 0))) = true
    ∧ runs (.csrr 5 0x5) (padState.modJob 1 fun j => { j with errTotal := 3 }) (fun t => decide (t.c.x 5 = 3)) = true
    ∧ runs (.csrr 5 0x31) (padState.modGroup 0 fun g => { g with fnten := true }) (fun t => decide (t.c.x 5 = 0x100)) = true
    ∧ runs (.csrr 5 0x13F) (padState.modC fun c => { c with latacc := [(63, 77)] }) (fun t => decide (t.c.x 5 = 77)) = true
    ∧ runs (.csrc 4 (r 7)) (padState.modC fun c => { c with ctx := { c.ctx with tvecAddr := 0x3FFF } }) (fun t => decide (t.c.ctx.tvecAddr = 0x3FFF - 0x3FB7)) = true := by
  decide +kernel
/-- `allot.shrink` waits for a queued command that names a register it drops, and for no other. -/
def shrinking (v : BitVec 5) : State := padState.modC fun c => { c with vq := [⟨[v], 1, 2, 0⟩], ctx := { c.ctx with allotV := 32 } }
theorem test_shrink_waits :
    runs (.allotShrink 1) (shrinking 24) (fun t => decide (t = shrinking 24)) = true ∧ runs (.allotShrink 1) (shrinking 23) (fun t => decide (t.c.ctx.allotV = 24)) = true := by
  decide +kernel
theorem witness_FloorStampsAndAllotment_fleiz :
    (let s := padState.modC fun c => { c with act := c.act.map fun a => { a with cls := 63 } }; s.byFleiz = true ∧ s.c.ctx.entryStamp ≤ (s.c.x 0).setWidth 32 ∧ (s.job s.c.jobNum).floorEmpty = true)
    ∧ padState.byFleiz = false ∧ (∃ q ∈ (shrinking 24).c.vq, ∃ v ∈ q.regs, 32 - 8 ≤ v.toNat) := by
  decide +kernel

/-- A fault of core 0's activation under a policy, with RETRY used up or not. -/
def faulty (pol retry : BitVec 2) : State := world.modC fun c =>
  { c with act := some { loadedAct with desc := { loadedClass with pol := pol }, home := 0, key := 0x55, retry := retry.toNat }, ctx := c.ctx }.modStatus fun x => { x with retry := retry }
/-- A task under policy 3, of a parent that stands in core 5's deque with a child beside it; its class has a policy too. -/
def childTask (pol : BitVec 2) : State :=
  let ts : List Task := [{ word := 0x4000000100, tid := 7, job := 1, parent := 9 }, { word := 0x4000000100, tid := 8, job := 1, parent := 7 }, { word := 0x4000000100, tid := 9, job := 1, parent := 0 }, { tid := 11, job := 1 }]
  ((world.modC fun c => { c with act := some { loadedAct with kind := .task, desc := { loadedClass with pol := 3 }, task := { word := 0x40, tid := 6, job := 1, parent := 7, parentCls := 65 } } }).modCore 5 fun c =>
    { c with deque := ts }).modCls 65 fun x => { x with pol := pol }
theorem witness_ContainmentActs :
    (faulty 1 2).MemOk ∧ (∃ a, (faulty 1 2).c.act = some a ∧ a.desc.pol = 1 ∧ a.kind = .actor) ∧ (faulty 1 2).c.ctx.status.retry.toNat < 3 ∧ 3 ≤ (faulty 1 3).c.ctx.status.retry.toNat
    ∧ (faulty 1 2).ErrRoom 1 ∧ (∀ q ∈ (faulty 1 2).queues, q.2.job.toNat ≠ 1) ∧ (childTask 2).MemOk
    ∧ (∃ a x, (childTask 2).c.act = some a ∧ a.kind = .task ∧ a.task.parent ≠ 0 ∧ a.desc.pol = 3 ∧ ((childTask 2).liveTasks a.job).find? (fun y => decide (y.tid = a.task.parent)) = some x
        ∧ ((childTask 2).cls a.task.parentCls).pol = 2) := by
  refine ⟨by unfold State.MemOk; decide +kernel, ⟨_, by rfl, by decide +kernel⟩, by decide +kernel, by decide +kernel, by unfold State.ErrRoom; decide +kernel, by decide +kernel,
    by unfold State.MemOk; decide +kernel, ⟨_, _, by rfl, by rfl, by decide +kernel, by rfl, by rfl, by decide +kernel⟩⟩
def ending (again : Bool) : State := (faulty 1 1).modC fun c => { c with finish := some ⟨0x40, 5, again, 7⟩ }
theorem witness_ContainmentActs_end :
    (ending true).gated = false ∧ (ending true).c.held = none ∧ (ending true).c.out = [] ∧ (ending true).c.copies = [] ∧ (ending true).c.mq = [] ∧ (ending true).c.events = []
    ∧ (ending true).c.accEcc = [] ∧ ∀ q, q < 16 → ((ending true).c.view q).live = false := by
  decide +kernel
/-- The policies, by what a fault leaves: a forced done without a record or with one, nothing of the activation, and the parent task's subtree gone. -/
theorem test_containment :
    (let t := (faulty 0 0).contain 0 5 0 0x40; t.c.finish = some ⟨0x40, 5, false, 10⟩ ∧ (t.job 1).errs.length = 1)
    ∧ (let t := (faulty 1 2).contain 0 5 0 0x40; t.c.finish = some ⟨0x40, 5, true, 10⟩ ∧ (t.job 1).errs = [])
    ∧ (let t := (faulty 2 0).contain 0 5 0 0x40; t.c.act = none ∧ (t.job 1).errs.map ErrRec.kind = [12])
    ∧ (let t := (childTask 2).contain 0 5 0 0x40; t.c.act = none ∧ (t.core 5).deque.map Task.tid = [9, 11])
    ∧ (match (ending true).coreMove 0 with
       | .next t => t.c.act.isNone && decide (t.redel.map (fun r => (r.due, r.msg.retry)) = [(7 + 2048, 2)]) && t.net.any fun p => decide (p.body = .done 64 0x55 0)
       | _ => false) = true := by
  decide +kernel
theorem witness_TrapReturnAndContainment_declined :
    (let s := inHandler.modC fun c => c.modStatus fun x => { x with decline := true }
     s.c.ctx.status.intrap = true ∧ s.c.ctx.depth = s.c.ctx.status.tdepth.toNat + 1 ∧ s.c.ctx.status.decline = true) := by
  decide +kernel

/-! Copies, homes and the debugger, beyond their ordinary cases. -/

/-- The copy pushes its task, and waits for room in the deque. -/
def pushing : State := setCopy fun x => { x with st := .acting 1, ctl := 0x20 }
theorem witness_CopyLaunchAndTags_acting :
    (let x := theCopy pushing; pushing.c.copyOf 5 = some x ∧ x.st = .acting 1 ∧ x.ctl.extractLsb' 4 2 = 2 ∧ x.detached = false ∧ pushing.c.act ≠ none ∧ x.act = pushing.c.uid ∧ pushing.c.ctx.wany = [])
    ∧ runs (.cpcancel (r 10)) pushing (fun t => decide (t.c.copies = []) && decide (t.c.deque = pushing.c.deque)) = true := by
  decide +kernel

/-- The clear of a discarded actor's VALID is on its way, or acknowledged. -/
def clearing (n : Nat) : State := { home { actor with st := .retiring } with xfers := [{ written with kind := .clear, writes := n }] }
def pinned : State := (home actor).modCluster 0 fun c => { c with flow := List.replicate 4096 { actor with id := 21, key := 0x66, pin := true } ++ [actor] }
theorem witness_HomesAndActivations_more :
    (∃ x, (clearing 0).xferOf 0 20 = some x ∧ x.kind = .clear ∧ x.complete = true) ∧ (∃ x, (clearing 1).xferOf 0 20 = some x ∧ x.complete = false)
    ∧ runs (.caveWriteAck 0 20) (clearing 0) (fun t => decide (t.entry 0 20 = none)) = true
    ∧ (let s := (home actor).modJob 1 fun j => { j with stopping := true }
       s.retirable actor = true ∧ (s.job 1).stopping = true ∧ runs (.idleTimerExpiry 0 20) s (fun t => decide (t = s)) = true)
    ∧ 4096 ≤ ((pinned.cluster 0).flow.filter fun x => x.pin).length := by
  refine ⟨⟨_, by rfl, by decide +kernel⟩, ⟨_, by rfl, by decide +kernel⟩, by decide +kernel, by decide +kernel, by decide +kernel⟩

/-- The word at the breakpoint stands in storage that fails; a step ends before a matching word. -/
def failingWord : State := { matched with ecc := [lineOf (placeStore 0 0x80000)] }
def stepped : State := matched.modC fun c => { c with stepping := true }
theorem witness_DebuggerStops_fetch :
    failingWord.fetches 0 = true ∧ failingWord.fetchWord 0 ≠ none ∧ failingWord.fetchEcc 0 = true ∧ stepped.coreNext 0 = .hold
    ∧ runs (.breakpointStop 0) failingWord (fun t => decide (t.c.held = none)) = true ∧ runs (.breakpointStop 0) stepped (fun t => decide (t.c.held = some 19)) = true := by
  decide +kernel

end Sys2Proof.Tests
end

section
/-! The one memory, read by its bytes (spec/00_scope.md R3): a canonical memory is determined by what it reads, and a number is stored and loaded
little-endian. -/

namespace Sys2Proof.Machine

/-- The first entry is what its address reads as. -/
@[simp] theorem Memory.read_cons_self (a : Nat) (b : Byte) (t : Memory) : Memory.read ((a, b) :: t) a = b := by
  simp [Memory.read]

/-- Past the first address, the rest of a memory is read. -/
theorem Memory.read_cons_of_lt (a : Nat) (b : Byte) (t : Memory) (p : Nat) (h : a < p) : Memory.read ((a, b) :: t) p = Memory.read t p := by
  have h1 : ¬ a = p := by omega
  have h2 : ¬ p < a := by omega
  simp [Memory.read, h1, h2]

/-- The first address of a canonical memory is not below that of another that reads alike: its byte is not what an unlisted address reads as. -/
theorem Memory.head_le_of_read_eq (a a' : Nat) (b b' : Byte) (t t' : Memory) (hm : Memory.wf ((a, b) :: t) = true)
    (hn : Memory.wf ((a', b') :: t') = true) (h : ∀ p, Memory.read ((a, b) :: t) p = Memory.read ((a', b') :: t') p) : a' ≤ a := by
  obtain ⟨hb, -, -⟩ := (Memory.wf_cons a b t).1 hm
  obtain ⟨-, ha', -⟩ := (Memory.wf_cons a' b' t').1 hn
  by_contra hlt
  have below : Memory.read ((a', b') :: t') a = Memory.unlisted := Memory.read_below _ a fun q hq => by
    rcases List.mem_cons.1 hq with rfl | hq
    · omega
    · exact lt_trans (by omega) (ha' q hq)
  exact hb (by rw [← below, ← h a, Memory.read_cons_self])

/-- Behind equal first addresses, the rests of canonical memories that read alike read alike. -/
theorem Memory.read_tail_eq (a : Nat) (b b' : Byte) (t t' : Memory) (ht : ∀ q ∈ t, a < q.1) (ht' : ∀ q ∈ t', a < q.1)
    (h : ∀ p, Memory.read ((a, b) :: t) p = Memory.read ((a, b') :: t') p) (p : Nat) : Memory.read t p = Memory.read t' p := by
  by_cases hp : a < p
  · rw [← Memory.read_cons_of_lt a b t p hp, h p, Memory.read_cons_of_lt a b' t' p hp]
  · rw [Memory.read_below t p fun q hq => lt_of_le_of_lt (Nat.le_of_not_lt hp) (ht q hq),
      Memory.read_below t' p fun q hq => lt_of_le_of_lt (Nat.le_of_not_lt hp) (ht' q hq)]

/-- A canonical memory that reads as unlisted everywhere has no entry. -/
theorem Memory.eq_nil_of_read_unlisted (m : Memory) (hm : Memory.wf m = true) (h : ∀ p, Memory.read m p = Memory.unlisted) : m = [] := by
  cases m with
  | nil => rfl
  | cons c t =>
    obtain ⟨a, b⟩ := c
    obtain ⟨hb, -, -⟩ := (Memory.wf_cons a b t).1 hm
    exact absurd (by simpa using h a) hb

/-- Canonical memories that read alike are the same list. -/
theorem Memory.ext_read (m n : Memory) (hm : Memory.wf m = true) (hn : Memory.wf n = true) (h : ∀ p, Memory.read m p = Memory.read n p) : m = n := by
  induction m generalizing n with
  | nil => exact (Memory.eq_nil_of_read_unlisted n hn fun p => (h p).symm).symm
  | cons c t ih =>
    obtain ⟨a, b⟩ := c
    cases n with
    | nil => exact Memory.eq_nil_of_read_unlisted _ hm h
    | cons c' t' =>
      obtain ⟨a', b'⟩ := c'
      obtain rfl : a = a' := Nat.le_antisymm
        (Memory.head_le_of_read_eq a' a b' b t' t hn hm fun p => (h p).symm) (Memory.head_le_of_read_eq a a' b b' t t' hm hn h)
      obtain rfl : b = b' := by simpa using h a
      obtain ⟨-, ha, ht⟩ := (Memory.wf_cons a b t).1 hm
      obtain ⟨-, ha', ht'⟩ := (Memory.wf_cons a b t').1 hn
      rw [ih t' ht ht' (Memory.read_tail_eq a b b t t' ha ha' h)]

/-- A power of 256 as a power of 2: eight bits for each byte. -/
theorem pow_256_eq_two_pow (n : Nat) : 256 ^ n = 2 ^ (8 * n) := by
  rw [Nat.pow_mul]

/-- Byte `i` of the little-endian bytes of a number. -/
theorem leBytes_getD (n v i : Nat) (hi : i < n) : (leBytes n v).getD i 0 = BitVec.ofNat 8 (v / 2 ^ (8 * i)) := by
  induction n generalizing v i with
  | zero => omega
  | succ n ih =>
    cases i with
    | zero => simp [leBytes]
    | succ i =>
      have e : v / 256 / 2 ^ (8 * i) = v / 2 ^ (8 * (i + 1)) := by
        rw [Nat.div_div_eq_div_mul, ← pow_256_eq_two_pow, ← pow_256_eq_two_pow, Nat.pow_succ']
      rw [leBytes, List.getD_cons_succ, ih (v / 256) i (by omega), e]

/-- A byte of a number just stored: the least significant at the lowest address (R3). -/
theorem State.byte_store_inside (s : State) (p n v i : Nat) (h : s.MemOk) (hi : i < n) :
    (s.store p n v).byte (p + i) = BitVec.ofNat 8 (v / 2 ^ (8 * i)) := by
  have inside : p ≤ p + i ∧ p + i < p + (leBytes n v).length := by rw [leBytes_length]; omega
  rw [State.byte, State.store, Memory.read_writeList _ _ _ _ h, if_pos inside, Nat.add_sub_cancel_left, leBytes_getD n v i hi]

/-- Settles O8: extensionality of canonical memories, then the laws of a read after a write. -/
theorem canonicalMemoryAndByteOrder : Obligations.CanonicalMemoryAndByteOrder := by
  unfold Obligations.CanonicalMemoryAndByteOrder
  refine ⟨Memory.ext_read, fun s p n v h => ⟨?_, fun i hi => s.byte_store_inside p n v i h hi, fun q hq => s.byte_store p n v q h hq⟩⟩
  rw [State.load_store s p n v h, pow_256_eq_two_pow]

end Sys2Proof.Machine
end

section
/-! The fields of a packed word (spec/03_formats.md R37, R58): what lies within one field of a form is read back from that field. -/

namespace Sys2Proof

/-- A Boolean is read back from its bit. -/
@[simp] theorem bit1_b1 (b : Bool) : bit1 (b1 b) = b := by cases b <;> rfl

/-- A cleared bit. -/
@[simp] theorem bit1_zero : bit1 0#1 = false := rfl
/-- A set bit. -/
@[simp] theorem bit1_one : bit1 1#1 = true := rfl

/-- A view or barrier number is read back from its field. -/
@[simp] theorem extractLsb'_in5 (q : BitVec 4) : (in5 q).extractLsb' 0 4 = q := by
  rw [in5, BitVec.extractLsb'_append_eq_right]

/-- An accumulator or window number is read back from its field. -/
@[simp] theorem extractLsb'_acc5 (a : BitVec 2) : (acc5 a).extractLsb' 0 2 = a := by
  rw [acc5, BitVec.extractLsb'_append_eq_right]

/-- A three-bit number is read back from its field. -/
@[simp] theorem extractLsb'_m5 (m : BitVec 3) : (m5 m).extractLsb' 0 3 = m := by
  rw [m5, BitVec.extractLsb'_append_eq_right]

/-! Numbers packed within a field: orderings, sizes, selectors, rounding and type codes (spec/03_formats.md R47 to R56). -/

@[simp] theorem extractLsb'_fn5_ord (ord : BitVec 4) (b : BitVec 1) : (ord ++ b : BitVec 5).extractLsb' 1 4 = ord :=
  BitVec.extractLsb'_append_eq_left
@[simp] theorem extractLsb'_fn5_bit (ord : BitVec 4) (b : BitVec 1) : (ord ++ b : BitVec 5).extractLsb' 0 1 = b :=
  BitVec.extractLsb'_append_eq_right
@[simp] theorem extractLsb'_fn5_window (p z : BitVec 1) (sz : BitVec 2) (x : BitVec 1) : (p ++ z ++ sz ++ x : BitVec 5).extractLsb' 4 1 = p := by
  iterate 2 rw [BitVec.extractLsb'_append_eq_of_le (by decide)]
  rw [BitVec.extractLsb'_append_eq_left]
@[simp] theorem extractLsb'_fn5_zx (p z : BitVec 1) (sz : BitVec 2) (x : BitVec 1) : (p ++ z ++ sz ++ x : BitVec 5).extractLsb' 3 1 = z := by
  iterate 2 rw [BitVec.extractLsb'_append_eq_of_le (by decide)]
  rw [BitVec.extractLsb'_append_eq_right]
@[simp] theorem extractLsb'_fn5_size (p z : BitVec 1) (sz : BitVec 2) (x : BitVec 1) : (p ++ z ++ sz ++ x : BitVec 5).extractLsb' 1 2 = sz := by
  rw [BitVec.extractLsb'_append_eq_of_le (by decide), BitVec.extractLsb'_append_eq_right]
@[simp] theorem extractLsb'_fn3_bit (x : BitVec 2) (b : BitVec 1) : (x ++ b : BitVec 3).extractLsb' 0 1 = b :=
  BitVec.extractLsb'_append_eq_right
@[simp] theorem extractLsb'_fn3_sel (x : BitVec 2) (b : BitVec 1) : (x ++ b : BitVec 3).extractLsb' 1 2 = x :=
  BitVec.extractLsb'_append_eq_left
@[simp] theorem extractLsb'_fn3_rtz (x r p : BitVec 1) : (x ++ r ++ p : BitVec 3).extractLsb' 1 1 = r := by
  rw [BitVec.extractLsb'_append_eq_of_le (by decide), BitVec.extractLsb'_append_eq_right]
@[simp] theorem extractLsb'_fn3_top (b : BitVec 1) (x : BitVec 2) : (b ++ x : BitVec 3).extractLsb' 2 1 = b :=
  BitVec.extractLsb'_append_eq_left
@[simp] theorem extractLsb'_fn3_low (b : BitVec 1) (x : BitVec 2) : (b ++ x : BitVec 3).extractLsb' 0 2 = x :=
  BitVec.extractLsb'_append_eq_right
@[simp] theorem extractLsb'_shift_kind (k : BitVec 2) (x : BitVec 3) (sh : BitVec 6) : (k ++ x ++ sh : BitVec 11).extractLsb' 9 2 = k := by
  rw [BitVec.extractLsb'_append_eq_of_le (by decide), BitVec.extractLsb'_append_eq_left]
@[simp] theorem extractLsb'_shift_amount (k : BitVec 2) (x : BitVec 3) (sh : BitVec 6) : (k ++ x ++ sh : BitVec 11).extractLsb' 0 6 = sh := by
  rw [BitVec.extractLsb'_append_eq_right]
@[simp] theorem extractLsb'_halves (imm : BitVec 10) : (imm.extractLsb' 5 5 ++ imm.extractLsb' 0 5 : BitVec 10) = imm :=
  BitVec.extractLsb'_append_extractLsb'
@[simp] theorem extractLsb'_fn7_src (c : BitVec 4) (r : BitVec 2) (i : BitVec 1) : (c ++ r ++ i : BitVec 7).extractLsb' 3 4 = c := by
  rw [BitVec.extractLsb'_append_eq_of_le (by decide), BitVec.extractLsb'_append_eq_left]
@[simp] theorem extractLsb'_fn7_rm (c : BitVec 4) (r : BitVec 2) (i : BitVec 1) : (c ++ r ++ i : BitVec 7).extractLsb' 1 2 = r := by
  rw [BitVec.extractLsb'_append_eq_of_le (by decide), BitVec.extractLsb'_append_eq_right]
@[simp] theorem extractLsb'_fn7_inf (c : BitVec 4) (r : BitVec 2) (i : BitVec 1) : (c ++ r ++ i : BitVec 7).extractLsb' 0 1 = i := by
  rw [BitVec.extractLsb'_append_eq_right]
@[simp] theorem extractLsb'_major_dst (x : BitVec 3) (c : BitVec 4) : (x ++ c : BitVec 7).extractLsb' 0 4 = c :=
  BitVec.extractLsb'_append_eq_right
@[simp] theorem extractLsb'_fn7_elem (e : BitVec 3) (w r : BitVec 2) : (e ++ w ++ r : BitVec 7).extractLsb' 4 3 = e := by
  rw [BitVec.extractLsb'_append_eq_of_le (by decide), BitVec.extractLsb'_append_eq_left]
@[simp] theorem extractLsb'_fn7_wide (e : BitVec 3) (w r : BitVec 2) : (e ++ w ++ r : BitVec 7).extractLsb' 2 2 = w := by
  rw [BitVec.extractLsb'_append_eq_of_le (by decide), BitVec.extractLsb'_append_eq_right]
@[simp] theorem extractLsb'_fn7_mxRm (e : BitVec 3) (w r : BitVec 2) : (e ++ w ++ r : BitVec 7).extractLsb' 0 2 = r := by
  rw [BitVec.extractLsb'_append_eq_right]

/-! Codes: each is read back as what it stands for. -/

@[simp] theorem Prec.ofBit_toBit (p : Prec) : Prec.ofBit p.toBit = p := by cases p <;> rfl
@[simp] theorem Size.ofBits_toBits (z : Size) : Size.ofBits z.toBits = z := by cases z <;> rfl
@[simp] theorem LdSize.ofNat?_toBits (z : LdSize) : LdSize.ofNat? z.toBits.toNat = some z := by cases z <;> rfl
@[simp] theorem FSrc.ofNat?_toBits (x : FSrc) : FSrc.ofNat? x.toBits.toNat = some x := by cases x <;> rfl
@[simp] theorem FCond.ofCode_toBits (x : FCond) : FCond.ofCode x.toBits.toNat = x := by cases x <;> rfl
@[simp] theorem NumType.ofCode_code (t : NumType) : NumType.ofCode t.code.toNat = t := by cases t <;> rfl
@[simp] theorem RMode.ofNat?_code (m : RMode) : RMode.ofNat? m.code.toNat = some m := by cases m <;> rfl
@[simp] theorem MxElem.ofNat?_code (e : MxElem) : MxElem.ofNat? e.code.toNat = some e := by cases e <;> rfl
@[simp] theorem MxWide.ofNat?_code (e : MxWide) : MxWide.ofNat? e.code.toNat = some e := by cases e <;> rfl

/-! Form N, and forms S, B and T, which share its places. -/

section FormN
variable (fn5 : BitVec 5) (eb ea : BitVec 1) (sb sa : BitVec 5) (fn3 : BitVec 3) (rd : BitVec 5) (mj : BitVec 7) (s l : Nat)

theorem extractLsb'_packN_rd (h : 7 ≤ s) (h' : s + l ≤ 12) :
    (packN fn5 eb ea sb sa fn3 rd mj).extractLsb' s l = rd.extractLsb' (s - 7) l := by
  rw [packN, BitVec.extractLsb'_append_eq_of_le h, BitVec.extractLsb'_append_eq_of_add_le (by omega)]

theorem extractLsb'_packN_fn3 (h : 12 ≤ s) (h' : s + l ≤ 15) :
    (packN fn5 eb ea sb sa fn3 rd mj).extractLsb' s l = fn3.extractLsb' (s - 12) l := by
  rw [packN]
  iterate 2 rw [BitVec.extractLsb'_append_eq_of_le (by omega)]
  rw [BitVec.extractLsb'_append_eq_of_add_le (by omega), Nat.sub_sub]

theorem extractLsb'_packN_sa (h : 15 ≤ s) (h' : s + l ≤ 20) :
    (packN fn5 eb ea sb sa fn3 rd mj).extractLsb' s l = sa.extractLsb' (s - 15) l := by
  rw [packN]
  iterate 3 rw [BitVec.extractLsb'_append_eq_of_le (by omega)]
  rw [BitVec.extractLsb'_append_eq_of_add_le (by omega), Nat.sub_sub, Nat.sub_sub]

theorem extractLsb'_packN_sb (h : 20 ≤ s) (h' : s + l ≤ 25) :
    (packN fn5 eb ea sb sa fn3 rd mj).extractLsb' s l = sb.extractLsb' (s - 20) l := by
  rw [packN]
  iterate 4 rw [BitVec.extractLsb'_append_eq_of_le (by omega)]
  rw [BitVec.extractLsb'_append_eq_of_add_le (by omega)]
  simp only [Nat.sub_sub]

theorem extractLsb'_packN_fn5 (h : 27 ≤ s) :
    (packN fn5 eb ea sb sa fn3 rd mj).extractLsb' s l = fn5.extractLsb' (s - 27) l := by
  rw [packN]
  iterate 7 rw [BitVec.extractLsb'_append_eq_of_le (by omega)]
  simp only [Nat.sub_sub]

@[simp] theorem fMajor_packN : fMajor (packN fn5 eb ea sb sa fn3 rd mj) = mj := by
  rw [fMajor, packN, BitVec.extractLsb'_append_eq_right]

@[simp] theorem fRd_packN : fRd (packN fn5 eb ea sb sa fn3 rd mj) = rd := by
  simp [fRd, extractLsb'_packN_rd]

@[simp] theorem fFn3_packN : fFn3 (packN fn5 eb ea sb sa fn3 rd mj) = fn3 := by
  simp [fFn3, extractLsb'_packN_fn3]

@[simp] theorem fSb_packN : fSb (packN fn5 eb ea sb sa fn3 rd mj) = sb := by
  simp [fSb, extractLsb'_packN_sb]

@[simp] theorem fFn5_packN : fFn5 (packN fn5 eb ea sb sa fn3 rd mj) = fn5 := by
  simp [fFn5, extractLsb'_packN_fn5]

@[simp] theorem fImm10_packN : fImm10 (packN fn5 eb ea sb sa fn3 rd mj) = fn5 ++ rd := by
  rw [fImm10, fFn5_packN, fRd_packN]

@[simp] theorem srcA_packN : srcA (packN fn5 eb ea sb sa fn3 rd mj) = ⟨sa, bit1 ea⟩ := by
  have e : fE25 (packN fn5 eb ea sb sa fn3 rd mj) = ea := by
    rw [fE25, packN]
    iterate 5 rw [BitVec.extractLsb'_append_eq_of_le (by decide)]
    rw [BitVec.extractLsb'_append_eq_right]
  simp [srcA, e, fSa, extractLsb'_packN_sa]

@[simp] theorem srcB_packN : srcB (packN fn5 eb ea sb sa fn3 rd mj) = ⟨sb, bit1 eb⟩ := by
  have e : fE26 (packN fn5 eb ea sb sa fn3 rd mj) = eb := by
    rw [fE26, packN]
    iterate 6 rw [BitVec.extractLsb'_append_eq_of_le (by decide)]
    rw [BitVec.extractLsb'_append_eq_right]
  simp [srcB, e]

end FormN

/-! Form I. -/

section FormI
variable (imm : BitVec 11) (ea : BitVec 1) (sa : BitVec 5) (fn3 : BitVec 3) (rd : BitVec 5) (mj : BitVec 7) (s l : Nat)

theorem extractLsb'_packI_imm (h : 21 ≤ s) : (packI imm ea sa fn3 rd mj).extractLsb' s l = imm.extractLsb' (s - 21) l := by
  rw [packI]
  iterate 5 rw [BitVec.extractLsb'_append_eq_of_le (by omega)]
  simp only [Nat.sub_sub]

@[simp] theorem fMajor_packI : fMajor (packI imm ea sa fn3 rd mj) = mj := by
  rw [fMajor, packI, BitVec.extractLsb'_append_eq_right]

@[simp] theorem fRd_packI : fRd (packI imm ea sa fn3 rd mj) = rd := by
  rw [fRd, packI, BitVec.extractLsb'_append_eq_of_le (by decide), BitVec.extractLsb'_append_eq_right]

@[simp] theorem fFn3_packI : fFn3 (packI imm ea sa fn3 rd mj) = fn3 := by
  rw [fFn3, packI]
  iterate 2 rw [BitVec.extractLsb'_append_eq_of_le (by decide)]
  rw [BitVec.extractLsb'_append_eq_right]

@[simp] theorem fImm11_packI : fImm11 (packI imm ea sa fn3 rd mj) = imm := by
  simp [fImm11, extractLsb'_packI_imm]

@[simp] theorem srcAI_packI : srcAI (packI imm ea sa fn3 rd mj) = ⟨sa, bit1 ea⟩ := by
  have n : fSa (packI imm ea sa fn3 rd mj) = sa := by
    rw [fSa, packI]
    iterate 3 rw [BitVec.extractLsb'_append_eq_of_le (by decide)]
    rw [BitVec.extractLsb'_append_eq_right]
  have e : fE20 (packI imm ea sa fn3 rd mj) = ea := by
    rw [fE20, packI]
    iterate 4 rw [BitVec.extractLsb'_append_eq_of_le (by decide)]
    rw [BitVec.extractLsb'_append_eq_right]
  simp [srcAI, n, e]

end FormI

/-! Forms U and J. -/

section FormsUJ

@[simp] theorem fMajor_packU (imm : BitVec 20) (rd : BitVec 5) (mj : BitVec 7) : fMajor (packU imm rd mj) = mj := by
  rw [fMajor, packU, BitVec.extractLsb'_append_eq_right]

@[simp] theorem fRd_packU (imm : BitVec 20) (rd : BitVec 5) (mj : BitVec 7) : fRd (packU imm rd mj) = rd := by
  rw [fRd, packU, BitVec.extractLsb'_append_eq_of_le (by decide), BitVec.extractLsb'_append_eq_right]

@[simp] theorem fImm20_packU (imm : BitVec 20) (rd : BitVec 5) (mj : BitVec 7) : fImm20 (packU imm rd mj) = imm := by
  rw [fImm20, packU, BitVec.extractLsb'_append_eq_of_le (by decide), BitVec.extractLsb'_append_eq_left]

@[simp] theorem fMajor_packJ (imm : BitVec 25) (mj : BitVec 7) : fMajor (packJ imm mj) = mj := by
  rw [fMajor, packJ, BitVec.extractLsb'_append_eq_right]

@[simp] theorem fImm25_packJ (imm : BitVec 25) (mj : BitVec 7) : fImm25 (packJ imm mj) = imm := by
  rw [fImm25, packJ, BitVec.extractLsb'_append_eq_left]

end FormsUJ

/-! Form V. -/

section FormV
variable (fn7 : BitVec 7) (vb va : BitVec 5) (m : BitVec 3) (vd : BitVec 5) (mj : BitVec 7) (s l : Nat)

theorem extractLsb'_packV_major (h : s + l ≤ 7) : (packV fn7 vb va m vd mj).extractLsb' s l = mj.extractLsb' s l := by
  rw [packV, BitVec.extractLsb'_append_eq_of_add_le h]

theorem extractLsb'_packV_vd (h : 7 ≤ s) (h' : s + l ≤ 12) : (packV fn7 vb va m vd mj).extractLsb' s l = vd.extractLsb' (s - 7) l := by
  rw [packV, BitVec.extractLsb'_append_eq_of_le h, BitVec.extractLsb'_append_eq_of_add_le (by omega)]

theorem extractLsb'_packV_va (h : 15 ≤ s) (h' : s + l ≤ 20) : (packV fn7 vb va m vd mj).extractLsb' s l = va.extractLsb' (s - 15) l := by
  rw [packV]
  iterate 3 rw [BitVec.extractLsb'_append_eq_of_le (by omega)]
  rw [BitVec.extractLsb'_append_eq_of_add_le (by omega), Nat.sub_sub, Nat.sub_sub]

theorem extractLsb'_packV_vb (h : 20 ≤ s) (h' : s + l ≤ 25) : (packV fn7 vb va m vd mj).extractLsb' s l = vb.extractLsb' (s - 20) l := by
  rw [packV]
  iterate 4 rw [BitVec.extractLsb'_append_eq_of_le (by omega)]
  rw [BitVec.extractLsb'_append_eq_of_add_le (by omega)]
  simp only [Nat.sub_sub]

theorem extractLsb'_packV_fn7 (h : 25 ≤ s) : (packV fn7 vb va m vd mj).extractLsb' s l = fn7.extractLsb' (s - 25) l := by
  rw [packV]
  iterate 5 rw [BitVec.extractLsb'_append_eq_of_le (by omega)]
  simp only [Nat.sub_sub]

@[simp] theorem fMajor_packV : fMajor (packV fn7 vb va m vd mj) = mj := by
  rw [fMajor, packV, BitVec.extractLsb'_append_eq_right]

@[simp] theorem fRd_packV : fRd (packV fn7 vb va m vd mj) = vd := by
  simp [fRd, extractLsb'_packV_vd]

@[simp] theorem fFn3_packV : fFn3 (packV fn7 vb va m vd mj) = m := by
  rw [fFn3, packV]
  iterate 2 rw [BitVec.extractLsb'_append_eq_of_le (by decide)]
  rw [BitVec.extractLsb'_append_eq_right]

@[simp] theorem fSa_packV : fSa (packV fn7 vb va m vd mj) = va := by
  simp [fSa, extractLsb'_packV_va]

@[simp] theorem fSb_packV : fSb (packV fn7 vb va m vd mj) = vb := by
  simp [fSb, extractLsb'_packV_vb]

@[simp] theorem fFn7_packV : fFn7 (packV fn7 vb va m vd mj) = fn7 := by
  simp [fFn7, extractLsb'_packV_fn7]

end FormV

/-! Form M. -/

section FormM
variable (ec : BitVec 1) (sc : BitVec 5) (qb qa : BitVec 4) (tall ovr latch : BitVec 1) (acc : BitVec 2) (mj : BitVec 7)

@[simp] theorem fMajor_packM : fMajor (packM ec sc qb qa tall ovr latch acc mj) = mj := by
  rw [fMajor, packM, BitVec.extractLsb'_append_eq_right]

@[simp] theorem extractLsb'_packM_acc : (packM ec sc qb qa tall ovr latch acc mj).extractLsb' 7 2 = acc := by
  rw [packM, BitVec.extractLsb'_append_eq_of_le (by decide), BitVec.extractLsb'_append_eq_right]

@[simp] theorem extractLsb'_packM_latch : (packM ec sc qb qa tall ovr latch acc mj).extractLsb' 9 1 = latch := by
  rw [packM]
  iterate 2 rw [BitVec.extractLsb'_append_eq_of_le (by decide)]
  rw [BitVec.extractLsb'_append_eq_right]

@[simp] theorem extractLsb'_packM_ovr : (packM ec sc qb qa tall ovr latch acc mj).extractLsb' 10 1 = ovr := by
  rw [packM]
  iterate 3 rw [BitVec.extractLsb'_append_eq_of_le (by decide)]
  rw [BitVec.extractLsb'_append_eq_right]

@[simp] theorem extractLsb'_packM_tall : (packM ec sc qb qa tall ovr latch acc mj).extractLsb' 11 1 = tall := by
  rw [packM]
  iterate 4 rw [BitVec.extractLsb'_append_eq_of_le (by decide)]
  rw [BitVec.extractLsb'_append_eq_right]

@[simp] theorem extractLsb'_packM_qa : (packM ec sc qb qa tall ovr latch acc mj).extractLsb' 12 4 = qa := by
  rw [packM]
  iterate 5 rw [BitVec.extractLsb'_append_eq_of_le (by decide)]
  rw [BitVec.extractLsb'_append_eq_right]

@[simp] theorem extractLsb'_packM_qb : (packM ec sc qb qa tall ovr latch acc mj).extractLsb' 16 4 = qb := by
  rw [packM]
  iterate 6 rw [BitVec.extractLsb'_append_eq_of_le (by decide)]
  rw [BitVec.extractLsb'_append_eq_right]

@[simp] theorem fSb_packM : fSb (packM ec sc qb qa tall ovr latch acc mj) = sc := by
  rw [fSb, packM]
  iterate 7 rw [BitVec.extractLsb'_append_eq_of_le (by decide)]
  rw [BitVec.extractLsb'_append_eq_right]

@[simp] theorem fE25_packM : fE25 (packM ec sc qb qa tall ovr latch acc mj) = ec := by
  rw [fE25, packM]
  iterate 8 rw [BitVec.extractLsb'_append_eq_of_le (by decide)]
  rw [BitVec.extractLsb'_append_eq_right]

@[simp] theorem extractLsb'_packM_reserved : (packM ec sc qb qa tall ovr latch acc mj).extractLsb' 26 6 = 0 := by
  rw [packM]
  iterate 9 rw [BitVec.extractLsb'_append_eq_of_le (by decide)]
  exact BitVec.extractLsb'_eq_self

end FormM

end Sys2Proof
end

section
/-! Decoding what was encoded (spec/03_formats.md R37 to R58). -/

namespace Sys2Proof

/-- A vector type's major leads to its decoder. -/
theorem decode_packV_vector (fn7 : BitVec 7) (vb va : BitVec 5) (m : BitVec 3) (vd : BitVec 5) (t : VType) :
    decode (packV fn7 vb va m vd t.major) = decodeVector t (packV fn7 vb va m vd t.major) := by
  cases t <;> (rw [decode, fMajor_packV]; rfl)

/-- A destination type's major leads to the conversions. -/
theorem decode_packV_cvt (fn7 : BitVec 7) (vb va : BitVec 5) (m : BitVec 3) (vd : BitVec 5) (d : NumType) (hd : d.cvtDst = true) :
    decode (packV fn7 vb va m vd ((3 : BitVec 3) ++ d.code)) = decodeCvt (packV fn7 vb va m vd ((3 : BitVec 3) ++ d.code)) := by
  cases d <;> cases hd <;> (rw [decode, fMajor_packV]; rfl)

/-- A format pair's major leads to `mma`. -/
theorem decode_packM_mma (ec : BitVec 1) (sc : BitVec 5) (qb qa : BitVec 4) (tall ovr latch : BitVec 1) (acc : BitVec 2) (pr : MmaPair) :
    decode (packM ec sc qb qa tall ovr latch acc pr.major) = decodeMma pr (packM ec sc qb qa tall ovr latch acc pr.major) := by
  cases pr <;> (rw [decode, fMajor_packM]; rfl)

/-- The dimension number of `vw.dim` is one of four. -/
theorem toNat_fn3_low_le (n : BitVec 2) : (0#1 ++ n : BitVec 3).toNat ≤ 3 := by
  revert n; decide

/-- An allowed type is answered. -/
theorem allowed_of {ok : Bool} {i : Instr} (h : ok = true) : allowed ok i = some i := if_pos h

/-- The instructions of forms V and M: the vector, mask and conversion majors, and `mma`. -/
def Instr.isVectorWord : Instr → Bool
  | .vadd .. | .vsub .. | .vmul .. | .vfma .. | .vmin .. | .vmax .. | .vabs .. | .vneg .. | .vand .. | .vor .. | .vxor .. | .vsll .. | .vsrl .. | .vsra ..
  | .vcmp .. | .vsel .. | .vredsum .. | .vredmax .. | .vredmin .. | .vmaxidx .. | .vperm .. | .vbcast .. | .vins .. | .vext .. | .vld .. | .vst ..
  | .vlut .. | .vexp2 .. | .vrcp .. | .vrsqrt .. | .vdot .. | .mand .. | .mor .. | .mnot .. | .mpop .. | .cvt .. | .mxPack .. | .mxUnpack .. | .mxScale ..
  | .mma .. => true
  | _ => false

/-- The vector instructions and `mma` are read back, row by row of their forms. A type that the row does not allow is what `wf` refuses. -/
theorem decode_encode_of_isVectorWord (i : Instr) (hv : i.isVectorWord = true) (hw : i.wf = true) : decode (encode i) = some i := by
  cases i with
  | vadd t vd va vb m | vsub t vd va vb m | vmul t vd va vb m | vmin t vd va vb m | vmax t vd va vb m | vsel t vd va vb m | vperm t vd va vb m
  | vredsum t vd va m | vredmax t vd va m | vredmin t vd va m | vmaxidx t vd va m | vbcast t vd xa m | vins t vd xa xb m
  | vext t xd va xb | vld t vd xa m | vst t vd xa m =>
    change decode (packV ..) = _
    simp [decode_packV_vector, decodeVector]
  | vfma t vd va vb m | vand t vd va vb m | vor t vd va vb m | vxor t vd va vb m | vsll t vd va vb m | vsrl t vd va vb m | vsra t vd va vb m
  | vdot t vd va vb m | vabs t vd va m | vneg t vd va m | vexp2 t vd va m | vrcp t vd va m | vrsqrt t vd va m | vlut t vd va xb m =>
    change decode (packV ..) = _
    simp only [decode_packV_vector, decodeVector, fFn7_packV, fRd_packV, fSa_packV, fSb_packV, fFn3_packV, BitVec.ofNat_eq_ofNat, BitVec.toNat_ofNat,
      Nat.reducePow, Nat.reduceMod]
    exact allowed_of hw
  | vcmp cond t md va vb m =>
    change decode (packV ..) = _
    cases cond <;> simp [decode_packV_vector, decodeVector, VCond.fn7, extractLsb'_packV_vd]
  | mand md ma mb | mor md ma mb | mnot md ma | mpop xd ma =>
    change decode (packV ..) = _
    simp [decode, decodeMask, extractLsb'_packV_vd, extractLsb'_packV_va, extractLsb'_packV_vb]
  | cvt dst src rm inf vd va m =>
    obtain ⟨⟨hd, -⟩, -⟩ : (dst.cvtDst = true ∧ _) ∧ _ := by simpa only [Instr.wf, Bool.and_eq_true] using hw
    change decode (packV ..) = _
    rw [decode_packV_cvt _ _ _ _ _ _ hd]
    simp only [decodeCvt, extractLsb'_packV_fn7, extractLsb'_packV_major, Nat.reduceSub, Nat.reduceLeDiff, Nat.reduceAdd, extractLsb'_major_dst,
      NumType.ofCode_code, extractLsb'_fn7_src, extractLsb'_fn7_rm, extractLsb'_fn7_inf, RMode.ofNat?_code, bit1_b1, fRd_packV, fSa_packV, fFn3_packV]
    exact allowed_of hw
  | mxPack e w rm vd va vb m | mxUnpack w e rm vd va vb m | mxScale w vd va vb m =>
    change decode (packV ..) = _
    simp [decode, decodeMx, extractLsb'_packV_fn7]
  | mma pr tall ovr latch acc qa qb sc =>
    obtain ⟨hs, hq⟩ : (pr.isMx = true ∨ sc = ⟨0, false⟩) ∧ (latch = false ∨ qb = 0) := by simpa [Instr.wf] using hw
    have eq : (if latch = true then 0#4 else qb) = qb := by rcases hq with rfl | rfl <;> simp
    have es : (if pr.isMx = true then sc else ⟨0#5, false⟩) = sc := by
      rcases hs with h | rfl
      · simp [h]
      · simp
    change decode (packM ..) = _
    simp [decode_packM_mma, decodeMma, eq, es]
  | _ => cases hv

/-- The scalar, memory, system and command instructions are read back, form by form (spec/03_formats.md R37): two sources, one source, an
immediate, the long immediates, three sources, the split immediate, and the words whose fields hold other numbers. -/
theorem decode_encode_of_not_isVectorWord (i : Instr) (hw : i.wf = true) (hi : (i.isWord && !i.isVectorWord) = true) : decode (encode i) = some i := by
  cases i with
  | add rd sa sb | sub rd sa sb | and rd sa sb | or rd sa sb | xor rd sa sb | andn rd sa sb | sll rd sa sb | srl rd sa sb | sra rd sa sb
  | rol rd sa sb | slt rd sa sb | sltz rd sa sb | mul rd sa sb | mulh rd sa sb | mulhz rd sa sb | div rd sa sb | divz rd sa sb
  | rem rd sa sb | remz rd sa sb | min rd sa sb | max rd sa sb | minz rd sa sb | maxz rd sa sb | ins rd sa sb | ext rd sa sb =>
    change decode (encRR ..) = _
    simp [encRR, decode, decodeInt]
  | fadd p rd sa sb | fsub p rd sa sb | fmul p rd sa sb | fdiv p rd sa sb | fmin p rd sa sb | fmax p rd sa sb | fcmp p cond rd sa sb =>
    change decode (encRR ..) = _
    simp [encRR, decode, decodeFp, extractLsb'_packN_fn3]
  | amoAdd ord dbl rd sa sb | amoAnd ord dbl rd sa sb | amoOr ord dbl rd sa sb | amoXor ord dbl rd sa sb | amoMin ord dbl rd sa sb
  | amoMax ord dbl rd sa sb | amoSwap ord dbl rd sa sb | amoFaddW ord rd sa sb =>
    change decode (encRR ..) = _
    simp [encRR, decode, decodeAmo, extractLsb'_packN_fn5]
  | amoCasD ord rd sa sb =>
    have h : sb.n.toNat % 2 = 0 ∧ 2 ≤ sb.n.toNat := by simpa [Instr.wf] using hw
    change decode (encRR ..) = _
    simp [encRR, decode, decodeAmo, extractLsb'_packN_fn5, h]
  | l1Inv sa sb | l1Wb sa sb | iinv sa sb | cpgo rd sa sb | msgSend flags sa sb | msgMcast flags sa sb | msgReply flags sa sb | msgAt flags sa sb
  | actRetire sa sb | actPin sa sb | actUnpin sa sb | actMove sa sb | actProbe rd sa sb | fork sa sb | jcInit sa sb | depInit sa sb | tlbi sa sb
  | matSlot sa sb =>
    change decode (encRR ..) = _
    simp [encRR, decode, decodeFence, decodeCopy, decodeMsg, decodeActor, decodeTask, decodeSystem]
  | vwSet q sa sb =>
    change decode (encRR ..) = _
    simp [encRR, decode, decodeView, viewRd, extractLsb'_packN_rd]
  | vwDim q n sa sb =>
    change decode (encRR ..) = _
    simp [encRR, decode, decodeView, viewRd, extractLsb'_packN_rd, extractLsb'_packN_fn3, toNat_fn3_low_le]
  | clz rd sa | ctz rd sa | popc rd sa =>
    change decode (encR1 ..) = _
    simp [encR1, decode, decodeInt]
  | fsqrt p rd sa | fclass p rd sa | fcvtToFp p src rd sa | fcvtS64 p rtz rd sa | fcvtZ64 p rtz rd sa =>
    change decode (encR1 ..) = _
    simp [encR1, decode, decodeFp, extractLsb'_packN_fn3]
  | jr sa | callr sa | lmarkE sa | lmarkF sa | lwaitf sa | ltest rd sa | cpcancel sa | tagWany rd sa | tagWall sa | tagFfr rd sa | tagClr sa
  | tagTest rd sa | msgFwd sa | jcArrive sa | depDec sa | depRead rd sa | floorWait sa | stampSet sa | trap sa | matRing sa =>
    change decode (encR1 ..) = _
    simp [encR1, decode, decodeIndirect, decodeFence, decodeCopy, decodeTag, decodeMsg, decodeTask, decodeBarrier, decodeSystem]
  | vwFmt q sa =>
    change decode (encR1 ..) = _
    simp [encR1, decode, decodeView, viewRd, extractLsb'_packN_rd]
  | addi rd sa imm | andi rd sa imm | ori rd sa imm | xori rd sa imm | slti rd sa imm | sltzi rd sa imm | ld sz rd sa imm | rld sz rd sa imm =>
    change decode (encI ..) = _
    simp [encI, decode, decodeImm, decodeLoad, decodeRemote]
  | slli rd sa sh | srli rd sa sh | srai rd sa sh =>
    change decode (encI ..) = _
    rw [encI, decode, fMajor_packI]
    change decodeImm _ = _
    rw [decodeImm, fFn3_packI, extractLsb'_packI_imm (h := by decide), extractLsb'_packI_imm (h := by decide), extractLsb'_shift_kind,
      extractLsb'_shift_amount, srcAI_packI, bit1_b1, fRd_packI]
    rfl
  | csrr rd csr | csrw csr sa | csrs csr sa | csrc csr sa =>
    have h : csrDefined csr = true := hw
    change decode (packI ..) = _
    simp [decode, decodeCsr, h]
  | liu rd imm | addpc rd imm =>
    change decode (packU ..) = _
    simp [decode]
  | j imm | call imm =>
    change decode (packJ ..) = _
    simp [decode]
  | csel rd sa sb sc | fmaS rd sa sb sc | fmaD rd sa sb sc =>
    change decode (encT ..) = _
    simp [encT, decode, decodeFma, srcC, extractLsb'_packN_fn3]
  | beq sa sb disp | bne sa sb disp | blt sa sb disp | bge sa sb disp | bltz sa sb disp | bgez sa sb disp | st sz sb sa imm =>
    change decode (encS ..) = _
    simp [encS, decode, decodeBranch, decodeStore, extractLsb'_packN_fn3]
  | ldOrdered sz zx ord rd sa | ldp sz zx win rd sa =>
    have h := of_decide_eq_true hw
    change decode (packN ..) = _
    simp [decode, decodeLoad, LdSize.ofNat?, extractLsb'_packN_fn5, extractLsb'_packN_sb, h]
  | stOrdered sz ord sb sa =>
    have h : ord.toNat = 0 ∨ 6 ≤ ord.toNat ∧ ord.toNat ≤ 10 := by simpa [Instr.wf] using hw
    change decode (packN ..) = _
    simp [decode, decodeStore, extractLsb'_packN_fn3, extractLsb'_packN_fn5, h]
  | fence scope | cpw ce sa | cpr rd ce | vwGet rd q n =>
    have h := of_decide_eq_true hw
    change decode (packN ..) = _
    simp [decode, decodeFence, decodeCopy, decodeViewAccess, viewSa, extractLsb'_packN_sa, h]
  | vwLd vd q sb | vwSt vd q sb | vwRet q | vwMeet rd qa qb =>
    change decode (packN ..) = _
    simp [decode, decodeViewAccess, viewSa, viewSb, extractLsb'_packN_sa, extractLsb'_packN_sb]
  | msgSendv flags sa q | barArrive rd n | barWait sa n | allotSet sa n | allotMirror vb | allotQuery rd =>
    change decode (packN ..) = _
    simp [decode, decodeMsg, decodeBarrier, decodeAllot, viewSb, extractLsb'_packN_sb]
  | allotGrow n | allotShrink n =>
    have h : 1 ≤ n.toNat ∧ n.toNat ≤ 4 := by simpa [Instr.wf] using hw
    change decode (packN ..) = _
    simp [decode, decodeAllot, extractLsb'_packN_sb, h]
  | matZero acc | matRd q acc | matLdb q | matWait acc | matSatc rd acc =>
    change decode (packN ..) = _
    simp [decode, viewRd, viewSa, extractLsb'_packN_rd, extractLsb'_packN_sa]
  | ret | rstSync | msgDone | eret | ebreak | ppt | nop => rfl
  | _ => cases hi
/-- Settles O2, by the form of the word. -/
theorem encodeThenDecode : Obligations.EncodeThenDecode := by
  unfold Obligations.EncodeThenDecode
  intro i hw hi
  cases hv : i.isVectorWord with
  | true => exact decode_encode_of_isVectorWord i hv hw
  | false => exact decode_encode_of_not_isVectorWord i hw (by rw [hi, hv]; rfl)

end Sys2Proof
end

section
/-! What the decoder answers (spec/03_formats.md R44, R47, R59, R61). -/

namespace Sys2Proof

/-- The instruction is well-formed, and one that a word can hold. -/
def Instr.encodable (i : Instr) : Bool := i.isWord && i.wf

/-- An answer that depends on the type is encodable where the type is allowed. -/
theorem all_allowed {ok : Bool} {i : Instr} (h : i.encodable = ok) : (allowed ok i).all Instr.encodable = true := by
  cases ok with
  | false => rfl
  | true => exact h

/-- An answer under a condition is encodable where the condition holds. -/
theorem all_ite {p : Prop} [Decidable p] {i : Instr} (h : p → i.encodable = true) : (if p then some i else none).all Instr.encodable = true := by
  split
  · exact h ‹p›
  · rfl

/-- A field that is read only where it is used holds its reserved value elsewhere. -/
theorem used_or_reserved {α : Type} [DecidableEq α] (used : Bool) (x d : α) : (used || decide ((if used then x else d) = d)) = true := by
  cases used <;> simp

/-- A field that is reserved where a bit is set holds its reserved value there. -/
theorem reserved_or_used {α : Type} [DecidableEq α] (reserved : Bool) (x d : α) :
    (!reserved || decide ((if reserved then d else x) = d)) = true := by
  cases reserved <;> simp

/-! One lemma for each major's decoder: whatever it answers can be encoded. -/

theorem decodeInt_encodable (w : Word) : (decodeInt w).all Instr.encodable = true := by
  unfold decodeInt
  split
  · rfl
  · split <;> rfl

theorem decodeImm_encodable (w : Word) : (decodeImm w).all Instr.encodable = true := by
  unfold decodeImm
  split
  case h_7 => split <;> rfl
  all_goals rfl

theorem decodeLoad_encodable (w : Word) : (decodeLoad w).all Instr.encodable = true := by
  unfold decodeLoad
  split
  · rfl
  · dsimp only
    split
    · exact all_ite fun h => decide_eq_true h
    · exact all_ite fun h => decide_eq_true h

theorem decodeStore_encodable (w : Word) : (decodeStore w).all Instr.encodable = true := by
  unfold decodeStore
  dsimp only
  split
  · rfl
  · exact all_ite fun h => by simpa [Instr.encodable, Instr.wf] using ⟨rfl, h⟩

theorem decodeBranch_encodable (w : Word) : (decodeBranch w).all Instr.encodable = true := by
  unfold decodeBranch; split <;> rfl

theorem decodeIndirect_encodable (w : Word) : (decodeIndirect w).all Instr.encodable = true := by
  unfold decodeIndirect; split <;> rfl

theorem decodeFp_encodable (w : Word) : (decodeFp w).all Instr.encodable = true := by
  unfold decodeFp
  dsimp only
  split
  case h_10 => rw [Option.all_map]; cases FSrc.ofNat? _ <;> rfl
  all_goals rfl

theorem decodeFma_encodable (w : Word) : (decodeFma w).all Instr.encodable = true := by
  unfold decodeFma; split <;> rfl

theorem decodeAmo_encodable (w : Word) : (decodeAmo w).all Instr.encodable = true := by
  unfold decodeAmo
  dsimp only
  split
  case h_8 =>
    split
    · exact all_ite fun h => by simpa [Instr.encodable, Instr.wf] using ⟨rfl, h⟩
    · rfl
  all_goals rfl

theorem decodeFence_encodable (w : Word) : (decodeFence w).all Instr.encodable = true := by
  unfold decodeFence
  split
  case h_1 => exact all_ite fun h => decide_eq_true h
  all_goals rfl

theorem decodeRemote_encodable (w : Word) : (decodeRemote w).all Instr.encodable = true := by
  unfold decodeRemote; split <;> rfl

theorem decodeCsr_encodable (w : Word) : (decodeCsr w).all Instr.encodable = true := by
  unfold decodeCsr
  split
  · split
    case h_5 => rfl
    all_goals assumption
  · rfl

theorem decodeView_encodable (w : Word) : (decodeView w).all Instr.encodable = true := by
  unfold decodeView
  split
  case h_2 => exact all_ite fun _ => rfl
  all_goals rfl

theorem decodeViewAccess_encodable (w : Word) : (decodeViewAccess w).all Instr.encodable = true := by
  unfold decodeViewAccess
  split
  case h_1 => exact all_ite fun h => decide_eq_true h
  all_goals rfl

theorem decodeCopy_encodable (w : Word) : (decodeCopy w).all Instr.encodable = true := by
  unfold decodeCopy
  split
  case h_1 | h_2 => exact all_ite fun h => decide_eq_true h
  all_goals rfl

theorem decodeTag_encodable (w : Word) : (decodeTag w).all Instr.encodable = true := by
  unfold decodeTag; split <;> rfl

theorem decodeMsg_encodable (w : Word) : (decodeMsg w).all Instr.encodable = true := by
  unfold decodeMsg; split <;> rfl

theorem decodeActor_encodable (w : Word) : (decodeActor w).all Instr.encodable = true := by
  unfold decodeActor; split <;> rfl

theorem decodeTask_encodable (w : Word) : (decodeTask w).all Instr.encodable = true := by
  unfold decodeTask; split <;> rfl

theorem decodeBarrier_encodable (w : Word) : (decodeBarrier w).all Instr.encodable = true := by
  unfold decodeBarrier; split <;> rfl

theorem decodeSystem_encodable (w : Word) : (decodeSystem w).all Instr.encodable = true := by
  unfold decodeSystem; split <;> rfl

theorem decodeAllot_encodable (w : Word) : (decodeAllot w).all Instr.encodable = true := by
  unfold decodeAllot
  dsimp only
  split
  case h_2 | h_3 => exact all_ite fun h => by simpa [Instr.encodable, Instr.wf] using ⟨rfl, h⟩
  all_goals rfl

theorem decodeVector_encodable (t : VType) (w : Word) : (decodeVector t w).all Instr.encodable = true := by
  unfold decodeVector
  dsimp only
  split
  case h_4 | h_7 | h_8 | h_9 | h_10 | h_11 | h_12 | h_13 | h_14 | h_32 | h_33 | h_34 | h_35 | h_36 => exact all_allowed rfl
  all_goals rfl

theorem decodeMask_encodable (w : Word) : (decodeMask w).all Instr.encodable = true := by
  unfold decodeMask; split <;> rfl

theorem decodeCvt_encodable (w : Word) : (decodeCvt w).all Instr.encodable = true := by
  unfold decodeCvt
  dsimp only
  split
  · rfl
  · exact all_allowed rfl

theorem decodeMx_encodable (w : Word) : (decodeMx w).all Instr.encodable = true := by
  unfold decodeMx
  (repeat' split) <;> rfl

theorem decodeMma_encodable (pr : MmaPair) (w : Word) : (decodeMma pr w).all Instr.encodable = true := by
  unfold decodeMma
  dsimp only
  refine all_ite fun _ => ?_
  exact Bool.and_eq_true_iff.2 ⟨rfl, Bool.and_eq_true_iff.2 ⟨used_or_reserved .., reserved_or_used ..⟩⟩

/-- What the decoder answers is well-formed and one that a word can hold. -/
theorem decode_encodable (w : Word) : (decode w).all Instr.encodable = true := by
  unfold decode
  split
  · exact decodeInt_encodable w
  · exact decodeImm_encodable w
  · rfl
  · exact decodeLoad_encodable w
  · exact decodeStore_encodable w
  · exact decodeBranch_encodable w
  · rfl
  · rfl
  · exact decodeIndirect_encodable w
  · exact decodeFp_encodable w
  · exact decodeFma_encodable w
  · exact decodeAmo_encodable w
  · exact decodeFence_encodable w
  · exact decodeRemote_encodable w
  · exact decodeCsr_encodable w
  · exact decodeView_encodable w
  · exact decodeViewAccess_encodable w
  · exact decodeCopy_encodable w
  · exact decodeTag_encodable w
  · exact decodeMsg_encodable w
  · exact decodeActor_encodable w
  · exact decodeTask_encodable w
  · exact decodeBarrier_encodable w
  · exact decodeSystem_encodable w
  · exact decodeAllot_encodable w
  · rfl
  · exact decodeMask_encodable w
  · exact decodeMx_encodable w
  · exact decodeMx_encodable w
  · exact decodeMx_encodable w
  · rfl
  · rfl
  · rfl
  · rfl
  · rfl
  · rfl
  · rfl
  · split
    · rfl
    · split
      · exact decodeCvt_encodable w
      · split
        · exact decodeVector_encodable _ w
        · exact decodeMma_encodable _ w
        · rfl

/-- Settles O3: each major's decoder answers encodable instructions alone, and O2 reads them back. -/
theorem decodedIsWellFormed : Obligations.DecodedIsWellFormed := by
  unfold Obligations.DecodedIsWellFormed
  intro w i hd
  obtain ⟨hi, hw⟩ : i.isWord = true ∧ i.wf = true := by
    have h := decode_encodable w
    rw [hd] at h
    exact Bool.and_eq_true_iff.1 h
  exact ⟨hw, hi, encodeThenDecode i hw hi⟩

/-- The major as the low seven bits of the word. -/
theorem fMajor_toNat (w : Word) : (fMajor w).toNat = w.toNat % 128 := by simp [fMajor]

/-- R59: a major of 0x70 or more is the no-operation's. -/
theorem decode_of_hint_major {w : Word} (h : 112 ≤ (fMajor w).toNat) : decode w = some .nop := by
  unfold decode
  split
  case h_38 => exact if_pos h
  all_goals omega

/-- The majors that define no instruction (spec/03_formats.md R44). -/
def emptyMajors : List Nat :=
  [0x00, 0x1B, 0x1C, 0x1D, 0x1E, 0x1F, 0x2C, 0x2D, 0x2E, 0x2F, 0x3F, 0x47, 0x48, 0x49, 0x4A, 0x4B, 0x4C, 0x4D, 0x4E, 0x4F,
    0x5F, 0x60, 0x61, 0x62, 0x63, 0x64, 0x65, 0x66, 0x67, 0x68, 0x69, 0x6A, 0x6B, 0x6C, 0x6D, 0x6E, 0x6F]

/-- R61: a word of a major that defines no instruction is none. -/
theorem decode_of_empty_major {w : Word} (h : (fMajor w).toNat ∈ emptyMajors) : decode w = none := by
  obtain ⟨n, hn⟩ : ∃ n, (fMajor w).toNat = n := ⟨_, rfl⟩
  rw [hn, emptyMajors] at h
  fin_cases h <;> (rw [decode, hn]; rfl)

end Sys2Proof
end

section
/-! Maps with rising keys. -/

namespace Sys2Proof

/-- The keys of a map rise where the first lies below the others and theirs rise. -/
theorem Map.sorted_cons {α : Type} (a : Nat) (b : α) (t : Map α) :
    Map.sorted ((a, b) :: t) = true ↔ (∀ e ∈ t, a < e.1) ∧ Map.sorted t = true := by
  induction t generalizing a b with
  | nil => simp [Map.sorted]
  | cons c t ih =>
    obtain ⟨a', b'⟩ := c
    simp only [Map.sorted, Bool.and_eq_true, decide_eq_true_eq, List.forall_mem_cons]
    constructor
    · rintro ⟨h, ht⟩
      exact ⟨⟨h, fun e he => Nat.lt_trans h (((ih a' b').1 ht).1 e he)⟩, ht⟩
    · rintro ⟨⟨h, -⟩, ht⟩
      exact ⟨h, ht⟩

/-- In a map whose keys rise, what is listed is what is read. -/
theorem Map.get_of_mem {α : Type} (d : α) (m : Map α) (h : Map.sorted m = true) : ∀ e ∈ m, Map.get d m e.1 = e.2 := by
  induction m with
  | nil => exact fun e he => nomatch he
  | cons c t ih =>
    obtain ⟨a, b⟩ := c
    obtain ⟨ha, ht⟩ := (Map.sorted_cons a b t).1 h
    intro e he
    rcases List.mem_cons.1 he with rfl | he
    · simp [Map.get]
    · rw [Map.get, if_neg (Nat.ne_of_lt (ha e he)), ih ht e he]

/-- In a map whose keys rise, no entry differs from what is read. -/
theorem Map.filter_differing {α : Type} [DecidableEq α] (d : α) (m : Map α) (h : Map.sorted m = true) :
    (m.filter fun e => !decide (Map.get d m e.1 = e.2)) = [] := by
  rw [List.filter_eq_nil_iff]
  intro e he
  simp [Map.get_of_mem d m h e he]

end Sys2Proof
end

section
/-! The no-operation (spec/03_formats.md R59): it changes nothing, and so needs no undo-log entry (spec/06_memory.md R134), in a core whose
register maps list each key once. -/

namespace Sys2Proof.Machine

/-- The no-operation completes with no effect. -/
theorem exec_nop (s : State) : exec .nop s = .next (s.complete s (s.c.pc + 4)) := rfl

/-- An instruction that changes nothing changes nothing of the cluster. -/
theorem State.sharedUndo_self (s : State) : s.sharedUndo s = none := by
  have ht : s.clearedTags s = [] := by
    simp only [State.clearedTags, List.filterMap_eq_nil_iff]
    intro i _
    exact if_neg (by omega)
  simp only [State.sharedUndo, ht, Nat.le_refl, if_true]
  split <;> rfl

/-- The keys of a core's register maps rise, as those of every finite map of the model are meant to. -/
structure Core.MapsRise (c : Core) : Prop where
  xs : Map.sorted c.xs = true
  vs : Map.sorted c.vs = true
  ms : Map.sorted c.ms = true
  lat : Map.sorted c.latacc = true

/-- An instruction that changes nothing needs no undo-log entry. -/
theorem Core.changed_self {c : Core} (h : c.MapsRise) : c.changed c = false := by
  have ex : (c.xs.filter fun e => !decide (c.regAt e.1 = e.2)) = [] := Map.filter_differing _ _ h.xs
  have ev : (c.vs.filter fun e => !decide (c.v e.1 = e.2)) = [] := Map.filter_differing _ _ h.vs
  have em : (c.ms.filter fun e => !decide (Map.get 0 c.ms e.1 = e.2)) = [] := Map.filter_differing _ _ h.ms
  have el : (c.latacc.filter fun e => !decide (Map.get 0 c.latacc e.1 = e.2)) = [] := Map.filter_differing _ _ h.lat
  have en : (c.empty.filter fun l => !c.empty.contains l) = [] := by simp
  have er : c.willRaise c = false := by simp [Core.willRaise]
  simp only [Core.changed, Core.undoEntry, ex, ev, em, el, en, er]
  simp

/-- The no-operation completes in every state whose register maps are in their canonical form, a full undo log included. -/
theorem nop_completes {s : State} (h : s.c.MapsRise) : Completes .nop s s := by
  have hf : s.logFull s = false := by simp [State.logFull, Core.changed_self h, State.sharedUndo_self]
  refine ⟨s.retire s (s.c.pc + 4), ?_, s.retire_completed s _ rfl⟩
  rw [exec_nop, State.complete, hf]; rfl

/-- What the statement on no-operations and empty majors says of words holds of every word, and what it says of the no-operation holds of
every state whose register maps are in their canonical form. -/
theorem hintWords_emptyMajors_nop_of_mapsRise :
    (∀ w : Word, (112 ≤ w.toNat % 128 → decode w = some .nop) ∧ (w.toNat % 128 ∈ emptyMajors → decode w = none))
    ∧ ∀ s : State, s.c.MapsRise → Completes .nop s s :=
  ⟨fun w => ⟨fun h => decode_of_hint_major (by rwa [fMajor_toNat]), fun h => decode_of_empty_major (by rwa [fMajor_toNat])⟩,
    fun _ h => nop_completes h⟩

/-- Right after reset the maps are in their canonical form. -/
theorem reset_mapsRise : State.reset.c.MapsRise := ⟨rfl, rfl, rfl, rfl⟩

/-- A state whose register map is not in its canonical form: it lists key 8 twice, with two values. An access is outstanding, and the undo log is
full. -/
def listedTwice : State := State.reset.modC fun c =>
  { c with out := [{ id := 0 }], undo := List.replicate 16 ⟨[], [], [], [], {}, [], none, 0⟩, xs := [(8, {}), (8, { val := 1 })] }

/-- There the second entry of key 8 differs from what key 8 reads as, so that the model counts a changed register where none was written, and
finds no room for its entry. -/
theorem listedTwice_logFull : listedTwice.logFull listedTwice = true := by decide +kernel

/-- Refutes O4: a no-operation stalls for log room, with PC where it was, in a state whose register map lists a key twice. -/
theorem not_noOperationsAndEmptyMajors : ¬ Obligations.NoOperationsAndEmptyMajors := by
  unfold Obligations.NoOperationsAndEmptyMajors
  rintro ⟨-, h⟩
  obtain ⟨t, ht, hc⟩ := h listedTwice
  rw [exec_nop, State.complete, if_pos listedTwice_logFull] at ht
  cases ht
  have hpc : listedTwice.countLogStall.c.pc = listedTwice.c.pc + 4 := hc.pc
  rw [State.countLogStall, State.c_modC] at hpc
  exact absurd hpc (by decide +kernel)

end Sys2Proof.Machine
end

section
/-! The entry of the trap handler (spec/15_system.md R354 to R357). -/

namespace Sys2Proof.Machine

/-- With the handler ready a trap neither waits nor is contained (spec/15_system.md R355, R358). -/
theorem State.takeTrap_of_handlerReady {s : State} (h : s.HandlerReady) (cause : Nat) (tval : XWord) :
    s.takeTrap s.cur cause tval = s.enterTrap s.cur cause tval := by
  obtain ⟨htv, hin, hd, hs, hvq, hti, hout⟩ := h
  unfold State.c at *
  have hd' : ¬ (s.core s.cur).ctx.depth = 65535 := by omega
  have hs' : ¬ (s.core s.cur).freeSlots ≤ 0 := by omega
  simp [State.takeTrap, Core.trapLogFull, htv, hin, hvq, hti, hout, hd', hs']

/-- The core that enters the handler (spec/15_system.md R355), no access being outstanding. -/
def Core.trapped (c : Core) (cause : Nat) (tval : XWord) : Core :=
  { (({ c with trapWait := none } : Core).modCtx fun x =>
      { x with
        epc := c.pc, cause := BitVec.ofNat 8 cause, tval := tval
        status := { x.status with tdepth := BitVec.ofNat 16 x.depth, intrap := true, decline := false } }).pushFrame with
    pc := c.ctx.tvecAddr ++ (0 : BitVec 2) }

/-- The entry of the handler: the core trapped, and the record of it. -/
theorem State.enterTrap_eq {s : State} (k cause : Nat) (tval : XWord) (h : (s.core k).out = []) :
    s.enterTrap k cause tval = (s.setCore k ((s.core k).trapped cause tval)).trace k 3 cause (s.core k).pc.toNat := by
  have he : (s.core k).out.isEmpty = true := by rw [h]; rfl
  exact congrArg (fun c => (s.setCore k c).trace k 3 cause (s.core k).pc.toNat) (if_pos he)

/-- The context at the handler's entry. -/
theorem Core.trapped_ctx (c : Core) (cause : Nat) (tval : XWord) :
    (c.trapped cause tval).ctx = { c.ctx with
      epc := c.pc, cause := BitVec.ofNat 8 cause, tval := tval, depth := c.ctx.depth + 1
      status := { c.ctx.status with tdepth := BitVec.ofNat 16 c.ctx.depth, intrap := true, decline := false } } := by
  simp only [Core.trapped, Core.pushFrame, Core.startSpill_ctx]; rfl

/-- The handler's entry makes the registers of a new frame. -/
theorem Core.trapped_xs (c : Core) (cause : Nat) (tval : XWord) : (c.trapped cause tval).xs = c.pushFrame.xs := by
  simp only [Core.trapped, Core.pushFrame, Core.startSpill_xs]; rfl

/-- A trap whose handler is ready enters it (spec/15_system.md R355). -/
theorem State.takeTrap_entered {s : State} (h : s.HandlerReady) (cause : Nat) (tval : XWord) :
    Entered s (s.takeTrap s.cur cause tval) cause tval := by
  rw [State.takeTrap_of_handlerReady h, State.enterTrap_eq _ _ _ h.out]
  generalize hu : s.setCore s.cur ((s.core s.cur).trapped cause tval) = u
  obtain ⟨n, hn⟩ := State.trace_core u s.cur 3 cause (s.core s.cur).pc.toNat
  have huc : u.core s.cur = s.c.trapped cause tval := by rw [← hu]; exact State.core_setCore_same ..
  have hcur : (u.trace s.cur 3 cause (s.core s.cur).pc.toNat).cur = s.cur := by rw [State.trace_cur, ← hu]; rfl
  have hc : (u.trace s.cur 3 cause (s.core s.cur).pc.toNat).c = { s.c.trapped cause tval with count := n } := by
    rw [State.c, hcur, hn, huc]
  have hx : (u.trace s.cur 3 cause (s.core s.cur).pc.toNat).c.ctx = (s.c.trapped cause tval).ctx := by rw [hc]
  rw [Core.trapped_ctx] at hx
  constructor
  case frame => exact NewFrame.of_push (by rw [hc]; exact Core.trapped_xs ..) (by rw [hx])
  case pc => rw [hc]; rfl
  case memory => intro p; rw [State.byte, State.trace_mem, ← hu]; rfl
  case others =>
    intro k hk
    rw [State.trace_core_other _ _ _ _ _ _ hk, ← hu, State.core_setCore, if_neg (Ne.symm hk)]
  all_goals rw [hx]

/-- Settles O15: each of the three is a trap, and the handler is ready. -/
theorem systemTrapsEnterHandler : Obligations.SystemTrapsEnterHandler := by
  unfold Obligations.SystemTrapsEnterHandler
  intro sa w s hr
  refine ⟨fun hs => ?_, fun hj => ?_, ⟨_, rfl, s.takeTrap_entered hr 1 (w.setWidth 64)⟩⟩
  · refine ⟨_, ?_, State.takeTrap_entered hr 18 (s.c.x sa.n)⟩
    change execTrap sa s = _
    rw [execTrap, checkedThen_go (srcGates_ready hs)]; rfl
  · refine ⟨_, ?_, State.takeTrap_entered hr 16 0⟩
    change execEbreak s = _
    rw [execEbreak, hj]; rfl

end Sys2Proof.Machine
end

section
/-! The worked encodings of the spec (spec/04_scalar.md R70, spec/06_memory.md, spec/12_numbers.md, spec/14_matrix.md). -/

namespace Sys2Proof.Machine

/-- Settles O1: each word is decoded. -/
theorem workedEncodingsDecode : Obligations.WorkedEncodingsDecode := by
  unfold Obligations.WorkedEncodingsDecode
  decide

end Sys2Proof.Machine
end

section
/-! The values of the integer instructions (spec/04_scalar.md R71, R73 to R76): the model's words against the numbers of the rows. -/

namespace Sys2Proof.Machine

/-- An instruction that reads scalar registers and writes one completes with its value when its operands are ready. -/
theorem completes_of_regAns {i : Instr} {s : State} {srcs : List (Src × Nat)} {rd : BitVec 5} {v w : XWord}
    (hi : exec i s = perform s (s.regAns srcs rd v)) (h : s.Ready srcs rd) (hv : v = w) : Completes i s (s.modC fun c => c.setX rd w) := by
  rw [Completes, CompletesAt, hi, ← hv]
  exact perform_regAns v h

/-- A left shift multiplies, modulo 2^64. -/
theorem shiftLeft_eq_ofNat (a : XWord) (n : Nat) : a <<< n = BitVec.ofNat 64 (a.toNat * 2 ^ n) := by
  apply BitVec.eq_of_toNat_eq
  rw [BitVec.toNat_shiftLeft, BitVec.toNat_ofNat, Nat.shiftLeft_eq]

/-- A logical right shift divides. -/
theorem ushiftRight_eq_ofNat (a : XWord) (n : Nat) : a >>> n = BitVec.ofNat 64 (a.toNat / 2 ^ n) := by
  rw [← Nat.shiftRight_eq_div_pow, ← BitVec.toNat_ushiftRight, BitVec.ofNat_toNat, BitVec.setWidth_eq]

/-- An arithmetic right shift divides the signed value, rounding down. -/
theorem sshiftRight_eq_ofInt (a : XWord) (n : Nat) : a.sshiftRight n = BitVec.ofInt 64 (a.toInt / (2 ^ n : Nat)) := by
  rw [BitVec.sshiftRight, Int.shiftRight_eq_div_pow]

/-- A rotation by less than the width. -/
theorem rotateLeft_eq_or (a : XWord) (n : Nat) (h : n < 64) : a.rotateLeft n = (a <<< n) ||| (a >>> (64 - n)) := by
  rw [BitVec.rotateLeft_def, Nat.mod_eq_of_lt h]

/-- A condition on signed values as 0 or 1. -/
theorem boolX_slt (a b : XWord) : boolX (a.slt b) = if a.toInt < b.toInt then 1 else 0 := by
  simp [boolX, BitVec.slt_eq_decide]

/-- A condition on unsigned values as 0 or 1. -/
theorem boolX_ult (a b : XWord) : boolX (a.ult b) = if a.toNat < b.toNat then 1 else 0 := by
  simp [boolX, BitVec.ult_eq_decide]

/-- The upper half of a product modulo 2^128. -/
theorem extract_ofInt_upper (i : Int) : (BitVec.ofInt 128 i).extractLsb' 64 64 = BitVec.ofInt 64 (i / 2 ^ 64) := by
  apply BitVec.eq_of_toNat_eq
  rw [BitVec.extractLsb'_toNat, BitVec.toNat_ofInt, BitVec.toNat_ofInt, Nat.shiftRight_eq_div_pow]
  omega

/-- The upper half of a signed product. -/
theorem mulh_eq_extract (a b : XWord) :
    BitVec.ofInt 64 (a.toInt * b.toInt / 2 ^ 64) = (a.signExtend 128 * b.signExtend 128).extractLsb' 64 64 := by
  rw [BitVec.signExtend, BitVec.signExtend, ← BitVec.ofInt_mul, extract_ofInt_upper]

/-- The upper half of an unsigned product. -/
theorem mulhz_eq_extract (a b : XWord) :
    BitVec.ofNat 64 (a.toNat * b.toNat / 2 ^ 64) = (a.zeroExtend 128 * b.zeroExtend 128).extractLsb' 64 64 := by
  have h (x : XWord) : x.zeroExtend 128 = BitVec.ofInt 128 x.toNat := by
    apply BitVec.eq_of_toNat_eq
    simp
  rw [h, h, ← BitVec.ofInt_mul, extract_ofInt_upper, ← BitVec.ofInt_natCast]
  rfl

/-- The smaller of two signed values. -/
theorem ite_slt_left (a b : XWord) : (if b.slt a then b else a) = if a.toInt ≤ b.toInt then a else b := by
  simp only [BitVec.slt_eq_decide, decide_eq_true_eq, ← not_lt, ite_not]

/-- The larger of two signed values; equal values are the same word. -/
theorem ite_slt_right (a b : XWord) : (if a.slt b then b else a) = if a.toInt ≤ b.toInt then b else a := by
  rcases lt_trichotomy a.toInt b.toInt with h | h | h
  · simp [BitVec.slt_eq_decide, h, h.le]
  · simp [BitVec.toInt_inj.1 h]
  · simp [BitVec.slt_eq_decide, h.not_ge, h.not_gt]

/-- The smaller of two unsigned values. -/
theorem ite_ult_left (a b : XWord) : (if b.ult a then b else a) = if a.toNat ≤ b.toNat then a else b := by
  simp only [BitVec.ult_eq_decide, decide_eq_true_eq, ← not_lt, ite_not]

/-- The larger of two unsigned values. -/
theorem ite_ult_right (a b : XWord) : (if a.ult b then b else a) = if a.toNat ≤ b.toNat then b else a := by
  rcases lt_trichotomy a.toNat b.toNat with h | h | h
  · simp [BitVec.ult_eq_decide, h, h.le]
  · simp [BitVec.toNat_inj.1 h]
  · simp [BitVec.ult_eq_decide, h.not_ge, h.not_gt]

/-- `div` where the quotient overflows. -/
theorem divFn_overflow {a b : XWord} (hb : b ≠ 0) (h : a = 2 ^ 63 ∧ b = -1) : divFn a b = 2 ^ 63 - 1 := by rw [divFn, if_neg hb, if_pos h]
/-- `div` in the ordinary case. -/
theorem divFn_of_ne {a b : XWord} (hb : b ≠ 0) (h : ¬ (a = 2 ^ 63 ∧ b = -1)) : divFn a b = BitVec.ofInt 64 (a.toInt.tdiv b.toInt) := by
  rw [divFn, if_neg hb, if_neg h]
/-- `rem` where the quotient overflows. -/
theorem remFn_overflow {a b : XWord} (hb : b ≠ 0) (h : a = 2 ^ 63 ∧ b = -1) : remFn a b = 0 := by rw [remFn, if_neg hb, if_pos h]
/-- `rem` in the ordinary case. -/
theorem remFn_of_ne {a b : XWord} (hb : b ≠ 0) (h : ¬ (a = 2 ^ 63 ∧ b = -1)) : remFn a b = BitVec.ofInt 64 (a.toInt.tmod b.toInt) := by
  rw [remFn, if_neg hb, if_neg h, Int.tmod_def]

/-- Zero bits from the top: all bits of 0, else those above the first one bit. -/
theorem zerosDown_eq (a n : Nat) (h : a < 2 ^ n) : zerosDown a n = if a = 0 then n else n - 1 - a.log2 := by
  induction n with
  | zero => simp [zerosDown]
  | succ n ih =>
    by_cases hb : a < 2 ^ n
    · have ht : a.testBit n = false := Nat.testBit_lt_two_pow hb
      rw [zerosDown, if_neg (by simp [ht]), ih hb]
      split
      · omega
      next h0 =>
        have : a.log2 < n := (Nat.log2_lt h0).2 hb
        omega
    · have h0 : a ≠ 0 := by rintro rfl; exact hb (Nat.two_pow_pos n)
      have hl : a.log2 = n := (Nat.log2_eq_iff h0).2 ⟨Nat.le_of_not_lt hb, h⟩
      have ht : a.testBit n = true := by rw [← hl]; exact Nat.testBit_log2 h0
      rw [zerosDown, if_pos ht, if_neg h0]
      omega

/-- `clz` of a word. -/
theorem ofNat_zerosDown (a : XWord) : BitVec.ofNat 64 (zerosDown a.toNat 64) = if a = 0 then 64 else BitVec.ofNat 64 (63 - a.toNat.log2) := by
  rw [zerosDown_eq a.toNat 64 a.isLt]
  by_cases h : a = 0
  · subst h; rfl
  · rw [if_neg h, if_neg (c := a.toNat = 0) fun h0 => h (BitVec.eq_of_toNat_eq h0)]

/-- Zero bits from bit `i` up: at most `n`, all of them clear, and a one bit follows where they are fewer. -/
theorem zerosUp_spec (a i n : Nat) : zerosUp a i n ≤ n ∧ (zerosUp a i n < n → a.testBit (i + zerosUp a i n) = true)
    ∧ ∀ j, j < zerosUp a i n → a.testBit (i + j) = false := by
  induction n generalizing i with
  | zero => simp [zerosUp]
  | succ n ih =>
    obtain ⟨hle, hone, hzero⟩ := ih (i + 1)
    by_cases ht : a.testBit i = true
    · simp [zerosUp, ht]
    · rw [zerosUp, if_neg ht]
      refine ⟨by omega, fun h => ?_, fun j hj => ?_⟩
      · rw [← Nat.add_assoc]; exact hone (by omega)
      · cases j with
        | zero => simpa using ht
        | succ j =>
          have := hzero j (by omega)
          rwa [Nat.add_assoc, Nat.add_comm 1 j] at this

/-- `ctz`: a word that is not zero has a one bit. -/
theorem zerosUp_word (a : XWord) : ∃ n, zerosUp a.toNat 0 64 = n ∧ n ≤ 64 ∧ (a = 0 → n = 64) ∧ (a ≠ 0 → a.getLsbD n = true)
    ∧ ∀ j, j < n → a.getLsbD j = false := by
  obtain ⟨hle, hone, hzero⟩ := zerosUp_spec a.toNat 0 64
  simp only [Nat.zero_add] at hone hzero
  refine ⟨_, rfl, hle, ?_, fun h => ?_, hzero⟩
  · rintro rfl; decide
  · apply hone
    by_contra hn
    exact h (BitVec.eq_of_getLsbD_eq fun j hj => (hzero j (by omega)).trans BitVec.getLsbD_zero.symm)

/-- `popc` counts the one bits. -/
theorem popCount_eq_countP (a n : Nat) : popCount a n = (List.range n).countP fun j => a.testBit j := by
  induction n with
  | zero => rfl
  | succ n ih =>
    rw [popCount, ih, List.range_succ, List.countP_append, List.countP_singleton, Nat.add_comm]

/-- A field of ones at `p`, `w` bits wide. -/
theorem getLsbD_mask (p w j : Nat) (hj : j < 64) :
    (BitVec.ofNat 64 ((2 ^ w - 1) * 2 ^ p)).getLsbD j = decide (p ≤ j ∧ j < p + w) := by
  rw [BitVec.getLsbD_ofNat, Nat.mul_comm, Nat.testBit_two_pow_mul, Nat.testBit_two_pow_sub_one]
  by_cases h : p ≤ j <;> simp [hj, h]
  omega

/-- `ins`: the field's bits come from the source, the others from the destination. -/
theorem insFn_getLsbD (d a b : XWord) (j : Nat) (hj : j < 64) :
    (insFn d a b).getLsbD j
      = if b.toNat % 64 ≤ j ∧ j < b.toNat % 64 + fieldWidth b then a.getLsbD (j - b.toNat % 64) else d.getLsbD j := by
  simp only [insFn, BitVec.getLsbD_or, BitVec.getLsbD_and, BitVec.getLsbD_not, getLsbD_mask _ _ _ hj, BitVec.getLsbD_shiftLeft, hj, decide_true,
    Bool.true_and]
  by_cases h : b.toNat % 64 ≤ j ∧ j < b.toNat % 64 + fieldWidth b
  · simp [h]
  · simp [h]

/-- An immediate scaled by 2,048. -/
theorem immU_eq_ofInt (imm : BitVec 20) : immU imm = BitVec.ofInt 64 (imm.toInt * 2048) := by
  rw [immU, BitVec.ofInt_mul]; rfl

/-- Settles O9: each row's value is the model's. -/
theorem integerOperationResults : Obligations.IntegerOperationResults := by
  unfold Obligations.IntegerOperationResults
  intro rd sa sb s a b d writes p w
  have hp : p < 64 := Nat.mod_lt _ (by decide)
  refine ⟨fun h => ⟨?_, ?_, ?_, ?_, ?_, ?_, ?_, ?_, ?_, ?_, ?_, ?_, ?_, ?_, ?_, fun hb ho => ⟨?_, ?_⟩, fun hb ho => ⟨?_, ?_⟩, fun hb => ⟨?_, ?_⟩,
    fun hb => ⟨?_, ?_⟩, fun hb => ⟨?_, ?_⟩, ?_, ?_, ?_, ?_, ?_⟩, fun h => ⟨?_, ?_, ?_⟩, fun h => ?_⟩
  iterate 6 exact completes_of_regAns rfl h rfl
  · exact completes_of_regAns rfl h (shiftLeft_eq_ofNat a p)
  · exact completes_of_regAns rfl h (ushiftRight_eq_ofNat a p)
  · exact completes_of_regAns rfl h (sshiftRight_eq_ofInt a p)
  · exact completes_of_regAns rfl h (rotateLeft_eq_or a p hp)
  · exact completes_of_regAns rfl h (boolX_slt a b)
  · exact completes_of_regAns rfl h (boolX_ult a b)
  · exact completes_of_regAns rfl h (BitVec.mul_def)
  · exact completes_of_regAns rfl h (mulh_eq_extract a b)
  · exact completes_of_regAns rfl h (mulhz_eq_extract a b)
  · exact completes_of_regAns rfl h (divFn_of_ne hb ho)
  · exact completes_of_regAns rfl h (remFn_of_ne hb ho)
  · exact completes_of_regAns rfl h (divFn_overflow hb ho)
  · exact completes_of_regAns rfl h (remFn_overflow hb ho)
  · exact completes_of_regAns rfl h (if_pos hb)
  · exact completes_of_regAns rfl h (if_pos hb)
  · exact completes_of_regAns rfl h (if_neg hb)
  · exact completes_of_regAns rfl h (if_neg hb)
  · exact completes_of_regAns rfl h (if_pos hb)
  · exact completes_of_regAns rfl h (if_pos hb)
  · exact completes_of_regAns rfl h (ite_slt_left a b)
  · exact completes_of_regAns rfl h (ite_slt_right a b)
  · exact completes_of_regAns rfl h (ite_ult_left a b)
  · exact completes_of_regAns rfl h (ite_ult_right a b)
  · exact completes_of_regAns rfl h rfl
  · exact completes_of_regAns rfl h (ofNat_zerosDown a)
  · obtain ⟨n, hn, hspec⟩ := zerosUp_word a
    exact ⟨n, completes_of_regAns rfl h (congrArg (BitVec.ofNat 64) hn), hspec⟩
  · exact completes_of_regAns rfl h (congrArg (BitVec.ofNat 64) (popCount_eq_countP a.toNat 64))
  · exact ⟨_, completes_of_regAns rfl h rfl, insFn_getLsbD d a b⟩

/-- Settles O10: each line's value is the model's. -/
theorem immediateAndSelectResults : Obligations.ImmediateAndSelectResults := by
  unfold Obligations.ImmediateAndSelectResults
  constructor
  · intro rd sa imm sh s h a i writes
    refine ⟨?_, ?_, ?_, ?_, ?_, ?_, ?_, ?_, ?_⟩
    iterate 4 exact completes_of_regAns rfl h rfl
    · refine completes_of_regAns rfl h ((boolX_slt a i).trans ?_)
      rw [show i.toInt = imm.toInt from BitVec.toInt_signExtend_of_le (by decide)]
    · exact completes_of_regAns rfl h (boolX_ult a i)
    · exact completes_of_regAns rfl h (shiftLeft_eq_ofNat a sh.toNat)
    · exact completes_of_regAns rfl h (ushiftRight_eq_ofNat a sh.toNat)
    · exact completes_of_regAns rfl h (sshiftRight_eq_ofInt a sh.toNat)
  · intro rd imm sa sb sc s writes
    refine ⟨fun hd hl => ?_, fun h => completes_of_regAns rfl h rfl⟩
    have h : s.Ready [] rd := ⟨by simp [Core.SrcsReady], hd, hl⟩
    refine ⟨completes_of_regAns rfl h (immU_eq_ofInt imm), completes_of_regAns rfl h ?_⟩
    rw [immU_eq_ofInt, BitVec.ofInt_add, BitVec.ofInt_natCast, BitVec.ofNat_toNat]

end Sys2Proof.Machine
end

section
/-! Branches and jumps (spec/04_scalar.md R77 to R80). -/

namespace Sys2Proof.Machine

/-- An immediate of a target counts words of four bytes (spec/03_formats.md R38). -/
theorem signExtend_mul_four {n : Nat} (imm : BitVec n) : imm.signExtend 32 * 4 = BitVec.ofInt 32 (imm.toInt * 4) := by
  rw [BitVec.signExtend, BitVec.ofInt_mul]; rfl

/-- A branch whose sources are ready goes to its target where its condition holds, else past its word. -/
theorem completesAt_of_branchAns {i : Instr} {s : State} {sa sb : Src} {disp : BitVec 10} {f : XWord → XWord → Bool} {pc : BitVec 32}
    (hi : exec i s = perform s (s.branchAns sa sb disp f)) (hl : s.c.LogRoom) (h : s.c.SrcsReady (src2 sa sb))
    (hpc : (if f (s.c.x sa.n) (s.c.x sb.n) then s.c.pc + BitVec.ofInt 32 (disp.toInt * 4) else s.c.pc + 4) = pc) : CompletesAt i s s pc := by
  have ha : s.branchAns sa sb disp f = if f (s.c.x sa.n) (s.c.x sb.n) then .jump s (targetB s.c.pc disp) else .done s := by
    rw [State.branchAns, checked_go (srcGates_ready h)]
  rw [CompletesAt, hi, ha, ← hpc, ← signExtend_mul_four]
  split
  · exact perform_jump hl rfl
  · exact perform_done hl rfl

/-- A jump whose checks let it go on goes to its target. -/
theorem completesAt_of_jumpAns {i : Instr} {s e : State} {gs : List Gate} {pc : BitVec 32} (hi : exec i s = perform s (s.jumpAns gs e pc))
    (hl : s.c.LogRoom) (hc : e.cur = s.cur) (hg : firstStop gs = .go) : CompletesAt i s e pc := by
  have ha : s.jumpAns gs e pc = .jump e pc := by rw [State.jumpAns, checked_go hg]
  rw [CompletesAt, hi, ha]
  exact perform_jump hl hc

/-- A jump that a check traps. -/
theorem traps_of_jumpAns {i : Instr} {s e : State} {gs : List Gate} {pc : BitVec 32} {cause : Nat} {tval : XWord}
    (hi : exec i s = perform s (s.jumpAns gs e pc)) (hg : firstStop gs = .trap cause tval) : Traps i s cause tval := by
  rw [Traps, hi, State.jumpAns, checked, hg]; rfl

/-- The checks of `jr` whose source is ready: its target is a multiple of 4, or it traps (spec/03_formats.md R36). -/
theorem firstStop_jr {c : Core} {sa : Src} (h : c.SrcsReady (src1 sa)) (t : XWord) :
    firstStop (srcGates c (src1 sa) ++ [targetGate t]) = if t.toNat % 4 = 0 then .go else .trap 4 t := by
  rw [firstStop_append (srcGates_ready h), targetGate]
  by_cases ht : t.toNat % 4 = 0 <;> simp [ht, trapIf, firstStop]

/-- Settles O11: the condition of each row decides where it goes. -/
theorem branchAndJumpTargets : Obligations.BranchAndJumpTargets := by
  unfold Obligations.BranchAndJumpTargets
  intro sa sb disp imm s hl a b goes target on
  refine ⟨fun h => ⟨?_, ?_, ?_, ?_, ?_, ?_⟩, ?_, fun h ht => ?_, fun h ht => ?_⟩
  · exact completesAt_of_branchAns rfl hl h (by simp [a, b, target, on])
  · exact completesAt_of_branchAns rfl hl h (by simp [a, b, target, on])
  · exact completesAt_of_branchAns rfl hl h (by simp [BitVec.slt_eq_decide, a, b, target, on])
  · exact completesAt_of_branchAns rfl hl h (by simp only [BitVec.slt_eq_decide, Bool.not_eq_true', decide_eq_false_iff_not, ite_not]; rfl)
  · exact completesAt_of_branchAns rfl hl h (by simp [BitVec.ult_eq_decide, a, b, target, on])
  · exact completesAt_of_branchAns rfl hl h (by simp only [BitVec.ult_eq_decide, Bool.not_eq_true', decide_eq_false_iff_not, ite_not]; rfl)
  · rw [← signExtend_mul_four]
    exact perform_jump hl rfl
  · exact completesAt_of_jumpAns rfl hl rfl ((firstStop_jr h a).trans (if_pos ht))
  · exact traps_of_jumpAns (i := .jr sa) rfl ((firstStop_jr h a).trans (if_neg ht))

end Sys2Proof.Machine
end

section
/-! Empty operands (spec/04_scalar.md R67 to R69): the sources' test comes before every other check. -/

namespace Sys2Proof.Machine

/-- The first check that stops an instruction stops it before any others. -/
theorem firstStop_append_of_stop {gs hs : List Gate} (h : firstStop gs ≠ .go) : firstStop (gs ++ hs) = firstStop gs := by
  induction gs with
  | nil => exact absurd rfl h
  | cons g t ih =>
    cases g with
    | go => exact ih h
    | _ => rfl

/-- An answer for which the checks `gs` come before all else: where one of them stops, nothing else counts. -/
def Ans.Heeds (a : Ans) (s : State) (gs : List Gate) : Prop := firstStop gs ≠ .go → a = checked s gs s

/-- What stops an instruction is no completion. -/
theorem checked_ne_done {s e t : State} {gs : List Gate} (hg : firstStop gs ≠ .go) : checked s gs e ≠ .done t := by
  rw [checked]
  cases h : firstStop gs with
  | go => exact absurd h hg
  | _ => nofun

/-- Checks heed those they begin with. -/
theorem checked_heeds {s e : State} {gs hs : List Gate} (hp : gs <+: hs) : (checked s hs e).Heeds s gs := by
  obtain ⟨rest, rfl⟩ := hp
  intro hg
  rw [checked, firstStop_append_of_stop hg, checked]
  cases h : firstStop gs with
  | go => exact absurd h hg
  | _ => rfl

/-- The same, where what follows may stop too. -/
theorem checkedThen_heeds {s : State} {gs hs : List Gate} {k : Unit → Ans} (hp : gs <+: hs) : (checkedThen s hs k).Heeds s gs := by
  obtain ⟨rest, rfl⟩ := hp
  intro hg
  rw [checkedThen, firstStop_append_of_stop hg, checked]
  cases h : firstStop gs with
  | go => exact absurd h hg
  | _ => rfl

/-! The shared operations heed the checks they are given. -/

theorem branchAns_heeds {s : State} {sa sb : Src} {disp : BitVec 10} {f : XWord → XWord → Bool} :
    (s.branchAns sa sb disp f).Heeds s (srcGates s.c (src2 sa sb)) := fun hg => by
  rw [State.branchAns]
  cases hc : checked s (srcGates s.c (src2 sa sb)) s with
  | done t => exact absurd hc (checked_ne_done hg)
  | _ => rfl

theorem jumpAns_heeds {s e : State} {gs hs : List Gate} {pc : BitVec 32} (hp : gs <+: hs) : (s.jumpAns hs e pc).Heeds s gs := fun hg => by
  rw [State.jumpAns, checked_heeds hp hg]
  cases hc : checked s gs s with
  | done t => exact absurd hc (checked_ne_done hg)
  | _ => rfl

theorem loadAns_heeds {s : State} {pre : List Gate} {a : XWord} {n : Nat} {sext : Bool} {rd : BitVec 5} {o : BitVec 4} :
    (s.loadAns pre a n sext rd o).Heeds s pre := by
  unfold State.loadAns; exact checkedThen_heeds (List.prefix_append ..)

theorem storeAns_heeds {s : State} {pre : List Gate} {a : XWord} {n : Nat} {v : XWord} {o : BitVec 4} : (s.storeAns pre a n v o).Heeds s pre := by
  unfold State.storeAns; exact checkedThen_heeds (List.prefix_append ..)

theorem amo2_heeds {s : State} {op : AmoOp} {ord : BitVec 4} {dbl : Bool} {rd : BitVec 5} {sa sb : Src} :
    (s.amo2 op ord dbl rd sa sb).Heeds s (srcGates s.c (src2 sa sb)) := by
  unfold State.amo2 State.amoAns; exact checkedThen_heeds (List.prefix_append ..)

theorem markAns_heeds {s : State} {pre : List Gate} {a : XWord} {full : Bool} : (s.markAns pre a full).Heeds s pre := by
  unfold State.markAns; exact checkedThen_heeds (List.prefix_append ..)

theorem l1RangeAns_heeds {s : State} {pre : List Gate} {a n : XWord} {inv : Bool} : (s.l1RangeAns pre a n inv).Heeds s pre := by
  unfold State.l1RangeAns; exact checked_heeds (List.prefix_append ..)

theorem rldAns_heeds {s : State} {pre : List Gate} {a : XWord} {n : Nat} {sext : Bool} {rd : BitVec 5} : (s.rldAns pre a n sext rd).Heeds s pre := by
  unfold State.rldAns; exact checkedThen_heeds (List.prefix_append ..)

/-- A write to a register that the operation may write. -/
theorem csrWriteAns_heeds {s : State} {op : CsrOp} {csr : BitVec 11} {mask : XWord} (h : csrFields op csr.toNat = some mask) {sa : Src} :
    (s.csrWriteAns op csr sa).Heeds s (srcGates s.c (src1 sa)) := by
  simp only [State.csrWriteAns, h]; exact checked_heeds (List.prefix_append ..)

theorem counterAns_heeds {s : State} {kind : CtrKind} {sa : Src} {rd : BitVec 5} :
    (s.counterAns kind sa rd).Heeds s (srcGates s.c (src1 sa)) := by
  unfold State.counterAns; exact checkedThen_heeds (by simp)

theorem counterInit_heeds {s : State} {kind : Nat} {sa sb : Src} : (s.counterInit kind sa sb).Heeds s (srcGates s.c (src2 sa sb)) := by
  unfold State.counterInit; exact checkedThen_heeds (by simp)

theorem sendAns_heeds {s : State} {flags : BitVec 3} {sa sb : Src} {reply timed : Bool} :
    (s.sendAns flags sa sb reply timed).Heeds s (srcGates s.c (src2 sa sb)) := by
  unfold State.sendAns; exact checkedThen_heeds (by simp)

theorem areqAns_heeds {s : State} {kind : AReqKind} {sa sb : Src} : (s.areqAns kind sa sb).Heeds s (srcGates s.c (src2 sa sb)) := by
  unfold State.areqAns; exact checked_heeds (by simp)

theorem probeAns_heeds {s : State} {rd : BitVec 5} {sa sb : Src} : (s.probeAns rd sa sb).Heeds s (srcGates s.c (src2 sa sb)) := by
  unfold State.probeAns; exact checked_heeds (by simp)

/-! What an instruction does where its first checks stop it. -/

/-- The instruction looks at the checks `gs` before all else. -/
def Heeds (i : Instr) (s : State) (gs : List Gate) : Prop := ∃ a : Ans, exec i s = perform s a ∧ a.Heeds s gs

theorem Heeds.waits {i : Instr} {s : State} {gs : List Gate} (h : Heeds i s gs) (hg : firstStop gs = .wait) : Waits i s := by
  obtain ⟨a, hi, ha⟩ := h
  rw [Waits, hi, ha (by rw [hg]; nofun), checked, hg]; rfl

theorem Heeds.traps {i : Instr} {s : State} {gs : List Gate} {cause : Nat} {tval : XWord} (h : Heeds i s gs) (hg : firstStop gs = .trap cause tval) :
    Traps i s cause tval := by
  obtain ⟨a, hi, ha⟩ := h
  rw [Traps, hi, ha (by rw [hg]; nofun), checked, hg]; rfl

/-- Checks that go on after `gs`. -/
theorem Heeds.of_append {i : Instr} {s : State} {gs hs : List Gate} (h : Heeds i s (gs ++ hs)) : Heeds i s gs := by
  obtain ⟨a, hi, ha⟩ := h
  refine ⟨a, hi, fun hg => ?_⟩
  have hgs := firstStop_append_of_stop (hs := hs) hg
  rw [ha (by rwa [hgs]), checked_heeds (List.prefix_append gs hs) hg]

/-- A register that is empty and that one of the sources names with E = 1. -/
def Core.Stops (c : Core) (srcs : List (Src × Nat)) (r : Src) : Prop :=
  (c.reg r.n.toNat).full = false ∧ ∃ x ∈ srcs.map Prod.fst, x.n = r.n ∧ x.e = true

/-- The E bit that counts for a register (R67). -/
theorem effE_iff (srcs : List (Src × Nat)) (r : Src) : effE srcs r = true ↔ ∃ x ∈ srcs.map Prod.fst, x.n = r.n ∧ x.e = true := by
  simp [effE, and_comm]

/-- A source's own test. -/
theorem trapIf_eq_go_iff (c : Core) (srcs : List (Src × Nat)) (p : Src × Nat) :
    trapIf (!(c.reg p.1.n.toNat).full && effE srcs p.1) 3 (emptyTval p.1.n p.2) = .go ↔ ¬ c.Stops srcs p.1 := by
  rw [Core.Stops, ← effE_iff]
  cases (c.reg p.1.n.toNat).full <;> cases effE srcs p.1 <;> simp [trapIf]

/-- The sources' tests let the instruction go on while none of them stops it. -/
theorem firstStop_map_trapIf {c : Core} {all srcs : List (Src × Nat)} (h : ∀ p ∈ srcs, ¬ c.Stops all p.1) :
    firstStop (srcs.map fun p => trapIf (!(c.reg p.1.n.toNat).full && effE all p.1) 3 (emptyTval p.1.n p.2)) = .go := by
  apply firstStop_all
  intro g hg
  obtain ⟨p, hp, rfl⟩ := List.mem_map.1 hg
  exact (trapIf_eq_go_iff c all p).2 (h p hp)

/-- The first source that stops the instruction traps, with its number and field in TVAL (R67, R69). -/
theorem firstStop_srcGates_trap {c : Core} {before after : List (Src × Nat)} {p : Src × Nat}
    (hb : ∀ q ∈ before, ¬ c.Stops (before ++ p :: after) q.1) (hp : c.Stops (before ++ p :: after) p.1) :
    firstStop (srcGates c (before ++ p :: after)) = .trap 3 (emptyTval p.1.n p.2) := by
  obtain ⟨hfull, hE⟩ := hp
  rw [srcGates, List.map_append, List.append_assoc, firstStop_append (firstStop_map_trapIf hb), List.map_cons, List.cons_append,
    hfull, (effE_iff _ _).2 hE]
  rfl

/-- Where no source stops the instruction, it waits while one is empty (R67). -/
theorem firstStop_srcGates_wait {c : Core} {srcs : List (Src × Nat)} (hs : ∀ p ∈ srcs, ¬ c.Stops srcs p.1)
    (he : ∃ p ∈ srcs, (c.reg p.1.n.toNat).full = false) : firstStop (srcGates c srcs) = .wait := by
  obtain ⟨p, hp, hf⟩ := he
  have hall : (srcs.all fun p => (c.reg p.1.n.toNat).full) = false := List.all_eq_false.2 ⟨p, hp, by simp [hf]⟩
  rw [srcGates, firstStop_append (firstStop_map_trapIf hs), hall]
  rfl

/-- The instruction looks at `srcs` before all else, and at registers that no E bit goes with, if any (R39 of spec/03_formats.md). -/
def LooksFirst (i : Instr) (s : State) (srcs : List (Src × Nat)) : Prop :=
  ∃ more : List (Src × Nat), (∀ p ∈ more, p.1.e = false) ∧ Heeds i s (srcGates s.c (srcs ++ more))

theorem Heeds.looksFirst {i : Instr} {s : State} {srcs : List (Src × Nat)} (h : Heeds i s (srcGates s.c srcs)) : LooksFirst i s srcs :=
  ⟨[], by simp, by rwa [List.append_nil]⟩

/-- Registers that no E bit goes with change nothing of what stops the instruction. -/
theorem Core.stops_append {c : Core} {srcs more : List (Src × Nat)} (hm : ∀ p ∈ more, p.1.e = false) (r : Src) :
    c.Stops (srcs ++ more) r ↔ c.Stops srcs r := by
  refine and_congr_right fun _ => ⟨fun ⟨x, hx, hn, he⟩ => ⟨x, ?_, hn, he⟩, fun ⟨x, hx, h⟩ => ⟨x, by simp [List.map_append, hx], h⟩⟩
  rw [List.map_append, List.mem_append] at hx
  rcases hx with hx | hx
  · exact hx
  · obtain ⟨p, hp, rfl⟩ := List.mem_map.1 hx
    rw [hm p hp] at he
    cases he

theorem LooksFirst.traps {i : Instr} {s : State} {before after : List (Src × Nat)} {r : Src} {field : Nat}
    (h : LooksFirst i s (before ++ (r, field) :: after)) (hb : ∀ q ∈ before, ¬ s.c.Stops (before ++ (r, field) :: after) q.1)
    (hr : s.c.Stops (before ++ (r, field) :: after) r) : Traps i s 3 (BitVec.ofNat 64 (field * 256 + r.n.toNat)) := by
  obtain ⟨more, hm, h⟩ := h
  have hb' := fun q hq => mt (Core.stops_append hm q.1).1 (hb q hq)
  have hr' := (Core.stops_append hm r).2 hr
  rw [List.append_assoc, List.cons_append] at h hb' hr'
  rw [Nat.add_comm, Nat.mul_comm]
  exact h.traps (firstStop_srcGates_trap hb' hr')

theorem LooksFirst.waits {i : Instr} {s : State} {srcs : List (Src × Nat)} (h : LooksFirst i s srcs) (hs : ∀ p ∈ srcs, ¬ s.c.Stops srcs p.1)
    (he : ∃ p ∈ srcs, (s.c.reg p.1.n.toNat).full = false) : Waits i s := by
  obtain ⟨more, hm, h⟩ := h
  obtain ⟨p, hp, hf⟩ := he
  refine h.waits (firstStop_srcGates_wait (fun q hq => ?_) ⟨p, List.mem_append_left _ hp, hf⟩)
  rw [Core.stops_append hm]
  rintro ⟨hq0, x, hx, hn, hxe⟩
  obtain ⟨y, hy, rfl⟩ := List.mem_map.1 hx
  exact hs y hy ⟨by rw [hn]; exact hq0, y.1, List.mem_map_of_mem hy, rfl, hxe⟩

/-- An instruction whose sources are ready waits for its destination (R68). -/
theorem firstStop_destGate_wait {c : Core} {srcs : List (Src × Nat)} {rd : BitVec 5} (h : c.SrcsReady srcs) (hd : ¬ c.DestReady rd) :
    firstStop (srcGates c srcs ++ [destGate c rd]) = .wait := by
  rw [firstStop_append (srcGates_ready h), destGate, Bool.eq_false_iff.2 hd]
  rfl

/-- An instruction of two sources. -/
theorem LooksFirst.two {i : Instr} {s : State} {sa sb : Src} (h : LooksFirst i s (src2 sa sb)) :
    (s.c.Stops (src2 sa sb) sa → Traps i s 3 (BitVec.ofNat 64 (0 * 256 + sa.n.toNat)))
    ∧ (¬ s.c.Stops (src2 sa sb) sa → s.c.Stops (src2 sa sb) sb → Traps i s 3 (BitVec.ofNat 64 (1 * 256 + sb.n.toNat)))
    ∧ (¬ s.c.Stops (src2 sa sb) sa → ¬ s.c.Stops (src2 sa sb) sb →
        (s.c.reg sa.n.toNat).full = false ∨ (s.c.reg sb.n.toNat).full = false → Waits i s) := by
  refine ⟨fun ha => h.traps (before := []) (by simp) ha, fun ha hb => h.traps (before := [(sa, 0)]) (List.forall_mem_singleton.2 ha) hb, fun ha hb he => ?_⟩
  exact h.waits (by simp [src2] at ha hb ⊢; exact ⟨ha, hb⟩) (by simpa [src2] using he)

/-- An instruction of three sources. -/
theorem LooksFirst.three {i : Instr} {s : State} {sa sb sc : Src} (h : LooksFirst i s (src3 sa sb sc)) :
    (s.c.Stops (src3 sa sb sc) sa → Traps i s 3 (BitVec.ofNat 64 (0 * 256 + sa.n.toNat)))
    ∧ (¬ s.c.Stops (src3 sa sb sc) sa → s.c.Stops (src3 sa sb sc) sb → Traps i s 3 (BitVec.ofNat 64 (1 * 256 + sb.n.toNat)))
    ∧ (¬ s.c.Stops (src3 sa sb sc) sa → ¬ s.c.Stops (src3 sa sb sc) sb → s.c.Stops (src3 sa sb sc) sc →
        Traps i s 3 (BitVec.ofNat 64 (2 * 256 + sc.n.toNat)))
    ∧ (¬ s.c.Stops (src3 sa sb sc) sa → ¬ s.c.Stops (src3 sa sb sc) sb → ¬ s.c.Stops (src3 sa sb sc) sc →
        (s.c.reg sa.n.toNat).full = false ∨ (s.c.reg sb.n.toNat).full = false ∨ (s.c.reg sc.n.toNat).full = false → Waits i s) := by
  refine ⟨fun ha => h.traps (before := []) (by simp) ha, fun ha hb => h.traps (before := [(sa, 0)]) (List.forall_mem_singleton.2 ha) hb,
    fun ha hb hc => h.traps (before := [(sa, 0), (sb, 1)]) (List.forall_mem_cons.2 ⟨ha, List.forall_mem_singleton.2 hb⟩) hc, fun ha hb hc he => ?_⟩
  exact h.waits (by simp [src3] at ha hb hc ⊢; exact ⟨ha, hb, hc⟩) (by simpa [src3] using he)

/-- An instruction of one source. -/
theorem LooksFirst.one {i : Instr} {s : State} {sa : Src} (h : LooksFirst i s (src1 sa)) (he : (s.c.reg sa.n.toNat).full = false) :
    (sa.e = true → Traps i s 3 (BitVec.ofNat 64 (0 * 256 + sa.n.toNat))) ∧ (sa.e = false → Waits i s) :=
  ⟨fun hE => h.traps (before := []) (by simp) ⟨he, sa, by simp, rfl, hE⟩,
    fun hE => h.waits (by simp [src1, Core.Stops, hE]) ⟨_, List.mem_singleton_self _, he⟩⟩

/-- `ins` looks at its sources and then at its destination (R39 of spec/03_formats.md). -/
theorem ins_looksFirst (rd : BitVec 5) (sa sb : Src) (s : State) : LooksFirst (.ins rd sa sb) s (src2 sa sb) :=
  ⟨[plainSrc rd 3], by simp [plainSrc], _, rfl, checked_heeds (List.prefix_append ..)⟩

/-- `ins`, which reads its destination, waits while it is empty. -/
theorem ins_waits {rd : BitVec 5} {sa sb : Src} {s : State} (h : s.c.SrcsReady (src2 sa sb)) (hd : ¬ s.c.DestReady rd) :
    Waits (.ins rd sa sb) s := by
  have hfull : ∀ p ∈ src2 sa sb, (s.c.reg p.1.n.toNat).full = true := fun p hp => (h p hp).1
  have hno (r : Src) : ¬ s.c.Stops (src2 sa sb ++ [plainSrc rd 3]) r := by
    rw [Core.stops_append (by simp [plainSrc])]
    rintro ⟨hr, x, hx, hn, -⟩
    obtain ⟨p, hp, rfl⟩ := List.mem_map.1 hx
    rw [← hn, hfull p hp] at hr
    cases hr
  have hins : Heeds (.ins rd sa sb) s (srcGates s.c (src2 sa sb ++ [plainSrc rd 3])) := ⟨_, rfl, checked_heeds (List.prefix_append ..)⟩
  exact hins.waits (firstStop_srcGates_wait (fun p _ => hno p.1) ⟨plainSrc rd 3, by simp, Bool.eq_false_iff.2 hd⟩)

/-- Settles O12: every instruction looks at its sources first. -/
theorem emptyOperandsWaitOrTrap : Obligations.EmptyOperandsWaitOrTrap := by
  unfold Obligations.EmptyOperandsWaitOrTrap
  intro rd sa sb sc imm disp sh p cond from_ rtz zx z lz ord q n win d fl ce s one two three one' two' isEmpty stops traps
  have h1 : ∀ i ∈ one, Heeds i s (srcGates s.c (src1 sa) ++ [destGate s.c rd]) := by
    simp only [one, List.forall_mem_cons, List.not_mem_nil, false_imp_iff, implies_true, and_true]
    and_intros <;> exact ⟨_, rfl, checked_heeds List.prefix_rfl⟩
  have h2 : ∀ i ∈ two, i ≠ .ins rd sa sb → Heeds i s (srcGates s.c (src2 sa sb) ++ [destGate s.c rd]) := by
    simp only [two, List.forall_mem_cons, List.not_mem_nil, false_imp_iff, implies_true, and_true]
    and_intros
    iterate 23 exact fun _ => ⟨_, rfl, checked_heeds List.prefix_rfl⟩
    · exact fun h => absurd rfl h
    iterate 8 exact fun _ => ⟨_, rfl, checked_heeds List.prefix_rfl⟩
  have h3 : ∀ i ∈ three, Heeds i s (srcGates s.c (src3 sa sb sc) ++ [destGate s.c rd]) := by
    simp only [three, List.forall_mem_cons, List.not_mem_nil, false_imp_iff, implies_true, and_true]
    and_intros <;> exact ⟨_, rfl, checked_heeds List.prefix_rfl⟩
  have h1' : ∀ i ∈ one', Heeds i s (srcGates s.c (src1 sa)) := by
    simp only [one', List.forall_mem_cons, List.not_mem_nil, false_imp_iff, implies_true, and_true]
    and_intros
    iterate 2 exact ⟨_, rfl, jumpAns_heeds (by simp)⟩
    iterate 2 exact ⟨_, rfl, loadAns_heeds⟩
    · exact ⟨_, rfl, checked_heeds (by simp)⟩
    iterate 2 exact ⟨_, rfl, markAns_heeds⟩
    iterate 2 exact ⟨_, rfl, checked_heeds (by simp)⟩
    · exact ⟨_, rfl, rldAns_heeds⟩
    iterate 3 exact ⟨_, rfl, csrWriteAns_heeds rfl⟩
    · exact ⟨_, rfl, checkedThen_heeds (by simp)⟩
    iterate 7 exact ⟨_, rfl, checked_heeds (by simp)⟩
    · exact ⟨_, rfl, checkedThen_heeds (by simp)⟩
    · exact ⟨_, rfl, checked_heeds (by simp)⟩
    iterate 3 exact ⟨_, rfl, counterAns_heeds⟩
    iterate 3 exact ⟨_, rfl, checked_heeds (by simp)⟩
    · exact ⟨_, rfl, checkedThen_heeds (by simp)⟩
    iterate 2 exact ⟨_, rfl, checked_heeds (by simp)⟩
  have h2' : ∀ i ∈ two', Heeds i s (srcGates s.c (src2 sa sb)) := by
    simp only [two', List.forall_mem_cons, List.not_mem_nil, false_imp_iff, implies_true, and_true]
    and_intros
    iterate 6 exact ⟨_, rfl, branchAns_heeds⟩
    iterate 2 exact ⟨_, rfl, storeAns_heeds⟩
    iterate 8 exact ⟨_, rfl, amo2_heeds⟩
    iterate 2 exact ⟨_, rfl, l1RangeAns_heeds⟩
    · exact ⟨_, rfl, checked_heeds (by simp)⟩
    iterate 2 exact ⟨_, rfl, checkedThen_heeds (by simp)⟩
    · exact ⟨_, rfl, checked_heeds (by simp)⟩
    · exact ⟨_, rfl, sendAns_heeds⟩
    · exact ⟨_, rfl, checkedThen_heeds (by simp)⟩
    iterate 2 exact ⟨_, rfl, sendAns_heeds⟩
    iterate 4 exact ⟨_, rfl, areqAns_heeds⟩
    · exact ⟨_, rfl, probeAns_heeds⟩
    · exact ⟨_, rfl, checked_heeds (by simp)⟩
    iterate 2 exact ⟨_, rfl, counterInit_heeds⟩
    · exact ⟨_, rfl, checked_heeds (by simp)⟩
  refine ⟨fun i hi he => LooksFirst.one (Heeds.looksFirst ?_) he, fun i hi => LooksFirst.two ?_, fun i hi => LooksFirst.three (h3 i hi).of_append.looksFirst,
    fun hd => ⟨fun h i hi => ?_, fun h i hi => ?_, fun h i hi => (h3 i hi).waits (firstStop_destGate_wait h hd)⟩⟩
  · exact (List.mem_append.1 hi).elim (fun hi => (h1 i hi).of_append) (h1' i)
  · rcases List.mem_append.1 hi with hi | hi
    · by_cases e : i = .ins rd sa sb
      · exact e ▸ ins_looksFirst rd sa sb s
      · exact (h2 i hi e).of_append.looksFirst
    · exact (h2' i hi).looksFirst
  · exact (h1 i hi).waits (firstStop_destGate_wait h hd)
  · by_cases e : i = .ins rd sa sb
    · exact e ▸ ins_waits h hd
    · exact (h2 i hi e).waits (firstStop_destGate_wait h hd)

end Sys2Proof.Machine
end

section
/-! The scalar floating-point instructions complete (spec/04_scalar.md R81, R83 to R88). -/

namespace Sys2Proof.Machine

/-- The instruction completes, writing `r.1` to `rd` and joining `r.2` to the activation's flags. -/
def GivesFp (i : Instr) (s : State) (rd : BitVec 5) (r : XWord × BitVec 5) : Prop :=
  ∃ t, exec i s = .next t ∧ t.c.pc = s.c.pc + 4 ∧ t.c.ctx.instret = s.c.ctx.instret + 1 ∧ t.c.ctx.flags = s.c.ctx.flags ||| r.2
    ∧ (∀ key, t.c.regAt key = (s.c.setX rd r.1).regAt key) ∧ t.c.ctx.satcnt = s.c.ctx.satcnt ∧ t.c.ctx.status = s.c.ctx.status
    ∧ (∀ q, t.byte q = s.byte q) ∧ ∀ k, k ≠ s.cur → t.core k = s.core k

/-- A completed write of a register, with a context that differs in the flags and in what waits to be forwarded alone. -/
theorem givesFp_of_completed {i : Instr} {s : State} {rd : BitVec 5} {r : XWord × BitVec 5} {f : Core → Core}
    (h : ∃ t, exec i s = .next t ∧ Completed (s.modC f) t (s.c.pc + 4)) (hx : (f s.c).xs = (s.c.setX rd r.1).xs)
    (hctx : ∃ fl, (f s.c).ctx = { s.c.ctx with flags := s.c.ctx.flags ||| r.2, fevs := fl }) : GivesFp i s rd r := by
  obtain ⟨t, hi, hc⟩ := h
  obtain ⟨fl, hctx⟩ := hctx
  have hctx' : (s.modC f).c.ctx = { s.c.ctx with flags := s.c.ctx.flags ||| r.2, fevs := fl } := by rw [State.c_modC, hctx]
  refine ⟨t, hi, hc.pc, ?_, ?_, fun key => ?_, ?_, ?_, fun q => hc.byte q, fun k hk => (hc.others k hk).trans (State.core_modC_other s f k hk)⟩
  · rw [hc.instret, hctx']
  · rw [hc.ctx_flags, hctx']
  · rw [hc.regAt, State.c_modC, Core.regAt, hx]; rfl
  · rw [hc.ctx_satcnt, hctx']
  · rw [hc.ctx_status, hctx']

/-- A floating-point instruction whose operands are ready gives its result and flags. -/
theorem givesFp_of_fpAns {i : Instr} {s : State} {srcs : List (Src × Nat)} {rd : BitVec 5} {r : XWord × BitVec 5}
    (hi : exec i s = perform s (s.fpAns srcs rd r)) (h : s.Ready srcs rd) : GivesFp i s rd r := by
  refine givesFp_of_completed (hi ▸ perform_fpAns r h) (Core.raiseFlags_xs ..) ⟨(s.c.ctx.raise r.2).fevs, ?_⟩
  rw [Core.raiseFlags, Core.modCtx, Core.setX_ctx]; rfl

/-- A register instruction whose operands are ready gives its value and no flag. -/
theorem givesFp_of_regAns {i : Instr} {s : State} {srcs : List (Src × Nat)} {rd : BitVec 5} {v : XWord}
    (hi : exec i s = perform s (s.regAns srcs rd v)) (h : s.Ready srcs rd) : GivesFp i s rd (v, 0) := by
  refine givesFp_of_completed (hi ▸ perform_regAns v h) rfl ⟨s.c.ctx.fevs, ?_⟩
  have hf : s.c.ctx.flags ||| (v, (0 : BitVec 5)).2 = s.c.ctx.flags := BitVec.or_zero
  rw [Core.setX_ctx, hf]

/-- Settles O17: each instruction is its sources' test, its destination's, and its result with its flags. -/
theorem scalarFpCompletes : Obligations.ScalarFpCompletes := by
  unfold Obligations.ScalarFpCompletes
  intro p rd sa sb sc cond src rtz s a b c gives
  have fp {i : Instr} {srcs : List (Src × Nat)} {r : XWord × BitVec 5} (h : s.Ready srcs rd)
      (hi : exec i s = perform s (s.fpAns srcs rd r)) : gives i r := givesFp_of_fpAns hi h
  refine ⟨fun h => ⟨?_, ?_, ?_, ?_, ?_, ?_, ?_⟩, fun h => ⟨?_, givesFp_of_regAns rfl h, ?_, ?_, ?_⟩, fun h => ⟨?_, ?_⟩⟩ <;> exact fp h rfl

end Sys2Proof.Machine
end

section
/-! The binary32 and binary64 words (spec/04_scalar.md R81, R82): their fields, and the value the model reads from them. -/

namespace Sys2Proof

/-- Fraction bits. -/
def Prec.mb (p : Prec) : Nat := match p with | .s => 23 | .d => 52
/-- Exponent bits. -/
def Prec.eb (p : Prec) : Nat := match p with | .s => 8 | .d => 11
/-- The smallest subnormal is 2 to the minus this. -/
def Prec.scale (p : Prec) : Nat := match p with | .s => 149 | .d => 1074

end Sys2Proof

namespace Sys2Proof.Machine

/-- The exponent field. -/
def exField (p : Prec) (x : XWord) : Nat := x.toNat / 2 ^ p.mb % 2 ^ p.eb
/-- The fraction field. -/
def frField (p : Prec) (x : XWord) : Nat := x.toNat % 2 ^ p.mb
/-- The sign bit. -/
def negBit (p : Prec) (x : XWord) : Bool := x.getLsbD (p.mb + p.eb)

/-! The format of a precision. -/

@[simp] theorem precTy_mbits (p : Prec) : (precTy p).mbits = p.mb := by cases p <;> rfl
@[simp] theorem precTy_ebits (p : Prec) : (precTy p).ebits = p.eb := by cases p <;> rfl
@[simp] theorem precTy_ieee (p : Prec) : (precTy p).ieee = true := by cases p <;> rfl
@[simp] theorem precTy_signals (p : Prec) : (precTy p).signals = true := by cases p <;> rfl
@[simp] theorem precTy_minQ (p : Prec) : (precTy p).minQ = -(p.scale : Int) := by cases p <;> rfl
@[simp] theorem precTy_ne_bf (p : Prec) : precTy p ≠ .bf := by cases p <;> nofun
@[simp] theorem precTy_ne_f8a (p : Prec) : precTy p ≠ .f8a := by cases p <;> nofun
@[simp] theorem precTy_maxE (p : Prec) : (precTy p).maxE = 2 ^ p.eb - 2 := by cases p <;> rfl
@[simp] theorem precTy_maxM (p : Prec) : (precTy p).maxM = 2 ^ p.mb - 1 := by cases p <;> rfl
theorem precTy_width (p : Prec) : (precTy p).width = 1 + p.eb + p.mb := by cases p <;> rfl
/-- The unit of the subnormals, from the bias. -/
theorem precTy_bias (p : Prec) : ((precTy p).bias : Int) + p.mb = p.scale + 1 := by cases p <;> rfl

/-- The sign bit as a comparison. -/
theorem negBit_eq (p : Prec) (x : XWord) : negBit p x = decide (2 ^ (p.eb + p.mb) ≤ x.toNat % 2 ^ (precTy p).width) := by
  rw [negBit, BitVec.getLsbD, Nat.testBit_eq_decide_div_mod_eq, decide_eq_decide]
  cases p <;> (simp only [Prec.mb, Prec.eb, precTy, FTy.width, FTy.ebits, FTy.mbits]; omega)

/-- The value of a word (spec/12_numbers.md R274 to R276): a NaN, an infinity, a subnormal or zero, a normal number. -/
theorem fpIn_eq (p : Prec) (x : XWord) :
    fpIn p x = if exField p x = 2 ^ p.eb - 1 then (if frField p x = 0 then .inf (negBit p x) else .nan (decide (frField p x < 2 ^ (p.mb - 1))))
      else if exField p x = 0 then .fin (negBit p x) (frField p x) (-(p.scale : Int)) false
      else .fin (negBit p x) (2 ^ p.mb + frField p x) ((exField p x : Int) - 1 - p.scale) false := by
  have he : x.toNat % 2 ^ (precTy p).width / 2 ^ p.mb % 2 ^ p.eb = exField p x := by
    cases p <;> (simp only [exField, Prec.mb, Prec.eb, precTy, FTy.width, FTy.ebits, FTy.mbits]; omega)
  have hf : x.toNat % 2 ^ (precTy p).width % 2 ^ p.mb = frField p x := by
    cases p <;> (simp only [frField, Prec.mb, precTy, FTy.width, FTy.ebits, FTy.mbits]; omega)
  have hb (e : Int) : e - (precTy p).bias - p.mb = e - 1 - p.scale := by have := precTy_bias p; omega
  simp only [fpIn, decodeFp, precTy_mbits, precTy_ebits, precTy_ieee, precTy_signals, precTy_minQ, precTy_ne_bf, precTy_ne_f8a, ← negBit_eq, he, hf,
    hb, true_and, false_and, if_false, Bool.true_and]

/-- A NaN. -/
theorem fpIn_nan {p : Prec} {x : XWord} (he : exField p x = 2 ^ p.eb - 1) (hf : frField p x ≠ 0) :
    fpIn p x = .nan (decide (frField p x < 2 ^ (p.mb - 1))) := by rw [fpIn_eq, if_pos he, if_neg hf]

/-- An infinity. -/
theorem fpIn_inf {p : Prec} {x : XWord} (he : exField p x = 2 ^ p.eb - 1) (hf : frField p x = 0) : fpIn p x = .inf (negBit p x) := by
  rw [fpIn_eq, if_pos he, if_pos hf]

/-- A subnormal number or a zero. -/
theorem fpIn_subnormal {p : Prec} {x : XWord} (he : exField p x = 0) : fpIn p x = .fin (negBit p x) (frField p x) (-(p.scale : Int)) false := by
  rw [fpIn_eq, if_neg, if_pos he]
  rw [he]; cases p <;> decide

/-- A normal number. -/
theorem fpIn_normal {p : Prec} {x : XWord} (h0 : exField p x ≠ 0) (h1 : exField p x ≠ 2 ^ p.eb - 1) :
    fpIn p x = .fin (negBit p x) (2 ^ p.mb + frField p x) ((exField p x : Int) - 1 - p.scale) false := by
  rw [fpIn_eq, if_neg h1, if_neg h0]

theorem frField_lt (p : Prec) (x : XWord) : frField p x < 2 ^ p.mb := Nat.mod_lt _ (Nat.two_pow_pos _)

/-- A number whose leading bit is `k`. -/
theorem log2_two_pow_add {k f : Nat} (hf : f < 2 ^ k) : Nat.log2 (2 ^ k + f) = k := by
  have := Nat.two_pow_pos k
  rw [Nat.log2_eq_iff (by omega), Nat.pow_succ]
  omega

end Sys2Proof.Machine
end

section
/-! Magnitudes in units of the smallest subnormal, and the values they stand for (spec/04_scalar.md R82). -/

namespace Sys2Proof.Machine

/-- The exponent field of a finite word. -/
def Finite (p : Prec) (x : XWord) : Prop := exField p x < 2 ^ p.eb - 1
/-- The magnitude in units of the smallest subnormal; an infinity counts as the power of two that follows the largest number. -/
def mag (p : Prec) (x : XWord) : Nat := if exField p x = 0 then frField p x else (2 ^ p.mb + frField p x) * 2 ^ (exField p x - 1)
/-- The signed magnitude. -/
def intVal (p : Prec) (x : XWord) : Int := if negBit p x then -(mag p x : Int) else mag p x

/-- The magnitude of a pattern of exponent and fraction. -/
def patternMag (mb w : Nat) : Nat := if w / 2 ^ mb = 0 then w % 2 ^ mb else (2 ^ mb + w % 2 ^ mb) * 2 ^ (w / 2 ^ mb - 1)

theorem patternMag_fields (mb e f : Nat) (hf : f < 2 ^ mb) :
    patternMag mb (2 ^ mb * e + f) = if e = 0 then f else (2 ^ mb + f) * 2 ^ (e - 1) := by
  rw [patternMag, Nat.mul_add_div (Nat.two_pow_pos mb), Nat.div_eq_of_lt hf, Nat.mul_add_mod, Nat.mod_eq_of_lt hf, Nat.add_zero]

/-- The order of the patterns is that of the magnitudes. -/
theorem patternMag_strictMono (mb : Nat) : StrictMono (patternMag mb) := by
  apply strictMono_nat_of_lt_succ
  intro w
  have hw := Nat.div_add_mod w (2 ^ mb)
  have hf : w % 2 ^ mb < 2 ^ mb := Nat.mod_lt _ (Nat.two_pow_pos mb)
  generalize w / 2 ^ mb = e at hw
  generalize w % 2 ^ mb = f at hw hf
  subst hw
  rw [patternMag_fields mb e f hf]
  by_cases hc : f + 1 < 2 ^ mb
  · rw [Nat.add_assoc, patternMag_fields mb e (f + 1) hc]
    split
    · omega
    · exact Nat.mul_lt_mul_of_pos_right (by omega) (Nat.two_pow_pos _)
  · have hcarry : 2 ^ mb * e + f + 1 = 2 ^ mb * (e + 1) + 0 := by rw [Nat.mul_add]; omega
    rw [hcarry, patternMag_fields mb (e + 1) 0 (by omega), if_neg (Nat.succ_ne_zero e), Nat.add_sub_cancel]
    split
    next h0 => subst h0; omega
    next h0 =>
      have h2 : 2 ^ e = 2 ^ (e - 1) * 2 := by rw [← Nat.pow_succ]; congr 1; omega
      have := Nat.two_pow_pos (e - 1)
      rw [h2]
      nlinarith

/-- The pattern of a word without its sign. -/
def pattern (p : Prec) (x : XWord) : Nat := x.toNat % 2 ^ (p.mb + p.eb)

theorem pattern_eq (p : Prec) (x : XWord) : pattern p x = 2 ^ p.mb * exField p x + frField p x := by
  cases p <;> (simp only [pattern, exField, frField, Prec.mb, Prec.eb]; omega)

theorem mag_eq_patternMag (p : Prec) (x : XWord) : mag p x = patternMag p.mb (pattern p x) := by
  rw [pattern_eq, patternMag_fields _ _ _ (frField_lt p x), mag]

/-- Words with greater patterns have greater magnitudes. -/
theorem mag_lt_iff (p : Prec) (x y : XWord) : mag p x < mag p y ↔ pattern p x < pattern p y := by
  rw [mag_eq_patternMag, mag_eq_patternMag, (patternMag_strictMono p.mb).lt_iff_lt]

/-- The sign of a value as a factor. -/
def sgn (n : Bool) : ℝ := if n then -1 else 1

/-- Signed digits in units of `2^q` stand for the value. -/
theorem units_mul (n : Bool) (m : Nat) {e q : Int} (h : q ≤ e) : (units n m e q : ℝ) * 2 ^ q = sgn n * (m * 2 ^ e) := by
  have he : (2 : ℝ) ^ e = 2 ^ (e - q).toNat * 2 ^ q := by
    rw [← zpow_natCast, ← zpow_add₀ (by norm_num), Int.toNat_of_nonneg (by omega), sub_add_cancel]
  rw [units, he, sgn]
  cases n <;> push_cast <;> simp <;> ring

/-- A finite word is a whole number of units of a power of two that is at least the smallest subnormal. -/
theorem fpIn_finite {p : Prec} {x : XWord} (h : Finite p x) : ∃ m e, fpIn p x = .fin (negBit p x) m e false ∧ -(p.scale : Int) ≤ e
    ∧ (m : ℝ) * 2 ^ e = mag p x * 2 ^ (-(p.scale : Int)) := by
  by_cases h0 : exField p x = 0
  · exact ⟨_, _, fpIn_subnormal h0, le_refl _, by rw [mag, if_pos h0]⟩
  · refine ⟨_, _, fpIn_normal h0 (Nat.ne_of_lt h), by omega, ?_⟩
    have he : (exField p x : Int) - 1 - p.scale = (exField p x - 1 : Nat) + -(p.scale : Int) := by omega
    rw [mag, if_neg h0, he, zpow_add₀ (by norm_num), zpow_natCast]
    push_cast
    ring

/-- Digits of equal values are zero together. -/
theorem digits_eq_zero_iff {m k : Nat} {e s : Int} (h : (m : ℝ) * 2 ^ e = k * 2 ^ s) : m = 0 ↔ k = 0 := by
  have he : (2 : ℝ) ^ e ≠ 0 := by positivity
  have hs : (2 : ℝ) ^ s ≠ 0 := by positivity
  rw [← Nat.cast_eq_zero (R := ℝ), ← mul_eq_zero_iff_right he, h, mul_eq_zero_iff_right hs, Nat.cast_eq_zero]

/-- The value of a finite word. -/
theorem intVal_mul (p : Prec) (x : XWord) : (intVal p x : ℝ) * 2 ^ (-(p.scale : Int)) = sgn (negBit p x) * (mag p x * 2 ^ (-(p.scale : Int))) := by
  rw [intVal, sgn]
  split <;> push_cast <;> ring

end Sys2Proof.Machine
end

section
/-! Comparison and classes (spec/04_scalar.md R85, R86). -/

namespace Sys2Proof.Machine

/-- The difference of two finite words has the sign of the model's comparison. -/
theorem cmpVal_finite {p : Prec} {a b : XWord} (ha : Finite p a) (hb : Finite p b) :
    ∃ c : ℝ, 0 < c ∧ (cmpVal (fpIn p a) (fpIn p b) : ℝ) = (intVal p a - intVal p b) * c := by
  obtain ⟨m, e, hfa, he, hva⟩ := fpIn_finite ha
  obtain ⟨m', e', hfb, he', hvb⟩ := fpIn_finite hb
  refine ⟨2 ^ (-(p.scale : Int)) / 2 ^ (min e e'), by positivity, ?_⟩
  have hu := units_mul (negBit p a) m (min_le_left e e')
  have hu' := units_mul (negBit p b) m' (min_le_right e e')
  rw [hva, ← intVal_mul] at hu
  rw [hvb, ← intVal_mul] at hu'
  rw [hfa, hfb]
  simp only [cmpVal]
  push_cast
  rw [← mul_div_assoc, eq_div_iff (by positivity), sub_mul, hu, hu']
  ring

/-- The magnitude of an infinity is above that of any number. -/
theorem mag_lt_of_inf {p : Prec} {x y : XWord} (hx : Finite p x) (hy : exField p y = 2 ^ p.eb - 1) : mag p x < mag p y := by
  rw [mag_lt_iff, pattern_eq, pattern_eq, hy]
  have := frField_lt p x
  calc 2 ^ p.mb * exField p x + frField p x < 2 ^ p.mb * (exField p x + 1) := by rw [Nat.mul_add]; omega
    _ ≤ 2 ^ p.mb * (2 ^ p.eb - 1) := Nat.mul_le_mul_left _ hx
    _ ≤ _ := Nat.le_add_right ..

theorem intVal_abs_le (p : Prec) (x : XWord) : -(mag p x : Int) ≤ intVal p x ∧ intVal p x ≤ mag p x := by
  rw [intVal]; split <;> omega

/-- No NaN: a number or an infinity. -/
theorem finite_or_inf {p : Prec} {x : XWord} (h : ¬ (exField p x = 2 ^ p.eb - 1 ∧ frField p x ≠ 0)) :
    Finite p x ∨ (exField p x = 2 ^ p.eb - 1 ∧ frField p x = 0) := by
  have hlt : exField p x < 2 ^ p.eb := Nat.mod_lt _ (Nat.two_pow_pos _)
  rw [Finite]
  by_cases hf : frField p x = 0 <;> simp_all <;> omega

/-- The order of the values as that of signed patterns. -/
def signedPattern (p : Prec) (x : XWord) : Int := if negBit p x then -(pattern p x : Int) else pattern p x

theorem mag_eq_zero_iff (p : Prec) (x : XWord) : mag p x = 0 ↔ pattern p x = 0 := by
  have h0 : patternMag p.mb 0 = 0 := by simp [patternMag]
  rw [mag_eq_patternMag]
  nth_rw 1 [← h0]
  exact (patternMag_strictMono p.mb).injective.eq_iff

/-- The order of the words is that of their signed patterns. -/
theorem intVal_lt_iff (p : Prec) (a b : XWord) : intVal p a < intVal p b ↔ signedPattern p a < signedPattern p b := by
  have hab := mag_lt_iff p a b
  have hba := mag_lt_iff p b a
  have ha := mag_eq_zero_iff p a
  have hb := mag_eq_zero_iff p b
  rw [intVal, intVal, signedPattern, signedPattern]
  cases negBit p a <;> cases negBit p b <;> simp only [if_true, Bool.false_eq_true, if_false] <;> omega

/-- The model's comparison of words that are no NaN. -/
theorem cmpVal_sign {p : Prec} {a b : XWord} (ha : ¬ (exField p a = 2 ^ p.eb - 1 ∧ frField p a ≠ 0))
    (hb : ¬ (exField p b = 2 ^ p.eb - 1 ∧ frField p b ≠ 0)) :
    (cmpVal (fpIn p a) (fpIn p b) < 0 ↔ intVal p a < intVal p b) ∧ (0 < cmpVal (fpIn p a) (fpIn p b) ↔ intVal p b < intVal p a) := by
  have hia := intVal_abs_le p a
  have hib := intVal_abs_le p b
  rcases finite_or_inf ha with ha | ⟨hae, haf⟩ <;> rcases finite_or_inf hb with hb | ⟨hbe, hbf⟩
  · obtain ⟨c, hc, h⟩ := cmpVal_finite ha hb
    constructor
    · rw [← Int.cast_lt (R := ℝ), h, Int.cast_zero, ← neg_pos, ← neg_mul, mul_pos_iff_of_pos_right hc, neg_pos, sub_neg, Int.cast_lt]
    · rw [← Int.cast_lt (R := ℝ), h, Int.cast_zero, mul_pos_iff_of_pos_right hc, sub_pos, Int.cast_lt]
  · have hlt := mag_lt_of_inf ha hbe
    obtain ⟨m, e, hfa, -, -⟩ := fpIn_finite ha
    rw [hfa, fpIn_inf hbe hbf, intVal.eq_def p b]
    dsimp only [cmpVal]
    cases negBit p b <;> simp only [if_true, Bool.false_eq_true, if_false] <;> omega
  · have hlt := mag_lt_of_inf hb hae
    obtain ⟨m, e, hfb, -, -⟩ := fpIn_finite hb
    rw [hfb, fpIn_inf hae haf, intVal.eq_def p a]
    dsimp only [cmpVal]
    cases negBit p a <;> simp only [if_true, Bool.false_eq_true, if_false] <;> omega
  · have hm : mag p a = mag p b := by rw [mag, mag, hae, hbe, haf, hbf]
    have hpos : 0 < mag p b := by
      have : exField p b ≠ 0 := by rw [hbe]; cases p <;> decide
      rw [mag, if_neg this]; positivity
    rw [fpIn_inf hae haf, fpIn_inf hbe hbf, intVal, intVal, hm]
    dsimp only [cmpVal]
    cases negBit p a <;> cases negBit p b <;> simp <;> omega

/-- The model's comparison, with equality. -/
theorem cmpVal_order {p : Prec} {a b : XWord} (ha : ¬ (exField p a = 2 ^ p.eb - 1 ∧ frField p a ≠ 0))
    (hb : ¬ (exField p b = 2 ^ p.eb - 1 ∧ frField p b ≠ 0)) :
    (cmpVal (fpIn p a) (fpIn p b) = 0 ↔ signedPattern p a = signedPattern p b)
    ∧ (cmpVal (fpIn p a) (fpIn p b) < 0 ↔ signedPattern p a < signedPattern p b)
    ∧ (cmpVal (fpIn p a) (fpIn p b) ≤ 0 ↔ signedPattern p a ≤ signedPattern p b) := by
  obtain ⟨hlt, hgt⟩ := cmpVal_sign ha hb
  rw [intVal_lt_iff] at hlt hgt
  omega

/-- Which words the model takes for a NaN. -/
theorem isNan_fpIn (p : Prec) (x : XWord) : (fpIn p x).isNan = true ↔ exField p x = 2 ^ p.eb - 1 ∧ frField p x ≠ 0 := by
  rw [fpIn_eq]
  split
  next h => split <;> simp_all [Val.isNan]
  next h => split <;> simp_all [Val.isNan]

/-- Which words the model takes for a signaling NaN. -/
theorem isSig_fpIn (p : Prec) (x : XWord) :
    (fpIn p x).isSig = true ↔ (exField p x = 2 ^ p.eb - 1 ∧ frField p x ≠ 0) ∧ frField p x < 2 ^ (p.mb - 1) := by
  rw [fpIn_eq]
  split
  next h => split <;> simp_all [Val.isSig]
  next h => split <;> simp_all [Val.isSig]

/-- The number of a word made of two parts. -/
theorem toNat_append_eq {v w : Nat} (x : BitVec v) (y : BitVec w) : (x ++ y).toNat = x.toNat * 2 ^ w + y.toNat := by
  rw [BitVec.toNat_append, ← Nat.shiftLeft_add_eq_or_of_lt y.isLt, Nat.shiftLeft_eq]

/-- The class word as a number (R86). -/
theorem classWord_eq (e : BitVec 16) (n : Bool) (kind : Nat) (hk : kind < 8) :
    (0 : BitVec 16) ++ e ++ (0 : BitVec 27) ++ bb n ++ (0 : BitVec 1) ++ BitVec.ofNat 3 kind
      = BitVec.ofNat 64 (e.toNat * 2 ^ 32 + (if n then 16 else 0) + kind) := by
  apply BitVec.eq_of_toNat_eq
  have hn : (bb n).toNat = if n then 1 else 0 := by cases n <;> rfl
  have he := e.isLt
  simp only [toNat_append_eq, hn, BitVec.toNat_ofNat, BitVec.ofNat_eq_ofNat]
  split <;> omega

/-- The class word of a value (R86). -/
def classOf (p : Prec) (n : Bool) (v : Val) : XWord :=
  let word (kind : Nat) (e : Int) : XWord := BitVec.ofNat 64 ((BitVec.ofInt 16 e).toNat * 2 ^ 32 + (if n then 16 else 0) + kind)
  match v with
  | .nan sig => word (if sig then 5 else 4) 0
  | .inf _ => word 3 0
  | .fin _ m e _ => if m = 0 then word 0 0 else word (if m < 2 ^ p.mb then 1 else 2) (e + Nat.log2 m)

theorem fclassFn_eq (p : Prec) (x : XWord) : fclassFn p x = classOf p (negBit p x) (fpIn p x) := by
  have hn : x.getLsbD ((precTy p).width - 1) = negBit p x := by
    rw [negBit, precTy_width]; congr 1; omega
  rw [fclassFn, hn, precTy_mbits]
  unfold classOf
  cases fpIn p x with
  | nan sig => cases sig <;> exact classWord_eq _ _ _ (by decide)
  | inf n => exact classWord_eq _ _ _ (by decide)
  | fin n m e u =>
    dsimp only
    split
    · exact classWord_eq _ _ _ (by decide)
    · split <;> exact classWord_eq _ _ _ (by decide)

/-- A word that is no NaN is no signaling one. -/
theorem isSig_of_not_isNan {v : Val} (h : v.isNan = false) : v.isSig = false := by
  cases v with
  | nan s => cases h
  | _ => rfl

/-- Comparison of numbers (R85). -/
theorem fcmpFn_numbers {p : Prec} {a b : XWord} (ha : (fpIn p a).isNan = false) (hb : (fpIn p b).isNan = false) :
    fcmpFn p .eq a b = (if cmpVal (fpIn p a) (fpIn p b) = 0 then 1 else 0, 0)
    ∧ fcmpFn p .lt a b = (if cmpVal (fpIn p a) (fpIn p b) < 0 then 1 else 0, 0)
    ∧ fcmpFn p .le a b = (if cmpVal (fpIn p a) (fpIn p b) ≤ 0 then 1 else 0, 0) ∧ fcmpFn p .un a b = (0, 0) := by
  simp [fcmpFn, ha, hb, isSig_of_not_isNan ha, isSig_of_not_isNan hb, flagIf]

/-- Comparison with a NaN (R85). -/
theorem fcmpFn_nan {p : Prec} {a b : XWord} (h : ((fpIn p a).isNan || (fpIn p b).isNan) = true) :
    fcmpFn p .lt a b = (0, 1) ∧ fcmpFn p .le a b = (0, 1)
    ∧ fcmpFn p .eq a b = (0, flagIf ((fpIn p a).isSig || (fpIn p b).isSig) fNV)
    ∧ fcmpFn p .un a b = (1, flagIf ((fpIn p a).isSig || (fpIn p b).isSig) fNV) := by
  simp only [fcmpFn, h]
  exact ⟨rfl, rfl, rfl, rfl⟩

/-- Settles O20: the fields decide the value, and the value the comparison and the class. -/
theorem comparisonAndClassOfDoubles : Obligations.ComparisonAndClassOfDoubles := by
  unfold Obligations.ComparisonAndClassOfDoubles
  intro a b ex fr nan sig key cls
  have hnan (x : XWord) : (fpIn .d x).isNan = true ↔ nan x := isNan_fpIn .d x
  have hsig (x : XWord) : (fpIn .d x).isSig = true ↔ sig x := isSig_fpIn .d x
  have hcls {v : Val} {kind : Nat} {e : Int} (hv : fpIn .d a = v) (h : classOf .d (negBit .d a) v
      = BitVec.ofNat 64 ((BitVec.ofInt 16 e).toNat * 2 ^ 32 + (if negBit .d a then 16 else 0) + kind)) : cls a kind e := by
    rw [← hv, ← fclassFn_eq] at h; exact h
  refine ⟨fun ha hb => ?_, fun h => ?_, fun h => ?_, fun he hf => ?_, fun he hf => ?_, fun he hf => ?_, fun h0 h1 => ?_⟩
  · obtain ⟨heq, hlt, hle⟩ := cmpVal_order (p := .d) ha hb
    have h := fcmpFn_numbers (Bool.eq_false_iff.2 (mt (hnan a).1 ha)) (Bool.eq_false_iff.2 (mt (hnan b).1 hb))
    simp only [heq, hlt, hle] at h
    exact h
  · have h := fcmpFn_nan (p := .d) (a := a) (b := b) (by rwa [Bool.or_eq_true, hnan, hnan])
    simp only [flagIf, Bool.or_eq_true, hsig] at h
    exact h
  · refine hcls (fpIn_nan h.1 h.2) ?_
    have hs : decide (frField .d a < 2 ^ (Prec.d.mb - 1)) = true ↔ sig a := by rw [decide_eq_true_eq]; exact ⟨fun hl => ⟨h, hl⟩, fun hs => hs.2⟩
    simp only [classOf, hs]
  · exact hcls (fpIn_inf he hf) rfl
  · refine hcls (fpIn_subnormal he) ?_
    have hf : frField .d a = 0 := hf
    rw [hf]; rfl
  · refine hcls (fpIn_subnormal he) ?_
    have hf : frField .d a ≠ 0 := hf
    rw [classOf, if_neg hf, if_pos (frField_lt .d a), Int.add_comm]
    rfl
  · refine hcls (fpIn_normal (Nat.ne_of_gt h0) (Nat.ne_of_lt h1)) ?_
    have hlt := frField_lt .d a
    have hlog := log2_two_pow_add hlt
    have he : (exField .d a : Int) - 1 - Prec.d.scale + Prec.d.mb = (ex a : Int) - 1023 := by
      change (ex a : Int) - 1 - (1074 : Nat) + (52 : Nat) = _
      omega
    have hpos := Nat.two_pow_pos Prec.d.mb
    have hne : ¬ 2 ^ Prec.d.mb + frField .d a = 0 := by omega
    have hge : ¬ 2 ^ Prec.d.mb + frField .d a < 2 ^ Prec.d.mb := by omega
    rw [classOf, if_neg hne, if_neg hge, hlog, he]

end Sys2Proof.Machine
end

section
/-! Rounding to nearest even (spec/12_numbers.md R280), as numbers: the units kept are within half a unit of the value, and even on a tie. -/

namespace Sys2Proof.Machine

/-- Rounding to units no finer than the digits: the kept units, from the quotient and the remainder (R280). -/
theorem roundUnit_coarse {m : Nat} {e q : Int} {up : Bool} (h : e < q) :
    let u := 2 ^ (q - e).toNat
    let n := m / u
    (roundUnit m e q up .rne).1 = (if u < 2 * (m % u) ∨ 2 * (m % u) = u ∧ (up = true ∨ n % 2 = 1) then n + 1 else n)
    ∧ ((roundUnit m e q up .rne).2 = false ↔ up = false ∧ u ∣ m) := by
  intro u n
  have hu : 0 < u := Nat.two_pow_pos _
  rw [roundUnit, if_neg (by omega)]
  dsimp only
  constructor
  · congr 1
    simp only [Bool.and_eq_true, Bool.or_eq_true, decide_eq_true_eq, eq_iff_iff]
    refine ⟨fun hr => hr.2, fun hr => ⟨Or.inl ?_, hr⟩⟩
    show m % u ≠ 0
    omega
  · rw [Bool.or_eq_false_iff, decide_eq_false_iff_not, not_not, Nat.dvd_iff_mod_eq_zero, and_comm]

/-- The first part of the statement on rounding, in whole numbers. -/
theorem roundUnit_nearest_nat {m : Nat} {e q : Int} {up : Bool} (h : e < q) :
    let r := roundUnit m e q up .rne
    let u := 2 ^ (q - e).toNat
    2 * (r.1 * u) ≤ 2 * m + u + (if up then 1 else 0) ∧ 2 * m ≤ 2 * (r.1 * u) + u
    ∧ (up = true → 2 * m < 2 * (r.1 * u) + u) ∧ (up = false → (2 * m = 2 * (r.1 * u) + u ∨ 2 * (r.1 * u) = 2 * m + u) → r.1 % 2 = 0) := by
  intro r u
  have hr : r.1 = if u < 2 * (m % u) ∨ 2 * (m % u) = u ∧ (up = true ∨ m / u % 2 = 1) then m / u + 1 else m / u := (roundUnit_coarse h).1
  have hm : u * (m / u) + m % u = m := Nat.div_add_mod m u
  have hlt : m % u < u := Nat.mod_lt _ (Nat.two_pow_pos _)
  rw [hr]
  clear hr
  clear_value u
  generalize m / u = n at *
  generalize m % u = ρ at *
  split
  next hc =>
    rw [Nat.add_mul, Nat.one_mul, Nat.mul_comm n u]
    cases up <;> simp only [Bool.false_eq_true, false_or, true_or, and_true, if_true, if_false] at hc ⊢
    · exact ⟨by omega, by omega, nofun, fun _ ht => by omega⟩
    · exact ⟨by omega, by omega, fun _ => by omega, nofun⟩
  next hc =>
    rw [Nat.mul_comm n u]
    cases up <;> simp only [Bool.false_eq_true, false_or, true_or, and_true, if_true, if_false] at hc ⊢
    · exact ⟨by omega, by omega, nofun, fun _ ht => by omega⟩
    · exact ⟨by omega, by omega, fun _ => by omega, nofun⟩

/-- `k` units of `u` are the nearest to `x`, an even number of them on a tie. -/
structure Nearest (k : Nat) (u x : ℝ) : Prop where
  lower : k * u - u / 2 ≤ x
  upper : x ≤ k * u + u / 2
  evenLower : x = k * u - u / 2 → k % 2 = 0
  evenUpper : x = k * u + u / 2 → k % 2 = 0

/-- The value that digits `m · 2^e` stand for, those beyond marked by `up`. -/
def Digits (m : Nat) (e : Int) (up : Bool) (x : ℝ) : Prop :=
  if up then m * 2 ^ e < x ∧ x < (m + 1) * 2 ^ e else x = m * 2 ^ e

/-- A unit of an exponent that is no smaller, in units of the other. -/
theorem zpow_eq_mul_pow {e q : Int} (h : e ≤ q) : (2 : ℝ) ^ q = 2 ^ e * (2 ^ (q - e).toNat : Nat) := by
  rw [Nat.cast_pow, Nat.cast_ofNat, ← zpow_natCast, ← zpow_add₀ (by norm_num), Int.toNat_of_nonneg (by omega)]
  congr 1
  omega

/-- Digits that end: nearness in whole numbers is nearness. -/
theorem nearest_of_nat {k m u : Nat} {w : ℝ} (hw : 0 < w) (hhi : 2 * (k * u) ≤ 2 * m + u) (hlo : 2 * m ≤ 2 * (k * u) + u)
    (htie : (2 * m = 2 * (k * u) + u ∨ 2 * (k * u) = 2 * m + u) → k % 2 = 0) : Nearest k (w * u) (m * w) := by
  have hlo' : 2 * (m : ℝ) ≤ 2 * (k * u) + u := by exact_mod_cast hlo
  have hhi' : 2 * ((k : ℝ) * u) ≤ 2 * m + u := by exact_mod_cast hhi
  refine ⟨by nlinarith, by nlinarith, fun ht => htie (.inr ?_), fun ht => htie (.inl ?_)⟩
  · have : (2 * ((k : ℝ) * u)) * w = (2 * m + u) * w := by linarith
    exact_mod_cast mul_right_cancel₀ hw.ne' this
  · have : (2 * (m : ℝ)) * w = (2 * (k * u) + u) * w := by linarith
    exact_mod_cast mul_right_cancel₀ hw.ne' this

/-- Within half a unit of `k` units there is no other whole number of them. -/
theorem dvd_iff_eq_mul {k m u : Nat} (hu : 0 < u) (hhi : 2 * (k * u) ≤ 2 * m + u) (hlo : 2 * m ≤ 2 * (k * u) + u) : u ∣ m ↔ m = k * u := by
  refine ⟨?_, fun h => ⟨k, by rw [h, Nat.mul_comm]⟩⟩
  rintro ⟨c, rfl⟩
  have h1 : 2 * k ≤ 2 * c + 1 := Nat.le_of_mul_le_mul_left (c := u) (by linarith) hu
  have h2 : 2 * c ≤ 2 * k + 1 := Nat.le_of_mul_le_mul_left (c := u) (by linarith) hu
  rw [show c = k by omega, Nat.mul_comm]

/-- Digits that go on: the value is strictly within half a unit, and no whole number of units. -/
theorem nearest_of_nat_up {k m u : Nat} {w x : ℝ} (hw : 0 < w) (hl : m * w < x) (hr : x < (m + 1) * w) (hhi : 2 * (k * u) ≤ 2 * m + u)
    (hlo : 2 * m + 2 ≤ 2 * (k * u) + u) : Nearest k (w * u) x ∧ x ≠ k * (w * u) := by
  have hlo' : 2 * (m : ℝ) + 2 ≤ 2 * (k * u) + u := by exact_mod_cast hlo
  have hhi' : 2 * ((k : ℝ) * u) ≤ 2 * m + u := by exact_mod_cast hhi
  have h1 : k * (w * u) - w * u / 2 < x := by nlinarith
  have h2 : x < k * (w * u) + w * u / 2 := by nlinarith
  refine ⟨⟨h1.le, h2.le, fun ht => absurd ht h1.ne', fun ht => absurd ht h2.ne⟩, fun hk => ?_⟩
  have h3 : (m : ℝ) < (k * u : Nat) := by push_cast; nlinarith
  have h4 : ((k * u : Nat) : ℝ) < (m + 1 : Nat) := by push_cast; nlinarith
  have h3' : m < k * u := by exact_mod_cast h3
  have h4' : k * u < m + 1 := by exact_mod_cast h4
  omega

/-- A value that is a whole number of units is the nearest. -/
theorem nearest_self (k : Nat) {u : ℝ} (hu : 0 < u) : Nearest k u (k * u) where
  lower := by linarith
  upper := by linarith
  evenLower ht := by linarith
  evenUpper ht := by linarith

/-- Rounding gives the nearest number of units, exact only where the value is a whole number of them. Where digits beyond are marked, the unit
must be coarser than they. -/
theorem roundUnit_nearest {m : Nat} {e q : Int} {up : Bool} {x : ℝ} (hx : Digits m e up x) (hup : up = true → e < q) :
    Nearest (roundUnit m e q up .rne).1 (2 ^ q) x ∧ ((roundUnit m e q up .rne).2 = false ↔ x = (roundUnit m e q up .rne).1 * 2 ^ q) := by
  have hw : (0 : ℝ) < 2 ^ e := by positivity
  by_cases h : e < q
  · obtain ⟨-, hex⟩ := roundUnit_coarse (m := m) (up := up) h
    obtain ⟨hhi, hlo, hups, htie⟩ := roundUnit_nearest_nat (m := m) (up := up) h
    have hu : 0 < 2 ^ (q - e).toNat := Nat.two_pow_pos _
    have hpar : 2 ^ (q - e).toNat % 2 = 0 := Nat.mod_eq_zero_of_dvd (dvd_pow_self 2 (by omega))
    rw [hex, zpow_eq_mul_pow h.le]
    generalize (roundUnit m e q up .rne).1 = k at *
    generalize 2 ^ (q - e).toNat = u at *
    cases up with
    | false =>
      obtain rfl : x = m * 2 ^ e := by simpa [Digits] using hx
      refine ⟨nearest_of_nat hw hhi hlo (htie rfl), ?_⟩
      rw [eq_self_iff_true, true_and, dvd_iff_eq_mul hu hhi hlo, mul_left_comm, mul_comm (m : ℝ), mul_right_inj' hw.ne']
      exact_mod_cast Iff.rfl
    | true =>
      obtain ⟨hl, hr⟩ : m * 2 ^ e < x ∧ x < (m + 1) * 2 ^ e := by simpa [Digits] using hx
      have hups := hups rfl
      rw [if_pos rfl] at hhi
      obtain ⟨hnear, hne⟩ := nearest_of_nat_up (u := u) hw hl hr (k := k) (by omega) (by omega)
      exact ⟨hnear, iff_of_false (fun hf => nomatch hf.1) hne⟩
  · obtain rfl : up = false := by cases up <;> simp_all
    have hr : roundUnit m e q false .rne = (m * 2 ^ (e - q).toNat, false) := if_pos (by omega)
    obtain rfl : x = (m * 2 ^ (e - q).toNat : Nat) * (2 : ℝ) ^ q := by
      rw [show x = m * 2 ^ e by simpa [Digits] using hx, zpow_eq_mul_pow (Int.not_lt.1 h)]; push_cast; ring
    rw [hr]
    exact ⟨nearest_self _ (by positivity), by simp⟩

end Sys2Proof.Machine
end

section
/-! Rounding to a format (spec/12_numbers.md R280, R282, spec/04_scalar.md R82): the code, the overflow and the flags, from the kept units. -/

namespace Sys2Proof.Machine

/-! What the nearest number of units is bounded by. -/

/-- A value below `n` units rounds to `n` at most. -/
theorem Nearest.le_of_lt {k n : Nat} {u x : ℝ} (h : Nearest k u x) (hu : 0 < u) (hx : x < n * u) : k ≤ n := by
  have hl := h.lower
  by_contra hk
  have hk' : ((n + 1 : Nat) : ℝ) ≤ k := by exact_mod_cast Nat.lt_of_not_le hk
  push_cast at hk'
  nlinarith

/-- A value of at least `n` units rounds to `n` at least. -/
theorem Nearest.le_of_le {k n : Nat} {u x : ℝ} (h : Nearest k u x) (hu : 0 < u) (hx : n * u ≤ x) : n ≤ k := by
  have hl := h.upper
  by_contra hk
  have hk' : ((k + 1 : Nat) : ℝ) ≤ n := by exact_mod_cast Nat.lt_of_not_le hk
  push_cast at hk'
  nlinarith

/-- An even number of units is reached from half a unit below it on. -/
theorem Nearest.even_le_iff {k n : Nat} {u x : ℝ} (h : Nearest k u x) (hu : 0 < u) (hn : n % 2 = 0) : n ≤ k ↔ n * u - u / 2 ≤ x := by
  constructor
  · intro hk
    have hk' : (n : ℝ) ≤ k := by exact_mod_cast hk
    nlinarith [h.lower]
  · intro hx
    by_contra hk
    have hk' : ((k + 1 : Nat) : ℝ) ≤ n := by exact_mod_cast Nat.lt_of_not_le hk
    push_cast at hk'
    have hle : x = k * u + u / 2 := le_antisymm h.upper (by nlinarith)
    have heven := h.evenUpper hle
    have hn' : (n : ℝ) = (k + 1 : Nat) := by push_cast; nlinarith
    have : n = k + 1 := by exact_mod_cast hn'
    omega

/-! The format's parameters. -/

/-- The exponent of the leading digit. -/
def topExp (m : Nat) (e : Int) : Int := e + Nat.log2 m
/-- The exponent of the unit that a value is rounded to. -/
def unitExp (p : Prec) (m : Nat) (e : Int) : Int := Max.max (topExp m e - p.mb) (-(p.scale : Int))
/-- The units kept, and whether they are inexact. -/
def kept (p : Prec) (m : Nat) (e : Int) (up : Bool) : Nat × Bool := roundUnit m e (unitExp p m e) up .rne
/-- The units kept where the exponent is unbounded. -/
def keptFree (p : Prec) (m : Nat) (e : Int) (up : Bool) : Nat := (roundUnit m e (topExp m e - p.mb) up .rne).1
/-- Whether rounding with an unbounded exponent leaves the value below the normal numbers. -/
def belowNormal (p : Prec) (m : Nat) (e : Int) (up : Bool) : Bool :=
  decide (topExp m e < p.mb - p.scale) && decide (topExp (keptFree p m e up) (topExp m e - p.mb) < p.mb - p.scale)
/-- The sign's part of a code. -/
def signPart (p : Prec) (n : Bool) : Nat := if n then 2 ^ (p.eb + p.mb) else 0

/-- Rounding a number (R280, R282): infinity where the kept units are above the largest number; else the code that counts the units kept, since a
carry into the exponent is one in the code. -/
theorem roundFp_fin {p : Prec} {n : Bool} {m : Nat} {e : Int} {up : Bool} (h0 : ¬ (m = 0 ∧ up = false))
    (hlow : unitExp p m e ≠ -(p.scale : Int) → 2 ^ p.mb ≤ (kept p m e up).1) (hhi : (kept p m e up).1 ≤ 2 ^ (p.mb + 1)) :
    roundFp (precTy p) .rne .inf (.fin n m e up)
      = if scaledGt (kept p m e up).1 (unitExp p m e) (2 ^ p.mb + (2 ^ p.mb - 1)) ((2 ^ p.eb - 2 : Nat) - (precTy p).bias - p.mb)
        then { bits := (precTy p).inf n, flags := fOF ||| fNX, toInf := true }
        else { bits := signPart p n + ((unitExp p m e + p.scale).toNat * 2 ^ p.mb + (kept p m e up).1)
               flags := if (kept p m e up).1 = 0 then fUF ||| fNX
                 else flagIf (belowNormal p m e up && (kept p m e up).2) fUF ||| flagIf (kept p m e up).2 fNX } := by
  have hb := precTy_bias p
  have hemin : 1 - ((precTy p).bias : Int) = p.mb - p.scale := by omega
  have hcode (E F : Nat) : (precTy p).code n E F = signPart p n + (E * 2 ^ p.mb + F) := by
    rw [FTy.code, precTy_ebits, precTy_mbits, signPart, Nat.add_assoc]
  have htiny : (decide (topExp m e < p.mb - p.scale) && (kept p m e up).2
      && decide (topExp (keptFree p m e up) (topExp m e - p.mb) < p.mb - p.scale)) = (belowNormal p m e up && (kept p m e up).2) := by
    rw [belowNormal, Bool.and_assoc, Bool.and_assoc, Bool.and_comm (kept p m e up).2]
  simp only [roundFp, if_neg h0, precTy_mbits, precTy_ieee, precTy_minQ, precTy_maxE, precTy_maxM, precTy_ne_bf, false_or, hemin, hcode, true_and, if_true,
    ← topExp.eq_def, ← unitExp.eq_def, ← kept.eq_def, ← keptFree.eq_def, htiny]
  have hq : -(p.scale : Int) ≤ unitExp p m e := le_max_right ..
  generalize unitExp p m e = q at *
  generalize (kept p m e up).1 = k at *
  have hpos := Nat.two_pow_pos p.mb
  split
  · rfl
  split
  next hk =>
    obtain ⟨hk, rfl⟩ := hk
    have hQ : (-(p.scale : Int) + p.scale).toNat = 0 := by omega
    rw [hQ]
    split
    next h => rw [h]
    next h => rfl
  next hk =>
    have hk' : 2 ^ p.mb ≤ k := by
      by_cases hq : q = -(p.scale : Int)
      · exact Nat.le_of_not_lt fun h => hk ⟨h, hq⟩
      · exact hlow hq
    have hne : k ≠ 0 := by omega
    rw [if_neg hne]
    split
    next h =>
      have hQ : (q + 1 + (precTy p).bias + p.mb).toNat = (q + p.scale).toNat + 2 := by omega
      rw [hQ, h, Nat.pow_succ]
      congr 2
      simp only [Nat.add_mul]
      omega
    next h =>
      have hQ : (q + (precTy p).bias + p.mb).toNat = (q + p.scale).toNat + 1 := by omega
      rw [hQ]
      congr 2
      simp only [Nat.add_mul]
      omega

/-- The comparison of scaled numbers is that of their values. -/
theorem scaledGt_iff (a : Nat) (p : Int) (b : Nat) (q : Int) : scaledGt a p b q = true ↔ (b : ℝ) * 2 ^ q < a * 2 ^ p := by
  rw [scaledGt]
  split
  next h =>
    have hq : (0 : ℝ) < 2 ^ q := by positivity
    rw [decide_eq_true_eq, zpow_eq_mul_pow h, mul_left_comm, mul_comm (b : ℝ), mul_lt_mul_iff_right₀ hq]
    exact_mod_cast Iff.rfl
  next h =>
    have hp : (0 : ℝ) < 2 ^ p := by positivity
    rw [decide_eq_true_eq, zpow_eq_mul_pow (Int.not_le.1 h).le, mul_left_comm, mul_comm (a : ℝ), mul_lt_mul_iff_right₀ hp]
    exact_mod_cast Iff.rfl

/-! Units kept, in units of the smallest subnormal. -/

/-- Nearness does not depend on the scale. -/
theorem Nearest.mul {k : Nat} {u x c : ℝ} (h : Nearest k u x) (hc : 0 < c) : Nearest k (u * c) (x * c) where
  lower := by nlinarith [h.lower]
  upper := by nlinarith [h.upper]
  evenLower ht := h.evenLower (mul_right_cancel₀ hc.ne' (by linarith))
  evenUpper ht := h.evenUpper (mul_right_cancel₀ hc.ne' (by linarith))

/-- The value `x` kept as `k` units of `2^Q`: `k` is nearest, and the unit is the smallest subnormal or leaves `mb + 1` bits. -/
structure Kept (mb k Q : Nat) (x : ℝ) : Prop where
  nearest : Nearest k (2 ^ Q) x
  upper : x < 2 ^ (mb + 1) * 2 ^ Q
  lower : Q ≠ 0 → 2 ^ mb * 2 ^ Q ≤ x

theorem Kept.le {mb k Q : Nat} {x : ℝ} (h : Kept mb k Q x) : k ≤ 2 ^ (mb + 1) :=
  h.nearest.le_of_lt (by positivity) (by exact_mod_cast h.upper)

theorem Kept.ge {mb k Q : Nat} {x : ℝ} (h : Kept mb k Q x) (hQ : Q ≠ 0) : 2 ^ mb ≤ k :=
  h.nearest.le_of_le (by positivity) (by exact_mod_cast h.lower hQ)

/-- A number of the format above `k` units is a whole unit above at least; one below is a whole unit below at least, or the value is no less than the
`k` units. -/
theorem Kept.grid {mb k Q f j : Nat} {x : ℝ} (h : Kept mb k Q x) (hf : f < 2 ^ (mb + 1)) :
    (k * 2 ^ Q < f * 2 ^ j → k * 2 ^ Q + 2 ^ Q ≤ f * 2 ^ j)
    ∧ (f * 2 ^ j < k * 2 ^ Q → f * 2 ^ j + 2 ^ Q ≤ k * 2 ^ Q ∨ ((k * 2 ^ Q : Nat) : ℝ) ≤ x) := by
  by_cases hj : Q ≤ j
  · obtain ⟨d, rfl⟩ := Nat.exists_eq_add_of_le hj
    have e : f * 2 ^ (Q + d) = f * 2 ^ d * 2 ^ Q := by rw [Nat.pow_add]; ring
    have hs (a b : Nat) (hab : a * 2 ^ Q < b * 2 ^ Q) : a * 2 ^ Q + 2 ^ Q ≤ b * 2 ^ Q := by
      rw [← Nat.succ_mul]
      exact Nat.mul_le_mul_right _ (Nat.lt_of_mul_lt_mul_right hab)
    rw [e]
    exact ⟨hs _ _, fun hlt => .inl (hs _ _ hlt)⟩
  · have hQ : Q ≠ 0 := by omega
    have hk := h.ge hQ
    have hlt : f * 2 ^ j < 2 ^ mb * 2 ^ Q := by
      calc f * 2 ^ j < 2 ^ (mb + 1) * 2 ^ j := Nat.mul_lt_mul_of_pos_right hf (Nat.two_pow_pos j)
        _ = 2 ^ mb * 2 ^ (j + 1) := by rw [Nat.pow_succ, Nat.pow_succ]; ring
        _ ≤ 2 ^ mb * 2 ^ Q := Nat.mul_le_mul_left _ (Nat.pow_le_pow_right (by decide) (by omega))
    have hle : 2 ^ mb * 2 ^ Q ≤ k * 2 ^ Q := Nat.mul_le_mul_right _ hk
    refine ⟨fun hgt => by omega, fun _ => ?_⟩
    rcases Nat.eq_or_lt_of_le hk with hk | hk
    · right
      rw [← hk]
      exact_mod_cast h.lower hQ
    · left
      have := Nat.mul_le_mul_right (2 ^ Q) (show 2 ^ mb + 1 ≤ k from hk)
      rw [Nat.succ_mul] at this
      omega

/-- No number of the format is nearer than the `k` units, and `k` is even where one is as near. -/
theorem Kept.nearest_number {mb k Q f j : Nat} {x : ℝ} (h : Kept mb k Q x) (hf : f < 2 ^ (mb + 1)) :
    (k * 2 ^ Q < f * 2 ^ j → 4 * x ≤ (2 * (k * 2 ^ Q + f * 2 ^ j) : Nat) ∧ (((2 * (k * 2 ^ Q + f * 2 ^ j) : Nat) : ℝ) ≤ 4 * x → k % 2 = 0))
    ∧ (f * 2 ^ j < k * 2 ^ Q → ((2 * (k * 2 ^ Q + f * 2 ^ j) : Nat) : ℝ) ≤ 4 * x
        ∧ (4 * x ≤ (2 * (k * 2 ^ Q + f * 2 ^ j) : Nat) → k % 2 = 0)) := by
  obtain ⟨habove, hbelow⟩ := h.grid (j := j) hf
  have hup := h.nearest.upper
  have hlo := h.nearest.lower
  constructor
  · intro hlt
    have hle : (k : ℝ) * 2 ^ Q + 2 ^ Q ≤ f * 2 ^ j := by exact_mod_cast habove hlt
    push_cast
    exact ⟨by linarith, fun ht => h.nearest.evenUpper (by linarith)⟩
  · intro hlt
    have hlt' : (f : ℝ) * 2 ^ j < k * 2 ^ Q := by exact_mod_cast hlt
    push_cast
    rcases hbelow hlt with hle | hle
    · have hle : (f : ℝ) * 2 ^ j + 2 ^ Q ≤ k * 2 ^ Q := by exact_mod_cast hle
      exact ⟨by linarith, fun ht => h.nearest.evenLower (by linarith)⟩
    · push_cast at hle
      exact ⟨by linarith, fun ht => by linarith⟩

/-- The units kept are above the largest number from half a unit above it on. -/
theorem Kept.overflow_iff {mb k Q E : Nat} {x : ℝ} (h : Kept mb k Q x) :
    (2 ^ (mb + 1) - 1) * 2 ^ E < k * 2 ^ Q ↔ ((2 ^ (mb + 2) - 1 : ℝ)) * 2 ^ E ≤ 2 * x := by
  have hmb := Nat.two_pow_pos mb
  have hmb1 : (1 : ℝ) ≤ 2 ^ mb := by exact_mod_cast hmb
  have hE : (0 : ℝ) < 2 ^ E := by positivity
  have hR1 : (2 : ℝ) ^ (mb + 1) = 2 * 2 ^ mb := pow_succ' 2 mb
  have hR2 : (2 : ℝ) ^ (mb + 2) = 4 * 2 ^ mb := by rw [pow_succ', hR1]; ring
  have hN1 : 2 ^ (mb + 1) = 2 * 2 ^ mb := Nat.pow_succ'
  rcases lt_trichotomy Q E with hQ | rfl | hQ
  · have hle : 2 ^ (Q + 1) ≤ 2 ^ E := Nat.pow_le_pow_right (by decide) hQ
    have hleR : (2 : ℝ) * 2 ^ Q ≤ 2 ^ E := by rw [← pow_succ']; exact_mod_cast hle
    refine iff_of_false (Nat.not_lt.2 ?_) (not_le.2 ?_)
    · calc k * 2 ^ Q ≤ 2 ^ (mb + 1) * 2 ^ Q := Nat.mul_le_mul_right _ h.le
        _ = 2 ^ mb * 2 ^ (Q + 1) := by rw [hN1, Nat.pow_succ']; ring
        _ ≤ (2 ^ (mb + 1) - 1) * 2 ^ E := Nat.mul_le_mul (by omega) hle
    · have := h.upper
      rw [hR1] at this
      rw [hR2]
      nlinarith
  · have hk : (2 ^ (mb + 1) - 1) * 2 ^ Q < k * 2 ^ Q ↔ 2 ^ (mb + 1) ≤ k := by
      rw [Nat.mul_lt_mul_right (Nat.two_pow_pos Q)]; omega
    rw [hk, h.nearest.even_le_iff hE (by omega), Nat.cast_pow, Nat.cast_ofNat, hR1, hR2]
    constructor <;> intro hx <;> linarith
  · have hle : 2 ^ (E + 1) ≤ 2 ^ Q := Nat.pow_le_pow_right (by decide) hQ
    have hleR : (2 : ℝ) * 2 ^ E ≤ 2 ^ Q := by rw [← pow_succ']; exact_mod_cast hle
    have hQ0 : Q ≠ 0 := by omega
    refine iff_of_true ?_ ?_
    · calc (2 ^ (mb + 1) - 1) * 2 ^ E < 2 ^ (mb + 1) * 2 ^ E := Nat.mul_lt_mul_of_pos_right (by omega) (Nat.two_pow_pos E)
        _ = 2 ^ mb * 2 ^ (E + 1) := by rw [hN1, Nat.pow_succ']; ring
        _ ≤ k * 2 ^ Q := Nat.mul_le_mul (h.ge hQ0) hle
    · have := h.lower hQ0
      rw [hR2]
      nlinarith

/-! The code of the units kept. -/

/-- Its pattern counts the units: a carry into the exponent is one in the pattern. -/
theorem patternMag_kept {mb k Q : Nat} (hle : k ≤ 2 ^ (mb + 1)) (hge : Q ≠ 0 → 2 ^ mb ≤ k) : patternMag mb (Q * 2 ^ mb + k) = k * 2 ^ Q := by
  have hpos := Nat.two_pow_pos mb
  have hN1 : 2 ^ (mb + 1) = 2 * 2 ^ mb := Nat.pow_succ'
  by_cases h1 : k < 2 ^ mb
  · have hQ : Q = 0 := by by_contra hQ; exact absurd (hge hQ) (by omega)
    subst hQ
    have := patternMag_fields mb 0 k h1
    simpa using this
  · by_cases h2 : k = 2 ^ (mb + 1)
    · have e : Q * 2 ^ mb + k = 2 ^ mb * (Q + 2) + 0 := by rw [h2, hN1]; ring
      rw [e, patternMag_fields mb _ 0 hpos, if_neg (by omega), h2, hN1]
      simp only [Nat.add_zero, Nat.add_succ_sub_one, Nat.pow_succ]
      ring
    · have e : Q * 2 ^ mb + k = 2 ^ mb * (Q + 1) + (k - 2 ^ mb) := by rw [Nat.mul_add, Nat.mul_comm Q]; omega
      rw [e, patternMag_fields mb _ _ (by omega), if_neg (by omega), Nat.add_sub_cancel, Nat.add_sub_cancel' (by omega)]

/-- The word of a sign and a pattern. -/
def wordOf (p : Prec) (n : Bool) (w : Nat) : XWord := BitVec.ofNat 64 (signPart p n + w)

theorem wordOf_spec {p : Prec} {n : Bool} {w : Nat} (hw : w < 2 ^ (p.mb + p.eb)) :
    pattern p (wordOf p n w) = w ∧ negBit p (wordOf p n w) = n ∧ (wordOf p n w).toNat < 2 ^ (1 + p.eb + p.mb) := by
  have hn : negBit p (wordOf p n w) = decide (2 ^ (p.eb + p.mb) ≤ (wordOf p n w).toNat % 2 ^ (precTy p).width) := negBit_eq ..
  rw [hn, precTy_width, pattern, wordOf, BitVec.toNat_ofNat, signPart]
  cases p <;> cases n <;> simp only [Prec.mb, Prec.eb, if_true, Bool.false_eq_true, if_false] at * <;> refine ⟨by omega, ?_, by omega⟩
  · exact decide_eq_false (by omega)
  · exact decide_eq_true (by omega)
  · exact decide_eq_false (by omega)
  · exact decide_eq_true (by omega)

end Sys2Proof.Machine
end

section
/-! A number rounded to binary32 or binary64 (spec/04_scalar.md R82, spec/12_numbers.md R280, R282): the nearest value of the format, with its flags. -/

namespace Sys2Proof.Machine

/-- The leading digit of a value. -/
theorem Digits.bounds {m : Nat} {e : Int} {up : Bool} {x : ℝ} (h : Digits m e up x) (hm : m ≠ 0) :
    (2 : ℝ) ^ topExp m e ≤ x ∧ x < 2 ^ (topExp m e + 1) := by
  have he : (0 : ℝ) < 2 ^ e := by positivity
  have hlo : ((2 ^ Nat.log2 m : Nat) : ℝ) ≤ m := by exact_mod_cast Nat.log2_self_le hm
  have hhi : (m : ℝ) + 1 ≤ (2 ^ (Nat.log2 m + 1) : Nat) := by exact_mod_cast Nat.lt_log2_self
  push_cast at hlo hhi
  rw [topExp, add_assoc, zpow_add₀ (by norm_num), zpow_add₀ (by norm_num), zpow_natCast, ← Nat.cast_succ, zpow_natCast,
    Nat.succ_eq_add_one]
  rw [Digits] at h
  split at h
  · exact ⟨by nlinarith, by nlinarith⟩
  · exact ⟨by nlinarith, by nlinarith⟩

/-- A power of two in units of the smallest subnormal. -/
theorem zpow_mul_scale {p : Prec} {q : Int} (h : -(p.scale : Int) ≤ q) : (2 : ℝ) ^ q * 2 ^ p.scale = 2 ^ (q + p.scale).toNat := by
  rw [← zpow_natCast, ← zpow_natCast, ← zpow_add₀ (by norm_num), Int.toNat_of_nonneg (by omega)]

/-- Digits that are marked as going on leave more than the bits of the format. -/
def Enough (p : Prec) (m : Nat) (up : Bool) : Prop := m ≠ 0 ∧ (up = true → 2 ^ (p.mb + 1) ≤ m)

theorem Enough.lt_topExp {p : Prec} {m : Nat} {up : Bool} (h : Enough p m up) (e : Int) (hu : up = true) : e < topExp m e - p.mb := by
  have := (Nat.le_log2 h.1).2 (h.2 hu)
  rw [topExp]
  omega

/-- What is kept of a value, in units of the smallest subnormal. -/
theorem kept_spec {p : Prec} {m : Nat} {e : Int} {up : Bool} {x : ℝ} (hx : Digits m e up x) (hm : Enough p m up) :
    Kept p.mb (kept p m e up).1 (unitExp p m e + p.scale).toNat (x * 2 ^ p.scale)
    ∧ ((kept p m e up).2 = false ↔ x * 2 ^ p.scale = (kept p m e up).1 * 2 ^ (unitExp p m e + p.scale).toNat) := by
  obtain ⟨hlo, hhi⟩ := hx.bounds hm.1
  have hs : (0 : ℝ) < 2 ^ p.scale := by positivity
  have hq : -(p.scale : Int) ≤ unitExp p m e := le_max_right ..
  have htop : topExp m e - p.mb ≤ unitExp p m e := le_max_left ..
  obtain ⟨hnear, hexact⟩ := roundUnit_nearest hx fun hu => lt_of_lt_of_le (hm.lt_topExp e hu) htop
  have hpow (n : Nat) (q : Int) : (2 : ℝ) ^ n * 2 ^ q = 2 ^ (q + n) := by rw [add_comm, zpow_add₀ (by norm_num), zpow_natCast]
  rw [kept, ← zpow_mul_scale hq]
  refine ⟨⟨?_, ?_, fun hQ => ?_⟩, ?_⟩
  · rw [← zpow_mul_scale hq]; exact hnear.mul hs
  · rw [← zpow_mul_scale hq, ← mul_assoc, hpow, mul_lt_mul_iff_left₀ hs]
    exact hhi.trans_le (zpow_le_zpow_right₀ (by norm_num) (by push_cast; omega))
  · have hqe : unitExp p m e = topExp m e - p.mb := by rw [unitExp] at hq hQ ⊢; omega
    rw [← zpow_mul_scale hq, ← mul_assoc, hpow, mul_le_mul_iff_left₀ hs]
    rwa [hqe, sub_add_cancel]
  · rw [hexact, ← mul_assoc]
    exact (mul_left_inj' hs.ne').symm

/-- Rounding with an unbounded exponent leaves a value below the normal numbers exactly where it is further than a quarter of a unit below them (R282):
there the unit is half the smallest subnormal, and a tie goes to the even number, the normal one. -/
theorem belowNormal_iff {p : Prec} {m : Nat} {e : Int} {up : Bool} {x : ℝ} (hx : Digits m e up x) (hm : Enough p m up) :
    belowNormal p m e up = true ↔ 4 * (x * 2 ^ p.scale) < 2 ^ (p.mb + 2) - 1 := by
  obtain ⟨hlo, hhi⟩ := hx.bounds hm.1
  have hs : (0 : ℝ) < 2 ^ p.scale := by positivity
  have hmb : (1 : ℝ) ≤ 2 ^ p.mb := by exact_mod_cast Nat.two_pow_pos p.mb
  have h2 : (2 : ℝ) ^ (p.mb + 2) = 4 * 2 ^ p.mb := by rw [pow_add]; ring
  have hu : (0 : ℝ) < 2 ^ (topExp m e - p.mb) := by positivity
  have hnear : Nearest (keptFree p m e up) (2 ^ (topExp m e - p.mb)) x := (roundUnit_nearest hx fun hup => hm.lt_topExp e hup).1
  have hpow (n : Nat) : ((2 ^ n : Nat) : ℝ) * 2 ^ (topExp m e - p.mb) = 2 ^ (topExp m e - p.mb + n) := by
    rw [add_comm, zpow_add₀ (by norm_num), zpow_natCast, Nat.cast_pow, Nat.cast_ofNat]
  have hscale (q : Int) : (2 : ℝ) ^ q * 2 ^ p.scale = 2 ^ (q + p.scale) := by rw [zpow_add₀ (by norm_num), zpow_natCast]
  have hge : 2 ^ p.mb ≤ keptFree p m e up := hnear.le_of_le hu (by rw [hpow, sub_add_cancel]; exact hlo)
  have hle : keptFree p m e up ≤ 2 ^ (p.mb + 1) := hnear.le_of_lt hu (by
    rw [hpow, Nat.cast_succ, ← add_assoc, sub_add_cancel]; exact hhi)
  have heven := hnear.even_le_iff (n := 2 ^ (p.mb + 1)) hu (by rw [Nat.pow_succ]; omega)
  have hpos := Nat.two_pow_pos p.mb
  have hlog : Nat.log2 (keptFree p m e up) = if 2 ^ (p.mb + 1) ≤ keptFree p m e up then p.mb + 1 else p.mb := by
    rw [Nat.log2_eq_iff (by omega)]
    split <;> simp only [Nat.pow_succ] at * <;> omega
  have hdef : belowNormal p m e up = true ↔ topExp m e + (if 2 ^ (p.mb + 1) ≤ keptFree p m e up then 1 else 0) < p.mb - p.scale := by
    rw [belowNormal, Bool.and_eq_true, decide_eq_true_eq, decide_eq_true_eq, topExp.eq_def (keptFree p m e up), hlog]
    split <;> omega
  rw [hdef, h2]
  rcases lt_trichotomy (topExp m e + 1) (p.mb - p.scale) with ht | ht | ht
  · have hy : x * 2 ^ p.scale < 2 ^ p.mb / 2 := by
      calc x * 2 ^ p.scale < 2 ^ (topExp m e + 1) * 2 ^ p.scale := mul_lt_mul_of_pos_right hhi hs
        _ = 2 ^ (topExp m e + 1 + p.scale) := hscale _
        _ ≤ 2 ^ ((p.mb : Int) - 1) := zpow_le_zpow_right₀ (by norm_num) (by omega)
        _ = 2 ^ p.mb / 2 := by rw [zpow_sub_one₀ (by norm_num), zpow_natCast]; ring
    exact iff_of_true (by split <;> omega) (by linarith)
  · have hunit : (2 : ℝ) ^ (topExp m e - p.mb) * 2 ^ p.scale = 1 / 2 := by
      rw [hscale, show topExp m e - p.mb + p.scale = -1 by omega]; norm_num
    have hx2 : ((2 ^ (p.mb + 1) : Nat) : ℝ) * 2 ^ (topExp m e - p.mb) - 2 ^ (topExp m e - p.mb) / 2 ≤ x
        ↔ 4 * 2 ^ p.mb - 1 ≤ 4 * (x * 2 ^ p.scale) := by
      rw [← mul_le_mul_iff_left₀ hs, sub_mul, mul_assoc, div_mul_eq_mul_div, hunit, Nat.cast_pow, Nat.cast_ofNat, pow_succ]
      constructor <;> intro h <;> linarith
    have hkept := not_congr (heven.trans hx2)
    rw [@not_le ℝ] at hkept
    rw [← hkept]
    split <;> omega
  · have hy : (2 : ℝ) ^ p.mb ≤ x * 2 ^ p.scale := by
      calc (2 : ℝ) ^ p.mb = 2 ^ (p.mb : Int) := (zpow_natCast ..).symm
        _ ≤ 2 ^ (topExp m e + p.scale) := zpow_le_zpow_right₀ (by norm_num) (by omega)
        _ = 2 ^ topExp m e * 2 ^ p.scale := (hscale _).symm
        _ ≤ x * 2 ^ p.scale := mul_le_mul_of_nonneg_right hlo hs.le
    exact iff_of_false (by split <;> omega) (by linarith)

/-- The infinity of a sign. -/
def infWord (p : Prec) (n : Bool) : XWord := BitVec.ofNat 64 ((if n then 2 ^ (p.mb + p.eb) else 0) + (2 ^ p.eb - 1) * 2 ^ p.mb)

/-- `r` is the rounded result of a value with the sign `n` whose magnitude, in units of the smallest subnormal and taken four times, is at most `z`
where `le z`, at least `z` where `ge z`. -/
def Rounds (p : Prec) (n : Bool) (le ge : Nat → Prop) (r : XWord × BitVec 5) : Prop :=
  let greatest := (2 ^ (p.mb + 1) - 1) * 2 ^ (2 ^ p.eb - 3)
  let m := mag p r.1
  let exact := le (4 * m) ∧ ge (4 * m)
  (ge (2 * (greatest + 2 ^ (p.mb + 1) * 2 ^ (2 ^ p.eb - 3))) → r = (infWord p n, 0x14))
  ∧ (¬ ge (2 * (greatest + 2 ^ (p.mb + 1) * 2 ^ (2 ^ p.eb - 3))) →
      Finite p r.1 ∧ negBit p r.1 = n ∧ r.1.toNat < 2 ^ (1 + p.eb + p.mb)
      ∧ (∀ y, Finite p y →
          (m < mag p y → le (2 * (m + mag p y)) ∧ (ge (2 * (m + mag p y)) → frField p r.1 % 2 = 0))
          ∧ (mag p y < m → ge (2 * (m + mag p y)) ∧ (le (2 * (m + mag p y)) → frField p r.1 % 2 = 0)))
      ∧ (exact → r.2 = 0) ∧ (¬ exact → ge (2 ^ (p.mb + 2) - 1) → r.2 = 0x10) ∧ (¬ exact → ¬ ge (2 ^ (p.mb + 2) - 1) → r.2 = 0x18))

/-- `r` is the rounded result of the sign `n` and the magnitude `x`, in units of the smallest subnormal. -/
def RoundsTo (p : Prec) (n : Bool) (x : ℝ) (r : XWord × BitVec 5) : Prop := Rounds p n (fun z => 4 * x ≤ z) (fun z => (z : ℝ) ≤ 4 * x) r

/-- Bounds on a magnitude in other terms. -/
theorem RoundsTo.rounds {p : Prec} {n : Bool} {x : ℝ} {r : XWord × BitVec 5} {le ge : Nat → Prop} (h : RoundsTo p n x r)
    (hle : ∀ z : Nat, le z ↔ 4 * x ≤ z) (hge : ∀ z : Nat, ge z ↔ z ≤ 4 * x) : Rounds p n le ge r := by
  obtain rfl : le = fun z : Nat => 4 * x ≤ z := funext fun z => propext (hle z)
  obtain rfl : ge = fun z : Nat => (z : ℝ) ≤ 4 * x := funext fun z => propext (hge z)
  exact h

/-- The overflow threshold, half a unit above the largest number. -/
theorem overflow_threshold {p : Prec} {x : ℝ} :
    ((2 * ((2 ^ (p.mb + 1) - 1) * 2 ^ (2 ^ p.eb - 3) + 2 ^ (p.mb + 1) * 2 ^ (2 ^ p.eb - 3)) : Nat) : ℝ) ≤ 4 * x
      ↔ (2 ^ (p.mb + 2) - 1 : ℝ) * 2 ^ (2 ^ p.eb - 3) ≤ 2 * x := by
  generalize 2 ^ p.eb - 3 = E
  have h1 : 1 ≤ 2 ^ (p.mb + 1) := Nat.one_le_two_pow
  push_cast [h1]
  rw [pow_add (2 : ℝ) p.mb 2, pow_succ (2 : ℝ) p.mb]
  constructor <;> intro h <;> linarith

/-- A magnitude is a number of bits of the format and a power of two. -/
theorem mag_bits (p : Prec) (y : XWord) : ∃ f j, f < 2 ^ (p.mb + 1) ∧ mag p y = f * 2 ^ j := by
  have hf := frField_lt p y
  have h2 : 2 ^ (p.mb + 1) = 2 * 2 ^ p.mb := Nat.pow_succ'
  rw [mag]
  split
  · exact ⟨frField p y, 0, by omega, by omega⟩
  · exact ⟨_, _, by omega, rfl⟩

/-- A code that is no infinity. -/
theorem finite_iff_pattern (p : Prec) (y : XWord) : Finite p y ↔ pattern p y < (2 ^ p.eb - 1) * 2 ^ p.mb := by
  have hf := frField_lt p y
  have he : exField p y = pattern p y / 2 ^ p.mb := by
    rw [pattern_eq, Nat.mul_add_div (Nat.two_pow_pos _), Nat.div_eq_of_lt hf, Nat.add_zero]
  rw [Finite, he, Nat.div_lt_iff_lt_mul (Nat.two_pow_pos _)]

/-- The kept units are above the largest number where the model's test says so. -/
theorem scaledGt_largest {p : Prec} {k : Nat} {q : Int} (hq : -(p.scale : Int) ≤ q) :
    scaledGt k q (2 ^ p.mb + (2 ^ p.mb - 1)) ((2 ^ p.eb - 2 : Nat) - (precTy p).bias - p.mb) = true
      ↔ (2 ^ (p.mb + 1) - 1) * 2 ^ (2 ^ p.eb - 3) < k * 2 ^ (q + p.scale).toNat := by
  have hs : (0 : ℝ) < 2 ^ p.scale := by positivity
  have hb := precTy_bias p
  have he : 3 ≤ 2 ^ p.eb := by cases p <;> decide
  have hmb := Nat.two_pow_pos p.mb
  have hsig : 2 ^ p.mb + (2 ^ p.mb - 1) = 2 ^ (p.mb + 1) - 1 := by rw [Nat.pow_succ]; omega
  have hexp : ((2 ^ p.eb - 2 : Nat) - (precTy p).bias - p.mb : Int) = (2 ^ p.eb - 3 : Nat) - (p.scale : Int) := by omega
  have hexp' : (((2 ^ p.eb - 3 : Nat) : Int) - (p.scale : Int) + p.scale).toNat = 2 ^ p.eb - 3 := by omega
  rw [scaledGt_iff, ← mul_lt_mul_iff_left₀ hs, mul_assoc, mul_assoc, zpow_mul_scale hq, hexp, zpow_mul_scale (by omega), hexp', hsig]
  exact_mod_cast Iff.rfl

/-- The least bit of the fraction is that of the pattern. -/
theorem frField_mod_two (p : Prec) (y : XWord) : frField p y % 2 = pattern p y % 2 := by
  cases p <;> (simp only [frField, pattern, Prec.mb, Prec.eb]; omega)

/-- What the word of the units kept reads as, where they are not above the largest number. -/
theorem wordOf_kept {p : Prec} {n : Bool} {k Q : Nat} {x : ℝ} (h : Kept p.mb k Q x)
    (hle : ¬ (2 ^ (p.mb + 1) - 1) * 2 ^ (2 ^ p.eb - 3) < k * 2 ^ Q) :
    Finite p (wordOf p n (Q * 2 ^ p.mb + k)) ∧ negBit p (wordOf p n (Q * 2 ^ p.mb + k)) = n
    ∧ (wordOf p n (Q * 2 ^ p.mb + k)).toNat < 2 ^ (1 + p.eb + p.mb) ∧ mag p (wordOf p n (Q * 2 ^ p.mb + k)) = k * 2 ^ Q
    ∧ frField p (wordOf p n (Q * 2 ^ p.mb + k)) % 2 = k % 2 := by
  have hmb := Nat.two_pow_pos p.mb
  have heb : 3 ≤ 2 ^ p.eb := by cases p <;> decide
  have hpat := patternMag_kept (Q := Q) h.le h.ge
  have hlt : Q * 2 ^ p.mb + k < (2 ^ p.eb - 1) * 2 ^ p.mb := by
    by_contra hge
    have hlargest : patternMag p.mb (2 ^ p.mb * (2 ^ p.eb - 2) + (2 ^ p.mb - 1)) = (2 ^ (p.mb + 1) - 1) * 2 ^ (2 ^ p.eb - 3) := by
      have hne : 2 ^ p.eb - 2 ≠ 0 := by omega
      have hsig : 2 ^ p.mb + (2 ^ p.mb - 1) = 2 ^ (p.mb + 1) - 1 := by rw [Nat.pow_succ]; omega
      have hexp : 2 ^ p.eb - 2 - 1 = 2 ^ p.eb - 3 := by omega
      rw [patternMag_fields _ _ _ (by omega), if_neg hne, hsig, hexp]
    have hpred : 2 ^ p.mb * (2 ^ p.eb - 2) + 2 ^ p.mb = (2 ^ p.eb - 1) * 2 ^ p.mb := by
      rw [← Nat.mul_succ, Nat.mul_comm]
      congr 1
      omega
    apply hle
    rw [← hlargest, ← hpat]
    exact patternMag_strictMono p.mb (by omega)
  obtain ⟨hp, hn, hb⟩ := wordOf_spec (p := p) (n := n) (w := Q * 2 ^ p.mb + k) (by
    refine hlt.trans_le ?_
    rw [Nat.pow_add, Nat.mul_comm]
    exact Nat.mul_le_mul_left _ (Nat.sub_le ..))
  refine ⟨(finite_iff_pattern ..).2 (hp.symm ▸ hlt), hn, hb, by rw [mag_eq_patternMag, hp, hpat], ?_⟩
  rw [frField_mod_two, hp, Nat.add_mod, Nat.mul_mod, show 2 ^ p.mb % 2 = 0 by cases p <;> rfl]
  omega

/-- A value that is not zero, rounded (R82, R280, R282). -/
theorem roundFp_roundsTo {p : Prec} {n : Bool} {m : Nat} {e : Int} {up : Bool} {x : ℝ} (hx : Digits m e up x) (hm : Enough p m up) :
    RoundsTo p n (x * 2 ^ p.scale) (roundFp (precTy p) .rne .inf (.fin n m e up)).scalar := by
  obtain ⟨hkept, hinexact⟩ := kept_spec hx hm
  have hbelow := belowNormal_iff hx hm
  have hq : -(p.scale : Int) ≤ unitExp p m e := le_max_right ..
  have hQ : (unitExp p m e ≠ -(p.scale : Int)) → (unitExp p m e + p.scale).toNat ≠ 0 := by omega
  have hgt := scaledGt_largest (k := (kept p m e up).1) hq
  have hx0 : 0 < x * 2 ^ p.scale := mul_pos (lt_of_lt_of_le (by positivity) (hx.bounds hm.1).1) (by positivity)
  rw [roundFp_fin (fun h => hm.1 h.1) (fun h => hkept.ge (hQ h)) hkept.le, RoundsTo, Rounds]
  simp only [overflow_threshold, ← hkept.overflow_iff, ← hgt]
  generalize x * 2 ^ p.scale = y at *
  generalize (unitExp p m e + p.scale).toNat = Q at *
  generalize (kept p m e up).1 = k at *
  generalize (kept p m e up).2 = ix at *
  constructor
  · intro h
    rw [if_pos h, Rounded.scalar, FTy.inf, FTy.code, precTy_ebits, precTy_mbits, infWord, Nat.add_comm p.mb]
    rfl
  · intro h
    obtain ⟨hfin, hneg, hsize, hmag, hpar⟩ := wordOf_kept (n := n) hkept (mt hgt.2 h)
    rw [if_neg h]
    generalize hfl : (if k = 0 then fUF ||| fNX else flagIf (belowNormal p m e up && ix) fUF ||| flagIf ix fNX) = fl
    have hr : Rounded.scalar { bits := signPart p n + (Q * 2 ^ p.mb + k), flags := fl } = (wordOf p n (Q * 2 ^ p.mb + k), fl) := rfl
    rw [hr]
    simp only [hmag, hpar]
    refine ⟨hfin, hneg, hsize, fun v hv => ?_, ?_⟩
    · obtain ⟨f, j, hf, hvm⟩ := mag_bits p v
      rw [hvm]
      exact hkept.nearest_number hf
    · have hex : (4 * y ≤ (4 * (k * 2 ^ Q) : Nat) ∧ ((4 * (k * 2 ^ Q) : Nat) : ℝ) ≤ 4 * y) ↔ ix = false := by
        rw [hinexact]
        push_cast
        exact ⟨fun h => by linarith [h.1, h.2], fun h => ⟨by linarith, by linarith⟩⟩
      have hbl : ((2 ^ (p.mb + 2) - 1 : Nat) : ℝ) ≤ 4 * y ↔ belowNormal p m e up = false := by
        rw [← Bool.not_eq_true, hbelow, not_lt]
        push_cast [Nat.one_le_two_pow]
        rfl
      have hzero : k = 0 → ix = true ∧ belowNormal p m e up = true := by
        rintro rfl
        have hQ0 : Q = 0 := by
          by_contra hQ0
          exact absurd (hkept.ge hQ0) (Nat.not_le.2 (Nat.two_pow_pos _))
        have hup := hkept.nearest.upper
        rw [hQ0] at hup
        have hmb : (1 : ℝ) ≤ 2 ^ p.mb := by exact_mod_cast Nat.two_pow_pos p.mb
        refine ⟨by simpa [hx0.ne'] using hinexact, hbelow.2 ?_⟩
        rw [pow_add]
        norm_num at hup ⊢
        linarith
      rw [hex, hbl, ← hfl]
      by_cases hk : k = 0
      · rw [(hzero hk).1, (hzero hk).2, if_pos hk]; decide
      · rw [if_neg hk]
        cases ix <;> cases belowNormal p m e up <;> decide

end Sys2Proof.Machine
end

section
/-! The arithmetic operations (spec/04_scalar.md R82 to R84): each rounds its exact result once. -/

namespace Sys2Proof.Machine

/-- The word of a zero is exact. -/
theorem roundsTo_zero (p : Prec) (n : Bool) (e : Int) : RoundsTo p n 0 (roundFp (precTy p) .rne .inf (.fin n 0 e false)).scalar := by
  have hr : (roundFp (precTy p) .rne .inf (.fin n 0 e false)).scalar = (wordOf p n 0, 0) := by
    rw [roundFp, if_pos ⟨rfl, rfl⟩, FTy.code, precTy_ebits, precTy_mbits, Nat.zero_mul]; rfl
  obtain ⟨hp, hn, hs⟩ := wordOf_spec (p := p) (n := n) (w := 0) (Nat.two_pow_pos _)
  have hm : mag p (wordOf p n 0) = 0 := (mag_eq_zero_iff ..).2 hp
  rw [RoundsTo, Rounds, hr]
  simp only [hm, mul_zero]
  refine ⟨fun h => absurd h (not_le.2 (Nat.cast_pos.2 (by positivity))), fun _ => ⟨?_, hn, hs,
    fun y _ => ⟨fun hy => ⟨by positivity, fun hle => ?_⟩, nofun⟩, fun _ => trivial, ?_, ?_⟩⟩
  · rw [finite_iff_pattern, hp]; cases p <;> decide
  · have : 2 * (0 + mag p y) ≤ 0 := by exact_mod_cast hle
    omega
  · simp
  · simp

/-- A value rounded, zero or not. -/
theorem roundFp_roundsTo_value {p : Prec} {n : Bool} {m : Nat} {e : Int} {up : Bool} {x y : ℝ} (hx : Digits m e up x)
    (hm : up = true → 2 ^ (p.mb + 1) ≤ m) (hy : x = y * 2 ^ (-(p.scale : Int))) :
    RoundsTo p n y (roundFp (precTy p) .rne .inf (.fin n m e up)).scalar := by
  have hxy : y = x * 2 ^ p.scale := by
    rw [hy, mul_assoc, zpow_mul_scale (le_refl _)]; simp
  by_cases h0 : m = 0
  · subst h0
    have hup : up = false := by
      by_contra hup
      exact absurd (hm (by simpa using hup)) (Nat.not_le.2 (Nat.two_pow_pos _))
    subst hup
    have hx0 : x = 0 := by simpa [Digits] using hx
    rw [hxy, hx0, zero_mul]
    exact roundsTo_zero p n e
  · rw [hxy]
    exact roundFp_roundsTo hx ⟨h0, hm⟩

/-- Rounding an exact value that raises no flag of its own. -/
theorem Exact.round_scalar (v : Val) (t : FTy) : ((⟨v, 0⟩ : Exact).round t).scalar = (roundFp t .rne .inf v).scalar := by
  exact congrArg (Prod.mk _) BitVec.or_zero

theorem sgn_not (n : Bool) : sgn (!n) = -sgn n := by cases n <;> simp [sgn]
theorem sgn_xor (n n' : Bool) : sgn (n ^^ n') = sgn n * sgn n' := by cases n <;> cases n' <;> simp [sgn]

/-- The exact sum of two numbers, which is `i / den` in units of the smallest subnormal, rounded (R83). -/
theorem addVal_roundsTo {p : Prec} {n n' : Bool} {m m' : Nat} {e e' : Int} {u u' : Bool} {i : Int} {den : Nat} (hden : 0 < den)
    (h : (i : ℝ) / den * 2 ^ (-(p.scale : Int)) = sgn n * (m * 2 ^ e) + sgn n' * (m' * 2 ^ e')) :
    RoundsTo p (if i = 0 then n && n' else decide (i < 0)) (i.natAbs / den)
      ((addVal (.fin n m e u) (.fin n' m' e' u')).round (precTy p)).scalar := by
  have hd : (0 : ℝ) < den := by exact_mod_cast hden
  have hs : (0 : ℝ) < 2 ^ (-(p.scale : Int)) := by positivity
  have hq : (0 : ℝ) < 2 ^ min e e' := by positivity
  rw [addVal]
  have hv : ((units n m e (min e e') + units n' m' e' (min e e') : Int) : ℝ) * 2 ^ min e e' = (i : ℝ) / den * 2 ^ (-(p.scale : Int)) := by
    rw [h, Int.cast_add, add_mul, units_mul _ _ (min_le_left ..), units_mul _ _ (min_le_right ..)]
  generalize units n m e (min e e') + units n' m' e' (min e e') = v at *
  generalize min e e' = q at *
  have hc : (0 : ℝ) < 2 ^ (-(p.scale : Int)) / den / 2 ^ q := by positivity
  have hvi : (v : ℝ) = i * (2 ^ (-(p.scale : Int)) / den / 2 ^ q) := by field_simp at hv ⊢; linarith
  have hv0 : v = 0 ↔ i = 0 := by
    rw [← Int.cast_eq_zero (α := ℝ), hvi, mul_eq_zero, Int.cast_eq_zero, or_iff_left hc.ne']
  have hvneg : v < 0 ↔ i < 0 := by
    rw [← Int.cast_lt_zero (R := ℝ), hvi, ← neg_pos, ← neg_mul, mul_pos_iff_of_pos_right hc, neg_pos, Int.cast_lt_zero]
  by_cases h0 : i = 0
  · rw [if_pos h0, if_pos (hv0.2 h0), h0, Int.natAbs_zero, Nat.cast_zero, zero_div, Exact.round_scalar]
    exact roundsTo_zero ..
  · rw [if_neg h0, if_neg (mt hv0.1 h0), Exact.round_scalar, decide_eq_decide.2 hvneg]
    refine roundFp_roundsTo_value (x := |(v : ℝ)| * 2 ^ q) ?_ nofun ?_
    · simp [Digits, Nat.cast_natAbs]
    · rw [Nat.cast_natAbs, Int.cast_abs, ← abs_of_pos hq, ← abs_mul, hv, abs_mul, abs_div, abs_of_pos hs, abs_of_pos hd]

/-- `r` is `num / den` rounded. -/
def NearestTo (p : Prec) (n : Bool) (num den : Nat) (r : XWord × BitVec 5) : Prop :=
  Rounds p n (fun z => 4 * num ≤ z * den) (fun z => z * den ≤ 4 * num) r

/-- `r` is `i / den` rounded, with the sign `z` for a zero. -/
def SumTo (p : Prec) (i : Int) (den : Nat) (z : Bool) (r : XWord × BitVec 5) : Prop :=
  NearestTo p (if i = 0 then z else decide (i < 0)) i.natAbs den r

theorem RoundsTo.nearestTo {p : Prec} {n : Bool} {num den : Nat} {r : XWord × BitVec 5} (hd : 0 < den) (h : RoundsTo p n (num / den) r) :
    NearestTo p n num den r := by
  have hd' : (0 : ℝ) < den := by exact_mod_cast hd
  refine h.rounds (fun z => ?_) fun z => ?_
  · rw [mul_div_assoc', div_le_iff₀ hd']; exact_mod_cast Iff.rfl
  · rw [mul_div_assoc', le_div_iff₀ hd']; exact_mod_cast Iff.rfl

theorem faddFn_sumTo {p : Prec} {a b : XWord} (ha : Finite p a) (hb : Finite p b) :
    SumTo p (intVal p a + intVal p b) 1 (negBit p a && negBit p b) (faddFn p a b) := by
  obtain ⟨m, e, hfa, -, hva⟩ := fpIn_finite ha
  obtain ⟨m', e', hfb, -, hvb⟩ := fpIn_finite hb
  rw [faddFn, hfa, hfb]
  refine (addVal_roundsTo Nat.one_pos ?_).nearestTo Nat.one_pos
  rw [hva, hvb, ← intVal_mul, ← intVal_mul]
  push_cast
  ring

theorem fsubFn_sumTo {p : Prec} {a b : XWord} (ha : Finite p a) (hb : Finite p b) :
    SumTo p (intVal p a - intVal p b) 1 (negBit p a && !negBit p b) (fsubFn p a b) := by
  obtain ⟨m, e, hfa, -, hva⟩ := fpIn_finite ha
  obtain ⟨m', e', hfb, -, hvb⟩ := fpIn_finite hb
  rw [fsubFn, hfa, hfb]
  refine (addVal_roundsTo Nat.one_pos ?_).nearestTo Nat.one_pos
  rw [hva, hvb, sgn_not, neg_mul, ← intVal_mul, ← intVal_mul]
  push_cast
  ring

/-- The product of two finite words, in the model's digits. -/
theorem mulVal_finite {p : Prec} {a b : XWord} (ha : Finite p a) (hb : Finite p b) : ∃ m e,
    mulVal (fpIn p a) (fpIn p b) = ⟨.fin (negBit p a ^^ negBit p b) m e false, 0⟩
    ∧ (m : ℝ) * 2 ^ e = (mag p a * mag p b : Nat) / (2 ^ p.scale : Nat) * 2 ^ (-(p.scale : Int)) := by
  obtain ⟨m, e, hfa, -, hva⟩ := fpIn_finite ha
  obtain ⟨m', e', hfb, -, hvb⟩ := fpIn_finite hb
  refine ⟨m * m', e + e', by rw [hfa, hfb]; rfl, ?_⟩
  calc ((m * m' : Nat) : ℝ) * 2 ^ (e + e') = (m * 2 ^ e) * (m' * 2 ^ e') := by rw [zpow_add₀ (by norm_num)]; push_cast; ring
    _ = _ := by rw [hva, hvb, zpow_neg, zpow_natCast]; push_cast; field_simp

theorem fmulFn_nearestTo {p : Prec} {a b : XWord} (ha : Finite p a) (hb : Finite p b) :
    NearestTo p (negBit p a ^^ negBit p b) (mag p a * mag p b) (2 ^ p.scale) (fmulFn p a b) := by
  obtain ⟨m, e, hv, hx⟩ := mulVal_finite ha hb
  rw [fmulFn, hv, Exact.round_scalar]
  exact RoundsTo.nearestTo (Nat.two_pow_pos _) (roundFp_roundsTo_value rfl nofun hx)

theorem fmaFn_sumTo {p : Prec} {a b c : XWord} (ha : Finite p a) (hb : Finite p b) (hc : Finite p c) :
    SumTo p (intVal p a * intVal p b + intVal p c * 2 ^ p.scale) (2 ^ p.scale) ((negBit p a ^^ negBit p b) && negBit p c) (fmaFn p a b c) := by
  obtain ⟨m, e, hv, hx⟩ := mulVal_finite ha hb
  obtain ⟨m', e', hfc, -, hvc⟩ := fpIn_finite hc
  have hfma : fmaVal (fpIn p a) (fpIn p b) (fpIn p c)
      = addVal (.fin (negBit p a ^^ negBit p b) m e false) (.fin (negBit p c) m' e' false) := by
    obtain ⟨_, _, hfa, -, -⟩ := fpIn_finite ha
    obtain ⟨_, _, hfb, -, -⟩ := fpIn_finite hb
    rw [fmaVal, hv, hfa, hfb, hfc]; rfl
  rw [fmaFn, hfma]
  refine (addVal_roundsTo (Nat.two_pow_pos _) ?_).nearestTo (Nat.two_pow_pos _)
  have hs : (0 : ℝ) < 2 ^ p.scale := by positivity
  have hint (x : XWord) : (intVal p x : ℝ) = sgn (negBit p x) * mag p x := by
    rw [intVal, sgn]; split <;> push_cast <;> ring
  rw [hx, hvc, sgn_xor]
  push_cast
  rw [hint, hint, hint]
  field_simp

/-- The digits of a quotient, marked where a remainder is left. -/
theorem digits_div {a b : Nat} (hb : 0 < b) (e : Int) : Digits (a / b) e (decide (a % b ≠ 0)) ((a : ℝ) / b * 2 ^ e) := by
  have hb' : (0 : ℝ) < b := by exact_mod_cast hb
  have he : (0 : ℝ) < 2 ^ e := by positivity
  have ha : (b : ℝ) * (a / b : Nat) + (a % b : Nat) = a := by exact_mod_cast Nat.div_add_mod a b
  have hq : (a : ℝ) / b = (a / b : Nat) + (a % b : Nat) / b := by rw [← ha]; field_simp
  rw [Digits, hq]
  by_cases hr : a % b = 0
  · simp [hr]
  · have hr0 : (0 : ℝ) < (a % b : Nat) := by exact_mod_cast Nat.pos_of_ne_zero hr
    have hr1 : ((a % b : Nat) : ℝ) / b < 1 := by rw [div_lt_one hb']; exact_mod_cast Nat.mod_lt a hb
    have hr2 : (0 : ℝ) < (a % b : Nat) / b := by positivity
    rw [if_pos (by simpa using hr)]
    exact ⟨mul_lt_mul_of_pos_right (by linarith) he, mul_lt_mul_of_pos_right (by linarith) he⟩

/-- The quotient of two numbers that are not zero, in the model's digits (R83). -/
theorem divVal_fin {n n' : Bool} {m m' : Nat} {e e' : Int} {u u' : Bool} (h : m ≠ 0) (h' : m' ≠ 0) :
    divVal (.fin n m e u) (.fin n' m' e' u')
      = ⟨.fin (n ^^ n') (m * 2 ^ (Nat.log2 m' + 80) / m') (e - e' - (Nat.log2 m' + 80 : Nat)) (decide (m * 2 ^ (Nat.log2 m' + 80) % m' ≠ 0)), 0⟩ := by
  simp only [divVal, Val.isNan, Bool.or_self, Bool.false_eq_true, if_false, if_neg h, if_neg h', Val.neg?]

theorem fdivFn_nearestTo {p : Prec} {a b : XWord} (ha : Finite p a) (hb : Finite p b) (h0 : mag p b ≠ 0) :
    NearestTo p (negBit p a ^^ negBit p b) (mag p a * 2 ^ p.scale) (mag p b) (fdivFn p a b) := by
  obtain ⟨m, e, hfa, -, hva⟩ := fpIn_finite ha
  obtain ⟨m', e', hfb, -, hvb⟩ := fpIn_finite hb
  have hm' : m' ≠ 0 := mt (digits_eq_zero_iff hvb).1 h0
  rw [fdivFn, hfa, hfb]
  apply RoundsTo.nearestTo (Nat.pos_of_ne_zero h0)
  by_cases hm : m = 0
  · have hd : divVal (.fin (negBit p a) m e false) (.fin (negBit p b) m' e' false) = ⟨.fin (negBit p a ^^ negBit p b) 0 0 false, 0⟩ := by
      simp only [divVal, Val.isNan, Bool.or_self, Bool.false_eq_true, if_false, if_pos hm, if_neg hm', Val.neg?, Val.zero]
    rw [hd, Exact.round_scalar, (digits_eq_zero_iff hva).1 hm, Nat.zero_mul, Nat.cast_zero, zero_div]
    exact roundsTo_zero ..
  · rw [divVal_fin hm hm', Exact.round_scalar]
    have hlog : m' ≤ 2 ^ (Nat.log2 m' + 1) := Nat.lt_log2_self.le
    generalize hk : Nat.log2 m' + 80 = k
    refine roundFp_roundsTo_value (digits_div (Nat.pos_of_ne_zero hm') _) (fun _ => ?_) ?_
    · rw [Nat.le_div_iff_mul_le (Nat.pos_of_ne_zero hm')]
      calc 2 ^ (p.mb + 1) * m' ≤ 2 ^ 79 * 2 ^ (Nat.log2 m' + 1) :=
            Nat.mul_le_mul (Nat.pow_le_pow_right (by decide) (by cases p <;> decide)) hlog
        _ = 2 ^ k := by rw [← Nat.pow_add, ← hk]; congr 1; omega
        _ ≤ m * 2 ^ k := Nat.le_mul_of_pos_left _ (Nat.pos_of_ne_zero hm)
    · have hmag : (mag p b : ℝ) ≠ 0 := by exact_mod_cast h0
      have hm'' : (m' : ℝ) ≠ 0 := by exact_mod_cast hm'
      calc _ = ((m : ℝ) * 2 ^ e) / (m' * 2 ^ e') := by
            rw [zpow_sub₀ (by norm_num), zpow_sub₀ (by norm_num), zpow_natCast]; push_cast; field_simp
        _ = _ := by rw [hva, hvb, zpow_neg, zpow_natCast]; push_cast; field_simp

/-- The root found so far, from bit `k` down (R83). -/
theorem isqrtFrom_spec (n acc k : Nat) (hlo : acc * acc ≤ n) (hhi : n < (acc + 2 ^ k) * (acc + 2 ^ k)) :
    isqrtFrom n acc k * isqrtFrom n acc k ≤ n ∧ n < (isqrtFrom n acc k + 1) * (isqrtFrom n acc k + 1) := by
  induction k generalizing acc with
  | zero => exact ⟨hlo, hhi⟩
  | succ k ih =>
    rw [isqrtFrom]
    split
    next h => exact ih _ h (by rwa [Nat.add_assoc, ← Nat.two_mul, ← Nat.pow_succ'])
    next h => exact ih _ hlo (Nat.lt_of_not_le h)

/-- The digits of a root, marked where it is not whole. -/
theorem digits_sqrt {r n : Nat} (hlo : r * r ≤ n) (hhi : n < (r + 1) * (r + 1)) (e : Int) :
    Digits r e (decide (r * r ≠ n)) (Real.sqrt n * 2 ^ e) := by
  have he : (0 : ℝ) < 2 ^ e := by positivity
  rw [Digits]
  by_cases hr : r * r = n
  · rw [if_neg (by simpa using hr), ← hr, Nat.cast_mul, Real.sqrt_mul_self (Nat.cast_nonneg r)]
  · rw [if_pos (by simpa using hr)]
    have h1 : ((r : ℝ)) < Real.sqrt n := Real.lt_sqrt_of_sq_lt (by rw [sq]; exact_mod_cast lt_of_le_of_ne hlo hr)
    have h2 : Real.sqrt n < r + 1 := (Real.sqrt_lt' (by positivity)).2 (by rw [sq]; exact_mod_cast hhi)
    exact ⟨mul_lt_mul_of_pos_right h1 he, mul_lt_mul_of_pos_right h2 he⟩

/-- A number with an even exponent, so that its root is one of its digits' and half the exponent. -/
theorem even_exponent (m : Nat) (e : Int) :
    ((if e % 2 = 0 then m else 2 * m : Nat) : ℝ) * 2 ^ (2 * ((if e % 2 = 0 then e else e - 1) / 2)) = m * 2 ^ e := by
  split
  next h => rw [show 2 * (e / 2) = e by omega]
  next h =>
    rw [show 2 * ((e - 1) / 2) = e - 1 by omega, zpow_sub_one₀ (by norm_num)]
    push_cast
    ring

/-- The root of a number that is not zero, in the model's digits: they stand for it, and are more than those of the format. -/
theorem sqrtFin_digits {m : Nat} (hm : m ≠ 0) (e : Int) :
    ∃ r q up, sqrtFin m e = .fin false r q up ∧ Digits r q up (Real.sqrt (m * 2 ^ e)) ∧ 2 ^ 80 ≤ r := by
  have heven := even_exponent m e
  have hm' : (if e % 2 = 0 then m else 2 * m) ≠ 0 := by split <;> omega
  refine ⟨_, _, _, rfl, ?_⟩
  generalize (if e % 2 = 0 then m else 2 * m) = m' at *
  generalize (if e % 2 = 0 then e else e - 1) / 2 = h at *
  have hbig : 2 ^ 160 ≤ m' * 2 ^ 160 := Nat.le_mul_of_pos_left _ (Nat.pos_of_ne_zero hm')
  have hroot : Real.sqrt (m * 2 ^ e) = Real.sqrt (m' * 2 ^ 160 : Nat) * 2 ^ (h - 80) := by
    have hw : (0 : ℝ) ≤ 2 ^ (h - 80) := by positivity
    rw [← Real.sqrt_sq hw, ← Real.sqrt_mul' _ (sq_nonneg _), ← heven, ← zpow_natCast, ← zpow_mul]
    congr 1
    rw [show 2 * h = (h - 80) * (2 : Nat) + (160 : Nat) by push_cast; ring, zpow_add₀ (by norm_num), zpow_natCast]
    push_cast
    ring
  generalize m' * 2 ^ 160 = n at *
  obtain ⟨hlo, hhi⟩ := isqrtFrom_spec n 0 (Nat.log2 n / 2 + 1) (Nat.zero_le _) (by
    rw [Nat.zero_add, ← Nat.pow_add]
    exact Nat.lt_log2_self.trans_le (Nat.pow_le_pow_right (by decide) (by omega)))
  generalize isqrtFrom n 0 (Nat.log2 n / 2 + 1) = r at *
  rw [hroot]
  refine ⟨digits_sqrt hlo hhi _, ?_⟩
  by_contra hr
  have hle : r + 1 ≤ 2 ^ 80 := Nat.lt_of_not_le hr
  have := Nat.mul_le_mul hle hle
  rw [← Nat.pow_add] at this
  omega

theorem fsqrtFn_roundsTo {p : Prec} {a : XWord} (ha : Finite p a) (hn : negBit p a = false) :
    RoundsTo p false (Real.sqrt (mag p a * 2 ^ p.scale)) (fsqrtFn p a) := by
  obtain ⟨m, e, hfa, -, hva⟩ := fpIn_finite ha
  have he : (0 : ℝ) < 2 ^ e := by positivity
  rw [fsqrtFn, hfa, hn]
  have hy : Real.sqrt (m * 2 ^ e) = Real.sqrt (mag p a * 2 ^ p.scale) * 2 ^ (-(p.scale : Int)) := by
    have hw : (0 : ℝ) ≤ 2 ^ (-(p.scale : Int)) := by positivity
    rw [hva, ← Real.sqrt_sq hw, ← Real.sqrt_mul' _ (sq_nonneg _), Real.sqrt_sq hw, zpow_neg, zpow_natCast]
    congr 1
    field_simp
  by_cases hm : m = 0
  · have hs : sqrtVal (.fin false m e false) = ⟨.fin false 0 0 false, 0⟩ := by simp only [sqrtVal, if_pos hm, Val.zero]
    rw [hs, Exact.round_scalar]
    refine roundFp_roundsTo_value (x := Real.sqrt (m * 2 ^ e)) ?_ nofun hy
    simp [Digits, hm]
  · obtain ⟨r, q, up, hs, hd, hr⟩ := sqrtFin_digits hm e
    have hs : sqrtVal (.fin false m e false) = ⟨.fin false r q up, 0⟩ := by
      simp only [sqrtVal, if_neg hm, Bool.false_eq_true, if_false, hs]
    rw [hs, Exact.round_scalar]
    exact roundFp_roundsTo_value hd (fun _ => (Nat.pow_le_pow_right (by decide) (by cases p <;> decide)).trans hr) hy

end Sys2Proof.Machine
end

section
/-! Conversions (spec/04_scalar.md R87, R88). -/

namespace Sys2Proof.Machine

/-- A NaN rounds to the canonical one, and raises NV where it is signaling (R82). -/
theorem roundFp_nan (p : Prec) (sig : Bool) :
    (roundFp (precTy p) .rne .inf (.nan sig)).scalar = (BitVec.ofNat 64 (precTy p).nan, flagIf sig fNV) := by
  rw [roundFp, precTy_ieee]; rfl

/-- An infinity is exact. -/
theorem roundFp_inf (p : Prec) (n : Bool) : (roundFp (precTy p) .rne .inf (.inf n)).scalar = (infWord p n, 0) := by
  rw [roundFp, precTy_ieee, infWord, Nat.add_comm p.mb, FTy.inf, FTy.code, precTy_ebits, precTy_mbits]; rfl

/-- To a format whose smallest subnormal is greater. -/
theorem narrow_nearestTo {q p : Prec} {a : XWord} (k : Nat) (hk : q.scale = p.scale + k) (ha : Finite q a) :
    NearestTo p (negBit q a) (mag q a) (2 ^ k) (roundFp (precTy p) .rne .inf (fpIn q a)).scalar := by
  obtain ⟨m, e, hfa, -, hva⟩ := fpIn_finite ha
  rw [hfa]
  refine RoundsTo.nearestTo (Nat.two_pow_pos _) (roundFp_roundsTo_value rfl nofun (hva.trans ?_))
  rw [hk, Nat.cast_add, neg_add, zpow_add₀ (by norm_num), zpow_neg (2 : ℝ) k, zpow_natCast, Nat.cast_pow, Nat.cast_ofNat]
  ring

/-- To a format whose smallest subnormal is smaller. -/
theorem widen_nearestTo {q p : Prec} {a : XWord} (k : Nat) (hk : p.scale = q.scale + k) (ha : Finite q a) :
    NearestTo p (negBit q a) (mag q a * 2 ^ k) 1 (roundFp (precTy p) .rne .inf (fpIn q a)).scalar := by
  obtain ⟨m, e, hfa, -, hva⟩ := fpIn_finite ha
  rw [hfa]
  refine RoundsTo.nearestTo Nat.one_pos (roundFp_roundsTo_value rfl nofun (hva.trans ?_))
  rw [hk, Nat.cast_add, neg_add, zpow_add₀ (by norm_num), zpow_neg (2 : ℝ) k, zpow_natCast]
  push_cast
  field_simp

/-- From an integer. -/
theorem int_sumTo (p : Prec) (i : Int) : SumTo p (i * 2 ^ p.scale) 1 false (roundFp (precTy p) .rne .inf (Val.int i)).scalar := by
  have hs : (0 : Int) < 2 ^ p.scale := by positivity
  have hn : (if i * 2 ^ p.scale = 0 then false else decide (i * 2 ^ p.scale < 0)) = decide (i < 0) := by
    by_cases h0 : i = 0
    · simp [h0]
    · rw [if_neg (mul_ne_zero h0 hs.ne'), decide_eq_decide, ← neg_pos, ← neg_mul, mul_pos_iff_of_pos_right hs, neg_pos]
  rw [SumTo, hn, Val.int]
  refine RoundsTo.nearestTo Nat.one_pos (roundFp_roundsTo_value rfl nofun ?_)
  rw [Int.natAbs_mul, Int.natAbs_pow, zpow_neg, zpow_natCast]
  push_cast
  field_simp

/-- Rounding towards zero: the units that the value holds whole. -/
theorem roundUnit_rtz {m : Nat} {e q : Int} {x : ℝ} (hx : x = m * 2 ^ e) :
    (roundUnit m e q false .rtz).1 * 2 ^ q ≤ x ∧ x < ((roundUnit m e q false .rtz).1 + 1) * 2 ^ q
    ∧ ((roundUnit m e q false .rtz).2 = false ↔ x = (roundUnit m e q false .rtz).1 * 2 ^ q) := by
  by_cases h : q ≤ e
  · have hr : roundUnit m e q false .rtz = (m * 2 ^ (e - q).toNat, false) := if_pos h
    have hxk : x = (m * 2 ^ (e - q).toNat : Nat) * (2 : ℝ) ^ q := by rw [hx, zpow_eq_mul_pow h]; push_cast; ring
    have hp : (0 : ℝ) < 2 ^ q := by positivity
    rw [hr]
    exact ⟨hxk.ge, by linarith, by simp [hxk]⟩
  · have hr : roundUnit m e q false .rtz = (m / 2 ^ (q - e).toNat, decide (m % 2 ^ (q - e).toNat ≠ 0)) := by
      rw [roundUnit, if_neg h]; simp
    have he : (0 : ℝ) < 2 ^ e := by positivity
    rw [hr, hx, zpow_eq_mul_pow (Int.not_le.1 h).le]
    have hu := Nat.two_pow_pos (q - e).toNat
    generalize 2 ^ (q - e).toNat = u at *
    have hm : m = m / u * u + m % u := (Nat.div_add_mod' m u).symm
    have hlt := Nat.mod_lt m hu
    have h1 : ((m / u : Nat) : ℝ) * u ≤ m := by exact_mod_cast Nat.div_mul_le_self m u
    have h2 : (m : ℝ) < ((m / u : Nat) + 1) * u := by exact_mod_cast (by rw [Nat.add_mul]; omega : m < (m / u + 1) * u)
    refine ⟨by nlinarith, by nlinarith, ?_⟩
    rw [decide_eq_false_iff_not, not_not, mul_left_comm, mul_comm (m : ℝ), mul_right_inj' he.ne']
    constructor
    · intro h0
      rw [h0] at hm
      exact_mod_cast hm
    · intro h0
      have : m = m / u * u := by exact_mod_cast h0
      omega

/-- The nearest whole number of a quotient, in whole numbers. -/
theorem Nearest.div {n a b : Nat} (hb : 0 < b) (h : Nearest n 1 ((a : ℝ) / b)) :
    2 * a ≤ (2 * n + 1) * b ∧ 2 * n * b ≤ 2 * a + b ∧ (2 * a = (2 * n + 1) * b ∨ 2 * n * b = 2 * a + b → n % 2 = 0) := by
  have hb' : (0 : ℝ) < b := by exact_mod_cast hb
  have hlo := h.lower
  have hhi := h.upper
  rw [le_div_iff₀ hb'] at hlo
  rw [div_le_iff₀ hb'] at hhi
  refine ⟨?_, ?_, fun ht => ?_⟩
  · have : 2 * (a : ℝ) ≤ (2 * n + 1) * b := by linarith
    exact_mod_cast this
  · have : 2 * (n : ℝ) * b ≤ 2 * a + b := by linarith
    exact_mod_cast this
  · rcases ht with ht | ht
    · have ht : 2 * (a : ℝ) = (2 * n + 1) * b := by exact_mod_cast ht
      exact h.evenUpper (by rw [div_eq_iff hb'.ne']; linarith)
    · have ht : 2 * (n : ℝ) * b = 2 * a + b := by exact_mod_cast ht
      exact h.evenLower (by rw [div_eq_iff hb'.ne']; linarith)

/-- The range of an integer type. -/
def intLo (signed : Bool) : Int := if signed then -(2 ^ 63) else 0
def intHi (signed : Bool) : Int := if signed then 2 ^ 63 - 1 else 2 ^ 64 - 1

/-- `n` whole units of a magnitude of `a / b`, towards zero or the nearest. -/
def WholeOf (rtz : Bool) (n a b : Nat) : Prop :=
  (rtz = true → n = a / b)
  ∧ (rtz = false → 2 * a ≤ (2 * n + 1) * b ∧ 2 * n * b ≤ 2 * a + b ∧ ((2 * a = (2 * n + 1) * b ∨ 2 * n * b = 2 * a + b) → n % 2 = 0))

/-- Rounding a finite word to an integer. -/
theorem roundUnit_whole {p : Prec} {m : Nat} {e : Int} {k : Nat} (rtz : Bool) (hv : (m : ℝ) * 2 ^ e = k * 2 ^ (-(p.scale : Int))) :
    WholeOf rtz (roundUnit m e 0 false (if rtz then .rtz else .rne)).1 k (2 ^ p.scale)
    ∧ ((roundUnit m e 0 false (if rtz then .rtz else .rne)).2 = false
      ↔ (roundUnit m e 0 false (if rtz then .rtz else .rne)).1 * 2 ^ p.scale = k) := by
  have hden := Nat.two_pow_pos p.scale
  have hden' : (0 : ℝ) < (2 ^ p.scale : Nat) := by exact_mod_cast hden
  have hx : (k : ℝ) / (2 ^ p.scale : Nat) = m * 2 ^ e := by rw [hv, zpow_neg, zpow_natCast, Nat.cast_pow, Nat.cast_ofNat, div_eq_mul_inv]
  generalize 2 ^ p.scale = den at *
  cases rtz with
  | true =>
    obtain ⟨hlo, hhi, hex⟩ := roundUnit_rtz (q := 0) hx
    simp only [if_true, zpow_zero, mul_one] at *
    generalize (roundUnit m e 0 false .rtz).1 = n at *
    rw [le_div_iff₀ hden'] at hlo
    rw [div_lt_iff₀ hden'] at hhi
    refine ⟨⟨fun _ => ?_, nofun⟩, ?_⟩
    · symm
      rw [Nat.div_eq_iff hden]
      have h1 : n * den ≤ k := by exact_mod_cast hlo
      have h2 : k < (n + 1) * den := by exact_mod_cast hhi
      rw [Nat.add_mul] at h2
      omega
    · rw [hex, div_eq_iff hden'.ne', eq_comm]; exact_mod_cast Iff.rfl
  | false =>
    obtain ⟨hnear, hex⟩ := roundUnit_nearest (q := 0) (show Digits m e false _ from hx) nofun
    simp only [Bool.false_eq_true, if_false, zpow_zero, mul_one] at *
    exact ⟨⟨nofun, fun _ => hnear.div hden⟩, by rw [hex, div_eq_iff hden'.ne', eq_comm]; exact_mod_cast Iff.rfl⟩

/-- The word and the flags of a limited integer. -/
theorem limited_scalar (lo hi v : Int) (fl : BitVec 5) :
    let r : Int × BitVec 5 × Bool := if v < lo then (lo, fNV, true) else if hi < v then (hi, fNV, true) else (v, fl, false)
    (BitVec.ofInt 64 r.1, r.2.1)
      = if v < lo then (BitVec.ofInt 64 lo, 1) else if hi < v then (BitVec.ofInt 64 hi, 1) else (BitVec.ofInt 64 v, fl) := by
  split
  · rfl
  · split <;> rfl

theorem fcvtToIntFn_finite {p : Prec} {a : XWord} (signed rtz : Bool) (ha : Finite p a) : ∃ n : Nat, WholeOf rtz n (mag p a) (2 ^ p.scale)
    ∧ fcvtToIntFn signed p rtz a =
      if (if negBit p a then -(n : Int) else n) < intLo signed then (BitVec.ofInt 64 (intLo signed), 1)
      else if intHi signed < (if negBit p a then -(n : Int) else n) then (BitVec.ofInt 64 (intHi signed), 1)
      else (BitVec.ofInt 64 (if negBit p a then -(n : Int) else n), if n * 2 ^ p.scale = mag p a then 0 else 0x10) := by
  obtain ⟨m, e, hfa, -, hva⟩ := fpIn_finite ha
  obtain ⟨hw, hex⟩ := roundUnit_whole rtz hva
  refine ⟨_, hw, ?_⟩
  rw [fcvtToIntFn, hfa, roundInt]
  dsimp only
  generalize (roundUnit m e 0 false (if rtz then .rtz else .rne)).1 = n at *
  generalize (roundUnit m e 0 false (if rtz then .rtz else .rne)).2 = ix at *
  have hfl : flagIf ix fNX = if n * 2 ^ p.scale = mag p a then 0 else 0x10 := by
    cases ix with
    | false => rw [if_pos (hex.1 rfl)]; rfl
    | true => rw [if_neg fun h => nomatch hex.2 h]; rfl
  rw [← hfl]
  exact limited_scalar (intLo signed) (intHi signed) _ _

end Sys2Proof.Machine
end

section
/-! Rounding to nearest even (O19). -/

namespace Sys2Proof.Machine

/-- The root, compared by squares. -/
theorem fsqrtFn_rounds {p : Prec} {a : XWord} (ha : Finite p a) (hn : negBit p a = false) :
    Rounds p false (fun z => 16 * (mag p a * 2 ^ p.scale) ≤ z * z) (fun z => z * z ≤ 16 * (mag p a * 2 ^ p.scale)) (fsqrtFn p a) := by
  have hroot : 4 * Real.sqrt (mag p a * 2 ^ p.scale) = Real.sqrt ((16 * (mag p a * 2 ^ p.scale) : Nat)) := by
    push_cast
    rw [Real.sqrt_mul (by norm_num) (_ * _), show (16 : ℝ) = 4 ^ 2 by norm_num, Real.sqrt_sq (by norm_num)]
  refine (fsqrtFn_roundsTo ha hn).rounds (fun z => ?_) fun z => ?_
  · rw [hroot, Real.sqrt_le_left (Nat.cast_nonneg z), sq]; exact_mod_cast Iff.rfl
  · rw [hroot, Real.le_sqrt (Nat.cast_nonneg _) (Nat.cast_nonneg _), sq]; exact_mod_cast Iff.rfl

/-- The other format's NaN, rounded to this one. -/
theorem fcvt_nan {q : Prec} {a : XWord} (p : Prec) (he : exField q a = 2 ^ q.eb - 1) (hf : frField q a ≠ 0) :
    (roundFp (precTy p) .rne .inf (fpIn q a)).scalar
      = (BitVec.ofNat 64 (precTy p).nan, if frField q a < 2 ^ (q.mb - 1) then 1 else 0) := by
  rw [fpIn_nan he hf, roundFp_nan, flagIf]
  simp only [decide_eq_true_eq]
  rfl

/-- The other format's infinity, rounded to this one. -/
theorem fcvt_inf {q : Prec} {a : XWord} (p : Prec) (he : exField q a = 2 ^ q.eb - 1) (hf : frField q a = 0) :
    (roundFp (precTy p) .rne .inf (fpIn q a)).scalar = (infWord p (negBit q a), 0) := by
  rw [fpIn_inf he hf, roundFp_inf]

/-- Conversion of a NaN or an infinity to an integer (R88). -/
theorem fcvtToIntFn_nan {p : Prec} {a : XWord} (signed rtz : Bool) (he : exField p a = 2 ^ p.eb - 1) (hf : frField p a ≠ 0) :
    fcvtToIntFn signed p rtz a = (0, 1) := by
  rw [fcvtToIntFn, fpIn_nan he hf]; rfl

theorem fcvtToIntFn_inf {p : Prec} {a : XWord} (signed rtz : Bool) (he : exField p a = 2 ^ p.eb - 1) (hf : frField p a = 0) :
    fcvtToIntFn signed p rtz a = (BitVec.ofInt 64 (if negBit p a then intLo signed else intHi signed), 1) := by
  rw [fcvtToIntFn, fpIn_inf he hf]; rfl

/-- Settles O19: each operation rounds the digits that the model finds, and those are rounded to the nearest number of the format. -/
theorem roundingToNearestEven : Obligations.RoundingToNearestEven := by
  unfold Obligations.RoundingToNearestEven
  refine ⟨fun m e q up => ⟨fun h => if_pos h, fun h => ⟨(roundUnit_coarse h).2, roundUnit_nearest_nat h⟩⟩, ?_⟩
  intro mb eb scale ex fr neg fin mag' int inf rounds nearest sum isNan isInf
  have hneg : neg = negBit := rfl
  have hfin : fin = Finite := rfl
  have hmag : mag' = mag := rfl
  have hint : int = intVal := rfl
  have hinf : inf = infWord := rfl
  have hrounds : rounds = Rounds := rfl
  have hnearest : nearest = NearestTo := rfl
  have hsum : sum = SumTo := rfl
  have hscale : scale = Prec.scale := rfl
  rw [hneg, hfin, hmag, hint, hinf, hrounds, hnearest, hsum, hscale]
  refine ⟨?_, ?_, ?_⟩
  · intro p a b c ha hb hc
    exact ⟨faddFn_sumTo ha hb, fsubFn_sumTo ha hb, fmulFn_nearestTo ha hb, fdivFn_nearestTo ha hb, fmaFn_sumTo ha hb hc, fsqrtFn_rounds ha⟩
  · intro a
    refine ⟨narrow_nearestTo (q := .d) (p := .s) 925 rfl, widen_nearestTo (q := .s) (p := .d) 925 rfl,
      fun p => ⟨int_sumTo p a.toInt, int_sumTo p (a.toNat : Int)⟩,
      fun h => fcvt_inf .s h.1 h.2, fun h => fcvt_inf .d h.1 h.2, fun h => fcvt_nan .s h.1 h.2, fun h => fcvt_nan .d h.1 h.2⟩
  · intro signed rtz p a
    refine ⟨fun h => ?_, fun h => fcvtToIntFn_nan signed rtz h.1 h.2, fun h => fcvtToIntFn_inf signed rtz h.1 h.2⟩
    obtain ⟨n, ⟨htrunc, hnear⟩, hv⟩ := fcvtToIntFn_finite signed rtz h
    exact ⟨n, htrunc, hnear, hv⟩

end Sys2Proof.Machine
end

section
/-! NaNs and invalid operations (spec/04_scalar.md R82, R83; O18). -/

namespace Sys2Proof.Machine

/-- The canonical quiet NaN of a precision. -/
def canonNan (p : Prec) : XWord := BitVec.ofNat 64 (precTy p).nan

/-- An exact NaN rounds to the canonical one, with the flags it has. -/
theorem round_nan (p : Prec) (f : BitVec 5) : ((⟨.nan false, f⟩ : Exact).round (precTy p)).scalar = (canonNan p, f) := by
  rw [Exact.round, roundFp, precTy_ieee, canonNan]
  exact congrArg (Prod.mk _) BitVec.zero_or

/-- An exact value that is a word of the format rounds to it, with the flags it has. -/
theorem round_exact {t : FTy} {v : Val} {w : XWord} (h : (roundFp t .rne .inf v).scalar = (w, 0)) (f : BitVec 5) :
    ((⟨v, f⟩ : Exact).round t).scalar = (w, f) := by
  obtain ⟨hw, hf⟩ := Prod.mk.inj h
  exact Prod.ext hw ((congrArg (· ||| f) hf).trans BitVec.zero_or)

/-! A NaN among the operands. -/

@[simp] theorem isNan_negate (v : Val) : v.negate.isNan = v.isNan := by cases v <;> rfl
@[simp] theorem isSig_negate (v : Val) : v.negate.isSig = v.isSig := by cases v <;> rfl

theorem nanOf_pair (a b : Val) : nanOf [a, b] = ⟨.nan false, flagIf (a.isSig || b.isSig) fNV⟩ := by
  rw [nanOf, List.any_cons, List.any_cons, List.any_nil, Bool.or_false]

theorem addVal_nan {a b : Val} (h : (a.isNan || b.isNan) = true) : addVal a b = nanOf [a, b] := by
  cases a with
  | nan => rfl
  | inf => cases b with
    | nan => rfl
    | _ => cases h
  | fin => cases b with
    | nan => rfl
    | _ => cases h

theorem subVal_nan {a b : Val} (h : (a.isNan || b.isNan) = true) : subVal a b = nanOf [a, b] := by
  rw [subVal, addVal_nan (by rwa [isNan_negate]), nanOf_pair, nanOf_pair, isSig_negate]

theorem mulVal_nan {a b : Val} (h : (a.isNan || b.isNan) = true) : mulVal a b = nanOf [a, b] := if_pos h
theorem divVal_nan {a b : Val} (h : (a.isNan || b.isNan) = true) : divVal a b = nanOf [a, b] := if_pos h

theorem sqrtVal_nan {a : Val} (h : a.isNan = true) : sqrtVal a = ⟨.nan false, flagIf a.isSig fNV⟩ := by
  cases a with
  | nan sig => rw [sqrtVal, nanOf, List.any_cons, List.any_nil, Bool.or_false]
  | _ => cases h

/-- The invalid product gives the NaN too. -/
theorem fmaVal_nan {a b c : Val} (h : (a.isNan || b.isNan || c.isNan) = true) : (fmaVal a b c).val = .nan false := by
  rw [fmaVal, if_pos h]
  split <;> rfl

/-- The results with a NaN among two operands. -/
theorem arith_nan (p : Prec) {a b : XWord} (h : ((fpIn p a).isNan || (fpIn p b).isNan) = true) :
    ∀ r ∈ [faddFn p a b, fsubFn p a b, fmulFn p a b, fdivFn p a b], r = (canonNan p, flagIf ((fpIn p a).isSig || (fpIn p b).isSig) fNV) := by
  simp only [List.forall_mem_cons, faddFn, fsubFn, fmulFn, fdivFn, addVal_nan h, subVal_nan h, mulVal_nan h, divVal_nan h, nanOf_pair, round_nan,
    true_and]
  nofun

/-! What `fmin` and `fmax` give back: a word that is no NaN rounds to itself. -/

/-- The word of the format's width. -/
def lowWord (p : Prec) (x : XWord) : XWord := BitVec.ofNat 64 (x.toNat % 2 ^ (1 + p.eb + p.mb))

/-- A word is its sign and its pattern. -/
theorem eq_lowWord {p : Prec} {x r : XWord} (hr : r.toNat < 2 ^ (1 + p.eb + p.mb)) (hn : negBit p r = negBit p x) (hp : pattern p r = pattern p x) :
    r = lowWord p x := by
  apply BitVec.eq_of_toNat_eq
  rw [negBit_eq, negBit_eq, decide_eq_decide, precTy_width] at hn
  rw [pattern, pattern] at hp
  rw [lowWord, BitVec.toNat_ofNat]
  cases p <;> simp only [Prec.mb, Prec.eb] at * <;> omega

/-- The largest number. -/
theorem mag_le_greatest {p : Prec} {x : XWord} (hx : Finite p x) : mag p x ≤ (2 ^ (p.mb + 1) - 1) * 2 ^ (2 ^ p.eb - 3) := by
  have hf := frField_lt p x
  have h2 : 2 ^ (p.mb + 1) = 2 * 2 ^ p.mb := Nat.pow_succ'
  rw [Finite] at hx
  rw [mag]
  split
  · exact (Nat.le_mul_of_pos_right _ (Nat.two_pow_pos _)).trans (Nat.mul_le_mul_right _ (by omega))
  · exact Nat.mul_le_mul (by omega) (Nat.pow_le_pow_right (by decide) (by omega))

/-- A number of the format is its own rounded result. -/
theorem RoundsTo.eq_lowWord {p : Prec} {x : XWord} {r : XWord × BitVec 5} (hx : Finite p x) (h : RoundsTo p (negBit p x) (mag p x) r) :
    r = (lowWord p x, 0) := by
  have hle : (mag p x : ℝ) ≤ ((2 ^ (p.mb + 1) - 1) * 2 ^ (2 ^ p.eb - 3) : Nat) := by exact_mod_cast mag_le_greatest hx
  obtain ⟨-, h⟩ := h
  obtain ⟨-, hneg, hsize, hnear, hexact, -⟩ := h (by
    have hpos : (0 : ℝ) < (2 ^ (p.mb + 1) * 2 ^ (2 ^ p.eb - 3) : Nat) := by exact_mod_cast Nat.mul_pos (Nat.two_pow_pos _) (Nat.two_pow_pos _)
    have hgt : (2 ^ (p.mb + 1) - 1) * 2 ^ (2 ^ p.eb - 3) < 2 ^ (p.mb + 1) * 2 ^ (2 ^ p.eb - 3) :=
      Nat.mul_lt_mul_of_pos_right (Nat.sub_lt (Nat.two_pow_pos _) Nat.one_pos) (Nat.two_pow_pos _)
    have hlt : 4 * mag p x < 2 * ((2 ^ (p.mb + 1) - 1) * 2 ^ (2 ^ p.eb - 3) + 2 ^ (p.mb + 1) * 2 ^ (2 ^ p.eb - 3)) := by
      have := mag_le_greatest hx
      omega
    exact not_le.2 (by exact_mod_cast hlt))
  have hm : mag p r.1 = mag p x := by
    obtain ⟨habove, hbelow⟩ := hnear x hx
    rcases lt_trichotomy (mag p r.1) (mag p x) with hlt | heq | hlt
    · have : 4 * mag p x ≤ 2 * (mag p r.1 + mag p x) := by exact_mod_cast (habove hlt).1
      omega
    · exact heq
    · have : 2 * (mag p r.1 + mag p x) ≤ 4 * mag p x := by exact_mod_cast (hbelow hlt).1
      omega
  have hp : pattern p r.1 = pattern p x := (patternMag_strictMono p.mb).injective (by rw [← mag_eq_patternMag, ← mag_eq_patternMag, hm])
  exact Prod.ext (Machine.eq_lowWord hsize hneg hp) (hexact (by rw [hm]; push_cast; exact ⟨le_rfl, le_rfl⟩))

/-- A word that is no NaN, rounded to its own format. -/
theorem roundFp_fpIn {p : Prec} {x : XWord} (h : (fpIn p x).isNan = false) : (roundFp (precTy p) .rne .inf (fpIn p x)).scalar = (lowWord p x, 0) := by
  have hn := mt (isNan_fpIn p x).2 (by rw [h]; exact Bool.false_ne_true)
  rcases finite_or_inf hn with hx | ⟨he, hf⟩
  · obtain ⟨m, e, hfx, -, hv⟩ := fpIn_finite hx
    rw [hfx]
    have hr : RoundsTo p (negBit p x) (mag p x) (roundFp (precTy p) .rne .inf (.fin (negBit p x) m e false)).scalar :=
      roundFp_roundsTo_value rfl nofun hv
    exact hr.eq_lowWord hx
  · rw [fpIn_inf he hf, roundFp_inf]
    have hinf : infWord p (negBit p x) = wordOf p (negBit p x) ((2 ^ p.eb - 1) * 2 ^ p.mb) := by rw [infWord, wordOf, signPart, Nat.add_comm p.mb]
    obtain ⟨hp, hs, hlt⟩ := wordOf_spec (p := p) (n := negBit p x) (w := (2 ^ p.eb - 1) * 2 ^ p.mb) (by cases p <;> decide)
    rw [hinf, eq_lowWord hlt hs (by rw [hp, pattern_eq, he, hf, Nat.mul_comm, Nat.add_zero])]

/-- `fmin` and `fmax` with NaNs (R83). -/
theorem fminmaxFn_nan_left {p : Prec} {a b : XWord} (mx : Bool) (ha : (fpIn p a).isNan = true) (hb : (fpIn p b).isNan = false) :
    fminmaxFn mx p a b = (lowWord p b, flagIf ((fpIn p a).isSig || (fpIn p b).isSig) fNV) := by
  simp only [fminmaxFn, minmaxVal, ha, hb, Bool.and_false, Bool.false_eq_true, if_true, if_false]
  exact round_exact (roundFp_fpIn hb) _

theorem fminmaxFn_nan_right {p : Prec} {a b : XWord} (mx : Bool) (ha : (fpIn p a).isNan = false) (hb : (fpIn p b).isNan = true) :
    fminmaxFn mx p a b = (lowWord p a, flagIf ((fpIn p a).isSig || (fpIn p b).isSig) fNV) := by
  simp only [fminmaxFn, minmaxVal, ha, hb, Bool.false_and, Bool.false_eq_true, if_true, if_false]
  exact round_exact (roundFp_fpIn ha) _

theorem fminmaxFn_nan_both {p : Prec} {a b : XWord} (mx : Bool) (ha : (fpIn p a).isNan = true) (hb : (fpIn p b).isNan = true) :
    fminmaxFn mx p a b = (canonNan p, flagIf ((fpIn p a).isSig || (fpIn p b).isSig) fNV) := by
  simp only [fminmaxFn, minmaxVal, ha, hb, Bool.and_self, if_true]
  exact round_nan ..

/-! Invalid operations and division by zero of binary64. -/

/-- A value that is an infinity. -/
def IsInf (v : Val) : Prop := ∃ n, v = .inf n
/-- A value that is a zero. -/
def IsZero (v : Val) : Prop := ∃ n e, v = .fin n 0 e false

theorem mulVal_zero_inf {a b : Val} (ha : IsZero a) (hb : IsInf b) : mulVal a b = ⟨.nan false, fNV⟩ ∧ mulVal b a = ⟨.nan false, fNV⟩ := by
  obtain ⟨n, e, rfl⟩ := ha
  obtain ⟨n', rfl⟩ := hb
  exact ⟨rfl, rfl⟩

/-- The invalid product raises NV whatever the third operand is. -/
theorem fmaVal_invalid {a b : Val} (c : Val) (ha : a.isNan = false) (hb : b.isNan = false) (h : mulVal a b = ⟨.nan false, fNV⟩) :
    fmaVal a b c = ⟨.nan false, fNV⟩ := by
  rw [fmaVal, h, ha, hb]; rfl

theorem divVal_zero_zero {a b : Val} (ha : IsZero a) (hb : IsZero b) : divVal a b = ⟨.nan false, fNV⟩ := by
  obtain ⟨n, e, rfl⟩ := ha
  obtain ⟨n', e', rfl⟩ := hb
  rfl

theorem divVal_inf_inf {a b : Val} (ha : IsInf a) (hb : IsInf b) : divVal a b = ⟨.nan false, fNV⟩ := by
  obtain ⟨n, rfl⟩ := ha
  obtain ⟨n', rfl⟩ := hb
  rfl

theorem divVal_fin_zero {n : Bool} {m : Nat} {e : Int} {u : Bool} {b : Val} (hm : m ≠ 0) (hb : IsZero b) :
    divVal (.fin n m e u) b = ⟨.inf (n ^^ b.neg?), fDZ⟩ := by
  obtain ⟨n', e', rfl⟩ := hb
  simp only [divVal, Val.isNan, Bool.or_self, Bool.false_eq_true, if_false, if_true, if_neg hm, Val.neg?]

theorem sqrtVal_neg {m : Nat} {e : Int} {u : Bool} (hm : m ≠ 0) : sqrtVal (.fin true m e u) = ⟨.nan false, fNV⟩ := if_neg hm

/-- The digits of a finite word that is no zero. -/
theorem fpIn_finite_ne_zero {p : Prec} {x : XWord} (h : Finite p x) (h0 : pattern p x ≠ 0) :
    ∃ m e, fpIn p x = .fin (negBit p x) m e false ∧ m ≠ 0 := by
  obtain ⟨m, e, hf, -, hv⟩ := fpIn_finite h
  exact ⟨m, e, hf, mt (fun hm => (mag_eq_zero_iff p x).1 ((digits_eq_zero_iff hv).1 hm)) h0⟩

/-- The two zeros of binary64. -/
theorem pattern_zero {x : XWord} (h : pattern .d x = 0) : x = 0 ∨ x = 0x8000000000000000 := by
  simp only [pattern, Prec.mb, Prec.eb] at h
  bv_omega

theorem fpIn_zero {x : XWord} (h : x = 0 ∨ x = 0x8000000000000000) : IsZero (fpIn .d x) := by
  rcases h with rfl | rfl
  · exact ⟨_, _, rfl⟩
  · exact ⟨_, _, rfl⟩

theorem fpIn_infinity {x : XWord} (h : x = 0x7FF0000000000000 ∨ x = 0xFFF0000000000000) : IsInf (fpIn .d x) := by
  rcases h with rfl | rfl
  · exact ⟨_, rfl⟩
  · exact ⟨_, rfl⟩

/-! The statement's words, in the terms of the lemmas above. -/

/-- The NaNs of a precision. -/
def nanWord (p : Prec) (x : XWord) : Bool :=
  match p with
  | .s => x.toNat / 2 ^ 23 % 256 = 255 && x.toNat % 2 ^ 23 ≠ 0
  | .d => x.toNat / 2 ^ 52 % 2048 = 2047 && x.toNat % 2 ^ 52 ≠ 0

/-- The signaling NaNs of a precision. -/
def sigWord (p : Prec) (x : XWord) : Bool := nanWord p x && !x.getLsbD (match p with | .s => 22 | .d => 51)

theorem nanWord_eq (p : Prec) (x : XWord) : nanWord p x = (fpIn p x).isNan := by
  rw [Bool.eq_iff_iff, isNan_fpIn]
  cases p <;> simp [nanWord, exField, frField, Prec.mb, Prec.eb]

theorem sigWord_eq (p : Prec) (x : XWord) : sigWord p x = (fpIn p x).isSig := by
  rw [Bool.eq_iff_iff, isSig_fpIn, sigWord.eq_def, Bool.and_eq_true, nanWord_eq, isNan_fpIn, BitVec.getLsbD, Nat.testBit_eq_decide_div_mod_eq,
    Bool.not_eq_true', decide_eq_false_iff_not]
  refine and_congr_right fun _ => ?_
  cases p <;> (simp only [frField, Prec.mb]; omega)

theorem lowWord_s (x : XWord) : lowWord .s x = x &&& 0xFFFFFFFF := by
  apply BitVec.eq_of_toNat_eq
  have h := Nat.and_two_pow_sub_one_eq_mod x.toNat 32
  have hx : x.toNat % 2 ^ 32 < 2 ^ 64 := by omega
  rw [lowWord, BitVec.toNat_ofNat, BitVec.toNat_and]
  exact (Nat.mod_eq_of_lt hx).trans h.symm

theorem lowWord_d (x : XWord) : lowWord .d x = x := by
  apply BitVec.eq_of_toNat_eq
  rw [lowWord, BitVec.toNat_ofNat]
  simp only [Prec.mb, Prec.eb]
  omega

/-- The first part of the statement, on the values that the model reads. -/
theorem nanResults (p : Prec) (a b c : XWord) :
    ((fpIn p a).isNan ∨ (fpIn p b).isNan → ∀ r ∈ [faddFn p a b, fsubFn p a b, fmulFn p a b, fdivFn p a b],
      r.1 = canonNan p ∧ r.2 = if (fpIn p a).isSig ∨ (fpIn p b).isSig then 1 else 0)
    ∧ ((fpIn p a).isNan → (fsqrtFn p a).1 = canonNan p ∧ (fsqrtFn p a).2 = if (fpIn p a).isSig then 1 else 0)
    ∧ ((fpIn p a).isNan ∨ (fpIn p b).isNan ∨ (fpIn p c).isNan → (fmaFn p a b c).1 = canonNan p)
    ∧ ∀ mx : Bool, ((fpIn p a).isNan → (fpIn p b).isNan → (fminmaxFn mx p a b).1 = canonNan p)
      ∧ ((fpIn p a).isNan → ¬ (fpIn p b).isNan → (fminmaxFn mx p a b).1 = lowWord p b)
      ∧ (¬ (fpIn p a).isNan → (fpIn p b).isNan → (fminmaxFn mx p a b).1 = lowWord p a)
      ∧ ((fpIn p a).isNan ∨ (fpIn p b).isNan → (fminmaxFn mx p a b).2 = if (fpIn p a).isSig ∨ (fpIn p b).isSig then 1 else 0) := by
  have hflag : flagIf ((fpIn p a).isSig || (fpIn p b).isSig) fNV = if (fpIn p a).isSig ∨ (fpIn p b).isSig then 1 else 0 := by
    rw [flagIf]; simp only [Bool.or_eq_true]; rfl
  simp only [Bool.not_eq_true]
  refine ⟨fun h r hr => ?_, fun h => ?_, fun h => ?_, fun mx => ⟨fun ha hb => ?_, fun ha hb => ?_, fun ha hb => ?_, fun h => ?_⟩⟩
  · rw [arith_nan p (by rwa [Bool.or_eq_true]) r hr]
    exact ⟨rfl, hflag⟩
  · rw [fsqrtFn, sqrtVal_nan h, round_nan]
    exact ⟨rfl, rfl⟩
  · have hv := fmaVal_nan (a := fpIn p a) (b := fpIn p b) (c := fpIn p c) (by rwa [Bool.or_eq_true, Bool.or_eq_true, or_assoc])
    have hf : fmaVal (fpIn p a) (fpIn p b) (fpIn p c) = ⟨.nan false, (fmaVal (fpIn p a) (fpIn p b) (fpIn p c)).flags⟩ := by rw [← hv]
    rw [fmaFn, hf, round_nan]
  · rw [fminmaxFn_nan_both mx ha hb]
  · rw [fminmaxFn_nan_left mx ha hb]
  · rw [fminmaxFn_nan_right mx ha hb]
  · rw [← hflag]
    cases ha : (fpIn p a).isNan with
    | true => cases hb : (fpIn p b).isNan with
      | true => rw [fminmaxFn_nan_both mx ha hb]
      | false => rw [fminmaxFn_nan_left mx ha hb]
    | false => cases hb : (fpIn p b).isNan with
      | true => rw [fminmaxFn_nan_right mx ha hb]
      | false => rw [ha, hb] at h; exact nomatch or_self_iff.1 h

/-- A negative binary64 number that is not zero, or minus infinity, has no root. -/
theorem fsqrtFn_neg {a : XWord} (hn : a.getLsbD 63 = true) (h0 : ¬ (a = 0 ∨ a = 0x8000000000000000)) (hle : a.toNat ≤ 0xFFF0000000000000) :
    fsqrtFn .d a = (canonNan .d, fNV) := by
  have hneg : negBit .d a = true := hn
  have hnan : ¬ (exField .d a = 2 ^ Prec.d.eb - 1 ∧ frField .d a ≠ 0) := by
    rw [negBit_eq, decide_eq_true_eq] at hneg
    simp only [exField, frField, Prec.eb, Prec.mb, precTy_width] at hneg ⊢
    omega
  have hv : sqrtVal (fpIn .d a) = ⟨.nan false, fNV⟩ := by
    rcases finite_or_inf hnan with hf | ⟨he, hf⟩
    · obtain ⟨m, e, hfa, hm⟩ := fpIn_finite_ne_zero hf (mt pattern_zero h0)
      rw [hfa, hneg, sqrtVal_neg hm]
    · rw [fpIn_inf he hf, hneg]; rfl
  rw [fsqrtFn, hv, round_nan]

/-- A binary64 number that is not zero over a zero. -/
theorem fdivFn_by_zero {a b : XWord} (hb : b = 0 ∨ b = 0x8000000000000000) (h0 : ¬ (a = 0 ∨ a = 0x8000000000000000)) (ha : exField .d a ≠ 2047) :
    fdivFn .d a b = (infWord .d (negBit .d a ^^ negBit .d b), fDZ) := by
  have hf : Finite .d a := by
    have : exField .d a < 2 ^ Prec.d.eb := Nat.mod_lt _ (Nat.two_pow_pos _)
    simp only [Finite, Prec.eb] at this ⊢
    omega
  obtain ⟨m, e, hfa, hm⟩ := fpIn_finite_ne_zero hf (mt pattern_zero h0)
  have hs : (fpIn .d b).neg? = negBit .d b := by rcases hb with rfl | rfl <;> rfl
  rw [fdivFn, hfa, divVal_fin_zero hm (fpIn_zero hb), hs]
  exact round_exact (roundFp_inf ..) _

theorem IsInf.isNan {v : Val} (h : IsInf v) : v.isNan = false := by obtain ⟨n, rfl⟩ := h; rfl
theorem IsZero.isNan {v : Val} (h : IsZero v) : v.isNan = false := by obtain ⟨n, e, rfl⟩ := h; rfl

/-- The second part of the statement. -/
theorem invalidResults (a b c : XWord) :
    let infp : XWord := 0x7FF0000000000000
    let infm : XWord := 0xFFF0000000000000
    let zero (x : XWord) : Prop := x = 0 ∨ x = 0x8000000000000000
    let inf (x : XWord) : Prop := x = infp ∨ x = infm
    let nv (r : XWord × BitVec 5) : Prop := r = (canonNan .d, fNV)
    nv (faddFn .d infp infm) ∧ nv (faddFn .d infm infp) ∧ nv (fsubFn .d infp infp) ∧ nv (fsubFn .d infm infm)
    ∧ (zero a → inf b → nv (fmulFn .d a b) ∧ nv (fmulFn .d b a) ∧ nv (fmaFn .d a b c) ∧ nv (fmaFn .d b a c))
    ∧ (zero a → zero b → nv (fdivFn .d a b)) ∧ (inf a → inf b → nv (fdivFn .d a b)) := by
  intro infp infm zero inf nv
  have hp : fpIn .d infp = .inf false := fpIn_inf (x := 0x7FF0000000000000) rfl rfl
  have hm : fpIn .d infm = .inf true := fpIn_inf (x := 0xFFF0000000000000) rfl rfl
  refine ⟨?_, ?_, ?_, ?_, fun ha hb => ?_, fun ha hb => ?_, fun ha hb => ?_⟩
  · show faddFn .d infp infm = _
    rw [faddFn, hp, hm]
    exact round_nan ..
  · show faddFn .d infm infp = _
    rw [faddFn, hp, hm]
    exact round_nan ..
  · show fsubFn .d infp infp = _
    rw [fsubFn, hp]
    exact round_nan ..
  · show fsubFn .d infm infm = _
    rw [fsubFn, hm]
    exact round_nan ..
  · have hza := fpIn_zero ha
    have hib := fpIn_infinity hb
    obtain ⟨hab, hba⟩ := mulVal_zero_inf hza hib
    refine ⟨?_, ?_, ?_, ?_⟩
    · show fmulFn .d a b = _
      rw [fmulFn, hab, round_nan]
    · show fmulFn .d b a = _
      rw [fmulFn, hba, round_nan]
    · show fmaFn .d a b c = _
      rw [fmaFn, fmaVal_invalid _ hza.isNan hib.isNan hab, round_nan]
    · show fmaFn .d b a c = _
      rw [fmaFn, fmaVal_invalid _ hib.isNan hza.isNan hba, round_nan]
  · show fdivFn .d a b = _
    rw [fdivFn, divVal_zero_zero (fpIn_zero ha) (fpIn_zero hb), round_nan]
  · show fdivFn .d a b = _
    rw [fdivFn, divVal_inf_inf (fpIn_infinity ha) (fpIn_infinity hb), round_nan]

/-- Settles O18: a NaN among the operands and an invalid operation make the exact value a NaN, which rounds to the canonical one. -/
theorem nanAndInvalidResults : Obligations.NanAndInvalidResults := by
  unfold Obligations.NanAndInvalidResults
  constructor
  · intro isNan isSig canon value p a b c
    have hnan : isNan = fun p x => (fpIn p x).isNan := funext fun p => funext fun x => nanWord_eq p x
    have hsig : isSig = fun p x => (fpIn p x).isSig := funext fun p => funext fun x => sigWord_eq p x
    have hcanon : canon = canonNan := funext fun p => by cases p <;> rfl
    have hvalue : value = lowWord := funext fun p => funext fun x => by
      cases p with
      | s => exact (lowWord_s x).symm
      | d => exact (lowWord_d x).symm
    rw [hnan, hsig, hcanon, hvalue]
    exact nanResults p a b c
  · intro infp infm zero inf nv a b c
    obtain ⟨h1, h2, h3, h4, h5, h6, h7⟩ := invalidResults a b c
    refine ⟨h1, h2, h3, h4, h5, h6, h7, fun hb h0 ha => ?_, fsqrtFn_neg, fun ha => ?_⟩
    · rw [fdivFn_by_zero hb h0 ha]
      change (infWord .d (a.getLsbD 63 ^^ b.getLsbD 63), fDZ) = _
      cases a.getLsbD 63 <;> cases b.getLsbD 63 <;> rfl
    · rcases ha with rfl | rfl <;> rfl

end Sys2Proof.Machine
end

section
/-! Calls and returns (spec/05_windows.md R91, R94, R95, R113). -/

namespace Sys2Proof.Machine

/-- A target that is a code address (spec/03_formats.md R36). -/
theorem targetGate_aligned {t : XWord} (h : t.toNat % 4 = 0) : targetGate t = .go := by
  simp [targetGate, h]

/-- A call goes on with a frame to enter below the limit of DEPTH, a free slot and x31 full (R94). -/
theorem firstStop_callGates {c : Core} (hd : c.ctx.depth < 65535) (hf : 0 < c.freeSlots) (hx : c.DestReady 31) :
    firstStop (callGates c) = .go := by
  rw [callGates, destGate_ready hx]
  simp [Nat.ne_of_lt hd, hf, not_le.2 hf]

/-- A call changes DEPTH alone of the context: a spill that it starts changes none of it. -/
theorem Core.enterCall_ctx (c : Core) : c.enterCall.ctx = { c.ctx with depth := c.ctx.depth + 1 } := by
  simp [Core.enterCall, Core.pushFrame, Core.freshFrame, Core.modCtx]

/-- A completed call stands in a new frame above the caller's, with the link among its ins (R91, R94). -/
theorem Completed.newFrame_of_call {s t : State} {pc : BitVec 32} (h : Completed (s.modC Core.enterCall) t pc) :
    NewFrame (s.c.setX 31 (s.c.pc.setWidth 64 + 4)) t.c := by
  apply NewFrame.of_push
  · rw [h.c_xs, State.c_modC, Core.enterCall]
  · rw [h.ctx_depth, State.c_modC, Core.enterCall_ctx, Core.setX_ctx]

/-- A return changes DEPTH alone of the context: a fill that it starts changes none of it. -/
theorem Core.popFrame_ctx (c : Core) : c.popFrame.ctx = { c.ctx with depth := c.ctx.depth - 1 } := by
  simp [Core.popFrame, Core.modCtx]

/-- A return writes no register. -/
theorem Core.popFrame_xs (c : Core) : c.popFrame.xs = c.xs := by
  simp [Core.popFrame]

/-- A completed return out of a called frame stands in the caller's (R91, R95). -/
theorem Completed.oldFrame_of_ret {s t : State} {pc : BitVec 32} (h : Completed (s.modC Core.popFrame) t pc) (hd : 0 < s.c.ctx.depth) :
    OldFrame s.c t.c := by
  apply OldFrame.of_pop
  · rw [h.c_xs, State.c_modC, Core.popFrame_xs]
  · rw [h.ctx_depth, State.c_modC, Core.popFrame_ctx]
    exact Nat.sub_add_cancel hd

/-- No producer is outstanding where x16 to x31 are full (R95). -/
theorem Core.outPending_of_full {c : Core} (h : ∀ n, 16 ≤ n → n < 32 → (c.reg n).full = true) : c.outPending = false := by
  rw [Core.outPending, List.any_eq_false]
  intro i hi
  have hi : i < 16 := List.mem_range.1 hi
  simp [h (16 + i) (by omega) (by omega)]

/-- The checks of `ret` whose waits are over (R95). -/
theorem firstStop_retGates {c : Core} (hf : ∀ n, 16 ≤ n → n < 32 → (c.reg n).full = true) (hs : c.ctx.spilled < c.ctx.depth) :
    firstStop (retGates c) = .go := by
  simp [retGates, Core.outPending_of_full hf, hs]

/-- An effect on the executing core changes no other, and completion none (R65 of spec/04_scalar.md). -/
theorem Completed.core_other {s t : State} {f : Core → Core} {pc : BitVec 32} (h : Completed (s.modC f) t pc) {k : Nat} (hk : k ≠ s.cur) :
    t.core k = s.core k :=
  (h.others k hk).trans (State.core_modC_other s f k hk)

/-- Settles O13: a call's effect is the push of a frame, a return's the pop of one, once their checks let them go on. -/
theorem callAndReturnFrames : Obligations.CallAndReturnFrames := by
  unfold Obligations.CallAndReturnFrames
  constructor
  · intro imm sa s hd hf hx hl enters
    have hgo := firstStop_callGates hd hf hx
    have enters_of {i : Instr} {pc : BitVec 32} (hi : CompletesAt i s (s.modC Core.enterCall) pc) : enters i pc := by
      obtain ⟨t, ht, hc⟩ := hi
      refine ⟨t, ht, hc.pc, ?_, hc.newFrame_of_call, hc.byte, fun k => hc.core_other⟩
      rw [hc.instret, State.c_modC, Core.enterCall_ctx]
    refine ⟨?_, fun hsrc ht => enters_of (completesAt_of_jumpAns rfl hl rfl ?_)⟩
    · rw [← signExtend_mul_four]
      exact enters_of (completesAt_of_jumpAns rfl hl rfl hgo)
    · rw [firstStop_append (srcGates_ready hsrc), targetGate_aligned ht]
      exact hgo
  · refine fun s => ⟨fun hd hsrc ht hfull hres hl => ?_, fun h0 => ?_⟩
    · have hgo : firstStop (trapIf (decide (s.c.ctx.depth = 0)) 11 1
          :: (srcGates s.c [plainSrc 15 0] ++ targetGate (s.c.x 15) :: retGates s.c)) = .go := by
        rw [decide_eq_false (Nat.ne_of_gt hd), trapIf_false, firstStop_go_cons, firstStop_append (srcGates_ready hsrc), targetGate_aligned ht]
        exact firstStop_retGates hfull hres
      obtain ⟨t, hi, hc⟩ := completesAt_of_jumpAns (i := .ret) rfl hl rfl hgo
      refine ⟨t, hi, hc.pc, ?_, hc.oldFrame_of_ret hd, hc.byte, fun k => hc.core_other⟩
      rw [hc.instret, State.c_modC, Core.popFrame_ctx]
    · refine traps_of_jumpAns (i := .ret) rfl ?_
      rw [decide_eq_true h0]; rfl

end Sys2Proof.Machine
end

section
/-! The spill engine and the carve-out (spec/05_windows.md R97, R105). -/

namespace Sys2Proof.Machine

/-! Words of eight bytes, one after another. -/

/-- A list written in two parts. -/
theorem Memory.writeList_append (m : Memory) (p : Nat) (as bs : List Byte) :
    m.writeList p (as ++ bs) = (m.writeList p as).writeList (p + as.length) bs := by
  induction as generalizing m p with
  | nil => rfl
  | cons a t ih =>
    rw [List.cons_append, Memory.writeList, ih, Memory.writeList, List.length_cons, Nat.add_assoc, Nat.add_comm 1]

/-- Writing a list changes nothing of what is read below it. -/
theorem Memory.readList_writeList_below {m : Memory} {p q n : Nat} (bs : List Byte) (h : m.wf = true) (hq : p + n ≤ q) :
    (m.writeList q bs).readList p n = m.readList p n := by
  apply Memory.readList_congr
  intro x _ hx
  rw [Memory.read_writeList _ _ _ _ h, if_neg (by omega)]

/-- Of doublewords stored one after another, the one at index `i` reads back from its place. -/
theorem Memory.leNat_readList_writeDoublewords (f : Nat → Nat) (l : List Nat) (m : Memory) (p : Nat) (h : m.wf = true) (i : Nat)
    (hi : i < l.length) :
    leNat ((m.writeList p (l.flatMap fun n => leBytes 8 (f n))).readList (p + 8 * i) 8) = f l[i] % 256 ^ 8 := by
  induction l generalizing m p i with
  | nil => exact absurd hi (Nat.not_lt_zero i)
  | cons n t ih =>
    have hw := Memory.writeList_wf (leBytes 8 (f n)) m p h
    rw [List.flatMap_cons, Memory.writeList_append, leBytes_length]
    cases i with
    | zero =>
      have hr := Memory.readList_writeList (leBytes 8 (f n)) m p h
      rw [leBytes_length] at hr
      have hp : p + 8 * 0 = p := rfl
      rw [hp, Memory.readList_writeList_below _ hw le_rfl, hr, leNat_leBytes, List.getElem_cons_zero]
    | succ i =>
      have hp : p + 8 * (i + 1) = p + 8 + 8 * i := by omega
      rw [hp, ih _ _ hw i (Nat.lt_of_succ_lt_succ hi), List.getElem_cons_succ]

/-! The spill. -/

/-- A change of a core's record changes no number that memory holds. -/
theorem State.load_modCore (s : State) (k : Nat) (f : Core → Core) (p n : Nat) : (s.modCore k f).load p n = s.load p n := rfl

/-- A spill image is a line: 128 bytes. -/
theorem Core.image_length (c : Core) (f : Nat) : (c.image f).length = 128 := by
  simp [Core.image, frameKeys, List.length_flatMap, Function.comp_def]

/-- The doublewords of a stored image are the frame's registers, lowest first (R97). -/
theorem State.load_storeList_image (s : State) (p : Nat) (c : Core) (f i : Nat) (h : s.MemOk) (hi : i < 16) :
    (s.storeList p (c.image f)).load (p + 8 * i) 8 = (c.regAt (16 * f + 8 + i)).val.toNat := by
  have hl : i < (frameKeys f).length := by simpa [frameKeys] using hi
  have hk : (frameKeys f)[i] = 16 * f + 8 + i := by simp [frameKeys]
  have hload := Memory.leNat_readList_writeDoublewords (fun n => (c.regAt n).val.toNat) (frameKeys f) s.mem p h i hl
  rw [hk, pow_256_eq_two_pow, Nat.mod_eq_of_lt (c.regAt _).val.isLt] at hload
  rw [State.load, State.storeList, Core.image, hload]

/-- A change of a core's record keeps the memory canonical. -/
theorem State.MemOk.modCore {s : State} (h : s.MemOk) (k : Nat) (f : Core → Core) : (s.modCore k f).MemOk := h

/-- A stored list keeps the memory canonical. -/
theorem State.MemOk.storeList {s : State} (h : s.MemOk) (p : Nat) (bs : List Byte) : (s.storeList p bs).MemOk :=
  Memory.writeList_wf bs s.mem p h

/-- A stored list changes no byte outside its places. -/
theorem State.byte_storeList_outside (s : State) (p : Nat) (bs : List Byte) (q : Nat) (h : s.MemOk) (hq : q < p ∨ p + bs.length ≤ q) :
    (s.storeList p bs).byte q = s.byte q := by
  rw [State.byte, State.storeList, Memory.read_writeList _ _ _ _ h, if_neg (by omega), State.byte]

/-- The core whose spill of frame O into line `l` has ended (R97): the line is full, the slot free, the engine idle, or at work again. -/
def Core.spilledTo (c : Core) (o l : Nat) : Core :=
  ((({ c.markFull l with eng := .idle, xs := (frameKeys o).foldl (fun m n => Map.del m n) c.xs } : Core).modCtx
    fun x => { x with spilled := o + 1 }).startSpill).startFill

/-- A spill that is ready stores the image of the oldest resident frame and frees its slot (R97). -/
theorem State.spillStep_of_ready {s : State} {k : Nat} (he : (s.core k).eng = .spilling) (hr : (s.core k).spillReady = true) :
    s.spillStep k =
      (s.storeList (placePad k (128 * ((s.core k).ctx.spillBase.toNat + (s.core k).ctx.spilled))) ((s.core k).image (s.core k).ctx.spilled)).modCore k
        fun c => c.spilledTo (s.core k).ctx.spilled ((s.core k).ctx.spillBase.toNat + (s.core k).ctx.spilled) :=
  if_pos ⟨he, hr⟩

/-- What follows a spill changes O alone of the context. -/
theorem Core.spilledTo_ctx (c : Core) (o l : Nat) : (c.spilledTo o l).ctx = { c.ctx with spilled := o + 1 } := by
  simp [Core.spilledTo, Core.modCtx]

/-- A spill may move data once nothing is outstanding, a frame is below the running one, and the slot is full (R97). -/
theorem Core.spillReady_of_spilling {c : Core} (he : c.eng = .spilling) (ho : c.out = []) (hd : c.ctx.spilled < c.ctx.depth)
    (hf : ∀ i, i < 16 → (c.regAt (16 * c.ctx.spilled + 8 + i)).full = true) : c.spillReady = true := by
  have hfull : c.frameFull c.ctx.spilled = true := by
    simp only [Core.frameFull, frameKeys, List.all_map, List.all_eq_true, List.mem_range]
    exact hf
  simp [Core.spillReady, he, ho, hd, hfull]

/-! The fill. -/

/-- The ins and locals of frame `o` at the values of `w`, full (R97). -/
def Core.fillFrame (c : Core) (o : Nat) (w : Nat → XWord) : Core :=
  (List.range 16).foldl (fun c i => c.putKey (16 * o + 8 + i) ⟨w i, true⟩) c

/-- Registers put one after another from key `b` on, as many as `n`. -/
theorem Core.regAt_foldl_putKey (c : Core) (b : Nat) (hb : 0 < b) (w : Nat → XWord) (n key : Nat) :
    ((List.range n).foldl (fun c i => c.putKey (b + i) ⟨w i, true⟩) c).regAt key
      = if b ≤ key ∧ key < b + n then ⟨w (key - b), true⟩ else c.regAt key := by
  induction n with
  | zero => rw [if_neg (by omega)]; rfl
  | succ n ih =>
    rw [List.range_succ, List.foldl_append, List.foldl_cons, List.foldl_nil, Core.regAt_putKey _ _ _ _ (by omega), ih]
    by_cases hk : b + n = key
    · subst hk
      rw [if_pos rfl, if_pos (by omega), Nat.add_sub_cancel_left]
    · have e : (b ≤ key ∧ key < b + (n + 1)) ↔ (b ≤ key ∧ key < b + n) := by omega
      rw [if_neg hk]; simp only [e]

/-- The registers after a frame is filled: its own at their values, the others as they were. -/
theorem Core.regAt_fillFrame (c : Core) (o : Nat) (w : Nat → XWord) (key : Nat) :
    (c.fillFrame o w).regAt key = if 16 * o + 8 ≤ key ∧ key < 16 * o + 24 then ⟨w (key - (16 * o + 8)), true⟩ else c.regAt key :=
  c.regAt_foldl_putKey (16 * o + 8) (by omega) w 16 key

/-- A filled frame changes nothing of the context. -/
theorem Core.fillFrame_ctx (c : Core) (o : Nat) (w : Nat → XWord) : (c.fillFrame o w).ctx = c.ctx := by
  unfold Core.fillFrame
  induction List.range 16 generalizing c with
  | nil => rfl
  | cons i t ih => rw [List.foldl_cons, ih, Core.putKey_ctx]

/-- The core whose fill of frame `o` has ended (R97): the engine is idle, or at work again. -/
def Core.filledWith (c : Core) (o : Nat) (w : Nat → XWord) : Core :=
  ((({ c with eng := .idle } : Core).fillFrame o w).modCtx fun x => { x with spilled := o }).startFill.startSpill

/-- What follows a fill changes O alone of the context. -/
theorem Core.filledWith_ctx (c : Core) (o : Nat) (w : Nat → XWord) : (c.filledWith o w).ctx = { c.ctx with spilled := o } := by
  simp [Core.filledWith, Core.modCtx, Core.fillFrame_ctx]

/-- After a fill a register has its image's value, full, or, in another frame, is as it was: what follows the fill writes none. -/
theorem Core.regAt_filledWith (c : Core) (o : Nat) (w : Nat → XWord) (key : Nat) :
    (c.filledWith o w).regAt key = if 16 * o + 8 ≤ key ∧ key < 16 * o + 24 then ⟨w (key - (16 * o + 8)), true⟩ else c.regAt key := by
  have hx : (c.filledWith o w).xs = (({ c with eng := .idle } : Core).fillFrame o w).xs := by
    rw [Core.filledWith, Core.startSpill_xs, Core.startFill_xs, Core.modCtx_xs]
  have hr := ({ c with eng := .idle } : Core).regAt_fillFrame o w key
  rw [Core.regAt] at hr
  rw [Core.regAt, hx, hr, Core.regAt, Core.regAt]

/-- The filled frame's own registers. -/
theorem Core.regAt_filledWith_inside (c : Core) (o : Nat) (w : Nat → XWord) {i : Nat} (hi : i < 16) :
    (c.filledWith o w).regAt (16 * o + 8 + i) = ⟨w i, true⟩ := by
  rw [Core.regAt_filledWith, if_pos (by omega), Nat.add_sub_cancel_left]

/-- A fill leaves the registers of other frames. -/
theorem Core.regAt_filledWith_outside (c : Core) (o : Nat) (w : Nat → XWord) {key : Nat} (h : key < 16 * o + 8 ∨ 16 * o + 24 ≤ key) :
    (c.filledWith o w).regAt key = c.regAt key := by
  rw [Core.regAt_filledWith, if_neg (by omega)]

/-- The keys of a frame with their places in its image. -/
theorem zipIdx_frameKeys (o : Nat) : (frameKeys o).zipIdx = (List.range 16).map fun i => (16 * o + 8 + i, i) := by
  apply List.ext_getElem <;> simp [frameKeys]

/-- A fill that is ready reads the image of the youngest spilled frame into its registers (R97, R98). -/
theorem State.fillStep_of_ready {s : State} {k : Nat} (he : (s.core k).eng = .filling) (hr : (s.core k).spillReady = true) :
    s.fillStep k = s.modCore k fun c => c.filledWith ((s.core k).ctx.spilled - 1) fun i =>
      BitVec.ofNat 64 (s.load (placePad k (128 * ((s.core k).ctx.spillBase.toNat + ((s.core k).ctx.spilled - 1))) + 8 * i) 8) := by
  simp only [State.fillStep, if_pos (And.intro he hr), zipIdx_frameKeys, List.map_map, List.foldl_map, Core.filledWith, Core.fillFrame,
    Function.comp_apply]

/-- A fill may move data once nothing is outstanding and a frame is spilled (R97). -/
theorem Core.spillReady_of_filling {c : Core} (he : c.eng = .filling) (ho : c.out = []) (hs : 0 < c.ctx.spilled) : c.spillReady = true := by
  simp [Core.spillReady, he, ho, hs]

/-! The carve-out. -/

/-- A core that runs nothing and has nothing pre-empted, with its L1 empty and written back and no actor on leaving lines, takes its accepted
carve-out (R105). -/
theorem State.carveApply_of_quiet {s : State} {k : Nat} {v : Carve} (ha : (s.core k).accepted = some v) (hact : (s.core k).act = none)
    (hfin : (s.core k).finish = none) (hsaving : (s.core k).saving = false) (hsaved : (s.core k).saved = []) (hl1 : (s.core k).l1 = [])
    (hp : ∀ p ∈ (s.core k).posted, p.kind ≠ 3) (hc : s.curdsBeyond k v.spsize = []) :
    s.carveApply k = (s.carveLines k (s.core k).spsize v.spsize).modCore k fun c => { c with carve := v, accepted := none } := by
  have hany : ((s.core k).posted.any fun p => decide (p.kind = 3)) = false := List.any_eq_false.2 fun p h => by simpa using hp p h
  simp [State.carveApply, ha, hact, hfin, hsaving, hsaved, hl1, hany, hc]

/-- A change of the partitions keeps the memory canonical. -/
theorem State.carveLines_memOk {s : State} (k old new : Nat) (h : s.MemOk) : (s.carveLines k old new).MemOk := by
  unfold State.carveLines
  split <;> exact Memory.clear_wf _ _ _ h

/-- Bytes that enter the scratchpad read zero (R105). -/
theorem State.carveLines_byte_entering {s : State} {k old new o : Nat} (h : s.MemOk) (h1 : old ≤ o) (h2 : o < new) :
    (s.carveLines k old new).byte (placePad k o) = 0 := by
  have hin : placePad k old ≤ placePad k o ∧ placePad k o < placePad k old + (new - old) := by unfold placePad; omega
  rw [State.carveLines, if_pos (by omega)]
  exact (Memory.read_clear s.mem _ _ _ h).trans (if_pos hin)

/-- Bytes that stay in the scratchpad keep their values (R105). -/
theorem State.carveLines_byte_staying {s : State} {k old new o : Nat} (h : s.MemOk) (h1 : o < old) (h2 : o < new) :
    (s.carveLines k old new).byte (placePad k o) = s.byte (placePad k o) := by
  have hout (n m : Nat) (hn : o < n) : ¬ (placePad k n ≤ placePad k o ∧ placePad k o < placePad k n + m) := by unfold placePad; omega
  unfold State.carveLines
  split
  · exact (Memory.read_clear s.mem _ _ _ h).trans (if_neg (hout _ _ h1))
  · exact (Memory.read_clear s.mem _ _ _ h).trans (if_neg (hout _ _ h2))

/-- Lines that enter the scratchpad are full (R105). -/
theorem State.carveLines_lineFull_entering {s : State} {k old new o : Nat} (hd : 128 ∣ old) (h1 : old ≤ o) (h2 : o < new) :
    ((s.carveLines k old new).core k).lineFull o = true := by
  have hline : old ≤ 128 * (o / 128) := by omega
  rw [State.carveLines, if_pos (by omega), State.core_modCore_same]
  simp [Core.lineFull, hline]

/-- A change of the partitions changes no other core. -/
theorem State.carveLines_core_other {s : State} {k old new j : Nat} (hj : j ≠ k) : (s.carveLines k old new).core j = s.core j := by
  unfold State.carveLines
  split <;> exact (State.core_modCore ..).trans (if_neg hj.symm)

/-- The scratchpad ends at a line. -/
theorem Carve.dvd_spsize (v : Carve) : 128 ∣ v.spsize := Dvd.dvd.mul_left (by decide) _

/-- Settles O28: a spill stores the image, a fill puts its doublewords back, and the carve-out clears what enters. -/
theorem spillFillAndCarveOut : Obligations.SpillFillAndCarveOut := by
  unfold Obligations.SpillFillAndCarveOut
  constructor
  · intro k s hm c o place
    refine ⟨fun he hout hd hf => ⟨_, rfl, ?_⟩, fun he hout ho => ⟨_, rfl, ?_⟩⟩
    · rw [State.spillStep_of_ready he (Core.spillReady_of_spilling he hout hd hf)]
      refine ⟨?_, (hm.storeList _ _).modCore _ _, fun i hi => ?_, fun q hq => ?_, fun j hj => ?_⟩
      · rw [State.core_modCore_same, Core.spilledTo_ctx]
      · rw [State.load_modCore]
        exact s.load_storeList_image _ c o i hm hi
      · rw [State.modCore_byte]
        exact s.byte_storeList_outside _ _ q hm (by rwa [Core.image_length])
      · rw [State.core_modCore, if_neg hj.symm, State.storeList_core]
    · rw [State.fillStep_of_ready he (Core.spillReady_of_filling he hout ho)]
      refine ⟨?_, fun p => rfl, fun i hi => ?_, fun key hkey => ?_, fun j hj => ?_⟩
      · rw [State.core_modCore_same, Core.filledWith_ctx]
      · rw [State.core_modCore_same, Core.regAt_filledWith_inside _ _ _ hi]
      · rw [State.core_modCore_same, Core.regAt_filledWith_outside _ _ _ hkey]
      · rw [State.core_modCore, if_neg hj.symm]
  · intro k v s hm c ha hact hfin hsaving hsaved hl1 hp hc
    refine ⟨_, rfl, ?_⟩
    rw [State.carveApply_of_quiet ha hact hfin hsaving hsaved hl1 hp hc, State.core_modCore_same]
    refine ⟨rfl, rfl, ?_, fun o h1 h2 => ⟨?_, ?_⟩, fun o h1 h2 => ?_, fun j hj => ?_⟩
    · exact (State.carveLines_memOk k c.spsize v.spsize hm).modCore k _
    · rw [State.modCore_byte]
      exact State.carveLines_byte_entering hm h1 h2
    · exact State.carveLines_lineFull_entering c.carve.dvd_spsize h1 h2
    · rw [State.modCore_byte]
      exact State.carveLines_byte_staying hm h1 h2
    · rw [State.core_modCore, if_neg hj.symm, State.carveLines_core_other hj]

end Sys2Proof.Machine
end

section
/-! What goes on aside from an instruction's registers: write-backs and other sends, dropped lines, what a captured activation logs, latency counters. -/

namespace Sys2Proof.Machine

/-- An access but for the marks that only decide whether its line is kept (spec/16_model.md R374, R376). -/
def Access.plain (a : Access) : Access := { a with stale := false, after := 0 }

/-- A core with another's posted operations, L1, accesses, drain mark, latency counters, capture buffer, logged lines and pre-empted contexts. -/
def Core.withAside (c d : Core) : Core :=
  { c with posted := d.posted, l1 := d.l1, out := d.out, drain := d.drain, latacc := d.latacc, capBuf := d.capBuf, logged := d.logged, saved := d.saved }

/-- A state with another's cores, endpoints, network, count of identities and of free values. -/
def State.withAside (s u : State) : State := { s with cores := u.cores, eps := u.eps, net := u.net, nextId := u.nextId, free := u.free }

/-- `t` is `s` but for what core `k` has sent, dropped from its L1, counted and logged: no byte of memory, no register, no context, no access and no
other core differs, and no stream expects another number. -/
structure State.Aside (k : Nat) (s t : State) : Prop where
  device : t.withAside s = s
  core : (t.core k).withAside (s.core k) = s.core k
  out : (t.core k).out.map Access.plain = (s.core k).out.map Access.plain
  others : ∀ j, j ≠ k → t.core j = s.core j
  streams : ∀ e, (t.ep e).streams = (s.ep e).streams

namespace State.Aside

variable {k : Nat} {s t u : State}

theorem refl (k : Nat) (s : State) : s.Aside k s := ⟨rfl, rfl, rfl, fun _ _ => rfl, fun _ => rfl⟩

theorem trans (h : s.Aside k t) (g : t.Aside k u) : s.Aside k u where
  device := (congrArg (State.withAside · s) g.device).trans h.device
  core := (congrArg (Core.withAside · (s.core k)) g.core).trans h.core
  out := g.out.trans h.out
  others := fun j hj => (g.others j hj).trans (h.others j hj)
  streams := fun e => (g.streams e).trans (h.streams e)

/-- Steps in a row, each aside. -/
theorem foldl {α : Type} {f : State → α → State} (hf : ∀ (s : State) (a : α), s.Aside k (f s a)) (l : List α) (s : State) : s.Aside k (l.foldl f s) := by
  induction l generalizing s with
  | nil => exact refl k s
  | cons a l ih => exact (hf s a).trans (ih _)

theorem mem (h : s.Aside k t) : t.mem = s.mem := (congrArg State.mem h.device :)
theorem cur (h : s.Aside k t) : t.cur = s.cur := (congrArg State.cur h.device :)
theorem jobs (h : s.Aside k t) : t.jobs = s.jobs := (congrArg State.jobs h.device :)
theorem clusters (h : s.Aside k t) : t.clusters = s.clusters := (congrArg State.clusters h.device :)
theorem invals (h : s.Aside k t) : t.invals = s.invals := (congrArg State.invals h.device :)
theorem byte (h : s.Aside k t) (p : Nat) : t.byte p = s.byte p := by rw [State.byte, h.mem, State.byte]
theorem bytesSame (h : s.Aside k t) : s.BytesSame t := h.byte
theorem memOk (h : s.Aside k t) (hm : s.MemOk) : t.MemOk := by rw [State.MemOk, h.mem]; exact hm

theorem xs (h : s.Aside k t) : (t.core k).xs = (s.core k).xs := (congrArg Core.xs h.core :)
theorem vs (h : s.Aside k t) : (t.core k).vs = (s.core k).vs := (congrArg Core.vs h.core :)
theorem ms (h : s.Aside k t) : (t.core k).ms = (s.core k).ms := (congrArg Core.ms h.core :)
theorem accs (h : s.Aside k t) : (t.core k).accs = (s.core k).accs := (congrArg Core.accs h.core :)
theorem ctx (h : s.Aside k t) : (t.core k).ctx = (s.core k).ctx := (congrArg Core.ctx h.core :)
theorem pc (h : s.Aside k t) : (t.core k).pc = (s.core k).pc := (congrArg Core.pc h.core :)
theorem blocked (h : s.Aside k t) : (t.core k).blocked = (s.core k).blocked := (congrArg Core.blocked h.core :)
theorem regAt (h : s.Aside k t) (key : Nat) : (t.core k).regAt key = (s.core k).regAt key := by rw [Core.regAt, h.xs, Core.regAt]

end State.Aside

/-- A change of the core's own aside parts. -/
theorem State.aside_modCore (s : State) (k : Nat) (f : Core → Core) (hf : (f (s.core k)).withAside (s.core k) = s.core k)
    (ho : (f (s.core k)).out.map Access.plain = (s.core k).out.map Access.plain) : s.Aside k (s.modCore k f) where
  device := rfl
  core := by rw [State.core_modCore_same]; exact hf
  out := by rw [State.core_modCore_same]; exact ho
  others := fun j hj => by rw [State.core_modCore, if_neg hj.symm]
  streams := fun _ => rfl

/-- A change of an endpoint that leaves its streams. -/
theorem State.aside_modEp (s : State) (k e : Nat) (f : Endpoint → Endpoint) (hf : ∀ x, (f x).streams = x.streams) : s.Aside k (s.modEp e f) where
  device := rfl
  core := rfl
  out := rfl
  others := fun _ _ => rfl
  streams := fun j => by
    rw [State.ep_modEp]; split
    · next h => rw [hf, h]
    · rfl

/-- A change of the network and of the count of identities. -/
theorem State.aside_net (s : State) (k : Nat) (ps : List Packet) (n : Nat) : s.Aside k { s with net := ps, nextId := n } :=
  ⟨rfl, rfl, rfl, fun _ _ => rfl, fun _ => rfl⟩

/-- A packet sent. -/
theorem State.aside_send (s : State) (k : Nat) (x : Send) : s.Aside k (s.send x) := by
  have h1 : s.Aside k (s.bumpSeq x.src x.dst x.inorder) := s.aside_modEp k _ _ fun _ => rfl
  unfold State.send
  dsimp only
  split
  · exact h1.trans (State.aside_net _ k _ _)
  · exact (h1.trans (State.aside_net _ k _ _)).trans (State.aside_modEp _ k _ _ fun _ => rfl)

/-- What a sender says of a packet, in the packet (spec/17_network.md R400). -/
structure Packet.Carries (p : Packet) (x : Send) : Prop where
  src : p.src = x.src
  dst : p.dst = x.dst
  cls : p.cls = x.cls
  body : p.body = x.body
  inorder : p.inorder = x.inorder

/-- A packet sent joins the network behind all others. -/
theorem State.send_net (s : State) (x : Send) : ∃ p : Packet, (s.send x).net = s.net ++ [p] ∧ p.Carries x := by
  unfold State.send
  dsimp only
  split <;> exact ⟨_, rfl, rfl, rfl, rfl, rfl, rfl⟩

/-- A packet sent changes no core. -/
@[simp] theorem State.send_cores (s : State) (x : Send) : (s.send x).cores = s.cores := by
  unfold State.send
  dsimp only
  split <;> rfl

/-- A packet sent changes no core's record. -/
@[simp] theorem State.send_core (s : State) (x : Send) (k : Nat) : (s.send x).core k = s.core k := by rw [State.core, State.send_cores, State.core]

/-- A packet sent by an executing core. -/
@[simp] theorem State.send_cur (s : State) (x : Send) : (s.send x).cur = s.cur := (s.aside_send 0 x).cur

/-- A packet sent changes nothing of the executing core. -/
@[simp] theorem State.send_c (s : State) (x : Send) : (s.send x).c = s.c := by rw [State.c, State.send_cur, State.send_core, State.c]

/-- The count of identities. -/
theorem State.aside_nextId (s : State) (k n : Nat) : s.Aside k { s with nextId := n } := ⟨rfl, rfl, rfl, fun _ _ => rfl, fun _ => rfl⟩

/-- A posted operation. -/
theorem State.aside_post (s : State) (k : Nat) (p : Posted) (cls : Nat) (room : Option Nat) : s.Aside k (s.post k p cls room) :=
  ((s.aside_nextId k _).trans (State.aside_modCore _ k _ rfl rfl)).trans (State.aside_send ..)

/-- A write-back. -/
theorem State.aside_writeBack (s : State) (k : Nat) (x : L1Line) : s.Aside k (s.writeBack k x) := by
  unfold State.writeBack; split
  · exact .refl k s
  · exact s.aside_post ..

/-- Write-backs of some lines. -/
theorem State.aside_writeBackIf (s : State) (k : Nat) (sel : L1Line → Bool) : s.Aside k (s.writeBackIf k sel) := by
  unfold State.writeBackIf
  exact (State.Aside.foldl (fun s x => s.aside_writeBack k x) _ s).trans (State.aside_modCore _ k _ rfl rfl)

/-- Marking an access stale, or after a moment, leaves it plainly as it was. -/
theorem Access.map_plain_mark (l : List Access) (f : Access → Access) (hf : ∀ a, (f a).plain = a.plain) : (l.map f).map Access.plain = l.map Access.plain := by
  rw [List.map_map]; exact List.map_congr_left fun a _ => hf a

/-- Lines dropped. -/
theorem State.aside_dropLines (s : State) (k : Nat) (sel : L1Line → Bool) : s.Aside k (s.dropLines k sel) :=
  (s.aside_writeBackIf k sel).trans (State.aside_modCore _ k _ rfl (Access.map_plain_mark _ _ fun a => by split <;> rfl))

/-- The acquire of a scope beyond the core. -/
theorem State.aside_acquireL1 (s : State) (k : Nat) : s.Aside k (s.acquireL1 k) := by
  unfold State.acquireL1
  exact (s.aside_dropLines k _).trans (State.aside_modCore _ k _ rfl rfl)

/-- An acquire. -/
theorem State.aside_acquire (s : State) (scope : Nat) : s.Aside s.cur (s.acquire scope) := by
  unfold State.acquire; split
  · exact .refl _ s
  · exact s.aside_acquireL1 _

/-- The acquire of an access. -/
theorem State.aside_acqAt (s : State) (o : BitVec 4) : s.Aside s.cur (s.acqAt o) := by
  unfold State.acqAt; split
  · exact s.aside_acquire _
  · exact .refl _ s

/-- A line put into the L1. -/
theorem State.aside_l1Fill (s : State) (k ep line : Nat) (d : BitVec 1024) (moment : Nat) : s.Aside k (s.l1Fill k ep line d moment) := by
  unfold State.l1Fill
  dsimp only
  split
  · exact .refl k s
  · refine State.Aside.trans ?_ (State.aside_modCore _ k _ rfl rfl)
    split
    · exact .refl k s
    · split
      · exact s.aside_dropLines k _
      · exact .refl k s

/-- A value seen at its place. -/
theorem State.aside_seenAt (s : State) (k line moment : Nat) : s.Aside k (s.seenAt k line moment) := by
  unfold State.seenAt
  dsimp only
  refine State.Aside.trans ?_ (State.aside_modCore _ k _ rfl (Access.map_plain_mark _ _ fun a => by split <;> rfl))
  split
  · exact s.aside_dropLines k _
  · exact .refl k s

/-- The value of an atomic or a counter operation seen at its place. -/
theorem State.aside_seenAccess (s : State) (k : Nat) (a : Access) (moment : Nat) : s.Aside k (s.seenAccess k a moment) := by
  unfold State.seenAccess; split
  · exact s.aside_seenAt ..
  · exact .refl k s

/-- A reply's delay counted. -/
theorem State.aside_latAdd (s : State) (k : Nat) (p : Packet) : s.Aside k (s.latAdd k p) := by
  unfold State.latAdd; split
  · exact .refl k s
  · exact State.Aside.trans (t := { s with free := s.free + 1 }) ⟨rfl, rfl, rfl, fun _ _ => rfl, fun _ => rfl⟩ (State.aside_modCore _ k _ rfl rfl)

/-- A value logged. -/
theorem State.aside_logAt (s : State) (k n kind where_ : Nat) (v : BitVec 1024) : s.Aside k (s.logAt k n kind where_ v) := by
  rcases s.logAt_eq k n kind where_ v with h | ⟨l, h⟩
  · rw [h]; exact .refl k s
  · rw [h]; exact s.aside_modCore k _ rfl rfl

/-- A line logged. -/
theorem State.aside_logLineAt (s : State) (k n l : Nat) : s.Aside k (s.logLineAt k n l) := by
  unfold State.logLineAt; dsimp only; split
  · exact .refl k s
  · exact (s.aside_logAt k n 0 l _).trans (State.aside_modCore _ k _ rfl rfl)

/-- A reply logged. -/
theorem State.aside_logReply (s : State) (k : Nat) (a : Access) (v : Nat) : s.Aside k (s.logReply k a v) := by
  unfold State.logReply; split
  · exact s.aside_logAt ..
  · exact .foldl (fun s _ => s.aside_logLineAt k _ _) _ s

/-- A line logged no more for what is pre-empted. -/
theorem State.aside_unlogSaved (s : State) (k l : Nat) : s.Aside k (s.unlogSaved k l) := by
  unfold State.unlogSaved; split
  · exact .refl k s
  · exact s.aside_modCore k _ rfl rfl

/-- What is aside stays aside of a change of the core that leaves those parts alone. -/
theorem State.Aside.modC {s t : State} (h : s.Aside s.cur t) {f : Core → Core} (hf : ∀ c d, (f c).withAside (f d) = f (c.withAside d))
    (ho : ∀ c, (f c).out = c.out) : (s.modC f).Aside s.cur (t.modC f) := by
  have hc : (t.core s.cur).withAside (s.core s.cur) = s.core s.cur := h.core
  have hcur : t.cur = s.cur := h.cur
  constructor
  · exact congrArg (fun u : State => { u with cores := (s.modC f).cores }) h.device
  · unfold State.modC
    rw [hcur, State.core_modCore_same, State.core_modCore_same, hf, hc]
  · unfold State.modC
    rw [hcur, State.core_modCore_same, State.core_modCore_same, ho, ho]
    exact h.out
  · intro j hj
    rw [State.core_modC_other _ _ _ (by rwa [hcur]), State.core_modC_other _ _ _ hj]
    exact h.others j hj
  · exact h.streams

/-- A register write and the aside parts do not meet. -/
theorem Core.setX_withAside (rd : BitVec 5) (v : XWord) (c d : Core) : (c.setX rd v).withAside (d.setX rd v) = (c.withAside d).setX rd v := by
  have hk : c.key rd.toNat = (c.withAside d).key rd.toNat := rfl
  simp only [Core.setX, ← hk]
  generalize (if rd.toNat = 0 then 0 else c.key rd.toNat) = key
  unfold Core.withAside
  simp only [Core.putKey_posted, Core.putKey_l1, Core.putKey_out, Core.putKey_drain, Core.putKey_latacc, Core.putKey_capBuf, Core.putKey_logged,
    Core.putKey_saved]
  unfold Core.putKey
  split <;> rfl

/-- What is aside stays aside of a register write. -/
theorem State.Aside.setX {s t : State} (h : s.Aside s.cur t) (rd : BitVec 5) (v : XWord) :
    (s.modC fun c => c.setX rd v).Aside s.cur (t.modC fun c => c.setX rd v) :=
  h.modC (Core.setX_withAside rd v) fun _ => Core.setX_out ..

/-- An instruction that has completed with an effect of one register, and of what is aside, has written that register. -/
theorem RegWritten.of_completed {s e t : State} {rd : BitVec 5} {v : XWord} (h : Completed e t (s.c.pc + 4))
    (ha : (s.modC fun c => c.setX rd v).Aside s.cur e) : RegWritten s t rd v := by
  have hcur : e.cur = s.cur := ha.cur
  have hctx : e.c.ctx = s.c.ctx := by rw [State.c, hcur, ha.ctx, ← State.modC_cur s (fun c => c.setX rd v)]; exact (congrArg Core.ctx (State.c_modC ..)).trans (Core.setX_ctx ..)
  have hcore : e.c = e.core s.cur := by rw [State.c, hcur]
  have hs : (s.modC fun c => c.setX rd v).core s.cur = s.c.setX rd v := State.c_modC ..
  constructor
  · exact h.pc
  · rw [h.instret, hctx]
  · rw [← hctx]; exact h.ctx
  · intro key; rw [h.regAt, hcore, ha.regAt, hs]
  · rw [h.c_vs, hcore, ha.vs, hs, Core.setX_vs]
  · rw [h.c_ms, hcore, ha.ms, hs, Core.setX_ms]
  · rw [h.c_accs, hcore, ha.accs, hs, Core.setX_accs]
  · intro k hk
    rw [h.others k (by rwa [hcur]), ha.others k hk, State.core_modC_other _ _ _ hk]

end Sys2Proof.Machine
end

section
/-! The numbers that memory holds (spec/00_scope.md R3, spec/06_memory.md R128): bytes, their number, its extension. -/

namespace Sys2Proof.Machine

/-- The bytes read. -/
@[simp] theorem Memory.readList_length (m : Memory) (p n : Nat) : (m.readList p n).length = n := by
  induction n generalizing p with
  | zero => rfl
  | succ n ih => rw [Memory.readList, List.length_cons, ih]

/-- The number of some bytes has no more than theirs. -/
theorem leNat_lt (bs : List Byte) : leNat bs < 2 ^ (8 * bs.length) := by
  induction bs with
  | nil => exact Nat.one_pos
  | cons b t ih =>
    rw [leNat, List.length_cons, Nat.mul_succ, Nat.pow_add]
    have hb := b.isLt
    omega

/-- A number loaded has no more than the bytes it is loaded from. -/
theorem State.load_lt (s : State) (p n : Nat) : s.load p n < 2 ^ (8 * n) := by
  have h := leNat_lt (Memory.readList s.mem p n)
  rwa [Memory.readList_length] at h

/-- A number extended by its sign, in both spellings: its two's complement value is taken in 64 bits. -/
theorem ofInt_toInt_ofNat {w v : Nat} (hw : 0 < w) (h64 : w ≤ 64) (hv : v < 2 ^ w) :
    BitVec.ofInt 64 (BitVec.ofNat w v).toInt = if v < 2 ^ (w - 1) then BitVec.ofNat 64 v else BitVec.ofNat 64 (2 ^ 64 - 2 ^ w + v) := by
  have hp : 2 ^ w = 2 * 2 ^ (w - 1) := by rw [← Nat.pow_succ', Nat.succ_eq_add_one, Nat.sub_add_cancel hw]
  have hP : 2 ^ w ≤ 2 ^ 64 := Nat.pow_le_pow_right (by decide) h64
  rw [BitVec.toInt_eq_toNat_cond, BitVec.toNat_ofNat, Nat.mod_eq_of_lt hv]
  generalize 2 ^ (w - 1) = q at *
  generalize 2 ^ w = P at *
  subst hp
  by_cases h : v < q
  · rw [if_pos (by omega), if_pos h, BitVec.ofInt_natCast]
  · rw [if_neg (by omega), if_neg h]
    apply BitVec.eq_of_toNat_eq
    rw [BitVec.toNat_ofInt, BitVec.toNat_ofNat]
    omega

/-- The extension of a loaded value (R128). -/
theorem extendTo64_eq {w v : Nat} (sext : Bool) (hw : 0 < w) (h64 : w ≤ 64) (hv : v < 2 ^ w) :
    extendTo64 w sext v = if sext then BitVec.ofInt 64 (BitVec.ofNat w v).toInt else BitVec.ofNat 64 v := by
  rw [extendTo64, Nat.mod_eq_of_lt hv]
  cases sext with
  | false => rfl
  | true =>
    rw [ofInt_toInt_ofNat hw h64 hv]
    have hp : 2 ^ w = 2 * 2 ^ (w - 1) := by rw [← Nat.pow_succ', Nat.succ_eq_add_one, Nat.sub_add_cancel hw]
    by_cases h : v < 2 ^ (w - 1)
    · simp [h, Nat.div_eq_of_lt h]
    · have hd : v / 2 ^ (w - 1) = 1 := Nat.div_eq_of_lt_le (by omega) (by omega)
      simp [h, hd]

/-- A size in bits fits a register. -/
theorem sizeBytes_bounds (z : Size) : 0 < sizeBytes z ∧ sizeBytes z ≤ 8 := by cases z <;> decide
/-- A load's size in bits fits a register. -/
theorem ldBytes_bounds (z : LdSize) : 0 < ldBytes z ∧ ldBytes z ≤ 8 := by cases z <;> decide

end Sys2Proof.Machine
end

section
/-! What an access checks (spec/06_memory.md R114 to R116, R131, R139, spec/07_views.md R166), where it lets the access go on. -/

namespace Sys2Proof.Machine

/-- The own scratchpad lies below the end of its region (R114). -/
theorem Carve.spsize_le (v : Carve) : v.spsize ≤ 0x60000 := by unfold Carve.spsize; omega

/-- The target of an address in the own scratchpad. -/
def State.ownTgt (s : State) (a : XWord) : Tgt := ⟨.own, placePad s.cur a.toNat, s.cur, 0, 0⟩

/-- The target of an address in a core's aperture. -/
def padTgt (tgt o : Nat) : Tgt := ⟨.pad, placePad tgt o, tgt, 0, 0⟩

/-- An aligned address of the own scratchpad passes the check (R114, R116). -/
theorem State.check_own {s : State} {a : XWord} {n : Nat} (ha : a.toNat % n = 0) (hi : a.toNat + n ≤ s.c.spsize) (hn : 0 < n) (kind : AKind) (amoHost : Bool) :
    s.check s.cur a n kind amoHost = .ok (s.ownTgt a) := by
  have hle : s.c.spsize ≤ 0x60000 := Carve.spsize_le _
  have h1 : ¬ 2 ^ 48 ≤ a.toNat := by omega
  have h2 : a.toNat < 0x60000 := by omega
  have h3 : a.toNat + n ≤ (s.core s.cur).spsize := hi
  simp only [State.check, State.checkAs, ha, h1, h2, h3]
  simp [State.ownTgt]

/-- An aligned address in the aperture of a core whose cluster the job may reach passes the check (R115, R116). -/
theorem State.check_aperture {s : State} {a : XWord} {n tgt : Nat} (hc : isCore tgt = true) (hset : (s.job s.c.jobNum).cset.getLsbD (coreCluster tgt) = true)
    (hw : 2 ^ 32 + tgt * 2 ^ 20 ≤ a.toNat) (ho : a.toNat - (2 ^ 32 + tgt * 2 ^ 20) < 0x60000) (ha : a.toNat % n = 0) (kind : AKind) (amoHost : Bool) :
    s.check s.cur a n kind amoHost = .ok (padTgt tgt (a.toNat - (2 ^ 32 + tgt * 2 ^ 20))) := by
  have ht : tgt < 8192 := by simp [isCore] at hc; exact hc.1
  have h1 : ¬ 2 ^ 48 ≤ a.toNat := by omega
  have h2 : ¬ a.toNat < 0x60000 := by omega
  have h3 : ¬ a.toNat < 2 ^ 32 := by omega
  have h4 : a.toNat < 0x000300000000 := by omega
  have h5 : (a.toNat - 2 ^ 32) / 2 ^ 20 = tgt := by omega
  have h6 : (a.toNat - 2 ^ 32) % 2 ^ 20 = a.toNat - (2 ^ 32 + tgt * 2 ^ 20) := by omega
  have hset' : (s.job (s.core s.cur).jobNum).cset.getLsbD (coreCluster tgt) = true := hset
  simp only [State.check, State.checkAs, ha, h1, h2, h3, h4, h5, h6, hc, hset', decide_eq_true ho]
  simp [padTgt]

/-- A check that passes is no obstacle, and gives the target. -/
theorem State.checkGate_ok {s : State} {k : Nat} {a : XWord} {n : Nat} {kind : AKind} {amoHost : Bool} {t : Tgt} (h : s.check k a n kind amoHost = .ok t) :
    s.checkGate k a n kind amoHost = .go ∧ s.target k a n kind amoHost = t := by
  simp [State.checkGate, State.chkGate, State.target, h]

/-- No TLB entry is touched by an access that is not translated. -/
@[simp] theorem State.tlbTouch_zero (s : State) (k page : Nat) : s.tlbTouch k page 0 = s := rfl

/-- An access that no pending one of its activation meets does not wait for one (R139, spec/07_views.md R166). -/
theorem State.meetGate_go {s : State} {p : Span} (hk : p.k = s.cur) (h : ∀ q ∈ s.c.pendingSpans s.cur, p.ordered q = false) : s.meetGate p = .go := by
  have hany : ((s.core s.cur).underWay s.cur).any p.ordered = false :=
    List.any_eq_false.2 fun q hq => by simpa using h q (List.mem_append_left _ hq)
  rw [State.meetGate, hk, hany]; rfl

/-- Two hulls have a byte in common, whichever is named first. -/
theorem Span.hullsMeet_comm (p q : Span) : p.hullsMeet q = q.hullsMeet p := by
  rw [Bool.eq_iff_iff]
  simp only [Span.hullsMeet, List.any_eq_true, Bool.and_eq_true, decide_eq_true_eq]
  exact ⟨fun ⟨a, ha, b, hb, h1, h2⟩ => ⟨b, hb, a, ha, h2, h1⟩, fun ⟨a, ha, b, hb, h1, h2⟩ => ⟨b, hb, a, ha, h2, h1⟩⟩

/-- Of an access without a view the verdict is that of the hulls (spec/07_views.md R164). -/
theorem Span.verdict_eq_three {p q : Span} (hp : p.view = none ∨ q.view = none) : p.verdict q = 3 ↔ p.hullsMeet q = true := by
  have hr : p.residuesApart q = false := by
    unfold Span.residuesApart
    rcases hp with h | h <;> rw [h]
    cases p.view <;> rfl
  cases hm : p.hullsMeet q <;> simp [Span.verdict, hm, hr]

/-- A write that meets no pending access finds no dirty store in the L1 that it meets (spec/16_model.md R376). -/
theorem State.dirtyGate_go {s : State} {p : Span} (hk : p.k = s.cur) (hv : p.view = none) (hw : p.writes = true)
    (h : ∀ q ∈ s.c.pendingSpans s.cur, p.ordered q = false) (lines : List Nat) : s.dirtyGate p lines = .go := by
  have hmeets : ∀ x ∈ s.c.l1, x.meets s.c.uid p = false := by
    intro x hx
    rw [L1Line.meets, hk, List.any_eq_false]
    intro q hq
    have hq' := h { q with writes := false } (List.mem_append_right _ (List.mem_map.2 ⟨q, List.mem_flatMap.2 ⟨x, hx, hq⟩, rfl⟩))
    have hne : ¬ p.verdict { q with writes := false } = 3 := by simpa [Span.ordered, hw] using hq'
    rw [Span.verdict_eq_three (.inl hv)] at hne
    rw [decide_eq_true_eq, Span.verdict_eq_three (.inr hv), Span.hullsMeet_comm]
    exact hne
  have hany : (s.c.l1.any fun x => x.meets s.c.uid p && decide (lines ≠ [x.line])) = false :=
    List.any_eq_false.2 fun x hx => by simp [hmeets x hx]
  rw [State.dirtyGate, hany]; rfl

/-- With nothing outstanding no earlier access is to return good (R134). -/
theorem goodGate_go {c : Core} (h : c.out = []) : goodGate c = .go := by rw [goodGate, h]; rfl

/-- With nothing to wait for a release of any scope is done (R131). -/
theorem State.releaseGate_go {s : State} (h : s.c.Released) (scope : Nat) : s.releaseGate scope = .go := by
  have hp : (s.c.posted.all fun p => p.copy.isSome) = true := List.all_eq_true.2 fun p hp => Option.isSome_iff_ne_none.2 (h.posted p hp)
  have hp' : (s.c.posted.all fun p => p.copy.isSome || !ownPad s.cur p.line) = true :=
    List.all_eq_true.2 fun p hq => by rw [Option.isSome_iff_ne_none.2 (h.posted p hq)]; rfl
  simp [State.releaseGate, h.clean, h.replies, hp, hp']

/-- What the release at core scope waits for (R131). -/
theorem State.coreReleased_iff (s : State) :
    (!(s.c.out.any fun a => a.atOwn s.cur) && s.c.posted.all fun p => p.copy.isSome || !ownPad s.cur p.line) = true ↔ s.CoreReleased := by
  simp only [Bool.and_eq_true, Bool.not_eq_true', List.any_eq_false, List.all_eq_true, Bool.or_eq_true, Option.isSome_iff_ne_none, Bool.not_eq_true]
  exact ⟨fun h => ⟨h.1, h.2⟩, fun h => ⟨h.1, h.2⟩⟩

/-- With nothing under way in the own scratchpad the release at core scope is done. -/
theorem State.releaseGate_core_go {s : State} (h : s.CoreReleased) : s.releaseGate 0 = .go :=
  congrArg waitUntil (s.coreReleased_iff.2 h)

/-- With something under way there it is awaited. -/
theorem State.releaseGate_core_wait {s : State} (h : ¬ s.CoreReleased) : s.releaseGate 0 = .wait :=
  congrArg waitUntil (Bool.eq_false_iff.2 (mt s.coreReleased_iff.1 h))

end Sys2Proof.Machine
end

section
/-! Loads and remote loads (spec/06_memory.md R128, R131 to R133). -/

namespace Sys2Proof.Machine

/-! A load from the own scratchpad. -/

/-- What a load's checks come to, when they let it go on, in the own scratchpad: its register written, and its acquire made (R128). -/
theorem State.loadAns_own {s : State} {pre : List Gate} {a : XWord} {n : Nat} {rd : BitVec 5} {o : BitVec 4} (sext : Bool) (hpre : firstStop pre = .go)
    (hn : 0 < n) (hown : s.OwnAt a n false) (hline : s.LineReady a) (hload : s.loadGate o = .go) (hd : s.c.DestReady rd) :
    s.loadAns pre a n sext rd o = .done (((s.logLine s.cur (a.toNat / 128)).modC fun c =>
      c.setX rd (extendTo64 (8 * n) sext (s.load (placePad s.cur a.toNat) n))).acqAt o) := by
  obtain ⟨hgate, ht⟩ := State.checkGate_ok (State.check_own hown.aligned hown.inside hn .read true)
  have hgo : firstStop (pre ++ [s.checkGate s.cur a n .read, s.loadGate o, destGate s.c rd, s.meetGate (plainSpan s.cur a n false)]) = .go := by
    rw [firstStop_append hpre, hgate, hload, destGate_ready hd, State.meetGate_go rfl hown.apart]; rfl
  have hgo' : firstStop [waitUntil (s.c.lineFull a.toNat), s.padEccGate a] = .go := by rw [hline.full, State.padEccGate, hline.sound]; rfl
  simp only [State.loadAns, checkedThen_go hgo, ht, State.ownTgt, State.tlbTouch_zero, if_true, checked_go hgo']

/-- A load of which nothing but the release of its acquire is awaited waits for that (R128). -/
theorem State.loadAns_wait {s : State} {pre : List Gate} {a : XWord} {n : Nat} {rd : BitVec 5} {o : BitVec 4} (sext : Bool) (hpre : firstStop pre = .go)
    (hn : 0 < n) (hown : s.OwnAt a n false) (hload : s.loadGate o = .wait) : s.loadAns pre a n sext rd o = .wait s := by
  have hgate := (State.checkGate_ok (State.check_own hown.aligned hown.inside hn .read true)).1
  have hw : firstStop (pre ++ [s.checkGate s.cur a n .read, s.loadGate o, destGate s.c rd, s.meetGate (plainSpan s.cur a n false)]) = .wait := by
    rw [firstStop_append hpre, hgate, hload]; rfl
  simp only [State.loadAns, checkedThen, hw]

/-- A load from the own scratchpad writes its register and nothing else (R128). -/
theorem State.perform_loadAns_own {s : State} {sa : Src} {a : XWord} {n : Nat} {rd : BitVec 5} {o : BitVec 4} (sext : Bool) (h : s.Ready (src1 sa) rd)
    (hn : 0 < n ∧ n ≤ 8) (hown : s.OwnAt a n false) (hline : s.LineReady a) (hload : s.loadGate o = .go) :
    ∃ t, perform s (s.loadAns (srcGates s.c (src1 sa)) a n sext rd o) = .next t
      ∧ RegWritten s t rd (if sext then BitVec.ofInt 64 (BitVec.ofNat (8 * n) (s.load (placePad s.cur a.toNat) n)).toInt
          else BitVec.ofNat 64 (s.load (placePad s.cur a.toNat) n)) ∧ s.BytesSame t := by
  rw [State.loadAns_own sext (srcGates_ready h.srcs) hn.1 hown hline hload h.dest, extendTo64_eq sext (by omega) (by omega) (s.load_lt _ _)]
  have hlog : s.Aside s.cur (s.logLine s.cur (a.toNat / 128)) := s.aside_logLineAt ..
  have hset := hlog.setX rd (if sext then BitVec.ofInt 64 (BitVec.ofNat (8 * n) (s.load (placePad s.cur a.toNat) n)).toInt
          else BitVec.ofNat 64 (s.load (placePad s.cur a.toNat) n))
  generalize (s.logLine s.cur (a.toNat / 128)).modC _ = u at hset ⊢
  have hcur : u.cur = s.cur := hset.cur
  have hall := hset.trans (hcur ▸ u.aside_acqAt o)
  obtain ⟨t, ht, hc⟩ := perform_done h.room hall.cur
  exact ⟨t, ht, .of_completed hc hall, fun p => (hc.byte p).trans (hall.byte p)⟩

/-! A parameter window. -/

/-- The answer of `ldp` within its window: its register written (R132). -/
theorem regWritten_ldp {s : State} {sa : Src} {z : Size} {zx : Bool} {win : BitVec 2} {rd : BitVec 5} {v : Nat} (h : s.Ready (src1 sa) rd)
    (ha : (s.c.x sa.n).toNat % sizeBytes z = 0) (hin : s.windowOut win.toNat (s.c.x sa.n) (sizeBytes z) = false)
    (hv : s.windowRead win.toNat (s.c.x sa.n).toNat (sizeBytes z) = v) (hlt : v < 2 ^ (8 * sizeBytes z)) :
    ∃ t, exec (.ldp z zx win rd sa) s = .next t
      ∧ RegWritten s t rd (if !zx then BitVec.ofInt 64 (BitVec.ofNat (8 * sizeBytes z) v).toInt else BitVec.ofNat 64 v) ∧ s.BytesSame t := by
  obtain ⟨hz, hz8⟩ := sizeBytes_bounds z
  have hgo : firstStop (srcGates s.c (src1 sa) ++ [trapIf (decide ((s.c.x sa.n).toNat % sizeBytes z ≠ 0)) 4 (s.c.x sa.n),
      trapIf (s.windowOut win.toNat (s.c.x sa.n) (sizeBytes z) && s.windowTrap) 14 (windowTval win.toNat (s.c.x sa.n)), destGate s.c rd]) = .go := by
    rw [firstStop_append (srcGates_ready h.srcs), ha, hin, destGate_ready h.dest]; rfl
  have hi : exec (.ldp z zx win rd sa) s = perform s (.done (s.modC fun c => c.setX rd (extendTo64 (8 * sizeBytes z) (!zx) v))) := by
    change execLdp z zx win rd sa s = _
    simp only [execLdp, checked_go hgo]
    rw [hin, ← hv]; rfl
  rw [hi, ← extendTo64_eq (!zx) (by omega) (by omega) hlt]
  obtain ⟨t, ht, hc⟩ := perform_done (s := s) (e := s.modC fun c => c.setX rd (extendTo64 (8 * sizeBytes z) (!zx) v)) h.room rfl
  exact ⟨t, ht, .of_completed hc (.refl ..), hc.byte⟩

/-- `ldp` outside its window, where the class asks for the trap (R132). -/
theorem traps_ldp {s : State} {sa : Src} {z : Size} {zx : Bool} {win : BitVec 2} {rd : BitVec 5} (h : s.Ready (src1 sa) rd)
    (ha : (s.c.x sa.n).toNat % sizeBytes z = 0) (hout : s.windowOut win.toNat (s.c.x sa.n) (sizeBytes z) = true) (ht : s.windowTrap = true) :
    Traps (.ldp z zx win rd sa) s 14 (windowTval win.toNat (s.c.x sa.n)) := by
  have hstop : firstStop (srcGates s.c (src1 sa) ++ [trapIf (decide ((s.c.x sa.n).toNat % sizeBytes z ≠ 0)) 4 (s.c.x sa.n),
      trapIf (s.windowOut win.toNat (s.c.x sa.n) (sizeBytes z) && s.windowTrap) 14 (windowTval win.toNat (s.c.x sa.n)), destGate s.c rd])
      = .trap 14 (windowTval win.toNat (s.c.x sa.n)) := by
    rw [firstStop_append (srcGates_ready h.srcs), ha, hout, ht]; rfl
  change execLdp z zx win rd sa s = _
  simp only [execLdp, checked, hstop]; rfl

/-- `ldp` outside its window, where it does not: zero and WRANGE (R132). -/
theorem completes_ldp_out {s : State} {sa : Src} {z : Size} {zx : Bool} {win : BitVec 2} {rd : BitVec 5} (h : s.Ready (src1 sa) rd)
    (ha : (s.c.x sa.n).toNat % sizeBytes z = 0) (hout : s.windowOut win.toNat (s.c.x sa.n) (sizeBytes z) = true) (ht : s.windowTrap = false) :
    Completes (.ldp z zx win rd sa) s (s.modC fun c => (c.modStatus fun t => { t with wrange := true }).setX rd 0) := by
  have hgo : firstStop (srcGates s.c (src1 sa) ++ [trapIf (decide ((s.c.x sa.n).toNat % sizeBytes z ≠ 0)) 4 (s.c.x sa.n),
      trapIf (s.windowOut win.toNat (s.c.x sa.n) (sizeBytes z) && s.windowTrap) 14 (windowTval win.toNat (s.c.x sa.n)), destGate s.c rd]) = .go := by
    rw [firstStop_append (srcGates_ready h.srcs), ha, ht, Bool.and_false, destGate_ready h.dest]; rfl
  have hi : exec (.ldp z zx win rd sa) s = perform s (.done (s.modC fun c => (c.modStatus fun t => { t with wrange := true }).setX rd 0)) := by
    change execLdp z zx win rd sa s = _
    simp only [execLdp, checked_go hgo]
    rw [hout]; rfl
  rw [Completes, CompletesAt, hi]
  exact perform_done h.room rfl

/-- What lies outside a window of a bound. -/
theorem State.windowOut_eq {s : State} {n b : Nat} (h : s.windowBound n = some b) (o : XWord) (len : Nat) :
    s.windowOut n o len = decide (b < o.toNat + len) := by rw [State.windowOut, h]

/-- What Fleiz reads of a job's memory has no more than its bytes. -/
theorem State.fleizRead_lt {s : State} {job va n v : Nat} (h : s.fleizRead job va n = some v) : v < 2 ^ (8 * n) := by
  unfold State.fleizRead at h
  split at h
  · obtain ⟨p, -, rfl⟩ := Option.map_eq_some_iff.1 h
    exact s.load_lt ..
  · clear * - h
    suffices hl : ∀ (l : List Nat) (v : Nat), l.foldr (fun i v => (s.placeOf? job (va + i)).bind fun p => v.map fun x => s.load p.1 1 + 256 * x) (some 0) = some v →
        v < 2 ^ (8 * l.length) by simpa using hl _ v h
    intro l
    induction l with
    | nil => intro v hv; cases hv; exact Nat.one_pos
    | cons i l ih =>
      intro v hv
      obtain ⟨p, -, hv⟩ := Option.bind_eq_some_iff.1 hv
      obtain ⟨x, hx, rfl⟩ := Option.map_eq_some_iff.1 hv
      have h1 := ih x hx
      have h2 : s.load p.1 1 < 256 := s.load_lt p.1 1
      rw [List.length_cons, Nat.mul_succ, Nat.pow_add]
      omega

end Sys2Proof.Machine
end

section
/-! Accesses that leave the core (spec/06_memory.md R133, R134). -/

namespace Sys2Proof.Machine

/-- An access as the executing core issues it. -/
def Access.issuedBy (a : Access) (s : State) : Access :=
  { a with id := s.nextId, pc := s.c.pc, issued := s.dtime, act := s.c.uid, instret := s.c.ctx.instret }

/-- An access is listed before its requests go out. -/
def State.listAccess (s : State) (a : Access) : State :=
  ({ s with nextId := s.nextId + 1 } : State).modC fun c => { c with out := c.out ++ [a.issuedBy s] }

/-- The read request for a line of an access of an identity, unless something near serves the line. -/
def State.askPart (id : Nat) (s : State) (p : Part × Nat) : State :=
  if p.1.got.isSome || p.1.own then s
  else s.send { src := s.cur, dst := p.1.ep, body := .read { core := s.cur, copy := false, owner := id, part := p.2, line := p.1.line, job := s.c.jobNum }
                job := s.c.jobNum }

/-- An access is listed, and its requests go out. -/
theorem State.startAccess_eq (s : State) (a : Access) : s.startAccess a = a.parts.zipIdx.foldl (State.askPart s.nextId) (s.listAccess a) := rfl

/-- An access of no line sends no request by itself. -/
theorem State.startAccess_of_parts_nil {s : State} {a : Access} (h : a.parts = []) : s.startAccess a = s.listAccess a := by
  rw [State.startAccess_eq, h]; rfl

/-- The request for an access's first line. -/
def State.readOf (s : State) (p : Part) : Send :=
  { src := s.cur, dst := p.ep, job := s.c.jobNum
    body := .read { core := s.cur, copy := false, owner := s.nextId, part := 0, line := p.line, job := s.c.jobNum } }

/-- An access of one line that nothing near serves sends one request. -/
theorem State.startAccess_of_parts_one {s : State} {a : Access} {p : Part} (h : a.parts = [p]) (hg : p.got = none) (ho : p.own = false) :
    s.startAccess a = (s.listAccess a).send (s.readOf p) := by
  have hj : (s.listAccess a).c.jobNum = s.c.jobNum := by rw [State.listAccess, State.c_modC]; rfl
  have hcur : (s.listAccess a).cur = s.cur := rfl
  rw [State.startAccess_eq, h, List.zipIdx_singleton, List.foldl_cons, List.foldl_nil, State.askPart, hg, ho, hj, hcur]
  rfl

/-- The core that has listed an access. -/
theorem State.listAccess_c (s : State) (a : Access) : (s.listAccess a).c = { s.c with out := s.c.out ++ [a.issuedBy s] } := State.c_modC ..

/-- A listed access changes no other core. -/
theorem State.listAccess_core_other (s : State) (a : Access) {k : Nat} (h : k ≠ s.cur) : (s.listAccess a).core k = s.core k :=
  State.core_modC_other _ _ k h

/-- A destination marked empty. -/
theorem Core.regAt_setEmptyKey (c : Core) {key : Nat} (h : key ≠ 0) : (c.setEmptyKey key).regAt key = { c.regAt key with full := false } := by
  rw [Core.setEmptyKey, Core.regAt_putKey _ _ _ _ h, if_pos rfl]

/-- Other registers keep their marks. -/
theorem Core.regAt_setEmptyKey_other (c : Core) {key j : Nat} (h : j ≠ key) : (c.setEmptyKey key).regAt j = c.regAt j := by
  rw [Core.setEmptyKey, Core.regAt_putKey_other _ _ _ _ h.symm]

/-- The key of a register other than x0. -/
theorem Core.destKey_of_ne_zero {c : Core} {rd : BitVec 5} (h : rd ≠ 0) : c.destKey rd = c.key rd.toNat ∧ c.destKey rd ≠ 0 := by
  have hn : rd.toNat ≠ 0 := fun e => h (BitVec.eq_of_toNat_eq e)
  have hk : c.destKey rd = c.key rd.toNat := if_neg hn
  refine ⟨hk, ?_⟩
  rw [hk, Core.key, physX]
  split <;> omega

/-- A register other than x0 is read at its key. -/
theorem Core.reg_of_ne_zero {c : Core} {rd : BitVec 5} (h : rd ≠ 0) : c.reg rd.toNat = c.regAt (c.key rd.toNat) :=
  if_neg fun e => h (BitVec.eq_of_toNat_eq e)

/-! A remote load. -/

/-- The access of a remote load. -/
def State.rldAccess (s : State) (t : Tgt) (a : XWord) (n : Nat) (sext : Bool) (rd : BitVec 5) : Access :=
  { scalarAccess t a n (.x (s.c.destKey rd) (8 * n) sext) with oldX := s.c.regAt (s.c.destKey rd) }

/-- The checks of a remote load, one of which counts the accesses outstanding (R133). -/
def State.rldGates (s : State) (sa : Src) (a : XWord) (n : Nat) (rd : BitVec 5) : List Gate :=
  srcGates s.c (src1 sa) ++ [s.checkGate s.cur a n .read, waitUntil (decide (s.c.out.length < 16)), destGate s.c rd, s.meetGate (plainSpan s.cur a n false)]

/-- A remote load waits while 16 accesses are outstanding (R133). -/
theorem State.rldAns_wait {s : State} {sa : Src} {a : XWord} {n : Nat} {rd : BitVec 5} {t : Tgt} (sext : Bool) (h : s.Ready (src1 sa) rd)
    (hck : s.check s.cur a n .read = .ok t) (hfull : 16 ≤ s.c.out.length) :
    s.rldAns (srcGates s.c (src1 sa)) a n sext rd = .wait s := by
  have hw : firstStop (s.rldGates sa a n rd) = .wait := by
    rw [State.rldGates, firstStop_append (srcGates_ready h.srcs), (State.checkGate_ok hck).1, decide_eq_false (Nat.not_lt.2 hfull)]; rfl
  rw [State.rldGates] at hw
  simp only [State.rldAns, checkedThen, hw]

/-- A remote load of an aperture line that nothing near serves starts its access and marks its destination empty (R133). -/
theorem State.rldAns_aperture {s : State} {sa : Src} {a : XWord} {n : Nat} {rd : BitVec 5} {tgt o : Nat} (sext : Bool) (h : s.Ready (src1 sa) rd)
    (hck : s.check s.cur a n .read = .ok (padTgt tgt o)) (hmeet : ∀ q ∈ s.c.pendingSpans s.cur, (plainSpan s.cur a n false).ordered q = false)
    (hl1 : s.c.l1Find (lineOf (placePad tgt o)) = none) (hback : s.c.backing (lineOf (placePad tgt o)) = false) (hroom : s.c.out.length < 16) :
    s.rldAns (srcGates s.c (src1 sa)) a n sext rd =
      .done ((s.startAccess (s.rldAccess (padTgt tgt o) a n sext rd)).modC fun c => c.setEmptyKey (s.c.destKey rd)) := by
  obtain ⟨hgate, ht⟩ := State.checkGate_ok hck
  have hgo : firstStop (s.rldGates sa a n rd) = .go := by
    rw [State.rldGates, firstStop_append (srcGates_ready h.srcs), hgate, decide_eq_true hroom, destGate_ready h.dest, State.meetGate_go rfl hmeet]; rfl
  rw [State.rldGates] at hgo
  have hregion : (padTgt tgt o).region = .pad := rfl
  have hplace : (padTgt tgt o).place = placePad tgt o := rfl
  have hb : s.c.backGate (lineOf (placePad tgt o)) = .go := by rw [Core.backGate, hback]; rfl
  simp only [State.rldAns, ht, hregion, hplace, reduceCtorEq, if_false, checkedThen, firstStop_go_cons, firstStop_nil, hl1, checked, hb, hgo]
  rfl

/-- The remote load has completed: its access is listed, its destination empty and its request under way. -/
theorem Completed.of_rldAccess {s t : State} {tg : Tgt} {a : XWord} {n : Nat} {sext : Bool} {rd : BitVec 5} (hrd : rd ≠ 0) (hreg : tg.region ≠ .own)
    (h : Completed ((s.startAccess (s.rldAccess tg a n sext rd)).modC fun c => c.setEmptyKey (s.c.destKey rd)) t (s.c.pc + 4)) :
    t.c.ctx.instret = s.c.ctx.instret + 1 ∧ (t.c.reg rd.toNat).full = false ∧ (∀ key, key ≠ s.c.key rd.toNat → t.c.regAt key = s.c.regAt key)
      ∧ t.c.out = s.c.out ++ [(s.rldAccess tg a n sext rd).issuedBy s] ∧ s.BytesSame t
      ∧ ∃ p ∈ t.net, p.src = s.cur ∧ p.dst = tg.ep ∧ p.body = (s.readOf { line := lineOf tg.place, ep := tg.ep }).body := by
  obtain ⟨hkey, hne⟩ := Core.destKey_of_ne_zero (c := s.c) hrd
  have hparts : (s.rldAccess tg a n sext rd).parts = [{ line := lineOf tg.place, ep := tg.ep }] := by
    rw [State.rldAccess, scalarAccess, decide_eq_false hreg]
  rw [State.startAccess_of_parts_one hparts rfl rfl] at h
  obtain ⟨p, hp, hc⟩ := (s.listAccess (s.rldAccess tg a n sext rd)).send_net (s.readOf { line := lineOf tg.place, ep := tg.ep })
  generalize hu : (s.listAccess (s.rldAccess tg a n sext rd)).send (s.readOf { line := lineOf tg.place, ep := tg.ep }) = u at h hp
  have huc : u.c = { s.c with out := s.c.out ++ [(s.rldAccess tg a n sext rd).issuedBy s] } := by
    rw [← hu, State.send_c, State.listAccess_c]
  have hec : (u.modC fun c => c.setEmptyKey (s.c.destKey rd)).c = u.c.setEmptyKey (s.c.destKey rd) := State.c_modC ..
  have hxs (key : Nat) : u.c.regAt key = s.c.regAt key := by rw [huc]; rfl
  refine ⟨?_, ?_, fun key hk => ?_, ?_, fun q => ?_, p, ?_, hc.src, hc.dst, hc.body⟩
  · rw [h.instret, hec, Core.setEmptyKey_ctx, huc]
  · rw [h.reg, hec, Core.reg_of_ne_zero hrd, Core.key, Core.setEmptyKey_ctx, huc, hkey]
    exact congrArg Reg.full (Core.regAt_setEmptyKey _ (hkey ▸ hne))
  · rw [h.regAt, hec, Core.regAt_setEmptyKey_other _ (hkey ▸ hk), hxs]
  · rw [h.c_out, hec, Core.setEmptyKey_out, huc]
  · rw [h.byte, ← hu]
    exact ((s.listAccess (s.rldAccess tg a n sext rd)).aside_send s.cur _).byte q
  · rw [h.net]; change p ∈ u.net; rw [hp]; exact List.mem_append_right _ (List.mem_singleton_self p)

/-- What lies outside the class constants or the job parameter block (R132). -/
theorem State.windowOut_param {s : State} {a : Act} {win : BitVec 2} {n : Nat} (hact : s.c.act = some a) (hn : 0 < n) (hwin : win = 1 ∨ win = 2) (o : XWord) :
    s.windowOut win.toNat o n = decide ((if win = 1 then a.desc.constlen.toNat else (s.job a.job).jparlen) < o.toNat + n) := by
  rcases hwin with rfl | rfl
  · exact State.windowOut_eq (by simp [State.windowBound, hact]) o n
  · by_cases hz : (s.job a.job).jparlen = 0
    · simp [State.windowOut, State.windowBound, hact, hz]; omega
    · exact State.windowOut_eq (by simp [State.windowBound, hact, hz]) o n

/-- What the class constants or the job parameter block hold (R132). -/
theorem State.windowRead_param {s : State} {a : Act} {win : BitVec 2} {o n v : Nat} (hact : s.c.act = some a) (hwin : win = 1 ∨ win = 2)
    (hv : s.fleizRead a.job ((if win = 1 then a.desc.constb.toNat else (s.job a.job).jpar.toNat) + o) n = some v) : s.windowRead win.toNat o n = v := by
  rcases hwin with rfl | rfl <;> simp_all [State.windowRead]

/-- Settles O21: a load in the own scratchpad writes its register, `ldp` reads its window, and a remote load sends its request. -/
theorem loadsAndRemoteLoads : Obligations.LoadsAndRemoteLoads := by
  unfold Obligations.LoadsAndRemoteLoads
  constructor
  · intro sz z zx ord rd sa imm s h value loads
    have hz := sizeBytes_bounds z
    refine ⟨fun hown hline => State.perform_loadAns_own _ h (ldBytes_bounds sz) hown hline rfl, fun hrel hown hline => ?_, fun hne hown hline => ?_,
      fun hacq hrel hown => ?_, fun a hact hkind hal => ?_⟩
    · refine State.perform_loadAns_own _ h hz hown hline ?_
      unfold State.loadGate; split
      · exact State.releaseGate_core_go hrel
      · rfl
    · exact State.perform_loadAns_own _ h hz hown hline (if_neg hne)
    · have hload : s.loadGate ord = .wait := (if_pos hacq).trans (State.releaseGate_core_wait hrel)
      change perform s _ = _
      rw [State.loadAns_wait _ (srcGates_ready h.srcs) hz.1 hown hload]; rfl
    · have htrap (b : Bool) (hb : a.desc.wrt = b) : s.windowTrap = b := by rw [State.windowTrap, hact, ← hb]
      intro o
      have hbound0 : s.windowBound (0 : BitVec 2).toNat = some a.msg.len := by simp [State.windowBound, hact, hkind]
      refine ⟨fun hin => ?_, fun hout hw => ?_, fun hout hw => ?_, fun win hwin => ?_⟩
      · refine regWritten_ldp h hal (by rw [State.windowOut_eq hbound0, decide_eq_false (by omega)]) (by simp [State.windowRead, hact, o]) ?_
        exact lt_of_lt_of_le (leNat_lt _) (Nat.pow_le_pow_right (by decide) (Nat.mul_le_mul_left 8 (List.length_take_le ..)))
      · have hT := traps_ldp (zx := zx) (win := 0) h hal (by rw [State.windowOut_eq hbound0, decide_eq_true hout]) (htrap _ hw)
        simpa [windowTval] using hT
      · exact completes_ldp_out h hal (by rw [State.windowOut_eq hbound0, decide_eq_true hout]) (htrap _ hw)
      · intro b bound
        have hout_iff : s.windowOut win.toNat (s.c.x sa.n) (sizeBytes z) = decide (bound < o + sizeBytes z) :=
          State.windowOut_param hact hz.1 hwin _
        have hread : ∀ v, s.fleizRead a.job b (sizeBytes z) = some v → s.windowRead win.toNat o (sizeBytes z) = v := fun v hv =>
          State.windowRead_param hact hwin hv
        refine ⟨fun hin v hv => ?_, fun hout hw => ?_, fun hout hw => ?_⟩
        · exact regWritten_ldp h hal (by rw [hout_iff, decide_eq_false (by omega)]) (hread v hv) (State.fleizRead_lt hv)
        · exact traps_ldp h hal (by rw [hout_iff, decide_eq_true hout]) (htrap _ hw)
        · exact completes_ldp_out h hal (by rw [hout_iff, decide_eq_true hout]) (htrap _ hw)
  · intro sz rd sa imm tgt s h hrd a n o hcore hw ho hal hset hmeet hl1 hback
    have ho' : a.toNat - (2 ^ 32 + tgt * 2 ^ 20) = o := (Nat.sub_sub ..).symm
    have hck : s.check s.cur a n .read = .ok (padTgt tgt o) := by
      rw [← ho']; exact State.check_aperture hcore hset hw (by rw [ho']; exact ho) hal .read true
    refine ⟨fun hfull => ?_, fun hroom => ?_⟩
    · change perform s (s.rldAns _ a n _ rd) = _
      rw [State.rldAns_wait _ h hck hfull]; rfl
    · obtain ⟨t, ht, hc⟩ := perform_done (s := s)
        (e := (s.startAccess (s.rldAccess (padTgt tgt o) a n (ldSext sz) rd)).modC fun c => c.setEmptyKey (s.c.destKey rd)) h.room
        (by rw [State.startAccess_of_parts_one rfl rfl rfl]; exact State.send_cur ..)
      obtain ⟨hinstret, hempty, hregs, hout, hbytes, p, hp, hsrc, hdst, hbody⟩ := hc.of_rldAccess hrd (Region.noConfusion : Region.pad ≠ Region.own)
      refine ⟨t, _, ?_, hc.pc, hinstret, hempty, hregs, hout, rfl, rfl, rfl, rfl, hbytes, p, hp, hsrc, hdst, hbody⟩
      rw [← ht, ← State.rldAns_aperture (ldSext sz) h hck hmeet hl1 hback hroom]; rfl

end Sys2Proof.Machine
end

section
/-! Posted operations (spec/06_memory.md R139). -/

namespace Sys2Proof.Machine

/-- `u` is `s` with the executing core's operations `xs` posted: listed there, and a packet of class 2 of each on its way. -/
structure State.HasPosted (s : State) (xs : List Posted) (u : State) : Prop where
  aside : s.Aside s.cur u
  core : u.c = { s.c with posted := s.c.posted ++ xs }
  net : ∃ ps, u.net = s.net ++ ps ∧ ps.map Packet.body = xs.map Body.posted
    ∧ ∀ p ∈ ps, p.src = s.cur ∧ p.cls = 2 ∧ p.inorder = epIsCore p.dst ∧ ∃ x ∈ xs, p.dst = x.ep

/-- Nothing posted. -/
theorem State.HasPosted.nil (s : State) : s.HasPosted [] s :=
  ⟨.refl _ s, by rw [List.append_nil], [], (List.append_nil _).symm, rfl, fun _ h => absurd h List.not_mem_nil⟩

/-- Operations posted after others. -/
theorem State.HasPosted.append {s u w : State} {xs ys : List Posted} (h : s.HasPosted xs u) (g : u.HasPosted ys w) : s.HasPosted (xs ++ ys) w := by
  obtain ⟨ps, hn, hb, hp⟩ := h.net
  obtain ⟨qs, gn, gb, gp⟩ := g.net
  refine ⟨h.aside.trans (h.aside.cur ▸ g.aside), ?_, ps ++ qs, ?_, ?_, fun p hm => ?_⟩
  · rw [g.core, h.core, List.append_assoc]
  · rw [gn, hn, List.append_assoc]
  · rw [List.map_append, hb, gb, List.map_append]
  · rcases List.mem_append.1 hm with hm | hm
    · obtain ⟨h1, h2, h3, x, hx, h4⟩ := hp p hm
      exact ⟨h1, h2, h3, x, List.mem_append_left _ hx, h4⟩
    · obtain ⟨h1, h2, h3, x, hx, h4⟩ := gp p hm
      exact ⟨h1.trans h.aside.cur, h2, h3, x, List.mem_append_right _ hx, h4⟩

/-- The operation that a state posts of one given. -/
def State.postedOf (s : State) (p : Posted) : Posted := { s.c.label s.cur p with id := s.nextId }

/-- One operation posted. -/
theorem State.hasPosted_postLine (s : State) (p : Posted) : s.HasPosted [s.postedOf p] (s.postLine p) := by
  refine ⟨s.aside_post s.cur (s.c.label s.cur p) 2 (some (s.c.label s.cur p).room), ?_, ?_⟩
  · rw [State.postLine, State.post, State.send_c]
    exact State.core_modCore_same ..
  · rw [State.postLine, State.post]
    obtain ⟨q, hq, hc⟩ := State.send_net (({ s with nextId := s.nextId + 1 } : State).modCore s.cur fun c => { c with posted := c.posted ++ [s.postedOf p] })
      { src := s.cur, dst := (s.c.label s.cur p).ep, cls := 2, body := .posted (s.postedOf p), len := popCount (s.c.label s.cur p).mask.toNat 128
        inorder := epIsCore (s.c.label s.cur p).ep, retain := some (s.c.label s.cur p).room, job := (s.c.label s.cur p).job }
    refine ⟨[q], hq, by rw [List.map_singleton, hc.body, List.map_singleton], fun p' hp' => ?_⟩
    obtain rfl := List.mem_singleton.1 hp'
    exact ⟨hc.src, hc.cls, hc.inorder.trans (congrArg epIsCore hc.dst).symm, _, List.mem_singleton_self _, hc.dst⟩

/-- The packet of one operation posted. -/
theorem State.HasPosted.packet {s u : State} {x : Posted} (h : s.HasPosted [x] u) :
    ∃ p, u.net = s.net ++ [p] ∧ p.src = s.cur ∧ p.dst = x.ep ∧ p.body = .posted x := by
  obtain ⟨ps, hn, hb, hp⟩ := h.net
  obtain ⟨p, rfl, hbody⟩ := List.map_eq_singleton_iff.1 hb
  obtain ⟨hsrc, -, -, y, hy, hdst⟩ := hp p (List.mem_singleton_self p)
  obtain rfl := List.mem_singleton.1 hy
  exact ⟨p, hn, hsrc, hdst, hbody⟩

/-- The labels of an operation leave what it does. -/
theorem Core.label_fields (c : Core) (k : Nat) (p : Posted) :
    (c.label k p).kind = p.kind ∧ (c.label k p).mask = p.mask ∧ (c.label k p).va = p.va ∧ (c.label k p).line = p.line ∧ (c.label k p).ep = p.ep := by
  unfold Core.label
  split <;> exact ⟨rfl, rfl, rfl, rfl, rfl⟩

/-- With 32 posted operations unacknowledged another waits (R139). -/
theorem State.postGate_wait {s : State} (h : 32 ≤ (s.c.posted.filter fun p => decide (p.kind ≠ 3) && p.copy.isNone).length) (len : Nat) :
    s.postGate len = .wait := by
  rw [State.postGate, Core.postsFull, decide_eq_true h]; rfl

/-- With fewer, and room in the retain buffer, it goes on (R139). -/
theorem State.postGate_go {s : State} {len : Nat} (h : (s.c.posted.filter fun p => decide (p.kind ≠ 3) && p.copy.isNone).length < 32)
    (hr : s.retainRoom s.cur (retainBytes len) = true) : s.postGate len = .go := by
  rw [State.postGate, Core.postsFull, decide_eq_false (Nat.not_le.2 h), State.retainGate, hr]; rfl

/-- An instruction whose whole effect is the posting of some operations completes with them. -/
theorem State.HasPosted.completed {s u t : State} {xs : List Posted} {pc : BitVec 32} (h : s.HasPosted xs u) (hc : Completed u t pc) :
    t.c.pc = pc ∧ t.c.ctx.instret = s.c.ctx.instret + 1 ∧ t.c.xs = s.c.xs ∧ t.c.vs = s.c.vs ∧ s.BytesSame t ∧ t.c.posted = s.c.posted ++ xs
      ∧ t.c.empty = s.c.empty ∧ t.net = u.net ∧ ∀ k, k ≠ s.cur → t.core k = s.core k := by
  have hcur := h.aside.cur
  refine ⟨hc.pc, ?_, ?_, ?_, fun p => (hc.byte p).trans (h.aside.byte p), ?_, ?_, hc.net, fun k hk => ?_⟩
  · rw [hc.instret, h.core]
  · rw [hc.c_xs, h.core]
  · rw [hc.c_vs, h.core]
  · rw [hc.c_posted, h.core]
  · rw [hc.c_empty, h.core]
  · exact (hc.others k (by rwa [hcur])).trans (h.aside.others k hk)

end Sys2Proof.Machine
end

section
/-! Marks of scratchpad lines, waits and tests (spec/06_memory.md R126). -/

namespace Sys2Proof.Machine

/-- A line marked empty is empty, others stay. -/
theorem Core.lineFull_markEmpty (c : Core) (l j : Nat) : (c.markEmpty l).lineFull (128 * j) = (decide (j ≠ l) && c.lineFull (128 * j)) := by
  rw [Core.lineFull, Core.lineFull, Core.markEmpty, Nat.mul_div_cancel_left j (by decide)]
  by_cases h : j = l <;> by_cases hl : l ∈ c.empty <;> simp [h, hl]

/-- A line marked full is full, others stay. -/
theorem Core.lineFull_markFull (c : Core) (l j : Nat) : (c.markFull l).lineFull (128 * j) = (decide (j = l) || c.lineFull (128 * j)) := by
  rw [Core.lineFull, Core.lineFull, Core.markFull, Nat.mul_div_cancel_left j (by decide)]
  by_cases h : j = l <;> simp [h]

/-- An address below the translated ones is no obstacle (R126). -/
theorem rangeGate_go {a : XWord} (h : a.toNat < 2 ^ 40) : rangeGate a = .go := by
  rw [rangeGate, translated, decide_eq_false (Nat.not_le.2 h)]; rfl

/-- A translated address is the local range fault (R126). -/
theorem rangeGate_trap {a : XWord} (h : 2 ^ 40 ≤ a.toNat) (h' : a.toNat < 2 ^ 48) : rangeGate a = .trap 5 a := by
  rw [rangeGate, translated, decide_eq_true h, decide_eq_true h']; rfl

/-- An address in the own scratchpad. -/
theorem Core.own_lt {c : Core} {a : XWord} (h : a.toNat < c.spsize) : a.toNat < 0x60000 := lt_of_lt_of_le h (Carve.spsize_le _)

/-- A mark in the own scratchpad changes its line's full/empty state (R126). -/
theorem State.markAns_own {s : State} {sa : Src} {a : XWord} (h : s.c.SrcsReady (src1 sa)) (ha : a.toNat < s.c.spsize) (full : Bool) :
    s.markAns (srcGates s.c (src1 sa)) a full =
      .done (s.modC fun c => if full then c.markFull (a.toNat / 128) else c.markEmpty (a.toNat / 128)) := by
  obtain ⟨hgate, ht⟩ := State.checkGate_ok (State.check_own (n := 1) (Nat.mod_one _) ha Nat.one_pos .write true)
  have hgo : firstStop (srcGates s.c (src1 sa) ++ [Machine.rangeGate a, s.checkGate s.cur a 1 .write]) = .go := by
    rw [firstStop_append (srcGates_ready h), hgate, rangeGate_go (lt_trans (Core.own_lt ha) (by decide))]; rfl
  simp only [State.markAns, checkedThen_go hgo, ht]
  rfl

/-- The mark of an aperture line, as it is posted. -/
def markPost (a : XWord) (full : Bool) (tgt o : Nat) : Posted :=
  { kind := if full then 2 else 1, va := a, line := lineOf (placePad tgt o), ep := tgt, lo := a.toNat, hi := a.toNat }

/-- A mark through an aperture goes by the room for posted operations (R126, R139). -/
theorem State.markAns_aperture {s : State} {sa : Src} {a : XWord} {tgt o : Nat} (h : s.c.SrcsReady (src1 sa)) (hck : s.check s.cur a 1 .write = .ok (padTgt tgt o))
    (hr : a.toNat < 2 ^ 40) (hout : s.c.out = []) (full : Bool) :
    s.markAns (srcGates s.c (src1 sa)) a full = checkedThen s [s.postGate 0] fun _ => .done (s.postLine (markPost a full tgt o)) := by
  obtain ⟨hgate, ht⟩ := State.checkGate_ok hck
  have hgo : firstStop (srcGates s.c (src1 sa) ++ [Machine.rangeGate a, s.checkGate s.cur a 1 .write]) = .go := by
    rw [firstStop_append (srcGates_ready h), hgate, rangeGate_go hr]; rfl
  simp only [State.markAns, checkedThen_go hgo, ht, goodGate_go hout]
  rfl

/-- Checks, one of which traps. -/
theorem perform_checkedThen_trap {s : State} {gs hs : List Gate} {k : Unit → Ans} {cause : Nat} {v : XWord} (h : firstStop gs = .go) :
    perform s (checkedThen s (gs ++ .trap cause v :: hs) k) = .next (s.takeTrap s.cur cause v) := by
  rw [checkedThen, firstStop_append h]; rfl

/-- The checks of a wait for a line and of a test pass in the own scratchpad (R126). -/
theorem State.lineTestGates_go {s : State} {a : XWord} (ha : a.toNat < s.c.spsize) : firstStop (s.lineTestGates a) = .go := by
  have hlt := Core.own_lt ha
  have hap : inAperture a = false := by rw [inAperture, decide_eq_false (by omega)]; rfl
  rw [State.lineTestGates, (State.checkGate_ok (State.check_own (n := 1) (Nat.mod_one _) ha Nat.one_pos .read true)).1, rangeGate_go (by omega), hap]
  rfl

/-- A translated address fails them (R126). -/
theorem State.lineTestGates_trap {s : State} {a : XWord} (h : 2 ^ 40 ≤ a.toNat) (h' : a.toNat < 2 ^ 48) : firstStop (s.lineTestGates a) = .trap 5 a := by
  have hap : inAperture a = false := by rw [inAperture, decide_eq_false (p := a.toNat < 0x000300000000) (by omega), Bool.and_false]
  rw [State.lineTestGates, hap, rangeGate_trap h h']
  rfl

/-- Settles O24: marks, waits and tests of the own scratchpad's lines, marks posted to another core, the local range fault of translated addresses. -/
theorem lineMarksWaitsAndTests : Obligations.LineMarksWaitsAndTests := by
  unfold Obligations.LineMarksWaitsAndTests
  intro rd sa tgt s hs hroom a own line
  refine ⟨fun hown hout => ⟨?_, ?_⟩, fun hown hfull => ?_, fun hown hempty => ?_, fun hown hd => ?_, fun hcore hlo hhi hset hout => ?_, fun hlo hhi i hi => ?_⟩
  · obtain ⟨t, ht, hc⟩ := perform_done (s := s) (e := s.modC fun c => c.markEmpty line) hroom rfl
    have he : t.c.empty = (s.c.markEmpty line).empty := by rw [hc.c_empty, State.c_modC]
    refine ⟨t, ?_, ?_, fun l => ?_⟩
    · rw [← ht]; exact congrArg (perform s) (State.markAns_own hs hown false)
    · rw [he]; exact hc
    · rw [← Core.lineFull_markEmpty, Core.lineFull, he, Core.lineFull]
  · obtain ⟨t, ht, hc⟩ := perform_done (s := s) (e := s.modC fun c => c.markFull line) hroom rfl
    have he : t.c.empty = (s.c.markFull line).empty := by rw [hc.c_empty, State.c_modC]
    refine ⟨t, ?_, ?_, fun l => ?_⟩
    · rw [← ht]; exact congrArg (perform s) (State.markAns_own hs hown true)
    · rw [he]; exact hc
    · rw [← Core.lineFull_markFull, Core.lineFull, he, Core.lineFull]
  · obtain ⟨t, ht, hc⟩ := perform_done (s := s) (e := s) hroom rfl
    refine ⟨t, ?_, hc⟩
    rw [← ht]
    refine congrArg (perform s) (checked_go ?_)
    rw [List.append_assoc, firstStop_append (srcGates_ready hs), firstStop_append (State.lineTestGates_go hown), hfull]; rfl
  · have hw : firstStop (srcGates s.c (src1 sa) ++ s.lineTestGates a ++ [waitUntil (s.c.lineFull a.toNat)]) = .wait := by
      rw [List.append_assoc, firstStop_append (srcGates_ready hs), firstStop_append (State.lineTestGates_go hown), hempty]; rfl
    change perform s (checked s (srcGates s.c (src1 sa) ++ s.lineTestGates a ++ [waitUntil (s.c.lineFull a.toNat)]) s) = _
    rw [checked, hw]; rfl
  · have hgo : firstStop (srcGates s.c (src1 sa) ++ s.lineTestGates a ++ [destGate s.c rd]) = .go := by
      rw [List.append_assoc, firstStop_append (srcGates_ready hs), firstStop_append (State.lineTestGates_go hown), destGate_ready hd]; rfl
    have hlog : State.Aside s.cur (s.modC fun c => c.setX rd (boolX (s.c.lineFull a.toNat)))
        ((s.modC fun c => c.setX rd (boolX (s.c.lineFull a.toNat))).logResult s.cur (boolX (s.c.lineFull a.toNat))) := by
      exact (s.modC fun c => c.setX rd (boolX (s.c.lineFull a.toNat))).aside_logAt ..
    obtain ⟨t, ht, hc⟩ := perform_done (s := s) hroom hlog.cur
    refine ⟨t, ?_, .of_completed hc hlog, fun p => (hc.byte p).trans (hlog.byte p)⟩
    rw [← ht]
    exact congrArg (perform s) (checked_go hgo)
  · have ho : a.toNat - (2 ^ 32 + tgt * 2 ^ 20) < 0x60000 := by omega
    have htgt : tgt < 8192 := by simp [isCore] at hcore; exact hcore.1
    have hck := State.check_aperture (n := 1) hcore hset hlo ho (Nat.mod_one _) .write true
    have hans := State.markAns_aperture hs hck (by omega) hout
    intro counted
    refine ⟨fun hfull => ⟨?_, ?_⟩, fun hless hret full => ?_⟩
    · change perform s (s.markAns (srcGates s.c (src1 sa)) a false) = _
      rw [hans, State.postGate_wait hfull]; rfl
    · change perform s (s.markAns (srcGates s.c (src1 sa)) a true) = _
      rw [hans, State.postGate_wait hfull]; rfl
    · have hans : s.markAns (srcGates s.c (src1 sa)) a full = .done (s.postLine (markPost a full tgt (a.toNat - (2 ^ 32 + tgt * 2 ^ 20)))) := by
        rw [State.markAns_aperture hs hck (by omega) hout, State.postGate_go hless hret]; rfl
      have hp := s.hasPosted_postLine (markPost a full tgt (a.toNat - (2 ^ 32 + tgt * 2 ^ 20)))
      obtain ⟨t, ht, hc⟩ := perform_done (s := s) hroom hp.aside.cur
      obtain ⟨hpc, hinstret, hxs, -, hbytes, hposted, hempty, hnet, hothers⟩ := hp.completed hc
      obtain ⟨p, hp, hsrc, hdst, hbody⟩ := hp.packet
      obtain ⟨hkind, hmask, hva, hline, hep⟩ := s.c.label_fields s.cur (markPost a full tgt (a.toNat - (2 ^ 32 + tgt * 2 ^ 20)))
      refine ⟨t, p, _, ?_, hpc, hinstret, hempty, hxs, hbytes, hposted, hnet.trans hp, hsrc, hdst.trans hep, hbody, hkind, hmask, hva, hline, hothers⟩
      rw [← ht, ← hans]; cases full <;> rfl
  · have hmark (full : Bool) : perform s (s.markAns (srcGates s.c (src1 sa)) a full) = .next (s.takeTrap s.cur 5 a) := by
      rw [State.markAns, rangeGate_trap hlo hhi]
      exact perform_checkedThen_trap (srcGates_ready hs)
    have htest (g : Gate) (e : State) : perform s (checked s (srcGates s.c (src1 sa) ++ s.lineTestGates a ++ [g]) e) = .next (s.takeTrap s.cur 5 a) := by
      have hstop : firstStop (srcGates s.c (src1 sa) ++ s.lineTestGates a ++ [g]) = .trap 5 a := by
        rw [List.append_assoc, firstStop_append (srcGates_ready hs), firstStop_append_of_stop (by rw [State.lineTestGates_trap hlo hhi]; nofun),
          State.lineTestGates_trap hlo hhi]
      rw [checked, hstop]; rfl
    simp only [List.mem_cons, List.not_mem_nil, or_false] at hi
    rcases hi with rfl | rfl | rfl | rfl
    · exact hmark false
    · exact hmark true
    · exact htest _ _
    · exact htest _ _

end Sys2Proof.Machine
end

section
/-! Fences, cache controls and the instruction store's invalidation (spec/06_memory.md R131, R144, R145, R148). -/

namespace Sys2Proof.Machine

/-- States whose devices are the same but for the model's own records, one after another. -/
theorem State.SameDevice.trans {s t u : State} (h : s.SameDevice t) (g : t.SameDevice u) : s.SameDevice u := by
  have e := congrArg (fun x : State => { x with cores := s.cores, snaps := s.snaps, fwds := s.fwds, nextId := s.nextId }) g
  exact e.trans h

/-- Two states that read alike in every core, and whose device is the same but for the model's own records. -/
structure State.Agrees (s t : State) : Prop where
  device : s.SameDevice t
  core : ∀ k, t.core k = s.core k

/-- The agreement of a state with itself. -/
theorem State.Agrees.refl (s : State) : s.Agrees s := ⟨rfl, fun _ => rfl⟩

/-- A change of a core that agrees at it. -/
theorem State.Agrees.modCore {s t : State} (h : s.Agrees t) (k : Nat) {f g : Core → Core} (hfg : g (s.core k) = f (s.core k)) :
    (s.modCore k f).Agrees (t.modCore k g) := by
  have hd := congrArg (fun u : State => { u with cores := (s.modCore k f).cores }) h.device
  refine ⟨hd, fun j => ?_⟩
  rw [State.core_modCore, State.core_modCore, h.core, h.core, hfg]

/-- A core put back as it was. -/
theorem State.agrees_modCore {s : State} {k : Nat} {f : Core → Core} (hf : f (s.core k) = s.core k) : s.Agrees (s.modCore k f) := by
  refine ⟨rfl, fun j => ?_⟩
  rw [State.core_modCore]
  split
  · next h => rw [hf, h]
  · rfl

/-- What agrees may be taken for the effect of an instruction. -/
theorem Completed.of_agrees {e e' t : State} {pc : BitVec 32} (h : Completed e' t pc) (ha : e.Agrees e') : Completed e t pc := by
  have hcur : e'.cur = e.cur := (congrArg State.cur ha.device :)
  have hc : e'.c = e.c := by rw [State.c, hcur, ha.core, State.c]
  refine ⟨h.pc, ?_, ?_, ?_, fun k hk => ?_, ?_⟩
  · rw [← hc]; exact h.instret
  · rw [← hc]; exact h.ctx
  · rw [← hc]; exact h.core
  · exact (h.others k (by rwa [hcur])).trans (ha.core k)
  · exact ha.device.trans h.device

/-- Completion with an effect that agrees. -/
theorem perform_done_agrees {s e e' : State} (hr : s.c.LogRoom) (hc : e'.cur = s.cur) (ha : e.Agrees e') :
    ∃ t, perform s (.done e') = .next t ∧ Completed e t (s.c.pc + 4) := by
  obtain ⟨t, ht, h⟩ := perform_done hr hc
  exact ⟨t, ht, h.of_agrees ha⟩

/-- Clean lines need no write-back (spec/06_memory.md R123). -/
theorem State.foldl_writeBack_clean {k : Nat} {l : List L1Line} (h : ∀ x ∈ l, x.dirty = 0) (s : State) : l.foldl (fun s x => s.writeBack k x) s = s := by
  induction l with
  | nil => rfl
  | cons x l ih =>
    rw [List.foldl_cons, State.writeBack, if_pos (h x (List.mem_cons_self ..))]
    exact ih fun y hy => h y (List.mem_cons_of_mem _ hy)

/-- The write-back of an L1 without dirty bytes changes nothing. -/
theorem State.agrees_writeBackIf {s : State} {k : Nat} (h : (s.core k).l1Dirty = false) (sel : L1Line → Bool) : s.Agrees (s.writeBackIf k sel) := by
  have hclean : ∀ x ∈ (s.core k).l1, x.dirty = 0 := fun x hx => by simpa using List.any_eq_false.1 h x hx
  rw [State.writeBackIf, State.foldl_writeBack_clean fun x hx => hclean x (List.mem_filter.1 hx).1]
  refine State.agrees_modCore ?_
  have hmap : ((s.core k).l1.map fun x => if sel x && decide (x.dirty ≠ 0) then { x with dirty := 0, stores := [] } else x) = (s.core k).l1 :=
    (List.map_congr_left fun x hx => by simp [hclean x hx]).trans (List.map_id _)
  simp only [hmap]

/-- The accesses of a core whose lines a test selects, marked not to be kept (spec/16_model.md R374). -/
def Core.staled (c : Core) (sel : L1Line → Bool) : List Access :=
  c.out.map fun a => if a.parts.any fun p => sel { line := p.line, data := 0 } then { a with stale := true } else a

/-- Lines dropped from an L1 without dirty bytes. -/
theorem State.agrees_dropLines {s : State} {k : Nat} (h : (s.core k).l1Dirty = false) (sel : L1Line → Bool) :
    (s.modCore k fun c => { c with out := c.staled sel, l1 := c.l1.filter fun x => !sel x }).Agrees (s.dropLines k sel) :=
  (s.agrees_writeBackIf h sel).modCore k rfl

/-- The acquire of a core with a clean L1 and nothing outstanding drops the L1's lines (R131). -/
theorem State.agrees_acquireL1 {s : State} {k : Nat} (h : (s.core k).l1Dirty = false) (hd : (s.core k).drain = false) (ho : (s.core k).out = []) :
    (s.modCore k fun c => { c with l1 := [] }).Agrees (s.acquireL1 k) := by
  have hdrop := s.agrees_dropLines h fun _ => true
  have hd' := congrArg (fun u : State => { u with cores := (s.modCore k fun c => { c with l1 := [] }).cores }) hdrop.device
  refine ⟨hd', fun j => ?_⟩
  rw [State.acquireL1, State.core_modCore, State.core_modCore]
  split
  · next hj =>
    rw [hdrop.core, State.core_modCore_same, h]
    simp [hd, ho, Core.staled]
  · next hj => rw [hdrop.core, State.core_modCore, if_neg hj]

/-- The marks that keep a line out of the L1 are all that differs. -/
theorem Core.staled_plain (c : Core) (sel : L1Line → Bool) :
    (c.staled sel).map (fun a : Access => { a with stale := false }) = c.out.map fun a => { a with stale := false } := by
  rw [Core.staled, List.map_map]
  refine List.map_congr_left fun a _ => ?_
  rw [Function.comp_apply]
  split <;> rfl

/-- With nothing to write back, and no write-back under way, a cache control completes (R145). -/
theorem State.l1RangeAns_clean {s : State} {srcs : List (Src × Nat)} {a n : XWord} (hs : s.c.SrcsReady srcs) (hclean : s.c.l1Dirty = false)
    (hback : ∀ p ∈ s.c.posted, p.kind ≠ 3) (inv : Bool) :
    s.l1RangeAns (srcGates s.c srcs) a n inv = .done (if inv then s.dropLines s.cur (s.inL1Range a.toNat n.toNat) else s) := by
  have hdirty : (s.c.l1.any fun x => s.inL1Range a.toNat n.toNat x && decide (x.dirty ≠ 0)) = false :=
    List.any_eq_false.2 fun x hx => by simpa using fun _ => by simpa using List.any_eq_false.1 hclean x hx
  have hposted : (s.c.posted.any fun p => decide (p.kind = 3)) = false := List.any_eq_false.2 fun p hp => by simpa using hback p hp
  refine checked_go ?_
  rw [firstStop_append (srcGates_ready hs), hdirty, hposted]; rfl

/-! The instruction store. -/

/-- Whether `iinv` clears a tag (R148). -/
def tagHit (job lo n w : Nat) : Bool :=
  tagOf w job && decide (0 < n) && decide (tagBlock w * 4096 < lo + n) && decide (lo < tagBlock w * 4096 + 4096)

/-- A tag is cleared where its block is the job's and holds a code address of the range. -/
theorem tagHit_iff (job lo n w : Nat) : tagHit job lo n w = true ↔ tagOf w job = true ∧ ∃ x, lo ≤ x ∧ x < lo + n ∧ x / 4096 = tagBlock w := by
  simp only [tagHit, Bool.and_eq_true, decide_eq_true_eq, and_assoc]
  refine and_congr_right fun _ => ⟨fun ⟨h0, h1, h2⟩ => ⟨max lo (tagBlock w * 4096), le_max_left .., by omega, by omega⟩, fun ⟨x, h1, h2, h3⟩ => ?_⟩
  omega

/-- Clear one block's valid bit where `iinv` asks for it. -/
def State.clearBlock (g job lo n : Nat) (s : State) (i : Nat) : State :=
  if tagHit job lo n (s.blockTag g i) then s.store (tagPlace g i) 8 (s.blockTag g i % 2 ^ 63) else s

theorem State.clearBlocks_eq (s : State) (g job lo n : Nat) : s.clearBlocks g job lo n = (List.range 16).foldl (State.clearBlock g job lo n) s := rfl

section ClearBlock

variable {g job lo n : Nat}

/-- Only memory changes. -/
theorem State.foldl_clearBlock_mem (l : List Nat) (s : State) :
    l.foldl (State.clearBlock g job lo n) s = { s with mem := (l.foldl (State.clearBlock g job lo n) s).mem } := by
  induction l generalizing s with
  | nil => rfl
  | cons i l ih =>
    rw [List.foldl_cons, ih]
    unfold State.clearBlock
    split <;> rfl

/-- The places of the tags. -/
theorem tagPlace_eq (g i : Nat) : tagPlace g i = tagPlace g 0 + 8 * i := by simp only [tagPlace, placeStore, placePad]; omega

/-- A clearing keeps the memory canonical. -/
theorem State.MemOk.clearBlock {s : State} (h : s.MemOk) (i : Nat) : (State.clearBlock g job lo n s i).MemOk := by
  unfold State.clearBlock
  split
  · exact h.storeList ..
  · exact h

/-- The bytes outside a tag stay. -/
theorem State.byte_clearBlock {s : State} (h : s.MemOk) {i q : Nat} (hq : q < tagPlace g i ∨ tagPlace g i + 8 ≤ q) :
    (State.clearBlock g job lo n s i).byte q = s.byte q := by
  unfold State.clearBlock
  split
  · exact s.byte_store _ _ _ _ h hq
  · rfl

/-- Numbers in alike bytes. -/
theorem State.load_congr {s t : State} {p n : Nat} (h : ∀ q, p ≤ q → q < p + n → t.byte q = s.byte q) : t.load p n = s.load p n := by
  rw [State.load, Memory.readList_congr _ s.mem _ _ h, State.load]

/-- Another tag stays. -/
theorem State.blockTag_clearBlock_other {s : State} (h : s.MemOk) {i j : Nat} (hj : j ≠ i) : (State.clearBlock g job lo n s i).blockTag g j = s.blockTag g j :=
  State.load_congr fun q h1 h2 => State.byte_clearBlock h (by rw [tagPlace_eq] at h1 h2 ⊢; omega)

/-- The tag itself loses its valid bit where it is hit. -/
theorem State.blockTag_clearBlock {s : State} (h : s.MemOk) (i : Nat) :
    (State.clearBlock g job lo n s i).blockTag g i = if tagHit job lo n (s.blockTag g i) then s.blockTag g i % 2 ^ 63 else s.blockTag g i := by
  unfold State.clearBlock
  split
  · rw [State.blockTag, State.load_store _ _ _ _ h]
    exact Nat.mod_eq_of_lt (lt_trans (Nat.mod_lt _ (by decide)) (by decide))
  · rfl

/-- The tags after clearings of some, each once. -/
theorem State.blockTag_foldl_clearBlock {l : List Nat} (hl : l.Nodup) {s : State} (h : s.MemOk) (i : Nat) :
    (l.foldl (State.clearBlock g job lo n) s).blockTag g i =
      if i ∈ l ∧ tagHit job lo n (s.blockTag g i) = true then s.blockTag g i % 2 ^ 63 else s.blockTag g i := by
  induction l generalizing s with
  | nil => simp
  | cons j l ih =>
    rw [List.foldl_cons, ih (List.nodup_cons.1 hl).2 (h.clearBlock j)]
    by_cases hij : i = j
    · subst hij
      rw [if_neg fun hm => (List.nodup_cons.1 hl).1 hm.1, State.blockTag_clearBlock h]
      simp
    · rw [State.blockTag_clearBlock_other h hij]
      simp [hij]

/-- The bytes outside the tags after clearings of some. -/
theorem State.byte_foldl_clearBlock {l : List Nat} {s : State} (h : s.MemOk) {q : Nat} (hq : ∀ i ∈ l, q < tagPlace g i ∨ tagPlace g i + 8 ≤ q) :
    (l.foldl (State.clearBlock g job lo n) s).byte q = s.byte q := by
  induction l generalizing s with
  | nil => rfl
  | cons j l ih =>
    rw [List.foldl_cons, ih (h.clearBlock j) fun i hi => hq i (List.mem_cons_of_mem _ hi), State.byte_clearBlock h (hq j (List.mem_cons_self ..))]

end ClearBlock

/-- Settles O25: the waiting and the completion of fences, cache controls, `rst.sync` and `tlbi`, and the tags that `iinv` clears. -/
theorem fencesSyncsAndInvalidation : Obligations.FencesSyncsAndInvalidation := by
  unfold Obligations.FencesSyncsAndInvalidation
  constructor
  · intro scope sa sb s hroom
    have hcore (h : s.CoreReleased) : Completes (.fence 0) s s := by
      obtain ⟨t, ht, hc⟩ := perform_done (s := s) (e := s) hroom rfl
      refine ⟨t, ?_, hc⟩
      rw [← ht]
      refine congrArg (perform s) (checked_go ?_)
      exact congrArg (fun g => firstStop [g]) (State.releaseGate_core_go h)
    refine ⟨fun hrel hdrain => ?_, hcore, fun h => ?_, fun hs hclean hback => ⟨?_, ?_⟩, fun h => ?_, fun ⟨p, hp, hact, hcopy, hkind⟩ => ?_, fun id hid h => ?_,
      fun id hid ⟨v, hv, he⟩ => ?_⟩
    · have hgo : firstStop [s.releaseGate scope.toNat] = .go := congrArg (fun g => firstStop [g]) (State.releaseGate_go hrel _)
      have hdone : exec (.fence scope) s = perform s (.done (s.acquire scope.toNat)) := congrArg (perform s) (checked_go hgo)
      have hagree : (if scope = 0 then s else s.modC fun c => { c with l1 := [] }).Agrees (s.acquire scope.toNat) := by
        have hz : scope.toNat = 0 ↔ scope = 0 := ⟨fun h => BitVec.eq_of_toNat_eq h, congrArg BitVec.toNat⟩
        unfold State.acquire
        by_cases h0 : scope = 0
        · rw [if_pos h0, if_pos (hz.2 h0)]; exact .refl s
        · rw [if_neg h0, if_neg (mt hz.1 h0)]
          exact State.agrees_acquireL1 hrel.clean hdrain hrel.replies
      rw [Completes, CompletesAt, hdone]
      exact perform_done_agrees hroom (s.aside_acquire _).cur hagree
    · have hw : firstStop [s.releaseGate 0] = .wait := congrArg (fun g => firstStop [g]) (State.releaseGate_core_wait h)
      change perform s (checked s [s.releaseGate 0] _) = _
      rw [checked, hw]; rfl
    · obtain ⟨t, ht, hc⟩ := perform_done (s := s) (e := s) hroom rfl
      exact ⟨t, (congrArg (perform s) (State.l1RangeAns_clean hs hclean hback false)).trans ht, hc⟩
    · refine ⟨s.c.staled (s.inL1Range (s.c.x sa.n).toNat (s.c.x sb.n).toNat), s.c.staled_plain _, ?_⟩
      obtain ⟨t, ht, hc⟩ := perform_done_agrees hroom (s.aside_dropLines s.cur _).cur (s.agrees_dropLines hclean _)
      exact ⟨t, (congrArg (perform s) (State.l1RangeAns_clean hs hclean hback true)).trans ht, hc⟩
    · have hgo : (s.c.posted.any fun p => decide (p.act = s.c.uid) && p.copy.isNone && decide (p.kind ≠ 3)) = false :=
        List.any_eq_false.2 fun p hp => by
          by_cases hact : p.act = s.c.uid
          · rcases h p hp hact with hcopy | hkind
            · simp [hcopy]
            · simp [hkind]
          · simp [hact]
      obtain ⟨t, ht, hc⟩ := perform_done (s := s) (e := s) hroom rfl
      refine ⟨t, ?_, hc⟩
      rw [← ht]
      exact congrArg (perform s) (checked_go (by rw [hgo]; rfl))
    · have hw : (s.c.posted.any fun p => decide (p.act = s.c.uid) && p.copy.isNone && decide (p.kind ≠ 3)) = true :=
        List.any_eq_true.2 ⟨p, hp, by simp [hact, hcopy, hkind]⟩
      change execRstSync s = _
      rw [execRstSync, hw]; rfl
    · have hany : (s.invals.any fun v => decide (v.id = id)) = false := List.any_eq_false.2 fun v hv => by simpa using h v hv
      obtain ⟨t, ht, hc⟩ := perform_done (s := s) (e := s.modC fun c => { c with tlbi := none }) hroom rfl
      refine ⟨t, ?_, hc⟩
      rw [← ht]
      change execTlbi sa sb s = _
      simp only [execTlbi, hid, hany]; rfl
    · have hany : (s.invals.any fun v => decide (v.id = id)) = true := List.any_eq_true.2 ⟨v, hv, by simpa using he⟩
      change execTlbi sa sb s = _
      simp only [execTlbi, hid, hany]; rfl
  · intro sa sb s hm hs hroom g lo n hit
    have hdone : exec (.iinv sa sb) s = perform s (.done (s.clearBlocks g s.c.jobNum lo n)) :=
      congrArg (perform s) (checked_go (srcGates_ready hs))
    have hmem : s.clearBlocks g s.c.jobNum lo n = { s with mem := (s.clearBlocks g s.c.jobNum lo n).mem } := State.foldl_clearBlock_mem _ s
    obtain ⟨t, ht, hc⟩ := perform_done (s := s) (e := s.clearBlocks g s.c.jobNum lo n) hroom (by rw [hmem])
    have htag (i : Nat) : t.blockTag g i = (s.clearBlocks g s.c.jobNum lo n).blockTag g i := State.load_congr fun q _ _ => hc.byte q
    refine ⟨t, hdone.trans ht, ?_, fun i hi => ?_, fun q hq => ?_⟩
    · rw [hc.mem, ← hmem]; exact hc
    · rw [htag, State.clearBlocks_eq, State.blockTag_foldl_clearBlock List.nodup_range hm]
      refine ⟨fun h => if_pos ⟨List.mem_range.2 hi, (tagHit_iff ..).2 h⟩, fun h => if_neg fun h' => h ((tagHit_iff ..).1 h'.2)⟩
    · rw [hc.byte, State.clearBlocks_eq]
      refine State.byte_foldl_clearBlock hm fun i hi => ?_
      have hi := List.mem_range.1 hi
      rw [tagPlace_eq] at hq ⊢
      rw [tagPlace_eq g 16] at hq
      omega

end Sys2Proof.Machine
end

section
/-! The bytes of a line that a store writes (spec/06_memory.md R130). -/

namespace Sys2Proof.Machine

/-- The bytes that a mask names. -/
theorem getLsbD_byteMask (o n : Nat) {b : Nat} (hb : b < 128) : (byteMask o n).getLsbD b = true ↔ o ≤ b ∧ b < o + n := by
  rw [byteMask, BitVec.getLsbD_ofNat, Nat.testBit_mul_two_pow, Nat.testBit_two_pow_sub_one]
  simp only [Bool.and_eq_true, decide_eq_true_eq]
  omega

/-- The line in which a store's value stands at its offset. -/
def storeData (v off n : Nat) : BitVec 1024 := BitVec.ofNat 1024 (v % 2 ^ (8 * n) * 2 ^ (8 * off))

/-- Its bytes there are those of the value. -/
theorem lineByte_storeData (v : Nat) {off n j : Nat} (hn : off + n ≤ 128) (hj : j < n) :
    lineByte (storeData v off n) (off + j) = BitVec.ofNat 8 (v / 2 ^ (8 * j)) := by
  apply BitVec.eq_of_getLsbD_eq
  intro i hi
  have h1 : 8 * (off + j) + i < 1024 := by omega
  have h2 : 8 * off ≤ 8 * (off + j) + i := by omega
  have h3 : 8 * (off + j) + i - 8 * off = 8 * j + i := by omega
  have h4 : 8 * j + i < 8 * n := by omega
  rw [lineByte, storeData, BitVec.getLsbD_ofNat, BitVec.getLsbD_ofNat, Nat.testBit_shiftRight, BitVec.toNat_ofNat, Nat.testBit_mod_two_pow,
    Nat.testBit_mul_two_pow, Nat.testBit_div_two_pow, h3, Nat.testBit_mod_two_pow]
  rw [Nat.add_comm (8 * j)]
  simp [h1, h2, Nat.add_comm i, h4, hi]

/-- The value stands in its bits of the line. -/
theorem extractLsb'_storeData (v : XWord) {off n : Nat} (hn : off + n ≤ 128) :
    (storeData v.toNat off n).extractLsb' (8 * off) (8 * n) = v.setWidth (8 * n) := by
  apply BitVec.eq_of_getLsbD_eq
  intro i hi
  have h1 : 8 * off + i < 1024 := by omega
  have h2 : 8 * off + i - 8 * off = i := by omega
  rw [BitVec.getLsbD_extractLsb', BitVec.getLsbD_setWidth, storeData, BitVec.getLsbD_ofNat, Nat.testBit_mul_two_pow, h2, Nat.testBit_mod_two_pow]
  simp [h1, hi, BitVec.getLsbD]

/-- A store of some bytes of a line writes those. -/
theorem State.byte_writeLine_storeData {s : State} (hm : s.MemOk) (p v : Nat) {off n : Nat} (hn : off + n ≤ 128) (q : Nat) :
    (s.writeLine p (byteMask off n) (storeData v off n)).byte q =
      if p + off ≤ q ∧ q < p + off + n then BitVec.ofNat 8 (v / 2 ^ (8 * (q - (p + off)))) else s.byte q := by
  rw [State.byte, State.writeLine, Memory.read_writeMasked _ _ _ _ _ _ hm]
  by_cases hq : p ≤ q ∧ q < p + 128
  · have hmask : (byteMask off n).getLsbD (q - p) = true ↔ p + off ≤ q ∧ q < p + off + n := by rw [getLsbD_byteMask off n (by omega)]; omega
    by_cases hin : p + off ≤ q ∧ q < p + off + n
    · have hsplit : q - p = off + (q - (p + off)) := by omega
      rw [if_pos ⟨hq.1, hq.2, hmask.2 hin⟩, if_pos hin, hsplit, lineByte_storeData v hn (by omega)]
    · rw [if_neg fun h => hin (hmask.1 h.2.2), if_neg hin]; rfl
  · rw [if_neg fun h => hq ⟨h.1, h.2.1⟩, if_neg (by omega)]; rfl

/-- An aligned access lies within its line. -/
theorem aligned_within_line {z : Size} {a : Nat} (h : a % sizeBytes z = 0) : a % 128 + sizeBytes z ≤ 128 := by
  cases z <;> simp only [sizeBytes] at * <;> omega

/-- The offset of an array's byte within its line. -/
theorem placePad_mod (k a : Nat) : placePad k a % 128 = a % 128 := by rw [placePad]; omega

/-- The line of an array's byte, and its offset. -/
theorem lineOf_add_mod (p : Nat) : lineOf p + p % 128 = p := by rw [lineOf]; omega

/-- The number of the line of a byte of an array. -/
theorem padOff_lineOf {k a : Nat} (h : a < 2 ^ 20) : padOff (lineOf (placePad k a)) / 128 = a / 128 := by
  have hl : lineOf (placePad k a) = placePad k (a / 128 * 128) := by rw [lineOf, placePad, placePad]; omega
  rw [hl, padOff, placePad, Nat.add_assoc, Nat.add_sub_cancel_left]
  omega

end Sys2Proof.Machine
end

section
/-! Stores of a scalar register (spec/06_memory.md R130, R139). -/

namespace Sys2Proof.Machine

/-- A store whose first checks let it go on, by its target. -/
theorem State.storeAns_go {s : State} {pre : List Gate} {a : XWord} {n : Nat} {o : BitVec 4} {t : Tgt} (v : XWord) (hpre : firstStop pre = .go)
    (hck : s.check s.cur a n .write = .ok t) (hsize : t.size = 0) (hout : s.c.out = []) (hrel : s.relGate o = .go)
    (hmeet : ∀ q ∈ s.c.pendingSpans s.cur, (plainSpan s.cur a n true).ordered q = false) :
    s.storeAns pre a n v o =
      checkedThen s [if t.region = .own then .go else s.c.backGate (lineOf t.place), if s.posts t then s.postGate n else .go] fun _ =>
        .done (s.storeLine t (lineOf t.place) (byteMask (t.place % 128) n) (storeData v.toNat (t.place % 128) n) a (plainSpan s.cur a n true) 16) := by
  obtain ⟨hgate, ht⟩ := State.checkGate_ok hck
  have hgo : firstStop (pre ++ [s.checkGate s.cur a n .write, goodGate s.c, s.relGate o, s.meetGate (plainSpan s.cur a n true)]) = .go := by
    rw [firstStop_append hpre, hgate, goodGate_go hout, hrel, State.meetGate_go rfl hmeet]; rfl
  have hdirty := State.dirtyGate_go rfl rfl rfl hmeet [lineOf t.place]
  simp only [State.storeAns, ht, checkedThen, hgo, firstStop_go_cons, hdirty, hsize, State.tlbTouch_zero]
  rfl

/-- A store in the own scratchpad writes its bytes. -/
theorem State.storeAns_own {s : State} {pre : List Gate} {a : XWord} {n : Nat} {o : BitVec 4} (v : XWord) (hpre : firstStop pre = .go) (hn : 0 < n)
    (hown : s.OwnAt a n true) (hout : s.c.out = []) (hrel : s.relGate o = .go) :
    s.storeAns pre a n v o =
      .done ((s.writeLine (lineOf (placePad s.cur a.toNat)) (byteMask (a.toNat % 128) n) (storeData v.toNat (a.toNat % 128) n)).unlogSaved s.cur (a.toNat / 128)) := by
  have ha : a.toNat < 2 ^ 20 := lt_of_le_of_lt (Nat.le_add_right ..) (lt_of_le_of_lt (le_trans hown.inside (Carve.spsize_le _)) (by decide))
  rw [State.storeAns_go v hpre (State.check_own hown.aligned hown.inside hn .write true) rfl hout hrel hown.apart, ← padOff_lineOf (k := s.cur) ha,
    ← placePad_mod s.cur a.toNat]
  rfl

/-- What an aperture store posts. -/
def storePost (s : State) (a : XWord) (n : Nat) (v : XWord) (tgt o : Nat) : Posted :=
  { va := a, line := lineOf (placePad tgt o), mask := byteMask (o % 128) n, data := storeData v.toNat (o % 128) n, lo := (plainSpan s.cur a n true).lo
    hi := (plainSpan s.cur a n true).hi, view := (plainSpan s.cur a n true).view, vq := 16, ep := tgt }

/-- A store through an aperture goes by the room for posted operations (R139). -/
theorem State.storeAns_aperture {s : State} {pre : List Gate} {a : XWord} {n : Nat} {o : BitVec 4} {tgt off : Nat} (v : XWord) (hpre : firstStop pre = .go)
    (hck : s.check s.cur a n .write = .ok (padTgt tgt off)) (hout : s.c.out = []) (hrel : s.relGate o = .go)
    (hmeet : ∀ q ∈ s.c.pendingSpans s.cur, (plainSpan s.cur a n true).ordered q = false) (hback : s.c.backing (lineOf (placePad tgt off)) = false) :
    s.storeAns pre a n v o = checkedThen s [s.postGate n] fun _ => .done (s.postLine (storePost s a n v tgt off)) := by
  have hb : s.c.backGate (lineOf (placePad tgt off)) = .go := by rw [Core.backGate, hback]; rfl
  rw [State.storeAns_go v hpre hck rfl hout hrel hmeet]
  change checkedThen s [s.c.backGate (lineOf (placePad tgt off)), s.postGate n] _ = _
  rw [hb, storePost, ← placePad_mod tgt off]
  rfl

/-- A release of a store that has nothing to wait for. -/
theorem State.relGate_go {s : State} (h : s.c.Released) (o : BitVec 4) : s.relGate o = .go := by
  rw [State.relGate, State.releaseGate_go h, ite_self]

/-- What a memory line becomes, all else as it was. -/
theorem State.unlogSaved_mem (s : State) (k l : Nat) : (s.unlogSaved k l).mem = s.mem := (s.aside_unlogSaved k l).mem

/-- A store in the own scratchpad writes the bytes of its value, and all else stays (R130). -/
theorem State.perform_store_own {s : State} {z : Size} {a : XWord} (v : XWord) (hm : s.MemOk) (hout : s.c.out = []) (hown : s.OwnAt a (sizeBytes z) true) :
    ∃ t, perform s (.done ((s.writeLine (lineOf (placePad s.cur a.toNat)) (byteMask (a.toNat % 128) (sizeBytes z))
          (storeData v.toNat (a.toNat % 128) (sizeBytes z))).unlogSaved s.cur (a.toNat / 128))) = .next t
      ∧ Completed (({ s with mem := t.mem } : State).unlogSaved s.cur (a.toNat / 128)) t (s.c.pc + 4) ∧ t.MemOk
      ∧ ∀ q, t.byte q = if placePad s.cur a.toNat ≤ q ∧ q < placePad s.cur a.toNat + sizeBytes z
          then BitVec.ofNat 8 (v.toNat / 2 ^ (8 * (q - placePad s.cur a.toNat))) else s.byte q := by
  generalize hw : s.writeLine (lineOf (placePad s.cur a.toNat)) (byteMask (a.toNat % 128) (sizeBytes z)) (storeData v.toNat (a.toNat % 128) (sizeBytes z)) = w
  have hws : w = { s with mem := w.mem } := by rw [← hw]; rfl
  have hside := w.aside_unlogSaved s.cur (a.toNat / 128)
  obtain ⟨t, ht, hc⟩ := perform_done (s := s) (e := w.unlogSaved s.cur (a.toNat / 128)) (.inl hout) (hside.cur.trans (by rw [hws]))
  have htm : t.mem = w.mem := hc.mem.trans hside.mem
  refine ⟨t, ht, ?_, ?_, fun q => ?_⟩
  · rw [htm, ← hws]; exact hc
  · rw [State.MemOk, htm, ← hw]; exact Memory.writeMasked_wf _ _ _ _ _ hm
  · have hb : t.byte q = w.byte q := by rw [State.byte, htm, State.byte]
    have hp : lineOf (placePad s.cur a.toNat) + a.toNat % 128 = placePad s.cur a.toNat := by rw [← placePad_mod s.cur, lineOf_add_mod]
    rw [hb, ← hw, State.byte_writeLine_storeData hm _ _ (aligned_within_line hown.aligned), hp]

end Sys2Proof.Machine
end

section
/-! The lines of a store of a run (spec/06_memory.md R139): each write of the run falls to the bundle of its line. -/

namespace Sys2Proof.Machine

/-- The target of one write of a run. -/
def State.writeTgt (s : State) (k : Nat) (w : XWord × Nat × Nat) : Tgt := s.target k w.1 w.2.1 .write

/-- Its line. -/
def State.writeLineOf (s : State) (k : Nat) (w : XWord × Nat × Nat) : Nat := lineOf (s.writeTgt k w).place

/-- Its bytes of the line. -/
def State.writeMask (s : State) (k : Nat) (w : XWord × Nat × Nat) : BitVec 128 := byteMask ((s.writeTgt k w).place % 128) w.2.1

/-- The line of a bundle. -/
def Bundle.line (b : Bundle) : Nat := lineOf b.t.place

/-- One more write, joined to the bundle of its line, or the first of a bundle. -/
def State.addWrite (s : State) (k : Nat) (bs : List Bundle) (w : XWord × Nat × Nat) : List Bundle :=
  let data := storeData w.2.2 ((s.writeTgt k w).place % 128) w.2.1
  if bs.any fun b => decide (b.line = s.writeLineOf k w) then
    bs.map fun b => if b.line = s.writeLineOf k w then { b with mask := b.mask ||| s.writeMask k w, data := mergeLine b.data data (s.writeMask k w) } else b
  else bs ++ [⟨s.writeTgt k w, s.writeMask k w, data, w.1⟩]

theorem State.bundles_eq (s : State) (k : Nat) (ws : List (XWord × Nat × Nat)) : s.bundles k ws = ws.foldl (s.addWrite k) [] := rfl

/-- The bundles of some writes: of each line one, which covers those bytes that the writes to the line do. -/
structure State.Gathers (s : State) (k : Nat) (ws : List (XWord × Nat × Nat)) (bs : List Bundle) : Prop where
  nodup : (bs.map Bundle.line).Nodup
  target : ∀ b ∈ bs, ∃ w ∈ ws, b.t = s.writeTgt k w
  covers : ∀ w ∈ ws, ∃ b ∈ bs, b.line = s.writeLineOf k w
  mask : ∀ b ∈ bs, ∀ i, b.mask.getLsbD i = true ↔ ∃ w ∈ ws, s.writeLineOf k w = b.line ∧ (s.writeMask k w).getLsbD i = true

section Gathers

variable {s : State} {k : Nat} {ws : List (XWord × Nat × Nat)} {bs : List Bundle}

/-- A write to a line that has its bundle. -/
theorem State.Gathers.join (h : s.Gathers k ws bs) (w : XWord × Nat × Nat) {b0 : Bundle} (hb0 : b0 ∈ bs) (hl : b0.line = s.writeLineOf k w) (d : Bundle → BitVec 1024) :
    s.Gathers k (ws ++ [w]) (bs.map fun b => if b.line = s.writeLineOf k w then { b with mask := b.mask ||| s.writeMask k w, data := d b } else b) := by
  have hline (b : Bundle) : (if b.line = s.writeLineOf k w then { b with mask := b.mask ||| s.writeMask k w, data := d b } else b).line = b.line := by
    split <;> rfl
  refine ⟨?_, fun b hb => ?_, fun v hv => ?_, fun b hb i => ?_⟩
  · rw [List.map_map, List.map_congr_left (g := Bundle.line) fun b _ => by rw [Function.comp_apply, hline]]
    exact h.nodup
  · obtain ⟨b', hb', rfl⟩ := List.mem_map.1 hb
    obtain ⟨v, hv, ht⟩ := h.target b' hb'
    refine ⟨v, List.mem_append_left _ hv, ?_⟩
    rw [← ht]
    split <;> rfl
  · rcases List.mem_append.1 hv with hv | hv
    · obtain ⟨b, hb, hbl⟩ := h.covers v hv
      exact ⟨_, List.mem_map_of_mem hb, (hline b).trans hbl⟩
    · obtain rfl := List.mem_singleton.1 hv
      exact ⟨_, List.mem_map_of_mem hb0, (hline b0).trans hl⟩
  · obtain ⟨b', hb', rfl⟩ := List.mem_map.1 hb
    have hold := h.mask b' hb' i
    rw [hline]
    by_cases hw : b'.line = s.writeLineOf k w
    · rw [if_pos hw]
      simp only [BitVec.getLsbD_or, Bool.or_eq_true, hold, List.mem_append, List.mem_singleton, or_and_right, exists_or, exists_eq_left]
      simp [hw]
    · rw [if_neg hw, hold]
      simp only [List.mem_append, List.mem_singleton, or_and_right, exists_or, exists_eq_left]
      exact (or_iff_left fun e => hw e.1.symm).symm

/-- A write to a line that has none. -/
theorem State.Gathers.start (h : s.Gathers k ws bs) (w : XWord × Nat × Nat) (hl : ∀ b ∈ bs, b.line ≠ s.writeLineOf k w) (d : BitVec 1024) :
    s.Gathers k (ws ++ [w]) (bs ++ [⟨s.writeTgt k w, s.writeMask k w, d, w.1⟩]) := by
  refine ⟨?_, fun b hb => ?_, fun v hv => ?_, fun b hb i => ?_⟩
  · rw [List.map_append, List.nodup_append]
    refine ⟨h.nodup, List.nodup_singleton _, fun x hx y hy => ?_⟩
    obtain ⟨b, hb, rfl⟩ := List.mem_map.1 hx
    rw [List.map_singleton, List.mem_singleton] at hy
    rw [hy]
    exact hl b hb
  · rcases List.mem_append.1 hb with hb | hb
    · obtain ⟨v, hv, ht⟩ := h.target b hb
      exact ⟨v, List.mem_append_left _ hv, ht⟩
    · obtain rfl := List.mem_singleton.1 hb
      exact ⟨w, List.mem_append_right _ (List.mem_singleton_self w), rfl⟩
  · rcases List.mem_append.1 hv with hv | hv
    · obtain ⟨b, hb, hbl⟩ := h.covers v hv
      exact ⟨b, List.mem_append_left _ hb, hbl⟩
    · obtain rfl := List.mem_singleton.1 hv
      exact ⟨_, List.mem_append_right _ (List.mem_singleton_self _), rfl⟩
  · simp only [List.mem_append, List.mem_singleton, or_and_right, exists_or, exists_eq_left]
    rcases List.mem_append.1 hb with hb | hb
    · simp [h.mask b hb i, (hl b hb).symm]
    · obtain rfl := List.mem_singleton.1 hb
      have hnone : ¬ ∃ v ∈ ws, s.writeLineOf k v = s.writeLineOf k w ∧ (s.writeMask k v).getLsbD i = true := fun ⟨v, hv, he, _⟩ => by
        obtain ⟨b, hb, hbl⟩ := h.covers v hv
        exact hl b hb (hbl.trans he)
      have hself : (⟨s.writeTgt k w, s.writeMask k w, d, w.1⟩ : Bundle).line = s.writeLineOf k w := rfl
      simp [hself, hnone]

/-- One more write keeps the bundles. -/
theorem State.Gathers.addWrite (h : s.Gathers k ws bs) (w : XWord × Nat × Nat) : s.Gathers k (ws ++ [w]) (s.addWrite k bs w) := by
  unfold State.addWrite
  by_cases hany : (bs.any fun b => decide (b.line = s.writeLineOf k w)) = true
  · rw [if_pos hany]
    obtain ⟨b0, hb0, hl⟩ := List.any_eq_true.1 hany
    exact h.join w hb0 (of_decide_eq_true hl) _
  · rw [if_neg hany]
    refine h.start w (fun b hb hl => hany (List.any_eq_true.2 ⟨b, hb, decide_eq_true hl⟩)) _

/-- The bundles of a run gather its writes. -/
theorem State.gathers_bundles (s : State) (k : Nat) (ws : List (XWord × Nat × Nat)) : s.Gathers k ws (s.bundles k ws) := by
  suffices h : ∀ vs bs, s.Gathers k vs bs → s.Gathers k (vs ++ ws) (ws.foldl (s.addWrite k) bs) from
    h [] [] ⟨List.nodup_nil, fun _ h => absurd h List.not_mem_nil, fun _ h => absurd h List.not_mem_nil, fun _ h => absurd h List.not_mem_nil⟩
  induction ws with
  | nil => intro vs bs h; rwa [List.append_nil]
  | cons w ws ih =>
    intro vs bs h
    have h' := ih (vs ++ [w]) _ (h.addWrite w)
    rwa [List.append_assoc] at h'

end Gathers

/-! The posting of several lines. -/

/-- Operations posted in a state that differs in the core alone, in a way undone at the end. -/
theorem State.HasPosted.of_modC {s u : State} {xs : List Posted} {f g : Core → Core} (h : (s.modC f).HasPosted xs u)
    (hg : g u.c = { s.c with posted := s.c.posted ++ xs }) : s.HasPosted xs (u.modC g) := by
  have hcur : u.cur = s.cur := h.aside.cur
  have hc : (u.modC g).c = { s.c with posted := s.c.posted ++ xs } := by rw [State.c_modC]; exact hg
  have hk : (u.modC g).core s.cur = { s.c with posted := s.c.posted ++ xs } := by rw [← hc, State.c]; exact congrArg _ hcur.symm
  have hd := congrArg (fun v : State => { v with cores := s.cores }) h.aside.device
  refine ⟨⟨hd, by rw [hk]; rfl, by rw [hk]; rfl, fun j hj => ?_, h.aside.streams⟩, hc, h.net⟩
  rw [State.core_modC_other _ _ _ (by rwa [hcur]), h.aside.others j hj, State.core_modC_other _ _ _ hj]

/-- An operation posted of one given: the same but for its identity and its labels. -/
def Core.Labels (c : Core) (k : Nat) (p x : Posted) : Prop := ∃ id, x = { c.label k p with id := id }

/-- Labels depend on the activation and its stamp alone. -/
theorem Core.label_congr {c d : Core} (ha : c.act = d.act) (hs : c.ctx = d.ctx) (k : Nat) (p : Posted) : c.label k p = d.label k p := by
  rw [Core.label, Core.label, ha, hs]

/-- The bytes an endpoint retains after one more entry. -/
theorem Endpoint.held_append (e e' : Endpoint) (r : Retain) (h : e'.retain = e.retain ++ [r]) : e'.held ≤ e.held + r.bytes := by
  rw [Endpoint.held, Endpoint.held, h, List.foldl_append, List.foldl_cons, List.foldl_nil]
  split
  · exact Nat.le_add_right ..
  · exact Nat.le_refl _

end Sys2Proof.Machine
end

section
/-! Vector stores (spec/06_memory.md R139, spec/13_vector.md R310). -/

namespace Sys2Proof.Machine

/-- The count of a packet's stream leaves what its endpoint retains. -/
theorem State.bumpSeq_retain (s : State) (src dst : Nat) (b : Bool) (e : Nat) : ((s.bumpSeq src dst b).ep e).retain = (s.ep e).retain := by
  rw [State.bumpSeq, State.ep_modEp]
  split
  · next h => rw [h]
  · rfl

/-- A packet that is retained adds its entry at its sender. -/
theorem State.send_retain (s : State) (x : Send) {bytes : Nat} (h : x.retain = some bytes) :
    ∃ r, ((s.send x).ep x.src).retain = (s.ep x.src).retain ++ [r] ∧ r.bytes = bytes := by
  unfold State.send
  simp only [h]
  rw [State.ep_modEp, if_pos rfl]
  refine ⟨_, congrArg (· ++ _) (s.bumpSeq_retain x.src x.dst x.inorder x.src), rfl⟩

/-- A posted line takes its room in the retain buffer. -/
theorem State.held_postLine (s : State) (p : Posted) : ((s.postLine p).ep s.cur).held ≤ (s.ep s.cur).held + (s.c.label s.cur p).room := by
  obtain ⟨r, hr, hb⟩ := State.send_retain (({ s with nextId := s.nextId + 1 } : State).modCore s.cur fun c => { c with posted := c.posted ++ [s.postedOf p] })
    { src := s.cur, dst := (s.c.label s.cur p).ep, cls := 2, body := .posted (s.postedOf p), len := popCount (s.c.label s.cur p).mask.toNat 128
      inorder := epIsCore (s.c.label s.cur p).ep, retain := some (s.c.label s.cur p).room, job := (s.c.label s.cur p).job } rfl
  rw [← hb]
  exact Endpoint.held_append _ _ r hr

/-- A line has at most 128 bytes. -/
theorem popCount_le (a n : Nat) : popCount a n ≤ n := by
  rw [popCount_eq_countP]
  exact le_trans (List.countP_le_length ..) (by rw [List.length_range])

/-- Retain room grows with the length. -/
theorem retainBytes_mono {m n : Nat} (h : m ≤ n) : retainBytes m ≤ retainBytes n := by
  unfold retainBytes
  omega

/-- Operations counted against the limit of 32 (R139). -/
def Core.counted (c : Core) : Nat := (c.posted.filter fun p => decide (p.kind ≠ 3) && p.copy.isNone).length

/-- Lines that all find room are all posted (R139). -/
theorem State.postSome_all (ps : List Posted) (s : State) (hc : s.c.counted + ps.length ≤ 32) (hr : (s.ep s.cur).held + ps.length * retainBytes 128 ≤ retainCap s.cur) :
    ∃ xs u, s.HasPosted xs u ∧ s.postSome ps = (u.modC fun c => { c with storing := [] }) ∧ List.Forall₂ (s.c.Labels s.cur) ps xs := by
  induction ps generalizing s with
  | nil => exact ⟨[], s, .nil s, rfl, .nil⟩
  | cons p ps ih =>
    rw [List.length_cons] at hc hr
    have hpop : retainBytes (popCount p.mask.toNat 128) ≤ retainBytes 128 := retainBytes_mono (popCount_le _ _)
    have hmul : (ps.length + 1) * retainBytes 128 = ps.length * retainBytes 128 + retainBytes 128 := Nat.succ_mul ..
    have hroom : s.postRoom (popCount p.mask.toNat 128) = true := by
      have hfull : ¬ 32 ≤ s.c.counted := by omega
      have hret : (s.ep s.cur).held + retainBytes (popCount p.mask.toNat 128) ≤ retainCap s.cur := by omega
      rw [State.postRoom, Core.postsFull, State.retainRoom, decide_eq_true hret]
      exact congrArg (fun b => !b && true) (decide_eq_false hfull)
    have hone := s.hasPosted_postLine p
    have hcur : (s.postLine p).cur = s.cur := hone.aside.cur
    have hmask : (s.c.label s.cur p).room = retainBytes (popCount p.mask.toNat 128) := by rw [Posted.room, (s.c.label_fields s.cur p).2.1]
    have hheld := s.held_postLine p
    have hcount : (s.postLine p).c.counted ≤ s.c.counted + 1 := by
      rw [hone.core, Core.counted, List.filter_append, List.length_append]
      exact Nat.add_le_add_left (List.length_filter_le ..) _
    obtain ⟨xs, u, hu, hps, hl⟩ := ih (s.postLine p) (by omega) (by rw [hcur]; omega)
    refine ⟨s.postedOf p :: xs, u, hone.append hu, ?_, .cons ⟨s.nextId, rfl⟩ (hl.imp fun q x hq => ?_)⟩
    · rw [State.postSome, if_pos hroom, hps]
    · obtain ⟨id, rfl⟩ := hq
      refine ⟨id, ?_⟩
      rw [hcur, Core.label_congr (c := (s.postLine p).c) (d := s.c) (by rw [hone.core]) (by rw [hone.core])]

end Sys2Proof.Machine
end

section
/-! Vector stores through an aperture (spec/06_memory.md R139, spec/13_vector.md R310). -/

namespace Sys2Proof.Machine

/-- The active lanes. -/
theorem mem_activeLanes {n l : Nat} {m : MWord} : l ∈ activeLanes n m ↔ l < n ∧ m.getLsbD l = true := by
  rw [activeLanes, List.mem_filter, List.mem_range]

/-- A vector type's lanes are whole bytes. -/
theorem vtype_bits_eq (ty : VType) : ty.bits = 8 * (ty.bits / 8) := by cases ty <;> rfl

/-- A lane's bytes divide a line. -/
theorem lane_within_line (ty : VType) {a : Nat} (h : a % (ty.bits / 8) = 0) : a % 128 + ty.bits / 8 ≤ 128 := by
  cases ty <;> simp only [VType.bits] at * <;> omega

/-- The checks of the lanes' addresses, in the way of a store of a run, where every one of them passes. -/
theorem firstStop_checks {s : State} {ws : List (XWord × Nat × Nat)} (h : ∀ w ∈ ws, ∃ t, s.check s.cur w.1 w.2.1 .write = .ok t) :
    firstStop (ws.map fun w => s.checkGate s.cur w.1 w.2.1 .write) = .go := by
  refine firstStop_all fun g hg => ?_
  obtain ⟨w, hw, rfl⟩ := List.mem_map.1 hg
  obtain ⟨t, ht⟩ := h w hw
  exact (State.checkGate_ok ht).1

/-- A write of a run through a core's aperture to a line with no write-back under way. -/
structure State.WritesPad (s : State) (tgt : Nat) (w : XWord × Nat × Nat) : Prop where
  check : s.check s.cur w.1 w.2.1 .write = .ok (padTgt tgt (w.1.toNat - (2 ^ 32 + tgt * 2 ^ 20)))
  apart : s.c.backing (lineOf (placePad tgt (w.1.toNat - (2 ^ 32 + tgt * 2 ^ 20)))) = false

/-- The target of such a write. -/
theorem State.WritesPad.tgt_eq {s : State} {tgt : Nat} {w : XWord × Nat × Nat} (h : s.WritesPad tgt w) :
    s.writeTgt s.cur w = padTgt tgt (w.1.toNat - (2 ^ 32 + tgt * 2 ^ 20)) := (State.checkGate_ok h.check).2

/-- Its line. -/
theorem State.WritesPad.line_eq {s : State} {tgt : Nat} {w : XWord × Nat × Nat} (h : s.WritesPad tgt w) :
    s.writeLineOf s.cur w = lineOf (placePad tgt (w.1.toNat - (2 ^ 32 + tgt * 2 ^ 20))) := by
  rw [State.writeLineOf, h.tgt_eq]; rfl

/-- Its bytes. -/
theorem State.WritesPad.getLsbD_mask {s : State} {tgt b : Nat} {w : XWord × Nat × Nat} (h : s.WritesPad tgt w) (hb : b < 128) :
    (s.writeMask s.cur w).getLsbD b = true ↔ (w.1.toNat - (2 ^ 32 + tgt * 2 ^ 20)) % 128 ≤ b ∧ b < (w.1.toNat - (2 ^ 32 + tgt * 2 ^ 20)) % 128 + w.2.1 := by
  rw [State.writeMask, h.tgt_eq, getLsbD_byteMask _ _ hb, padTgt, placePad_mod]

section RunStore

variable {s : State} {pre : List Gate} {ws : List (XWord × Nat × Nat)} {vd : BitVec 5} {sp : Span} {tgt : Nat}

/-- Touching the TLB for lines that are not translated. -/
theorem State.foldl_tlbTouch {bs : List Bundle} (h : ∀ b ∈ bs, b.t.size = 0) (k : Nat) (s : State) :
    bs.foldl (fun (s : State) b => s.tlbTouch k b.t.page b.t.size) s = s := by
  induction bs with
  | nil => rfl
  | cons b bs ih =>
    rw [List.foldl_cons, h b (List.mem_cons_self ..), State.tlbTouch_zero]
    exact ih fun b' hb' => h b' (List.mem_cons_of_mem _ hb')

/-- A store of a run all of whose lines are in another core's array goes by the room for the first of them, and posts them (R139). -/
theorem State.runStore_aperture (q : Nat) (hpre : firstStop pre = .go) (hw : ∀ w ∈ ws, s.WritesPad tgt w) (hfull : (s.c.v vd.toNat).full = true)
    (hsound : s.c.Sound (vecSlot vd.toNat)) (hout : s.c.out = []) (hk : sp.k = s.cur) (hv : sp.view = none) (hwr : sp.writes = true)
    (hmeet : ∀ p ∈ s.c.pendingSpans s.cur, sp.ordered p = false) {b : Bundle} {bs : List Bundle} (hb : s.bundles s.cur ws = b :: bs) :
    s.runStore pre ws vd sp q = checkedThen s [s.postGate (popCount b.mask.toNat 128)] fun _ =>
      (s.modC fun c => { c with storing := (b :: bs).map fun b => b.posted sp q }).postMore := by
  have htgt : ∀ x ∈ b :: bs, ∃ w ∈ ws, x.t = padTgt tgt (w.1.toNat - (2 ^ 32 + tgt * 2 ^ 20)) := fun x hx => by
    obtain ⟨w, hm, ht⟩ := (s.gathers_bundles s.cur ws).target x (hb ▸ hx)
    exact ⟨w, hm, ht.trans (hw w hm).tgt_eq⟩
  have hposts : ∀ x ∈ b :: bs, s.posts x.t = true := fun x hx => by
    obtain ⟨w, -, ht⟩ := htgt x hx
    rw [ht]; rfl
  have hnear : ((b :: bs).filter fun x => !s.posts x.t) = [] := List.filter_eq_nil_iff.2 fun x hx => by simp [hposts x hx]
  have hfar : ((b :: bs).filter fun x => s.posts x.t) = b :: bs := List.filter_eq_self.2 hposts
  have hsize : ∀ x ∈ b :: bs, x.t.size = 0 := fun x hx => by
    obtain ⟨w, -, ht⟩ := htgt x hx
    rw [ht]; rfl
  have hback : ((b :: bs).all fun x => decide (x.t.region = .own) || !s.c.backing (lineOf x.t.place)) = true := List.all_eq_true.2 fun x hx => by
    obtain ⟨w, hm, ht⟩ := htgt x hx
    have hp : (padTgt tgt (w.1.toNat - (2 ^ 32 + tgt * 2 ^ 20))).place = placePad tgt (w.1.toNat - (2 ^ 32 + tgt * 2 ^ 20)) := rfl
    rw [ht, hp, (hw w hm).apart, Bool.not_false, Bool.or_true]
  have hgo : firstStop (pre ++ (ws.map fun w => s.checkGate s.cur w.1 w.2.1 .write) ++ [vfullGate s.c [vd]] ++ veccGates s.c [vd] ++ [s.meetGate sp, goodGate s.c]) = .go := by
    rw [List.append_assoc, List.append_assoc, List.append_assoc, firstStop_append hpre, firstStop_append (firstStop_checks fun w hm => ⟨_, (hw w hm).check⟩),
      State.meetGate_go hk hmeet, goodGate_go hout]
    simp [vfullGate, veccGates, hfull, Core.eccGate_sound hsound, waitUntil]
  have hdirty := State.dirtyGate_go hk hv hwr hmeet ((b :: bs).map fun b => lineOf b.t.place)
  simp only [State.runStore, checkedThen, hgo, hb, hnear, hfar, hdirty, hback, firstStop_go_cons, State.foldl_tlbTouch hsize, List.foldl_nil]
  rfl

end RunStore

end Sys2Proof.Machine
end

section
/-! What a store through an aperture leaves (spec/06_memory.md R139). -/

namespace Sys2Proof.Machine

/-- The labels of the running activation. -/
theorem Core.label_act (c : Core) (k : Nat) {p : Posted} (h : p.act = 0) : (c.label k p).act = c.uid ∧ (c.label k p).core = k := by
  unfold Core.label Core.uid
  split <;> simp_all

/-- The data of an operation keeps in its labels. -/
theorem Core.label_data (c : Core) (k : Nat) (p : Posted) : (c.label k p).data = p.data := by
  unfold Core.label
  split <;> rfl

/-- A core's endpoint. -/
theorem epIsCore_of_isCore {tgt : Nat} (h : isCore tgt = true) : epIsCore tgt = true := by
  simp only [isCore, Bool.and_eq_true, decide_eq_true_eq] at h
  exact decide_eq_true h.1

/-- What an instruction that has posted writes to a core leaves. -/
theorem State.HasPosted.left {s u t : State} {xs : List Posted} {tgt : Nat} (h : s.HasPosted xs u) (hc : Completed u t (s.c.pc + 4)) (htgt : isCore tgt = true)
    (hx : ∀ x ∈ xs, x.kind = 0 ∧ x.core = s.cur ∧ x.ep = tgt ∧ x.act = s.c.uid) :
    t.c.pc = s.c.pc + 4 ∧ t.c.ctx.instret = s.c.ctx.instret + 1 ∧ t.c.xs = s.c.xs ∧ t.c.vs = s.c.vs ∧ s.BytesSame t ∧ t.c.posted = s.c.posted ++ xs
      ∧ (∀ x ∈ xs, x.kind = 0 ∧ x.core = s.cur ∧ x.ep = tgt ∧ x.act = s.c.uid)
      ∧ (∃ ps, t.net = s.net ++ ps ∧ ps.map (fun p => p.body) = xs.map Body.posted ∧ ∀ p ∈ ps, p.src = s.cur ∧ p.dst = tgt ∧ p.cls = 2 ∧ p.inorder = true)
      ∧ ∀ k, k ≠ s.cur → t.core k = s.core k := by
  obtain ⟨hpc, hinstret, hxs, hvs, hbytes, hposted, -, hnet, hothers⟩ := h.completed hc
  obtain ⟨ps, hn, hb, hp⟩ := h.net
  refine ⟨hpc, hinstret, hxs, hvs, hbytes, hposted, hx, ⟨ps, hnet.trans hn, hb, fun p hm => ?_⟩, hothers⟩
  obtain ⟨hsrc, hcls, hin, x, hxm, hdst⟩ := hp p hm
  have hd : p.dst = tgt := hdst.trans (hx x hxm).2.2.1
  exact ⟨hsrc, hd, hcls, by rw [hin, hd, epIsCore_of_isCore htgt]⟩

/-- A store of a register through an aperture posts one operation (R139). -/
theorem State.perform_store_aperture {s : State} {z : Size} {a : XWord} (v : XWord) {tgt off : Nat} (hout : s.c.out = []) (htgt : isCore tgt = true)
    (hal : off % sizeBytes z = 0) :
    ∃ t x, perform s (.done (s.postLine (storePost s a (sizeBytes z) v tgt off))) = .next t
      ∧ (t.c.pc = s.c.pc + 4 ∧ t.c.ctx.instret = s.c.ctx.instret + 1 ∧ t.c.xs = s.c.xs ∧ t.c.vs = s.c.vs ∧ s.BytesSame t ∧ t.c.posted = s.c.posted ++ [x]
        ∧ (∀ y ∈ [x], y.kind = 0 ∧ y.core = s.cur ∧ y.ep = tgt ∧ y.act = s.c.uid)
        ∧ (∃ ps, t.net = s.net ++ ps ∧ ps.map (fun p => p.body) = [x].map Body.posted ∧ ∀ p ∈ ps, p.src = s.cur ∧ p.dst = tgt ∧ p.cls = 2 ∧ p.inorder = true)
        ∧ ∀ k, k ≠ s.cur → t.core k = s.core k)
      ∧ x.va = a ∧ x.line = lineOf (placePad tgt off) ∧ (∀ b, b < 128 → (x.mask.getLsbD b = true ↔ off % 128 ≤ b ∧ b < off % 128 + sizeBytes z))
      ∧ x.data.extractLsb' (8 * (off % 128)) (8 * sizeBytes z) = v.setWidth (8 * sizeBytes z) := by
  have hp := s.hasPosted_postLine (storePost s a (sizeBytes z) v tgt off)
  obtain ⟨t, ht, hc⟩ := perform_done (s := s) (.inl hout) hp.aside.cur
  obtain ⟨hkind, hmask, hva, hline, hep⟩ := s.c.label_fields s.cur (storePost s a (sizeBytes z) v tgt off)
  obtain ⟨hact, hcore⟩ := s.c.label_act s.cur (p := storePost s a (sizeBytes z) v tgt off) rfl
  refine ⟨t, _, ht, hp.left hc htgt fun x hx => ?_, hva, hline, fun b hb => ?_, ?_⟩
  · obtain rfl := List.mem_singleton.1 hx
    exact ⟨hkind, hcore, hep, hact⟩
  · change (s.c.label s.cur (storePost s a (sizeBytes z) v tgt off)).mask.getLsbD b = true ↔ _
    rw [hmask]
    exact getLsbD_byteMask _ _ hb
  · change (s.c.label s.cur (storePost s a (sizeBytes z) v tgt off)).data.extractLsb' _ _ = _
    rw [s.c.label_data]
    exact extractLsb'_storeData v (aligned_within_line hal)

end Sys2Proof.Machine
end

section
/-! A vector store posts its lines (spec/06_memory.md R139, spec/13_vector.md R310). -/

namespace Sys2Proof.Machine

/-- Numbers of two kinds, each once, are two at most. -/
theorem length_le_two {l : List Nat} {x y : Nat} (hd : l.Nodup) (h : ∀ z ∈ l, z = x ∨ z = y) : l.length ≤ 2 :=
  (List.subperm_of_subset hd (l₂ := [x, y]) fun z hz => by simpa using h z hz).length_le

/-- The address of a lane that lies in an aperture: the sum does not wrap. -/
theorem lane_toNat {a : XWord} {m lo : Nat} (hm : m < 128) (hlo : 2 ^ 32 ≤ lo) (h : lo ≤ (a + BitVec.ofNat 64 m).toNat) :
    (a + BitVec.ofNat 64 m).toNat = a.toNat + m := by
  rw [BitVec.toNat_add, BitVec.toNat_ofNat] at *
  have := a.isLt
  omega

/-- The writes of the active lanes of a vector store. -/
def State.vstWrites (s : State) (ty : VType) (vd xa : BitVec 5) (m : BitVec 3) : List (XWord × Nat × Nat) :=
  (activeLanes (laneCount ty.bits) (s.c.mask m)).map fun l =>
    (s.c.x xa + BitVec.ofNat 64 (ty.bits * l / 8), ty.bits / 8, laneOf ty.bits (s.c.v vd.toNat).val.toNat l)

/-- The address of a lane. -/
def laneAt (ty : VType) (a : XWord) (l : Nat) : XWord := a + BitVec.ofNat 64 (ty.bits / 8 * l)

/-- A write is that of an active lane. -/
theorem State.mem_vstWrites {s : State} {ty : VType} {vd xa : BitVec 5} {m : BitVec 3} {w : XWord × Nat × Nat} :
    w ∈ s.vstWrites ty vd xa m ↔ ∃ l, (l < 1024 / ty.bits ∧ (s.c.mask m).getLsbD l = true)
      ∧ w = (laneAt ty (s.c.x xa) l, ty.bits / 8, laneOf ty.bits (s.c.v vd.toNat).val.toNat l) := by
  have hn : laneCount ty.bits = 1024 / ty.bits := by cases ty <;> rfl
  have hb (l : Nat) : ty.bits * l / 8 = ty.bits / 8 * l := by
    conv_lhs => rw [vtype_bits_eq ty, Nat.mul_assoc, Nat.mul_div_cancel_left _ (by decide : 0 < 8)]
  simp only [State.vstWrites, hn, List.mem_map, mem_activeLanes, laneAt, hb, eq_comm]

section Vst

variable {s : State} {ty : VType} {vd xa : BitVec 5} {m : BitVec 3} {tgt : Nat}

/-- The checks of a vector store before those of its addresses. -/
theorem State.laneGates_go (hs : s.c.SrcsReady [plainSrc xa 0]) (hvd : vd.toNat < s.c.ctx.allotV) (hal : (s.c.x xa).toNat % (ty.bits / 8) = 0) (ls : List Nat) :
    firstStop (s.laneGates ty vd xa ls) = .go := by
  have hmax : max 1 (ty.bits / 8) = ty.bits / 8 := by cases ty <;> rfl
  rw [State.laneGates, List.append_assoc, firstStop_append, firstStop_append (srcGates_ready hs)]
  · simp [hmax, hal]
  · simp [allotGates, Nat.not_le.2 hvd]

/-- The lanes' bytes lie in one line of 128 from the first. -/
theorem lane_lt (ty : VType) {l : Nat} (h : l < 1024 / ty.bits) : ty.bits / 8 * l < 128 := by
  cases ty <;> simp only [VType.bits] at * <;> omega

/-- The active lanes of a vector store lie in the aperture of a core, with no write-back of their lines under way. -/
def State.LanesAt (s : State) (ty : VType) (xa : BitVec 5) (m : BitVec 3) (tgt : Nat) : Prop :=
  ∀ l, (l < 1024 / ty.bits ∧ (s.c.mask m).getLsbD l = true) →
    2 ^ 32 + tgt * 2 ^ 20 ≤ (laneAt ty (s.c.x xa) l).toNat ∧ (laneAt ty (s.c.x xa) l).toNat + ty.bits / 8 ≤ 2 ^ 32 + tgt * 2 ^ 20 + 0x60000
      ∧ s.c.backing (lineOf (placePad tgt ((laneAt ty (s.c.x xa) l).toNat - (2 ^ 32 + tgt * 2 ^ 20)))) = false

/-- An active lane's address: it does not wrap, and is aligned. -/
theorem State.LanesAt.toNat (h : s.LanesAt ty xa m tgt) {l : Nat} (hl : l < 1024 / ty.bits ∧ (s.c.mask m).getLsbD l = true) :
    (laneAt ty (s.c.x xa) l).toNat = (s.c.x xa).toNat + ty.bits / 8 * l :=
  lane_toNat (lane_lt ty hl.1) (Nat.le_add_right ..) (h l hl).1

/-- Every write of the store is one through the aperture. -/
theorem State.LanesAt.writesPad (h : s.LanesAt ty xa m tgt) (htgt : isCore tgt = true) (hset : (s.job s.c.jobNum).cset.getLsbD (coreCluster tgt) = true)
    (hal : (s.c.x xa).toNat % (ty.bits / 8) = 0) : ∀ w ∈ s.vstWrites ty vd xa m, s.WritesPad tgt w := by
  intro w hw
  obtain ⟨l, hl, rfl⟩ := State.mem_vstWrites.1 hw
  obtain ⟨hlo, hhi, hback⟩ := h l hl
  have hpos : 0 < ty.bits / 8 := by cases ty <;> decide
  refine ⟨State.check_aperture htgt hset hlo (by omega) ?_ .write true, hback⟩
  rw [h.toNat hl, Nat.add_mul_mod_self_left, hal]

/-- The writes fall in two lines at most. -/
theorem State.LanesAt.length_bundles (h : s.LanesAt ty xa m tgt) (hw : ∀ w ∈ s.vstWrites ty vd xa m, s.WritesPad tgt w) :
    (s.bundles s.cur (s.vstWrites ty vd xa m)).length ≤ 2 := by
  have hg := s.gathers_bundles s.cur (s.vstWrites ty vd xa m)
  have hlen := length_le_two (x := lineOf (placePad tgt (128 * ((s.c.x xa).toNat / 128) - (2 ^ 32 + tgt * 2 ^ 20))))
    (y := lineOf (placePad tgt (128 * ((s.c.x xa).toNat / 128 + 1) - (2 ^ 32 + tgt * 2 ^ 20)))) hg.nodup fun z hz => ?_
  · rwa [List.length_map] at hlen
  obtain ⟨b, hb, rfl⟩ := List.mem_map.1 hz
  obtain ⟨w, hm, ht⟩ := hg.target b hb
  rw [Bundle.line, ht, (hw w hm).tgt_eq]
  obtain ⟨l, hl, rfl⟩ := State.mem_vstWrites.1 hm
  have haddr := h.toNat hl
  have hlt := lane_lt ty hl.1
  have hlo := (h l hl).1
  simp only [padTgt, lineOf, placePad]
  rw [haddr] at hlo ⊢
  generalize ty.bits / 8 * l = k at *
  omega

end Vst

end Sys2Proof.Machine
end

section
/-! Stores (spec/06_memory.md R130, R139). -/

namespace Sys2Proof.Machine

/-- A core that has nothing left to store. -/
theorem Core.posted_storing {c : Core} (h : c.storing = []) (xs : List Posted) : { c with posted := xs, storing := [] } = { c with posted := xs } := by
  rw [h]

/-- A vector store posts the lines of its active lanes once they find room (R139). -/
theorem State.perform_vst {s : State} {ty : VType} {vd xa : BitVec 5} {m : BitVec 3} {tgt : Nat} (hout : s.c.out = []) (htgt : isCore tgt = true)
    (hset : (s.job s.c.jobNum).cset.getLsbD (coreCluster tgt) = true) (hs : s.c.SrcsReady [plainSrc xa 0]) (hvd : vd.toNat < s.c.ctx.allotV)
    (hfull : (s.c.v vd.toNat).full = true) (hsound : s.c.Sound (vecSlot vd.toNat)) (hstoring : s.c.storing = []) (hal : (s.c.x xa).toNat % (ty.bits / 8) = 0)
    (hon : ∃ l, l < 1024 / ty.bits ∧ (s.c.mask m).getLsbD l = true) (hat : s.LanesAt ty xa m tgt)
    (hmeet : ∀ q ∈ s.c.pendingSpans s.cur, (laneSpan s.cur ty.bits (s.c.x xa) (activeLanes (laneCount ty.bits) (s.c.mask m)) true).ordered q = false) :
    (32 ≤ s.c.counted → exec (.vst ty vd xa m) s = .next s)
    ∧ (s.c.counted + 2 ≤ 32 → s.retainRoom s.cur (2 * retainBytes 128) = true →
      ∃ t u xs, exec (.vst ty vd xa m) s = .next t ∧ s.HasPosted xs u ∧ Completed u t (s.c.pc + 4)
        ∧ List.Forall₂ (fun b x => s.c.Labels s.cur
            (b.posted (laneSpan s.cur ty.bits (s.c.x xa) (activeLanes (laneCount ty.bits) (s.c.mask m)) true) 16) x)
          (s.bundles s.cur (s.vstWrites ty vd xa m)) xs) := by
  have hw := hat.writesPad (vd := vd) htgt hset hal
  have hlen := hat.length_bundles hw
  have hg := s.gathers_bundles s.cur (s.vstWrites ty vd xa m)
  have hne : s.bundles s.cur (s.vstWrites ty vd xa m) ≠ [] := by
    obtain ⟨l, hl⟩ := hon
    obtain ⟨b, hb, -⟩ := hg.covers _ (State.mem_vstWrites.2 ⟨l, hl, rfl⟩)
    exact List.ne_nil_of_mem hb
  have hls : (activeLanes (laneCount ty.bits) (s.c.mask m)).isEmpty = false := by
    rw [Bool.eq_false_iff, Ne, List.isEmpty_iff]
    intro h0
    exact hne (by rw [State.vstWrites, h0]; rfl)
  generalize hsp : laneSpan s.cur ty.bits (s.c.x xa) (activeLanes (laneCount ty.bits) (s.c.mask m)) true = sp at hmeet ⊢
  obtain ⟨hk, hv, hwr⟩ : sp.k = s.cur ∧ sp.view = none ∧ sp.writes = true := by rw [← hsp]; exact ⟨rfl, rfl, rfl⟩
  have hexec : exec (.vst ty vd xa m) s = perform s (s.runStore (s.laneGates ty vd xa (activeLanes (laneCount ty.bits) (s.c.mask m)))
      (s.vstWrites ty vd xa m) vd sp 16) := by
    change execVst ty vd xa m s = _
    simp only [execVst, hls, hsp]; rfl
  obtain ⟨b, bs, hb⟩ := List.exists_cons_of_ne_nil hne
  have hrun := State.runStore_aperture 16 (s.laneGates_go hs hvd hal (activeLanes (laneCount ty.bits) (s.c.mask m))) hw hfull hsound hout hk hv hwr hmeet hb
  rw [hexec, hrun, hb]
  rw [hb] at hlen
  refine ⟨fun hmany => ?_, fun hfew hroom => ?_⟩
  · rw [State.postGate_wait hmany]; rfl
  · have hret : (s.ep s.cur).held + 2 * retainBytes 128 ≤ retainCap s.cur := of_decide_eq_true hroom
    have hfirst : s.retainRoom s.cur (retainBytes (popCount b.mask.toNat 128)) = true := by
      have := retainBytes_mono (popCount_le b.mask.toNat 128)
      exact decide_eq_true (by omega)
    have hless : s.c.counted < 32 := by omega
    generalize hps : (b :: bs).map (fun b => b.posted sp 16) = ps
    have hpl : ps.length ≤ 2 := by rwa [← hps, List.length_map]
    have hc2 : (s.modC fun c => { c with storing := ps }).c = { s.c with storing := ps } := State.c_modC ..
    obtain ⟨xs, u, hu, hsome, hlab⟩ := State.postSome_all ps (s.modC fun c => { c with storing := ps })
      (by rw [hc2]; exact le_trans (Nat.add_le_add_left hpl _) hfew)
      (le_trans (Nat.add_le_add_left (Nat.mul_le_mul_right _ hpl) _) hret)
    have hdone : (s.modC fun c => { c with storing := ps }).postMore = .done (u.modC fun c => { c with storing := [] }) := by
      unfold State.postMore
      simp only [hc2, hsome, State.c_modC]; rfl
    have hpost : s.HasPosted xs (u.modC fun c => { c with storing := [] }) := hu.of_modC (by rw [hu.core, hc2, ← Core.posted_storing hstoring])
    obtain ⟨t, ht, hc⟩ := perform_done (s := s) (.inl hout) hpost.aside.cur
    refine ⟨t, _, xs, ?_, hpost, hc, ?_⟩
    · rw [State.postGate_go hless hfirst, ← ht, ← hdone]; rfl
    · rw [hc2, ← hps, List.forall₂_map_left_iff] at hlab
      exact hlab.imp fun x y ⟨id, hy⟩ => ⟨id, hy.trans (by rw [Core.label_congr (d := s.c) rfl rfl]; rfl)⟩

/-- What a line of a store of a run posts. -/
theorem Core.Labels.fields {c : Core} {k q : Nat} {b : Bundle} {sp : Span} {x : Posted} (h : c.Labels k (b.posted sp q) x) :
    (x.line, x.mask, x.kind, x.core, x.ep, x.act) = (b.line, b.mask, 0, k, b.t.ep, c.uid) := by
  obtain ⟨id, rfl⟩ := h
  obtain ⟨hkind, hmask, -, hline, hep⟩ := c.label_fields k (b.posted sp q)
  obtain ⟨hact, hcore⟩ := c.label_act k (p := b.posted sp q) rfl
  exact congr (congrArg Prod.mk hline) (congr (congrArg Prod.mk hmask) (congr (congrArg Prod.mk hkind) (congr (congrArg Prod.mk hcore)
    (congr (congrArg Prod.mk hep) hact))))

/-- What the lines of a run post, one by one. -/
theorem map_fields_of_labels {c : Core} {k q : Nat} {sp : Span} {bs : List Bundle} {xs : List Posted} (h : List.Forall₂ (fun b x => c.Labels k (b.posted sp q) x) bs xs) :
    xs.map (fun x => (x.line, x.mask, x.kind, x.core, x.ep, x.act)) = bs.map fun b => (b.line, b.mask, 0, k, b.t.ep, c.uid) := by
  induction h with
  | nil => rfl
  | cons hx _ ih => rw [List.map_cons, List.map_cons, hx.fields, ih]

/-- The operations that a vector store posts: each line's once, of the bytes of the active lanes there. -/
theorem State.LanesAt.posted_of_labels {s : State} {ty : VType} {vd xa : BitVec 5} {m : BitVec 3} {tgt q : Nat} {sp : Span} {xs : List Posted}
    (h : s.LanesAt ty xa m tgt) (htgt : isCore tgt = true) (hset : (s.job s.c.jobNum).cset.getLsbD (coreCluster tgt) = true)
    (hal : (s.c.x xa).toNat % (ty.bits / 8) = 0)
    (hx : List.Forall₂ (fun b x => s.c.Labels s.cur (b.posted sp q) x) (s.bundles s.cur (s.vstWrites ty vd xa m)) xs) :
    (∀ x ∈ xs, x.kind = 0 ∧ x.core = s.cur ∧ x.ep = tgt ∧ x.act = s.c.uid) ∧ (xs.map fun x => x.line).Nodup
    ∧ (∀ l, (l < 1024 / ty.bits ∧ (s.c.mask m).getLsbD l = true) →
        ∃ x ∈ xs, x.line = lineOf (placePad tgt ((laneAt ty (s.c.x xa) l).toNat - (2 ^ 32 + tgt * 2 ^ 20))))
    ∧ ∀ x ∈ xs, ∀ b, b < 128 → (x.mask.getLsbD b = true ↔ ∃ l, (l < 1024 / ty.bits ∧ (s.c.mask m).getLsbD l = true)
        ∧ x.line = lineOf (placePad tgt ((laneAt ty (s.c.x xa) l).toNat - (2 ^ 32 + tgt * 2 ^ 20)))
        ∧ ((laneAt ty (s.c.x xa) l).toNat - (2 ^ 32 + tgt * 2 ^ 20)) % 128 ≤ b
        ∧ b < ((laneAt ty (s.c.x xa) l).toNat - (2 ^ 32 + tgt * 2 ^ 20)) % 128 + ty.bits / 8) := by
  have hw := h.writesPad (vd := vd) htgt hset hal
  have hg := s.gathers_bundles s.cur (s.vstWrites ty vd xa m)
  have hmap := map_fields_of_labels hx
  generalize s.bundles s.cur (s.vstWrites ty vd xa m) = bs at hg hmap
  have hfrom : ∀ x ∈ xs, ∃ b ∈ bs, b.line = x.line ∧ b.mask = x.mask ∧ x.kind = 0 ∧ x.core = s.cur ∧ x.ep = b.t.ep ∧ x.act = s.c.uid := fun x hx => by
    obtain ⟨b, hb, he⟩ := List.mem_map.1 (hmap ▸ List.mem_map_of_mem (f := fun x : Posted => (x.line, x.mask, x.kind, x.core, x.ep, x.act)) hx)
    simp only [Prod.mk.injEq] at he
    obtain ⟨h1, h2, h3, h4, h5, h6⟩ := he
    exact ⟨b, hb, h1, h2, h3.symm, h4.symm, h5.symm, h6.symm⟩
  have hlines : xs.map (fun x => x.line) = bs.map Bundle.line := by
    simpa only [List.map_map, Function.comp_def] using congrArg (List.map Prod.fst) hmap
  refine ⟨fun x hx => ?_, ?_, fun l hl => ?_, fun x hx b hb => ?_⟩
  · obtain ⟨b, hb, -, -, hkind, hcore, hep, hact⟩ := hfrom x hx
    obtain ⟨w, hm, htg⟩ := hg.target b hb
    exact ⟨hkind, hcore, by rw [hep, htg, (hw w hm).tgt_eq]; rfl, hact⟩
  · rw [hlines]; exact hg.nodup
  · have hmem := (State.mem_vstWrites (vd := vd) (xa := xa)).2 ⟨l, hl, rfl⟩
    obtain ⟨b, hb, hbl⟩ := hg.covers _ hmem
    obtain ⟨x, hx, hxl⟩ := List.mem_map.1 (hlines ▸ List.mem_map_of_mem (f := Bundle.line) hb)
    refine ⟨x, hx, ?_⟩
    rw [hxl, hbl, (hw _ hmem).line_eq]
  · obtain ⟨b0, hb0, hl0, hm0, -⟩ := hfrom x hx
    rw [← hm0, hg.mask b0 hb0, ← hl0]
    refine ⟨fun ⟨w, hm, hline, hbit⟩ => ?_, fun ⟨l, hl, hline, hbit⟩ => ?_⟩
    · rw [(hw w hm).getLsbD_mask hb] at hbit
      rw [(hw w hm).line_eq] at hline
      obtain ⟨l, hl, rfl⟩ := State.mem_vstWrites.1 hm
      exact ⟨l, hl, hline.symm, hbit⟩
    · have hmem := (State.mem_vstWrites (vd := vd) (xa := xa)).2 ⟨l, hl, rfl⟩
      refine ⟨_, hmem, ?_, ((hw _ hmem).getLsbD_mask hb).2 hbit⟩
      rw [(hw _ hmem).line_eq, hline]

/-- Settles O22: stores to the own scratchpad, posted stores of registers and of vectors. -/
theorem storesWriteOnlyTheirBytes : Obligations.StoresWriteOnlyTheirBytes := by
  unfold Obligations.StoresWriteOnlyTheirBytes
  constructor
  · intro z ord sa sb imm s hm hs hout stores
    have hn := (sizeBytes_bounds z).1
    refine ⟨fun hown => ?_, fun hrel hown => ?_⟩
    · obtain ⟨t, ht, h⟩ := State.perform_store_own (s.c.x sb.n) hm hout hown
      exact ⟨t, (congrArg (perform s) (State.storeAns_own _ (srcGates_ready hs) hn hown hout rfl)).trans ht, h⟩
    · obtain ⟨t, ht, h⟩ := State.perform_store_own (s.c.x sb.n) hm hout hown
      exact ⟨t, (congrArg (perform s) (State.storeAns_own _ (srcGates_ready hs) hn hown hout (State.relGate_go hrel ord))).trans ht, h⟩
  · intro z ord sa sb imm ty vd xa m tgt s hout htgt hset window counted line left posts
    have hpost {i : Instr} {a : XWord} {o : BitVec 4} (hs : s.c.SrcsReady (src2 sa sb)) (hrel : s.relGate o = .go)
        (hi : exec i s = perform s (s.storeAns (srcGates s.c (src2 sa sb)) a (sizeBytes z) (s.c.x sb.n) o)) : posts i a := by
      intro hlo hoff hal hmeet hback
      have hck := State.check_aperture (n := sizeBytes z) htgt hset hlo hoff hal .write true
      have hans := State.storeAns_aperture (s.c.x sb.n) (srcGates_ready hs) hck hout hrel hmeet hback
      rw [hans] at hi
      refine ⟨fun hmany => ?_, fun hless hroom => ?_⟩
      · rw [State.postGate_wait hmany] at hi
        exact hi
      · rw [State.postGate_go hless hroom] at hi
        have hdvd : (a.toNat - window) % sizeBytes z = 0 := by cases z <;> simp only [sizeBytes, window] at * <;> omega
        obtain ⟨t, x, ht, h⟩ := State.perform_store_aperture (a := a) (s.c.x sb.n) hout htgt hdvd
        exact ⟨t, x, hi.trans ht, h⟩
    refine ⟨fun hs => ⟨hpost hs rfl rfl, fun hrel => hpost hs (State.relGate_go hrel ord) rfl⟩, ?_⟩
    intro n L a at_ on hs hvd hfull hsound hstoring hal hon hat hmeet
    have hL : laneCount ty.bits = L := by cases ty <;> rfl
    rw [← hL] at hmeet
    have hlanes : s.LanesAt ty xa m tgt := hat
    obtain ⟨hwait, hgo⟩ := State.perform_vst hout htgt hset hs hvd hfull hsound hstoring hal hon hlanes hmeet
    refine ⟨hwait, fun hfew hroom => ?_⟩
    obtain ⟨t, u, xs, ht, hp, hc, hlab⟩ := hgo hfew hroom
    obtain ⟨hfields, hnodup, hcovers, hmask⟩ := hlanes.posted_of_labels htgt hset hal hlab
    exact ⟨t, xs, ht, hp.left hc htgt hfields, hnodup, hcovers, hmask⟩

end Sys2Proof.Machine
end

section
/-! Values of atomics (spec/06_memory.md R142). -/

namespace Sys2Proof.Machine

/-- The old value as the destination takes it. -/
theorem amoResult_eq {op : AmoOp} {dbl zext : Bool} (h : zext = decide (op = .fadd)) (hz : zext = true → dbl = false) {old : Nat} (ho : old < 2 ^ (8 * amoBytes dbl)) :
    amoResult op dbl old = if zext then BitVec.ofNat 64 old else BitVec.ofInt 64 (BitVec.ofNat (8 * (if dbl then 8 else 4)) old).toInt := by
  subst h
  cases dbl with
  | true =>
    have hop : decide (op = .fadd) = false := by cases h : decide (op = .fadd) <;> simp_all
    rw [amoResult, hop]
    exact (BitVec.ofInt_toInt (x := BitVec.ofNat 64 old)).symm
  | false =>
    rw [amoResult]
    cases decide (op = .fadd) <;> rfl

/-- The new value as a function of the old one, for the operations of one operand and for compare-and-swap: `b` and `c` are the operands (R142). -/
def amoFn (op : AmoOp) (dbl : Bool) (b c : XWord) (o : Nat) : Nat :=
  let sx (v : Nat) : Int := if dbl then (BitVec.ofNat 64 v).toInt else (BitVec.ofNat 32 v).toInt
  match op with
  | .add => o + b.toNat
  | .and => o &&& b.toNat
  | .or => o ||| b.toNat
  | .xor => o ^^^ b.toNat
  | .min => if sx b.toNat < sx o then b.toNat else o
  | .max => if sx o < sx b.toNat then b.toNat else o
  | .swap => b.toNat
  | .fadd => (faddFn .s (BitVec.ofNat 64 o) b).1.toNat
  | .cas => if o = b.toNat then c.toNat else o

/-- The model's new value is that function's, modulo the bytes written. -/
theorem amoNew_toNat (op : AmoOp) (dbl : Bool) (b c : XWord) {o : Nat} (ho : o < 2 ^ 64) :
    (amoNew op dbl (BitVec.ofNat 64 o) b c).1.toNat % 2 ^ (8 * amoBytes dbl) = amoFn op dbl b c o % 2 ^ (8 * amoBytes dbl) := by
  have h64 : (BitVec.ofNat 64 o).toNat = o := by rw [BitVec.toNat_ofNat, Nat.mod_eq_of_lt ho]
  have hb : BitVec.ofNat 64 b.toNat = b := BitVec.ofNat_toNat ..
  have hb32 : b.setWidth 32 = BitVec.ofNat 32 b.toNat := rfl
  have ho32 : (BitVec.ofNat 64 o).setWidth 32 = BitVec.ofNat 32 o := by rw [← BitVec.ofNat_toNat, h64]
  have hd : 2 ^ (8 * amoBytes dbl) ∣ 2 ^ 64 := by cases dbl <;> decide
  cases op with
  | add => rw [amoNew, amoFn, BitVec.toNat_add, h64, Nat.mod_mod_of_dvd _ hd]
  | and => rw [amoNew, amoFn, BitVec.toNat_and, h64]
  | or => rw [amoNew, amoFn, BitVec.toNat_or, h64]
  | xor => rw [amoNew, amoFn, BitVec.toNat_xor, h64]
  | min => simp only [amoNew, amoFn, hb, hb32, ho32, apply_ite BitVec.toNat, h64]
  | max => simp only [amoNew, amoFn, hb, hb32, ho32, apply_ite BitVec.toNat, h64]
  | swap => rfl
  | fadd => rfl
  | cas =>
    have he : BitVec.ofNat 64 o = b ↔ o = b.toNat := ⟨fun h => by rw [← h, h64], fun h => by rw [h, hb]⟩
    simp only [amoNew, amoFn, he]
    split
    · rfl
    · rw [h64]

/-- Only the floating-point addition raises flags. -/
theorem amoNew_flags (op : AmoOp) (dbl : Bool) (a b c : XWord) : (amoNew op dbl a b c).2 = if op = .fadd then (faddFn .s a b).2 else 0 := by
  cases op <;> rfl

end Sys2Proof.Machine
end

section
/-! Atomics on the own scratchpad (spec/06_memory.md R142, R143). -/

namespace Sys2Proof.Machine

/-- A number stored and the aside parts do not meet. -/
theorem State.Aside.store {k : Nat} {s t : State} (h : s.Aside k t) (p n v : Nat) : (s.store p n v).Aside k (t.store p n v) := by
  have hd := congrArg (fun u : State => u.store p n v) h.device
  exact ⟨hd, h.core, h.out, h.others, h.streams⟩

/-- A register write with flags and the aside parts do not meet. -/
theorem Core.setX_raiseFlags_withAside (rd : BitVec 5) (v : XWord) (f : BitVec 5) (c d : Core) :
    ((c.setX rd v).raiseFlags f).withAside ((d.setX rd v).raiseFlags f) = ((c.withAside d).setX rd v).raiseFlags f := by
  rw [← Core.setX_withAside]; rfl

/-- The effect of an atomic on the own scratchpad but for what is aside: its bytes, its destination, its flags. -/
def State.amoEffect (s : State) (op : AmoOp) (dbl : Bool) (a b c' : XWord) (rd : BitVec 5) : State :=
  let r := amoNew op dbl (BitVec.ofNat 64 (s.load (placePad s.cur a.toNat) (amoBytes dbl))) b c'
  (s.store (placePad s.cur a.toNat) (amoBytes dbl) r.1.toNat).modC fun c =>
    (c.setX rd (amoResult op dbl (s.load (placePad s.cur a.toNat) (amoBytes dbl)))).raiseFlags r.2

/-- An atomic on the own scratchpad, once its checks let it go on: its effect, and what is aside (R142). -/
theorem State.amoAns_own {s : State} {pre : List Gate} {op : AmoOp} {dbl : Bool} {a : XWord} {rd : BitVec 5} (b c' : XWord) (o : BitVec 4) (hpre : firstStop pre = .go)
    (hout : s.c.out = []) (hrel : s.c.Released) (hd : s.c.DestReady rd) (hown : s.OwnAt a (amoBytes dbl) true) (hline : s.LineReady a) :
    ∃ e, s.amoAns pre op dbl a b c' rd o = .done e ∧ (s.amoEffect op dbl a b c' rd).Aside s.cur e := by
  have hn : 0 < amoBytes dbl := by cases dbl <;> decide
  obtain ⟨hgate, ht⟩ := State.checkGate_ok (State.check_own hown.aligned hown.inside hn .atomic (decide (op = .add) || decide (op = .swap) || decide (op = .cas)))
  have hgo : firstStop (pre ++ [s.checkGate s.cur a (amoBytes dbl) .atomic (decide (op = .add) || decide (op = .swap) || decide (op = .cas)), goodGate s.c,
      s.relGate o, destGate s.c rd, s.meetGate (plainSpan s.cur a (amoBytes dbl) true)]) = .go := by
    rw [firstStop_append hpre, hgate, goodGate_go hout, State.relGate_go hrel, destGate_ready hd, State.meetGate_go rfl hown.apart]; rfl
  have hdirty := State.dirtyGate_go rfl rfl rfl hown.apart [lineOf (placePad s.cur a.toNat)]
  have hgo' : firstStop [waitUntil (s.c.lineFull a.toNat), s.padEccGate a] = .go := by rw [hline.full, State.padEccGate, hline.sound]; rfl
  have hlog : s.Aside s.cur (s.logLine s.cur (a.toNat / 128)) := s.aside_logLineAt ..
  have hload : (s.logLine s.cur (a.toNat / 128)).load (placePad s.cur a.toNat) (amoBytes dbl) = s.load (placePad s.cur a.toNat) (amoBytes dbl) :=
    State.load_congr fun q _ _ => hlog.byte q
  have hall := State.Aside.modC (s := s.store (placePad s.cur a.toNat) (amoBytes dbl) _)
    ((hlog.store _ _ (amoNew op dbl (BitVec.ofNat 64 (s.load (placePad s.cur a.toNat) (amoBytes dbl))) b c').1.toNat).trans
      (State.aside_unlogSaved _ s.cur (a.toNat / 128)))
    (Core.setX_raiseFlags_withAside rd (amoResult op dbl (s.load (placePad s.cur a.toNat) (amoBytes dbl)))
      (amoNew op dbl (BitVec.ofNat 64 (s.load (placePad s.cur a.toNat) (amoBytes dbl))) b c').2) fun _ => Core.setX_out ..
  refine ⟨_, ?_, hall.trans (hall.cur ▸ State.aside_acqAt _ o)⟩
  simp only [State.amoAns, ht, checkedThen, hgo, State.ownTgt, firstStop_go_cons, firstStop_nil, hdirty, State.tlbTouch_zero, if_true, checked_go hgo',
    State.atomicAt, hload]

/-- What an atomic on the own scratchpad leaves (R142). -/
theorem State.perform_amo_own {s : State} {pre : List Gate} {op : AmoOp} {dbl : Bool} {a : XWord} {rd : BitVec 5} (b c' : XWord) (o : BitVec 4) (hm : s.MemOk)
    (hpre : firstStop pre = .go) (hout : s.c.out = []) (hrel : s.c.Released) (hd : s.c.DestReady rd) (hown : s.OwnAt a (amoBytes dbl) true) (hline : s.LineReady a) :
    ∃ t, perform s (s.amoAns pre op dbl a b c' rd o) = .next t ∧ t.c.pc = s.c.pc + 4 ∧ t.c.ctx.instret = s.c.ctx.instret + 1 ∧ t.MemOk
      ∧ (∀ key, t.c.regAt key = (s.c.setX rd (amoResult op dbl (s.load (placePad s.cur a.toNat) (amoBytes dbl)))).regAt key)
      ∧ t.c.vs = s.c.vs ∧ t.c.ms = s.c.ms
      ∧ t.c.ctx.flags = s.c.ctx.flags ||| (amoNew op dbl (BitVec.ofNat 64 (s.load (placePad s.cur a.toNat) (amoBytes dbl))) b c').2
      ∧ t.c.ctx.status = s.c.ctx.status
      ∧ t.load (placePad s.cur a.toNat) (amoBytes dbl) = amoFn op dbl b c' (s.load (placePad s.cur a.toNat) (amoBytes dbl)) % 2 ^ (8 * amoBytes dbl)
      ∧ (∀ q, q < placePad s.cur a.toNat ∨ placePad s.cur a.toNat + amoBytes dbl ≤ q → t.byte q = s.byte q) ∧ ∀ k, k ≠ s.cur → t.core k = s.core k := by
  obtain ⟨e, he, hside⟩ := State.amoAns_own (op := op) b c' o hpre hout hrel hd hown hline
  have hold : s.load (placePad s.cur a.toNat) (amoBytes dbl) < 2 ^ 64 :=
    lt_of_lt_of_le (s.load_lt _ _) (Nat.pow_le_pow_right (by decide) (by cases dbl <;> decide))
  have hcur : e.cur = s.cur := hside.cur
  obtain ⟨t, ht, hc⟩ := perform_done (s := s) (e := e) (.inl hout) hcur
  have hec : e.c = e.core s.cur := by rw [State.c, hcur]
  have hsc : (s.amoEffect op dbl a b c' rd).core s.cur = (s.c.setX rd (amoResult op dbl (s.load (placePad s.cur a.toNat) (amoBytes dbl)))).raiseFlags
      (amoNew op dbl (BitVec.ofNat 64 (s.load (placePad s.cur a.toNat) (amoBytes dbl))) b c').2 := State.c_modC ..
  have hctx : e.c.ctx = s.c.ctx.raise (amoNew op dbl (BitVec.ofNat 64 (s.load (placePad s.cur a.toNat) (amoBytes dbl))) b c').2 := by
    rw [hec, hside.ctx, hsc, Core.raiseFlags, Core.modCtx, Core.setX_ctx]
  have hmem : t.mem = (s.store (placePad s.cur a.toNat) (amoBytes dbl)
      (amoNew op dbl (BitVec.ofNat 64 (s.load (placePad s.cur a.toNat) (amoBytes dbl))) b c').1.toNat).mem := hc.mem.trans hside.mem
  refine ⟨t, he ▸ ht, hc.pc, ?_, ?_, fun key => ?_, ?_, ?_, ?_, ?_, ?_, fun q hq => ?_, fun k hk => ?_⟩
  · rw [hc.instret, hctx]; rfl
  · rw [State.MemOk, hmem]; exact hm.storeList ..
  · rw [hc.regAt, hec, hside.regAt, hsc]; rfl
  · rw [hc.c_vs, hec, hside.vs, hsc, Core.raiseFlags_vs, Core.setX_vs]
  · rw [hc.c_ms, hec, hside.ms, hsc, Core.raiseFlags_ms, Core.setX_ms]
  · rw [hc.ctx_flags, hctx]; rfl
  · rw [hc.ctx_status, hctx]; rfl
  · rw [State.load, hmem, ← State.load, State.load_store _ _ _ _ hm, pow_256_eq_two_pow, amoNew_toNat _ _ _ _ hold]
  · rw [State.byte, hmem, ← State.byte, State.byte_store _ _ _ _ _ hm hq]
  · rw [hc.others k (by rwa [hcur]), hside.others k hk]
    exact State.core_modC_other _ _ _ hk

end Sys2Proof.Machine
end

section
/-! Atomics through an aperture (spec/06_memory.md R131, R142, R143). -/

namespace Sys2Proof.Machine

/-- Logging changes cores alone. -/
theorem State.logLineAt_eq (s : State) (k n l : Nat) : ∃ cs, s.logLineAt k n l = { s with cores := cs } := by
  unfold State.logLineAt
  dsimp only
  split
  · exact ⟨s.cores, rfl⟩
  · rcases s.logAt_eq k n 0 l (s.line (placePad k (128 * l))) with h | ⟨g, h⟩ <;> rw [h] <;> exact ⟨_, rfl⟩

/-- A line of the own scratchpad logged, where an access through the own aperture names it: only the log differs. -/
theorem State.logHere_spec (s : State) (p : Nat) :
    (∃ g b, (s.logHere p).c = { s.c with logged := g, capBuf := b }) ∧ (s.logHere p).net = s.net ∧ (s.logHere p).nextId = s.nextId ∧ s.Aside s.cur (s.logHere p) := by
  have hsame : (∃ g b, s.c = { s.c with logged := g, capBuf := b }) ∧ s.net = s.net ∧ s.nextId = s.nextId ∧ s.Aside s.cur s := ⟨⟨_, _, rfl⟩, rfl, rfl, .refl ..⟩
  unfold State.logHere
  split
  · refine ⟨?_, ?_, ?_, s.aside_logLineAt ..⟩
    · have hcur : (s.logLine s.cur (padOff p / 128)).cur = s.cur := State.logLineAt_cur ..
      rw [State.c, hcur]
      exact State.logLineAt_core ..
    · obtain ⟨cs, h⟩ := s.logLineAt_eq s.cur (s.core s.cur).ctx.instret.toNat (padOff p / 128)
      rw [State.logLine, h]
    · obtain ⟨cs, h⟩ := s.logLineAt_eq s.cur (s.core s.cur).ctx.instret.toNat (padOff p / 128)
      rw [State.logLine, h]
  · exact hsame

/-- The length of an atomic's operands. -/
def amoLen (op : AmoOp) : Nat := if op = .cas then 16 else 8

/-- The access of an atomic that leaves the core. -/
def State.amoAccess (s : State) (dbl : Bool) (a : XWord) (rd : BitVec 5) (o : BitVec 4) (tgt off : Nat) : Access :=
  { id := 0, dest := .x (s.c.destKey rd) 64 false, va := a, lo := a.toNat, hi := a.toNat + amoBytes dbl - 1, writes := true, acq := farAcquire o
    here := ownPad s.cur (placePad tgt off), line := some (lineOf (placePad tgt off)), oldX := s.c.regAt (s.c.destKey rd) }

/-- The request of an atomic that leaves the core. -/
def State.amoRequest (s : State) (op : AmoOp) (dbl : Bool) (a b c' : XWord) (tgt off : Nat) : AtomReq :=
  { core := s.cur, acc := s.nextId, op := op, dbl := dbl, addr := placePad tgt off, b := b, c := c', job := s.c.jobNum, va := a, stamp := s.c.ctx.entryStamp }

/-- The state in which an atomic has left the core: its access listed, its destination empty, its request sent. -/
def State.amoSent (s : State) (op : AmoOp) (dbl : Bool) (a b c' : XWord) (rd : BitVec 5) (o : BitVec 4) (tgt off : Nat) : State :=
  ((((s.logHere (placePad tgt off)).listAccess (s.amoAccess dbl a rd o tgt off)).modC fun c => c.setEmptyKey (s.c.destKey rd)).send
    { src := s.cur, dst := tgt, len := amoLen op, retain := some (retainBytes (amoLen op)), job := s.c.jobNum
      body := .atomic (s.amoRequest op dbl a b c' tgt off) })

/-- An atomic through an aperture, once its checks let it go on (R142, R143). -/
theorem State.amoAns_aperture {s : State} {pre : List Gate} {op : AmoOp} {dbl : Bool} {a : XWord} {rd : BitVec 5} {tgt off : Nat} (b c' : XWord) (o : BitVec 4)
    (hpre : firstStop pre = .go) (hout : s.c.out = []) (hrel : s.c.Released) (hd : s.c.DestReady rd)
    (hck : s.check s.cur a (amoBytes dbl) .atomic (decide (op = .add) || decide (op = .swap) || decide (op = .cas)) = .ok (padTgt tgt off))
    (hmeet : ∀ q ∈ s.c.pendingSpans s.cur, (plainSpan s.cur a (amoBytes dbl) true).ordered q = false) (hl1 : s.c.l1Find (lineOf (placePad tgt off)) = none)
    (hback : s.c.backing (lineOf (placePad tgt off)) = false) (hroom : s.retainRoom s.cur (retainBytes (amoLen op)) = true) :
    s.amoAns pre op dbl a b c' rd o = if (ordOf o).acquires then .put ((s.amoSent op dbl a b c' rd o tgt off).modC fun c => { c with blocked := some s.nextId })
      else .done (s.amoSent op dbl a b c' rd o tgt off) := by
  obtain ⟨hgate, ht⟩ := State.checkGate_ok hck
  have hgo : firstStop (pre ++ [s.checkGate s.cur a (amoBytes dbl) .atomic (decide (op = .add) || decide (op = .swap) || decide (op = .cas)), goodGate s.c,
      s.relGate o, destGate s.c rd, s.meetGate (plainSpan s.cur a (amoBytes dbl) true)]) = .go := by
    rw [firstStop_append hpre, hgate, goodGate_go hout, State.relGate_go hrel, destGate_ready hd, State.meetGate_go rfl hmeet]; rfl
  have hdirty := State.dirtyGate_go rfl rfl rfl hmeet [lineOf (placePad tgt off)]
  have hown : s.ownDirtyGate (lineOf (placePad tgt off)) = .go := by simp only [State.ownDirtyGate, hl1, Core.backGate, hback]; rfl
  have hret : s.retainGate (amoLen op) = .go := by rw [State.retainGate, hroom]; rfl
  have hregion : (padTgt tgt off).region ≠ .own := Region.noConfusion
  rw [amoLen] at hret
  have hparts : (s.amoAccess dbl a rd o tgt off).parts = [] := rfl
  have hplace : (padTgt tgt off).place = placePad tgt off := rfl
  simp only [State.amoAns, ht, checkedThen, hgo, hplace, firstStop_go_cons, firstStop_nil, hdirty, hregion, if_false, hl1, hown, hret, Option.isSome_none,
    Bool.false_eq_true]
  rw [State.amoSent, ← State.startAccess_of_parts_nil hparts]
  rfl

/-- Listing an access leaves which core executes, the network and memory. -/
theorem State.listAccess_rest (s : State) (a : Access) : (s.listAccess a).cur = s.cur ∧ (s.listAccess a).net = s.net ∧ s.BytesSame (s.listAccess a) :=
  ⟨rfl, rfl, fun _ => rfl⟩

/-- An access as it is issued: its identity, its place in the program, and what it was made of. -/
theorem Access.issuedBy_rest (a : Access) (s : State) :
    (a.issuedBy s).id = s.nextId ∧ (a.issuedBy s).pc = s.c.pc ∧ (a.issuedBy s).st = a.st ∧ (a.issuedBy s).va = a.va := ⟨rfl, rfl, rfl, rfl⟩

/-- The access of an atomic waits for its reply. -/
theorem State.amoAccess_rest (s : State) (dbl : Bool) (a : XWord) (rd : BitVec 5) (o : BitVec 4) (tgt off : Nat) :
    (s.amoAccess dbl a rd o tgt off).st = .pending ∧ (s.amoAccess dbl a rd o tgt off).va = a := ⟨rfl, rfl⟩

/-- A core with other accesses outstanding. -/
theorem Core.withOut_rest (c : Core) (l : List Access) :
    ({ c with out := l } : Core).xs = c.xs ∧ ({ c with out := l } : Core).ctx = c.ctx ∧ ({ c with out := l } : Core).pc = c.pc
      ∧ ({ c with out := l } : Core).blocked = c.blocked ∧ ({ c with out := l } : Core).out = l := ⟨rfl, rfl, rfl, rfl, rfl⟩

/-- What an atomic that has left the core has changed. -/
theorem State.amoSent_spec (s : State) (op : AmoOp) (dbl : Bool) (a b c' : XWord) (rd : BitVec 5) (o : BitVec 4) (tgt off : Nat) (hout : s.c.out = []) :
    ∃ (p : Packet) (acc : Access) (c : Core), (s.amoSent op dbl a b c' rd o tgt off).net = s.net ++ [p] ∧ p.src = s.cur ∧ p.dst = tgt ∧ p.body = .atomic (s.amoRequest op dbl a b c' tgt off)
      ∧ (s.amoSent op dbl a b c' rd o tgt off).c = c.setEmptyKey (s.c.destKey rd)
      ∧ (c.xs = s.c.xs ∧ c.ctx = s.c.ctx ∧ c.pc = s.c.pc ∧ c.blocked = s.c.blocked ∧ c.out = [acc])
      ∧ acc.id = s.nextId ∧ acc.st = .pending ∧ acc.va = a ∧ acc.pc = s.c.pc ∧ (s.amoSent op dbl a b c' rd o tgt off).cur = s.cur
      ∧ s.BytesSame (s.amoSent op dbl a b c' rd o tgt off) ∧ ∀ k, k ≠ s.cur → (s.amoSent op dbl a b c' rd o tgt off).core k = s.core k := by
  obtain ⟨-, hnet, hid, hside⟩ := s.logHere_spec (placePad tgt off)
  rw [State.amoSent]
  generalize s.logHere (placePad tgt off) = u at hnet hid hside
  have hcur : u.cur = s.cur := hside.cur
  have hu : u.c = u.core s.cur := by rw [State.c, hcur]
  have huout : u.c.out = [] := List.map_eq_nil_iff.1 (by rw [hu, hside.out]; exact congrArg (List.map Access.plain) hout)
  obtain ⟨hst, hva⟩ := s.amoAccess_rest dbl a rd o tgt off
  generalize s.amoAccess dbl a rd o tgt off = x at hst hva
  obtain ⟨xid, xpc, xst, xva⟩ := x.issuedBy_rest u
  obtain ⟨lcur, lnet, lbytes⟩ := u.listAccess_rest x
  have lc := u.listAccess_c x
  have lother := fun k => u.listAccess_core_other x (k := k)
  rw [huout, List.nil_append] at lc
  generalize u.listAccess x = w at lcur lnet lbytes lc lother
  obtain ⟨p, hp, hcar⟩ := (w.modC fun c => c.setEmptyKey (s.c.destKey rd)).send_net
    { src := s.cur, dst := tgt, len := amoLen op, retain := some (retainBytes (amoLen op)), job := s.c.jobNum
      body := .atomic (s.amoRequest op dbl a b c' tgt off) }
  have hvc : (w.modC fun c => c.setEmptyKey (s.c.destKey rd)).c = w.c.setEmptyKey (s.c.destKey rd) := State.c_modC ..
  have hpc : u.c.pc = s.c.pc := by rw [hu, hside.pc, State.c]
  obtain ⟨wxs, wctx, wpc, wblocked, wout⟩ := u.c.withOut_rest [x.issuedBy u]
  refine ⟨p, x.issuedBy u, w.c, ?_, hcar.src, hcar.dst, hcar.body, ?_, ⟨?_, ?_, ?_, ?_, ?_⟩, xid.trans hid, xst.trans hst, xva.trans hva, xpc.trans hpc, ?_, fun q => ?_, fun k hk => ?_⟩
  · rw [hp, State.modC_net, lnet, hnet]
  · rw [State.send_c, hvc]
  · rw [lc, wxs, hu, hside.xs, State.c]
  · rw [lc, wctx, hu, hside.ctx, State.c]
  · rw [lc, wpc, hpc]
  · rw [lc, wblocked, hu, hside.blocked, State.c]
  · rw [lc, wout]
  · rw [State.send_cur, State.modC_cur, lcur, hcur]
  · rw [(State.aside_send _ s.cur _).byte, State.modC_byte, lbytes, hside.byte]
  · rw [State.send_core, State.core_modC_other _ _ _ (by rwa [lcur, hcur]), lother k (by rwa [hcur]), hside.others k hk]

/-- A core that waits for a reply, but for that. -/
theorem Core.withBlocked_rest (c : Core) (b : Option Nat) :
    ({ c with blocked := b } : Core).out = c.out ∧ ({ c with blocked := b } : Core).pc = c.pc ∧ ({ c with blocked := b } : Core).ctx = c.ctx
      ∧ ({ c with blocked := b } : Core).xs = c.xs ∧ ({ c with blocked := b } : Core).blocked = b := ⟨rfl, rfl, rfl, rfl, rfl⟩

/-- Cores with the same registers and frames read alike. -/
theorem Core.reg_congr {c d : Core} (hx : c.xs = d.xs) (hc : c.ctx = d.ctx) (n : Nat) : c.reg n = d.reg n := by
  simp only [Core.reg, Core.regAt, Core.key, hx, hc]

/-- Cores with the same registers hold the same at each key. -/
theorem Core.regAt_congr {c d : Core} (hx : c.xs = d.xs) (key : Nat) : c.regAt key = d.regAt key := by
  simp only [Core.regAt, hx]

/-- The destination of an access that has left: empty, and the other registers as they were. -/
theorem Core.setEmptyKey_of_same {c d : Core} {rd : BitVec 5} (hx : c.xs = d.xs) (hc : c.ctx = d.ctx) :
    (rd ≠ 0 → ((c.setEmptyKey (d.destKey rd)).reg rd.toNat).full = false)
      ∧ ∀ key, key ≠ d.destKey rd → (c.setEmptyKey (d.destKey rd)).regAt key = d.regAt key := by
  refine ⟨fun hrd => ?_, fun key hk => ?_⟩
  · obtain ⟨hkey, hne⟩ := Core.destKey_of_ne_zero (c := d) hrd
    have hk : (c.setEmptyKey (d.destKey rd)).key rd.toNat = d.destKey rd := by rw [hkey, Core.key, Core.key, Core.setEmptyKey_ctx, hc]
    rw [Core.reg_of_ne_zero hrd, hk, Core.regAt_setEmptyKey _ hne]
  · rw [Core.regAt_setEmptyKey_other _ hk, Core.regAt_congr hx]

/-- What an atomic through an aperture leaves: its request is under way, its destination empty, and one that acquires waits for the reply (R143). -/
theorem State.perform_amo_aperture {s : State} {pre : List Gate} {op : AmoOp} {dbl : Bool} {a : XWord} {rd : BitVec 5} {tgt off : Nat} (b c' : XWord) (o : BitVec 4)
    (hpre : firstStop pre = .go) (hout : s.c.out = []) (hrel : s.c.Released) (hd : s.c.DestReady rd)
    (hck : s.check s.cur a (amoBytes dbl) .atomic (decide (op = .add) || decide (op = .swap) || decide (op = .cas)) = .ok (padTgt tgt off))
    (hmeet : ∀ q ∈ s.c.pendingSpans s.cur, (plainSpan s.cur a (amoBytes dbl) true).ordered q = false) (hl1 : s.c.l1Find (lineOf (placePad tgt off)) = none)
    (hback : s.c.backing (lineOf (placePad tgt off)) = false) (hroom : s.retainRoom s.cur (retainBytes (amoLen op)) = true) :
    ∃ t p acc, perform s (s.amoAns pre op dbl a b c' rd o) = .next t ∧ t.net = s.net ++ [p] ∧ p.src = s.cur ∧ p.dst = tgt
      ∧ p.body = .atomic (s.amoRequest op dbl a b c' tgt off) ∧ acc.id = s.nextId ∧ t.c.out = [acc] ∧ acc.st = .pending ∧ acc.va = a ∧ acc.pc = s.c.pc
      ∧ (rd ≠ 0 → (t.c.reg rd.toNat).full = false) ∧ (∀ key, key ≠ s.c.destKey rd → t.c.regAt key = s.c.regAt key) ∧ s.BytesSame t
      ∧ (if (ordOf o).acquires = true then t.c.blocked = some acc.id ∧ t.c.pc = s.c.pc ∧ t.c.ctx.instret = s.c.ctx.instret
         else t.c.blocked = s.c.blocked ∧ t.c.pc = s.c.pc + 4 ∧ t.c.ctx.instret = s.c.ctx.instret + 1)
      ∧ ∀ k, k ≠ s.cur → t.core k = s.core k := by
  obtain ⟨p, acc, c, hnet, hsrc, hdst, hbody, hc, ⟨hxs, hctx, hpc, hblocked, hcout⟩, hid, hst, hva, hapc, hcur, hbytes, hothers⟩ :=
    s.amoSent_spec op dbl a b c' rd o tgt off hout
  obtain ⟨hfull, hkeys⟩ := Core.setEmptyKey_of_same (rd := rd) hxs hctx
  rw [State.amoAns_aperture b c' o hpre hout hrel hd hck hmeet hl1 hback hroom]
  generalize s.amoSent op dbl a b c' rd o tgt off = e at hnet hc hcur hbytes hothers
  rw [← hc] at hfull hkeys
  have heout : e.c.out = [acc] := by rw [hc, Core.setEmptyKey_out, hcout]
  have hepc : e.c.pc = s.c.pc := by rw [hc, Core.setEmptyKey_pc, hpc]
  have hectx : e.c.ctx = s.c.ctx := by rw [hc, Core.setEmptyKey_ctx, hctx]
  have heblocked : e.c.blocked = s.c.blocked := by rw [hc, Core.setEmptyKey_blocked, hblocked]
  by_cases hacq : (ordOf o).acquires = true
  · have htc : (e.modC fun c => { c with blocked := some s.nextId }).c = { e.c with blocked := some s.nextId } := State.c_modC ..
    obtain ⟨wout, wpc, wctx, wxs, wblocked⟩ := e.c.withBlocked_rest (some s.nextId)
    rw [if_pos hacq]
    refine ⟨_, p, acc, rfl, ?_, hsrc, hdst, hbody, hid, ?_, hst, hva, hapc, fun hrd => ?_, fun key hk => ?_, fun q => ?_, ?_, fun k hk => ?_⟩
    · rw [State.modC_net, hnet]
    · rw [htc, wout, heout]
    · rw [htc, Core.reg_congr wxs wctx]; exact hfull hrd
    · rw [htc, Core.regAt_congr wxs, hkeys key hk]
    · rw [State.modC_byte, hbytes q]
    · rw [if_pos hacq, htc, wblocked, wpc, wctx, hid, hepc, hectx]
      exact ⟨rfl, rfl, rfl⟩
    · rw [State.core_modC_other _ _ _ (by rwa [hcur]), hothers k hk]
  · rw [if_neg hacq]
    obtain ⟨t, ht, h⟩ := perform_done (s := s) (e := e) (.inl hout) hcur
    refine ⟨t, p, acc, ht, h.net.trans hnet, hsrc, hdst, hbody, hid, h.c_out.trans heout, hst, hva, hapc, fun hrd => ?_, fun key hk => ?_,
      fun q => (h.byte q).trans (hbytes q), ?_, fun k hk => ?_⟩
    · rw [h.reg]; exact hfull hrd
    · rw [h.regAt, hkeys key hk]
    · rw [if_neg hacq, h.c_blocked, heblocked, h.instret, hectx]
      exact ⟨rfl, h.pc, rfl⟩
    · rw [h.others k (by rwa [hcur]), hothers k hk]

/-- Settles O23: atomics on the own scratchpad and through an aperture. -/
theorem atomicsExchangeValues : Obligations.AtomicsExchangeValues := by
  unfold Obligations.AtomicsExchangeValues
  constructor
  · intro ord dbl rd sa sb s hm hout hrel hd a b swaps old sx
    have hswap {i : Instr} {dbl zext : Bool} {flags : BitVec 5} (op : AmoOp) (c' : XWord) (f : Nat → Nat) {pre : List Gate} (hpre : firstStop pre = .go)
        (hi : exec i s = perform s (s.amoAns pre op dbl a b c' rd ord)) (hz : zext = decide (op = .fadd)) (hzd : zext = true → dbl = false)
        (hf : ∀ o, amoFn op dbl b c' o = f o)
        (hfl : (if op = .fadd then (faddFn .s (BitVec.ofNat 64 (s.load (placePad s.cur a.toNat) (amoBytes dbl))) b).2 else 0) = flags) : swaps i dbl zext f flags := by
      intro hown hline
      obtain ⟨t, ht, h⟩ := State.perform_amo_own (op := op) b c' ord hm hpre hout hrel hd hown hline
      rw [amoResult_eq hz hzd (s.load_lt _ _), amoNew_flags, hfl, hf] at h
      exact ⟨t, hi.trans ht, h⟩
    refine ⟨fun hs => ⟨?_, ?_, ?_, ?_, ?_, ?_, ?_, ?_⟩, fun hs => ?_⟩
    · exact hswap .add 0 (fun o => o + b.toNat) (srcGates_ready hs) rfl rfl nofun (fun _ => rfl) (if_neg nofun)
    · exact hswap .and 0 (fun o => o &&& b.toNat) (srcGates_ready hs) rfl rfl nofun (fun _ => rfl) (if_neg nofun)
    · exact hswap .or 0 (fun o => o ||| b.toNat) (srcGates_ready hs) rfl rfl nofun (fun _ => rfl) (if_neg nofun)
    · exact hswap .xor 0 (fun o => o ^^^ b.toNat) (srcGates_ready hs) rfl rfl nofun (fun _ => rfl) (if_neg nofun)
    · exact hswap .min 0 (fun o => if sx dbl b.toNat < sx dbl o then b.toNat else o) (srcGates_ready hs) rfl rfl nofun (fun _ => rfl) (if_neg nofun)
    · exact hswap .max 0 (fun o => if sx dbl o < sx dbl b.toNat then b.toNat else o) (srcGates_ready hs) rfl rfl nofun (fun _ => rfl) (if_neg nofun)
    · exact hswap .swap 0 (fun _ => b.toNat) (srcGates_ready hs) rfl rfl nofun (fun _ => rfl) (if_neg nofun)
    · exact hswap .fadd 0 (fun o => (faddFn .s (BitVec.ofNat 64 o) b).1.toNat) (srcGates_ready hs) rfl rfl (fun _ => rfl) (fun _ => rfl) (if_pos rfl)
    · exact hswap .cas (s.c.x (sb.n + 1)) (fun o => if o = b.toNat then (s.c.x (sb.n + 1)).toNat else o) (srcGates_ready hs) rfl rfl nofun (fun _ => rfl) (if_neg nofun)
  · intro ord dbl rd sa sb tgt s hout hrel hd hcore hset a b o asks hlo ho hl1 hback
    have hask {i : Instr} {op : AmoOp} {dbl : Bool} {c' : XWord} {pre : List Gate} (hpre : firstStop pre = .go)
        (hi : exec i s = perform s (s.amoAns pre op dbl a b c' rd ord)) : asks i op dbl c' := by
      intro hal hmeet hroom
      obtain ⟨t, p, acc, ht, hnet, hsrc, hdst, hbody, hid, h⟩ := State.perform_amo_aperture b c' ord hpre hout hrel hd
        (State.check_aperture hcore hset hlo ho hal .atomic _) hmeet hl1 hback hroom
      obtain ⟨hcout, hst, hva, hpc, hempty, hregs, hbytes, hacq, hothers⟩ := h
      exact ⟨t, p, _, acc, hi.trans ht, hnet, hsrc, hdst, hbody, rfl, hid.symm, rfl, rfl, rfl, rfl, rfl, hcout, hst, hva, hpc, hempty, hregs, hbytes, hacq, hothers⟩
    refine ⟨fun hs => ?_, fun hs => hask (srcGates_ready hs) rfl⟩
    have hg := srcGates_ready hs
    exact ⟨hask hg rfl, hask hg rfl, hask hg rfl, hask hg rfl, hask hg rfl, hask hg rfl, hask hg rfl, hask hg rfl⟩

end Sys2Proof.Machine
end

section
/-! The arrival of a packet (spec/17_network.md R396, R403, R405, R407): it is taken off the network, its stream goes on, its destination accepts it. -/

namespace Sys2Proof.Machine

/-- `u` is `s` with the packet of an identity taken off the network: its traffic share, its link and the receiving side of its stream have counted it,
and nothing else differs. -/
structure State.Taken (s : State) (pid : Nat) (u : State) : Prop where
  device : ({ u with share := s.share, links := s.links, net := s.net, eps := s.eps } : State) = s
  net : u.net = s.net.filter fun x => decide (x.id ≠ pid)
  ep : ∀ e, ({ u.ep e with streams := (s.ep e).streams } : Endpoint) = s.ep e

namespace State.Taken

variable {s u : State} {pid : Nat}

theorem mem (h : s.Taken pid u) : u.mem = s.mem := (congrArg State.mem h.device :)
theorem cores (h : s.Taken pid u) : u.cores = s.cores := (congrArg State.cores h.device :)
theorem ecc (h : s.Taken pid u) : u.ecc = s.ecc := (congrArg State.ecc h.device :)
theorem poison (h : s.Taken pid u) : u.poison = s.poison := (congrArg State.poison h.device :)
theorem unreachable (h : s.Taken pid u) : u.unreachable = s.unreachable := (congrArg State.unreachable h.device :)
theorem dtime (h : s.Taken pid u) : u.dtime = s.dtime := (congrArg State.dtime h.device :)
theorem jobs (h : s.Taken pid u) : u.jobs = s.jobs := (congrArg State.jobs h.device :)
theorem core (h : s.Taken pid u) (k : Nat) : u.core k = s.core k := by rw [State.core, h.cores, State.core]
theorem byte (h : s.Taken pid u) (q : Nat) : u.byte q = s.byte q := by rw [State.byte, h.mem, State.byte]
theorem load (h : s.Taken pid u) (p n : Nat) : u.load p n = s.load p n := by rw [State.load, h.mem, State.load]
theorem memOk (h : s.Taken pid u) (hm : s.MemOk) : u.MemOk := by rw [State.MemOk, h.mem]; exact hm
theorem retain (h : s.Taken pid u) (e : Nat) : (u.ep e).retain = (s.ep e).retain := (congrArg Endpoint.retain (h.ep e) :)

/-- Why an access fails at its target does not depend on the network. -/
theorem placeFail (h : s.Taken pid u) (e line : Nat) : u.placeFail e line = s.placeFail e line := by
  simp only [State.placeFail, h.unreachable, h.core, h.ecc, h.poison]

end State.Taken

/-- A packet's traffic share and link count it. -/
theorem State.countShare_eq (s : State) (p : Packet) : ∃ x, s.countShare p = { s with share := x } := by
  unfold State.countShare
  split
  · exact ⟨s.share, rfl⟩
  · dsimp only
    split
    · exact ⟨_, rfl⟩
    · split
      · exact ⟨_, rfl⟩
      · exact ⟨s.share, rfl⟩

/-- A fabric packet's link counts it. -/
theorem State.crossLink_eq (s : State) (p : Packet) : ∃ x, s.crossLink p = { s with links := x } := by
  unfold State.crossLink
  split
  · split
    · exact ⟨s.links, rfl⟩
    · exact ⟨_, rfl⟩
  · exact ⟨s.links, rfl⟩

/-- A packet taken off the network. -/
theorem State.taken_takePacket (s : State) (p : Packet) : s.Taken p.id (s.takePacket p) := by
  obtain ⟨x, hx⟩ := s.countShare_eq p
  obtain ⟨y, hy⟩ := (s.countShare p).crossLink_eq p
  rw [State.takePacket, hy, hx]
  exact ⟨rfl, rfl, fun _ => rfl⟩

/-- A stream gone on. -/
theorem State.Taken.putStream {s u : State} {pid : Nat} (h : s.Taken pid u) (ep src : Nat) (b : Bool) (st : Stream) : s.Taken pid (u.putStream ep src b st) := by
  refine ⟨h.device, h.net, fun e => ?_⟩
  rw [State.putStream, State.ep_modEp]
  split
  · next he => subst he; exact h.ep ep
  · exact h.ep e

/-- Which streams stand at an endpoint, and how far: the same in both states. -/
def State.SameStreams (s t : State) : Prop := ∀ e, (t.ep e).streams = (s.ep e).streams

namespace State.SameStreams

variable {s t u : State}

theorem refl (s : State) : s.SameStreams s := fun _ => rfl
theorem trans (h : s.SameStreams t) (g : t.SameStreams u) : s.SameStreams u := fun e => (g e).trans (h e)

end State.SameStreams

/-- A packet sent leaves what is received. -/
theorem State.sameStreams_send (s : State) (x : Send) : s.SameStreams (s.send x) := (s.aside_send 0 x).streams

/-- A stream that holds nothing has nothing to accept. -/
theorem State.drain_of_empty {s : State} {ep src : Nat} (hh : ((s.ep ep).stream src true).held = []) (hd : ((s.ep ep).stream src true).done = []) (fuel : Nat) :
    s.drain ep src fuel = s := by
  cases fuel with
  | zero => rfl
  | succ n =>
    have hnext : ((s.ep ep).stream src true).next = none := by simp only [Stream.next, hh, hd]; rfl
    rw [State.drain, hnext]

/-- A number is not past itself. -/
theorem seqDist_self (n : Nat) : seqDist n n = 0 := by
  unfold seqDist; omega

/-- A packet that is taken off the network finds every endpoint as it was. -/
theorem State.takePacket_ep (s : State) (p : Packet) (e : Nat) : (s.takePacket p).ep e = s.ep e := by
  obtain ⟨x, hx⟩ := s.countShare_eq p
  obtain ⟨y, hy⟩ := (s.countShare p).crossLink_eq p
  rw [State.takePacket, hy, hx]
  rfl

/-- A stream past the number it expected. -/
def Stream.past (st : Stream) : Stream := { st with expect := (st.expect + 1) % 65536 }

/-- The stream that is put. -/
theorem State.stream_putStream (s : State) (ep src : Nat) (st : Stream) : ((s.putStream ep src true st).ep ep).stream src true = st := by
  rw [State.putStream, State.ep_modEp, if_pos rfl, Endpoint.stream, Map.get_put_same]

section Arrival

variable {s : State} {pid : Nat} {p : Packet}

/-- The identity of a packet that is found. -/
theorem State.Arrives.id_eq (h : s.Arrives pid p) : p.id = pid := by simpa using List.find?_some h.packet

/-- A packet that arrives in its turn is accepted, and its stream, which holds nothing behind it, goes on (R407). -/
theorem State.Arrives.streamIn (h : s.Arrives pid p) :
    ∃ u, (s.takePacket p).streamIn p = (u, some p) ∧ s.Taken pid u
      ∧ (p.inorder = true → ((u.ep p.dst).stream p.src true).held = [] ∧ ((u.ep p.dst).stream p.src true).done = []) := by
  have htaken : s.Taken pid (s.takePacket p) := h.id_eq ▸ s.taken_takePacket p
  have hep := s.takePacket_ep p p.dst
  by_cases hin : p.inorder = true
  · obtain ⟨hseq, hheld, hdone⟩ := h.turn hin
    have hold : (s.takePacket p).old p = false := by
      simp only [State.old, hep, ← hseq, hheld, hdone, seqDist_self]; rfl
    refine ⟨_, ?_, htaken.putStream p.dst p.src true ((s.ep p.dst).stream p.src true).past, fun _ => ?_⟩
    · simp only [State.streamIn, hep, h.noHole, h.whole, hin, hold, State.orderIn, hseq, Bool.not_true, Bool.false_eq_true, if_false, if_true]; rfl
    · rw [State.stream_putStream]
      exact ⟨hheld, hdone⟩
  · refine ⟨_, ?_, htaken, fun hin' => absurd hin' hin⟩
    simp only [State.streamIn, hep, h.noHole, h.whole, Bool.eq_false_iff.2 hin]; rfl

/-- A packet that arrives is accepted, once, by its destination, of which the streams go no further (R403, R407). -/
theorem State.Arrives.arrive (h : s.Arrives pid p) {kind : Body → Bool} (hkind : kind p.body = true)
    (hst : ∀ u, s.Taken pid u → u.SameStreams (u.acceptOne p)) : ∃ u, s.Taken pid u ∧ s.arrive pid false kind = u.acceptOne p := by
  obtain ⟨u, hu, htaken, hquiet⟩ := h.streamIn
  refine ⟨u, htaken, ?_⟩
  have hcopies : p.copies = [p] := by
    have hp : ({ p with legs := [] } : Packet) = p := by rw [← h.single]
    rw [Packet.copies, h.single, hp]; rfl
  have harrive : s.arrive pid false kind = (s.takePacket p).acceptIn p := by
    simp only [State.arrive, h.packet, hkind, h.whole, h.atEnd, h.here, hcopies]; rfl
  rw [harrive, State.acceptIn, hu]
  by_cases hin : p.inorder = true
  · obtain ⟨hheld, hdone⟩ := hquiet hin
    have hsame : ((u.acceptOne p).ep p.dst).stream p.src true = (u.ep p.dst).stream p.src true := by
      rw [Endpoint.stream, hst u htaken, Endpoint.stream]
    simp only [hin, if_true]
    exact State.drain_of_empty (by rw [hsame, hheld]) (by rw [hsame, hdone]) _
  · simp only [Bool.eq_false_iff.2 hin, Bool.false_eq_true, if_false]

end Arrival

end Sys2Proof.Machine
end

section
/-! Requests at their target (spec/06_memory.md R120, R135, R138 to R142, spec/11_tasks.md R260). -/

namespace Sys2Proof.Machine

/-- `t` is `s` but for its cores and the tags of its clusters' caches. -/
def State.Beside (s t : State) : Prop := ({ t with cores := s.cores, clusters := s.clusters } : State) = s

namespace State.Beside

variable {s t u : State}

theorem refl (s : State) : s.Beside s := rfl
theorem trans (h : s.Beside t) (g : t.Beside u) : s.Beside u := by
  have e := congrArg (fun x : State => { x with cores := s.cores, clusters := s.clusters }) g
  exact e.trans h
theorem mem (h : s.Beside t) : t.mem = s.mem := (congrArg State.mem h :)
theorem net (h : s.Beside t) : t.net = s.net := (congrArg State.net h :)
theorem eps (h : s.Beside t) : t.eps = s.eps := (congrArg State.eps h :)
theorem byte (h : s.Beside t) (q : Nat) : t.byte q = s.byte q := by rw [State.byte, h.mem, State.byte]
theorem sameStreams (h : s.Beside t) : s.SameStreams t := fun e => by rw [State.ep, h.eps, State.ep]

end State.Beside

/-- A touch of the L2 touches the clusters alone. -/
theorem State.beside_touchPlace (s : State) (ep p : Nat) : s.Beside (s.touchPlace ep p) := by
  unfold State.touchPlace
  split
  · rfl
  · rfl

/-- Logged bits are the cores' alone. -/
theorem State.beside_clearLogged (s : State) (line writer act : Nat) : s.Beside (s.clearLogged line writer act) := by
  unfold State.clearLogged
  split
  · rfl
  · split <;> rfl

/-- A change of a core. -/
theorem State.beside_modCore (s : State) (k : Nat) (f : Core → Core) : s.Beside (s.modCore k f) := rfl

/-- Clusters touched, the cores stay. -/
theorem State.touchPlace_core (s : State) (ep p k : Nat) : (s.touchPlace ep p).core k = s.core k := by
  unfold State.touchPlace
  split <;> rfl

/-- A packet sent leaves memory. -/
@[simp] theorem State.send_mem (s : State) (x : Send) : (s.send x).mem = s.mem := (s.aside_send 0 x).mem

/-- A state that has sent one packet more, and in which no stream has gone on. -/
structure State.Answers (s t : State) (src dst : Nat) (b : Body) : Prop where
  packet : ∃ q, t.net = s.net ++ [q] ∧ q.src = src ∧ q.dst = dst ∧ q.body = b
  streams : s.SameStreams t

/-- The packet of the answer is in the network. -/
theorem State.Answers.mem_net {s t : State} {src dst : Nat} {b : Body} (h : s.Answers t src dst b) : ∃ q ∈ t.net, q.src = src ∧ q.dst = dst ∧ q.body = b := by
  obtain ⟨q, hq, h⟩ := h.packet
  exact ⟨q, by rw [hq]; exact List.mem_append_right _ (List.mem_singleton_self q), h⟩

/-- The answer stays in the network behind which others are sent. -/
theorem State.Answers.mem_net_of_answers {s t u : State} {src dst src' dst' : Nat} {b b' : Body} (h : s.Answers t src dst b) (g : t.Answers u src' dst' b') :
    ∃ q ∈ u.net, q.src = src ∧ q.dst = dst ∧ q.body = b := by
  obtain ⟨q, hq, h⟩ := h.mem_net
  obtain ⟨q', hq', -⟩ := g.packet
  exact ⟨q, by rw [hq']; exact List.mem_append_left _ hq, h⟩

/-- A packet sent answers. -/
theorem State.answers_send (s : State) (x : Send) : s.Answers (s.send x) x.src x.dst x.body := by
  obtain ⟨q, hq, hc⟩ := s.send_net x
  exact ⟨⟨q, hq, hc.src, hc.dst, hc.body⟩, s.sameStreams_send x⟩

/-- A packet sent after a change beside the network. -/
theorem State.Answers.of_beside {s t u : State} {src dst : Nat} {b : Body} (h : t.Answers u src dst b) (g : s.Beside t) : s.Answers u src dst b := by
  obtain ⟨q, hq, h'⟩ := h.packet
  exact ⟨⟨q, by rw [hq, g.net], h'⟩, g.sameStreams.trans h.streams⟩

/-- An acknowledgement sent. -/
theorem State.answers_ack (s : State) (p : Packet) (f : Nat) : s.Answers (s.ack p f) p.dst p.holder (.ack p.rtag p.gen p.seq f) :=
  s.answers_send { src := p.dst, dst := p.holder, cls := 0, body := .ack p.rtag p.gen p.seq f }

/-- It leaves memory. -/
@[simp] theorem State.ack_mem (s : State) (p : Packet) (f : Nat) : (s.ack p f).mem = s.mem := State.send_mem ..

/-- It leaves the cores. -/
@[simp] theorem State.ack_core (s : State) (p : Packet) (f k : Nat) : (s.ack p f).core k = s.core k := State.send_core ..

/-! Reads. -/

/-- A read request served (R138). -/
theorem State.serveRead_spec (s : State) (ep : Nat) (r : ReadReq) (cls : Nat) :
    (∃ q, (s.serveRead ep r cls none).net = s.net ++ [q] ∧ q.src = ep ∧ q.dst = r.core ∧ q.cls = cls
      ∧ q.body = .readRep r (s.placeFail ep r.line) (if s.placeFail ep r.line = 0 then s.line r.line else 0))
    ∧ (s.serveRead ep r cls none).mem = s.mem ∧ s.SameStreams (s.serveRead ep r cls none) := by
  have htouch := s.beside_touchPlace ep r.line
  obtain ⟨q, hq, hc⟩ := (s.touchPlace ep r.line).send_net
    { src := ep, dst := r.core, cls := cls, body := .readRep r (s.placeFail ep r.line) (if s.placeFail ep r.line = 0 then s.line r.line else 0), len := 128, job := r.job }
  exact ⟨⟨q, hq.trans (congrArg (· ++ [q]) htouch.net), hc.src, hc.dst, hc.cls, hc.body⟩, (State.send_mem ..).trans htouch.mem,
    htouch.sameStreams.trans (State.sameStreams_send _ _)⟩

/-! Posted operations. -/

/-- A posted operation that fails changes nothing (R139). -/
theorem State.performPosted_fail {s : State} {q : Posted} (h : s.placeFail q.ep q.line ≠ 0) : s.performPosted q = (s, s.placeFail q.ep q.line) := by
  rw [State.performPosted]
  exact if_pos h

/-- The mark that the last write of a copy makes (spec/08_copy.md R181). -/
theorem State.beside_lastMark (s : State) (b : Bool) (k l : Nat) : s.Beside (if b then s.modCore k fun c => c.markFull l else s) := by
  split <;> rfl

/-- A posted store writes its bytes (R139, R146). -/
theorem State.performPosted_store {s : State} {q : Posted} (h : s.placeFail q.ep q.line = 0) (h1 : q.kind ≠ 1) (h2 : q.kind ≠ 2) :
    (s.performPosted q).2 = 0 ∧ (s.putLine q.line q.mask q.data).Beside (s.performPosted q).1 := by
  rw [State.performPosted, h]
  simp only [ne_eq, not_true_eq_false, if_false, h1, h2]
  refine ⟨trivial, ((State.beside_clearLogged ..).trans (State.beside_lastMark ..)).trans (State.beside_touchPlace ..)⟩

/-- A posted mark sets its line's state (R126). -/
theorem State.performPosted_mark {s : State} {q : Posted} (h : s.placeFail q.ep q.line = 0) (hk : q.kind = 1 ∨ q.kind = 2) (hl : q.last = false) :
    (s.performPosted q).2 = 0 ∧ s.Beside (s.performPosted q).1 ∧ (s.performPosted q).1.core (padCore q.line) =
      if q.kind = 2 then (s.core (padCore q.line)).markFull (padOff q.line / 128) else (s.core (padCore q.line)).markEmpty (padOff q.line / 128) := by
  rw [State.performPosted, h, hl]
  have h21 : ¬ (2 : Nat) = 1 := by decide
  have h12 : ¬ (1 : Nat) = 2 := by decide
  rcases hk with hk | hk
  · simp only [hk, h12, ne_eq, not_true_eq_false, if_false, if_true, Bool.false_and, Bool.false_eq_true]
    refine ⟨trivial, (s.beside_modCore _ _).trans (State.beside_touchPlace ..), ?_⟩
    rw [State.touchPlace_core, State.core_modCore_same]
  · simp only [hk, h21, ne_eq, not_true_eq_false, if_false, if_true, Bool.false_and, Bool.false_eq_true]
    refine ⟨trivial, (s.beside_modCore _ _).trans (State.beside_touchPlace ..), ?_⟩
    rw [State.touchPlace_core, State.core_modCore_same]

/-- A posted operation leaves the streams. -/
theorem State.sameStreams_performPosted (s : State) (q : Posted) : s.SameStreams (s.performPosted q).1 := by
  unfold State.performPosted
  dsimp only
  split
  · exact .refl s
  · refine State.SameStreams.trans ?_ (State.beside_touchPlace ..).sameStreams
    refine State.SameStreams.trans ?_ (State.beside_lastMark ..).sameStreams
    split
    · exact .refl s
    · split
      · exact .refl s
      · exact State.SameStreams.trans (t := s.putLine q.line q.mask q.data) (.refl s) (State.beside_clearLogged ..).sameStreams

/-! Atomics. -/

/-- The state but for what is sent, after an atomic has been served. -/
def State.atomicDone (s : State) (r : AtomReq) : State :=
  s.store r.addr (amoBytes r.dbl) (amoNew r.op r.dbl (BitVec.ofNat 64 (s.load r.addr (amoBytes r.dbl))) r.b r.c).1.toNat

/-- The reply of an atomic. -/
def State.atomicReplyOf (s : State) (ep : Nat) (r : AtomReq) : Send :=
  { src := ep, dst := r.core, len := 8, retain := some 0, job := r.job
    body := .atomicRep r.acc 0 (amoResult r.op r.dbl (s.load r.addr (amoBytes r.dbl)))
      (amoNew r.op r.dbl (BitVec.ofNat 64 (s.load r.addr (amoBytes r.dbl))) r.b r.c).2 r.va }

/-- An atomic served: its new value written, its old one returned (R142). -/
theorem State.serveAtomic_eq {s : State} {ep : Nat} {r : AtomReq} (h : s.placeFail ep (lineOf r.addr) = 0) :
    s.serveAtomic ep r = (((s.atomicDone r).touchPlace ep (lineOf r.addr)).clearLogged (lineOf r.addr) r.core
      ((s.atomicDone r).core r.core).uid).send (s.atomicReplyOf ep r) := by
  simp only [State.serveAtomic, h, if_true, State.atomicAt, State.atomicDone, State.atomicReplyOf]

/-- Its new value is written, its reply on the way. -/
theorem State.serveAtomic_ok {s : State} {ep : Nat} {r : AtomReq} (h : s.placeFail ep (lineOf r.addr) = 0) :
    (s.atomicDone r).Answers (s.serveAtomic ep r) ep r.core (s.atomicReplyOf ep r).body ∧ (s.serveAtomic ep r).mem = (s.atomicDone r).mem := by
  have hb (k u : Nat) : (s.atomicDone r).Beside (((s.atomicDone r).touchPlace ep (lineOf r.addr)).clearLogged (lineOf r.addr) k u) :=
    ((s.atomicDone r).beside_touchPlace ..).trans (State.beside_clearLogged ..)
  rw [State.serveAtomic_eq h]
  exact ⟨(State.answers_send _ (s.atomicReplyOf ep r)).of_beside (hb _ _), (State.send_mem ..).trans (hb _ _).mem⟩

/-- An atomic that fails (R135). -/
theorem State.serveAtomic_fail {s : State} {ep : Nat} {r : AtomReq} (h : s.placeFail ep (lineOf r.addr) ≠ 0) :
    s.Answers (s.serveAtomic ep r) ep r.core (.atomicRep r.acc (s.placeFail ep (lineOf r.addr)) (amoResult r.op r.dbl 0) 0 r.va)
      ∧ (s.serveAtomic ep r).mem = s.mem := by
  rw [State.serveAtomic]
  simp only [h, if_false]
  exact ⟨State.answers_send _ _, State.send_mem ..⟩

/-- An atomic leaves the streams. -/
theorem State.sameStreams_serveAtomic (s : State) (ep : Nat) (r : AtomReq) : s.SameStreams (s.serveAtomic ep r) := by
  by_cases h : s.placeFail ep (lineOf r.addr) = 0
  · exact State.SameStreams.trans (t := s.atomicDone r) (.refl s) (State.serveAtomic_ok h).1.streams
  · exact (State.serveAtomic_fail h).1.streams

/-! Counters. -/

/-- The reply of a counter operation. -/
def CtrReq.reply (r : CtrReq) (f : Nat) (x : Nat × XWord × Bool × XWord × XWord × XWord) : Body :=
  .counterRep r.acc f x.1 x.2.1 x.2.2.1 x.2.2.2.1 x.2.2.2.2.1 x.2.2.2.2.2 r.kind r.va

/-- The KIND of a record that an operation asks for. -/
def ctrKindOf (kind : CtrKind) : Nat := if kind = .arrive then 1 else 2

/-- A read of a counter. -/
theorem State.counterAt_read (s : State) (p : Nat) : s.counterAt p .read = (s, 0, BitVec.ofNat 64 (s.load p 8), false, 0, 0, 0) := rfl

/-- A decrement of a counter: the record is of another kind, or at zero, or counts down (spec/11_tasks.md R260). -/
theorem State.counterAt_dec (s : State) (p : Nat) {kind : CtrKind} (h : kind ≠ .read) : s.counterAt p kind =
    if s.load p 8 / 2 ^ 62 ≠ ctrKindOf kind then (s, 2, 0, false, 0, 0, 0) else if s.load p 8 % 2 ^ 32 = 0 then (s, 1, 0, false, 0, 0, 0)
    else (s.store p 8 (s.load p 8 - 1), 0, 0, decide (s.load p 8 % 2 ^ 32 = 1),
      if decide (s.load p 8 % 2 ^ 32 = 1) then BitVec.ofNat 64 (s.load (p + 8 * 1) 8) else 0,
      if decide (s.load p 8 % 2 ^ 32 = 1) then BitVec.ofNat 64 (s.load (p + 8 * 2) 8) else 0,
      if decide (s.load p 8 % 2 ^ 32 = 1) then BitVec.ofNat 64 (s.load (p + 8 * 3) 8) else 0) := by
  cases kind with
  | read => exact absurd rfl h
  | arrive => rfl
  | dec => rfl

/-- A counter operation leaves the streams. -/
theorem State.sameStreams_counterAt (s : State) (p : Nat) (kind : CtrKind) : s.SameStreams (s.counterAt p kind).1 := by
  by_cases h : kind = .read
  · subst h; exact .refl s
  · rw [State.counterAt_dec s p h]
    split
    · exact .refl s
    · split
      · exact .refl s
      · exact .refl s

/-- The reply of a counter operation, as it is sent. -/
def CtrReq.replyFrom (r : CtrReq) (ep f : Nat) (x : Nat × XWord × Bool × XWord × XWord × XWord) : Send :=
  { src := ep, dst := r.core, body := r.reply f x, len := 32, retain := some 0, job := r.job }

/-- A counter operation served. -/
theorem State.serveCounter_eq {s : State} {ep : Nat} {r : CtrReq} (h : s.placeFail ep (lineOf r.addr) = 0) :
    s.serveCounter ep r = (((s.counterAt r.addr r.kind).1.touchPlace ep (lineOf r.addr)).clearLogged (lineOf r.addr) r.core
      ((s.counterAt r.addr r.kind).1.core r.core).uid).send (r.replyFrom ep 0 (s.counterAt r.addr r.kind).2) := by
  simp only [State.serveCounter, h, if_true, CtrReq.replyFrom, CtrReq.reply]

/-- Its effect on its record is made, its reply on the way (spec/11_tasks.md R260). -/
theorem State.serveCounter_ok {s : State} {ep : Nat} {r : CtrReq} (h : s.placeFail ep (lineOf r.addr) = 0) :
    (s.counterAt r.addr r.kind).1.Answers (s.serveCounter ep r) ep r.core (r.reply 0 (s.counterAt r.addr r.kind).2)
      ∧ (s.serveCounter ep r).mem = (s.counterAt r.addr r.kind).1.mem := by
  have hb (k u : Nat) : (s.counterAt r.addr r.kind).1.Beside
      (((s.counterAt r.addr r.kind).1.touchPlace ep (lineOf r.addr)).clearLogged (lineOf r.addr) k u) :=
    (State.beside_touchPlace ..).trans (State.beside_clearLogged ..)
  rw [State.serveCounter_eq h]
  exact ⟨(State.answers_send _ (r.replyFrom ep 0 (s.counterAt r.addr r.kind).2)).of_beside (hb _ _), (State.send_mem ..).trans (hb _ _).mem⟩

/-- A counter operation that fails at its place (R135). -/
theorem State.serveCounter_fail {s : State} {ep : Nat} {r : CtrReq} (h : s.placeFail ep (lineOf r.addr) ≠ 0) :
    s.Answers (s.serveCounter ep r) ep r.core (r.reply (s.placeFail ep (lineOf r.addr)) (0, 0, false, 0, 0, 0)) ∧ (s.serveCounter ep r).mem = s.mem := by
  rw [State.serveCounter]
  simp only [h, if_false]
  exact ⟨State.answers_send _ _, State.send_mem ..⟩

/-- A counter operation leaves the streams. -/
theorem State.sameStreams_serveCounter (s : State) (ep : Nat) (r : CtrReq) : s.SameStreams (s.serveCounter ep r) := by
  by_cases h : s.placeFail ep (lineOf r.addr) = 0
  · exact (s.sameStreams_counterAt r.addr r.kind).trans (State.serveCounter_ok h).1.streams
  · exact (State.serveCounter_fail h).1.streams

end Sys2Proof.Machine
end

section
/-! What an accepted request does at its target (spec/06_memory.md R120, R135 to R142, spec/11_tasks.md R258, R260). -/

namespace Sys2Proof.Machine

section Accept

variable {s : State} {p : Packet}

theorem State.acceptOne_read {r : ReadReq} (h : p.body = .read r) : s.acceptOne p = s.serveRead p.dst r p.cls none := by
  simp only [State.acceptOne, h]
theorem State.acceptOne_posted {q : Posted} (h : p.body = .posted q) : s.acceptOne p = (s.performPosted q).1.ack p (s.performPosted q).2 := by
  simp only [State.acceptOne, h]
theorem State.acceptOne_atomic {r : AtomReq} (h : p.body = .atomic r) : s.acceptOne p = (s.serveAtomic p.dst r).ack p 0 := by
  simp only [State.acceptOne, h]
theorem State.acceptOne_counter {r : CtrReq} (h : p.body = .counter r) : s.acceptOne p = (s.serveCounter p.dst r).ack p 0 := by
  simp only [State.acceptOne, h]

end Accept

/-- Bytes in alike memories. -/
theorem State.bytesSame_of_mem {s t : State} (h : t.mem = s.mem) : s.BytesSame t := fun q => by rw [State.byte, h, State.byte]

/-- A line is read alike once a packet has been taken off. -/
theorem State.Taken.line {s u : State} {pid : Nat} (h : s.Taken pid u) (l : Nat) : u.line l = s.line l := by
  rw [State.line, State.load, h.mem, State.line, State.load]

/-- The masked bytes of a line written, and no other. -/
theorem State.byte_putLine {s : State} (hm : s.MemOk) (line : Nat) (mask : BitVec 128) (d : BitVec 1024) :
    (s.putLine line mask d).MemOk ∧ (∀ x, x < line ∨ line + 128 ≤ x → (s.putLine line mask d).byte x = s.byte x)
      ∧ ∀ i, i < 128 → (s.putLine line mask d).byte (line + i) =
          if mask.getLsbD i then lineByte (if isTag line then tagLine d else d) i else s.byte (line + i) := by
  refine ⟨Memory.writeMasked_wf _ _ _ _ _ hm, fun x hx => ?_, fun i hi => ?_⟩
  · rw [State.byte, State.putLine, State.writeLine, Memory.read_writeMasked _ _ _ _ _ _ hm, if_neg (by omega), State.byte]
  · have hin : line ≤ line + i ∧ line + i < line + 128 := by omega
    rw [State.byte, State.putLine, State.writeLine, Memory.read_writeMasked _ _ _ _ _ _ hm, Nat.add_sub_cancel_left]
    by_cases hb : mask.getLsbD i = true
    · rw [if_pos ⟨hin.1, hin.2, hb⟩, if_pos hb]
    · rw [if_neg fun h => hb h.2.2, if_neg hb, State.byte]

section Targets

variable {s : State} {pid : Nat} {p : Packet}

/-- A read request that arrives is answered with its line, or its failure (R120, R135, R138). -/
theorem State.Arrives.read (h : s.Arrives pid p) {r : ReadReq} (hb : p.body = .read r) :
    ∃ t q, exec (.readRequest pid) s = .next t ∧ s.BytesSame t ∧ t.net = (s.net.filter fun x => decide (x.id ≠ pid)) ++ [q] ∧ q.src = p.dst ∧ q.dst = r.core
      ∧ q.cls = p.cls ∧ q.body = .readRep r (s.placeFail p.dst r.line) (if s.placeFail p.dst r.line = 0 then s.line r.line else 0) := by
  obtain ⟨u, hu, ht⟩ := h.arrive (kind := fun b => match b with | .read _ => true | _ => false) (by rw [hb])
    fun u _ => by rw [State.acceptOne_read hb]; exact (u.serveRead_spec ..).2.2
  rw [State.acceptOne_read hb] at ht
  obtain ⟨⟨q, hq, hsrc, hdst, hcls, hbody⟩, hmem, -⟩ := u.serveRead_spec p.dst r p.cls
  rw [hu.placeFail, hu.line] at hbody
  exact ⟨_, q, congrArg Host.Outcome.next ht, State.bytesSame_of_mem (hmem.trans hu.mem), hq.trans (congrArg (· ++ [q]) hu.net), hsrc, hdst, hcls, hbody⟩

/-- A posted operation that arrives is performed and acknowledged (R139). -/
theorem State.Arrives.posted (h : s.Arrives pid p) {q : Posted} (hb : p.body = .posted q) (hep : q.ep = p.dst) :
    ∃ u, s.Taken pid u ∧ u.placeFail q.ep q.line = s.placeFail p.dst q.line
      ∧ exec (.postedOperation pid) s = .next ((u.performPosted q).1.ack p (u.performPosted q).2) := by
  obtain ⟨u, hu, ht⟩ := h.arrive (kind := fun b => match b with | .posted _ => true | _ => false) (by rw [hb]) fun u _ => by
    rw [State.acceptOne_posted hb]
    exact (u.sameStreams_performPosted q).trans (State.answers_ack ..).streams
  rw [State.acceptOne_posted hb] at ht
  exact ⟨u, hu, by rw [hu.placeFail, hep], congrArg Host.Outcome.next ht⟩

/-- An atomic that arrives is served, its request acknowledged (R142). -/
theorem State.Arrives.atomic (h : s.Arrives pid p) {r : AtomReq} (hb : p.body = .atomic r) :
    ∃ u, s.Taken pid u ∧ exec (.atomicRequest pid) s = .next ((u.serveAtomic p.dst r).ack p 0) := by
  obtain ⟨u, hu, ht⟩ := h.arrive (kind := fun b => match b with | .atomic _ => true | _ => false) (by rw [hb]) fun u _ => by
    rw [State.acceptOne_atomic hb]
    exact (u.sameStreams_serveAtomic p.dst r).trans (State.answers_ack ..).streams
  rw [State.acceptOne_atomic hb] at ht
  exact ⟨u, hu, congrArg Host.Outcome.next ht⟩

/-- A counter operation that arrives is served, its request acknowledged (spec/11_tasks.md R260). -/
theorem State.Arrives.counter (h : s.Arrives pid p) {r : CtrReq} (hb : p.body = .counter r) :
    ∃ u, s.Taken pid u ∧ exec (.counterOperation pid) s = .next ((u.serveCounter p.dst r).ack p 0) := by
  obtain ⟨u, hu, ht⟩ := h.arrive (kind := fun b => match b with | .counter _ => true | _ => false) (by rw [hb]) fun u _ => by
    rw [State.acceptOne_counter hb]
    exact (u.sameStreams_serveCounter p.dst r).trans (State.answers_ack ..).streams
  rw [State.acceptOne_counter hb] at ht
  exact ⟨u, hu, congrArg Host.Outcome.next ht⟩

end Targets

/-- What an atomic has done at its place: memory canonical, no byte outside changed, and the new value there. -/
theorem State.atomicDone_spec {s t : State} {r : AtomReq} (hm : s.MemOk) (ht : t.mem = (s.atomicDone r).mem) :
    t.MemOk ∧ (∀ x, x < r.addr ∨ r.addr + amoBytes r.dbl ≤ x → t.byte x = s.byte x)
      ∧ t.load r.addr (amoBytes r.dbl) =
          (amoNew r.op r.dbl (BitVec.ofNat 64 (s.load r.addr (amoBytes r.dbl))) r.b r.c).1.toNat % 2 ^ (8 * amoBytes r.dbl) := by
  refine ⟨?_, fun x hx => ?_, ?_⟩
  · rw [State.MemOk, ht]; exact hm.storeList ..
  · rw [State.byte, ht, ← State.byte]; exact s.byte_store _ _ _ _ hm hx
  · rw [State.load, ht, ← State.load, State.atomicDone, State.load_store _ _ _ _ hm, pow_256_eq_two_pow]

/-- What a counter has counted down to: memory canonical, no byte outside changed, one less there. -/
theorem State.counted_spec {s t : State} {p : Nat} (hm : s.MemOk) (ht : t.mem = (s.store p 8 (s.load p 8 - 1)).mem) :
    (t.MemOk ∧ ∀ x, x < p ∨ p + 8 ≤ x → t.byte x = s.byte x) ∧ t.load p 8 = s.load p 8 - 1 := by
  refine ⟨⟨?_, fun x hx => ?_⟩, ?_⟩
  · rw [State.MemOk, ht]; exact hm.storeList ..
  · rw [State.byte, ht, ← State.byte]; exact s.byte_store _ _ _ _ hm hx
  · rw [State.load, ht, ← State.load, State.load_store _ _ _ _ hm]
    exact Nat.mod_eq_of_lt (lt_of_le_of_lt (Nat.sub_le ..) (s.load_lt p 8))

/-- The failure code of a posted operation (R135). -/
theorem State.performPosted_code (s : State) (q : Posted) : (s.performPosted q).2 = s.placeFail q.ep q.line := by
  unfold State.performPosted
  dsimp only
  split
  · rfl
  · next h => exact (not_not.1 h).symm

/-- Settles O48: reads, posted operations, atomics and counters as they are served. -/
theorem targetsServeRequests : Obligations.TargetsServeRequests := by
  unfold Obligations.TargetsServeRequests
  intro pid p s hm ha _ gone reply only
  refine ⟨fun r hb => ha.read hb, fun q hb => ?_, fun r hb hf => ?_, fun r f hb hf hne => ?_, fun r f hb hf hne => ?_, fun r hb hf => ?_⟩
  · intro f k hep
    obtain ⟨u, hu, hfail, ht⟩ := ha.posted hb hep
    refine ⟨_, ht, ?_, fun hne => ?_, fun h0 h1 h2 => ?_, fun h0 hk hl => ?_⟩
    · rw [State.performPosted_code, hfail]
      exact (State.answers_ack ..).mem_net
    · rw [State.performPosted_fail (hfail ▸ hne)]
      exact State.bytesSame_of_mem ((State.ack_mem ..).trans hu.mem)
    · obtain ⟨-, hbeside⟩ := State.performPosted_store (hfail.trans h0) h1 h2
      obtain ⟨hok, hout, hin⟩ := State.byte_putLine (hu.memOk hm) q.line q.mask q.data
      have hbyte (x : Nat) : ((u.performPosted q).1.ack p (u.performPosted q).2).byte x = (u.putLine q.line q.mask q.data).byte x := by
        rw [State.byte, State.ack_mem, hbeside.mem, ← State.byte]
      refine ⟨⟨?_, fun x hx => by rw [hbyte, hout x hx, hu.byte]⟩, fun i hi => by rw [hbyte, hin i hi, hu.byte]⟩
      rw [State.MemOk, State.ack_mem, hbeside.mem]; exact hok
    · obtain ⟨-, hbeside, hcore⟩ := State.performPosted_mark (hfail.trans h0) hk hl
      refine ⟨State.bytesSame_of_mem ((State.ack_mem ..).trans (hbeside.mem.trans hu.mem)), fun l => ?_⟩
      rw [State.ack_core, hcore, hu.core]
      rcases hk with hk | hk
      · rw [hk, if_neg (by decide), Core.lineFull_markEmpty]
        by_cases hl : l = padOff q.line / 128 <;> simp [hl, k]
      · rw [hk, if_pos rfl, Core.lineFull_markFull]
        by_cases hl : l = padOff q.line / 128 <;> simp [hl, k]
  · intro n old
    obtain ⟨u, hu, ht⟩ := ha.atomic hb
    have hfail : u.placeFail p.dst (lineOf r.addr) = 0 := (hu.placeFail ..).trans hf
    obtain ⟨hans, hmem⟩ := State.serveAtomic_ok hfail
    obtain ⟨hok, hout, hload⟩ := State.atomicDone_spec (t := (u.serveAtomic p.dst r).ack p 0) (hu.memOk hm) ((State.ack_mem ..).trans hmem)
    have hold : u.load r.addr (amoBytes r.dbl) = old := hu.load ..
    have hlt : old < 2 ^ 64 := lt_of_lt_of_le (s.load_lt _ _) (Nat.pow_le_pow_right (by decide) (by simp only [n]; split <;> decide))
    have hreply := hans.mem_net_of_answers (State.answers_ack _ p 0)
    rw [State.atomicReplyOf, amoNew_flags, hold] at hreply
    rw [hold] at hload
    have hfn := amoNew_toNat r.op r.dbl r.b r.c hlt
    refine ⟨_, ht, ⟨hok, fun x hx => (hout x hx).trans (hu.byte x)⟩, hreply, hload, fun hop => ?_, fun hop => ?_, fun hop hdbl => ?_⟩
    · exact hload.trans (hfn.trans (by rw [hop]; rfl))
    · exact hload.trans (hfn.trans (by rw [hop]; rfl))
    · refine hload.trans (hfn.trans ?_)
      rw [hop, hdbl]
      refine Nat.mod_eq_of_lt ?_
      change (if old = r.b.toNat then r.c.toNat else old) < 2 ^ 64
      split
      · exact r.c.isLt
      · exact hlt
  · obtain ⟨u, hu, ht⟩ := ha.atomic hb
    have hfail : u.placeFail p.dst (lineOf r.addr) = f := (hu.placeFail ..).trans hf
    obtain ⟨hans, hmem⟩ := State.serveAtomic_fail (ep := p.dst) (r := r) (hfail ▸ hne)
    obtain ⟨q, hq, hsrc, hdst, hbody⟩ := hans.mem_net_of_answers (State.answers_ack _ p 0)
    rw [hfail] at hbody
    exact ⟨_, ht, State.bytesSame_of_mem ((State.ack_mem ..).trans (hmem.trans hu.mem)), q, hq, hsrc, hdst, _, _, hbody⟩
  · obtain ⟨u, hu, ht⟩ := ha.counter hb
    have hfail : u.placeFail p.dst (lineOf r.addr) = f := (hu.placeFail ..).trans hf
    obtain ⟨hans, hmem⟩ := State.serveCounter_fail (ep := p.dst) (r := r) (hfail ▸ hne)
    have hreply := hans.mem_net_of_answers (State.answers_ack _ p 0)
    rw [hfail] at hreply
    exact ⟨_, ht, State.bytesSame_of_mem ((State.ack_mem ..).trans (hmem.trans hu.mem)), hreply⟩
  · intro w dw kind
    obtain ⟨u, hu, ht⟩ := ha.counter hb
    obtain ⟨hans, hmem⟩ := State.serveCounter_ok (r := r) ((hu.placeFail p.dst (lineOf r.addr)).trans hf)
    have hreply := hans.mem_net_of_answers (State.answers_ack _ p 0)
    have hmem' : ((u.serveCounter p.dst r).ack p 0).mem = (u.counterAt r.addr r.kind).1.mem := (State.ack_mem ..).trans hmem
    have hw : u.load r.addr 8 = w := hu.load ..
    have hdw (i : Nat) : BitVec.ofNat 64 (u.load (r.addr + 8 * i) 8) = dw i := congrArg (BitVec.ofNat 64) (hu.load ..)
    refine ⟨_, ht, fun hk => ?_, fun hk hkind => ?_, fun hk hkind hz => ?_, fun hk hkind hz => ?_, fun hk hkind hz => ?_⟩
    · rw [hk, State.counterAt_read, hw] at hreply
      rw [hk, State.counterAt_read] at hmem'
      refine ⟨State.bytesSame_of_mem (hmem'.trans hu.mem), ?_⟩
      rw [CtrReq.reply, hk] at hreply
      rw [hk]
      exact hreply
    all_goals rw [State.counterAt_dec u r.addr hk, hw] at hreply hmem'
    · have hkind' : w / 2 ^ 62 ≠ ctrKindOf r.kind := hkind
      rw [if_pos hkind'] at hreply hmem'
      exact ⟨State.bytesSame_of_mem (hmem'.trans hu.mem), hreply⟩
    · have hkind' : w / 2 ^ 62 = ctrKindOf r.kind := hkind
      rw [if_neg (not_not.2 hkind'), if_pos hz] at hreply hmem'
      exact ⟨State.bytesSame_of_mem (hmem'.trans hu.mem), hreply⟩
    · have hkind' : w / 2 ^ 62 = ctrKindOf r.kind := hkind
      have hne : ¬ w % 2 ^ 32 = 0 := by omega
      have hone : decide (w % 2 ^ 32 = 1) = false := decide_eq_false (by omega)
      rw [if_neg (not_not.2 hkind'), if_neg hne, hone] at hreply
      rw [if_neg (not_not.2 hkind'), if_neg hne, ← hw] at hmem'
      obtain ⟨⟨hok, hout⟩, hload⟩ := State.counted_spec (hu.memOk hm) hmem'
      exact ⟨⟨hok, fun x hx => (hout x hx).trans (hu.byte x)⟩, hload.trans (congrArg (· - 1) hw), hreply⟩
    · have hkind' : w / 2 ^ 62 = ctrKindOf r.kind := hkind
      have hne : ¬ w % 2 ^ 32 = 0 := by omega
      rw [if_neg (not_not.2 hkind'), if_neg hne, decide_eq_true hz, if_pos rfl, if_pos rfl, if_pos rfl, hdw, hdw, hdw] at hreply
      rw [if_neg (not_not.2 hkind'), if_neg hne, ← hw] at hmem'
      obtain ⟨⟨hok, hout⟩, hload⟩ := State.counted_spec (hu.memOk hm) hmem'
      exact ⟨⟨hok, fun x hx => (hout x hx).trans (hu.byte x)⟩, hload.trans (congrArg (· - 1) hw), hreply⟩

end Sys2Proof.Machine
end

section
/-! The entry of the handler of any core, and write-backs of a core's lines (spec/15_system.md R355, spec/06_memory.md R123). -/

namespace Sys2Proof.Machine

/-- `t` is `s` with core `k` in its handler; the record of it is all else that differs. -/
structure State.Trapped (s t : State) (k cause : Nat) (tval : XWord) : Prop where
  core : ∃ n, t.core k = { (s.core k).trapped cause tval with count := n }
  mem : t.mem = s.mem
  others : ∀ j, j ≠ k → t.core j = s.core j

/-- A core whose handler is ready enters it (R355). -/
theorem State.takeTrap_trapped {s : State} {k : Nat} (h : ({ s with cur := k } : State).HandlerReady) (cause : Nat) (tval : XWord) :
    s.Trapped (s.takeTrap k cause tval) k cause tval := by
  obtain ⟨htv, hin, hd, hs, hvq, hti, hout⟩ := h
  change (s.core k).ctx.tvecEn = true at htv
  change (s.core k).ctx.status.intrap = false at hin
  change (s.core k).ctx.depth < 65535 at hd
  change 0 < (s.core k).freeSlots at hs
  change (s.core k).vq = [] at hvq
  change (s.core k).timers = [] at hti
  change (s.core k).out = [] at hout
  have hd' : ¬ (s.core k).ctx.depth = 65535 := by omega
  have hs' : ¬ (s.core k).freeSlots ≤ 0 := by omega
  have heq : s.takeTrap k cause tval = s.enterTrap k cause tval := by
    simp [State.takeTrap, Core.trapLogFull, htv, hin, hvq, hti, hout, hd', hs']
  rw [heq, State.enterTrap_eq k cause tval hout]
  obtain ⟨n, hn⟩ := State.trace_core (s.setCore k ((s.core k).trapped cause tval)) k 3 cause (s.core k).pc.toNat
  refine ⟨⟨n, ?_⟩, State.trace_mem .., fun j hj => ?_⟩
  · rw [hn, State.core_setCore_same]
  · rw [State.trace_core_other _ _ _ _ _ _ hj, State.core_setCore, if_neg hj.symm]

section Trapped

variable {s t : State} {k cause : Nat} {tval : XWord}

/-- The context of a core in its handler. -/
theorem State.Trapped.ctx (h : s.Trapped t k cause tval) : (t.core k).ctx = ((s.core k).trapped cause tval).ctx := by
  obtain ⟨n, hn⟩ := h.core
  rw [hn]

/-- Its PC. -/
theorem State.Trapped.pc (h : s.Trapped t k cause tval) : (t.core k).pc = (s.core k).ctx.tvecAddr ++ (0 : BitVec 2) := by
  obtain ⟨n, hn⟩ := h.core
  rw [hn]; rfl

/-- The trap's registers, and INSTRET, which does not count the instruction. -/
theorem State.Trapped.registers (h : s.Trapped t k cause tval) : (t.core k).ctx.epc = (s.core k).pc ∧ (t.core k).ctx.cause = BitVec.ofNat 8 cause
    ∧ (t.core k).ctx.tval = tval ∧ (t.core k).ctx.instret = (s.core k).ctx.instret := by
  rw [h.ctx, Core.trapped_ctx]
  exact ⟨rfl, rfl, rfl, rfl⟩

theorem State.Trapped.bytesSame (h : s.Trapped t k cause tval) : s.BytesSame t := State.bytesSame_of_mem h.mem

end Trapped

/-- One agreement after another. -/
theorem State.Agrees.trans {s t u : State} (h : s.Agrees t) (g : t.Agrees u) : s.Agrees u :=
  ⟨h.device.trans g.device, fun k => (g.core k).trans (h.core k)⟩

/-- The write-back of clean lines changes nothing. -/
theorem State.agrees_writeBackIf_of {s : State} {k : Nat} {sel : L1Line → Bool} (h : ∀ x ∈ (s.core k).l1, sel x = true → x.dirty = 0) :
    s.Agrees (s.writeBackIf k sel) := by
  rw [State.writeBackIf, State.foldl_writeBack_clean fun x hx => h x (List.mem_filter.1 hx).1 (List.mem_filter.1 hx).2]
  refine State.agrees_modCore ?_
  have hmap : ((s.core k).l1.map fun x => if sel x && decide (x.dirty ≠ 0) then { x with dirty := 0, stores := [] } else x) = (s.core k).l1 :=
    (List.map_congr_left fun x hx => by cases hs : sel x <;> simp [h x hx, hs]).trans (List.map_id _)
  simp only [hmap]

/-- Write-backs of several cores' clean lines change nothing. -/
theorem State.agrees_foldl_writeBackIf {sel : L1Line → Bool} (ks : List Nat) {s : State} (h : ∀ k ∈ ks, ∀ x ∈ (s.core k).l1, sel x = true → x.dirty = 0) :
    s.Agrees (ks.foldl (fun s k => s.writeBackIf k sel) s) := by
  induction ks generalizing s with
  | nil => exact .refl s
  | cons k ks ih =>
    have hk := s.agrees_writeBackIf_of (h k (List.mem_cons_self ..))
    refine hk.trans (ih fun j hj => ?_)
    rw [hk.core]
    exact h j (List.mem_cons_of_mem _ hj)

/-- The operation that writes a line back. -/
def L1Line.posted (x : L1Line) (k id : Nat) : Posted :=
  { id := id, kind := 3, va := BitVec.ofNat 64 (placeAddr x.line), line := x.line, mask := x.dirty, data := x.data, core := k, job := x.job, stamp := x.stamp
    cls := x.cls, incarn := x.incarn, act := x.act, ep := x.ep, stores := x.stores }

/-- A dirty line written back: its operation is posted (R123). -/
theorem State.writeBack_dirty {s : State} {k : Nat} {x : L1Line} (h : x.dirty ≠ 0) :
    (s.writeBack k x).core k = { s.core k with posted := (s.core k).posted ++ [x.posted k s.nextId] }
      ∧ ∃ p, (s.writeBack k x).net = s.net ++ [p] ∧ p.src = k ∧ p.dst = x.ep ∧ p.body = .posted (x.posted k s.nextId) := by
  rw [State.writeBack, if_neg h]
  unfold State.post
  constructor
  · rw [State.send_core]; exact State.core_modCore_same ..
  · obtain ⟨q, hq, hc⟩ := State.send_net (({ s with nextId := s.nextId + 1 } : State).modCore k fun c => { c with posted := c.posted ++ [x.posted k s.nextId] })
      { src := k, dst := x.ep, cls := 2, body := .posted (x.posted k s.nextId), len := popCount x.dirty.toNat 128, inorder := epIsCore x.ep, retain := some 0
        job := x.job }
    exact ⟨q, hq, hc.src, hc.dst, hc.body⟩

/-- The core after lines have been written back: an operation is posted of each dirty one, of its job. -/
theorem State.foldl_writeBack_core (l : List L1Line) (s : State) (k : Nat) :
    ∃ ps : List Posted, (l.foldl (fun s x => s.writeBack k x) s).core k = { s.core k with posted := (s.core k).posted ++ ps }
      ∧ ∀ x ∈ l, x.dirty ≠ 0 → ∃ p ∈ ps, p.kind = 3 ∧ p.job = x.job := by
  induction l generalizing s with
  | nil => exact ⟨[], by rw [List.append_nil]; rfl, fun _ h => absurd h List.not_mem_nil⟩
  | cons y l ih =>
    obtain ⟨ps, hc, hp⟩ := ih (s.writeBack k y)
    by_cases hy : y.dirty = 0
    · have hs : s.writeBack k y = s := if_pos hy
      refine ⟨ps, by rw [List.foldl_cons, hc, hs], fun x hx hd => ?_⟩
      rcases List.mem_cons.1 hx with rfl | hx
      · exact absurd hy hd
      · exact hp x hx hd
    · refine ⟨y.posted k s.nextId :: ps, by rw [List.foldl_cons, hc, (State.writeBack_dirty hy).1]; simp, fun x hx hd => ?_⟩
      rcases List.mem_cons.1 hx with rfl | hx
      · exact ⟨_, List.mem_cons_self .., rfl, rfl⟩
      · obtain ⟨p, hp, h⟩ := hp x hx hd
        exact ⟨p, List.mem_cons_of_mem _ hp, h⟩

/-- Lines that a test selects, made clean. -/
def cleaned (sel : L1Line → Bool) (l : List L1Line) : List L1Line :=
  l.map fun x => if sel x && decide (x.dirty ≠ 0) then { x with dirty := 0, stores := [] } else x

/-- One dirty line made clean. -/
theorem cleaned_singleton {sel : L1Line → Bool} {x : L1Line} (hs : sel x = true) (hd : x.dirty ≠ 0) :
    cleaned sel [x] = [{ x with dirty := 0, stores := [] }] := by
  have h : (sel x && decide (x.dirty ≠ 0)) = true := by rw [hs, decide_eq_true hd]; rfl
  rw [cleaned, List.map_singleton, if_pos h]

/-- The core after a write-back of the lines that a test selects. -/
theorem State.writeBackIf_core (s : State) (k : Nat) (sel : L1Line → Bool) :
    ∃ ps : List Posted, (s.writeBackIf k sel).core k = { s.core k with posted := (s.core k).posted ++ ps, l1 := cleaned sel (s.core k).l1 }
      ∧ ∀ x ∈ (s.core k).l1, sel x = true → x.dirty ≠ 0 → ∃ p ∈ ps, p.kind = 3 ∧ p.job = x.job := by
  obtain ⟨ps, hc, hp⟩ := State.foldl_writeBack_core ((s.core k).l1.filter sel) s k
  refine ⟨ps, ?_, fun x hx hs hd => hp x (List.mem_filter.2 ⟨hx, hs⟩) hd⟩
  rw [State.writeBackIf, State.core_modCore_same, hc]
  rfl

end Sys2Proof.Machine
end

section
/-! The end of a walk, invalidations and extra write-backs (spec/06_memory.md R117 to R123). -/

namespace Sys2Proof.Machine

/-! Walks. -/

/-- `t` is `s` but for its clusters and for what is walked. -/
def State.Reads (s t : State) : Prop := ({ t with clusters := s.clusters } : State) = s

/-- The reads of a walk, through the L2, change the clusters alone. -/
theorem State.reads_foldl_l2Touch (l : List Nat) (s : State) : s.Reads (l.foldl (fun (s : State) a => s.l2Touch (tableHome a) a) s) := by
  induction l generalizing s with
  | nil => rfl
  | cons a l ih =>
    have h := congrArg (fun u : State => { u with clusters := s.clusters }) (ih (s.l2Touch (tableHome a) a))
    exact h

/-- A walk with one waiter, ended: all but what was read for it, and its walk gone (R121). -/
theorem State.walkDone_spec {s : State} {id : Nat} {w : Walk} (h : s.walks.find? (fun w => decide (w.id = id)) = some w) :
    ∃ u, ({ s with walks := s.walks.filter fun x => decide (x.id ≠ id) } : State).Reads u
      ∧ (∀ e, s.walk w.job w.page = some e → s.walkDone id = w.waiters.foldl (fun (s : State) x => s.tlbFill x.1 w.job e) u)
      ∧ (s.walk w.job w.page = none → s.walkDone id = w.waiters.foldl (fun (s : State) x => s.walkFault x.2) u) := by
  refine ⟨_, State.reads_foldl_l2Touch (s.walkReads w.page (s.job w.job).root 0 4) _, fun e he => ?_, fun hn => ?_⟩
  · simp only [State.walkDone, h, he]
  · simp only [State.walkDone, h, hn]

/-- A fill of a TLB. -/
theorem State.tlbFill_cluster (s : State) (g job : Nat) (e : Leaf) :
    ((s.tlbFill g job e).cluster g).tlb.head? = some ⟨job, e.page, e.size, e.leaf⟩ ∧ ((s.tlbFill g job e).cluster g).tlb.length ≤ 512 := by
  rw [State.tlbFill, State.cluster_modCluster_same]
  exact ⟨rfl, List.length_take_le ..⟩

/-! Invalidations. -/

/-- What is under way through translations stays so when lines are written back: the write-back of a job's line is under way itself. -/
theorem Core.translating_written {c : Core} {v : Inval} {sel : L1Line → Bool} {ps : List Posted} (hsel : ∀ x, sel x = true ↔ x.job = v.job)
    (hp : ∀ x ∈ c.l1, sel x = true → x.dirty ≠ 0 → ∃ p ∈ ps, p.kind = 3 ∧ p.job = x.job) (h : c.translating v = true) :
    ({ c with posted := c.posted ++ ps, l1 := cleaned sel c.l1 } : Core).translating v = true := by
  have hj : ({ c with posted := c.posted ++ ps, l1 := cleaned sel c.l1 } : Core).jobNum = c.jobNum := rfl
  unfold Core.translating at h ⊢
  rw [hj]
  simp only [Bool.or_eq_true] at h ⊢
  obtain ((h | h) | h) | h := h
  · exact .inl (.inl (.inl h))
  · obtain ⟨p, hm, h⟩ := List.any_eq_true.1 h
    exact .inl (.inl (.inr (List.any_eq_true.2 ⟨p, List.mem_append_left _ hm, h⟩)))
  · obtain ⟨x, hm, h⟩ := List.any_eq_true.1 h
    simp only [Bool.and_eq_true, decide_eq_true_eq] at h
    obtain ⟨p, hps, hk, hpj⟩ := hp x hm ((hsel x).2 h.1) h.2
    exact .inl (.inl (.inr (List.any_eq_true.2 ⟨p, List.mem_append_right _ hps, by simp [hk, hpj, h.1]⟩)))
  · exact .inr h

/-- A write-back of a job's lines in a core leaves every core's accesses under way. -/
theorem State.translating_writeBackIf {s : State} {v : Inval} {j k : Nat} (h : (s.core k).translating v = true) :
    ((s.writeBackIf j fun x => decide (x.job = v.job)).core k).translating v = true := by
  by_cases hjk : k = j
  · subst hjk
    obtain ⟨ps, hc, hp⟩ := s.writeBackIf_core k fun x => decide (x.job = v.job)
    rw [hc]
    exact Core.translating_written (fun x => decide_eq_true_iff) hp h
  · rw [(s.aside_writeBackIf j _).others k hjk]; exact h

/-- So do those of several cores. -/
theorem State.translating_foldl_writeBackIf {v : Inval} {k : Nat} (js : List Nat) {s : State} (h : (s.core k).translating v = true) :
    ((js.foldl (fun s j => s.writeBackIf j fun x => decide (x.job = v.job)) s).core k).translating v = true := by
  induction js generalizing s with
  | nil => exact h
  | cons j js ih => exact ih (State.translating_writeBackIf h)

/-- Nothing under way leaves no dirty line of the job. -/
theorem Core.clean_of_not_translating {c : Core} {v : Inval} (h : c.translating v = false) : ∀ x ∈ c.l1, decide (x.job = v.job) = true → x.dirty = 0 := by
  intro x hx hj
  unfold Core.translating at h
  simp only [Bool.or_eq_false_iff] at h
  simpa [of_decide_eq_true hj] using List.any_eq_false.1 h.1.2 x hx

/-- Whether an invalidation names an entry (R122). -/
theorem Inval.hits_iff (v : Inval) (e : Tlb) :
    v.hits e = true ↔ e.job = v.job ∧ (v.all = true ∨ e.page ≤ v.va ∧ v.va < e.page + e.size ∧ (v.size = 0 ∨ e.size = v.size)) := by
  simp [Inval.hits, and_assoc]

/-- The invalidations still to be acknowledged once a cluster has acknowledged one of them. -/
def ackedInvals (l : List Inval) (id : Nat) (left : List Nat) : List Inval :=
  (l.map fun x => if x.id = id then { x with left := left } else x).filter fun x => !x.left.isEmpty

/-- One that is left has what is left of it, and something is. -/
theorem left_of_mem_ackedInvals {l : List Inval} {id : Nat} {left : List Nat} {y : Inval} (h : y ∈ ackedInvals l id left) (hy : y.id = id) :
    y.left = left ∧ left ≠ [] := by
  obtain ⟨hm, hne⟩ := List.mem_filter.1 h
  obtain ⟨x, -, rfl⟩ := List.mem_map.1 hm
  by_cases hx : x.id = id
  · rw [if_pos hx] at hne ⊢
    exact ⟨rfl, by simpa using hne⟩
  · rw [if_neg hx] at hy
    exact absurd hy hx

/-- A cluster's TLB without the entries an invalidation names. -/
def State.untranslated (s : State) (g : Nat) (v : Inval) : State := s.modCluster g fun c => { c with tlb := c.tlb.filter fun t => !v.hits t }

/-- The cores of a cluster with the job's dirty bytes on their way. -/
def State.jobWritten (s : State) (g : Nat) (v : Inval) : State :=
  (List.range 8).foldl (fun (s : State) i => s.writeBackIf (clusterCore g i) fun x => decide (x.job = v.job)) s

/-- As a fold over the cores. -/
theorem State.jobWritten_eq (s : State) (g : Nat) (v : Inval) :
    s.jobWritten g v = ((List.range 8).map (clusterCore g)).foldl (fun s k => s.writeBackIf k fun x => decide (x.job = v.job)) s := by
  rw [State.jobWritten, List.foldl_map]

/-- Write-backs leave bytes, clusters and invalidations. -/
theorem State.foldl_writeBackIf_rest (ks : List Nat) (sel : L1Line → Bool) (s : State) :
    (ks.foldl (fun s k => s.writeBackIf k sel) s).mem = s.mem ∧ (ks.foldl (fun s k => s.writeBackIf k sel) s).clusters = s.clusters
      ∧ (ks.foldl (fun s k => s.writeBackIf k sel) s).invals = s.invals := by
  induction ks generalizing s with
  | nil => exact ⟨rfl, rfl, rfl⟩
  | cons k ks ih =>
    obtain ⟨h1, h2, h3⟩ := ih (s.writeBackIf k sel)
    have ha := s.aside_writeBackIf k sel
    exact ⟨h1.trans ha.mem, h2.trans ha.clusters, h3.trans ha.invals⟩

/-- An invalidation at a cluster that has not acknowledged it (R122). -/
theorem State.invalidate_eq {s : State} {id g : Nat} {v : Inval} (h : s.invals.find? (fun v => decide (v.id = id)) = some v) (hg : g ∈ v.left) :
    s.invalidate id g = if ((List.range 8).any fun i => ((((s.untranslated g v).jobWritten g v).core (clusterCore g i)).translating v)) = true
      then (s.untranslated g v).jobWritten g v
      else { (s.untranslated g v).jobWritten g v with
        invals := ackedInvals ((s.untranslated g v).jobWritten g v).invals id (v.left.filter fun x => decide (x ≠ g)) } := by
  have hc : v.left.contains g = true := by simpa using hg
  unfold State.invalidate
  rw [h]
  simp only [hc, Bool.not_true, Bool.false_eq_true, if_false]
  rfl

/-- Settles O50: the end of a walk, an invalidation at a cluster, an extra write-back. -/
theorem walksInvalidationsWriteBacks : Obligations.WalksInvalidationsWriteBacks := by
  unfold Obligations.WalksInvalidationsWriteBacks
  intro id g k line s
  refine ⟨fun w x hw hwait => ?_, fun v hv hg => ?_, fun x hl hline hdirty => ?_⟩
  · obtain ⟨u, hu, hfill, hpf⟩ := State.walkDone_spec hw
    have hwalks : u.walks = s.walks.filter fun x => decide (x.id ≠ id) := (congrArg State.walks hu :)
    have hmem : u.mem = s.mem := (congrArg State.mem hu :)
    have hcores : u.cores = s.cores := (congrArg State.cores hu :)
    rw [hwait] at hfill hpf
    refine ⟨fun e he => ?_, fun tval hnone hx hact hheld hvq hti hout htv hin hd hs => ?_⟩
    · refine ⟨u.tlbFill g w.job e, congrArg Host.Outcome.next (hfill e he), fun y hy => ?_, State.bytesSame_of_mem hmem, u.tlbFill_cluster ..⟩
      have hy : y ∈ u.walks := hy
      rw [hwalks] at hy
      simpa using (List.mem_filter.1 hy).2
    · have hcore : u.core k = s.core k := by rw [State.core, hcores, State.core]
      have hready : ({ u with cur := k } : State).HandlerReady := by
        have hc : ({ u with cur := k } : State).c = s.core k := hcore
        constructor <;> rw [hc] <;> assumption
      have hrun : ((u.core k).act.isNone || (u.core k).held.isSome) = false := by
        rw [hcore, hheld]
        simpa [Option.isSome_iff_ne_none] using hact
      have hfault : u.walkFault (.core k tval) = u.takeTrap k 6 tval := by
        rw [State.walkFault, hrun]; rfl
      have htrap := State.takeTrap_trapped hready 6 tval
      rw [← hfault] at htrap
      obtain ⟨h1, h2, h3, -⟩ := htrap.registers
      rw [hx] at hpf
      refine ⟨_, congrArg Host.Outcome.next (hpf hnone), h1.trans (by rw [hcore]), h2, h3, htrap.pc.trans (by rw [hcore]),
        State.bytesSame_of_mem (htrap.mem.trans hmem)⟩
  · have hrest := State.foldl_writeBackIf_rest ((List.range 8).map (clusterCore g)) (fun x => decide (x.job = v.job)) (s.untranslated g v)
    rw [← State.jobWritten_eq] at hrest
    obtain ⟨hmem, hclusters, hinvals⟩ := hrest
    have hdone := State.invalidate_eq hv hg
    generalize hu : (s.untranslated g v).jobWritten g v = u at hmem hclusters hinvals hdone
    have hcluster (h : Nat) : u.cluster h = (s.untranslated g v).cluster h := by rw [State.cluster, hclusters, State.cluster]
    refine ⟨_, congrArg Host.Outcome.next rfl, ?_, ?_, ?_, ?_, ?_⟩
    all_goals rw [hdone]
    · split <;> exact State.bytesSame_of_mem hmem
    · have htlb : (u.cluster g).tlb = (s.cluster g).tlb.filter fun t => !v.hits t := by
        rw [hcluster, State.untranslated, State.cluster_modCluster_same]
      intro e he
      rw [← Inval.hits_iff]
      have hiff : e ∈ (u.cluster g).tlb ↔ ¬ v.hits e = true := by
        rw [htlb, List.mem_filter]
        simp [he]
      split <;> exact hiff
    · intro h hh
      have hother : u.cluster h = s.cluster h := by rw [hcluster, State.untranslated, State.cluster_modCluster, if_neg hh.symm]
      split <;> exact hother
    · intro hnone
      have hagree : (s.untranslated g v).Agrees u := by
        rw [← hu, State.jobWritten_eq]
        refine State.agrees_foldl_writeBackIf _ fun k hk x hx hj => ?_
        obtain ⟨i, hi, rfl⟩ := List.mem_map.1 hk
        exact Core.clean_of_not_translating (hnone i (List.mem_range.1 hi)) x hx hj
      have hany : ((List.range 8).any fun i => ((u.core (clusterCore g i)).translating v)) = false :=
        List.any_eq_false.2 fun i hi => by
          rw [hagree.core]
          exact Bool.eq_false_iff.1 (hnone i (List.mem_range.1 hi))
      rw [hany, if_neg Bool.false_ne_true]
      refine ⟨fun y hy hid hmem => ?_, fun hleft y hy hid => ?_⟩
      · rw [(left_of_mem_ackedInvals hy hid).1] at hmem
        exact absurd (List.mem_filter.1 hmem).2 (by simp)
      · refine (left_of_mem_ackedInvals hy hid).2 ?_
        rw [hleft]; simp
    · rintro ⟨i, hi, htr⟩
      have hstill : (u.core (clusterCore g i)).translating v = true := by
        rw [← hu, State.jobWritten_eq]
        exact State.translating_foldl_writeBackIf _ htr
      rw [if_pos (List.any_eq_true.2 ⟨i, List.mem_range.2 hi, hstill⟩)]
      exact hinvals
  · have hsel : decide (x.line = line) = true := decide_eq_true hline
    have hfilter : (s.core k).l1.filter (fun x => decide (x.line = line)) = [x] := by rw [hl]; exact List.filter_cons_of_pos (l := []) hsel
    obtain ⟨hcore, p, hnet, hsrc, hdst, hbody⟩ := State.writeBack_dirty (s := s) (k := k) hdirty
    have haside := s.aside_writeBack k x
    have heq : s.writeBackIf k (fun x => decide (x.line = line)) = (s.writeBack k x).modCore k fun c => { c with l1 := cleaned (fun x => decide (x.line = line)) c.l1 } := by
      rw [State.writeBackIf, hfilter]; rfl
    refine ⟨_, p, congrArg Host.Outcome.next heq, ?_, hnet, hsrc, hdst, ⟨_, hbody, rfl, hline, rfl, rfl⟩, haside.bytesSame⟩
    rw [State.core_modCore_same, hcore]
    change cleaned _ (s.core k).l1 = _
    rw [hl, cleaned_singleton hsel hdirty]

end Sys2Proof.Machine
end

section
/-! How an access ends at its core (spec/06_memory.md R133 to R136, R143): its destination filled, or the access marked failed. -/

namespace Sys2Proof.Machine

/-! What stays of a core's accesses. -/

/-- The accesses of another identity, but for the marks that only decide whether a line is kept. -/
def Core.others (c : Core) (id : Nat) : List Access := (c.out.filter fun b => decide (b.id ≠ id)).map Access.plain

/-- They are told by the accesses, but for the same marks. -/
theorem Core.others_of_plain {c d : Core} (h : d.out.map Access.plain = c.out.map Access.plain) (id : Nat) : d.others id = c.others id := by
  have hf (l : List Access) : (l.filter fun b => decide (b.id ≠ id)).map Access.plain = (l.map Access.plain).filter fun b => decide (b.id ≠ id) :=
    (List.filter_map (f := Access.plain) (p := fun b => decide (b.id ≠ id))).symm
  rw [Core.others, Core.others, hf, hf, h]

/-- `u` is `s` but for what stands aside of core `k` and for its access of an identity. -/
structure State.Spares (s u : State) (k id : Nat) : Prop where
  mem : u.mem = s.mem
  streams : s.SameStreams u
  xs : (u.core k).xs = (s.core k).xs
  pc : (u.core k).pc = (s.core k).pc
  blocked : (u.core k).blocked = (s.core k).blocked
  ctx : (u.core k).ctx = (s.core k).ctx
  others : (u.core k).others id = (s.core k).others id

theorem State.Spares.trans {s t u : State} {k id : Nat} (h : s.Spares t k id) (g : t.Spares u k id) : s.Spares u k id :=
  ⟨g.mem.trans h.mem, h.streams.trans g.streams, g.xs.trans h.xs, g.pc.trans h.pc, g.blocked.trans h.blocked, g.ctx.trans h.ctx, g.others.trans h.others⟩

/-- What stands aside of a core spares its accesses. -/
theorem State.Aside.spares {s u : State} {k : Nat} (h : s.Aside k u) (id : Nat) : s.Spares u k id :=
  ⟨h.mem, h.streams, h.xs, h.pc, h.blocked, h.ctx, Core.others_of_plain h.out id⟩

/-- An access changed spares the others. -/
theorem State.spares_modOut (s : State) (k id : Nat) (f : Access → Access) (hf : ∀ b, b.id = id → (f b).id = id) :
    s.Spares (s.modCore k fun c => { c with out := c.out.map fun b => if b.id = id then f b else b }) k id := by
  have hl (l : List Access) : (l.map fun b => if b.id = id then f b else b).filter (fun b => decide (b.id ≠ id)) = l.filter fun b => decide (b.id ≠ id) := by
    induction l with
    | nil => rfl
    | cons b l ih =>
      rw [List.map_cons]
      by_cases hb : b.id = id
      · rw [if_pos hb, List.filter_cons_of_neg (by simp [hf b hb]), List.filter_cons_of_neg (by simp [hb]), ih]
      · rw [if_neg hb, List.filter_cons_of_pos (by simp [hb]), List.filter_cons_of_pos (by simp [hb]), ih]
  have hc := State.core_modCore_same s k fun c => { c with out := c.out.map fun b => if b.id = id then f b else b }
  refine ⟨rfl, fun _ => rfl, ?_, ?_, ?_, ?_, ?_⟩ <;> rw [hc]
  exact congrArg (List.map Access.plain) (hl _)

/-! A good reply. -/

/-- A core with an access outstanding no more. -/
def Core.without (c : Core) (id : Nat) : Core := { c with out := c.out.filter fun b => decide (b.id ≠ id) }

/-- Nothing else of it differs. -/
theorem Core.without_fields (c : Core) (id : Nat) : (c.without id).xs = c.xs ∧ (c.without id).out = (c.out.filter fun b => decide (b.id ≠ id))
    ∧ (c.without id).ctx = c.ctx ∧ (c.without id).pc = c.pc ∧ (c.without id).blocked = c.blocked := ⟨rfl, rfl, rfl, rfl, rfl⟩

/-- The core as a good reply leaves it, but for what it forwards. -/
def Core.answered (c : Core) (a : Access) (v issued : Nat) : Core :=
  let rest := c.without a.id
  let c' := (rest.fillDest a.dest v).unblock a.id
  let c'' := if c.blocked = some a.id then rest.logEntry c' issued else c'
  let c3 := if a.flags = 0 then c'' else c''.modCtxAll fun x => x.raise a.flags
  c3.freeUndo

/-- Freed entries are the undo log's alone. -/
theorem Core.freeUndo_eq (c : Core) : ∃ l, c.freeUndo = { c with undo := l } := by
  unfold Core.freeUndo
  split <;> exact ⟨_, rfl⟩

/-- A new entry is the undo log's alone. -/
theorem Core.logEntry_eq (c c' : Core) (issued : Nat) (x : Option Shared) : ∃ l, c.logEntry c' issued x = { c' with undo := l } := by
  unfold Core.logEntry
  split
  · exact ⟨c'.undo, rfl⟩
  · exact ⟨_, rfl⟩

/-- The undo log apart, the core has its destination filled, waits no more for this access, and has the reply's flags. -/
theorem Core.answered_eq (c : Core) (a : Access) (v issued : Nat) : ∃ l, c.answered a v issued =
    { ((c.without a.id).fillDest a.dest v).unblock a.id with
      undo := l
      ctx := if a.flags = 0 then (((c.without a.id).fillDest a.dest v).unblock a.id).ctx
        else (((c.without a.id).fillDest a.dest v).unblock a.id).ctx.raise a.flags } := by
  unfold Core.answered
  dsimp only
  generalize ((c.without a.id).fillDest a.dest v).unblock a.id = d
  have h1 : ∃ l, (if c.blocked = some a.id then (c.without a.id).logEntry d issued else d)
      = { d with undo := l } := by
    split
    · exact Core.logEntry_eq ..
    · exact ⟨d.undo, rfl⟩
  obtain ⟨l, h1⟩ := h1
  rw [h1]
  split
  · obtain ⟨l', h2⟩ := Core.freeUndo_eq { d with undo := l }
    exact ⟨l', h2⟩
  · obtain ⟨l', h2⟩ := Core.freeUndo_eq (({ d with undo := l } : Core).modCtxAll fun x => x.raise a.flags)
    exact ⟨l', h2⟩

/-- A waiting access completed moves PC on and counts. -/
theorem Core.unblock_fields (c : Core) (id : Nat) : (c.unblock id).xs = c.xs ∧ (c.unblock id).out = c.out ∧ (c.unblock id).ctx.flags = c.ctx.flags
    ∧ (c.unblock id).pc = if c.blocked = some id then c.pc + 4 else c.pc := by
  unfold Core.unblock
  split
  · exact ⟨rfl, rfl, rfl, rfl⟩
  · exact ⟨rfl, rfl, rfl, rfl⟩

/-- A destination filled is of the registers alone. -/
theorem Core.fillDest_fields (c : Core) (d : Dest) (v : Nat) :
    (c.fillDest d v).out = c.out ∧ (c.fillDest d v).ctx = c.ctx ∧ (c.fillDest d v).pc = c.pc ∧ (c.fillDest d v).blocked = c.blocked := by
  cases d with
  | none => exact ⟨rfl, rfl, rfl, rfl⟩
  | x key bits sext => exact ⟨Core.putKey_out .., Core.putKey_ctx .., Core.putKey_pc .., Core.putKey_blocked ..⟩
  | v n keep => exact ⟨rfl, rfl, rfl, rfl⟩

/-- The scalar registers after a destination is filled are told by those before. -/
theorem Core.fillDest_xs {c d : Core} (h : d.xs = c.xs) (x : Dest) (v : Nat) : (d.fillDest x v).xs = (c.fillDest x v).xs := by
  cases x with
  | none => exact h
  | x key bits sext =>
    change (d.putKey key _).xs = (c.putKey key _).xs
    unfold Core.putKey
    split
    · exact h
    · exact congrArg (fun m => Map.put m key ⟨extendTo64 bits sext v, true⟩) h
  | v n keep => exact h

/-- The registers, accesses, PC and flags of a core that a good reply has reached. -/
theorem Core.answered_fields (c : Core) (a : Access) (v issued : Nat) : (c.answered a v issued).xs = (c.fillDest a.dest v).xs
    ∧ (c.answered a v issued).out = (c.out.filter fun b => decide (b.id ≠ a.id)) ∧ (c.answered a v issued).ctx.flags = c.ctx.flags ||| a.flags
    ∧ (c.answered a v issued).pc = if c.blocked = some a.id then c.pc + 4 else c.pc := by
  obtain ⟨l, h⟩ := c.answered_eq a v issued
  rw [h]
  obtain ⟨hx, ho, hc, hp, hb⟩ := c.without_fields a.id
  generalize c.without a.id = rest at hx ho hc hp hb
  obtain ⟨f1, f2, f3, f4⟩ := rest.fillDest_fields a.dest v
  obtain ⟨u1, u2, u3, u4⟩ := (rest.fillDest a.dest v).unblock_fields a.id
  refine ⟨u1.trans (Core.fillDest_xs hx a.dest v), u2.trans (f1.trans ho), ?_, ?_⟩
  · have hfl : ((rest.fillDest a.dest v).unblock a.id).ctx.flags = c.ctx.flags := by rw [u3, f2, hc]
    change (if a.flags = 0 then ((rest.fillDest a.dest v).unblock a.id).ctx
      else ((rest.fillDest a.dest v).unblock a.id).ctx.raise a.flags).flags = _
    split
    · next h0 => rw [hfl, h0]; exact (BitVec.or_zero ..).symm
    · exact congrArg (· ||| a.flags) hfl
  · exact u4.trans (by rw [f4, f3, hb, hp])

/-- `t` is `s` after a good reply of value `v` for an access of core `k` (R133). -/
structure State.Ended (s t : State) (k : Nat) (a : Access) (v : Nat) : Prop where
  mem : t.mem = s.mem
  streams : s.SameStreams t
  xs : (t.core k).xs = ((s.core k).fillDest a.dest v).xs
  out : (t.core k).out.map Access.plain = (s.core k).others a.id
  pc : (t.core k).pc = if (s.core k).blocked = some a.id then (s.core k).pc + 4 else (s.core k).pc
  flags : (t.core k).ctx.flags = (s.core k).ctx.flags ||| a.flags

/-- What only spares the access goes before. -/
theorem State.Ended.of_spares {s u t : State} {k : Nat} {a : Access} {v : Nat} (h : u.Ended t k a v) (g : s.Spares u k a.id) : s.Ended t k a v where
  mem := h.mem.trans g.mem
  streams := g.streams.trans h.streams
  xs := h.xs.trans (Core.fillDest_xs g.xs ..)
  out := h.out.trans g.others
  pc := by rw [h.pc, g.blocked, g.pc]
  flags := by rw [h.flags, g.ctx]

/-- A packet sent after it changes none of this. -/
theorem State.Ended.ack {s t : State} {k : Nat} {a : Access} {v : Nat} (h : s.Ended t k a v) (p : Packet) (f : Nat) : s.Ended (t.ack p f) k a v where
  mem := (State.ack_mem ..).trans h.mem
  streams := h.streams.trans (State.answers_ack ..).streams
  xs := by rw [State.ack_core]; exact h.xs
  out := by rw [State.ack_core]; exact h.out
  pc := by rw [State.ack_core]; exact h.pc
  flags := by rw [State.ack_core]; exact h.flags

/-- What forwards changes is what waits to be forwarded (spec/12_numbers.md R292). -/
theorem State.forwardFlags_fields (s : State) (k : Nat) : (s.forwardFlags k).mem = s.mem ∧ s.SameStreams (s.forwardFlags k)
    ∧ ((s.forwardFlags k).core k).xs = (s.core k).xs ∧ ((s.forwardFlags k).core k).out = (s.core k).out ∧ ((s.forwardFlags k).core k).pc = (s.core k).pc
    ∧ ((s.forwardFlags k).core k).ctx.flags = (s.core k).ctx.flags := by
  have hsame : s.mem = s.mem ∧ s.SameStreams s ∧ (s.core k).xs = (s.core k).xs ∧ (s.core k).out = (s.core k).out ∧ (s.core k).pc = (s.core k).pc
      ∧ (s.core k).ctx.flags = (s.core k).ctx.flags := ⟨rfl, fun _ => rfl, rfl, rfl, rfl, rfl⟩
  unfold State.forwardFlags
  dsimp only
  split
  · split
    · generalize (s.core k).safeCtx = b
      have hc := State.core_modCore_same s k fun c => c.modCtxAll fun x => x.forwarded b
      refine ⟨rfl, fun _ => rfl, ?_, ?_, ?_, ?_⟩
      · exact (congrArg Core.xs hc :)
      · exact (congrArg Core.out hc :)
      · exact (congrArg Core.pc hc :)
      · exact (congrArg (fun c : Core => c.ctx.flags) hc :)
    · exact hsame
  · exact hsame

/-- A good reply that does not acquire (R133). -/
theorem State.accessGood_ended (s : State) (k : Nat) {a : Access} (v : Nat) (hacq : a.acq = false) : s.Ended (s.accessGood k a v) k a v := by
  refine State.Ended.of_spares (u := s.logReply k a v) ?_ ((s.aside_logReply k a v).spares a.id)
  have heq : s.accessGood k a v = (if decide ((s.core k).blocked = some a.id) = true
      then ((s.logReply k a v).modCore k fun c => c.answered a v (s.logReply k a v).nextId).snapshot k
      else (s.logReply k a v).modCore k fun c => c.answered a v (s.logReply k a v).nextId).forwardFlags k := by
    simp only [State.accessGood, hacq]
    rfl
  rw [heq]
  generalize s.logReply k a v = u
  generalize hw : (if decide ((s.core k).blocked = some a.id) = true then (u.modCore k fun c => c.answered a v u.nextId).snapshot k
    else u.modCore k fun c => c.answered a v u.nextId) = w
  have hbase : ∃ l, w = { u.modCore k fun c => c.answered a v u.nextId with snaps := l } := by
    rw [← hw]
    split
    · exact State.snapshot_eq ..
    · exact ⟨_, rfl⟩
  obtain ⟨l, hbase⟩ := hbase
  have hmem : w.mem = u.mem := by rw [hbase]; rfl
  have heps : w.eps = u.eps := by rw [hbase]; rfl
  have hcore : w.core k = (u.core k).answered a v u.nextId := by
    rw [hbase]; exact State.core_modCore_same u k fun c => c.answered a v u.nextId
  obtain ⟨f1, f2, f3, f4, f5, f6⟩ := w.forwardFlags_fields k
  obtain ⟨g1, g2, g3, g4⟩ := (u.core k).answered_fields a v u.nextId
  rw [← hcore] at g1 g2 g3 g4
  refine ⟨f1.trans hmem, State.SameStreams.trans (fun e => by rw [State.ep, heps, State.ep]) f2, f3.trans g1, ?_, f5.trans g4, f6.trans g3⟩
  rw [f4, g2, Core.others]

/-! A failing reply. -/

/-- `t` is `s` with the first access of an identity marked. -/
structure State.Marked (s t : State) (k id : Nat) (st : AccState) : Prop where
  mem : t.mem = s.mem
  streams : s.SameStreams t
  mark : ∃ b, (t.core k).out.find? (fun b => decide (b.id = id)) = some b ∧ b.st = st

/-- A packet sent after it leaves the mark. -/
theorem State.Marked.ack {s t : State} {k id : Nat} {st : AccState} (h : s.Marked t k id st) (p : Packet) (f : Nat) : s.Marked (t.ack p f) k id st where
  mem := (State.ack_mem ..).trans h.mem
  streams := h.streams.trans (State.answers_ack ..).streams
  mark := by rw [State.ack_core]; exact h.mark

/-- What stands aside goes before. -/
theorem State.Marked.of_aside {s u t : State} {k id : Nat} {st : AccState} (h : u.Marked t k id st) (g : s.Aside k u) : s.Marked t k id st :=
  ⟨h.mem.trans g.mem, State.SameStreams.trans g.streams h.streams, h.mark⟩

/-- The first access of an identity among accesses all of whose marks of it have been set. -/
theorem find?_map_mark {l : List Access} {id : Nat} {a : Access} (st : AccState) (h : l.find? (fun b => decide (b.id = id)) = some a) :
    (l.map fun b => if b.id = id then { b with st := st } else b).find? (fun b => decide (b.id = id)) = some { a with st := st } := by
  have hp : ((fun b : Access => decide (b.id = id)) ∘ fun b => if b.id = id then { b with st := st } else b) = fun b => decide (b.id = id) := by
    funext b
    rw [Function.comp_apply]
    split <;> rfl
  have ha : a.id = id := by simpa using List.find?_some h
  rw [List.find?_map, hp, h, Option.map_some, if_pos ha]

/-- The accesses of an identity marked. -/
theorem State.marked_modCore {s : State} {k id : Nat} {a : Access} (h : (s.core k).out.find? (fun b => decide (b.id = id)) = some a) (st : AccState) :
    s.Marked (s.modCore k fun c => { c with out := c.out.map fun b => if b.id = id then { b with st := st } else b }) k id st := by
  refine ⟨rfl, fun _ => rfl, { a with st := st }, ?_, rfl⟩
  rw [State.core_modCore_same]
  exact find?_map_mark st h

/-- A value logged leaves the mark. -/
theorem State.Marked.logAt {s u : State} {k id : Nat} {st : AccState} (h : s.Marked u k id st) (n kind where_ : Nat) (v : BitVec 1024) :
    s.Marked (u.logAt k n kind where_ v) k id st := by
  obtain ⟨l, hl⟩ := u.logAt_core k n kind where_ v
  have ha := u.aside_logAt k n kind where_ v
  refine ⟨ha.mem.trans h.mem, h.streams.trans ha.streams, ?_⟩
  rw [hl]
  exact h.mark

/-- An access fails (R135). -/
theorem State.accessFailed_marked {s : State} {k id : Nat} {a : Access} (h : (s.core k).out.find? (fun b => decide (b.id = id)) = some a) (st : AccState) :
    s.Marked (s.accessFailed k id st) k id st := by
  unfold State.accessFailed
  rw [h]
  exact (State.marked_modCore h st).logAt ..

/-- The access of an identity is found after what stands aside, but for the marks that only decide whether its line is kept. -/
theorem State.Aside.found {s u : State} {k id : Nat} {a : Access} (h : s.Aside k u) (hf : (s.core k).out.find? (fun b => decide (b.id = id)) = some a) :
    ∃ b, (u.core k).out.find? (fun b => decide (b.id = id)) = some b ∧ b.plain = a.plain := by
  have hp : ((fun b : Access => decide (b.id = id)) ∘ Access.plain) = fun b => decide (b.id = id) := rfl
  have hm (l : List Access) : (l.map Access.plain).find? (fun b => decide (b.id = id)) = (l.find? fun b => decide (b.id = id)).map Access.plain := by
    rw [List.find?_map, hp]
  have := hm (u.core k).out
  rw [h.out, hm, hf, Option.map_some] at this
  exact Option.map_eq_some_iff.1 this.symm

end Sys2Proof.Machine
end

section
/-! The replies at a core (spec/06_memory.md R133, R143, spec/10_actors.md R246, spec/11_tasks.md R260, R261). -/

namespace Sys2Proof.Machine

/-- An access with the line of one of its parts. -/
def Access.given (a : Access) (i : Nat) (d : BitVec 1024) : Access :=
  { a with parts := a.parts.zipIdx.map fun p => if p.2 = i then { p.1 with got := some d } else p.1 }

/-- A delay counted is the counters' alone. -/
theorem State.latAdd_core (s : State) (k : Nat) (p : Packet) : ∃ m, (s.latAdd k p).core k = { s.core k with latacc := m } := by
  unfold State.latAdd
  split
  · exact ⟨(s.core k).latacc, rfl⟩
  · exact ⟨_, State.core_modCore_same ..⟩

/-- The accesses stay. -/
theorem State.latAdd_out (s : State) (k : Nat) (p : Packet) : ((s.latAdd k p).core k).out = (s.core k).out := by
  obtain ⟨m, h⟩ := s.latAdd_core k p
  rw [h]

section Replies

variable {s : State} {k : Nat} {a : Access}

/-- The last line of a load that does not acquire ends it (R133). -/
theorem State.readReply_ended {r : ReadReq} (hf : (s.core k).out.find? (fun b => decide (b.id = r.owner)) = some a) (hst : a.st = .pending) (hacq : a.acq = false)
    {d : BitVec 1024} (hgot : ((a.given r.part d).parts.all fun p => p.got.isSome) = true) (ep moment : Nat) :
    s.Ended (s.readReply k ep r 0 d moment) k (a.given r.part d) (a.given r.part d).assemble := by
  have heq : s.readReply k ep r 0 d moment =
      (if a.acq || a.stale || decide (moment < a.after)
        then (s.modCore k fun c => { c with out := c.out.map fun b => if b.id = a.id then a.given r.part d else b }).seenAt k r.line moment
        else ((s.modCore k fun c => { c with out := c.out.map fun b => if b.id = a.id then a.given r.part d else b }).seenAt k r.line moment).l1Fill k ep r.line
          d moment).accessGood k (a.given r.part d) (a.given r.part d).assemble := by
    unfold State.readReply
    rw [hf]
    dsimp only
    dsimp only [Access.given] at hgot
    rw [if_neg (not_not.2 hst), if_neg (not_not.2 rfl), if_pos hgot]
    rfl
  rw [heq]
  have h1 := s.spares_modOut k a.id (fun _ => a.given r.part d) fun _ _ => rfl
  refine State.Ended.of_spares (State.accessGood_ended _ k (a := a.given r.part d) _ hacq) (h1.trans ?_)
  generalize s.modCore k (fun c => { c with out := c.out.map fun b => if b.id = a.id then a.given r.part d else b }) = u
  have h2 := u.aside_seenAt k r.line moment
  split
  · exact h2.spares a.id
  · exact (h2.trans (State.aside_l1Fill ..)).spares a.id

/-- A failing reply of a load (R135). -/
theorem State.readReply_marked {r : ReadReq} (hf : (s.core k).out.find? (fun b => decide (b.id = r.owner)) = some a) (hst : a.st = .pending) {f : Nat} (h0 : f ≠ 0)
    (ep : Nat) (d : BitVec 1024) (moment : Nat) : s.Marked (s.readReply k ep r f d moment) k r.owner (.failed f) := by
  have hid : a.id = r.owner := by simpa using List.find?_some hf
  have heq : s.readReply k ep r f d moment = s.accessFailed k r.owner (.failed f) := by
    unfold State.readReply
    rw [hf, ← hid]
    simp only [hst, ne_eq, not_true_eq_false, if_false, h0, not_false_eq_true, if_true]
  rw [heq]
  exact State.accessFailed_marked hf _

variable {acc : Nat} (hf : (s.core k).out.find? (fun b => decide (b.id = acc)) = some a) (hst : a.st = .pending)
include hf hst

/-- A good reply of an atomic (R143). -/
theorem State.atomicReply_ended (hacq : a.acq = false) (p : Packet) (old : XWord) (fl : BitVec 5) :
    s.Ended (s.atomicReply k p acc 0 old fl) k { a with flags := fl } old.toNat := by
  have heq : s.atomicReply k p acc 0 old fl = ((s.latAdd k p).seenAccess k a p.id).accessGood k { a with flags := fl } old.toNat := by
    unfold State.atomicReply
    simp only [State.latAdd_out, hf, hst, ne_eq, not_true_eq_false, if_false]
  rw [heq]
  exact State.Ended.of_spares (State.accessGood_ended _ k (a := { a with flags := fl }) _ hacq)
    (((s.aside_latAdd k p).trans (State.aside_seenAccess ..)).spares a.id)

/-- A failing one. -/
theorem State.atomicReply_marked {f : Nat} (h0 : f ≠ 0) (p : Packet) (old : XWord) (fl : BitVec 5) :
    s.Marked (s.atomicReply k p acc f old fl) k acc (.failed f) := by
  have heq : s.atomicReply k p acc f old fl = (s.latAdd k p).accessFailed k acc (.failed f) := by
    unfold State.atomicReply
    simp only [State.latAdd_out, hf, hst, ne_eq, not_true_eq_false, if_false, h0, not_false_eq_true, if_true]
  rw [heq]
  exact (State.accessFailed_marked (by rw [State.latAdd_out]; exact hf) _).of_aside (s.aside_latAdd k p)

/-- A good reply of a counter operation is its answer (spec/11_tasks.md R261). -/
theorem State.counterReplyIn_good (p : Packet) (under : Nat) (val : XWord) (zero : Bool) (d1 d2 d3 : XWord) (kind : CtrKind) :
    s.counterReplyIn k p acc 0 under val zero d1 d2 d3 kind = ((s.latAdd k p).seenAccess k a p.id).counterAnswer k a kind under val zero d1 d2 d3 := by
  unfold State.counterReplyIn
  simp only [State.latAdd_out, hf, hst, ne_eq, not_true_eq_false, if_false]

/-- The reply of a counter read. -/
theorem State.counterReplyIn_ended (hacq : a.acq = false) (p : Packet) (val : XWord) (zero : Bool) (d1 d2 d3 : XWord) :
    s.Ended (s.counterReplyIn k p acc 0 0 val zero d1 d2 d3 .read) k a val.toNat := by
  rw [State.counterReplyIn_good hf hst]
  have heq (u : State) : u.counterAnswer k a .read 0 val zero d1 d2 d3 = u.accessGood k a val.toNat := by
    unfold State.counterAnswer
    simp
  rw [heq]
  exact State.Ended.of_spares (State.accessGood_ended _ k _ hacq) (((s.aside_latAdd k p).trans (State.aside_seenAccess ..)).spares a.id)

/-- A counter operation that finds its record at zero, or of another kind (spec/11_tasks.md R260). -/
theorem State.counterReplyIn_under {under : Nat} (h0 : under ≠ 0) (p : Packet) (val : XWord) (zero : Bool) (d1 d2 d3 : XWord) (kind : CtrKind) :
    s.Marked (s.counterReplyIn k p acc 0 under val zero d1 d2 d3 kind) k acc (.underflow under) := by
  rw [State.counterReplyIn_good hf hst]
  have hid : a.id = acc := by simpa using List.find?_some hf
  have ha := (s.aside_latAdd k p).trans ((s.latAdd k p).aside_seenAccess k a p.id)
  have heq (u : State) : u.counterAnswer k a kind under val zero d1 d2 d3 = u.accessFailed k acc (.underflow under) := by
    unfold State.counterAnswer
    rw [if_pos h0, hid]
  rw [heq]
  obtain ⟨b, hb, -⟩ := ha.found hf
  exact (State.accessFailed_marked hb _).of_aside ha

/-- A counter operation that fails at its target (R135). -/
theorem State.counterReplyIn_marked {f : Nat} (h0 : f ≠ 0) (p : Packet) (under : Nat) (val : XWord) (zero : Bool) (d1 d2 d3 : XWord) (kind : CtrKind) :
    s.Marked (s.counterReplyIn k p acc f under val zero d1 d2 d3 kind) k acc (.failed f) := by
  have heq : s.counterReplyIn k p acc f under val zero d1 d2 d3 kind = (s.latAdd k p).accessFailed k acc (.failed f) := by
    unfold State.counterReplyIn
    simp only [State.latAdd_out, hf, hst, ne_eq, not_true_eq_false, if_false, h0, not_false_eq_true, if_true]
  rw [heq]
  exact (State.accessFailed_marked (by rw [State.latAdd_out]; exact hf) _).of_aside (s.aside_latAdd k p)

end Replies

/-! Replies as they arrive. -/

/-- A core takes the replies to its accesses itself. -/
theorem epRuns_of_isCore {k : Nat} (h : isCore k = true) : epRuns k = true ∧ epIsHome k = false := by
  have hk : k < 0x2000 := by
    simp only [isCore, Bool.and_eq_true, decide_eq_true_eq] at h
    exact h.1
  simp only [epRuns, epIsCore, epIsHome]
  refine ⟨by simp [hk], ?_⟩
  have : ¬ 0x2000 ≤ k := by omega
  simp [this]

section Accept

variable {s : State} {p : Packet} {k : Nat} (hcore : isCore k = true) (hdst : p.dst = k)
include hcore

/-- A read reply at a core. -/
theorem State.acceptOne_readRep {r : ReadReq} {f : Nat} {d : BitVec 1024} (hb : p.body = .readRep r f d) (hr : r.core = k) (hcopy : r.copy = false) :
    s.acceptOne p = (s.latAdd k p).readReply k p.src r f d p.id := by
  obtain ⟨hruns, hhome⟩ := epRuns_of_isCore hcore
  simp only [State.acceptOne, hb, State.delayed, State.readDone, hr, hcopy, hruns, hhome, Bool.not_true, Bool.not_false, Bool.and_self, Bool.false_eq_true,
    if_false, if_true]

include hdst

/-- An atomic's reply at a core. -/
theorem State.acceptOne_atomicRep {acc f : Nat} {old va : XWord} {fl : BitVec 5} (hb : p.body = .atomicRep acc f old fl va) :
    s.acceptOne p = (s.atomicReply k p acc f old fl).ack p 0 := by
  simp only [State.acceptOne, hb, hdst, (epRuns_of_isCore hcore).1, if_true]

/-- A counter operation's reply at a core. -/
theorem State.acceptOne_counterRep {acc f u : Nat} {v d1 d2 d3 va : XWord} {z : Bool} {kind : CtrKind}
    (hb : p.body = .counterRep acc f u v z d1 d2 d3 kind va) : s.acceptOne p = (s.counterReplyIn k p acc f u v z d1 d2 d3 kind).ack p 0 := by
  simp only [State.acceptOne, hb, hdst, (epRuns_of_isCore hcore).1, if_true]

/-- A probe's reply at a core. -/
theorem State.acceptOne_probeRep {acc : Nat} {w : XWord} {a : Access} (hb : p.body = .probeRep acc w)
    (hf : (s.core k).out.find? (fun b => decide (b.id = acc)) = some a) : s.acceptOne p = (s.latAdd k p).accessGood k a w.toNat := by
  simp only [State.acceptOne, hb, hdst, hf, State.delayed, (epRuns_of_isCore hcore).1, Bool.not_false, Bool.and_self, if_true]

end Accept

section Arrival

variable {s : State} {pid k : Nat} {p : Packet} {a : Access}

/-- A reply that arrives and ends its access (R133): its register filled, the access outstanding no more, an instruction that waited complete. -/
theorem State.Arrives.ended (h : s.Arrives pid p) {kind : Body → Bool} (hkind : kind p.body = true) {v : Nat}
    (he : ∀ u : State, u.core k = s.core k → u.Ended (u.acceptOne p) k a v) {key bits : Nat} {sext : Bool} (hd : a.dest = .x key bits sext) (hk : key ≠ 0) :
    ∃ t, s.arrive pid false kind = t ∧ ((t.core k).regAt key = ⟨extendTo64 bits sext v, true⟩ ∧ (∀ key', key' ≠ key → (t.core k).regAt key' = (s.core k).regAt key')
      ∧ (t.core k).out.map Access.plain = (s.core k).others a.id ∧ (t.core k).pc = (if (s.core k).blocked = some a.id then (s.core k).pc + 4 else (s.core k).pc)
      ∧ s.BytesSame t) ∧ (t.core k).ctx.flags = (s.core k).ctx.flags ||| a.flags := by
  obtain ⟨u, hu, ht⟩ := h.arrive hkind fun u hu => (he u (hu.core k)).streams
  have hend := he u (hu.core k)
  have hx := hend.xs
  rw [hu.core, hd] at hx
  have hreg (key' : Nat) : ((u.acceptOne p).core k).regAt key' = ((s.core k).putKey key ⟨extendTo64 bits sext v, true⟩).regAt key' := by
    rw [Core.regAt, hx]; rfl
  refine ⟨_, ht, ⟨?_, fun key' hne => ?_, ?_, ?_, State.bytesSame_of_mem (hend.mem.trans hu.mem)⟩, ?_⟩
  · rw [hreg, Core.regAt_putKey _ _ _ _ hk, if_pos rfl]
  · rw [hreg, Core.regAt_putKey_other _ _ _ _ hne.symm]
  · rw [hend.out, hu.core]
  · rw [hend.pc, hu.core]
  · rw [hend.flags, hu.core]

/-- A reply that arrives and marks its access (R135). -/
theorem State.Arrives.marked (h : s.Arrives pid p) {kind : Body → Bool} (hkind : kind p.body = true) {id : Nat} {st : AccState}
    (he : ∀ u : State, u.core k = s.core k → u.Marked (u.acceptOne p) k id st) :
    ∃ t, s.arrive pid false kind = t ∧ ∃ b, (t.core k).out.find? (fun b => decide (b.id = id)) = some b ∧ b.st = st ∧ s.BytesSame t := by
  obtain ⟨u, hu, ht⟩ := h.arrive hkind fun u hu => (he u (hu.core k)).streams
  have hm := he u (hu.core k)
  obtain ⟨b, hb, hst⟩ := hm.mark
  exact ⟨_, ht, b, hb, hst, State.bytesSame_of_mem (hm.mem.trans hu.mem)⟩

end Arrival

end Sys2Proof.Machine
end

section
/-! The rollback to an access that has failed (spec/06_memory.md R134, R136). -/

namespace Sys2Proof.Machine

/-! Entries restored, newest first: what the oldest recorded stands. -/

/-- The value that a list of puts leaves at a key: that of the last. -/
theorem Map.get_foldl_put {α : Type} (d : α) (l : List (Nat × α)) (m : Map α) (n : Nat) :
    Map.get d (l.foldl (fun m r => Map.put m r.1 r.2) m) n = ((l.reverse.find? fun r => decide (r.1 = n)).map (·.2)).getD (Map.get d m n) := by
  induction l generalizing m with
  | nil => rfl
  | cons r l ih =>
    rw [List.foldl_cons, ih, List.reverse_cons, List.find?_append]
    cases (l.reverse.find? fun r => decide (r.1 = n)) with
    | some x => rfl
    | none =>
      rw [Map.get_put]
      by_cases h : r.1 = n <;> simp [h]

/-- What an undo log recorded last, going back, of a key. -/
def recorded {α : Type} (f : UndoEntry → List (Nat × α)) (es : List UndoEntry) (n : Nat) : Option α :=
  es.reverse.findSome? fun e => ((f e).reverse.find? fun r => decide (r.1 = n)).map (·.2)

/-- The entries of a log in turn. -/
theorem recorded_cons {α : Type} (f : UndoEntry → List (Nat × α)) (e : UndoEntry) (es : List UndoEntry) (n : Nat) (d : α) :
    (recorded f (e :: es) n).getD d = (recorded f es n).getD ((((f e).reverse.find? fun r => decide (r.1 = n)).map (·.2)).getD d) := by
  rw [recorded, recorded, List.reverse_cons, List.findSome?_append]
  cases es.reverse.findSome? fun e => ((f e).reverse.find? fun r => decide (r.1 = n)).map (·.2) with
  | some x => rfl
  | none =>
    rw [Option.none_or, List.findSome?_cons, List.findSome?_nil]
    cases ((f e).reverse.find? fun r => decide (r.1 = n)).map (·.2) <;> rfl

/-- The entries of an undo log restored. -/
def Core.restoreAll (c : Core) (es : List UndoEntry) : Core := es.foldl (fun c e => c.restore e) c

/-- Its scalar registers. -/
theorem Core.regAt_restoreAll (es : List UndoEntry) (c : Core) (n : Nat) : (c.restoreAll es).regAt n = (recorded UndoEntry.xs es n).getD (c.regAt n) := by
  induction es generalizing c with
  | nil => rfl
  | cons e es ih =>
    rw [recorded_cons]
    exact (ih (c.restore e)).trans (congrArg (recorded UndoEntry.xs es n).getD (Map.get_foldl_put ({} : Reg) e.xs c.xs n))

/-- Its vector registers. -/
theorem Core.v_restoreAll (es : List UndoEntry) (c : Core) (n : Nat) : (c.restoreAll es).v n = (recorded UndoEntry.vs es n).getD (c.v n) := by
  induction es generalizing c with
  | nil => rfl
  | cons e es ih =>
    rw [recorded_cons]
    exact (ih (c.restore e)).trans (congrArg (recorded UndoEntry.vs es n).getD (Map.get_foldl_put ({} : VReg) e.vs c.vs n))

/-- Its context, that before the oldest entry. -/
theorem Core.ctx_restoreAll (es : List UndoEntry) (c : Core) : (c.restoreAll es).ctx = (es.getLast?.map UndoEntry.ctx).getD c.ctx := by
  induction es generalizing c with
  | nil => rfl
  | cons e es ih =>
    have h := ih (c.restore e)
    rw [List.getLast?_cons]
    cases hl : es.getLast? with
    | none => rw [hl] at h; exact h
    | some x => rw [hl] at h; exact h

/-- What no entry records stays. -/
theorem Core.restoreAll_rest (es : List UndoEntry) (c : Core) :
    (c.restoreAll es).vq = c.vq ∧ (c.restoreAll es).timers = c.timers ∧ (c.restoreAll es).carve = c.carve := by
  induction es generalizing c with
  | nil => exact ⟨rfl, rfl, rfl⟩
  | cons e es ih => exact ih (c.restore e)

/-! The core rolled back. -/

/-- A spill that starts is the window engine's alone. -/
theorem Core.startSpill_eq (c : Core) : ∃ e, c.startSpill = { c with eng := e } := by
  unfold Core.startSpill
  split
  · exact ⟨_, rfl⟩
  · exact ⟨c.eng, rfl⟩

/-- So is a fill that starts after it. -/
theorem Core.startSpill_startFill (c : Core) : ∃ e, c.startSpill.startFill = { c with eng := e } := by
  obtain ⟨e, h1⟩ := c.startSpill_eq
  rw [h1]
  unfold Core.startFill
  split
  · exact ⟨e, rfl⟩
  · split
    · exact ⟨_, rfl⟩
    · split
      · exact ⟨_, rfl⟩
      · exact ⟨e, rfl⟩

/-- A core that has gone back to an access with a scalar destination, nothing being in its vector queue and no timer read under way (R136). -/
structure Core.RolledBack (c d : Core) (a : Access) (key : Nat) : Prop where
  regAt : ∀ n, d.regAt n = if n = key ∧ key ≠ 0 then a.oldX else (recorded UndoEntry.xs c.undo n).getD (c.regAt n)
  v : ∀ n, d.v n = (recorded UndoEntry.vs c.undo n).getD (c.v n)
  ctx : d.ctx = { (c.undo.getLast?.map UndoEntry.ctx).getD c.ctx with instret := a.instret }
  pc : d.pc = a.pc
  out : d.out = []
  undo : d.undo = []
  vq : d.vq = []
  timers : d.timers = []
  carve : d.carve = c.carve

/-- An own destination put back. -/
theorem Core.putKey_back (c : Core) (key : Nat) (r : Reg) (n : Nat) : (c.putKey key r).regAt n = if n = key ∧ key ≠ 0 then r else c.regAt n := by
  by_cases hk : key = 0
  · rw [if_neg fun h => h.2 hk, Core.putKey, if_pos hk]
  · rw [Core.regAt_putKey _ _ _ _ hk]
    by_cases h : n = key
    · rw [if_pos h.symm, if_pos ⟨h, hk⟩]
    · rw [if_neg fun e => h e.symm, if_neg fun e => h e.1]

/-- The rollback of a core (R136). -/
theorem Core.rollback_spec {c : Core} {a : Access} {key bits : Nat} {sext : Bool} (hd : a.dest = .x key bits sext) (hvq : c.vq = []) (hti : c.timers = []) :
    c.RolledBack (c.rollback a) a key := by
  obtain ⟨q1, q2, q3⟩ := Core.restoreAll_rest c.undo c
  have hx := Core.regAt_restoreAll c.undo c
  have hv := Core.v_restoreAll c.undo c
  have hc := Core.ctx_restoreAll c.undo c
  have hdest : (c.restoreAll c.undo).restoreDest a = (c.restoreAll c.undo).putKey key a.oldX := by rw [Core.restoreDest, hd]
  generalize hr : c.rollback a = r
  unfold Core.rollback at hr
  change (({ (c.restoreAll c.undo).restoreDest a with
    undo := [], out := [], blocked := none, fetch := none, pc := a.pc, trapWait := none, enterWait := none, eng := .idle
    vq := ((c.restoreAll c.undo).restoreDest a).vq.filter (fun w => decide (w.instret < a.instret)), preempting := false
    ctx := { ((c.restoreAll c.undo).restoreDest a).ctx with instret := a.instret }
    timers := ((c.restoreAll c.undo).restoreDest a).timers.filter fun t => !(((c.restoreAll c.undo).restoreDest a).regAt t.key).full } : Core).startSpill).startFill
    = r at hr
  rw [hdest] at hr
  have p1 := Core.putKey_back (c.restoreAll c.undo) key a.oldX
  have p2 : ((c.restoreAll c.undo).putKey key a.oldX).vs = (c.restoreAll c.undo).vs := Core.putKey_vs ..
  have p3 : ((c.restoreAll c.undo).putKey key a.oldX).ctx = (c.restoreAll c.undo).ctx := Core.putKey_ctx ..
  have p4 : ((c.restoreAll c.undo).putKey key a.oldX).vq = [] := (Core.putKey_vq ..).trans (q1.trans hvq)
  have p5 : ((c.restoreAll c.undo).putKey key a.oldX).timers = [] := (Core.putKey_timers ..).trans (q2.trans hti)
  have p6 : ((c.restoreAll c.undo).putKey key a.oldX).carve = c.carve := (Core.putKey_carve ..).trans q3
  generalize (c.restoreAll c.undo).putKey key a.oldX = d at p1 p2 p3 p4 p5 p6 hr
  obtain ⟨e, he⟩ := Core.startSpill_startFill { d with
    undo := [], out := [], blocked := none, fetch := none, pc := a.pc, trapWait := none, enterWait := none, eng := .idle
    vq := d.vq.filter (fun w => decide (w.instret < a.instret)), preempting := false
    ctx := { d.ctx with instret := a.instret }, timers := d.timers.filter fun t => !(d.regAt t.key).full }
  rw [← hr, he]
  constructor
  case regAt => intro n; exact (p1 n).trans (by rw [hx])
  case v => intro n; exact (congrArg (fun m => Map.get ({} : VReg) m n) p2).trans (hv n)
  case ctx => rw [p3, hc]
  case pc => rfl
  case out => rfl
  case undo => rfl
  case vq => rw [p4]; rfl
  case timers => rw [p5]; rfl
  case carve => exact p6

/-- What is logged no more is aside of what a rollback restores. -/
theorem Core.RolledBack.unlog {c d : Core} {a : Access} {key : Nat} (h : c.RolledBack d a key) (n : Nat) : c.RolledBack (d.unlog n) a key :=
  ⟨h.regAt, h.v, h.ctx, h.pc, h.out, h.undo, h.vq, h.timers, h.carve⟩

/-! The cluster's part. -/

/-- A tag put back where it has not been written since. -/
def State.tagBack (n : Nat) (s : State) (t : Nat × Nat) : State :=
  if s.blockTag n t.1 = t.2 % 2 ^ 63 then s.store (tagPlace n t.1) 8 t.2 else s

/-- Tags put back leave the cores. -/
theorem State.foldl_tagBack_cores (n : Nat) (l : List (Nat × Nat)) (s : State) : (l.foldl (State.tagBack n) s).cores = s.cores := by
  induction l generalizing s with
  | nil => rfl
  | cons t l ih =>
    rw [List.foldl_cons, ih]
    unfold State.tagBack
    split <;> rfl

/-- A group's FNARM taken back. -/
def State.armBack (s : State) (o : Option Nat) : State := match o with | some n => s.modGroup n fun g => { g with fnarm := false } | none => s

/-- It leaves the cores and memory. -/
theorem State.armBack_rest (s : State) (o : Option Nat) : (s.armBack o).cores = s.cores ∧ (s.armBack o).mem = s.mem := by
  cases o <;> exact ⟨rfl, rfl⟩

/-- An entry's part of the cluster leaves the cores, and memory where it has no tags. -/
theorem State.restoreShared_rest (s : State) (k : Nat) (x : Shared) :
    (s.restoreShared k x).cores = s.cores ∧ (x.tags = [] → (s.restoreShared k x).mem = s.mem) := by
  have hc : (s.restoreShared k x).cores = ((x.tags.foldl (State.tagBack (coreCluster k)) s).armBack x.arm).cores := rfl
  have hm : (s.restoreShared k x).mem = ((x.tags.foldl (State.tagBack (coreCluster k)) s).armBack x.arm).mem := rfl
  obtain ⟨h1, h2⟩ := (x.tags.foldl (State.tagBack (coreCluster k)) s).armBack_rest x.arm
  refine ⟨hc.trans (h1.trans (State.foldl_tagBack_cores ..)), fun h => ?_⟩
  rw [hm, h2, h]; rfl

/-- So do those of several. -/
theorem State.foldl_restoreShared_rest (k : Nat) (l : List Shared) (s : State) :
    (l.foldl (fun s x => s.restoreShared k x) s).cores = s.cores
      ∧ ((∀ x ∈ l, x.tags = []) → (l.foldl (fun s x => s.restoreShared k x) s).mem = s.mem) := by
  induction l generalizing s with
  | nil => exact ⟨rfl, fun _ => rfl⟩
  | cons x l ih =>
    obtain ⟨h1, h2⟩ := s.restoreShared_rest k x
    obtain ⟨g1, g2⟩ := ih (s.restoreShared k x)
    exact ⟨g1.trans h1, fun h => (g2 fun y hy => h y (List.mem_cons_of_mem _ hy)).trans (h2 (h x (List.mem_cons_self ..)))⟩

/-- The device with core `k` gone back to an access (R136). -/
theorem State.rollTo_spec {s : State} {k : Nat} {a : Access} {key bits : Nat} {sext : Bool} (hd : a.dest = .x key bits sext) (hvq : (s.core k).vq = [])
    (hti : (s.core k).timers = []) :
    (s.core k).RolledBack ((s.rollTo k a).core k) a key
      ∧ ((∀ e ∈ (s.core k).undo, ∀ y, e.shared = some y → y.tags = []) → (s.rollTo k a).mem = s.mem) := by
  obtain ⟨h1, h2⟩ := State.foldl_restoreShared_rest k ((s.core k).undo.filterMap (·.shared)) s
  change (s.undoShared k).cores = _ at h1
  change _ → (s.undoShared k).mem = _ at h2
  have hcore : (s.rollTo k a).core k = (((s.undoShared k).core k).rollback a).unlog a.instret.toNat :=
    State.core_modCore_same ((s.undoShared k).dropWaits k) k fun c => (c.rollback a).unlog a.instret.toNat
  have hc : (s.undoShared k).core k = s.core k := by rw [State.core, h1, State.core]
  refine ⟨?_, fun h => h2 fun x hx => ?_⟩
  · rw [hcore, hc]
    exact (Core.rollback_spec hd hvq hti).unlog _
  · obtain ⟨e, he, hs⟩ := List.mem_filterMap.1 hx
    exact h e he x hs

/-! The trap that follows. -/

/-- A fresh frame is of the scalar registers alone. -/
theorem Core.freshFrame_rest (c : Core) (d : Nat) : (c.freshFrame d).vs = c.vs ∧ (c.freshFrame d).out = c.out ∧ (c.freshFrame d).undo = c.undo
    ∧ (c.freshFrame d).fetch = c.fetch := by
  unfold Core.freshFrame
  exact ⟨rfl, rfl, rfl, rfl⟩

/-- A frame pushed leaves vector registers, accesses, the undo log and the held fetch. -/
theorem Core.pushFrame_rest (c : Core) : c.pushFrame.vs = c.vs ∧ c.pushFrame.out = c.out ∧ c.pushFrame.undo = c.undo ∧ c.pushFrame.fetch = c.fetch := by
  obtain ⟨e, he⟩ := ((c.modCtx fun x => { x with depth := c.ctx.depth + 1 }).freshFrame (c.ctx.depth + 1)).startSpill_eq
  obtain ⟨h1, h2, h3, h4⟩ := (c.modCtx fun x => { x with depth := c.ctx.depth + 1 }).freshFrame_rest (c.ctx.depth + 1)
  unfold Core.pushFrame
  dsimp only
  rw [he]
  exact ⟨h1, h2, h3, h4⟩

/-- The core that pushes its handler's frame. -/
def Core.trapping (c : Core) (cause : Nat) (tval : XWord) : Core :=
  ({ c with trapWait := none } : Core).modCtx fun x =>
    { x with
      epc := c.pc, cause := BitVec.ofNat 8 cause, tval := tval
      status := { x.status with tdepth := BitVec.ofNat 16 x.depth, intrap := true, decline := false } }

/-- Then its PC is the handler's. -/
theorem Core.trapped_eq (c : Core) (cause : Nat) (tval : XWord) :
    c.trapped cause tval = { (c.trapping cause tval).pushFrame with pc := c.ctx.tvecAddr ++ (0 : BitVec 2) } := rfl

/-- What a core in its handler has of what it had (R355). -/
theorem Core.trapped_rest (c : Core) (cause : Nat) (tval : XWord) :
    (c.trapped cause tval).vs = c.vs ∧ (c.trapped cause tval).out = c.out ∧ (c.trapped cause tval).undo = c.undo
      ∧ (c.trapped cause tval).fetch = c.fetch ∧ ∀ n, n < 16 * c.ctx.depth + 32 → (c.trapped cause tval).regAt n = c.regAt n := by
  obtain ⟨h1, h2, h3, h4⟩ := (c.trapping cause tval).pushFrame_rest
  refine ⟨?_, ?_, ?_, ?_, fun n hn => ?_⟩
  · rw [Core.trapped_eq]; exact h1
  · rw [Core.trapped_eq]; exact h2
  · rw [Core.trapped_eq]; exact h3
  · rw [Core.trapped_eq]; exact h4
  · have h := Core.regAt_freshFrame (c.modCtx fun x => { x with depth := c.ctx.depth + 1 }) (c.ctx.depth + 1) n
    rw [if_neg (by omega)] at h
    rw [Core.regAt, Core.trapped_xs, Core.pushFrame, Core.startSpill_xs]
    exact h

/-- The oldest access that has failed rolls its core back and traps (R136). -/
theorem State.loadFailure_eq {s : State} {k : Nat} {a : Access} {rest : List Access} (hfin : (s.core k).finish = none) (hact : (s.core k).act ≠ none)
    (hheld : (s.core k).held = none) (hout : (s.core k).out = a :: rest) {tval cause : Nat}
    (hst : a.st = .failed tval ∧ cause = 8 ∨ a.st = .underflow tval ∧ cause = 10) :
    s.loadFailure k = (s.rollTo k a).takeTrap k cause (BitVec.ofNat 64 ((if cause = 8 then tval * 2 ^ 56 else tval * 2 ^ 60) + a.va.toNat % 2 ^ 48)) := by
  have hrun : ((s.core k).finish.isSome || (s.core k).act.isNone || (s.core k).held.isSome) = false := by
    rw [hfin, hheld]
    simpa [Option.isSome_iff_ne_none] using hact
  unfold State.loadFailure
  dsimp only
  rw [hrun, if_neg Bool.false_ne_true, hout]
  dsimp only
  rcases hst with ⟨h, rfl⟩ | ⟨h, rfl⟩
  · rw [h]; rfl
  · rw [h]; rfl

/-- A failed access, its handler ready: the core goes back to it, and then enters the handler (R136). -/
theorem State.loadFailure_spec {s : State} {k : Nat} {a : Access} {rest : List Access} (hfin : (s.core k).finish = none) (hact : (s.core k).act ≠ none)
    (hheld : (s.core k).held = none) (hout : (s.core k).out = a :: rest) {tval cause : Nat}
    (hst : a.st = .failed tval ∧ cause = 8 ∨ a.st = .underflow tval ∧ cause = 10) {key bits : Nat} {sext : Bool} (hd : a.dest = .x key bits sext)
    (hvq : (s.core k).vq = []) (hti : (s.core k).timers = []) {was : Ctx} (hwas : ((s.core k).undo.getLast?.map UndoEntry.ctx).getD (s.core k).ctx = was)
    (htv : was.tvecEn = true) (hin : was.status.intrap = false) (hdepth : was.depth < 65535) (hslots : 0 < ({ s.core k with ctx := was } : Core).freeSlots) :
    ∃ w : State, (s.core k).RolledBack (w.core k) a key ∧ ((∀ e ∈ (s.core k).undo, ∀ y, e.shared = some y → y.tags = []) → w.mem = s.mem)
      ∧ w.Trapped (s.loadFailure k) k cause (BitVec.ofNat 64 ((if cause = 8 then tval * 2 ^ 56 else tval * 2 ^ 60) + a.va.toNat % 2 ^ 48)) := by
  obtain ⟨hback, hmem⟩ := State.rollTo_spec (s := s) (k := k) (a := a) hd hvq hti
  rw [State.loadFailure_eq hfin hact hheld hout hst]
  generalize s.rollTo k a = w at hback hmem
  have hx : (w.core k).ctx = { was with instret := a.instret } := hback.ctx.trans (by rw [hwas])
  refine ⟨w, hback, hmem, State.takeTrap_trapped ?_ _ _⟩
  have hc : ({ w with cur := k } : State).c = w.core k := rfl
  have hslot : (w.core k).freeSlots = ({ s.core k with ctx := was } : Core).freeSlots := by
    unfold Core.freeSlots Core.nwin
    rw [hx, hback.carve]
  constructor <;> rw [hc]
  · rw [hx]; exact htv
  · rw [hx]; exact hin
  · rw [hx]; exact hdepth
  · rw [hslot]; exact hslots
  · exact hback.vq
  · exact hback.timers
  · exact hback.out

end Sys2Proof.Machine
end

section
/-! Acknowledgements at their holder (spec/06_memory.md R139, R140, spec/17_network.md R402), and error records (spec/18_frontend.md R439). -/

namespace Sys2Proof.Machine

/-! Error records. -/

/-- A job's error queue with a record more. -/
def State.errQueued (s : State) (job : Nat) (r : ErrRec) : State :=
  s.modJob job fun j =>
    if j.errs.length < 2 ^ j.errLog then { j with errs := j.errs ++ [r], errTotal := j.errTotal + 1 }
    else { j with errs := j.errs.drop 1 ++ [r], errTotal := j.errTotal + 1, errOver := j.errOver + 1 }

/-- A record is appended to the queue, and written to the ring. -/
theorem State.appendErr_eq (s : State) (job : Nat) (r : ErrRec) : s.appendErr job r = (s.errQueued job r).store (s.errSlot job) 32 r.word.toNat := rfl

/-- The queue, with room, has the record last. -/
theorem State.errQueued_errs {s : State} {job : Nat} (h : s.ErrRoom job) (r : ErrRec) : ((s.errQueued job r).job job).errs = (s.job job).errs ++ [r] := by
  rw [State.errQueued, State.job_modJob_same, if_pos (show (s.job job).errs.length < 2 ^ (s.job job).errLog from h)]

/-- A record appended to a queue with room (R439). -/
theorem State.appendErr_recorded {s : State} (hm : s.MemOk) {job : Nat} (hr : s.ErrRoom job) (r : ErrRec) : s.Recorded (s.appendErr job r) job r := by
  have hq := State.errQueued_errs hr r
  have hmem : (s.errQueued job r).mem = s.mem := rfl
  have hok : (s.errQueued job r).MemOk := hm
  rw [State.appendErr_eq]
  generalize s.errQueued job r = u at hq hmem hok
  constructor
  case queue => rw [State.job, State.store_jobs, ← State.job]; exact hq
  case ring =>
    rw [State.load_store _ _ _ _ hok, pow_256_eq_two_pow]
    exact Nat.mod_eq_of_lt r.word.isLt
  case others =>
    intro p hp
    rw [State.byte_store _ _ _ _ _ hok hp, State.byte, hmem, State.byte]

/-- A record leaves the cores and the endpoints. -/
theorem State.appendErr_rest (s : State) (job : Nat) (r : ErrRec) : (s.appendErr job r).cores = s.cores ∧ (s.appendErr job r).eps = s.eps := by
  rw [State.appendErr_eq, State.store_cores, State.store_eps, State.errQueued, State.modJob_cores, State.modJob_eps]
  exact ⟨rfl, rfl⟩

/-- A record tells only of bytes, jobs and the ring's slot. -/
theorem State.Recorded.of_same {s u t : State} {job : Nat} {e : ErrRec} (h : u.Recorded t job e) (hm : u.mem = s.mem) (hj : u.jobs = s.jobs) :
    s.Recorded t job e := by
  have hjob : u.job job = s.job job := by rw [State.job, hj, State.job]
  have hslot : u.errSlot job = s.errSlot job := by rw [State.errSlot, hjob, State.errSlot]
  refine ⟨by rw [h.queue, hjob], by rw [← hslot]; exact h.ring, fun p hp => ?_⟩
  rw [h.others p (by rwa [hslot]), State.byte, hm, State.byte]

/-! Acknowledgements. -/

/-- A posted operation that is outstanding no more. -/
def State.postedGone (s : State) (q : Posted) : State :=
  s.modCore q.core fun c => { c.staleLine q.line with posted := c.posted.filter fun x => decide (x.id ≠ q.id) }

/-- The end of a posted operation that is of no copy (R139, R140). -/
theorem State.postedDone_eq (s : State) {q : Posted} (hc : q.copy = none) (f : Nat) :
    s.postedDone q f = if f ≠ 0 then (s.postedGone q).postedErr q f else s.postedGone q := by
  unfold State.postedDone
  simp only [hc, Option.isNone_none, and_true]
  rfl

/-- It changes its core alone. -/
theorem State.postedGone_rest (s : State) (q : Posted) : (s.postedGone q).mem = s.mem ∧ (s.postedGone q).jobs = s.jobs ∧ (s.postedGone q).eps = s.eps :=
  ⟨rfl, rfl, rfl⟩

/-- There its operation is gone. -/
theorem State.postedGone_core (s : State) (q : Posted) : ((s.postedGone q).core q.core).posted = (s.core q.core).posted.filter fun x => decide (x.id ≠ q.id) := by
  rw [State.postedGone, State.core_modCore_same]

/-- The record of a failed store or mark (R140). -/
theorem State.postedErr_recorded {s : State} (hm : s.MemOk) {q : Posted} (hr : s.ErrRoom q.job) {f : Nat} (hk : q.kind ≤ 2) (hf : f < 65536) :
    ∃ e, s.Recorded (s.postedErr q f) q.job e ∧ e.addr = q.va ∧ e.cause.toNat = f ∧ e.kind.toNat = q.kind ∧ e.src = BitVec.ofNat 16 q.core := by
  refine ⟨_, State.appendErr_recorded hm hr _, if_neg (by omega), ?_, ?_, rfl⟩
  · exact (BitVec.toNat_ofNat ..).trans (Nat.mod_eq_of_lt hf)
  · exact (BitVec.toNat_ofNat ..).trans (Nat.mod_eq_of_lt (by omega))

/-- An acknowledgement at the core that holds its posted operation (R402). -/
theorem State.ackIn_posted {s : State} {ep rtag gen : Nat} {r : Retain} {q : Posted} (hcore : isCore ep = true) (h : s.retained ep rtag gen = some r)
    (hb : r.pkt.body = .posted q) (seq src f : Nat) : s.ackIn ep rtag gen seq src f = (s.freeRetain ep rtag gen src seq).postedDone q f := by
  obtain ⟨hruns, hhome⟩ := epRuns_of_isCore hcore
  unfold State.ackIn
  rw [h]
  dsimp only
  rw [hb]
  dsimp only
  rw [State.postedEnd, hhome, hruns]
  rfl

/-- The entry of an acknowledgement goes with its last copy. -/
theorem State.freeRetain_freed {s : State} {ep rtag gen : Nat} (h : ∀ x ∈ (s.ep ep).retain, x.rtag = rtag → x.gen = gen → x.waits ≤ 1) (dst seq : Nat) :
    ∀ x ∈ ((s.freeRetain ep rtag gen dst seq).ep ep).retain, ¬ (x.rtag = rtag ∧ x.gen = gen) := by
  intro x hx ⟨hr, hg⟩
  rw [State.freeRetain, State.ep_modEp, if_pos rfl] at hx
  obtain ⟨hm, hw⟩ := List.mem_filter.1 hx
  obtain ⟨y, hy, rfl⟩ := List.mem_map.1 hm
  by_cases hyr : y.rtag = rtag ∧ y.gen = gen
  · rw [if_pos hyr] at hw
    have hle := h y hy hyr.1 hyr.2
    have : 0 < y.waits - 1 := of_decide_eq_true hw
    omega
  · rw [if_neg hyr] at hr hg
    exact hyr ⟨hr, hg⟩

/-- Entries freed leave the streams, memory, jobs and cores. -/
theorem State.freeRetain_rest (s : State) (ep rtag gen dst seq : Nat) : s.SameStreams (s.freeRetain ep rtag gen dst seq)
    ∧ (s.freeRetain ep rtag gen dst seq).mem = s.mem ∧ (s.freeRetain ep rtag gen dst seq).jobs = s.jobs ∧ (s.freeRetain ep rtag gen dst seq).cores = s.cores := by
  have h : s.Aside 0 (s.freeRetain ep rtag gen dst seq) := State.aside_modEp s 0 ep _ fun _ => rfl
  exact ⟨h.streams, rfl, rfl, rfl⟩

/-- An acknowledgement that arrives at the core that holds its posted operation. -/
structure State.Acked (s t : State) (ep rtag gen : Nat) (q : Posted) (f : Nat) : Prop where
  streams : s.SameStreams t
  posted : (t.core q.core).posted = (s.core q.core).posted.filter fun x => decide (x.id ≠ q.id)
  retain : (∀ x ∈ (s.ep ep).retain, x.rtag = rtag → x.gen = gen → x.waits ≤ 1) → ∀ x ∈ (t.ep ep).retain, ¬ (x.rtag = rtag ∧ x.gen = gen)
  good : f = 0 → t.jobs = s.jobs ∧ t.mem = s.mem
  record : s.MemOk → f ≠ 0 → q.kind ≤ 2 → s.ErrRoom q.job → f < 65536 →
    ∃ e, s.Recorded t q.job e ∧ e.addr = q.va ∧ e.cause.toNat = f ∧ e.kind.toNat = q.kind ∧ e.src = BitVec.ofNat 16 q.core

/-- The posted operation has ended, its entry is freed; a failure is a record (R139, R140, R402). -/
theorem State.ackIn_acked {s : State} {ep rtag gen : Nat} {r : Retain} {q : Posted} (hcore : isCore ep = true) (h : s.retained ep rtag gen = some r)
    (hb : r.pkt.body = .posted q) (hc : q.copy = none) (seq src f : Nat) : s.Acked (s.ackIn ep rtag gen seq src f) ep rtag gen q f := by
  rw [State.ackIn_posted hcore h hb, State.postedDone_eq _ hc]
  obtain ⟨u1, u2, u3, u4⟩ := s.freeRetain_rest ep rtag gen src seq
  have u5 (hw : ∀ x ∈ (s.ep ep).retain, x.rtag = rtag → x.gen = gen → x.waits ≤ 1) := State.freeRetain_freed hw src seq
  generalize s.freeRetain ep rtag gen src seq = u at u1 u2 u3 u4 u5
  obtain ⟨g1, g2, g3⟩ := u.postedGone_rest q
  have g4 := u.postedGone_core q
  have hu : u.core q.core = s.core q.core := by rw [State.core, u4, State.core]
  rw [hu] at g4
  generalize u.postedGone q = w at g1 g2 g3 g4
  obtain ⟨e1, e2⟩ : (w.postedErr q f).cores = w.cores ∧ (w.postedErr q f).eps = w.eps := w.appendErr_rest _ _
  constructor
  case streams =>
    have hw : s.SameStreams w := u1.trans fun e => by rw [State.ep, g3, State.ep]
    split
    · exact hw.trans fun e => by rw [State.ep, e2, State.ep]
    · exact hw
  case posted =>
    split
    · rw [State.core, e1, ← State.core]; exact g4
    · exact g4
  case retain =>
    intro hw
    split
    · rw [State.ep, e2, g3, ← State.ep]; exact u5 hw
    · rw [State.ep, g3, ← State.ep]; exact u5 hw
  case good =>
    intro h0
    rw [if_neg (not_not.2 h0)]
    exact ⟨g2.trans u3, g1.trans u2⟩
  case record =>
    intro hm h0 hk hr hf
    rw [if_pos h0]
    have hj : w.jobs = s.jobs := g2.trans u3
    have hmem : w.mem = s.mem := g1.trans u2
    have hr' : w.ErrRoom q.job := by rw [State.ErrRoom, State.job, hj, ← State.job]; exact hr
    obtain ⟨e, he, hrest⟩ := State.postedErr_recorded (s := w) (by rw [State.MemOk, hmem]; exact hm) hr' hk hf
    exact ⟨e, he.of_same hmem hj, hrest⟩

end Sys2Proof.Machine
end

section
/-! The statement on replies (spec/06_memory.md R128 to R143). -/

namespace Sys2Proof.Machine

/-- The value that one part gives a load of whole bytes. -/
theorem Access.assemble_given {a : Access} {part : Part} {i o n : Nat} (hp : a.parts = [part]) (hi : i = 0) (hs : a.pieces = [⟨0, 8 * o, 8 * n, 0⟩])
    (d : BitVec 1024) : ((a.given i d).parts.all fun p => p.got.isSome) = true ∧ (a.given i d).assemble = lineBytes d o n := by
  have hparts : (a.given i d).parts = [{ part with got := some d }] := by
    rw [Access.given, hp, hi]; rfl
  have hpieces : (a.given i d).pieces = [⟨0, 8 * o, 8 * n, 0⟩] := hs
  refine ⟨by rw [hparts]; rfl, ?_⟩
  rw [Access.assemble, hpieces, hparts]
  simp [lineBytes]

/-- A value of 64 bits is itself. -/
theorem extendTo64_full (v : XWord) : extendTo64 64 false v.toNat = v := by
  rw [extendTo64_eq false (by decide) (by decide) v.isLt, if_neg Bool.false_ne_true, BitVec.ofNat_toNat, BitVec.setWidth_eq]

/-- Settles O49: the replies of loads, atomics, probes and counters, the time limit, the rollback and its trap, and acknowledgements. -/
theorem coresTakeReplies : Obligations.CoresTakeReplies := by
  unfold Obligations.CoresTakeReplies
  intro pid k id p a s c fresh ends fails found
  refine ⟨fun ha _ hcore hdst hfound hst hacq => ?_, fun hfound hremote => ⟨fun hlate => ?_, fun hlate => ?_⟩,
    fun rest key bits sext cause tval hfin hact hheld hout hd hvq hti hst => ?_, fun rtag gen seq f r q ha hm hcore hb hret hbody hcopy hwaits => ?_⟩
  · have hfound : (s.core k).out.find? (fun b => decide (b.id = id)) = some a := hfound
    have hid : a.id = id := by simpa using List.find?_some hfound
    have hf {u : State} (hu : u.core k = s.core k) : (u.core k).out.find? (fun b => decide (b.id = id)) = some a := by rw [hu]; exact hfound
    have hlat {u : State} (hu : u.core k = s.core k) : ((u.latAdd k p).core k).out.find? (fun b => decide (b.id = id)) = some a := by
      rw [State.latAdd_out]; exact hf hu
    refine ⟨fun r f d hb hcopy hrk howner => ⟨fun z key sext part o h0 hparts hpart hk hd hpieces hfl => ?_, fun h0 => ?_⟩,
      fun f old fl va key hb => ⟨fun h0 hk hd => ?_, fun h0 => ?_⟩, fun w key hb hk hd hfl => ?_,
      fun f u v z d1 d2 d3 kind va key hb => ⟨fun h0 hu0 hkind hk hd hfl => ?_, fun h0 => ?_, fun h0 hu0 => ?_⟩⟩
    · obtain ⟨hgot, hval⟩ := Access.assemble_given hparts hpart hpieces d
      obtain ⟨hn, hn8⟩ := sizeBytes_bounds z
      obtain ⟨t, ht, hends, -⟩ := ha.ended (kind := fun b => match b with | .readRep r _ _ => !r.copy | _ => false) (by rw [hb]; simp [hcopy])
        (a := a.given r.part d) (v := (a.given r.part d).assemble) (fun u hu => by
          rw [State.acceptOne_readRep hcore hb hrk hcopy, h0]
          exact (State.readReply_ended (howner ▸ hlat hu) hst hacq hgot _ _).of_spares ((u.aside_latAdd k p).spares _)) hd hk
      have hlt : lineBytes d o (sizeBytes z) < 2 ^ (8 * sizeBytes z) := Nat.mod_lt _ (by positivity)
      rw [hval, extendTo64_eq sext (by omega) (by omega) hlt] at hends
      subst hid
      exact ⟨t, congrArg Host.Outcome.next ht, hends⟩
    · obtain ⟨t, ht, hmark⟩ := ha.marked (kind := fun b => match b with | .readRep r _ _ => !r.copy | _ => false) (by rw [hb]; simp [hcopy])
        (k := k) (id := id) (st := .failed f) fun u hu => by
          rw [State.acceptOne_readRep hcore hb hrk hcopy, ← howner]
          exact (State.readReply_marked (howner ▸ hlat hu) hst h0 _ _ _).of_aside (u.aside_latAdd k p)
      exact ⟨t, congrArg Host.Outcome.next ht, hmark⟩
    · obtain ⟨t, ht, hends, hflags⟩ := ha.ended (kind := fun b => match b with | .atomicRep _ _ _ _ _ => true | _ => false) (by rw [hb])
        (a := { a with flags := fl }) (v := old.toNat) (fun u hu => by
          rw [State.acceptOne_atomicRep hcore hdst hb, h0]
          exact (State.atomicReply_ended (hf hu) hst hacq _ _ _).ack _ _) hd hk
      rw [extendTo64_full] at hends
      subst hid
      exact ⟨t, congrArg Host.Outcome.next ht, hends, hflags⟩
    · obtain ⟨t, ht, hmark⟩ := ha.marked (kind := fun b => match b with | .atomicRep _ _ _ _ _ => true | _ => false) (by rw [hb])
        (k := k) (id := id) (st := .failed f) fun u hu => by
          rw [State.acceptOne_atomicRep hcore hdst hb]
          exact (State.atomicReply_marked (hf hu) hst h0 _ _ _).ack _ _
      exact ⟨t, congrArg Host.Outcome.next ht, hmark⟩
    · obtain ⟨t, ht, hends, -⟩ := ha.ended (kind := fun b => match b with | .probeRep _ _ => true | _ => false) (by rw [hb])
        (a := a) (v := w.toNat) (fun u hu => by
          rw [State.acceptOne_probeRep hcore hdst hb (hf hu)]
          exact (State.accessGood_ended _ k _ hacq).of_spares ((u.aside_latAdd k p).spares _)) hd hk
      rw [extendTo64_full] at hends
      subst hid
      exact ⟨t, congrArg Host.Outcome.next ht, hends⟩
    · obtain ⟨t, ht, hends, -⟩ := ha.ended (kind := fun b => match b with | .counterRep _ _ _ _ _ _ _ _ _ _ => true | _ => false) (by rw [hb])
        (a := a) (v := v.toNat) (fun w hw => by
          rw [State.acceptOne_counterRep hcore hdst hb, h0, hu0, hkind]
          exact (State.counterReplyIn_ended (hf hw) hst hacq _ _ _ _ _ _).ack _ _) hd hk
      rw [extendTo64_full] at hends
      subst hid
      exact ⟨t, congrArg Host.Outcome.next ht, hends⟩
    · obtain ⟨t, ht, hmark⟩ := ha.marked (kind := fun b => match b with | .counterRep _ _ _ _ _ _ _ _ _ _ => true | _ => false) (by rw [hb])
        (k := k) (id := id) (st := .failed f) fun w hw => by
          rw [State.acceptOne_counterRep hcore hdst hb]
          exact (State.counterReplyIn_marked (hf hw) hst h0 _ _ _ _ _ _ _ _).ack _ _
      exact ⟨t, congrArg Host.Outcome.next ht, hmark⟩
    · obtain ⟨t, ht, hmark⟩ := ha.marked (kind := fun b => match b with | .counterRep _ _ _ _ _ _ _ _ _ _ => true | _ => false) (by rw [hb])
        (k := k) (id := id) (st := .underflow u) fun w hw => by
          rw [State.acceptOne_counterRep hcore hdst hb, h0]
          exact (State.counterReplyIn_under (hf hw) hst hu0 _ _ _ _ _ _ _).ack _ _
      exact ⟨t, congrArg Host.Outcome.next ht, hmark⟩
  · have hfound : (s.core k).out.find? (fun b => decide (b.id = id)) = some a := hfound
    have heq : s.replyTimeout k id = s.accessFailed k id (.failed 4) := by
      rw [State.replyTimeout, hfound]
      dsimp only
      rw [hremote, decide_eq_true (show a.issued + Config.giveUp ≤ s.dtime from hlate)]
      rfl
    obtain ⟨hmem, -, b, hb, hst⟩ := State.accessFailed_marked hfound (.failed 4)
    exact ⟨_, congrArg Host.Outcome.next heq, b, hb, hst, State.bytesSame_of_mem hmem⟩
  · have hfound : (s.core k).out.find? (fun b => decide (b.id = id)) = some a := hfound
    have heq : s.replyTimeout k id = s := by
      have hlate : ¬ a.issued + Config.giveUp ≤ s.dtime := not_le.2 hlate
      rw [State.replyTimeout, hfound]
      dsimp only
      rw [hremote, decide_eq_false hlate]
      rfl
    exact congrArg Host.Outcome.next heq
  · intro was oldX oldV htv hin hdepth hslots
    obtain ⟨w, hback, hmem, htrap⟩ := State.loadFailure_spec (s := s) hfin hact hheld hout hst hd hvq hti (was := was) rfl htv hin hdepth hslots
    obtain ⟨hx, hv, hctx, hpc, hout', hundo, -, -, -⟩ := hback
    have hwas : (w.core k).ctx = { was with instret := a.instret } := hctx
    obtain ⟨h1, h2, h3, h4⟩ := htrap.registers
    obtain ⟨r1, r2, r3, -, r4⟩ := (w.core k).trapped_rest cause
      (BitVec.ofNat 64 ((if cause = 8 then tval * 2 ^ 56 else tval * 2 ^ 60) + a.va.toNat % 2 ^ 48))
    obtain ⟨n, hn⟩ := htrap.core
    have hctx' := htrap.ctx
    rw [Core.trapped_ctx, hwas] at hctx'
    refine ⟨_, rfl, h1.trans hpc, h2, h3, htrap.pc.trans (by rw [hwas]), h4.trans (by rw [hwas]), ?_, ?_, fun x hxlt => ?_, fun x => ?_, by rw [hctx'],
      by rw [hctx'], by rw [hctx'], fun htags => State.bytesSame_of_mem (htrap.mem.trans (hmem htags))⟩
    · rw [hn]; exact r2.trans hout'
    · rw [hn]; exact r3.trans hundo
    · rw [hn]
      exact (r4 x (by rw [hwas]; exact hxlt)).trans (hx x)
    · rw [hn]
      exact (congrArg (fun m => Map.get ({} : VReg) m x) r1).trans (hv x)
  · have hret' {u : State} (hu : s.Taken pid u) : u.retained p.dst rtag gen = some r := by rw [State.retained, hu.retain, ← State.retained]; exact hret
    have hacc (u : State) : u.acceptOne p = u.ackIn p.dst rtag gen seq p.src f := by simp only [State.acceptOne, hb]
    obtain ⟨u, hu, ht⟩ := ha.arrive (kind := fun b => match b with | .ack _ _ _ _ => true | _ => false) (by rw [hb]) fun u hu => by
      rw [hacc]; exact (State.ackIn_acked hcore (hret' hu) hbody hcopy seq p.src f).streams
    rw [hacc] at ht
    obtain ⟨-, hposted, hretain, hgood, hrecord⟩ := State.ackIn_acked hcore (hret' hu) hbody hcopy seq p.src f
    rw [hu.core] at hposted
    rw [hu.retain] at hretain
    refine ⟨_, congrArg Host.Outcome.next ht, hposted, hretain hwaits, fun h0 => ?_, fun h0 hk hr hf => ?_⟩
    · obtain ⟨hj, hmem⟩ := hgood h0
      exact ⟨hj.trans hu.jobs, State.bytesSame_of_mem (hmem.trans hu.mem)⟩
    · have hr' : u.ErrRoom q.job := by rw [State.ErrRoom, State.job, hu.jobs, ← State.job]; exact hr
      obtain ⟨e, he, hrest⟩ := hrecord (hu.memOk hm) h0 hk hr' hf
      exact ⟨e, he.of_same hu.mem hu.jobs, hrest⟩

end Sys2Proof.Machine
end

section
/-! Code misses (spec/06_memory.md R146, spec/15_system.md R353). -/

namespace Sys2Proof.Machine

/-! The miss told. -/

/-- A miss that is not told yet joins the pool, with room. -/
theorem State.postMiss_posts {s : State} {k : Nat} {h : FetchHold} (hf : (s.core k).fetch = some h) (ht : h.taken = false) (hr : s.eventRoom = true) :
    s.postMiss k = { (s.modCore k fun c => { c with fetch := some { h with taken := true } }) with
      feEvents := s.feEvents ++ [.codeMiss k (s.core k).jobNum h.addr] } := by
  simp only [State.postMiss, hf, ht, hr, Bool.not_true, Bool.or_self, Bool.false_eq_true, if_false]

/-- One that is told, or finds no room, waits. -/
theorem State.postMiss_waits {s : State} {k : Nat} {h : FetchHold} (hf : (s.core k).fetch = some h) (hw : h.taken = true ∨ s.eventRoom = false) :
    s.postMiss k = s := by
  have hb : (h.taken || !s.eventRoom) = true := by
    rcases hw with hw | hw <;> simp [hw]
  simp only [State.postMiss, hf, hb, if_true]

/-! The block of the image. -/

/-- A fold that lengthens a list by one at each of its steps, or fails, gives one entry to each step. -/
theorem length_of_foldr {α β : Type} {f : α → Option (List β) → Option (List β)} (hf : ∀ i r bs, f i r = some bs → ∃ l, r = some l ∧ bs.length = l.length + 1)
    {is : List α} {bs : List β} (h : is.foldr f (some []) = some bs) : bs.length = is.length := by
  induction is generalizing bs with
  | nil => cases h; rfl
  | cons i is ih =>
    obtain ⟨l, hl, hlen⟩ := hf i _ bs h
    rw [hlen, ih hl, List.length_cons]

/-- A block of a job's image has its 4,096 bytes. -/
theorem State.codeBlock_length {s : State} {job block : Nat} {bs : List Byte} (h : s.codeBlock job block = some bs) : bs.length = 4096 := by
  unfold State.codeBlock at h
  dsimp only at h
  split at h
  · cases h
  · refine (length_of_foldr (fun i r bs hb => ?_) h).trans List.length_range
    split at hb
    · next l p _ =>
      split at hb
      · cases hb; exact ⟨l, rfl, rfl⟩
      · cases hb
    · cases hb

/-! The block in the store. -/

/-- Where a block of a store lies. -/
def blockPlace (g i : Nat) : Nat := placeStore g (0x80000 + 4096 * i)

/-- The blocks lie below the tags. -/
theorem blockPlace_tagPlace {g i : Nat} (hi : i < 16) : blockPlace g i + 4096 ≤ tagPlace g i := by
  simp only [blockPlace, tagPlace, placeStore, placePad]
  omega

/-- Fleiz's choice of a block changes free values at most. -/
theorem State.victimBlock_spec (s : State) (g : Nat) : ∃ i n, i < 16 ∧ s.victimBlock g = (i, { s with free := n }) := by
  unfold State.victimBlock
  split
  · next i hi => exact ⟨i, s.free, List.mem_range.1 (List.mem_of_find?_eq_some hi), rfl⟩
  · exact ⟨_, _, Nat.mod_lt _ (by decide), rfl⟩

/-- Without a software breakpoint in the block, none is patched. -/
theorem State.patchBlock_none {s : State} {job block : Nat} (h : ∀ p ∈ (s.job job).patches, p.on = true → p.addr.toNat / 4096 ≠ block) (g i : Nat) :
    s.patchBlock g job block i = s := by
  have gen (l : List Patch) (hl : ∀ p ∈ l, p.on = true → p.addr.toNat / 4096 ≠ block) :
      l.foldl (fun (s : State) p => if p.on && decide (p.addr.toNat / 4096 = block)
        then s.store (placeStore g (0x80000 + 4096 * i + p.addr.toNat % 4096)) 4 ebreakWord.toNat else s) s = s := by
    induction l with
    | nil => rfl
    | cons p l ih =>
      have hp : (p.on && decide (p.addr.toNat / 4096 = block)) = false := by
        cases hon : p.on
        · rfl
        · exact decide_eq_false (hl p (List.mem_cons_self ..) hon)
      rw [List.foldl_cons, hp, if_neg Bool.false_ne_true]
      exact ih fun q hq => hl q (List.mem_cons_of_mem _ hq)
  exact gen _ h

/-- A block of a cluster's store has been written and tagged (R146). -/
structure State.BlockLoaded (s t : State) (g i tag : Nat) (bs : List Byte) : Prop where
  tag : t.blockTag g i = tag
  bytes : Memory.readList t.mem (blockPlace g i) bs.length = bs
  memOk : t.MemOk
  others : ∀ q, (q < blockPlace g i ∨ blockPlace g i + bs.length ≤ q) → (q < tagPlace g i ∨ tagPlace g i + 8 ≤ q) → t.byte q = s.byte q

/-- Bytes and then their tag written. -/
theorem State.blockLoaded_store {s : State} (hm : s.MemOk) {g i tag : Nat} {bs : List Byte} (hb : blockPlace g i + bs.length ≤ tagPlace g i) (ht : tag < 2 ^ 64) :
    s.BlockLoaded ((s.storeList (blockPlace g i) bs).store (tagPlace g i) 8 tag) g i tag bs := by
  have hm' : (s.storeList (blockPlace g i) bs).MemOk := hm.storeList ..
  constructor
  case tag =>
    rw [State.blockTag, State.load_store _ _ _ _ hm', pow_256_eq_two_pow]
    exact Nat.mod_eq_of_lt ht
  case bytes =>
    refine (Memory.readList_congr _ (s.storeList (blockPlace g i) bs).mem _ _ fun q _ h2 => ?_).trans (Memory.readList_writeList bs s.mem (blockPlace g i) hm)
    exact State.byte_store _ _ _ _ _ hm' (.inl (by omega))
  case memOk => exact hm'.storeList ..
  case others =>
    intro q h1 h2
    rw [State.byte_store _ _ _ _ _ hm' h2, State.byte_storeList_outside _ _ _ _ hm h1]

/-- A block without software breakpoints is loaded into one of the store (R146). -/
theorem State.loadBlock_loaded {s : State} (hm : s.MemOk) {g job block : Nat} (h : ∀ p ∈ (s.job job).patches, p.on = true → p.addr.toNat / 4096 ≠ block)
    {bs : List Byte} (hlen : bs.length = 4096) (hblock : block < 2 ^ 20) :
    ∃ i, i < 16 ∧ s.BlockLoaded (s.loadBlock g job block bs) g i (2 ^ 63 + job % 256 * 2 ^ 40 + block * 4096) bs := by
  obtain ⟨i, n, hi, hv⟩ := s.victimBlock_spec g
  have htag : 2 ^ 63 + job % 256 * 2 ^ 40 + block * 4096 < 2 ^ 64 := by omega
  have hplace : blockPlace g i + bs.length ≤ tagPlace g i := by rw [hlen]; exact blockPlace_tagPlace hi
  have hloaded := State.blockLoaded_store (s := { s with free := n }) hm hplace htag
  have heq : s.loadBlock g job block bs =
      (({ s with free := n } : State).storeList (blockPlace g i) bs).store (tagPlace g i) 8 (2 ^ 63 + job % 256 * 2 ^ 40 + block * 4096) := by
    unfold State.loadBlock
    rw [hv]
    refine State.patchBlock_none
      (s := (({ s with free := n } : State).storeList (blockPlace g i) bs).store (tagPlace g i) 8 (2 ^ 63 + job % 256 * 2 ^ 40 + block * 4096)) ?_ g i
    rw [State.store_job, State.storeList_job]
    exact h
  rw [heq]
  exact ⟨i, hi, hloaded.tag, hloaded.bytes, hloaded.memOk, hloaded.others⟩

/-- The fetch of a core ends: nothing else of it but that it may be pre-empted there. -/
theorem State.fetchEnds_core (s : State) (k : Nat) :
    (s.fetchEnds k).core k = { s.core k with fetch := none, preempting := (s.core k).preempting || s.preqStands k } :=
  State.core_modCore_same ..

end Sys2Proof.Machine
end

section
/-! Pre-emption (spec/15_system.md R364 to R370). -/

namespace Sys2Proof.Machine

/-! The record in device memory. -/

/-- Fields written from a place on, those that are zero left as they are. -/
def State.putFields (s : State) (p : Nat) (fs : List (Nat × Nat × Nat)) : State :=
  fs.foldl (fun (s : State) f => if f.2.2 = 0 then s else s.store (p + f.1) f.2.1 f.2.2) s

/-- A record is zeros with its fields put in (R369). -/
theorem State.writeRecord_eq (s : State) (k : Nat) (x : Saved) : s.writeRecord k x =
    (s.zero (contextPlace k x.record) x.size).putFields (contextPlace k x.record) (x.headFields ++ x.regFields ++ x.matrixFields ++ x.tailFields) := rfl

/-- What fields write into memory is told by the memory. -/
theorem State.putFields_mem (p : Nat) (fs : List (Nat × Nat × Nat)) {s t : State} (h : t.mem = s.mem) : (t.putFields p fs).mem = (s.putFields p fs).mem := by
  induction fs generalizing s t with
  | nil => exact h
  | cons f fs ih =>
    rw [State.putFields, State.putFields, List.foldl_cons, List.foldl_cons]
    refine ih ?_
    split
    · exact h
    · exact congrArg (fun m => Memory.writeList m (p + f.1) (leBytes f.2.1 f.2.2)) h

/-- Fields leave the cores. -/
theorem State.putFields_core (p : Nat) (fs : List (Nat × Nat × Nat)) (s : State) (j : Nat) : (s.putFields p fs).core j = s.core j := by
  induction fs generalizing s with
  | nil => rfl
  | cons f fs ih =>
    rw [State.putFields, List.foldl_cons]
    refine (ih _).trans ?_
    split
    · rfl
    · exact State.store_core ..

/-- What a record writes into memory is told by the memory. -/
theorem State.writeRecord_mem {s t : State} (h : t.mem = s.mem) (k : Nat) (x : Saved) : (t.writeRecord k x).mem = (s.writeRecord k x).mem := by
  rw [State.writeRecord_eq, State.writeRecord_eq]
  exact State.putFields_mem _ _ (congrArg (fun m => Memory.clear m (contextPlace k x.record) x.size) h)

/-- A record leaves the cores. -/
theorem State.writeRecord_core (s : State) (k : Nat) (x : Saved) (j : Nat) : (s.writeRecord k x).core j = s.core j := by
  rw [State.writeRecord_eq, State.putFields_core]
  rfl

/-! The save. -/

/-- A pre-emption of an activation whose record is free, at its point and drained. -/
theorem State.preempt_saves {s : State} {k : Nat} {a : Act} (ha : (s.core k).act = some a) (hr : s.recordFree k a.job = true) (hd : (s.core k).drained = true)
    (hp : (s.core k).preempting = true ∨ s.preqStands k = true ∧ s.waitsAtPoint k = true) :
    s.preempt k = (s.dropWaits k).modCore k fun x => x.vacate (s.context k a) := by
  have hb : (((s.core k).preempting || (s.preqStands k && s.waitsAtPoint k)) && (s.core k).drained) = true := by
    rcases hp with hp | ⟨h1, h2⟩
    · simp [hp, hd]
    · simp [h1, h2, hd]
  simp only [State.preempt, ha, hr, hb, Bool.not_true, Bool.false_eq_true, if_false, if_true]

/-- One that has not drained waits. -/
theorem State.preempt_waits {s : State} {k : Nat} {a : Act} (ha : (s.core k).act = some a) (hr : s.recordFree k a.job = true) (hd : (s.core k).drained = false) :
    s.preempt k = s := by
  simp only [State.preempt, ha, hr, hd, Bool.and_false, Bool.not_true, Bool.false_eq_true, if_false]

/-- One without a free record runs on. -/
theorem State.preempt_runsOn {s : State} {k : Nat} {a : Act} (ha : (s.core k).act = some a) (hr : s.recordFree k a.job = false) :
    s.preempt k = s.modCore k fun c => { c with preempting := false } := by
  simp only [State.preempt, ha, hr, Bool.not_false, if_true]

/-- The bytes of the scratchpad that a record holds are the scratchpad's. -/
theorem State.mem_savedBytes {s : State} {k : Nat} {b : Nat × Byte} (h : b ∈ s.savedBytes k) : b.2 = s.byte (placePad k b.1) := by
  obtain ⟨o, -, rfl⟩ := List.mem_map.1 h
  rfl

/-! The resumption. -/

/-- Bytes stored at places of a scratchpad. -/
def State.putPad (s : State) (k : Nat) (bs : List (Nat × Byte)) : State := bs.foldl (fun (s : State) b => s.store (placePad k b.1) 1 b.2.toNat) s

/-- They change memory alone. -/
theorem State.putPad_core (k : Nat) (bs : List (Nat × Byte)) (s : State) (j : Nat) : (s.putPad k bs).core j = s.core j := by
  induction bs generalizing s with
  | nil => rfl
  | cons b bs ih => exact ih (s.store (placePad k b.1) 1 b.2.toNat)

/-- The places of two offsets of a scratchpad. -/
theorem placePad_inj {k o o' : Nat} (h : placePad k o = placePad k o') : o = o' := by
  simp only [placePad] at h
  omega

/-- A place that none of them names keeps its byte. -/
theorem State.byte_putPad_other {k q : Nat} (bs : List (Nat × Byte)) {s : State} (hm : s.MemOk) (h : ∀ b ∈ bs, q ≠ placePad k b.1) :
    (s.putPad k bs).byte q = s.byte q := by
  induction bs generalizing s with
  | nil => rfl
  | cons b bs ih =>
    refine (ih (s := s.store (placePad k b.1) 1 b.2.toNat) (hm.storeList ..) fun b' hb => h b' (List.mem_cons_of_mem _ hb)).trans ?_
    have := h b (List.mem_cons_self ..)
    exact State.byte_store _ _ _ _ _ hm (by omega)

/-- A place that one of them names has its byte, where no other names it with another. -/
theorem State.byte_putPad {k : Nat} (bs : List (Nat × Byte)) {s : State} (hm : s.MemOk) {b : Nat × Byte} (hb : b ∈ bs)
    (h : ∀ b' ∈ bs, b'.1 = b.1 → b' = b) : (s.putPad k bs).byte (placePad k b.1) = b.2 := by
  induction bs generalizing s with
  | nil => exact absurd hb List.not_mem_nil
  | cons x bs ih =>
    have hm' : (s.store (placePad k x.1) 1 x.2.toNat).MemOk := hm.storeList ..
    by_cases hin : b ∈ bs
    · exact ih hm' hin fun b' hb' => h b' (List.mem_cons_of_mem _ hb')
    · obtain rfl : b = x := (List.mem_cons.1 hb).resolve_right hin
      have hother : ∀ b' ∈ bs, placePad k b.1 ≠ placePad k b'.1 := fun b' hb' he =>
        hin (h b' (List.mem_cons_of_mem _ hb') (placePad_inj he).symm ▸ hb')
      refine (State.byte_putPad_other bs hm' hother).trans ?_
      have hbyte := State.byte_store_inside s (placePad k b.1) 1 b.2.toNat 0 hm (by decide)
      rw [Nat.add_zero] at hbyte
      rw [hbyte]
      simp

/-- Results logged are the capture buffer's alone. -/
theorem State.foldl_logOf_rest (k : Nat) (a : Act) (n : Nat) (l : List (Nat × Nat)) (s : State) :
    (l.foldl (fun (s : State) f => s.logOf k a n 5 0 (BitVec.ofNat 1024 f.2)) s).mem = s.mem := by
  induction l generalizing s with
  | nil => rfl
  | cons f l ih =>
    rw [List.foldl_cons, ih]
    unfold State.logOf
    split <;> rfl

/-- The core with a saved activation put back, but for the window engine. -/
theorem Core.resumed_eq (c : Core) (x : Saved) (now : Nat) (rest : List Saved) : ∃ e, c.resumed x now rest =
    { c with
      act := some x.act, pc := x.pc, xs := fillTags x.xs x.ctx.judgeWany.2.2, vs := x.vs, ms := x.ms
      ctx := { x.ctx with
        status := { x.ctx.status with resumed := true }, rot := x.ctx.judgeWany.1, wany := x.ctx.judgeWany.2.1, distBase := now }
      accs := x.accs, latch := x.latch, events := x.events, gap := x.gap, tagBusy := x.tagBusy, tagStat := x.tagStat, logged := x.logged
      entering := x.entering, heldSince := 0, saved := rest, eng := e } := by
  obtain ⟨e, he⟩ := Core.startSpill_startFill { c with
      act := some x.act, pc := x.pc, xs := fillTags x.xs x.ctx.judgeWany.2.2, vs := x.vs, ms := x.ms
      ctx := { x.ctx with
        status := { x.ctx.status with resumed := true }, rot := x.ctx.judgeWany.1, wany := x.ctx.judgeWany.2.1, distBase := now }
      accs := x.accs, latch := x.latch, events := x.events, gap := x.gap, tagBusy := x.tagBusy, tagStat := x.tagStat, logged := x.logged
      entering := x.entering, heldSince := 0, saved := rest }
  exact ⟨e, he⟩

/-- A resumption: the bytes of the scratchpad, the log, the core, and the record of it (R370). -/
theorem State.resume_eq {s : State} {k : Nat} {x : Saved} {rest : List Saved} (hs : (s.core k).saved = x :: rest) (hb : s.between k = true)
    (hp : (s.core k).preq = none) (hc : s.candidate k = none) (hj : (s.job x.act.job).stopping = false) :
    s.resume k = ((x.ctx.judgeWany.2.2.foldl (fun (s : State) f => s.logOf k x.act x.ctx.instret.toNat 5 0 (BitVec.ofNat 1024 f.2))
      (s.putPad k x.spills)).modCore k fun c => c.resumed x s.cycles rest).trace k 5 0 0 := by
  simp only [State.resume, hs, hb, hp, hc, hj, Option.isNone_none, Bool.and_self, Bool.not_false, if_true]
  rfl

end Sys2Proof.Machine
end

section
/-! The statement on code misses and pre-emption. -/

namespace Sys2Proof.Machine

section Miss

variable {s : State} {k j : Nat} {a : BitVec 32} (hmiss : s.missOf k = some (j, a)) (htakes : s.poolTakes (.codeMiss k j a) = true)
  (hfetch : (s.core k).fetch = some ⟨a, true⟩) (hjob : (s.core k).jobNum = j)
include hmiss htakes hfetch hjob

/-- Fleiz loads the block of a miss and the fetch ends (spec/15_system.md R353). -/
theorem State.codeBlockLoaded_eq {bs : List Byte} (hblock : s.codeBlock j (a.toNat / 4096) = some bs) (hpatch : s.patching (coreCluster k) = false) :
    exec (.codeBlockLoaded k) s = .next (((s.poolDrop (.codeMiss k j a)).loadBlock (coreCluster k) j (a.toNat / 4096) bs).fetchEnds k) := by
  change execCodeBlockLoaded k s = _
  simp only [execCodeBlockLoaded, hmiss, htakes, hpatch, hblock, hfetch, hjob, Bool.not_true, Bool.or_self, Bool.false_eq_true, if_false, and_self, if_true]

/-- Fleiz reports the code absent and the fetched instruction traps. -/
theorem State.codeMissTrap_eq (hblock : s.codeBlock j (a.toNat / 4096) = none) (hstands : s.preqStands k = false) :
    exec (.codeMissTrap k) s = .next (((s.poolDrop (.codeMiss k j a)).fetchEnds k).takeTrap k 12 (a.setWidth 64)) := by
  change execCodeMissTrap k s = _
  simp only [execCodeMissTrap, hmiss, htakes, hblock, hfetch, hjob, hstands, Option.isSome_none, Bool.not_true, Bool.or_self, Bool.false_eq_true, if_false,
    and_self, if_true]

end Miss

/-- A core whose fetch ends is as ready for its handler as it was. -/
theorem State.HandlerReady.fetchEnds {s u : State} {k : Nat} (h : ({ s with cur := k } : State).HandlerReady) (hu : u.core k = s.core k) :
    ({ u.fetchEnds k with cur := k } : State).HandlerReady := by
  obtain ⟨htv, hin, hd, hs, hvq, hti, hout⟩ := h
  have hc : ({ u.fetchEnds k with cur := k } : State).c = { s.core k with fetch := none, preempting := (s.core k).preempting || u.preqStands k } := by
    have := u.fetchEnds_core k
    rwa [hu] at this
  constructor <;> rw [hc] <;> assumption

/-- A request that Fleiz makes (spec/15_system.md R365). -/
theorem State.preemptionRequest_eq {s : State} {k job : Nat} {a : Act} (hin : (k, job) ∈ s.requests) (ha : (s.core k).act = some a) :
    exec (.preemptionRequest k job) s = .next
      (if (s.job job).live && (s.job job).cset.getLsbD (coreCluster k) && decide ((s.job job).prio.toNat < (s.job a.job).prio.toNat)
        then ({ s with requests := s.requests.erase (k, job) } : State).modCore k fun c => { c with preq := some job }
        else { s with requests := s.requests.erase (k, job) }) := by
  have hc : s.requests.contains (k, job) = true := List.contains_iff_mem.2 hin
  change execPreemptionRequest k job s = _
  simp only [execPreemptionRequest, hc, ha, Bool.not_true, Bool.false_eq_true, if_false]

/-- The core that a pre-emption has vacated, with the context saved (R368, R369). -/
theorem Core.vacate_fields (c : Core) (x : Saved) : (c.vacate x).act = none ∧ (c.vacate x).xs = [] ∧ (c.vacate x).vs = [] ∧ (c.vacate x).saving = true
    ∧ (c.vacate x).inbox = c.inbox ∧ (c.vacate x).copies = c.copies ∧ (c.vacate x).saved = x :: c.saved := ⟨rfl, rfl, rfl, rfl, rfl, rfl, rfl⟩

/-- A forced pre-emption, where the request stands and no other thing is under way at the boundary (R367). -/
theorem State.forcedPreemption_eq {s : State} {k : Nat} {a : Act} (ha : (s.core k).act = some a) (hstands : s.preqStands k = true)
    (hpre : (s.core k).preempting = false) (hheld : (s.core k).held = none) (hfin : (s.core k).finish = none) (hgap : (s.core k).gap ≠ 0xFFFFFFFF) :
    exec (.forcedPreemption k) s = .next (if (s.core k).gap.toNat + 2048 < s.dist k
      then (s.actErr 9 k a ((s.core k).pc.setWidth 64) 15).modCore k fun c => { c with preempting := true } else s) := by
  have hb : (s.preqStands k && !(s.core k).preempting && (s.core k).held.isNone && (s.core k).finish.isNone && decide ((s.core k).gap ≠ 0xFFFFFFFF)
      && decide ((s.core k).gap.toNat + 2048 < s.dist k)) = decide ((s.core k).gap.toNat + 2048 < s.dist k) := by
    rw [hstands, hpre, hheld, hfin, decide_eq_true hgap]; rfl
  change execForcedPreemption k s = _
  simp only [execForcedPreemption, ha, hb, decide_eq_true_eq]

/-- A record stands after a change of a core. -/
theorem State.Recorded.modCore {s t : State} {job : Nat} {e : ErrRec} (h : s.Recorded t job e) (k : Nat) (f : Core → Core) :
    s.Recorded (t.modCore k f) job e := ⟨h.queue, h.ring, h.others⟩

/-- The record of an activation (spec/06_memory.md R140). -/
theorem State.actErr_recorded {s : State} (hm : s.MemOk) {a : Act} (hr : s.ErrRoom a.job) (kind k : Nat) (addr : XWord) (cause : Nat) :
    ∃ e, s.Recorded (s.actErr kind k a addr cause) a.job e ∧ e.kind = BitVec.ofNat 8 kind ∧ e.cause = BitVec.ofNat 16 cause ∧ e.src = BitVec.ofNat 16 k :=
  ⟨_, State.appendErr_recorded hm hr _, rfl, rfl, rfl⟩

/-- The end of a save (R369, R370). -/
theorem State.contextSaveComplete_eq {s : State} {k : Nat} {x : Saved} {rest : List Saved} (hsaving : (s.core k).saving = true)
    (hsaved : (s.core k).saved = x :: rest) : exec (.contextSaveComplete k) s =
      .next (((s.modCore k fun c => { c with saving := false }).writeRecord k x).traceOf k x.act.job x.act x.ctx.entryStamp 4 0 x.ctx.instret.toNat) := by
  change execContextSaveComplete k s = _
  simp only [execContextSaveComplete, hsaving, hsaved, if_true]

/-- Settles O54: code misses, pre-emption requests, saves, forced pre-emptions and resumptions. -/
theorem codeMissesAndPreemption : Obligations.CodeMissesAndPreemption := by
  unfold Obligations.CodeMissesAndPreemption
  refine ⟨fun k s hm => ?_, fun k job a s => ?_⟩
  · intro g c
    refine ⟨fun h hf ht hr => ?_, fun h hf hw => congrArg Host.Outcome.next (State.postMiss_waits hf hw), fun j a hmiss htakes hfetch hjob =>
      ⟨fun bs hblock hpatch hbreak => ?_, fun hblock hready hstands => ?_⟩⟩
    · refine ⟨_, congrArg Host.Outcome.next (State.postMiss_posts hf ht hr), rfl, ?_, fun _ => rfl⟩
      exact (congrArg Core.fetch (State.core_modCore_same s k fun c => { c with fetch := some { h with taken := true } }) :)
    · have hlen := State.codeBlock_length hblock
      have hdone := State.codeBlockLoaded_eq hmiss htakes hfetch hjob hblock hpatch
      have ha := a.isLt
      obtain ⟨i, hi, hloaded⟩ := State.loadBlock_loaded (s := s.poolDrop (.codeMiss k j a)) hm (g := g) hbreak hlen (by omega)
      generalize (s.poolDrop (.codeMiss k j a)).loadBlock g j (a.toNat / 4096) bs = u at hdone hloaded
      have hcore := u.fetchEnds_core k
      obtain ⟨h1, h2, h3, h4⟩ := hloaded
      rw [hlen] at h2 h4
      exact ⟨_, i, hdone, hi, h1, hlen, h2, by rw [hcore], h3, h4⟩
    · have hcore := State.fetchEnds_core (s.poolDrop (.codeMiss k j a)) k
      have hdone := State.codeMissTrap_eq hmiss htakes hfetch hjob hblock hstands
      have htrap := State.takeTrap_trapped (hready.fetchEnds (u := s.poolDrop (.codeMiss k j a)) rfl) 12 (a.setWidth 64)
      have hpc : (((s.poolDrop (.codeMiss k j a)).fetchEnds k).core k).pc = c.pc := by rw [hcore]; rfl
      have hx : (((s.poolDrop (.codeMiss k j a)).fetchEnds k).core k).ctx = c.ctx := by rw [hcore]; rfl
      have hf : (((s.poolDrop (.codeMiss k j a)).fetchEnds k).core k).fetch = none := by rw [hcore]
      have hmem : ((s.poolDrop (.codeMiss k j a)).fetchEnds k).mem = s.mem := rfl
      generalize (s.poolDrop (.codeMiss k j a)).fetchEnds k = u at *
      obtain ⟨h1, h2, h3, -⟩ := htrap.registers
      obtain ⟨-, -, -, h4, -⟩ := (u.core k).trapped_rest 12 (a.setWidth 64)
      obtain ⟨n, hn⟩ := htrap.core
      refine ⟨_, hdone, h1.trans hpc, h2, h3, ?_, htrap.pc.trans (by rw [hx]), ?_, State.bytesSame_of_mem (htrap.mem.trans hmem)⟩
      · rw [htrap.ctx, Core.trapped_ctx]
      · rw [hn]; exact h4.trans hf
  · intro c
    refine ⟨fun hin => ⟨fun ha hlive hset hprio => ?_, fun ha hno => ?_⟩, fun hin => ?_, fun ha hr hd hp => ?_,
      fun ha hr hd => congrArg Host.Outcome.next (State.preempt_waits ha hr hd), fun ha hr => ?_, fun ha hstands hpre hheld hfin hgap =>
      ⟨fun hlate hroom hm => ?_, fun hearly => ?_⟩, fun x rest hsaving hsaved => ?_, fun x rest hm hsaved hbetween hpreq hcand hstop hinj => ?_⟩
    · have hyes : ((s.job job).live && (s.job job).cset.getLsbD (coreCluster k) && decide ((s.job job).prio.toNat < (s.job a.job).prio.toNat)) = true := by
        simp [hlive, hset, hprio]
      rw [State.preemptionRequest_eq hin ha, if_pos hyes]
      refine ⟨_, rfl, ?_, rfl, fun _ => rfl⟩
      rw [State.core_modCore_same]
    · have hno' : ¬ ((s.job job).live && (s.job job).cset.getLsbD (coreCluster k) && decide ((s.job job).prio.toNat < (s.job a.job).prio.toNat)) = true := by
        rcases hno with h | h
        · simp [h]
        · simp [not_lt.2 h]
      rw [State.preemptionRequest_eq hin ha, if_neg hno']
      exact ⟨_, rfl, rfl, rfl, fun _ => rfl⟩
    · have hc : s.requests.contains (k, job) = false := by
        rw [← Bool.not_eq_true, List.contains_iff_mem]; exact hin
      change execPreemptionRequest k job s = _
      rw [execPreemptionRequest, hc]; rfl
    · have hcore := State.core_modCore_same (s.dropWaits k) k fun x => x.vacate (s.context k a)
      obtain ⟨h1, h2, h3, h4, h5, h6, h7⟩ := ((s.dropWaits k).core k).vacate_fields (s.context k a)
      rw [← hcore] at h1 h2 h3 h4 h5 h6 h7
      exact ⟨_, s.context k a, congrArg Host.Outcome.next (State.preempt_saves ha hr hd hp), h1, h2, h3, h4, h5, h6, h7, rfl, rfl, rfl, rfl, rfl, rfl, rfl, rfl, rfl,
        fun b hb => State.mem_savedBytes hb, fun _ => rfl⟩
    · exact ⟨_, congrArg Host.Outcome.next (State.preempt_runsOn ha hr), State.core_modCore_same .., fun _ => rfl⟩
    · have hdone := State.forcedPreemption_eq ha hstands hpre hheld hfin hgap
      rw [if_pos hlate] at hdone
      obtain ⟨e, he, hkind, hcause, hsrc⟩ := State.actErr_recorded hm hroom 9 k ((s.core k).pc.setWidth 64) 15
      generalize s.actErr 9 k a ((s.core k).pc.setWidth 64) 15 = u at hdone he
      refine ⟨_, e, hdone, ?_, he.modCore .., hkind, hcause, hsrc⟩
      rw [State.core_modCore_same]
    · rw [State.forcedPreemption_eq ha hstands hpre hheld hfin hgap, if_neg (not_lt.2 hearly)]
    · have hdone := State.contextSaveComplete_eq hsaving hsaved
      have hmem := State.writeRecord_mem (s := s) (t := s.modCore k fun c => { c with saving := false }) rfl k x
      have hcore := State.writeRecord_core (s.modCore k fun c => { c with saving := false }) k x k
      rw [State.core_modCore_same] at hcore
      generalize (s.modCore k fun c => { c with saving := false }).writeRecord k x = u at hdone hmem hcore
      obtain ⟨n, hn⟩ := u.traceOf_core k x.act.job x.act x.ctx.entryStamp 4 0 x.ctx.instret.toNat
      refine ⟨_, hdone, ?_, ?_, fun p => ?_⟩
      · rw [hn, hcore]
      · rw [hn, hcore]
      · rw [State.byte, State.traceOf_mem, hmem, State.byte]
    · intro j
      have hdone := State.resume_eq hsaved hbetween hpreq hcand hstop
      have hmem := State.foldl_logOf_rest k x.act x.ctx.instret.toNat x.ctx.judgeWany.2.2 (s.putPad k x.spills)
      generalize x.ctx.judgeWany.2.2.foldl (fun (s : State) f => s.logOf k x.act x.ctx.instret.toNat 5 0 (BitVec.ofNat 1024 f.2)) (s.putPad k x.spills) = u
        at hdone hmem
      obtain ⟨e, he⟩ := (u.core k).resumed_eq x s.cycles rest
      obtain ⟨n, hn⟩ := State.trace_core (u.modCore k fun c => c.resumed x s.cycles rest) k 5 0 0
      rw [State.core_modCore_same, he] at hn
      have hbyte (p : Nat) : (s.resume k).byte p = (s.putPad k x.spills).byte p := by
        rw [hdone, State.byte, State.trace_mem, State.modCore_mem, hmem, State.byte]
      rw [← hdone] at hn
      have hsaved (b : Nat × Byte) (hb : b ∈ x.spills) : (s.resume k).byte (placePad k b.1) = b.2 :=
        (hbyte _).trans (State.byte_putPad _ hm hb fun b' hb' he => hinj b' b hb' hb he)
      refine ⟨_, rfl, ?_, ?_, ?_, ?_, ?_, ?_, ?_, ?_, ?_, hsaved, fun p hp => (hbyte p).trans (State.byte_putPad_other _ hm hp)⟩
      all_goals rw [hn]

end Sys2Proof.Machine
end

section
/-! The hulls of two accesses (spec/07_views.md R155, R156, R165): what level 1 of the intersection unit finds. -/

namespace Sys2Proof.Machine

/-- The address that a byte of an access is judged at: a byte of the own scratchpad stands for its place in the core's aperture
(spec/07_views.md R156). -/
def Span.place (x : Span) (b : Int) : Int := if 0 ≤ b ∧ b < 0x60000 then b + 2 ^ 32 + x.k * 2 ^ 20 else b

/-- Accesses of one core are judged alike. -/
theorem Span.place_congr {x y : Span} (h : x.k = y.k) (b : Int) : x.place b = y.place b := by rw [Span.place, Span.place, h]

/-- Two accesses have a byte of their hulls in common once normalised. -/
def Span.Touches (x y : Span) : Prop := ∃ b c : Int, x.lo ≤ b ∧ b ≤ x.hi ∧ y.lo ≤ c ∧ c ≤ y.hi ∧ x.place b = y.place c

/-- A byte within the hulls of two accesses of one core is common to them. -/
theorem Span.touches_of_common {x y : Span} (hk : x.k = y.k) {b : Int} (h1 : x.lo ≤ b) (h2 : b ≤ x.hi) (h3 : y.lo ≤ b) (h4 : b ≤ y.hi) : x.Touches y :=
  ⟨b, b, h1, h2, h3, h4, Span.place_congr hk b⟩

/-- The parts of a normalised hull: within the own scratchpad region, below it and above it. -/
theorem mem_normalise {k : Nat} {lo hi : Int} {a : Int × Int} :
    a ∈ normalise k lo hi ↔ (lo < 0x60000 ∧ 0 ≤ hi) ∧ a = (max lo 0 + (2 ^ 32 + k * 2 ^ 20), min hi 0x5FFFF + (2 ^ 32 + k * 2 ^ 20))
      ∨ lo < 0 ∧ a = (lo, min hi (-1)) ∨ 0x60000 ≤ hi ∧ a = (max lo 0x60000, hi) := by
  simp only [normalise, List.mem_append, or_assoc]
  refine or_congr ?_ (or_congr ?_ ?_) <;> split <;> simp_all

/-- No part of a normalised hull is empty. -/
theorem normalise_le {k : Nat} {lo hi : Int} (h : lo ≤ hi) {a : Int × Int} (ha : a ∈ normalise k lo hi) : a.1 ≤ a.2 := by
  rcases mem_normalise.1 ha with ⟨⟨_, _⟩, rfl⟩ | ⟨_, rfl⟩ | ⟨_, rfl⟩ <;> dsimp only <;> omega

/-- The parts of a normalised hull hold the places of its bytes. -/
theorem Span.exists_mem_normalise (p : Span) (x : Int) :
    (∃ a ∈ normalise p.k p.lo p.hi, a.1 ≤ x ∧ x ≤ a.2) ↔ ∃ b, p.lo ≤ b ∧ b ≤ p.hi ∧ p.place b = x := by
  constructor
  · rintro ⟨a, ha, hl, hr⟩
    rcases mem_normalise.1 ha with ⟨-, rfl⟩ | ⟨-, rfl⟩ | ⟨-, rfl⟩ <;> dsimp only at hl hr
    · refine ⟨x - (2 ^ 32 + p.k * 2 ^ 20), by omega, by omega, ?_⟩
      rw [Span.place, if_pos (by omega)]; omega
    · exact ⟨x, by omega, by omega, if_neg (by omega)⟩
    · exact ⟨x, by omega, by omega, if_neg (by omega)⟩
  · rintro ⟨b, hl, hr, rfl⟩
    rw [Span.place]
    split
    · exact ⟨_, mem_normalise.2 (.inl ⟨by omega, rfl⟩), by dsimp only; omega, by dsimp only; omega⟩
    · by_cases hb : b < 0
      · exact ⟨_, mem_normalise.2 (.inr (.inl ⟨by omega, rfl⟩)), hl, by dsimp only; omega⟩
      · exact ⟨_, mem_normalise.2 (.inr (.inr ⟨by omega, rfl⟩)), by dsimp only; omega, hr⟩

/-- Level 1 finds a common byte where there is one. -/
theorem Span.hullsMeet_iff {p q : Span} (hp : p.lo ≤ p.hi) (hq : q.lo ≤ q.hi) : p.hullsMeet q = true ↔ p.Touches q := by
  have hcommon : p.hullsMeet q = true ↔ ∃ x, (∃ a ∈ normalise p.k p.lo p.hi, a.1 ≤ x ∧ x ≤ a.2) ∧ ∃ b ∈ normalise q.k q.lo q.hi, b.1 ≤ x ∧ x ≤ b.2 := by
    simp only [Span.hullsMeet, List.any_eq_true, Bool.and_eq_true, decide_eq_true_eq]
    constructor
    · rintro ⟨a, ha, b, hb, h1, h2⟩
      have := normalise_le hp ha
      have := normalise_le hq hb
      exact ⟨max a.1 b.1, ⟨a, ha, by omega, by omega⟩, b, hb, by omega, by omega⟩
    · rintro ⟨x, ⟨a, ha, h1, h2⟩, b, hb, h3, h4⟩
      exact ⟨a, ha, b, hb, by omega, by omega⟩
  rw [hcommon]
  simp only [Span.exists_mem_normalise]
  constructor
  · rintro ⟨_, ⟨b, h1, h2, rfl⟩, c, h3, h4, h5⟩
    exact ⟨b, c, h1, h2, h3, h4, h5.symm⟩
  · rintro ⟨b, c, h1, h2, h3, h4, h5⟩
    exact ⟨_, ⟨b, h1, h2, rfl⟩, c, h3, h4, h5.symm⟩

/-- Verdict 1: the hulls do not intersect (spec/07_views.md R164). -/
theorem Span.verdict_eq_one (p q : Span) : p.verdict q = 1 ↔ p.hullsMeet q = false := by
  unfold Span.verdict
  cases p.hullsMeet q <;> cases p.residuesApart q <;> decide

/-- Verdict 2: they intersect, and the residue test finds the accesses disjoint. -/
theorem Span.verdict_eq_two (p q : Span) : p.verdict q = 2 ↔ p.hullsMeet q = true ∧ p.residuesApart q = true := by
  unfold Span.verdict
  cases p.hullsMeet q <;> cases p.residuesApart q <;> decide

/-- Verdict 3: they intersect, and it does not. -/
theorem Span.verdict_eq_three_iff (p q : Span) : p.verdict q = 3 ↔ p.hullsMeet q = true ∧ p.residuesApart q = false := by
  unfold Span.verdict
  cases p.hullsMeet q <;> cases p.residuesApart q <;> decide

end Sys2Proof.Machine
end

section
/-! The elements of a view (spec/07_views.md R154, R155): each lies within the hull. -/

namespace Sys2Proof.Machine

/-- The number of an element. -/
def View.elem (v : View) (i : Nat → Nat) : Int :=
  (List.range v.rank).foldl (fun e k => e + (((v.dim k).origin.toNat + i k : Nat) : Int) * (v.dim k).step) 0

/-- An element's bits begin at its number of widths from the base. -/
theorem View.bitAddr_eq (v : View) (i : Nat → Nat) : v.bitAddr i = 8 * (v.base.toNat : Int) + v.eb * v.elem i := rfl

/-- No type is narrower than four bits, and none wider than eight bytes (spec/07_views.md R152). -/
theorem View.eb_bounds (v : View) : 4 ≤ v.eb ∧ v.eb ≤ 64 := by
  unfold View.eb typeBits
  split_ifs <;> decide

/-- A view has one to four dimensions. -/
theorem View.rank_bounds (v : View) : 1 ≤ v.rank ∧ v.rank ≤ 4 := by
  have := v.rankm1.isLt
  unfold View.rank
  omega

/-- An index inside a view lies below the extents of its dimensions. -/
theorem View.lt_of_inside {v : View} {i : Nat → Nat} (h : v.inside i = true) {k : Nat} (hk : k < v.rank) : i k < (v.dim k).extent.toNat := by
  have h' := List.all_eq_true.1 h k (List.mem_range.2 (lt_of_lt_of_le hk v.rank_bounds.2))
  rw [if_pos hk] at h'
  exact of_decide_eq_true h'

/-- A view without an empty dimension has its first element. -/
theorem View.inside_zero {v : View} (h : ∀ d, d < v.rank → 1 ≤ (v.dim d).extent.toNat) : v.inside (fun _ => 0) = true := by
  refine List.all_eq_true.2 fun k _ => ?_
  split
  · next hk => exact decide_eq_true (h k hk)
  · rfl

/-- A product of a position and a stride lies between those of the outermost positions. -/
theorem mul_between {o i n : Nat} (h : i < n) (t : Int) :
    min ((o : Int) * t) (((o : Int) + n - 1) * t) ≤ ((o + i : Nat) : Int) * t ∧ ((o + i : Nat) : Int) * t ≤ max ((o : Int) * t) (((o : Int) + n - 1) * t) := by
  rcases le_total 0 t with ht | ht
  · have h1 : (o : Int) * t ≤ ((o + i : Nat) : Int) * t := mul_le_mul_of_nonneg_right (by omega) ht
    have h2 : ((o + i : Nat) : Int) * t ≤ ((o : Int) + n - 1) * t := mul_le_mul_of_nonneg_right (by omega) ht
    omega
  · have h1 : ((o + i : Nat) : Int) * t ≤ (o : Int) * t := mul_le_mul_of_nonpos_right (by omega) ht
    have h2 : ((o : Int) + n - 1) * t ≤ ((o + i : Nat) : Int) * t := mul_le_mul_of_nonpos_right (by omega) ht
    omega

/-- A sum taken beside the sums of lower and of upper bounds of its terms lies between those. -/
theorem foldl_between {l : List Nat} {f g h : Nat → Int} (hb : ∀ k ∈ l, f k ≤ g k ∧ g k ≤ h k) {a : Int × Int} {e : Int} (ha : a.1 ≤ e ∧ e ≤ a.2) :
    (l.foldl (fun (a : Int × Int) k => (a.1 + f k, a.2 + h k)) a).1 ≤ l.foldl (fun e k => e + g k) e
      ∧ l.foldl (fun e k => e + g k) e ≤ (l.foldl (fun (a : Int × Int) k => (a.1 + f k, a.2 + h k)) a).2 := by
  induction l generalizing a e with
  | nil => exact ha
  | cons k l ih =>
    have hk := hb k (List.mem_cons_self ..)
    exact ih (fun j hj => hb j (List.mem_cons_of_mem _ hj)) ⟨add_le_add ha.1 hk.1, add_le_add ha.2 hk.2⟩

/-- The number of an element inside a view lies within the view's span. -/
theorem View.elem_between {v : View} {i : Nat → Nat} (h : v.inside i = true) : v.span.1 ≤ v.elem i ∧ v.elem i ≤ v.span.2 :=
  foldl_between (fun _ hk => mul_between (View.lt_of_inside h (List.mem_range.1 hk)) _) ⟨le_refl _, le_refl _⟩

/-- The bytes of an element inside a view lie within its hull (spec/07_views.md R155). -/
theorem View.hull_of_inside {v : View} {i : Nat → Nat} (h : v.inside i = true) {b : Int} (h1 : v.bitAddr i ≤ 8 * b + 7) (h2 : 8 * b < v.bitAddr i + v.eb) :
    v.hull.1 ≤ b ∧ b ≤ v.hull.2 := by
  obtain ⟨hlo, hhi⟩ := View.elem_between h
  have hm1 : (v.eb : Int) * v.span.1 ≤ v.eb * v.elem i := mul_le_mul_of_nonneg_left hlo (Int.natCast_nonneg _)
  have hm2 : (v.eb : Int) * v.elem i ≤ v.eb * v.span.2 := mul_le_mul_of_nonneg_left hhi (Int.natCast_nonneg _)
  have hpos := v.eb_bounds.1
  rw [View.bitAddr_eq] at h1 h2
  simp only [View.hull]
  omega

/-- The hull of a view that has an element is not empty. -/
theorem View.hull_le {v : View} {i : Nat → Nat} (h : v.inside i = true) : v.hull.1 ≤ v.hull.2 := by
  have hpos := v.eb_bounds.1
  have := View.hull_of_inside h (b := v.bitAddr i / 8) (by omega) (by omega)
  omega

/-- Elements of two views of one core that share a bit share a byte of the hulls. -/
theorem View.touches_of_overlap {v w : View} {i j : Nat → Nat} (hi : v.inside i = true) (hj : w.inside j = true) (k : Nat)
    (h1 : w.bitAddr j < v.bitAddr i + v.eb) (h2 : v.bitAddr i < w.bitAddr j + w.eb) : (v.toSpan k true).Touches (w.toSpan k true) := by
  have hv := v.eb_bounds.1
  have hw := w.eb_bounds.1
  obtain ⟨a1, a2⟩ := View.hull_of_inside hi (b := max (v.bitAddr i) (w.bitAddr j) / 8) (by omega) (by omega)
  obtain ⟨b1, b2⟩ := View.hull_of_inside hj (b := max (v.bitAddr i) (w.bitAddr j) / 8) (by omega) (by omega)
  exact Span.touches_of_common rfl a1 a2 b1 b2

end Sys2Proof.Machine
end

section
/-! The residues of row-periodic views (spec/07_views.md R165): what level 2 of the intersection unit finds. -/

namespace Sys2Proof.Machine

/-- A view is row-periodic with period `s` and row width `n`. -/
def View.Periodic (v : View) (s n : Nat) : Prop :=
  0 < s ∧ (v.rank = 1 ∧ v.d0.step = s ∧ n = 1 ∨ v.rank = 2 ∧ v.d0.step = 1 ∧ v.d1.step = s ∧ n = v.d0.extent.toNat ∧ n ≤ s)

/-- `r` is a residue that the rows of a view cover, `n` from its first on. -/
def View.Covers (v : View) (s n : Nat) (r : Int) : Prop :=
  ∃ m : Nat, m < n ∧ (((8 * v.base.toNat / v.eb : Nat) : Int) + v.d0.origin.toNat * v.d0.step + m) % s = r

/-- Two views are row-periodic on one grid, and their rows cover no common residue. -/
def View.RowsApart (v w : View) : Prop :=
  v.eb = w.eb ∧ 8 * v.base.toNat % v.eb = 0 ∧ 8 * w.base.toNat % w.eb = 0
    ∧ ∃ s n n', v.Periodic s n ∧ w.Periodic s n' ∧ ∀ r, ¬ (v.Covers s n r ∧ w.Covers s n' r)

/-- The period and the row width that the unit takes. -/
theorem View.period_eq_some {v : View} {s n : Nat} : v.period = some (s, n) ↔ v.Periodic s n := by
  unfold View.period View.Periodic
  split_ifs with h1 h2
  · simp only [Option.some.injEq, Prod.mk.injEq]
    constructor
    · rintro ⟨rfl, rfl⟩; omega
    · rintro ⟨-, h⟩; omega
  · simp only [Option.some.injEq, Prod.mk.injEq]
    constructor
    · rintro ⟨rfl, rfl⟩; omega
    · rintro ⟨-, h⟩; omega
  · simp only [false_iff]
    rintro ⟨hs, ⟨hr, hd, -⟩ | ⟨hr, hd, hd', rfl, hn⟩⟩
    · exact h1 ⟨hr, by omega⟩
    · exact h2 ⟨hr, hd, by omega, by omega⟩

/-- A view has one period and row width. -/
theorem View.Periodic.unique {v : View} {s n s' n' : Nat} (h : v.Periodic s n) (h' : v.Periodic s' n') : s = s' ∧ n = n' := by
  have e : some (s, n) = some (s', n') := (View.period_eq_some.2 h).symm.trans (View.period_eq_some.2 h')
  simpa using e

/-- The rows of a periodic view that has an element are not empty, and no wider than the period. -/
theorem View.Periodic.width {v : View} {s n : Nat} (h : v.Periodic s n) {i : Nat → Nat} (hi : v.inside i = true) : 0 < n ∧ n ≤ s := by
  have h0 : i 0 < v.d0.extent.toNat := View.lt_of_inside hi v.rank_bounds.1
  obtain ⟨hs, ⟨-, -, rfl⟩ | ⟨-, -, -, rfl, hn⟩⟩ := h <;> omega

/-- A number below twice another, reduced by it. -/
theorem mod_of_lt_two_mul {a s : Nat} (h : a < 2 * s) : a % s = if a < s then a else a - s := by
  split
  · next hlt => exact Nat.mod_eq_of_lt hlt
  · next hge => rw [Nat.mod_eq_sub_mod (by omega), Nat.mod_eq_of_lt (by omega)]

/-- The unit's comparison finds a common residue where there is one. -/
theorem residuesMeet_iff {s r w r' w' : Nat} (hr : r < s) (hr' : r' < s) (hw : 0 < w ∧ w ≤ s) (hw' : 0 < w' ∧ w' ≤ s) :
    residuesMeet s r w r' w' = true ↔ ∃ m m', m < w ∧ m' < w' ∧ (r + m) % s = (r' + m') % s := by
  simp only [residuesMeet, Bool.or_eq_true, decide_eq_true_eq]
  constructor
  · rintro (h | h)
    · refine ⟨(r' + s - r) % s, 0, h, hw'.1, ?_⟩
      rw [Nat.add_mod_mod, Nat.add_sub_cancel' (by omega), Nat.add_mod_right, Nat.add_zero]
    · refine ⟨0, (r + s - r') % s, hw.1, h, ?_⟩
      rw [Nat.add_mod_mod, Nat.add_sub_cancel' (by omega), Nat.add_mod_right, Nat.add_zero]
  · rintro ⟨m, m', hm, hm', he⟩
    rw [mod_of_lt_two_mul (by omega), mod_of_lt_two_mul (by omega)] at he
    rw [mod_of_lt_two_mul (by omega), mod_of_lt_two_mul (by omega)]
    split_ifs at he ⊢ <;> omega

/-- The first residue of a view's rows. -/
theorem View.residue_spec (v : View) (b : Nat) {s : Nat} (hs : 0 < s) :
    v.residue b s < s ∧ (v.residue b s : Int) = (((8 * b / v.eb : Nat) : Int) + v.d0.origin.toNat * v.d0.step) % s := by
  have hs' : (0 : Int) < s := by omega
  have h1 := Int.emod_nonneg (((8 * b / v.eb : Nat) : Int) + v.d0.origin.toNat * v.d0.step) hs'.ne'
  have h2 := Int.emod_lt_of_pos (((8 * b / v.eb : Nat) : Int) + v.d0.origin.toNat * v.d0.step) hs'
  have h3 : (v.residue b s : Int) = (((8 * b / v.eb : Nat) : Int) + v.d0.origin.toNat * v.d0.step) % s := Int.toNat_of_nonneg h1
  omega

/-- The residues that a view's rows cover, from the first on. -/
theorem View.covers_iff (v : View) {s : Nat} (hs : 0 < s) (n : Nat) (r : Int) :
    v.Covers s n r ↔ ∃ m, m < n ∧ ((v.residue v.base.toNat s + m) % s : Nat) = r := by
  refine exists_congr fun m => and_congr_right fun _ => ?_
  rw [Int.natCast_mod, Int.natCast_add, (v.residue_spec _ hs).2, Int.emod_add_emod]

/-- Level 2 finds the rows apart where they are, two bases being both in the own scratchpad region or both outside it. -/
theorem View.residuesApart_iff {v w : View} (k : Nat) (hbase : v.base.toNat < 0x60000 ↔ w.base.toNat < 0x60000) {i j : Nat → Nat}
    (hi : v.inside i = true) (hj : w.inside j = true) : (v.toSpan k true).residuesApart (w.toSpan k true) = true ↔ v.RowsApart w := by
  have hx : levelBase k v.base.toNat w.base.toNat = v.base.toNat := if_neg (by tauto)
  have hy : levelBase k w.base.toNat v.base.toNat = w.base.toNat := if_neg (by tauto)
  simp only [Span.residuesApart, View.toSpan, hx, hy, View.RowsApart]
  rcases hv : v.period with _ | ⟨s, n⟩
  · simp [← View.period_eq_some, hv]
  rcases hw : w.period with _ | ⟨s', n'⟩
  · simp [← View.period_eq_some, hw]
  have pv := View.period_eq_some.1 hv
  have pw := View.period_eq_some.1 hw
  have hmeet (e : s = s') : residuesMeet s (v.residue v.base.toNat s) n (w.residue w.base.toNat s) n' = false
      ↔ ∀ r, ¬ (v.Covers s n r ∧ w.Covers s n' r) := by
    subst e
    rw [Bool.eq_false_iff, Ne, residuesMeet_iff (v.residue_spec _ pv.1).1 (w.residue_spec _ pv.1).1 (pv.width hi) (pw.width hj)]
    simp only [View.covers_iff _ pv.1]
    constructor
    · rintro h r ⟨⟨m, hm, rfl⟩, m', hm', e⟩
      exact h ⟨m, m', hm, hm', (Int.natCast_inj.1 e).symm⟩
    · rintro h ⟨m, m', hm, hm', e⟩
      exact h _ ⟨⟨m, hm, rfl⟩, m', hm', by rw [e]⟩
  simp only [Bool.and_eq_true, decide_eq_true_eq, Bool.not_eq_true']
  constructor
  · rintro ⟨⟨⟨⟨rfl, he⟩, h1⟩, h2⟩, h3⟩
    exact ⟨he, h1, h2, s, n, n', pv, pw, (hmeet rfl).1 h3⟩
  · rintro ⟨he, h1, h2, t, m, m', pv', pw', h3⟩
    obtain ⟨rfl, rfl⟩ := pv.unique pv'
    obtain ⟨rfl, rfl⟩ := pw.unique pw'
    exact ⟨⟨⟨⟨rfl, he⟩, h1⟩, h2⟩, (hmeet rfl).2 h3⟩

/-- The number of an element of a periodic view: a place in a row, and some periods. -/
theorem View.Periodic.elem_eq {v : View} {s n : Nat} (h : v.Periodic s n) {i : Nat → Nat} (hi : v.inside i = true) :
    ∃ (m : Nat) (t : Int), m < n ∧ v.elem i = v.d0.origin.toNat * v.d0.step + m + s * t := by
  have h0 : i 0 < v.d0.extent.toNat := View.lt_of_inside hi v.rank_bounds.1
  obtain ⟨-, ⟨hr, hd, rfl⟩ | ⟨hr, hd, hd', rfl, -⟩⟩ := h
  · refine ⟨0, i 0, Nat.one_pos, ?_⟩
    simp only [View.elem, hr, List.range_one, List.foldl_cons, List.foldl_nil, View.dim, hd]
    push_cast; ring
  · refine ⟨i 0, v.d1.origin.toNat + i 1, h0, ?_⟩
    simp only [View.elem, hr, List.range_succ, List.range_zero, List.nil_append, List.cons_append, List.foldl_cons, List.foldl_nil, View.dim, hd, hd']
    push_cast; ring

/-- The residue of the position of an element is one that the view's rows cover. -/
theorem View.Periodic.covers {v : View} {s n : Nat} (h : v.Periodic s n) {i : Nat → Nat} (hi : v.inside i = true) :
    v.Covers s n ((((8 * v.base.toNat / v.eb : Nat) : Int) + v.elem i) % s) := by
  obtain ⟨m, t, hm, he⟩ := h.elem_eq hi
  refine ⟨m, hm, ?_⟩
  rw [he, ← add_assoc, ← add_assoc, Int.add_mul_emod_self_left]

/-- On its grid an element's bits begin at its position. -/
theorem View.bitAddr_of_grid {v : View} (h : 8 * v.base.toNat % v.eb = 0) (i : Nat → Nat) :
    v.bitAddr i = v.eb * (((8 * v.base.toNat / v.eb : Nat) : Int) + v.elem i) := by
  have e : v.eb * (8 * v.base.toNat / v.eb) = 8 * v.base.toNat := Nat.mul_div_cancel' (Nat.dvd_of_mod_eq_zero h)
  rw [View.bitAddr_eq, mul_add, ← Int.natCast_mul, e]
  push_cast; ring

/-- Elements of rows that are apart share no bit. -/
theorem View.RowsApart.disjoint {v w : View} (h : v.RowsApart w) {i j : Nat → Nat} (hi : v.inside i = true) (hj : w.inside j = true) :
    v.bitAddr i + v.eb ≤ w.bitAddr j ∨ w.bitAddr j + w.eb ≤ v.bitAddr i := by
  obtain ⟨he, h1, h2, s, n, n', pv, pw, hno⟩ := h
  rw [View.bitAddr_of_grid h1, View.bitAddr_of_grid h2, ← he]
  have hne : ((8 * v.base.toNat / v.eb : Nat) : Int) + v.elem i ≠ ((8 * w.base.toNat / v.eb : Nat) : Int) + w.elem j := fun e =>
    hno _ ⟨pv.covers hi, by rw [e, he]; exact pw.covers hj⟩
  rcases lt_or_gt_of_ne hne with hlt | hlt
  · left
    calc _ = (v.eb : Int) * (((8 * v.base.toNat / v.eb : Nat) : Int) + v.elem i + 1) := by ring
      _ ≤ _ := mul_le_mul_of_nonneg_left (by omega) (Int.natCast_nonneg _)
  · right
    calc _ = (v.eb : Int) * (((8 * w.base.toNat / v.eb : Nat) : Int) + w.elem j + 1) := by ring
      _ ≤ _ := mul_le_mul_of_nonneg_left (by omega) (Int.natCast_nonneg _)

/-- Settles O30: level 1 is the common byte of the hulls, which holds a common bit of two elements; level 2 the common residue, which elements that
coincide have. -/
theorem disjointVerdictIsSound : Obligations.DisjointVerdictIsSound := by
  unfold Obligations.DisjointVerdictIsSound
  intro k v w i j p q at_ touch
  have hone {p q : Span} (hp : p.lo ≤ p.hi) (hq : q.lo ≤ q.hi) : p.verdict q = 1 ↔ ¬ p.Touches q := by
    rw [Span.verdict_eq_one, ← Span.hullsMeet_iff hp hq, Bool.not_eq_true]
  refine ⟨fun hp hq => ⟨hone hp hq, fun hview ht => (Span.verdict_eq_three hview).2 ((Span.hullsMeet_iff hp hq).2 ht)⟩, fun hbase => ⟨fun hv hw => ?_, fun h3 hi hj => ?_⟩⟩
  · have hi := View.inside_zero hv
    have hj := View.inside_zero hw
    have hmeet := Span.hullsMeet_iff (p := v.toSpan k true) (q := w.toSpan k true) (View.hull_le hi) (View.hull_le hj)
    have hrows := View.residuesApart_iff k hbase hi hj
    refine ⟨hone (View.hull_le hi) (View.hull_le hj), ?_, ?_⟩
    · rw [Span.verdict_eq_two, hmeet, hrows]; rfl
    · rw [Span.verdict_eq_three_iff, hmeet, ← Bool.not_eq_true, hrows]; rfl
  · by_contra hover
    have ht := View.touches_of_overlap hi hj k (by omega) (by omega)
    have hmeet := (Span.hullsMeet_iff (p := v.toSpan k true) (q := w.toSpan k true) (View.hull_le hi) (View.hull_le hj)).2 ht
    refine hover (View.RowsApart.disjoint ((View.residuesApart_iff k hbase hi hj).1 ?_) hi hj)
    by_contra hno
    exact h3 ((Span.verdict_eq_three_iff ..).2 ⟨hmeet, Bool.eq_false_iff.2 hno⟩)

end Sys2Proof.Machine
end

section
/-! Setting views up, reading and retiring them (spec/07_views.md R158 to R162, R168, R171, R172). -/

namespace Sys2Proof

/-- Of two puts at one key the later stands. -/
theorem Map.put_put {α : Type} (m : Map α) (k : Nat) (a b : α) : Map.put (Map.put m k a) k b = Map.put m k b := by
  induction m with
  | nil => simp [Map.put]
  | cons p t ih =>
    obtain ⟨j, c⟩ := p
    by_cases h1 : k < j
    · simp [Map.put, h1]
    · by_cases h2 : k = j
      · simp [Map.put, h2]
      · simp [Map.put, h1, h2, ih]

end Sys2Proof

namespace Sys2Proof.Machine

/-- Of two values put in one view register the later stands. -/
theorem Core.setView_setView (c : Core) (q : Nat) (v w : View) : (c.setView q v).setView q w = { c.setView q w with writes := c.writes + 2 } := by
  simp only [Core.setView, Map.put_put]

/-- The model's count of register writes is no part of what completes. -/
theorem Completed.of_writes {e e' t : State} {pc : BitVec 32} {n : Nat} (h : Completed e' t pc) (hd : e.SameDevice e') (ho : ∀ k, k ≠ e.cur → e'.core k = e.core k)
    (hc : e'.c = { e.c with writes := n }) : Completed e t pc := by
  have hcur : e'.cur = e.cur := (congrArg State.cur hd :)
  have hctx : e'.c.ctx = e.c.ctx := by rw [hc]
  refine ⟨h.pc, by rw [h.instret, hctx], by rw [← hctx]; exact h.ctx, ?_, fun k hk => (h.others k (by rwa [hcur])).trans (ho k hk), hd.trans h.device⟩
  have hcore := congrArg (fun c : Core => { c with writes := e.c.writes }) h.core
  rw [hc] at hcore
  exact hcore

/-! The directory and retirement. -/

/-- What the executing core's registers hold is no part of what it waits for at `enter` (R160). -/
theorem State.blockers_modC (s : State) {f : Core → Core} (hf : (f s.c).act = s.c.act) (v : View) : (s.modC f).blockers s.cur v = s.blockers s.cur v := by
  have hjob : ((s.modC f).core s.cur).jobNum = (s.core s.cur).jobNum := by
    have hc : (s.modC f).core s.cur = f s.c := s.c_modC f
    rw [hc, Core.jobNum, hf]; rfl
  refine List.filter_congr fun j _ => ?_
  by_cases hj : j = s.cur
  · simp [hj]
  · rw [State.core_modC_other s f j hj, hjob]

/-- With no view to wait for the new geometry is entered (R160). -/
theorem State.enterAns_done {s0 s1 : State} {q : BitVec 4} {v : View} (hl : v.live = true) (hb : v.canWrite = true → s1.blockers s0.cur v = []) :
    s0.enterAns s1 q v = .done (s1.modC fun c => { c.setView q.toNat v with enterWait := none }) := by
  have hv : ({ v with live := true } : View) = v := by rw [← hl]
  have hgo : ¬ (v.canWrite && !(s1.blockers s0.cur v).isEmpty) = true := by
    cases hw : v.canWrite
    · simp
    · simp [hb hw]
  simp only [State.enterAns, hv]
  exact if_neg hgo

/-- Nothing is left for a view's retirement to wait for: every access through it is performed, and so are at its scope the writes of dirty lines
(R172). -/
def State.Retirable (s : State) (q : BitVec 4) : Prop :=
  s.c.viewQuiet q.toNat = true ∧ ((s.c.view q.toNat).scope = 0 → s.hullBacking (s.c.view q.toNat) = false)
    ∧ ((s.c.view q.toNat).scope ≠ 0 → s.c.l1Dirty = false ∧ ∀ p ∈ s.c.posted, p.kind ≠ 3)

/-- Then its checks let it go on. -/
theorem State.retireGates_go {s : State} {q : BitVec 4} (h : s.Retirable q) : firstStop (s.retireGates q) = .go := by
  obtain ⟨hquiet, hnear, hfar⟩ := h
  simp only [State.retireGates, hquiet, waitUntil_true, firstStop_go_cons]
  by_cases h0 : (s.c.view q.toNat).scope = 0
  · rw [if_pos h0, hnear h0]; rfl
  · obtain ⟨hclean, hposted⟩ := hfar h0
    have hl1 : (s.c.l1.any fun x => s.inHull (s.c.view q.toNat) x && decide (x.dirty ≠ 0)) = false := List.any_eq_false.2 fun x hx => by
      have hx' := List.any_eq_false.1 hclean x hx
      simp_all
    have hback : (s.c.posted.any fun p => decide (p.kind = 3)) = false := List.any_eq_false.2 fun p hp => by simpa using hposted p hp
    rw [if_neg h0, hl1, hback]; rfl

/-- A view retired and its register set again: set alone. -/
theorem perform_setView_retired {s : State} {q : BitVec 4} {v : View} (hroom : s.c.LogRoom) (hwait : s.c.enterWait = none) :
    ∃ t, perform s (.done ((s.modC fun c => c.retireView q).modC fun c => { c.setView q.toNat v with enterWait := none })) = .next t
      ∧ Completed (s.modC fun c => c.setView q.toNat v) t (s.c.pc + 4) := by
  obtain ⟨t, ht, hc⟩ := perform_done (s := s) (e := (s.modC fun c => c.retireView q).modC fun c => { c.setView q.toNat v with enterWait := none }) hroom rfl
  refine ⟨t, ht, hc.of_writes (n := s.c.writes + 2) rfl (fun k hk => ?_) ?_⟩
  · exact (State.core_modC_other (s.modC fun c => c.retireView q) _ k hk).trans ((State.core_modC_other s _ k hk).trans (State.core_modC_other s _ k hk).symm)
  · rw [State.c_modC, State.c_modC, State.c_modC, Core.retireView, Core.setView_setView, ← hwait]; rfl

/-- A view register set, that of a core which waits at no `enter`. -/
theorem perform_setView {s : State} {q : BitVec 4} {v : View} (hroom : s.c.LogRoom) (hwait : s.c.enterWait = none) :
    ∃ t, perform s (.done (s.modC fun c => { c.setView q.toNat v with enterWait := none })) = .next t
      ∧ Completed (s.modC fun c => c.setView q.toNat v) t (s.c.pc + 4) := by
  have he : (s.modC fun c => { c.setView q.toNat v with enterWait := none }) = s.modC fun c => c.setView q.toNat v := by
    have hc : ({ s.c.setView q.toNat v with enterWait := none } : Core) = s.c.setView q.toNat v := by rw [← hwait]; rfl
    exact congrArg s.setC hc
  rw [he]
  exact perform_done hroom rfl

/-! The view fault. -/

/-- TVAL of a view fault without a dimension (R171). -/
theorem viewTval_eq (reason q : Nat) : viewTval reason q = BitVec.ofNat 64 (reason * 2 ^ 60 + q * 2 ^ 56) :=
  congrArg (BitVec.ofNat 64) (by omega)

/-- A view check whose condition holds, behind checks that pass. -/
theorem perform_viewIf {s : State} {gs hs : List Gate} {k : Unit → Ans} {q : BitVec 4} {reason : Nat} {b : Bool} (h : firstStop gs = .go) (hb : b = true) :
    perform s (checkedThen s (gs ++ viewIf b reason q :: hs) k) = .next (s.takeTrap s.cur 9 (BitVec.ofNat 64 (reason * 2 ^ 60 + q.toNat * 2 ^ 56))) := by
  rw [hb, ← viewTval_eq]
  exact perform_checkedThen_trap h

/-- A view check whose condition does not hold. -/
theorem viewIf_false {b : Bool} (h : b = false) (reason : Nat) (q : BitVec 4) : viewIf b reason q = .go := by rw [h]; rfl

/-- A base is misaligned for a type of one byte or more where it is no multiple of the type's bytes (R159). -/
theorem baseMisaligned_iff (ty : BitVec 5) (a : XWord) : baseMisaligned ty a = true ↔ 1 ≤ typeBits ty.toNat / 8 ∧ a.toNat % (typeBits ty.toNat / 8) ≠ 0 := by
  have h8 : 8 ≤ typeBits ty.toNat ↔ 1 ≤ typeBits ty.toNat / 8 := by omega
  simp only [baseMisaligned, Bool.and_eq_true, decide_eq_true_eq, h8]

/-! Set-up. -/

/-- Base and header word of `vw.set` that the fault of reason 4 refuses (R159). -/
def badHeader (a h : XWord) : Bool :=
  decide ((setView a h).perm = 0) || decide (18 ≤ (setView a h).ty.toNat) || decide (5 ≤ (setView a h).scope.toNat) || baseMisaligned (setView a h).ty a

/-- The reserved values of `vw.set`, spelled out. -/
theorem badHeader_iff (a h : XWord) : badHeader a h = true ↔ h.extractLsb' 6 2 = 0 ∨ 18 ≤ (h.extractLsb' 0 5).toNat ∨ 5 ≤ (h.extractLsb' 20 3).toNat
    ∨ (1 ≤ typeBits (h.extractLsb' 0 5).toNat / 8 ∧ a.toNat % (typeBits (h.extractLsb' 0 5).toNat / 8) ≠ 0) := by
  simp only [badHeader, Bool.or_eq_true, decide_eq_true_eq, baseMisaligned_iff, or_assoc]
  rfl

section SetUp

variable {q : BitVec 4} {n : BitVec 2} {sa sb : Src} {s : State}

/-- `vw.set` looks at its sources, at its header word and at what it retires. -/
theorem exec_vwSet (q : BitVec 4) (sa sb : Src) (s : State) : exec (.vwSet q sa sb) s = perform s (checkedThen s
    (srcGates s.c (src2 sa sb) ++ viewIf (badHeader (s.c.x sa.n) (s.c.x sb.n)) 4 q :: if (s.c.view q.toNat).live then s.retireGates q else []) fun _ =>
    s.enterAns (if (s.c.view q.toNat).live then s.modC fun c => c.retireView q else s) q (setView (s.c.x sa.n) (s.c.x sb.n))) := by
  change execVwSet q sa sb s = _
  rw [execVwSet, List.append_assoc]; rfl

/-- `vw.set` of reserved values traps. -/
theorem traps_vwSet (hs : s.c.SrcsReady (src2 sa sb)) (h : badHeader (s.c.x sa.n) (s.c.x sb.n) = true) :
    Traps (.vwSet q sa sb) s 9 (BitVec.ofNat 64 (4 * 2 ^ 60 + q.toNat * 2 ^ 56)) := by
  rw [Traps, exec_vwSet]
  exact perform_viewIf (srcGates_ready hs) h

/-- `vw.set` makes its view, once what it retires is retired and no writer of the job blocks it. -/
theorem completes_vwSet (hs : s.c.SrcsReady (src2 sa sb)) (hroom : s.c.LogRoom) (hwait : s.c.enterWait = none)
    (h : badHeader (s.c.x sa.n) (s.c.x sb.n) = false) (hret : (s.c.view q.toNat).live = true → s.Retirable q)
    (hfree : (setView (s.c.x sa.n) (s.c.x sb.n)).canWrite = true → s.blockers s.cur (setView (s.c.x sa.n) (s.c.x sb.n)) = []) :
    Completes (.vwSet q sa sb) s (s.modC fun c => c.setView q.toNat (setView (s.c.x sa.n) (s.c.x sb.n))) := by
  rw [Completes, CompletesAt, exec_vwSet, viewIf_false h]
  by_cases hlive : (s.c.view q.toNat).live = true
  · have hgo : firstStop (srcGates s.c (src2 sa sb) ++ .go :: s.retireGates q) = .go := by
      rw [firstStop_append (srcGates_ready hs), firstStop_go_cons, State.retireGates_go (hret hlive)]
    rw [if_pos hlive, if_pos hlive, checkedThen_go hgo, State.enterAns_done rfl fun hw => (s.blockers_modC rfl _).trans (hfree hw)]
    exact perform_setView_retired hroom hwait
  · have hgo : firstStop (srcGates s.c (src2 sa sb) ++ [.go]) = .go := firstStop_append (srcGates_ready hs)
    rw [if_neg hlive, if_neg hlive, checkedThen_go hgo, State.enterAns_done rfl hfree]
    exact perform_setView hroom hwait

/-- The view of `vw.dim`. -/
def dimmed (v : View) (n : BitVec 2) (w x : XWord) : View := v.setDim n.toNat ⟨x.setWidth 32, w.extractLsb' 16 16, w.setWidth 16⟩

/-- A dimension replaced leaves a view live. -/
theorem View.setDim_live (v : View) (n : Nat) (d : Dim) : (v.setDim n d).live = v.live := by
  unfold View.setDim; split <;> rfl

/-- `vw.dim` looks at its sources, at its view and at its dimension word. -/
theorem exec_vwDim (q : BitVec 4) (n : BitVec 2) (sa sb : Src) (s : State) : exec (.vwDim q n sa sb) s = perform s (checkedThen s
    (srcGates s.c (src2 sa sb) ++ [viewIf (!(s.c.view q.toNat).live) 1 q,
      viewIf (decide ((s.c.view q.toNat).rankm1 < n) || decide ((s.c.x sa.n).setWidth 16 = 0)) 4 q]) fun _ =>
    s.enterAns s q (dimmed (s.c.view q.toNat) n (s.c.x sa.n) (s.c.x sb.n))) := rfl

/-- `vw.dim` replaces its dimension. -/
theorem completes_vwDim (hs : s.c.SrcsReady (src2 sa sb)) (hroom : s.c.LogRoom) (hwait : s.c.enterWait = none) (hlive : (s.c.view q.toNat).live = true)
    (hn : n.toNat ≤ (s.c.view q.toNat).rankm1.toNat) (hext : (s.c.x sa.n).setWidth 16 ≠ (0 : BitVec 16))
    (hfree : (dimmed (s.c.view q.toNat) n (s.c.x sa.n) (s.c.x sb.n)).canWrite = true → s.blockers s.cur (dimmed (s.c.view q.toNat) n (s.c.x sa.n) (s.c.x sb.n)) = []) :
    Completes (.vwDim q n sa sb) s (s.modC fun c => c.setView q.toNat (dimmed (s.c.view q.toNat) n (s.c.x sa.n) (s.c.x sb.n))) := by
  have hbad : (decide ((s.c.view q.toNat).rankm1 < n) || decide ((s.c.x sa.n).setWidth 16 = (0 : BitVec 16))) = false := by
    rw [decide_eq_false hext, decide_eq_false (by rw [BitVec.lt_def]; omega)]; rfl
  have hl : (dimmed (s.c.view q.toNat) n (s.c.x sa.n) (s.c.x sb.n)).live = true := (View.setDim_live ..).trans hlive
  rw [Completes, CompletesAt, exec_vwDim, viewIf_false (by rw [hlive]; rfl), viewIf_false hbad, checkedThen_go (firstStop_append (srcGates_ready hs)),
    State.enterAns_done hl hfree]
  exact perform_setView hroom hwait

/-- `vw.dim` of a dimension beyond the rank, or of an empty one, traps. -/
theorem traps_vwDim (hs : s.c.SrcsReady (src2 sa sb)) (hlive : (s.c.view q.toNat).live = true)
    (hbad : (s.c.view q.toNat).rankm1.toNat < n.toNat ∨ (s.c.x sa.n).setWidth 16 = (0 : BitVec 16)) :
    Traps (.vwDim q n sa sb) s 9 (BitVec.ofNat 64 (4 * 2 ^ 60 + q.toNat * 2 ^ 56)) := by
  rw [Traps, exec_vwDim, viewIf_false (by rw [hlive]; rfl), List.append_cons]
  refine perform_viewIf (firstStop_append (srcGates_ready hs)) ?_
  rw [Bool.or_eq_true, decide_eq_true_eq, decide_eq_true_eq, BitVec.lt_def]
  exact hbad

/-- The view of `vw.fmt`. -/
def formatted (v : View) (h : XWord) : View := { v with ty := h.extractLsb' 0 5, scv := h.extractLsb' 12 4, sce := h.getLsbD 16, kdim := h.extractLsb' 17 2 }

/-- `vw.fmt` looks at its source, at its view and at its type. -/
theorem exec_vwFmt (q : BitVec 4) (sa : Src) (s : State) : exec (.vwFmt q sa) s = perform s (checkedThen s
    (srcGates s.c (src1 sa) ++ [viewIf (!(s.c.view q.toNat).live) 1 q,
      viewIf (decide (18 ≤ ((s.c.x sa.n).extractLsb' 0 5).toNat) || baseMisaligned ((s.c.x sa.n).extractLsb' 0 5) (s.c.view q.toNat).base) 4 q]) fun _ =>
    s.enterAns s q (formatted (s.c.view q.toNat) (s.c.x sa.n))) := rfl

/-- `vw.fmt` replaces the type and the companion fields. -/
theorem completes_vwFmt (hs : s.c.SrcsReady (src1 sa)) (hroom : s.c.LogRoom) (hwait : s.c.enterWait = none) (hlive : (s.c.view q.toNat).live = true)
    (hty : ((s.c.x sa.n).extractLsb' 0 5).toNat < 18) (hbase : ¬ baseMisaligned ((s.c.x sa.n).extractLsb' 0 5) (s.c.view q.toNat).base = true)
    (hfree : (formatted (s.c.view q.toNat) (s.c.x sa.n)).canWrite = true → s.blockers s.cur (formatted (s.c.view q.toNat) (s.c.x sa.n)) = []) :
    Completes (.vwFmt q sa) s (s.modC fun c => c.setView q.toNat (formatted (s.c.view q.toNat) (s.c.x sa.n))) := by
  have hbad : (decide (18 ≤ ((s.c.x sa.n).extractLsb' 0 5).toNat) || baseMisaligned ((s.c.x sa.n).extractLsb' 0 5) (s.c.view q.toNat).base) = false := by
    rw [Bool.eq_false_iff.2 hbase, decide_eq_false (not_le.2 hty)]; rfl
  have hl : (formatted (s.c.view q.toNat) (s.c.x sa.n)).live = true := hlive
  rw [Completes, CompletesAt, exec_vwFmt, viewIf_false (by rw [hlive]; rfl), viewIf_false hbad, checkedThen_go (firstStop_append (srcGates_ready hs)),
    State.enterAns_done hl hfree]
  exact perform_setView hroom hwait

/-- `vw.fmt` of a reserved type, or of one that the base is misaligned for, traps. -/
theorem traps_vwFmt (hs : s.c.SrcsReady (src1 sa)) (hlive : (s.c.view q.toNat).live = true)
    (hbad : 18 ≤ ((s.c.x sa.n).extractLsb' 0 5).toNat ∨ baseMisaligned ((s.c.x sa.n).extractLsb' 0 5) (s.c.view q.toNat).base = true) :
    Traps (.vwFmt q sa) s 9 (BitVec.ofNat 64 (4 * 2 ^ 60 + q.toNat * 2 ^ 56)) := by
  rw [Traps, exec_vwFmt, viewIf_false (by rw [hlive]; rfl), List.append_cons]
  refine perform_viewIf (firstStop_append (srcGates_ready hs)) ?_
  rwa [Bool.or_eq_true, decide_eq_true_eq]

/-- `vw.ret` looks at its view and at what retirement waits for. -/
theorem exec_vwRet (q : BitVec 4) (s : State) : exec (.vwRet q) s = perform s (checkedThen s
    (viewIf (!(s.c.view q.toNat).live) 1 q :: s.retireGates q) fun _ => .done (s.modC fun c => c.retireView q)) := rfl

/-- What names a view that is not live traps. -/
theorem traps_not_live (hs : s.c.SrcsReady (src2 sa sb)) (hs' : s.c.SrcsReady (src1 sa)) (hdead : (s.c.view q.toNat).live = false) :
    Traps (.vwDim q n sa sb) s 9 (BitVec.ofNat 64 (1 * 2 ^ 60 + q.toNat * 2 ^ 56)) ∧ Traps (.vwFmt q sa) s 9 (BitVec.ofNat 64 (1 * 2 ^ 60 + q.toNat * 2 ^ 56))
      ∧ Traps (.vwRet q) s 9 (BitVec.ofNat 64 (1 * 2 ^ 60 + q.toNat * 2 ^ 56)) := by
  have hb : (!(s.c.view q.toNat).live) = true := by rw [hdead]; rfl
  refine ⟨?_, ?_, ?_⟩
  · rw [Traps, exec_vwDim]; exact perform_viewIf (srcGates_ready hs) hb
  · rw [Traps, exec_vwFmt]; exact perform_viewIf (srcGates_ready hs') hb
  · rw [Traps, exec_vwRet]; exact perform_viewIf (gs := []) rfl hb

/-- `vw.ret` clears LIVE alone. -/
theorem completes_vwRet (hroom : s.c.LogRoom) (hlive : (s.c.view q.toNat).live = true) (h : s.Retirable q) :
    Completes (.vwRet q) s (s.modC fun c => c.setView q.toNat { s.c.view q.toNat with live := false }) := by
  have hgo : firstStop (.go :: s.retireGates q) = .go := State.retireGates_go h
  rw [Completes, CompletesAt, exec_vwRet, viewIf_false (by rw [hlive]; rfl), checkedThen_go hgo]
  exact perform_done hroom rfl

/-- `vw.ret` waits while an access through its view is not performed. -/
theorem waits_vwRet (hlive : (s.c.view q.toNat).live = true) (h : s.c.viewQuiet q.toNat = false) : Waits (.vwRet q) s := by
  rw [Waits, exec_vwRet, viewIf_false (by rw [hlive]; rfl), State.retireGates, h]; rfl

end SetUp

/-! Reading. -/

/-- One bit as a number. -/
theorem toNat_bb (b : Bool) : (bb b).toNat = b.toNat := by cases b <;> rfl

/-- A word is the word of its number. -/
theorem eq_ofNat_of_toNat {w n : Nat} {x : BitVec w} (h : x.toNat = n) : x = BitVec.ofNat w n := by
  rw [← h, BitVec.ofNat_toNat, BitVec.setWidth_eq]

/-- The header word by its fields (R151). -/
theorem View.header_eq (v : View) : v.header = BitVec.ofNat 64 (v.live.toNat * 2 ^ 63 + v.scope.toNat * 2 ^ 20 + v.kdim.toNat * 2 ^ 17 + v.sce.toNat * 2 ^ 16
    + v.scv.toNat * 2 ^ 12 + v.rankm1.toNat * 2 ^ 8 + v.perm.toNat * 2 ^ 6 + v.ty.toNat) := by
  refine eq_ofNat_of_toNat ?_
  simp only [View.header, toNat_append_eq, toNat_bb, BitVec.toNat_ofNat, BitVec.ofNat_eq_ofNat]
  omega

/-- A dimension word by its fields (R153). -/
theorem Dim.word_eq (d : Dim) : d.word = BitVec.ofNat 64 (d.stride.toNat * 2 ^ 32 + d.origin.toNat * 2 ^ 16 + d.extent.toNat) := by
  refine eq_ofNat_of_toNat ?_
  simp only [Dim.word, toNat_append_eq]
  omega

/-- Settles O29: each instruction is its sources' test, its view's checks, and its effect. -/
theorem viewsSetReadAndRetired : Obligations.ViewsSetReadAndRetired := by
  unfold Obligations.ViewsSetReadAndRetired
  constructor
  · intro q n sa sb s hs hroom hwait a h v bytes misaligned enters fault ty bad
    have hs' : s.c.SrcsReady (src1 sa) := fun p hp => hs p (by simp_all [src1, src2])
    have hbad := badHeader_iff a h
    refine ⟨fun hok hret hfree => completes_vwSet hs hroom hwait (Bool.eq_false_iff.2 (mt hbad.1 hok)) hret hfree, fun hb => traps_vwSet hs (hbad.2 hb),
      fun hlive hn hext hfree => completes_vwDim hs hroom hwait hlive hn hext hfree, fun hlive hb => traps_vwDim hs hlive hb,
      fun hlive hty hal hfree => completes_vwFmt hs' hroom hwait hlive hty (mt (baseMisaligned_iff _ _).1 hal) hfree,
      fun hlive hb => traps_vwFmt hs' hlive (hb.imp_right (baseMisaligned_iff _ _).2), fun hdead => traps_not_live hs hs' hdead⟩
  · intro rd q r s hroom v w writes dim
    refine ⟨fun hd => ?_, fun hlive hquiet hnear hfar => completes_vwRet hroom hlive ⟨hquiet, hnear, hfar⟩, waits_vwRet⟩
    have hget (n : BitVec 3) {x : Nat} (hx : (s.c.view q.toNat).wordOf n.toNat = BitVec.ofNat 64 x) : writes (.vwGet rd q n) x := by
      obtain ⟨t, ht, hc⟩ := perform_regAns ((s.c.view q.toNat).wordOf n.toNat) (s := s) (srcs := []) (rd := rd) ⟨fun _ h => absurd h List.not_mem_nil, hd, hroom⟩
      exact ⟨t, ht, hx ▸ hc⟩
    refine ⟨hget 0 ?_, hget 1 (View.header_eq v), hget 2 (Dim.word_eq _), hget 3 (Dim.word_eq _), hget 4 (Dim.word_eq _), hget 5 (Dim.word_eq _), ?_⟩
    · exact eq_ofNat_of_toNat rfl
    · have hv : s.meetVerdict s.cur q r = BitVec.ofNat 64 (if v.live = true ∧ w.live = true then (v.toSpan s.cur true).verdict (w.toSpan s.cur true) else 0) := by
        change (if v.live && w.live then BitVec.ofNat 64 ((v.toSpan s.cur true).verdict (w.toSpan s.cur true)) else 0) = _
        simp only [Bool.and_eq_true]
        split <;> rfl
      obtain ⟨t, ht, hc⟩ := perform_regAns (s.meetVerdict s.cur q r) (s := s) (srcs := []) (rd := rd) ⟨fun _ h => absurd h List.not_mem_nil, hd, hroom⟩
      exact ⟨t, ht, hv ▸ hc⟩

end Sys2Proof.Machine
end

section
/-! The bits of the own scratchpad that a run of elements moves (spec/07_views.md R154, R169): a line's bits, a lane's, a run's. -/

namespace Sys2Proof.Machine

/-- A number made of a list of bytes has the bits of each byte in turn. -/
theorem testBit_leNat_readList (m : Memory) (p n : Nat) {i r : Nat} (hi : i < n) (hr : r < 8) :
    (leNat (m.readList p n)).testBit (8 * i + r) = (m.read (p + i)).getLsbD r := by
  induction n generalizing p i with
  | zero => omega
  | succ n ih =>
    have hsplit : leNat (m.readList p (n + 1)) = 2 ^ 8 * leNat (m.readList (p + 1) n) + (m.read p).toNat := Nat.add_comm ..
    rw [hsplit, Nat.testBit_two_pow_mul_add _ (m.read p).isLt]
    cases i with
    | zero => rw [Nat.mul_zero, Nat.zero_add, if_pos hr]; rfl
    | succ i =>
      have hge : ¬ 8 * (i + 1) + r < 8 := by omega
      have hsub : 8 * (i + 1) + r - 8 = 8 * i + r := by omega
      rw [if_neg hge, hsub, ih (p + 1) (by omega), Nat.add_assoc, Nat.add_comm 1]

/-- A line's bits are those of its bytes. -/
theorem State.testBit_line (s : State) (p : Nat) {i r : Nat} (hi : i < 128) (hr : r < 8) :
    (s.line p).toNat.testBit (8 * i + r) = (s.byte (p + i)).getLsbD r := by
  rw [State.line, BitVec.toNat_ofNat, Nat.mod_eq_of_lt (s.load_lt p 128)]
  exact testBit_leNat_readList s.mem p 128 hi hr

/-- A bit of the own scratchpad. -/
def State.ownBit (s : State) (b : Nat) : Bool := (s.byte (placePad s.cur (b / 8))).getLsbD (b % 8)

/-- Some bits of the own scratchpad, from bit `b` on, as a number: `w` bits of the line that holds bit `b`. -/
def State.ownBits (s : State) (b w : Nat) : Nat := (s.line (lineOf (placePad s.cur (b / 8)))).toNat / 2 ^ (b % 1024) % 2 ^ w

/-- They are the bits there, where they lie in one line. -/
theorem State.testBit_ownBits (s : State) {b w : Nat} (h : b % 1024 + w ≤ 1024) (j : Nat) : (s.ownBits b w).testBit j = (decide (j < w) && s.ownBit (b + j)) := by
  rw [State.ownBits, Nat.testBit_mod_two_pow, Nat.testBit_div_two_pow]
  by_cases hj : j < w
  · have hsplit : j + b % 1024 = 8 * ((b + j) / 8 % 128) + (b + j) % 8 := by omega
    have hplace : lineOf (placePad s.cur (b / 8)) + (b + j) / 8 % 128 = placePad s.cur ((b + j) / 8) := by rw [lineOf, placePad, placePad]; omega
    rw [hsplit, State.testBit_line _ _ (by omega) (by omega), hplace, State.ownBit]
  · simp [hj]

/-- Bits that are no more than `w` of a line are a number below `2 ^ w`. -/
theorem State.ownBits_lt (s : State) (b w : Nat) : s.ownBits b w < 2 ^ w := Nat.mod_lt _ (Nat.two_pow_pos w)

/-- Bits on either side of the end of a byte, put one behind the other. -/
theorem State.testBit_ownBits_join (s : State) {b w w' : Nat} (h : b % 1024 + w ≤ 1024) (h' : (b + w) % 1024 + w' ≤ 1024) (j : Nat) :
    (s.ownBits b w + s.ownBits (b + w) w' * 2 ^ w).testBit j = (decide (j < w + w') && s.ownBit (b + j)) := by
  rw [Nat.add_comm, Nat.mul_comm, Nat.testBit_two_pow_mul_add _ (s.ownBits_lt b w), s.testBit_ownBits h, s.testBit_ownBits h']
  by_cases hj : j < w
  · simp [hj, Nat.lt_add_right w' hj]
  · have hiff : j - w < w' ↔ j < w + w' := by omega
    have hsum : b + w + (j - w) = b + j := by omega
    rw [if_neg hj, hsum, decide_eq_decide.2 hiff]

/-! The lanes of a run. -/

/-- The bit of the own scratchpad at which lane `l` of a run begins. -/
def View.bitAt (v : View) (p : XWord) (l : Nat) : Nat := (v.bitAddr (posIndex p l)).toNat

/-- The lanes of a run lie in a scratchpad of `sz` bytes, each aligned to its width if that is a byte or more. -/
def View.RunWithin (v : View) (p : XWord) (sz : Nat) : Prop :=
  ∀ l, l < v.runLanes p → 0 ≤ v.bitAddr (posIndex p l) ∧ v.bitAt p l + v.eb ≤ 8 * sz ∧ (8 ≤ v.eb → v.bitAt p l % v.eb = 0)

/-- The element widths (spec/07_views.md R152). -/
theorem View.eb_cases (v : View) : v.eb = 4 ∨ v.eb = 6 ∨ v.eb = 8 ∨ v.eb = 16 ∨ v.eb = 32 ∨ v.eb = 64 := by
  unfold View.eb typeBits
  split_ifs <;> simp

/-- A run's lanes fit the register. -/
theorem View.runLanes_fit (v : View) (p : XWord) : v.eb * v.runLanes p ≤ 1024 := by
  have hm : v.runLanes p ≤ 1024 / v.eb := by unfold View.runLanes; omega
  exact (Nat.mul_le_mul_left _ hm).trans (Nat.mul_div_le ..)

/-- The lane of an element of width `w` at bit `b`. -/
def laneAtBit (b w dst : Nat) : Lane := ⟨BitVec.ofNat 64 (b / 8), max 1 (w / 8), b % 8, w, dst⟩

/-- The byte address of a bit that is no negative number. -/
theorem byteAddr_of_nonneg {b : Int} (h : 0 ≤ b) : byteAddr b = BitVec.ofNat 64 (b.toNat / 8) := by
  have e : b / 8 = ((b.toNat / 8 : Nat) : Int) := by omega
  rw [byteAddr, e, BitVec.ofInt_natCast]

/-- The lanes of a run that lies in the scratchpad. -/
theorem View.lanes_eq {v : View} {p : XWord} {sz : Nat} (h : v.RunWithin p sz) :
    v.lanes p = (List.range (v.runLanes p)).map fun l => laneAtBit (v.bitAt p l) v.eb (v.eb * l) := by
  refine List.map_congr_left fun l hl => ?_
  have h0 := (h l (List.mem_range.1 hl)).1
  have hmod : (v.bitAddr (posIndex p l) % 8).toNat = v.bitAt p l % 8 := by unfold View.bitAt; omega
  simp only [byteAddr_of_nonneg h0, hmod, laneAtBit]
  rfl

/-- Bits of the own scratchpad that go to one place of a register. -/
structure BitRun where
  bit : Nat
  width : Nat
  dst : Nat

/-- The bits of a lane by the bytes they are read from: of a narrow lane that reaches into a second byte those of each. -/
def laneRuns (b w dst : Nat) : List BitRun :=
  if w < 8 ∧ 8 < b % 8 + w then [⟨b, 8 - b % 8, dst⟩, ⟨b + (8 - b % 8), b % 8 + w - 8, dst + (8 - b % 8)⟩] else [⟨b, w, dst⟩]

/-- The slice that reads some bits. -/
def State.sliceOf (s : State) (r : BitRun) : Slice := ⟨s.ownTgt (BitVec.ofNat 64 (r.bit / 8)), BitVec.ofNat 64 (r.bit / 8), r.bit % 1024, r.width, r.dst⟩

/-- Bits within one line of the own scratchpad. -/
structure State.RunOwn (s : State) (r : BitRun) : Prop where
  line : r.bit % 1024 + r.width ≤ 1024
  inside : r.bit / 8 < s.c.spsize
  ready : s.LineReady (BitVec.ofNat 64 (r.bit / 8))

/-- An element of the own scratchpad: in it, aligned if a byte or wider, in lines that can be read. -/
structure State.ElemOwn (s : State) (b w : Nat) : Prop where
  width : w = 4 ∨ w = 6 ∨ w = 8 ∨ w = 16 ∨ w = 32 ∨ w = 64
  inside : b + w ≤ 8 * s.c.spsize
  aligned : 8 ≤ w → b % w = 0

section Lanes

variable {s : State} {b w : Nat}

/-- The number of an address in the own scratchpad. -/
theorem State.toNat_ownAddr {a : Nat} (h : a ≤ s.c.spsize) : (BitVec.ofNat 64 a).toNat = a := by
  have := Carve.spsize_le s.c.carve
  have : s.c.spsize = s.c.carve.spsize := rfl
  rw [BitVec.toNat_ofNat, Nat.mod_eq_of_lt (by omega)]

/-- The check of the bytes of an element passes, and finds them in the own scratchpad. -/
theorem State.ElemOwn.check (h : s.ElemOwn b w) (kind : AKind) :
    s.check s.cur (BitVec.ofNat 64 (b / 8)) (max 1 (w / 8)) kind = .ok (s.ownTgt (BitVec.ofNat 64 (b / 8))) := by
  obtain ⟨hw, hin, hal⟩ := h
  have ha := State.toNat_ownAddr (s := s) (a := b / 8) (by omega)
  refine State.check_own ?_ ?_ (by omega) kind true
  · rw [ha]; rcases hw with rfl | rfl | rfl | rfl | rfl | rfl <;> simp at hal ⊢ <;> omega
  · rw [ha]; rcases hw with rfl | rfl | rfl | rfl | rfl | rfl <;> simp at hal ⊢ <;> omega

/-- So does that of the byte after, where a narrow element reaches into it. -/
theorem State.ElemOwn.check_next (h : s.ElemOwn b w) (h8 : 8 < b % 8 + w) (kind : AKind) :
    BitVec.ofNat 64 (b / 8) + 1 = BitVec.ofNat 64 ((b + (8 - b % 8)) / 8)
      ∧ s.check s.cur (BitVec.ofNat 64 (b / 8) + 1) 1 kind = .ok (s.ownTgt (BitVec.ofNat 64 ((b + (8 - b % 8)) / 8))) := by
  have hin := h.inside
  have hnext : BitVec.ofNat 64 (b / 8) + 1 = BitVec.ofNat 64 ((b + (8 - b % 8)) / 8) := by
    have e : (b + (8 - b % 8)) / 8 = b / 8 + 1 := by omega
    rw [e, BitVec.ofNat_add]; rfl
  have ha := State.toNat_ownAddr (s := s) (a := (b + (8 - b % 8)) / 8) (by omega)
  refine ⟨hnext, ?_⟩
  rw [hnext]
  exact State.check_own (Nat.mod_one _) (by rw [ha]; omega) Nat.one_pos kind true

/-- A lane reaches into a second byte. -/
theorem straddles_laneAtBit (b w dst : Nat) : (laneAtBit b w dst).straddles = true ↔ w < 8 ∧ 8 < b % 8 + w := by
  rw [Lane.straddles, Bool.and_eq_true, decide_eq_true_eq, decide_eq_true_eq]; rfl

/-- The checks of a lane of the own scratchpad pass. -/
theorem State.ElemOwn.laneChecks_go (h : s.ElemOwn b w) (dst : Nat) : ∀ g ∈ s.laneChecks s.cur (laneAtBit b w dst), g = .go := by
  have hfirst := (State.checkGate_ok (h.check .read)).1
  intro g hg
  rcases List.mem_cons.1 hg with rfl | hg
  · exact hfirst
  · split at hg
    · next hstr =>
      obtain ⟨-, h8⟩ := (straddles_laneAtBit b w dst).1 hstr
      rw [List.mem_singleton.1 hg]
      exact (State.checkGate_ok (h.check_next h8 .read).2).1
    · exact absurd hg List.not_mem_nil

/-- The slices of such a lane. -/
theorem State.ElemOwn.laneSlices_eq (h : s.ElemOwn b w) (dst : Nat) : s.laneSlices s.cur (laneAtBit b w dst) = (laneRuns b w dst).map s.sliceOf := by
  have ht := (State.checkGate_ok (h.check .read)).2
  have hin := h.inside
  have ha := State.toNat_ownAddr (s := s) (a := b / 8) (by omega)
  have hplace (a : Nat) : placePad s.cur a % 128 = a % 128 := placePad_mod ..
  unfold State.laneSlices
  by_cases hstr : (laneAtBit b w dst).straddles = true
  · obtain ⟨hw, h8⟩ := (straddles_laneAtBit b w dst).1 hstr
    obtain ⟨hnext, hck⟩ := h.check_next h8 .read
    have ht' := (State.checkGate_ok hck).2
    have ha' := State.toNat_ownAddr (s := s) (a := (b + (8 - b % 8)) / 8) (by omega)
    have e1 : 8 * (b / 8 % 128) + b % 8 = b % 1024 := by omega
    have e2 : 8 * ((b + (8 - b % 8)) / 8 % 128) + 0 = (b + (8 - b % 8)) % 1024 := by omega
    simp only [if_pos hstr]
    simp only [laneRuns, if_pos (And.intro hw h8), List.map_cons, List.map_nil, State.sliceOf, laneAtBit] at ht ht' ⊢
    rw [ht, ht', hnext]
    simp only [State.ownTgt, ha, ha', hplace, e1, e2]
  · have hno : ¬ (w < 8 ∧ 8 < b % 8 + w) := mt (straddles_laneAtBit b w dst).2 hstr
    have e1 : 8 * (b / 8 % 128) + b % 8 = b % 1024 := by omega
    simp only [if_neg hstr]
    simp only [laneRuns, if_neg hno, List.map_cons, List.map_nil, State.sliceOf, laneAtBit] at ht ⊢
    rw [ht]
    simp only [State.ownTgt, ha, hplace, e1]

/-- The bits of a lane that can be read lie in lines that can. -/
theorem State.ElemOwn.runOwn (h : s.ElemOwn b w) (h1 : s.LineReady (BitVec.ofNat 64 (b / 8))) (h2 : s.LineReady (BitVec.ofNat 64 ((b + w - 1) / 8))) (dst : Nat) :
    ∀ r ∈ laneRuns b w dst, s.RunOwn r := by
  obtain ⟨hw, hin, hal⟩ := h
  intro r hr
  unfold laneRuns at hr
  split at hr
  · next hstr =>
    rcases List.mem_cons.1 hr with rfl | hr
    · exact ⟨by dsimp only; omega, by dsimp only; omega, h1⟩
    · rw [List.mem_singleton.1 hr]
      have e : (b + (8 - b % 8)) / 8 = (b + w - 1) / 8 := by omega
      exact ⟨by dsimp only; omega, by dsimp only; omega, by rw [e]; exact h2⟩
  · next hno =>
    rw [List.mem_singleton.1 hr]
    refine ⟨?_, by dsimp only; omega, h1⟩
    rcases hw with rfl | rfl | rfl | rfl | rfl | rfl <;> simp at hal hno ⊢ <;> omega

/-- The bits of a lane put into a number are those of its element. -/
theorem State.foldl_laneRuns (h : ∀ r ∈ laneRuns b w dst, s.RunOwn r) :
    ∃ x < 2 ^ w, (∀ j, x.testBit j = (decide (j < w) && s.ownBit (b + j)))
      ∧ ∀ n, (laneRuns b w dst).foldl (fun n r => n + s.ownBits r.bit r.width * 2 ^ r.dst) n = n + x * 2 ^ dst := by
  unfold laneRuns at h ⊢
  split
  · next hstr =>
    rw [if_pos hstr] at h
    have h1 := (h _ (List.mem_cons_self ..)).line
    have h2 := (h _ (List.mem_cons_of_mem _ (List.mem_singleton_self _))).line
    have hsum : 8 - b % 8 + (b % 8 + w - 8) = w := by omega
    have hbits := s.testBit_ownBits_join h1 h2
    dsimp only at hbits
    rw [hsum] at hbits
    refine ⟨_, ?_, hbits, fun n => ?_⟩
    · exact Nat.lt_pow_two_of_testBit _ fun j hj => by rw [hbits]; simp [Nat.not_lt.2 hj]
    · simp only [List.foldl_cons, List.foldl_nil]
      rw [Nat.pow_add]; ring
  · next hno =>
    rw [if_neg hno] at h
    exact ⟨_, s.ownBits_lt b w, s.testBit_ownBits (h _ (List.mem_singleton_self _)).line, fun n => rfl⟩

end Lanes

end Sys2Proof.Machine
end

section
/-! A run loaded from the own scratchpad (spec/07_views.md R169). -/

namespace Sys2Proof.Machine

/-! The lines of a run, and what their slices make of them. -/

/-- The parts of a run of slices of the own scratchpad: each a line of one of them as it stands, and each one's line among them. -/
structure State.PartsOf (s : State) (sl : List Slice) (ps : List Part) : Prop where
  each : ∀ p ∈ ps, p.own = true ∧ p.got = some (s.line p.line) ∧ ∃ x ∈ sl, p.line = lineOf x.t.place
  all : ∀ x ∈ sl, ∃ p ∈ ps, p.line = lineOf x.t.place

/-- The lines that a load of the own scratchpad gathers. -/
theorem State.partsOf_runParts (s : State) (k : Nat) {sl : List Slice} (h : ∀ x ∈ sl, x.t.region = .own) : s.PartsOf sl (s.runParts k sl true) := by
  induction sl using List.reverseRecOn with
  | nil => exact ⟨fun _ hp => absurd hp List.not_mem_nil, fun _ hx => absurd hx List.not_mem_nil⟩
  | append_singleton sl x ih =>
    obtain ⟨heach, hall⟩ := ih fun y hy => h y (List.mem_append_left _ hy)
    have hx := h x (List.mem_append_right _ (List.mem_singleton_self x))
    have hstep : s.runParts k (sl ++ [x]) true = if (s.runParts k sl true).any fun p => decide (p.line = lineOf x.t.place) then s.runParts k sl true
        else s.runParts k sl true ++ [{ line := lineOf x.t.place, ep := x.t.ep, own := true, got := some (s.line (lineOf x.t.place)) }] := by
      simp only [State.runParts, List.foldl_append, List.foldl_cons, List.foldl_nil, hx, decide_true, if_true]
    have hold : ∀ p ∈ s.runParts k sl true, p.own = true ∧ p.got = some (s.line p.line) ∧ ∃ y ∈ sl ++ [x], p.line = lineOf y.t.place := fun p hp => by
      obtain ⟨h1, h2, y, hy, h3⟩ := heach p hp
      exact ⟨h1, h2, y, List.mem_append_left _ hy, h3⟩
    rw [hstep]
    split
    · next hany =>
      obtain ⟨p, hp, hpl⟩ := List.any_eq_true.1 hany
      refine ⟨hold, fun y hy => (List.mem_append.1 hy).elim (hall y) fun hy => ?_⟩
      rw [List.mem_singleton.1 hy]
      exact ⟨p, hp, of_decide_eq_true hpl⟩
    · refine ⟨fun p hp => (List.mem_append.1 hp).elim (hold p) fun hp => ?_, fun y hy => (List.mem_append.1 hy).elim (fun hy => ?_) fun hy => ?_⟩
      · rw [List.mem_singleton.1 hp]
        exact ⟨rfl, rfl, x, List.mem_append_right _ (List.mem_singleton_self x), rfl⟩
      · obtain ⟨p, hp, hpl⟩ := hall y hy
        exact ⟨p, List.mem_append_left _ hp, hpl⟩
      · rw [List.mem_singleton.1 hy]
        exact ⟨_, List.mem_append_right _ (List.mem_singleton_self _), rfl⟩

/-- A slice finds its line among the parts. -/
theorem State.PartsOf.found {s : State} {sl : List Slice} {ps : List Part} (h : s.PartsOf sl ps) {x : Slice} (hx : x ∈ sl) :
    (ps[ps.findIdx fun p => decide (p.line = lineOf x.t.place)]?).bind (·.got) = some (s.line (lineOf x.t.place)) := by
  obtain ⟨p, hp, hpl⟩ := h.all x hx
  have hlt : (ps.findIdx fun p => decide (p.line = lineOf x.t.place)) < ps.length := List.findIdx_lt_length_of_exists ⟨p, hp, decide_eq_true hpl⟩
  have hline := of_decide_eq_true (List.findIdx_getElem (w := hlt))
  rw [List.getElem?_eq_getElem hlt, Option.bind_some, (h.each _ (List.getElem_mem hlt)).2.1, hline]

/-- What the slices of a run of the own scratchpad make up: each its bits, at its place. -/
theorem State.PartsOf.assemble {s : State} {sl : List Slice} {ps : List Part} (h : s.PartsOf sl ps) {a : Access} (hp : a.parts = ps) (hq : a.pieces = runPieces ps sl) :
    a.assemble = sl.foldl (fun n x => n + (s.line (lineOf x.t.place)).toNat / 2 ^ x.src % 2 ^ x.width * 2 ^ x.dst) 0 := by
  rw [Access.assemble, hp, hq, runPieces, List.foldl_map]
  exact List.foldl_ext _ _ _ fun n x hx => by rw [h.found hx]

/-- The value of some runs of bits, each put at its place. -/
def State.runValue (s : State) (rs : List BitRun) (n : Nat) : Nat := rs.foldl (fun n r => n + s.ownBits r.bit r.width * 2 ^ r.dst) n

/-- A lane's bits put above those of the lanes before. -/
theorem State.runValue_lanes {s : State} (f : Nat → Nat) (w m : Nat) (h : ∀ l, l < m → ∀ r ∈ laneRuns (f l) w (w * l), s.RunOwn r) :
    s.runValue ((List.range m).flatMap fun l => laneRuns (f l) w (w * l)) 0 < 2 ^ (w * m)
      ∧ ∀ l j, l < m → j < w → (s.runValue ((List.range m).flatMap fun l => laneRuns (f l) w (w * l)) 0).testBit (w * l + j) = s.ownBit (f l + j) := by
  induction m with
  | zero => exact ⟨by simp [State.runValue], fun l j hl => absurd hl (Nat.not_lt_zero l)⟩
  | succ m ih =>
    obtain ⟨hlt, hbits⟩ := ih fun l hl => h l (Nat.lt_succ_of_lt hl)
    obtain ⟨x, hx, hxbits, hstep⟩ := State.foldl_laneRuns (h m (Nat.lt_succ_self m))
    have hval : s.runValue ((List.range (m + 1)).flatMap fun l => laneRuns (f l) w (w * l)) 0
        = 2 ^ (w * m) * x + s.runValue ((List.range m).flatMap fun l => laneRuns (f l) w (w * l)) 0 := by
      rw [List.range_succ, List.flatMap_append, List.flatMap_singleton, State.runValue, List.foldl_append, hstep, Nat.add_comm, Nat.mul_comm x, State.runValue]
    rw [hval]
    refine ⟨?_, fun l j hl hj => ?_⟩
    · rw [Nat.mul_succ, Nat.pow_add]
      calc _ < 2 ^ (w * m) * x + 2 ^ (w * m) := Nat.add_lt_add_left hlt _
        _ = 2 ^ (w * m) * (x + 1) := (Nat.mul_succ ..).symm
        _ ≤ _ := Nat.mul_le_mul_left _ hx
    · rw [Nat.testBit_two_pow_mul_add _ hlt]
      by_cases hlm : l < m
      · have hin : w * l + j < w * m := by
          have := Nat.mul_le_mul_left w (Nat.succ_le_of_lt hlm)
          rw [Nat.mul_succ] at this; omega
        rw [if_pos hin, hbits l j hlm hj]
      · obtain rfl : l = m := by omega
        have hsub : w * l + j - w * l = j := by omega
        rw [if_neg (by omega), hsub, hxbits]
        simp [hj]

/-! The checks and the effect of the load. -/

/-- The number of a slice's address. -/
theorem State.RunOwn.toNat {s : State} {r : BitRun} (h : s.RunOwn r) : (BitVec.ofNat 64 (r.bit / 8)).toNat = r.bit / 8 :=
  State.toNat_ownAddr (le_of_lt h.inside)

/-- Its byte's offset in the array. -/
theorem State.RunOwn.lt {s : State} {r : BitRun} (h : s.RunOwn r) : r.bit / 8 < 2 ^ 20 :=
  lt_of_lt_of_le h.inside ((Carve.spsize_le _).trans (by decide))

/-- What a load of the own scratchpad logs is aside. -/
theorem State.aside_touchRun {s : State} {sl : List Slice} (h : ∀ x ∈ sl, x.t.region = .own) : s.Aside s.cur (s.touchRun sl) := by
  induction sl generalizing s with
  | nil => exact .refl _ s
  | cons x sl ih =>
    have hstep : s.touchRun (x :: sl) = (s.logLine s.cur (x.va.toNat / 128)).touchRun sl := by
      simp only [State.touchRun, List.foldl_cons, if_pos (h x (List.mem_cons_self ..))]
    have hlog : s.Aside s.cur (s.logLine s.cur (x.va.toNat / 128)) := s.aside_logLineAt ..
    rw [hstep]
    refine hlog.trans ?_
    have hrest := ih (s := s.logLine s.cur (x.va.toNat / 128)) fun y hy => h y (List.mem_cons_of_mem _ hy)
    rwa [hlog.cur] at hrest

section Load

variable {s : State} {pre : List Gate} {ls : List Lane} {vd : BitVec 5} {sp : Span} {rs : List BitRun}

/-- A load whose lanes lie in the own scratchpad, in lines that can be read, fills its register with their bits. -/
theorem State.runLoad_own (keep : VWord) (q : Nat) (hpre : firstStop pre = .go) (hck : ∀ x ∈ ls, ∀ g ∈ s.laneChecks s.cur x, g = .go)
    (hsl : ls.flatMap (s.laneSlices s.cur) = rs.map s.sliceOf) (hrs : ∀ r ∈ rs, s.RunOwn r) (hfull : (s.c.v vd.toNat).full = true) (hk : sp.k = s.cur)
    (hmeet : ∀ x ∈ s.c.pendingSpans s.cur, sp.ordered x = false) :
    ∃ u, s.Aside s.cur u ∧ s.runLoad pre ls keep vd sp q
      = .done (u.modC fun c => c.setV vd.toNat (((c.v vd.toNat).val &&& keep) ||| BitVec.ofNat 1024 (s.runValue rs 0))) := by
  have hown : ∀ x ∈ rs.map s.sliceOf, x.t.region = .own := fun x hx => by
    obtain ⟨r, -, rfl⟩ := List.mem_map.1 hx; rfl
  have hallOwn : ((rs.map s.sliceOf).all fun x => decide (x.t.region = .own)) = true := List.all_eq_true.2 fun x hx => decide_eq_true (hown x hx)
  have hparts := s.partsOf_runParts s.cur hown
  have hgo : firstStop (pre ++ ls.flatMap (s.laneChecks s.cur) ++ [vfullGate s.c [vd], s.meetGate sp]) = .go := by
    have hlanes : firstStop (ls.flatMap (s.laneChecks s.cur)) = .go := firstStop_all fun g hg => by
      obtain ⟨x, hx, hg⟩ := List.mem_flatMap.1 hg
      exact hck x hx g hg
    rw [List.append_assoc, firstStop_append hpre, firstStop_append hlanes, State.meetGate_go hk hmeet]
    simp [vfullGate, hfull]
  have hlines : ((s.runParts s.cur (rs.map s.sliceOf) true).all fun p => s.c.lineFull (padOff p.line)) = true := List.all_eq_true.2 fun p hp => by
    obtain ⟨-, -, x, hx, hline⟩ := hparts.each p hp
    obtain ⟨r, hr, rfl⟩ := List.mem_map.1 hx
    have hplace : p.line = lineOf (placePad s.cur (r.bit / 8)) := by rw [hline, State.sliceOf, State.ownTgt, (hrs r hr).toNat]
    have hfull := (hrs r hr).ready.full
    rw [(hrs r hr).toNat, Core.lineFull] at hfull
    rw [Core.lineFull, hplace, padOff_lineOf (hrs r hr).lt]
    exact hfull
  have hnear : ((s.runParts s.cur (rs.map s.sliceOf) true).all fun p => p.own || p.got.isSome || !s.c.backing p.line) = true := List.all_eq_true.2 fun p hp => by
    rw [(hparts.each p hp).1]; rfl
  have hgot : ((s.runParts s.cur (rs.map s.sliceOf) true).all fun p => p.got.isSome) = true := List.all_eq_true.2 fun p hp => by
    rw [(hparts.each p hp).2.1]; rfl
  have hecc : firstStop ((rs.map s.sliceOf).map s.sliceEcc) = .go := firstStop_all fun g hg => by
    obtain ⟨x, hx, rfl⟩ := List.mem_map.1 hg
    obtain ⟨r, hr, rfl⟩ := List.mem_map.1 hx
    rw [State.sliceEcc, if_pos (hown _ hx), State.padEccGate]
    exact congrArg (trapIf · 17 _) (hrs r hr).ready.sound
  have hvalue {a : Access} (hp : a.parts = s.runParts s.cur (rs.map s.sliceOf) true) (hq : a.pieces = runPieces (s.runParts s.cur (rs.map s.sliceOf) true) (rs.map s.sliceOf)) :
      a.assemble = s.runValue rs 0 := by
    rw [hparts.assemble hp hq, List.foldl_map]
    exact List.foldl_ext _ _ _ fun n r hr => by
      simp only [State.sliceOf, State.ownTgt, (hrs r hr).toNat, State.ownBits]
  refine ⟨s.touchRun (rs.map s.sliceOf), State.aside_touchRun hown, ?_⟩
  unfold State.runLoad
  rw [checkedThen_go hgo]
  simp only [hsl, hallOwn, hlines, hnear, hgot, Bool.not_true, Bool.false_or, Bool.true_or, waitUntil_true, checkedThen, List.cons_append, List.nil_append,
    firstStop_go_cons, hecc, if_true]
  rw [hvalue rfl rfl]
  rfl

end Load

end Sys2Proof.Machine
end

section
/-! What a run of elements checks first, and its load (spec/07_views.md R154, R169, R171). -/

namespace Sys2Proof.Machine

/-- Vector register `n` after a write of one. -/
theorem Core.v_setV (c : Core) (n j : Nat) (x : VWord) : (c.setV n x).v j = if n = j then ⟨x, true⟩ else c.v j := Map.get_put ..

section RunGates

variable {s : State} {vd : BitVec 5} {q : BitVec 4} {sb : Src} {w : Bool}

/-- Whether a view has the right that a run needs. -/
def View.permits (v : View) (w : Bool) : Bool := if w then v.canWrite else v.canRead

/-- The checks of a run, those of its view last. -/
theorem State.runGates_eq (s : State) (vd : BitVec 5) (q : BitVec 4) (sb : Src) (w : Bool) :
    s.runGates vd q sb w = (allotGates s.c [(vd, 2)] ++ srcGates s.c [(sb, 1)]) ++
      [viewIf (!(s.c.view q.toNat).live) 1 q, viewIf (!(s.c.view q.toNat).permits w) 2 q, trapIf (!(s.c.view q.toNat).inside (posIndex (s.c.x sb.n) 0)) 9
        (viewTval 3 q.toNat ((s.c.view q.toNat).outsideDim (posIndex (s.c.x sb.n) 0))
          (posIndex (s.c.x sb.n) 0 ((s.c.view q.toNat).outsideDim (posIndex (s.c.x sb.n) 0))))] := rfl

/-- Those before its view's pass. -/
theorem State.runGates_front (hs : s.c.SrcsReady [(sb, 1)]) (hvd : vd.toNat < s.c.ctx.allotV) :
    firstStop (allotGates s.c [(vd, 2)] ++ srcGates s.c [(sb, 1)]) = .go := by
  rw [firstStop_append, srcGates_ready hs]
  simp [allotGates, Nat.not_le.2 hvd]

/-- All pass for a position inside a live view that has the right. -/
theorem State.runGates_go (hs : s.c.SrcsReady [(sb, 1)]) (hvd : vd.toNat < s.c.ctx.allotV) (hlive : (s.c.view q.toNat).live = true)
    (hperm : (s.c.view q.toNat).permits w = true) (hin : (s.c.view q.toNat).inside (posIndex (s.c.x sb.n) 0) = true) : firstStop (s.runGates vd q sb w) = .go := by
  rw [State.runGates_eq, firstStop_append (State.runGates_front hs hvd), viewIf_false (by rw [hlive]; rfl), viewIf_false (by rw [hperm]; rfl), hin]; rfl

/-- A right that is missing is reason 2. -/
theorem State.runGates_perm (hs : s.c.SrcsReady [(sb, 1)]) (hvd : vd.toNat < s.c.ctx.allotV) (hlive : (s.c.view q.toNat).live = true)
    (hperm : (s.c.view q.toNat).permits w = false) : firstStop (s.runGates vd q sb w) = .trap 9 (BitVec.ofNat 64 (2 * 2 ^ 60 + q.toNat * 2 ^ 56)) := by
  rw [State.runGates_eq, firstStop_append (State.runGates_front hs hvd), viewIf_false (by rw [hlive]; rfl), hperm, ← viewTval_eq]; rfl

/-- The index `i` lies outside a view in dimension `k` (R154). -/
def View.Outside (v : View) (i : Nat → Nat) (k : Nat) : Prop := if k ≤ v.rankm1.toNat then (v.dim k).extent.toNat ≤ i k else i k ≠ 0

/-- The unit's test of that. -/
def View.outsideAt (v : View) (i : Nat → Nat) (k : Nat) : Bool := if k < v.rank then decide (¬ i k < (v.dim k).extent.toNat) else decide (i k ≠ 0)

/-- The lowest dimension outside is named. -/
theorem View.outsideDim_eq (v : View) (i : Nat → Nat) : v.outsideDim i = ((List.range 4).find? (v.outsideAt i)).getD 0 := rfl

/-- An index outside in one dimension alone is outside, and that is the dimension named. -/
theorem View.Outside.names {v : View} {i : Nat → Nat} {n : Nat} (h : v.Outside i n) (hn : n < 4) (hone : ∀ k, k < 4 → k ≠ n → ¬ v.Outside i k) :
    v.inside i = false ∧ v.outsideDim i = n := by
  have hrank (k : Nat) : k < v.rank ↔ k ≤ v.rankm1.toNat := Nat.lt_succ_iff
  have hout (k : Nat) : v.outsideAt i k = true ↔ v.Outside i k := by
    simp only [View.Outside, View.outsideAt, hrank]
    split <;> simp
  constructor
  · refine Bool.eq_false_iff.2 fun hin => ?_
    have hk := List.all_eq_true.1 hin n (List.mem_range.2 hn)
    simp only [hrank] at hk
    unfold View.Outside at h
    split at h
    · simp_all; omega
    · simp_all
  · obtain ⟨k, hk⟩ := Option.isSome_iff_exists.1 (List.find?_isSome.2 ⟨n, List.mem_range.2 hn, (hout n).2 h⟩)
    have hkn : k = n := by
      by_contra hne
      exact hone k (List.mem_range.1 (List.mem_of_find?_eq_some hk)) hne ((hout k).1 (List.find?_some hk))
    rw [View.outsideDim_eq, hk, hkn]; rfl

/-- A position outside the view is reason 3, with the dimension and the index. -/
theorem State.runGates_outside (hs : s.c.SrcsReady [(sb, 1)]) (hvd : vd.toNat < s.c.ctx.allotV) (hlive : (s.c.view q.toNat).live = true)
    (hperm : (s.c.view q.toNat).permits w = true) {n : Nat} (hn : n < 4) (hout : (s.c.view q.toNat).Outside (posIndex (s.c.x sb.n) 0) n)
    (hone : ∀ k, k < 4 → k ≠ n → ¬ (s.c.view q.toNat).Outside (posIndex (s.c.x sb.n) 0) k) :
    firstStop (s.runGates vd q sb w) = .trap 9 (BitVec.ofNat 64 (3 * 2 ^ 60 + q.toNat * 2 ^ 56 + n * 2 ^ 52 + posIndex (s.c.x sb.n) 0 n)) := by
  obtain ⟨hin, hdim⟩ := hout.names hn hone
  rw [State.runGates_eq, firstStop_append (State.runGates_front hs hvd), viewIf_false (by rw [hlive]; rfl), viewIf_false (by rw [hperm]; rfl), hin, hdim]; rfl

/-- `vw.ld` heeds these checks. -/
theorem heeds_vwLd (vd : BitVec 5) (q : BitVec 4) (sb : Src) (s : State) : Heeds (.vwLd vd q sb) s (s.runGates vd q sb false) :=
  ⟨_, rfl, by unfold State.runLoad; exact checkedThen_heeds (by simp only [List.append_assoc]; exact List.prefix_append ..)⟩

/-- `vw.st` heeds these checks. -/
theorem heeds_vwSt (vd : BitVec 5) (q : BitVec 4) (sb : Src) (s : State) : Heeds (.vwSt vd q sb) s (s.runGates vd q sb true) :=
  ⟨_, rfl, by unfold State.runStore; exact checkedThen_heeds (by simp only [List.append_assoc]; exact List.prefix_append ..)⟩

end RunGates

/-! The load. -/

/-- The elements of a run within the own scratchpad. -/
theorem View.RunWithin.elemOwn {s : State} {v : View} {p : XWord} (h : v.RunWithin p s.c.spsize) {l : Nat} (hl : l < v.runLanes p) : s.ElemOwn (v.bitAt p l) v.eb :=
  ⟨v.eb_cases, (h l hl).2.1, (h l hl).2.2⟩

/-- A run loaded from the own scratchpad fills its register with the elements, and zero above them (R169). -/
theorem perform_vwLd {s : State} {vd : BitVec 5} {q : BitVec 4} {sb : Src} (hs : s.c.SrcsReady [(sb, 1)]) (hroom : s.c.LogRoom) (hvd : vd.toNat < s.c.ctx.allotV)
    (hlive : (s.c.view q.toNat).live = true) (hread : (s.c.view q.toNat).canRead = true) (hin : (s.c.view q.toNat).inside (posIndex (s.c.x sb.n) 0) = true)
    (hfull : (s.c.v vd.toNat).full = true) (hown : (s.c.view q.toNat).RunWithin (s.c.x sb.n) s.c.spsize)
    (hready : ∀ l, l < (s.c.view q.toNat).runLanes (s.c.x sb.n) → s.LineReady (BitVec.ofNat 64 ((s.c.view q.toNat).bitAt (s.c.x sb.n) l / 8))
      ∧ s.LineReady (BitVec.ofNat 64 (((s.c.view q.toNat).bitAt (s.c.x sb.n) l + (s.c.view q.toNat).eb - 1) / 8)))
    (hmeet : ∀ x ∈ s.c.pendingSpans s.cur, ((s.c.view q.toNat).toSpan s.cur false).ordered x = false) :
    ∃ t x, exec (.vwLd vd q sb) s = .next t ∧ (∃ u, s.Aside s.cur u ∧ Completed (u.modC fun c => c.setV vd.toNat x) t (s.c.pc + 4))
      ∧ (∀ l j, l < (s.c.view q.toNat).runLanes (s.c.x sb.n) → j < (s.c.view q.toNat).eb →
          x.getLsbD ((s.c.view q.toNat).eb * l + j) = s.ownBit ((s.c.view q.toNat).bitAt (s.c.x sb.n) l + j))
      ∧ ∀ b, (s.c.view q.toNat).eb * (s.c.view q.toNat).runLanes (s.c.x sb.n) ≤ b → x.getLsbD b = false := by
  generalize hv : s.c.view q.toNat = v at *
  generalize hp : s.c.x sb.n = p at *
  have helem (l : Nat) (hl : l < v.runLanes p) := hown.elemOwn hl
  have hruns : ∀ l, l < v.runLanes p → ∀ r ∈ laneRuns (v.bitAt p l) v.eb (v.eb * l), s.RunOwn r := fun l hl =>
    (helem l hl).runOwn (hready l hl).1 (hready l hl).2 _
  have hsl : (v.lanes p).flatMap (s.laneSlices s.cur) = ((List.range (v.runLanes p)).flatMap fun l => laneRuns (v.bitAt p l) v.eb (v.eb * l)).map s.sliceOf := by
    rw [View.lanes_eq hown, List.flatMap_map, List.map_flatMap]
    exact List.flatMap_congr fun l hl => (helem l (List.mem_range.1 hl)).laneSlices_eq _
  have hck : ∀ x ∈ v.lanes p, ∀ g ∈ s.laneChecks s.cur x, g = .go := fun x hx => by
    rw [View.lanes_eq hown] at hx
    obtain ⟨l, hl, rfl⟩ := List.mem_map.1 hx
    exact (helem l (List.mem_range.1 hl)).laneChecks_go _
  have hpre : firstStop (s.runGates vd q sb false) = .go := by
    refine State.runGates_go hs hvd (hv ▸ hlive) (hv ▸ hread) ?_
    rw [hv, hp]; exact hin
  obtain ⟨u, hu, hans⟩ := State.runLoad_own 0 q.toNat hpre hck hsl (fun r hr => by
    obtain ⟨l, hl, hr⟩ := List.mem_flatMap.1 hr
    exact hruns l (List.mem_range.1 hl) r hr) hfull (sp := v.toSpan s.cur false) rfl hmeet
  obtain ⟨hlt, hbits⟩ := State.runValue_lanes (v.bitAt p) v.eb (v.runLanes p) hruns
  generalize s.runValue _ 0 = n at hlt hbits hans
  have hval (c : Core) : ((c.v vd.toNat).val &&& 0) ||| BitVec.ofNat 1024 n = BitVec.ofNat 1024 n := by simp
  simp only [hval] at hans
  have hexec : exec (.vwLd vd q sb) s = perform s (s.runLoad (s.runGates vd q sb false) (v.lanes p) 0 vd (v.toSpan s.cur false) q.toNat) := by
    rw [← hv, ← hp]; rfl
  obtain ⟨t, ht, hc⟩ := perform_done (s := s) (e := u.modC fun c => c.setV vd.toNat (BitVec.ofNat 1024 n)) hroom hu.cur
  have hfit := v.runLanes_fit p
  refine ⟨t, BitVec.ofNat 1024 n, by rw [hexec, hans, ht], ⟨u, hu, hc⟩, fun l j hl hj => ?_, fun b hb => ?_⟩
  · have hin : v.eb * l + j < v.eb * v.runLanes p := by
      have := Nat.mul_le_mul_left v.eb (Nat.succ_le_of_lt hl)
      rw [Nat.mul_succ] at this; omega
    rw [BitVec.getLsbD_ofNat, hbits l j hl hj, decide_eq_true (by omega), Bool.true_and]
  · rw [BitVec.getLsbD_ofNat, Nat.testBit_lt_two_pow (lt_of_lt_of_le hlt (Nat.pow_le_pow_right (by decide) hb)), Bool.and_false]

end Sys2Proof.Machine
end

section
/-! The verdict does not depend on which access comes first (spec/07_views.md R164 to R166). -/

namespace Sys2Proof.Machine

/-- Common residues are common either way. -/
theorem residuesMeet_comm (s r w r' w' : Nat) : residuesMeet s r w r' w' = residuesMeet s r' w' r w := Bool.or_comm ..

/-- So are residues apart. -/
theorem Span.residuesApart_comm (p q : Span) : p.residuesApart q = q.residuesApart p := by
  rcases hp : p.view with _ | a <;> rcases hq : q.view with _ | b <;> simp only [Span.residuesApart, hp, hq]
  rcases ha : a.period with _ | ⟨s, w⟩ <;> rcases hb : b.period with _ | ⟨s', w'⟩ <;> dsimp only
  rw [Bool.eq_iff_iff]
  simp only [Bool.and_eq_true, decide_eq_true_eq]
  constructor
  · rintro ⟨⟨⟨⟨rfl, he⟩, h1⟩, h2⟩, h3⟩
    exact ⟨⟨⟨⟨rfl, he.symm⟩, h2⟩, h1⟩, by rwa [residuesMeet_comm]⟩
  · rintro ⟨⟨⟨⟨rfl, he⟩, h1⟩, h2⟩, h3⟩
    exact ⟨⟨⟨⟨rfl, he.symm⟩, h2⟩, h1⟩, by rwa [residuesMeet_comm]⟩

/-- So is the verdict. -/
theorem Span.verdict_comm (p q : Span) : p.verdict q = q.verdict p := by
  simp only [Span.verdict, p.hullsMeet_comm q, p.residuesApart_comm q]

/-- A write that meets no pending access finds no dirty store in the L1 that it meets, through whatever view it is made (spec/16_model.md R376). -/
theorem State.dirtyGate_go_of_apart {s : State} {p : Span} (hk : p.k = s.cur) (hw : p.writes = true) (h : ∀ q ∈ s.c.pendingSpans s.cur, p.ordered q = false)
    (lines : List Nat) : s.dirtyGate p lines = .go := by
  have hmeets : ∀ x ∈ s.c.l1, x.meets s.c.uid p = false := by
    intro x hx
    rw [L1Line.meets, hk, List.any_eq_false]
    intro q hq
    have hq' := h { q with writes := false } (List.mem_append_right _ (List.mem_map.2 ⟨q, List.mem_flatMap.2 ⟨x, hx, hq⟩, rfl⟩))
    have hne : ¬ p.verdict { q with writes := false } = 3 := by simpa [Span.ordered, hw] using hq'
    rw [decide_eq_true_eq, Span.verdict_comm]
    exact hne
  have hany : (s.c.l1.any fun x => x.meets s.c.uid p && decide (lines ≠ [x.line])) = false :=
    List.any_eq_false.2 fun x hx => by simp [hmeets x hx]
  rw [State.dirtyGate, hany]; rfl

end Sys2Proof.Machine
end

section
/-! A run stored in the own scratchpad (spec/07_views.md R169, spec/06_memory.md R130): of two values for one byte the later stands
(notes/assumptions/60.md). -/

namespace Sys2Proof.Machine

/-- The bytes of a merged line are those of the new line where the mask names them, and of the old one elsewhere. -/
theorem lineByte_mergeLine (old d : BitVec 1024) (mask : BitVec 128) {i : Nat} (hi : i < 128) :
    lineByte (mergeLine old d mask) i = if mask.getLsbD i then lineByte d i else lineByte old i := by
  have hgo : ∀ n, mergeLine.go old d mask n < 2 ^ (8 * n)
      ∧ ∀ j < n, BitVec.ofNat 8 (mergeLine.go old d mask n >>> (8 * j)) = if mask.getLsbD j then lineByte d j else lineByte old j := by
    intro n
    induction n with
    | zero => exact ⟨Nat.one_pos, fun j hj => absurd hj (Nat.not_lt_zero j)⟩
    | succ n ih =>
      obtain ⟨hlt, hbytes⟩ := ih
      have hb := (if mask.getLsbD n then lineByte d n else lineByte old n).isLt
      have hstep : mergeLine.go old d mask (n + 1) = 2 ^ (8 * n) * (if mask.getLsbD n then lineByte d n else lineByte old n).toNat + mergeLine.go old d mask n := by
        rw [mergeLine.go, Nat.shiftLeft_eq, Nat.add_comm, Nat.mul_comm]
      generalize hx : (if mask.getLsbD n then lineByte d n else lineByte old n) = x at hb hstep
      rw [hstep]
      refine ⟨?_, fun j hj => ?_⟩
      · rw [Nat.mul_succ, Nat.pow_add]
        calc _ < 2 ^ (8 * n) * x.toNat + 2 ^ (8 * n) := Nat.add_lt_add_left hlt _
          _ = 2 ^ (8 * n) * (x.toNat + 1) := (Nat.mul_succ ..).symm
          _ ≤ _ := Nat.mul_le_mul_left _ hb
      · apply BitVec.eq_of_getLsbD_eq
        intro r hr
        rw [BitVec.getLsbD_ofNat, Nat.testBit_shiftRight, Nat.testBit_two_pow_mul_add _ hlt]
        by_cases hjn : j < n
        · rw [if_pos (by omega), ← hbytes j hjn, BitVec.getLsbD_ofNat, Nat.testBit_shiftRight]
        · obtain rfl : j = n := by omega
          rw [if_neg (by omega), Nat.add_sub_cancel_left, hx]
          simp [hr, BitVec.getLsbD]
  rw [← (hgo 128).2 i hi, lineByte, mergeLine, BitVec.toNat_ofNat, Nat.mod_eq_of_lt (hgo 128).1]

/-! Writes of a run, byte by byte. -/

/-- A write covers a byte of the own scratchpad. -/
abbrev WriteCovers (w : XWord × Nat × Nat) (o : Nat) : Prop := w.1.toNat ≤ o ∧ o < w.1.toNat + w.2.1

/-- The byte that a write gives it. -/
def writeByte (w : XWord × Nat × Nat) (o : Nat) : Byte := BitVec.ofNat 8 (w.2.2 / 2 ^ (8 * (o - w.1.toNat)))

/-- The byte that the last of some writes to cover it gives it. -/
def lastByte (ws : List (XWord × Nat × Nat)) (o : Nat) : Option Byte :=
  ws.foldl (fun r w => if WriteCovers w o then some (writeByte w o) else r) none

/-- A last write that covers the byte. -/
theorem lastByte_append_covers (ws : List (XWord × Nat × Nat)) {w : XWord × Nat × Nat} {o : Nat} (h : WriteCovers w o) : lastByte (ws ++ [w]) o = some (writeByte w o) := by
  rw [lastByte, List.foldl_append, List.foldl_cons, List.foldl_nil, if_pos h]

/-- A last write that does not. -/
theorem lastByte_append_other (ws : List (XWord × Nat × Nat)) {w : XWord × Nat × Nat} {o : Nat} (h : ¬ WriteCovers w o) : lastByte (ws ++ [w]) o = lastByte ws o := by
  rw [lastByte, List.foldl_append, List.foldl_cons, List.foldl_nil, if_neg h, lastByte]

/-- A byte that no write covers. -/
theorem lastByte_none {ws : List (XWord × Nat × Nat)} {o : Nat} (h : ∀ w ∈ ws, ¬ WriteCovers w o) : lastByte ws o = none := by
  induction ws using List.reverseRecOn with
  | nil => rfl
  | append_singleton ws w ih =>
    rw [lastByte_append_other ws (h w (List.mem_append_right _ (List.mem_singleton_self w)))]
    exact ih fun v hv => h v (List.mem_append_left _ hv)

/-- A byte that a write covers and none after it. -/
theorem lastByte_map_range {f : Nat → XWord × Nat × Nat} {m l o : Nat} (hl : l < m) (hc : WriteCovers (f l) o)
    (hlast : ∀ l', l < l' → l' < m → ¬ WriteCovers (f l') o) : lastByte ((List.range m).map f) o = some (writeByte (f l) o) := by
  induction m with
  | zero => exact absurd hl (Nat.not_lt_zero l)
  | succ m ih =>
    rw [List.range_succ, List.map_append, List.map_singleton]
    by_cases hlm : l < m
    · rw [lastByte_append_other _ (hlast m hlm (Nat.lt_succ_self m))]
      exact ih hlm fun l' h1 h2 => hlast l' h1 (Nat.lt_succ_of_lt h2)
    · obtain rfl : l = m := by omega
      exact lastByte_append_covers _ hc

/-- A write of a run in one line of the own scratchpad. -/
structure State.WritesOwn (s : State) (w : XWord × Nat × Nat) : Prop where
  check : s.check s.cur w.1 w.2.1 .write = .ok (s.ownTgt w.1)
  inside : w.1.toNat + w.2.1 ≤ s.c.spsize
  line : w.1.toNat % 128 + w.2.1 ≤ 128

section Bundles

variable {s : State} {ws : List (XWord × Nat × Nat)} {bs : List Bundle}

/-- The target of such a write. -/
theorem State.WritesOwn.tgt_eq {w : XWord × Nat × Nat} (h : s.WritesOwn w) : s.writeTgt s.cur w = s.ownTgt w.1 := (State.checkGate_ok h.check).2

/-- Its line. -/
theorem State.WritesOwn.line_eq {w : XWord × Nat × Nat} (h : s.WritesOwn w) : s.writeLineOf s.cur w = placePad s.cur (w.1.toNat / 128 * 128) := by
  rw [State.writeLineOf, h.tgt_eq]
  simp only [State.ownTgt, lineOf, placePad]
  omega

/-- Its first byte's offset there. -/
theorem State.WritesOwn.off_eq {w : XWord × Nat × Nat} (h : s.WritesOwn w) : (s.writeTgt s.cur w).place % 128 = w.1.toNat % 128 := by
  rw [h.tgt_eq]; exact placePad_mod ..

/-- The bytes of a line that it writes are those it covers. -/
theorem State.WritesOwn.mask_iff {w : XWord × Nat × Nat} (h : s.WritesOwn w) {a i : Nat} (hi : i < 128) (ha : s.writeLineOf s.cur w = placePad s.cur (128 * a)) :
    (s.writeMask s.cur w).getLsbD i = true ↔ WriteCovers w (128 * a + i) := by
  rw [State.writeMask, h.off_eq, getLsbD_byteMask _ _ hi, WriteCovers]
  rw [h.line_eq, placePad, placePad] at ha
  omega

/-- A write covers bytes of its own line alone. -/
theorem State.WritesOwn.line_of_covers {w : XWord × Nat × Nat} (h : s.WritesOwn w) {a i : Nat} (hi : i < 128) (hc : WriteCovers w (128 * a + i)) :
    s.writeLineOf s.cur w = placePad s.cur (128 * a) := by
  have hl := h.line
  obtain ⟨h1, h2⟩ := hc
  rw [h.line_eq, placePad, placePad]
  omega

/-- The data of a write, where it covers a byte. -/
theorem State.WritesOwn.data_eq {w : XWord × Nat × Nat} (h : s.WritesOwn w) {a i : Nat} (hi : i < 128) (hc : WriteCovers w (128 * a + i)) :
    lineByte (storeData w.2.2 ((s.writeTgt s.cur w).place % 128) w.2.1) i = writeByte w (128 * a + i) := by
  have hl := h.line
  obtain ⟨h1, h2⟩ := hc
  have hsplit : i = w.1.toNat % 128 + (128 * a + i - w.1.toNat) := by omega
  rw [h.off_eq, writeByte]
  conv_lhs => rw [hsplit]
  exact lineByte_storeData _ hl (by omega)

/-- The line of a bundle that gathers writes of the own scratchpad. -/
theorem State.Gathers.line_own (h : s.Gathers s.cur ws bs) (hw : ∀ w ∈ ws, s.WritesOwn w) {b : Bundle} (hb : b ∈ bs) :
    ∃ w ∈ ws, b.t = s.ownTgt w.1 ∧ b.line = placePad s.cur (128 * (w.1.toNat / 128)) := by
  obtain ⟨w, hm, ht⟩ := h.target b hb
  have hl : b.line = s.writeLineOf s.cur w := by rw [Bundle.line, ht]; rfl
  exact ⟨w, hm, ht.trans (hw w hm).tgt_eq, by rw [hl, (hw w hm).line_eq, Nat.mul_comm]⟩

/-- The bytes that a bundle's mask names hold what the last write to cover them gives. -/
def State.Holds (s : State) (ws : List (XWord × Nat × Nat)) (bs : List Bundle) : Prop :=
  ∀ b ∈ bs, ∀ a i, b.line = placePad s.cur (128 * a) → i < 128 → b.mask.getLsbD i = true → lastByte ws (128 * a + i) = some (lineByte b.data i)

/-- One more write keeps that. -/
theorem State.Holds.addWrite (h : s.Holds ws bs) {w : XWord × Nat × Nat} (hw : s.WritesOwn w) : s.Holds (ws ++ [w]) (s.addWrite s.cur bs w) := by
  have hother : ∀ b ∈ bs, b.line ≠ s.writeLineOf s.cur w → ∀ a i, b.line = placePad s.cur (128 * a) → i < 128 → b.mask.getLsbD i = true →
      lastByte (ws ++ [w]) (128 * a + i) = some (lineByte b.data i) := fun b hb hne a i ha hi hm => by
    rw [lastByte_append_other ws fun hc => hne (ha.trans (hw.line_of_covers hi hc).symm)]
    exact h b hb a i ha hi hm
  unfold State.addWrite
  split
  · intro b hb a i
    obtain ⟨b', hb', rfl⟩ := List.mem_map.1 hb
    split
    · next hl =>
      intro ha hi hm
      have ha' : s.writeLineOf s.cur w = placePad s.cur (128 * a) := hl.symm.trans ha
      dsimp only
      rw [lineByte_mergeLine _ _ _ hi]
      by_cases hc : WriteCovers w (128 * a + i)
      · rw [if_pos ((hw.mask_iff hi ha').2 hc), lastByte_append_covers ws hc, hw.data_eq hi hc]
      · have hno := mt (hw.mask_iff hi ha').1 hc
        rw [if_neg hno, lastByte_append_other ws hc]
        refine h b' hb' a i ha hi ?_
        rw [BitVec.getLsbD_or, Bool.or_eq_true] at hm
        exact hm.resolve_right hno
    · next hl => exact hother b' hb' hl a i
  · next hany =>
    intro b hb a i ha hi hm
    rcases List.mem_append.1 hb with hb | hb
    · exact hother b hb (fun hl => hany (List.any_eq_true.2 ⟨b, hb, decide_eq_true hl⟩)) a i ha hi hm
    · obtain rfl := List.mem_singleton.1 hb
      have hc := (hw.mask_iff hi ha).1 hm
      rw [lastByte_append_covers ws hc, hw.data_eq hi hc]

/-- The bundles of a run hold its writes. -/
theorem State.holds_bundles (hw : ∀ w ∈ ws, s.WritesOwn w) : s.Holds ws (s.bundles s.cur ws) := by
  induction ws using List.reverseRecOn with
  | nil => exact fun b hb => absurd hb List.not_mem_nil
  | append_singleton ws w ih =>
    have hstep : s.bundles s.cur (ws ++ [w]) = s.addWrite s.cur (s.bundles s.cur ws) w := by
      simp only [State.bundles_eq, List.foldl_append, List.foldl_cons, List.foldl_nil]
    rw [hstep]
    exact (ih fun v hv => hw v (List.mem_append_left _ hv)).addWrite (hw w (List.mem_append_right _ (List.mem_singleton_self w)))

/-! The bundles' bytes in memory. -/

/-- A bundle names a place. -/
def Bundle.Names (b : Bundle) (q : Nat) : Prop := b.line ≤ q ∧ q < b.line + 128 ∧ b.mask.getLsbD (q - b.line) = true

/-- Some bundles written to memory. -/
def Memory.writeBundles (m : Memory) (bs : List Bundle) : Memory := bs.foldl (fun m b => Memory.writeMasked m b.line b.mask b.data 128) m

/-- Memory stays canonical. -/
theorem Memory.writeBundles_wf (bs : List Bundle) {m : Memory} (h : m.wf = true) : (m.writeBundles bs).wf = true := by
  induction bs generalizing m with
  | nil => exact h
  | cons b bs ih => exact ih (Memory.writeMasked_wf _ _ _ _ _ h)

/-- A place that no bundle names. -/
theorem Memory.read_writeBundles_other {m : Memory} (h : m.wf = true) {q : Nat} (hq : ∀ b ∈ bs, ¬ b.Names q) : (m.writeBundles bs).read q = m.read q := by
  induction bs generalizing m with
  | nil => rfl
  | cons b bs ih =>
    have hstep := ih (Memory.writeMasked_wf m b.line b.mask b.data 128 h) fun b' hb' => hq b' (List.mem_cons_of_mem _ hb')
    refine hstep.trans ?_
    rw [Memory.read_writeMasked _ _ _ _ _ _ h]
    exact if_neg (hq b (List.mem_cons_self ..))

/-- A place that a bundle names, of bundles of different lines. -/
theorem Memory.read_writeBundles {m : Memory} (h : m.wf = true) (hd : (bs.map Bundle.line).Nodup) (hl : ∀ b ∈ bs, b.line % 128 = 0) {b : Bundle} (hb : b ∈ bs) {q : Nat}
    (hq : b.Names q) : (m.writeBundles bs).read q = lineByte b.data (q - b.line) := by
  induction bs generalizing m with
  | nil => exact absurd hb List.not_mem_nil
  | cons x bs ih =>
    have hwf := Memory.writeMasked_wf m x.line x.mask x.data 128 h
    obtain ⟨hx, hd⟩ := List.nodup_cons.1 hd
    rcases List.mem_cons.1 hb with rfl | hb'
    · have hrest : ∀ y ∈ bs, ¬ y.Names q := fun y hy hyq => by
        have h1 := hl b (List.mem_cons_self ..)
        have h2 := hl y (List.mem_cons_of_mem _ hy)
        obtain ⟨h3, h4, -⟩ := hq
        obtain ⟨h5, h6, -⟩ := hyq
        exact hx (List.mem_map.2 ⟨y, hy, by omega⟩)
      refine (Memory.read_writeBundles_other hwf hrest).trans ?_
      rw [Memory.read_writeMasked _ _ _ _ _ _ h]
      exact if_pos hq
    · exact ih hwf hd (fun y hy => hl y (List.mem_cons_of_mem _ hy)) hb'

end Bundles

end Sys2Proof.Machine
end

section
/-! A store of a run whose lines all lie in the own scratchpad (spec/06_memory.md R130, spec/07_views.md R169): it is done at once. -/

namespace Sys2Proof.Machine

/-- A bundle stored in the own scratchpad. -/
def State.storeBundle (s : State) (b : Bundle) : State := (s.writeLine b.line b.mask b.data).unlogSaved s.cur (padOff b.line / 128)

/-- What a pre-empted activation logs does not depend on memory. -/
theorem State.unlogSaved_withMem (s : State) (m : Memory) (k l : Nat) : ({ s with mem := m } : State).unlogSaved k l = { s.unlogSaved k l with mem := m } := by
  have hcore : ({ s with mem := m } : State).core k = s.core k := rfl
  unfold State.unlogSaved
  rw [hcore]
  split <;> rfl

/-- The memory of a state some of whose lines are written. -/
theorem State.written_mem (s t : State) (lines : List Nat) : (s.written t lines).mem = t.mem := by
  suffices h : ∀ u : State, (lines.foldl (fun (s : State) l => s.unlogSaved s.cur l) u).mem = u.mem from h _
  induction lines with
  | nil => exact fun _ => rfl
  | cons l lines ih => exact fun u => (ih _).trans (u.unlogSaved_mem u.cur l)

/-- A bundle stored leaves what the core has yet to post. -/
theorem State.storeBundle_storing (s : State) (b : Bundle) : (s.storeBundle b).cur = s.cur ∧ (s.storeBundle b).c.storing = s.c.storing := by
  have h := (s.writeLine b.line b.mask b.data).aside_unlogSaved s.cur (padOff b.line / 128)
  have hcur : (s.storeBundle b).cur = s.cur := h.cur
  refine ⟨hcur, ?_⟩
  rw [State.c, hcur]
  exact (congrArg Core.storing h.core :)

/-- So do several. -/
theorem State.foldl_storeBundle_storing (bs : List Bundle) (s : State) :
    (bs.foldl State.storeBundle s).cur = s.cur ∧ (bs.foldl State.storeBundle s).c.storing = s.c.storing := by
  induction bs generalizing s with
  | nil => exact ⟨rfl, rfl⟩
  | cons b bs ih =>
    obtain ⟨hcur, hst⟩ := s.storeBundle_storing b
    exact ⟨(ih _).1.trans hcur, (ih _).2.trans hst⟩

/-- The bundles of a run stored are its lines written. -/
theorem State.foldl_storeBundle {t : State} (bs : List Bundle) {s : State} (h : t.mem = Memory.writeBundles s.mem bs) :
    bs.foldl State.storeBundle s = s.written t (bs.map fun b => padOff b.line / 128) := by
  induction bs generalizing s with
  | nil =>
    have hm : t.mem = s.mem := h
    rw [State.written, hm]; rfl
  | cons b bs ih =>
    have hb : s.storeBundle b = { s.unlogSaved s.cur (padOff b.line / 128) with mem := Memory.writeMasked s.mem b.line b.mask b.data 128 } :=
      s.unlogSaved_withMem _ _ _
    have hrest : bs.foldl State.storeBundle (s.storeBundle b) = (s.storeBundle b).written t (bs.map fun b => padOff b.line / 128) := ih (by rw [hb]; exact h)
    have hmem : ({ s.storeBundle b with mem := t.mem } : State) = ({ s with mem := t.mem } : State).unlogSaved s.cur (padOff b.line / 128) := by
      rw [State.unlogSaved_withMem, hb]
    rw [List.foldl_cons, hrest, State.written, State.written, List.map_cons, List.foldl_cons, hmem]

section RunStore

variable {s : State} {pre : List Gate} {ws : List (XWord × Nat × Nat)} {vd : BitVec 5} {sp : Span}

/-- A store of a run all of whose lines are in the own scratchpad writes them. -/
theorem State.runStore_own (q : Nat) (hpre : firstStop pre = .go) (hw : ∀ w ∈ ws, s.WritesOwn w) (hfull : (s.c.v vd.toNat).full = true)
    (hsound : s.c.Sound (vecSlot vd.toNat)) (hout : s.c.out = []) (hstoring : s.c.storing = []) (hk : sp.k = s.cur) (hwr : sp.writes = true)
    (hmeet : ∀ p ∈ s.c.pendingSpans s.cur, sp.ordered p = false) :
    ∃ e, s.runStore pre ws vd sp q = .done e ∧ ((s.bundles s.cur ws).foldl State.storeBundle s).Agrees e := by
  generalize hbs : s.bundles s.cur ws = bs
  have htgt : ∀ x ∈ bs, ∃ a, x.t = s.ownTgt a := fun x hx => by
    obtain ⟨w, -, ht, -⟩ := (s.gathers_bundles s.cur ws).line_own hw (hbs ▸ hx)
    exact ⟨_, ht⟩
  have hregion : ∀ x ∈ bs, x.t.region = .own := fun x hx => by
    obtain ⟨a, ht⟩ := htgt x hx
    rw [ht]; rfl
  have hnoPost : ∀ x ∈ bs, s.posts x.t = false := fun x hx => by rw [State.posts, hregion x hx]; rfl
  have hnear : (bs.filter fun x => !s.posts x.t) = bs := List.filter_eq_self.2 fun x hx => by rw [hnoPost x hx]; rfl
  have hfar : (bs.filter fun x => s.posts x.t) = [] := List.filter_eq_nil_iff.2 fun x hx => by simp [hnoPost x hx]
  have hsize : ∀ x ∈ bs, x.t.size = 0 := fun x hx => by
    obtain ⟨a, ht⟩ := htgt x hx
    rw [ht]; rfl
  have hback : (bs.all fun x => decide (x.t.region = .own) || !s.c.backing (lineOf x.t.place)) = true := List.all_eq_true.2 fun x hx => by
    rw [hregion x hx]; rfl
  have hgo : firstStop (pre ++ (ws.map fun w => s.checkGate s.cur w.1 w.2.1 .write) ++ [vfullGate s.c [vd]] ++ veccGates s.c [vd] ++ [s.meetGate sp, goodGate s.c]) = .go := by
    rw [List.append_assoc, List.append_assoc, List.append_assoc, firstStop_append hpre, firstStop_append (firstStop_checks fun w hm => ⟨_, (hw w hm).check⟩),
      State.meetGate_go hk hmeet, goodGate_go hout]
    simp [vfullGate, veccGates, hfull, Core.eccGate_sound hsound, waitUntil]
  have hdirty := State.dirtyGate_go_of_apart hk hwr hmeet (bs.map fun b => lineOf b.t.place)
  have hstore : bs.foldl (fun (s : State) b => s.storeLine b.t (lineOf b.t.place) b.mask b.data b.va sp q) s = bs.foldl State.storeBundle s :=
    List.foldl_ext _ _ _ fun u b hb => if_pos (hregion b hb)
  have hgates : firstStop [s.dirtyGate sp (bs.map fun b => lineOf b.t.place),
      waitUntil (bs.all fun b => decide (b.t.region = .own) || !s.c.backing (lineOf b.t.place)), .go] = .go := by rw [hdirty, hback]; rfl
  refine ⟨(((bs.foldl State.storeBundle s).modC fun c => { c with storing := [] }).modC fun c => { c with storing := [] }), ?_, ?_⟩
  · simp only [State.runStore, checkedThen, hgo, hbs, hnear, hfar, hgates, State.foldl_tlbTouch hsize, hstore, List.map_nil]
    simp [State.postMore, State.postSome]
  · have hst := (State.foldl_storeBundle_storing bs s).2.trans hstoring
    have hone : (bs.foldl State.storeBundle s).Agrees ((bs.foldl State.storeBundle s).modC fun c => { c with storing := [] }) :=
      State.agrees_modCore (congrArg (fun ps => { (bs.foldl State.storeBundle s).c with storing := ps }) hst.symm)
    exact hone.trans (State.agrees_modCore (by rw [← State.c, State.c_modC]))

/-- The instruction completes, and its writes' lines stand in memory. -/
theorem State.perform_runStore_own (q : Nat) (hpre : firstStop pre = .go) (hw : ∀ w ∈ ws, s.WritesOwn w) (hfull : (s.c.v vd.toNat).full = true)
    (hsound : s.c.Sound (vecSlot vd.toNat)) (hout : s.c.out = []) (hstoring : s.c.storing = []) (hk : sp.k = s.cur) (hwr : sp.writes = true)
    (hmeet : ∀ p ∈ s.c.pendingSpans s.cur, sp.ordered p = false) :
    ∃ t, perform s (s.runStore pre ws vd sp q) = .next t ∧ t.mem = Memory.writeBundles s.mem (s.bundles s.cur ws)
      ∧ Completed (s.written t ((s.bundles s.cur ws).map fun b => padOff b.line / 128)) t (s.c.pc + 4) := by
  obtain ⟨e, hans, hagree⟩ := State.runStore_own q hpre hw hfull hsound hout hstoring hk hwr hmeet
  have hcur : e.cur = s.cur := (congrArg State.cur hagree.device : _).trans (State.foldl_storeBundle_storing _ s).1
  obtain ⟨t, ht, hc⟩ := perform_done_agrees (s := s) (.inl hout) hcur hagree
  have hmem : t.mem = Memory.writeBundles s.mem (s.bundles s.cur ws) := by
    rw [hc.mem, State.foldl_storeBundle (t := { s with mem := Memory.writeBundles s.mem (s.bundles s.cur ws) }) _ rfl, State.written_mem]
  refine ⟨t, by rw [hans, ht], hmem, ?_⟩
  rw [← State.foldl_storeBundle _ hmem]
  exact hc

/-- The places that the bundles of a run name are those of the bytes that its writes cover. -/
theorem State.names_bundles (hw : ∀ w ∈ ws, s.WritesOwn w) (q : Nat) :
    (∃ b ∈ s.bundles s.cur ws, b.Names q) ↔ ∃ w ∈ ws, ∃ o, q = placePad s.cur o ∧ WriteCovers w o := by
  have hg := s.gathers_bundles s.cur ws
  constructor
  · rintro ⟨b, hb, h1, h2, hm⟩
    obtain ⟨v, -, -, hline⟩ := hg.line_own hw hb
    obtain ⟨w, hwm, hwl, hmask⟩ := (hg.mask b hb _).1 hm
    refine ⟨w, hwm, 128 * (v.1.toNat / 128) + (q - b.line), ?_, ((hw w hwm).mask_iff (by omega) (hwl.trans hline)).1 hmask⟩
    have hq : q = b.line + (q - b.line) := by omega
    rw [placePad] at hline ⊢
    omega
  · rintro ⟨w, hwm, o, rfl, hc⟩
    obtain ⟨b, hb, hbl⟩ := hg.covers w hwm
    have hc' : WriteCovers w (128 * (o / 128) + o % 128) := by rwa [Nat.div_add_mod]
    have hline := (hw w hwm).line_of_covers (Nat.mod_lt o (by decide)) hc'
    have hmask := ((hw w hwm).mask_iff (Nat.mod_lt o (by decide)) hline).2 hc'
    have hb' : b.line = placePad s.cur (128 * (o / 128)) := hbl.trans hline
    have hoff : placePad s.cur o - b.line = o % 128 := by rw [hb', placePad, placePad]; omega
    refine ⟨b, hb, ?_, ?_, by rw [hoff]; exact (hg.mask b hb _).2 ⟨w, hwm, hbl.symm, hmask⟩⟩
    · rw [hb', placePad, placePad]; omega
    · rw [hb', placePad, placePad]; omega

/-- What a store of a run leaves in the own scratchpad: in each byte what the last write to cover it gives, and else what was there. -/
theorem State.read_writeBundles_own (hm : s.MemOk) (hw : ∀ w ∈ ws, s.WritesOwn w) (o : Nat) :
    Memory.read (Memory.writeBundles s.mem (s.bundles s.cur ws)) (placePad s.cur o) = (lastByte ws o).getD (s.byte (placePad s.cur o)) := by
  have hg := s.gathers_bundles s.cur ws
  by_cases hn : ∃ b ∈ s.bundles s.cur ws, b.Names (placePad s.cur o)
  · obtain ⟨b, hb, hbn⟩ := hn
    have hlines : ∀ x ∈ s.bundles s.cur ws, x.line % 128 = 0 := fun x _ => Nat.mul_mod_left ..
    have hread := Memory.read_writeBundles hm hg.nodup hlines hb hbn
    obtain ⟨h1, h2, hmask⟩ := hbn
    obtain ⟨v, -, -, hline⟩ := hg.line_own hw hb
    have ho : 128 * (v.1.toNat / 128) + (placePad s.cur o - b.line) = o := by
      have hl := hline
      rw [placePad] at h1 hl ⊢
      omega
    have hlast := State.holds_bundles hw b hb _ _ hline (by omega) hmask
    rw [ho] at hlast
    rw [hread, hlast]; rfl
  · have hnone : lastByte ws o = none := lastByte_none fun w hwm hc => hn ((State.names_bundles hw _).2 ⟨w, hwm, o, rfl, hc⟩)
    rw [Memory.read_writeBundles_other hm fun b hb hbn => hn ⟨b, hb, hbn⟩, hnone]; rfl

/-- What lies outside the scratchpad stays. -/
theorem State.read_writeBundles_outside (hm : s.MemOk) (hw : ∀ w ∈ ws, s.WritesOwn w) {q : Nat} (hq : q < placePad s.cur 0 ∨ placePad s.cur s.c.spsize ≤ q) :
    Memory.read (Memory.writeBundles s.mem (s.bundles s.cur ws)) q = s.byte q := by
  refine Memory.read_writeBundles_other hm fun b hb hbn => ?_
  obtain ⟨w, hwm, o, rfl, hc⟩ := (State.names_bundles hw q).1 ⟨b, hb, hbn⟩
  have hin := (hw w hwm).inside
  have ho := hc.2
  rw [placePad, placePad, placePad] at hq
  omega

/-- The lines that a store of a run writes are those of its writes. -/
theorem State.mem_lines_bundles (hw : ∀ w ∈ ws, s.WritesOwn w) (x : Nat) :
    (x ∈ (s.bundles s.cur ws).map fun b => padOff b.line / 128) ↔ ∃ w ∈ ws, x = w.1.toNat / 128 := by
  have hg := s.gathers_bundles s.cur ws
  have hnum (w : XWord × Nat × Nat) (hwm : w ∈ ws) : padOff (placePad s.cur (128 * (w.1.toNat / 128))) / 128 = w.1.toNat / 128 := by
    have hin := (hw w hwm).inside
    have hsz : s.c.spsize ≤ _ := Carve.spsize_le s.c.carve
    have hline : placePad s.cur (128 * (w.1.toNat / 128)) = lineOf (placePad s.cur w.1.toNat) := by rw [lineOf, placePad, placePad]; omega
    rw [hline]
    exact padOff_lineOf (by omega)
  rw [List.mem_map]
  constructor
  · rintro ⟨b, hb, rfl⟩
    obtain ⟨w, hwm, -, hline⟩ := hg.line_own hw hb
    exact ⟨w, hwm, by rw [hline, hnum w hwm]⟩
  · rintro ⟨w, hwm, rfl⟩
    obtain ⟨b, hb, hbl⟩ := hg.covers w hwm
    refine ⟨b, hb, ?_⟩
    rw [hbl, (hw w hwm).line_eq, Nat.mul_comm, hnum w hwm]

end RunStore

end Sys2Proof.Machine
end

section
/-! What `vw.st` writes (spec/07_views.md R169): whole lanes, or, of a run of elements narrower than a byte, its bytes. -/

namespace Sys2Proof.Machine

/-- The writes of a run put the lanes of a register, each of `w` bits, into the own scratchpad at the bits `a 0`, `a 1` and so on. -/
structure State.StoresRun (s : State) (ws : List (XWord × Nat × Nat)) (d : VWord) (m : Nat) (a : Nat → Nat) (w : Nat) : Prop where
  own : ∀ x ∈ ws, s.WritesOwn x
  bits : ∀ l j, l < m → j < w → (∀ l', l < l' → l' < m → ¬ (a l' ≤ a l + j ∧ a l + j < a l' + w)) →
    ∃ y, lastByte ws ((a l + j) / 8) = some y ∧ y.getLsbD ((a l + j) % 8) = d.getLsbD (w * l + j)
  rest : ∀ b, (∀ l, l < m → ¬ (a l ≤ b ∧ b < a l + w)) → lastByte ws (b / 8) = none
  lines : ∀ x : Nat, (∃ y ∈ ws, x = y.1.toNat / 128) ↔ ∃ l j, l < m ∧ j < w ∧ x = (a l + j) / 1024

/-- The write of lane `i` of a register, of whole bytes, at bit `b`. -/
def laneWrite (d : VWord) (b w i : Nat) : XWord × Nat × Nat := (BitVec.ofNat 64 (b / 8), w / 8, d.toNat / 2 ^ (w * i) % 2 ^ w)

section LaneWrite

variable {s : State} {b w : Nat}

/-- An element of a byte or more is whole bytes, and aligned to them. -/
theorem State.ElemOwn.whole (h : s.ElemOwn b w) (h8 : 8 ≤ w) : b % 8 = 0 ∧ w % 8 = 0 ∧ b % 1024 + w ≤ 1024 := by
  obtain ⟨hw, -, hal⟩ := h
  have ha := hal h8
  rcases hw with rfl | rfl | rfl | rfl | rfl | rfl <;> omega

/-- The write of such an element stays in its line. -/
theorem State.ElemOwn.writesOwn (h : s.ElemOwn b w) (h8 : 8 ≤ w) (d : VWord) (i : Nat) : s.WritesOwn (laneWrite d b w i) := by
  obtain ⟨hb, hw, hline⟩ := h.whole h8
  have hin := h.inside
  have ha := State.toNat_ownAddr (s := s) (a := b / 8) (by omega)
  have hmax : max 1 (w / 8) = w / 8 := by omega
  refine ⟨?_, ?_, ?_⟩
  · have hck := h.check .write
    rwa [hmax] at hck
  · dsimp only [laneWrite]; rw [ha]; omega
  · dsimp only [laneWrite]; rw [ha]; omega

/-- It covers the bytes of its bits. -/
theorem State.ElemOwn.covers_iff (h : s.ElemOwn b w) (h8 : 8 ≤ w) (d : VWord) (i c : Nat) : WriteCovers (laneWrite d b w i) (c / 8) ↔ b ≤ c ∧ c < b + w := by
  obtain ⟨hb, hw, -⟩ := h.whole h8
  have hin := h.inside
  have ha := State.toNat_ownAddr (s := s) (a := b / 8) (by omega)
  dsimp only [WriteCovers, laneWrite]
  rw [ha]; omega

/-- Each bit is one of the lane. -/
theorem State.ElemOwn.getLsbD_writeByte (h : s.ElemOwn b w) (h8 : 8 ≤ w) (d : VWord) (i : Nat) {j : Nat} (hj : j < w) :
    (writeByte (laneWrite d b w i) ((b + j) / 8)).getLsbD ((b + j) % 8) = d.getLsbD (w * i + j) := by
  obtain ⟨hb, hw, -⟩ := h.whole h8
  have hin := h.inside
  have ha := State.toNat_ownAddr (s := s) (a := b / 8) (by omega)
  have hr : (b + j) % 8 < 8 := Nat.mod_lt _ (by decide)
  have hsplit : (b + j) % 8 + 8 * ((b + j) / 8 - b / 8) = j := by omega
  dsimp only [writeByte, laneWrite]
  rw [ha, BitVec.getLsbD_ofNat, Nat.testBit_div_two_pow, hsplit, Nat.testBit_mod_two_pow, Nat.testBit_div_two_pow, Nat.add_comm j]
  simp [hr, hj, BitVec.getLsbD]

end LaneWrite

/-- Whole lanes written one after another. -/
theorem State.storesRun_lanes {s : State} {m w : Nat} {a : Nat → Nat} (h8 : 8 ≤ w) (h : ∀ l, l < m → s.ElemOwn (a l) w) (d : VWord) :
    s.StoresRun ((List.range m).map fun l => laneWrite d (a l) w l) d m a w := by
  have hmem (P : XWord × Nat × Nat → Prop) : (∀ x ∈ (List.range m).map fun l => laneWrite d (a l) w l, P x) ↔ ∀ l, l < m → P (laneWrite d (a l) w l) := by
    simp only [List.mem_map, List.mem_range, forall_exists_index, and_imp, forall_apply_eq_imp_iff₂]
  have hline (l : Nat) (hl : l < m) : (laneWrite d (a l) w l).1.toNat / 128 = a l / 1024 := by
    have hin := (h l hl).inside
    rw [laneWrite, State.toNat_ownAddr (s := s) (by omega)]; omega
  refine ⟨(hmem _).2 fun l hl => (h l hl).writesOwn h8 d l, fun l j hl hj hlast => ?_, fun b hb => ?_, fun x => ⟨?_, ?_⟩⟩
  · refine ⟨_, lastByte_map_range hl (((h l hl).covers_iff h8 d l _).2 ⟨Nat.le_add_right .., Nat.add_lt_add_left hj _⟩) fun l' h1 h2 => ?_,
      (h l hl).getLsbD_writeByte h8 d l hj⟩
    exact fun hc => hlast l' h1 h2 (((h l' h2).covers_iff h8 d l' _).1 hc)
  · exact lastByte_none ((hmem _).2 fun l hl hc => hb l hl (((h l hl).covers_iff h8 d l b).1 hc))
  · rintro ⟨y, hy, rfl⟩
    obtain ⟨l, hl, rfl⟩ := List.mem_map.1 hy
    have hl := List.mem_range.1 hl
    exact ⟨l, 0, hl, by omega, by rw [hline l hl]; rfl⟩
  · rintro ⟨l, j, hl, hj, rfl⟩
    obtain ⟨hb, hw, hin⟩ := (h l hl).whole h8
    exact ⟨_, List.mem_map_of_mem (List.mem_range.2 hl), by rw [hline l hl]; omega⟩

/-- A run of no lanes. -/
theorem State.storesRun_nil (s : State) (d : VWord) (a : Nat → Nat) (w : Nat) : s.StoresRun [] d 0 a w :=
  ⟨nofun, fun _ _ hl => absurd hl (Nat.not_lt_zero _), fun _ _ => rfl, by simp⟩

/-- Bytes in a row are elements in a row. -/
theorem State.StoresRun.split {s : State} {ws : List (XWord × Nat × Nat)} {d : VWord} {n m w a : Nat} (h : s.StoresRun ws d n (fun i => a + 8 * i) 8)
    (hw : 0 < w) (hn : w * m = 8 * n) : s.StoresRun ws d m (fun l => a + w * l) w := by
  have hle (l : Nat) (hl : l < m) : w * l + w ≤ 8 * n := by
    rw [← hn, ← Nat.mul_succ]; exact Nat.mul_le_mul_left w hl
  have hlane (c : Nat) (hc : c < 8 * n) : c / w < m ∧ w * (c / w) + c % w = c ∧ c % w < w :=
    ⟨Nat.div_lt_of_lt_mul (hn ▸ hc), Nat.div_add_mod .., Nat.mod_lt _ hw⟩
  refine ⟨h.own, fun l j hl hj _ => ?_, fun b hb => h.rest b fun i hi hc => ?_, fun x => (h.lines x).trans ⟨?_, ?_⟩⟩
  · have hl' := hle l hl
    obtain ⟨y, hy, hbit⟩ := h.bits ((w * l + j) / 8) ((w * l + j) % 8) (by omega) (Nat.mod_lt _ (by decide)) fun l' h1 _ => by omega
    have hsum : a + 8 * ((w * l + j) / 8) + (w * l + j) % 8 = a + w * l + j := by omega
    rw [hsum] at hy hbit
    rw [Nat.div_add_mod] at hbit
    exact ⟨y, hy, hbit⟩
  · obtain ⟨h1, h2, h3⟩ := hlane (b - a) (by omega)
    exact hb _ h1 ⟨by omega, by omega⟩
  · rintro ⟨i, j, hi, hj, rfl⟩
    obtain ⟨h1, h2, h3⟩ := hlane (8 * i + j) (by omega)
    exact ⟨_, _, h1, h3, by rw [Nat.add_assoc, Nat.add_assoc, h2]⟩
  · rintro ⟨l, j, hl, hj, rfl⟩
    have hl' := hle l hl
    exact ⟨(w * l + j) / 8, (w * l + j) % 8, by omega, Nat.mod_lt _ (by decide), by congr 1; omega⟩

/-! The lanes of a run along the first dimension. -/

/-- The number of an element moves by the stride of the first dimension. -/
theorem View.elem_posIndex (v : View) (p : XWord) (l : Nat) : v.elem (posIndex p l) = v.elem (posIndex p 0) + l * v.d0.step := by
  obtain ⟨h1, h4⟩ := v.rank_bounds
  have hr : v.rank = 1 ∨ v.rank = 2 ∨ v.rank = 3 ∨ v.rank = 4 := by omega
  rcases hr with h | h | h | h <;>
  · simp [View.elem, h, List.range_succ, posIndex, View.dim]
    ring

/-- With a stride of 1 they follow one another. -/
theorem View.bitAt_of_stride_one {v : View} {p : XWord} {l : Nat} (hd : v.d0.stride = 1) (h0 : 0 ≤ v.bitAddr (posIndex p 0)) :
    v.bitAt p l = v.bitAt p 0 + v.eb * l := by
  have hstep : v.d0.step = 1 := by rw [Dim.step, hd]; rfl
  have heq : v.bitAddr (posIndex p l) = v.bitAddr (posIndex p 0) + (v.eb * l : Nat) := by
    rw [View.bitAddr_eq, View.bitAddr_eq, View.elem_posIndex, hstep]
    push_cast; ring
  rw [View.bitAt, View.bitAt, heq]; omega

/-- A narrow run that covers whole bytes. -/
theorem View.narrow_of_not_ragged {v : View} {p : XWord} (h8 : v.eb < 8) (h : v.ragged p = false) :
    v.d0.stride = 1 ∧ v.bitAddr (posIndex p 0) % 8 = 0 ∧ (v.bitAddr (posIndex p 0) + v.eb * v.runLanes p) % 8 = 0 := by
  simpa [View.ragged, h8, and_assoc] using h

/-- The bytes of a register are its lanes of 8 bits. -/
theorem lineByte_toNat (d : BitVec 1024) (i : Nat) : (lineByte d i).toNat = d.toNat / 2 ^ (8 * i) % 2 ^ 8 := by
  rw [lineByte, BitVec.toNat_ofNat, Nat.shiftRight_eq_div_pow]

/-- A run that lies in the own scratchpad is stored there, if a narrow one covers whole bytes. -/
theorem View.storesRun_writes {s : State} {v : View} {p : XWord} (hin : v.RunWithin p s.c.spsize) (hr : v.ragged p = false) (d : VWord) :
    s.StoresRun (v.writes p d) d (v.runLanes p) (v.bitAt p) v.eb := by
  have hbounds := v.eb_bounds
  by_cases h8 : v.eb < 8
  · have hws : v.writes p d = (List.range (v.runLanes p * v.eb / 8)).map fun j =>
        (byteAddr (v.bitAddr (posIndex p 0)) + BitVec.ofNat 64 j, 1, (lineByte d j).toNat) := if_pos h8
    rcases Nat.eq_zero_or_pos (v.runLanes p) with hm | hm
    · rw [hws, hm, Nat.zero_mul]
      exact s.storesRun_nil d _ _
    · have h0 := (hin 0 hm).1
      obtain ⟨hd, hb, he⟩ := View.narrow_of_not_ragged h8 hr
      have hat : v.bitAt p = fun l => v.bitAt p 0 + v.eb * l := funext fun l => View.bitAt_of_stride_one hd h0
      have hbase : v.bitAt p 0 % 8 = 0 := by rw [View.bitAt]; omega
      have hn : v.eb * v.runLanes p = 8 * (v.runLanes p * v.eb / 8) := by rw [Nat.mul_comm (v.runLanes p)]; omega
      have hlast : v.bitAt p 0 + v.eb * v.runLanes p ≤ 8 * s.c.spsize := by
        have hend := (hin (v.runLanes p - 1) (Nat.sub_lt hm Nat.one_pos)).2.1
        rwa [View.bitAt_of_stride_one hd h0, Nat.add_assoc, ← Nat.mul_succ, Nat.succ_eq_add_one, Nat.sub_add_cancel hm] at hend
      have hbytes : v.writes p d = (List.range (v.runLanes p * v.eb / 8)).map fun i => laneWrite d (v.bitAt p 0 + 8 * i) 8 i := by
        rw [hws, byteAddr_of_nonneg h0]
        refine List.map_congr_left fun i _ => ?_
        have haddr : (v.bitAt p 0 + 8 * i) / 8 = (v.bitAddr (posIndex p 0)).toNat / 8 + i := by rw [View.bitAt]; omega
        rw [laneWrite, haddr, BitVec.ofNat_add, lineByte_toNat]
      have helem : ∀ i, i < v.runLanes p * v.eb / 8 → s.ElemOwn (v.bitAt p 0 + 8 * i) 8 := fun i hi =>
        ⟨.inr (.inr (.inl rfl)), by omega, fun _ => by omega⟩
      have hrun := (State.storesRun_lanes (Nat.le_refl 8) helem d).split (w := v.eb) (by omega) hn
      rw [← hat] at hrun
      rwa [hbytes]
  · have hws : v.writes p d = (v.lanes p).map fun l => (l.va, l.n, d.toNat / 2 ^ l.dst % 2 ^ l.width) := if_neg h8
    have hmax : max 1 (v.eb / 8) = v.eb / 8 := by omega
    have hlanes : v.writes p d = (List.range (v.runLanes p)).map fun l => laneWrite d (v.bitAt p l) v.eb l := by
      rw [hws, View.lanes_eq hin, List.map_map]
      refine List.map_congr_left fun l _ => ?_
      simp only [Function.comp_apply, laneAtBit, laneWrite, hmax]
    rw [hlanes]
    exact State.storesRun_lanes (Nat.not_lt.1 h8) (fun l hl => hin.elemOwn hl) d

end Sys2Proof.Machine
end

section
/-! Runs of elements through a view (spec/07_views.md R154, R169, R171). -/

namespace Sys2Proof.Machine

/-- A run stored in the own scratchpad puts its register's lanes into the elements (R169). -/
theorem perform_vwSt {s : State} {vd : BitVec 5} {q : BitVec 4} {sb : Src} (hm : s.MemOk) (hs : s.c.SrcsReady [(sb, 1)]) (hvd : vd.toNat < s.c.ctx.allotV)
    (hlive : (s.c.view q.toNat).live = true) (hwrite : (s.c.view q.toNat).canWrite = true) (hin : (s.c.view q.toNat).inside (posIndex (s.c.x sb.n) 0) = true)
    (hfull : (s.c.v vd.toNat).full = true) (hsound : s.c.Sound (vecSlot vd.toNat)) (hown : (s.c.view q.toNat).RunWithin (s.c.x sb.n) s.c.spsize)
    (hmeet : ∀ x ∈ s.c.pendingSpans s.cur, ((s.c.view q.toNat).toSpan s.cur true).ordered x = false) (hout : s.c.out = []) (hstoring : s.c.storing = [])
    (hrag : (s.c.view q.toNat).ragged (s.c.x sb.n) = false) :
    ∃ t ws ls, exec (.vwSt vd q sb) s = .next t ∧ Completed (s.written t ls) t (s.c.pc + 4) ∧ t.MemOk
      ∧ s.StoresRun ws (s.c.v vd.toNat).val ((s.c.view q.toNat).runLanes (s.c.x sb.n)) ((s.c.view q.toNat).bitAt (s.c.x sb.n)) (s.c.view q.toNat).eb
      ∧ (∀ x, x ∈ ls ↔ ∃ w ∈ ws, x = w.1.toNat / 128)
      ∧ (∀ o, t.byte (placePad s.cur o) = (lastByte ws o).getD (s.byte (placePad s.cur o)))
      ∧ ∀ x, (x < placePad s.cur 0 ∨ placePad s.cur s.c.spsize ≤ x) → t.byte x = s.byte x := by
  have hrun := View.storesRun_writes hown hrag (s.c.v vd.toNat).val
  have hpre : firstStop (s.runGates vd q sb true ++ [viewIf ((s.c.view q.toNat).ragged (s.c.x sb.n)) 7 q]) = .go := by
    rw [firstStop_append (State.runGates_go (w := true) hs hvd hlive hwrite hin), hrag]; rfl
  obtain ⟨t, ht, hmem, hc⟩ := State.perform_runStore_own q.toNat hpre hrun.own hfull hsound hout hstoring (sp := (s.c.view q.toNat).toSpan s.cur true) rfl rfl hmeet
  refine ⟨t, _, _, ht, hc, ?_, hrun, State.mem_lines_bundles hrun.own, fun o => ?_, fun x hx => ?_⟩
  · rw [State.MemOk, hmem]; exact Memory.writeBundles_wf _ hm
  · rw [State.byte, hmem]; exact State.read_writeBundles_own hm hrun.own o
  · rw [State.byte, hmem]; exact State.read_writeBundles_outside hm hrun.own hx

/-- Settles O31: a run of the own scratchpad is loaded lane by lane from the bits of its lines, and stored line by line, the last write to cover a byte
giving it its value; a position or a right at fault stops it in the checks before. -/
theorem viewRunsMoveElements : Obligations.ViewRunsMoveElements := by
  unfold Obligations.ViewRunsMoveElements
  intro vd q sb s hm hs hroom hvd v p idx m at_ bit own sound apart
  refine ⟨fun hlive hread hin hfull hown hready hmeet => ?_, fun hlive hwrite hin hfull hsound hown hmeet hout hstoring hrag => ?_, fun n hn hout hone => ⟨?_, ?_⟩, ?_, ?_⟩
  · obtain ⟨t, x, ht, ⟨u, hu, hc⟩, hbits, hzero⟩ := perform_vwLd hs hroom hvd hlive hread hin hfull hown hready hmeet
    have huc : u.c = u.core s.cur := by rw [State.c, hu.cur]
    have hvn (j : Nat) : t.c.v j = if vd.toNat = j then ⟨x, true⟩ else s.c.v j := by
      have hkept : u.c.v j = s.c.v j := by rw [Core.v, huc, hu.vs]; rfl
      rw [hc.v, State.c_modC, Core.v_setV, hkept]
    have hvd : t.c.v vd.toNat = ⟨x, true⟩ := (hvn _).trans (if_pos rfl)
    refine ⟨t, ht, hc.pc, ?_, by rw [hvd], by rw [hvd]; exact hbits, by rw [hvd]; exact hzero, fun j hj => (hvn j).trans (if_neg hj.symm), ?_, fun a => ?_⟩
    · have hctx : u.c.ctx = s.c.ctx := by rw [huc, hu.ctx]; rfl
      rw [hc.instret, State.c_modC, ← hctx]; rfl
    · rw [hc.c_xs, State.c_modC, Core.setV_xs, huc, hu.xs]; rfl
    · exact (hc.byte a).trans (hu.byte a)
  · obtain ⟨t, ws, ls, ht, hc, hok, hrun, hls, hbytes, houtside⟩ := perform_vwSt hm hs hvd hlive hwrite hin hfull hsound hown hmeet hout hstoring hrag
    refine ⟨t, ls, ht, hc, hok, fun x => (hls x).trans (hrun.lines x), fun l j hl hj hlast => ?_, fun b _ hb => ?_, houtside⟩
    · obtain ⟨y, hy, hbit⟩ := hrun.bits l j hl hj hlast
      rw [← hbit]
      exact congrArg (BitVec.getLsbD · ((at_ l + j) % 8)) ((hbytes _).trans (congrArg (Option.getD · _) hy))
    · exact congrArg (BitVec.getLsbD · (b % 8)) ((hbytes _).trans (congrArg (Option.getD · _) (hrun.rest b hb)))
  · exact fun hlive hread => (heeds_vwLd vd q sb s).traps (State.runGates_outside (w := false) hs hvd hlive hread hn hout hone)
  · exact fun hlive hwrite => (heeds_vwSt vd q sb s).traps (State.runGates_outside (w := true) hs hvd hlive hwrite hn hout hone)
  · exact fun hlive hread => (heeds_vwLd vd q sb s).traps (State.runGates_perm (w := false) hs hvd hlive hread)
  · exact fun hlive hwrite => (heeds_vwSt vd q sb s).traps (State.runGates_perm (w := true) hs hvd hlive hwrite)

end Sys2Proof.Machine
end

section
/-! The registers of the copy engine (spec/08_copy.md R173, R178, R183). -/

namespace Sys2Proof.Machine

/-- The first of two sources that are ready is ready. -/
theorem State.Ready.first {s : State} {sa sb : Src} {rd : BitVec 5} (h : s.Ready (src2 sa sb) rd) : s.Ready (src1 sa) rd :=
  ⟨fun p hp => h.srcs p (List.mem_append_left [(sb, 1)] hp), h.dest, h.room⟩

/-- Sources and destination that are ready pass their tests. -/
theorem State.Ready.gates_go {s : State} {srcs : List (Src × Nat)} {rd : BitVec 5} (h : s.Ready srcs rd) :
    firstStop (srcGates s.c srcs ++ [destGate s.c rd]) = .go := by
  rw [firstStop_append (srcGates_ready h.srcs), destGate_ready h.dest]; rfl

/-- An instruction that has completed with an effect on its core, and on what is aside. -/
theorem Completed.of_aside {s e t : State} {f : Core → Core} {pc : BitVec 32} (h : Completed e t pc) (ha : (s.modC f).Aside s.cur e) :
    t.c.ctx.instret = (f s.c).ctx.instret + 1 ∧ Ctx.Same (f s.c).ctx t.c.ctx ∧ (∀ key, t.c.regAt key = (f s.c).regAt key) ∧ s.BytesSame t := by
  have hcur : e.cur = s.cur := ha.cur
  have hf : (s.modC f).core s.cur = f s.c := State.c_modC ..
  have hctx : e.c.ctx = (f s.c).ctx := by rw [State.c, hcur, ha.ctx, hf]
  refine ⟨by rw [h.instret, hctx], by rw [← hctx]; exact h.ctx, fun key => ?_, fun p => (h.byte p).trans (ha.byte p)⟩
  rw [h.regAt, State.c, hcur, ha.regAt, hf]

/-- CSTAT in its fields (R178). -/
theorem Core.cstat_eq (c : Core) :
    c.cstat = BitVec.ofNat 64 (c.copySeq.toNat * 2 ^ 32 + c.heldCopies % 128 * 2 ^ 8 + c.ctx.rot.toNat) := by
  have hseq := c.copySeq.isLt
  have hrot := c.ctx.rot.isLt
  apply BitVec.eq_of_toNat_eq
  simp only [Core.cstat, toNat_append_eq, BitVec.toNat_ofNat, BitVec.ofNat_eq_ofNat]
  omega

/-- A change of the context alone, as what has completed shows it. -/
theorem Completed.of_ctx {s t : State} {f : Ctx → Ctx} {pc : BitVec 32} (h : Completed (s.modC fun c => c.modCtx f) t pc)
    (hf : (f s.c.ctx).instret = s.c.ctx.instret) : Completed (s.modC fun c => c.modCtx fun x => { t.c.ctx with instret := x.instret }) t pc := by
  have hcore := h.core
  have hinstret := h.instret
  rw [State.c_modC] at hcore hinstret
  constructor
  case pc => exact h.pc
  case instret => rw [State.c_modC]; exact hinstret.trans (congrArg (· + 1) hf)
  case ctx => rw [State.c_modC]; rfl
  case core => rw [State.c_modC]; exact congrArg (fun d : Core => d.modCtx fun _ => { t.c.ctx with instret := s.c.ctx.instret }) hcore
  case others =>
    intro k hk
    have hk : k ≠ s.cur := hk
    rw [h.others k hk, State.core_modC_other _ _ _ hk, State.core_modC_other _ _ _ hk]
  case device =>
    exact congrArg (fun u : State => { u with cores := (s.modC fun c => c.modCtx fun x => { t.c.ctx with instret := x.instret }).cores }) h.device

/-- The effect of `cpw`: the bits of the register that are defined. -/
def Ctx.cpw (n : Nat) (v : XWord) (x : Ctx) : Ctx := { x with ce := Map.put x.ce n (v &&& ceMask n) }

/-- The engine's registers after one is written. -/
theorem Ctx.ceReg_cpw (n k : Nat) (v : XWord) (x : Ctx) : (x.cpw n v).ceReg k = if n = k then v &&& ceMask n else x.ceReg k := Map.get_put ..

/-- `cpw` completes (R183). -/
theorem completes_cpw {s : State} {sa : Src} {rd : BitVec 5} (h : s.Ready (src1 sa) rd) (n : BitVec 5) :
    Completes (.cpw n sa) s (s.modC fun c => c.modCtx (Ctx.cpw n.toNat (s.c.x sa.n))) := by
  obtain ⟨t, ht, hc⟩ := perform_done (s := s) (e := s.modC fun c => c.modCtx (Ctx.cpw n.toNat (s.c.x sa.n))) h.room rfl
  exact ⟨t, (congrArg (perform s) (checked_go (srcGates_ready h.srcs))).trans ht, hc⟩

/-- What `cpw` leaves (R183): the register's defined bits, and all else as it was. -/
theorem cpw_writes {s : State} {sa : Src} {rd : BitVec 5} (h : s.Ready (src1 sa) rd) (n : BitVec 5) :
    ∃ t, exec (.cpw n sa) s = .next t ∧ Completed (s.modC fun c => c.modCtx fun x => { t.c.ctx with instret := x.instret }) t (s.c.pc + 4)
      ∧ (t.c.ctx.ceReg n.toNat = s.c.x sa.n &&& ceMask n.toNat) ∧ (∀ k, k ≠ n.toNat → t.c.ctx.ceReg k = s.c.ctx.ceReg k)
      ∧ { t.c.ctx with ce := s.c.ctx.ce, instret := s.c.ctx.instret, fevs := s.c.ctx.fevs } = s.c.ctx := by
  obtain ⟨t, ht, hc⟩ := completes_cpw h n
  have hctx : { t.c.ctx with instret := s.c.ctx.instret, fevs := s.c.ctx.fevs } = s.c.ctx.cpw n.toNat (s.c.x sa.n) := by
    have hsame := hc.ctx
    rw [State.c_modC] at hsame
    exact hsame
  have hreg (k : Nat) : t.c.ctx.ceReg k = (s.c.ctx.cpw n.toNat (s.c.x sa.n)).ceReg k := (congrArg (fun x : Ctx => x.ceReg k) hctx :)
  refine ⟨t, ht, hc.of_ctx rfl, ?_, fun k hk => ?_, congrArg (fun x : Ctx => { x with ce := s.c.ctx.ce }) hctx⟩
  · rw [hreg, Ctx.ceReg_cpw, if_pos rfl]
  · rw [hreg, Ctx.ceReg_cpw, if_neg hk.symm]

/-- `cpr` of a register of the activation completes (R183). -/
theorem completes_cpr {s : State} {srcs : List (Src × Nat)} {rd n : BitVec 5} (h : s.Ready srcs rd) (hn : n.toNat ≤ 13) :
    Completes (.cpr rd n) s (s.modC fun c => c.setX rd (c.ctx.ceReg n.toNat)) := by
  have hne : n ≠ 14 := by rintro rfl; exact absurd hn (by decide)
  have hne' : n.toNat ≠ 14 := by omega
  obtain ⟨t, ht, hc⟩ := perform_done (s := s) (e := s.modC fun c => c.setX rd (c.ctx.ceReg n.toNat)) h.room rfl
  refine ⟨t, Eq.trans ?_ ht, hc⟩
  change execCpr rd n s = _
  rw [execCpr, checked_go (by rw [destGate_ready h.dest]; rfl), if_neg hne, Core.ceRead, if_neg hne']
  rfl

/-- `cpr` of CSTAT writes its fields (R178). -/
theorem regWritten_cpr_cstat {s : State} {srcs : List (Src × Nat)} {rd : BitVec 5} (h : s.Ready srcs rd) :
    ∃ t, exec (.cpr rd 14) s = .next t
      ∧ RegWritten s t rd (BitVec.ofNat 64 (s.c.copySeq.toNat * 2 ^ 32 + s.c.heldCopies % 128 * 2 ^ 8 + s.c.ctx.rot.toNat)) ∧ s.BytesSame t := by
  have hlog : (s.modC fun c => c.setX rd s.c.cstat).Aside s.cur ((s.modC fun c => c.setX rd s.c.cstat).logExt s.cur 4 14 (s.c.cstat.setWidth 1024)) :=
    State.aside_logAt ..
  obtain ⟨t, ht, hc⟩ := perform_done (s := s) h.room hlog.cur
  refine ⟨t, Eq.trans ?_ ht, ?_, fun p => (hc.byte p).trans (hlog.byte p)⟩
  · change execCpr rd 14 s = _
    rw [execCpr, checked_go (by rw [destGate_ready h.dest]; rfl)]; rfl
  · rw [← Core.cstat_eq]; exact .of_completed hc hlog

end Sys2Proof.Machine
end

section
/-! Tags as a copy ends (spec/08_copy.md R189, R192, R194). -/

namespace Sys2Proof.Machine

/-- The one bit of a tag. -/
theorem getLsbD_bit64 {t : Nat} (ht : t < 64) (i : Nat) : (bit64 t).getLsbD i = decide (i = t) := by
  have h : bit64 t = BitVec.ofNat 64 (2 ^ t) := by rw [bit64, Nat.one_shiftLeft]; rfl
  rw [h, BitVec.getLsbD_ofNat, Nat.testBit_two_pow, Bool.eq_iff_iff, Bool.and_eq_true, decide_eq_true_eq, decide_eq_true_eq, decide_eq_true_eq]
  omega

/-- A bit set is set, and every other as it was. -/
theorem getLsbD_or_bit64 (x : XWord) {t : Nat} (ht : t < 64) (i : Nat) : (x ||| bit64 t).getLsbD i = (x.getLsbD i || decide (i = t)) := by
  rw [BitVec.getLsbD_or, getLsbD_bit64 ht]

/-- A bit cleared is clear, and every other as it was. -/
theorem getLsbD_and_not_bit64 (x : XWord) {t : Nat} (ht : t < 64) (i : Nat) : (x &&& ~~~bit64 t).getLsbD i = (x.getLsbD i && decide (i ≠ t)) := by
  rw [BitVec.getLsbD_and, BitVec.getLsbD_not, getLsbD_bit64 ht]
  by_cases hi : i < 64
  · simp [hi]
  · simp [BitVec.getLsbD_of_ge x i (by omega)]

/-- With no `tag.wany` pending a tag that is set fills nothing. -/
theorem Ctx.setTag_of_no_wany {x : Ctx} (h : x.wany = []) (t : Nat) : x.setTag t = ({ x with tags := x.tags ||| bit64 t }, []) := by
  simp only [Ctx.setTag, Ctx.judgeWany, h, List.foldl_nil]

/-- A copy that has its tag in the running activation, none of whose `tag.wany` is pending. -/
structure Core.Owns (c : Core) (x : Copy) : Prop where
  attached : x.detached = false
  running : c.act ≠ none
  launched : x.act = c.uid
  wany : c.ctx.wany = []

/-- `d` is `c` with a tag ended: not busy, set in TAGS, with its status; PC, INSTRET, the copies and the deque are as they were. -/
structure Core.TagEnded (c d : Core) (tag : Nat) (status : BitVec 16) : Prop where
  pc : d.pc = c.pc
  instret : d.ctx.instret = c.ctx.instret
  copies : d.copies = c.copies
  deque : d.deque = c.deque
  stat : Map.get 0 d.tagStat tag = status
  busy : tag < 64 → d.busy tag = false
  tags : tag < 64 → d.ctx.tags.getLsbD tag = true

/-- A copy's tag ends in the running activation (R189 step 2, R193). -/
theorem Core.endTag_tagEnded {c : Core} {x : Copy} (h : c.Owns x) (status : BitVec 16) : c.TagEnded (c.endTag x status) x.tag status := by
  have hrun : (c.act.isSome && decide (c.uid = x.act)) = true := by simp [Option.isSome_iff_ne_none, h.running, h.launched]
  have heq : c.endTag x status =
      { c with
        ctx := { c.ctx with tags := c.ctx.tags ||| bit64 x.tag }, tagBusy := c.tagBusy &&& ~~~bit64 x.tag, tagStat := Map.put c.tagStat x.tag status
        undo := c.undo.map fun e => { e with ctx := (e.ctx.setTag x.tag).1 } } := by
    simp only [Core.endTag, h.attached, hrun, Ctx.setTag_of_no_wany h.wany]
    rfl
  rw [heq]
  refine ⟨rfl, rfl, rfl, rfl, Map.get_put_same .., fun ht => ?_, fun ht => ?_⟩
  · exact (getLsbD_and_not_bit64 _ ht _).trans (by simp)
  · exact (getLsbD_or_bit64 _ ht _).trans (by simp)

/-- A value of an activation logged. -/
theorem State.aside_logOf (s : State) (k : Nat) (a : Act) (n kind where_ : Nat) (v : BitVec 1024) : s.Aside k (s.logOf k a n kind where_ v) := by
  unfold State.logOf; split
  · exact s.aside_modCore k _ rfl rfl
  · exact .refl k s

/-- As a copy leaves its tag, the results that it fills are logged, aside, and the tag ends at its core. -/
theorem State.endTag_eq (s : State) (k : Nat) (x : Copy) (status : BitVec 16) :
    ∃ u, s.Aside k u ∧ s.endTag k x status = u.modCore k fun c => c.endTag x status := by
  have hlog (u : State) (a : Act) (z : Ctx) : u.Aside k (if decide (a.uid = x.act) && !x.detached then
      (z.setTag x.tag).2.foldl (fun (s : State) f => s.logOf k a z.instret.toNat 5 0 (BitVec.ofNat 1024 f.2)) u else u) := by
    split
    · exact .foldl (fun u f => u.aside_logOf k a _ 5 0 _) _ u
    · exact .refl k u
  refine ⟨_, ?_, rfl⟩
  refine State.Aside.trans ?_ (.foldl (fun u (v : Saved) => hlog u v.act v.ctx) _ _)
  cases (s.core k).act with
  | none => exact .refl k s
  | some a => exact hlog s a _

/-- Who runs, and what copies and tags there are, is nothing aside. -/
theorem State.Aside.owns {k : Nat} {s u : State} (h : s.Aside k u) {x : Copy} (ho : (s.core k).Owns x) : (u.core k).Owns x := by
  have hact : (u.core k).act = (s.core k).act := (congrArg Core.act h.core :)
  refine ⟨ho.attached, by rw [hact]; exact ho.running, ?_, by rw [h.ctx]; exact ho.wany⟩
  rw [ho.launched, Core.uid, Core.uid, hact]

/-- A tag that ends beside what is aside. -/
theorem State.Aside.tagEnded {k : Nat} {s u : State} (h : s.Aside k u) {d : Core} {tag : Nat} {status : BitVec 16} (hd : (u.core k).TagEnded d tag status) :
    (s.core k).TagEnded d tag status where
  pc := hd.pc.trans h.pc
  instret := hd.instret.trans (congrArg Ctx.instret h.ctx)
  copies := hd.copies.trans (congrArg Core.copies h.core :)
  deque := hd.deque.trans (congrArg Core.deque h.core :)
  stat := hd.stat
  busy := hd.busy
  tags := hd.tags

/-- A copy leaves its tag with a status: no byte of memory and no job changes. -/
theorem State.endTag_tagEnded {s : State} {k : Nat} {x : Copy} (h : (s.core k).Owns x) (status : BitVec 16) :
    (s.core k).TagEnded ((s.endTag k x status).core k) x.tag status ∧ (s.endTag k x status).mem = s.mem ∧ (s.endTag k x status).jobs = s.jobs
      ∧ (s.endTag k x status).cur = s.cur := by
  obtain ⟨u, hu, heq⟩ := s.endTag_eq k x status
  rw [heq, State.core_modCore_same]
  exact ⟨hu.tagEnded (Core.endTag_tagEnded (hu.owns h) status), hu.mem, hu.jobs, hu.cur⟩

/-! The engine's list of copies. -/

/-- The identity of a copy that is found. -/
theorem Core.id_of_copyOf {c : Core} {id : Nat} {x : Copy} (h : c.copyOf id = some x) : x.id.toNat = id := by simpa using List.find?_some h

/-- A copy that leaves the engine is there no more. -/
theorem Core.ne_of_mem_dropCopy {c : Core} {id : XWord} {y : Copy} (h : y ∈ (c.dropCopy id).copies) : y.id ≠ id := by
  simpa using (List.mem_filter.1 h).2

/-- A copy that is not among those of the engine is not found. -/
theorem Core.copyOf_eq_none {c : Core} {id : XWord} (h : ∀ y ∈ c.copies, y.id ≠ id) : c.copyOf id.toNat = none :=
  List.find?_eq_none.2 fun y hy => by simpa using fun e => h y hy (BitVec.eq_of_toNat_eq e)

/-- A copy of the engine after one, which keeps its identity, has changed. -/
theorem Core.copyOf_map {c d : Core} {id : XWord} {x : Copy} {f : Copy → Copy} (hd : d.copies = c.copies.map fun y => if y.id = id then f y else y)
    (hf : ∀ y, (f y).id = y.id) (h : c.copyOf id.toNat = some x) : d.copyOf id.toNat = some (f x) := by
  have hid : x.id = id := BitVec.eq_of_toNat_eq (Core.id_of_copyOf h)
  have hp : ((fun y : Copy => decide (y.id.toNat = id.toNat)) ∘ fun y => if y.id = id then f y else y) = fun y => decide (y.id.toNat = id.toNat) := by
    funext y
    simp only [Function.comp]
    split
    · rw [hf]
    · rfl
  rw [Core.copyOf] at h
  rw [Core.copyOf, hd, List.find?_map, hp, h, Option.map_some, if_pos hid]

end Sys2Proof.Machine
end

section
/-! The launch and the end by `cpcancel` (spec/08_copy.md R183, R184, R188, R193). -/

namespace Sys2Proof.Machine

/-- A launch of a copy without views that has an extent of 0 is the geometry fault, with reason 1 (R188). -/
theorem State.launchGates_zero_extent {s : State} {x : Copy} (hsv : x.ctl.getLsbD 16 = false) (hdv : x.ctl.getLsbD 17 = false)
    (h : 0 ∈ x.src.ext ∨ 0 ∈ x.dst.ext) : firstStop (s.launchGates x) = .trap 20 (BitVec.ofNat 64 (2 ^ 60)) := by
  have hany : ((x.src.ext ++ x.dst.ext).any fun e => decide (e = 0)) = true := by
    rw [List.any_eq_true]; exact ⟨0, List.mem_append.2 h, rfl⟩
  simp only [State.launchGates, hsv, hdv, hany]
  rfl

/-- Such a launch traps. -/
theorem traps_cpgo {s : State} {rd : BitVec 5} {sa sb : Src} (h : s.c.SrcsReady (src2 sa sb)) {cause : Nat} {tval : XWord}
    (hstop : firstStop (s.launchGates (s.describe (s.c.x sa.n) (s.c.x sb.n))) = .trap cause tval) : Traps (.cpgo rd sa sb) s cause tval := by
  refine Heeds.traps (gs := srcGates s.c (src2 sa sb) ++ s.launchGates (s.describe (s.c.x sa.n) (s.c.x sb.n))) ?_ ?_
  · exact ⟨_, rfl, checked_heeds (List.prefix_append ..)⟩
  · rw [firstStop_append (srcGates_ready h), hstop]

/-- The effect of a launch on its core (R184). -/
def Core.launch (c : Core) (x : Copy) (rd : BitVec 5) : Core :=
  (({ c with
      copySeq := c.copySeq + 1, tagBusy := c.tagBusy ||| bit64 x.tag, tagStat := Map.put c.tagStat x.tag 0, copies := c.copies ++ [x]
      cmdq := c.cmdq ++ [x.id] } : Core).modCtx fun y => { y with tags := y.tags &&& ~~~bit64 x.tag }).setX rd x.id

end Sys2Proof.Machine
end

section
/-! What a launch and a `cpcancel` leave (spec/08_copy.md R184, R193). -/

namespace Sys2Proof.Machine

/-- A write of a register depends on the registers and on the depth alone. -/
theorem Core.regAt_setX_congr {c d : Core} (hx : c.xs = d.xs) (hd : c.ctx.depth = d.ctx.depth) (rd : BitVec 5) (v : XWord) (key : Nat) :
    (c.setX rd v).regAt key = (d.setX rd v).regAt key := by
  rw [Core.setX, Core.setX, Core.key, Core.key, hd]
  generalize (if rd.toNat = 0 then 0 else physX rd.toNat d.ctx.depth) = k
  by_cases hk : k = 0
  · rw [Core.putKey, Core.putKey, if_pos hk, if_pos hk, Core.regAt_congr hx]
  · rw [Core.regAt_putKey _ _ _ _ hk, Core.regAt_putKey _ _ _ _ hk, Core.regAt_congr hx]

/-- The tag of a launch is one of 64. -/
theorem State.describe_tag_lt (s : State) (a b : XWord) : (s.describe a b).tag < 64 := Nat.mod_lt _ (by decide)

/-- The registers that a launch leaves. -/
theorem Core.regAt_launch (c : Core) (x : Copy) (rd : BitVec 5) (key : Nat) : (c.launch x rd).regAt key = (c.setX rd x.id).regAt key := by
  unfold Core.launch; exact Core.regAt_setX_congr (by rfl) (by rfl) ..

section Launch

variable {s : State} {rd : BitVec 5} {sa sb : Src} {x : Copy} (h : s.Ready (src2 sa sb) rd) (hx : s.describe (s.c.x sa.n) (s.c.x sb.n) = x)
  (hgo : ∀ g ∈ s.launchGates x, g = .go) (hbusy : s.c.busy x.tag = false) (hout : s.c.out = []) (hheld : s.c.heldCopies < 64) (hq : s.c.cmdq.length < 2)
include h hx hgo hbusy hout hheld hq

/-- A launch with nothing to wait for completes (R184). -/
theorem perform_cpgo : ∃ t, exec (.cpgo rd sa sb) s = .next t
    ∧ Completed (({ s with nextId := s.nextId + 1 } : State).modC fun c => c.launch x rd) t (s.c.pc + 4) := by
  subst hx
  obtain ⟨t, ht, hc⟩ := perform_done (s := s)
    (e := ({ s with nextId := s.nextId + 1 } : State).modC fun c => c.launch (s.describe (s.c.x sa.n) (s.c.x sb.n)) rd) h.room rfl
  refine ⟨t, Eq.trans (congrArg (perform s) (checked_go ?_)) ht, hc⟩
  rw [List.append_assoc, firstStop_append (srcGates_ready h.srcs), firstStop_append (firstStop_all hgo), hbusy, destGate_ready h.dest, goodGate_go hout,
    decide_eq_true hheld, decide_eq_true hq]
  rfl

/-- A launch (R184): the copy is queued under its identity, its tag is busy and not set. -/
theorem cpgo_launches : ∃ t, exec (.cpgo rd sa sb) s = .next t ∧ t.c.pc = s.c.pc + 4 ∧ t.c.ctx.instret = s.c.ctx.instret + 1
    ∧ (∀ key, t.c.regAt key = (s.c.setX rd (BitVec.ofNat 64 (s.c.copySeq.toNat * 65536 + x.tag))).regAt key)
    ∧ t.c.copies = s.c.copies ++ [x] ∧ x.st = .queued ∧ t.c.copySeq = s.c.copySeq + 1 ∧ s.BytesSame t
    ∧ (∀ i, t.c.tagBusy.getLsbD i = (s.c.tagBusy.getLsbD i || decide (i = x.tag)))
    ∧ ∀ i, t.c.ctx.tags.getLsbD i = (s.c.ctx.tags.getLsbD i && decide (i ≠ x.tag)) := by
  obtain ⟨t, ht, hc⟩ := perform_cpgo h hx hgo hbusy hout hheld hq
  have htag : x.tag < 64 := hx ▸ s.describe_tag_lt _ _
  have hid : x.id = BitVec.ofNat 64 (s.c.copySeq.toNat * 65536 + x.tag) := by subst hx; rfl
  have hst : x.st = .queued := by subst hx; rfl
  have he : (({ s with nextId := s.nextId + 1 } : State).modC fun c => c.launch x rd).c = s.c.launch x rd := State.c_modC ..
  have hctx : (s.c.launch x rd).ctx = { s.c.ctx with tags := s.c.ctx.tags &&& ~~~bit64 x.tag } := Core.setX_ctx ..
  refine ⟨t, ht, hc.pc, ?_, fun key => ?_, ?_, hst, ?_, hc.byte, fun i => ?_, fun i => ?_⟩
  · rw [hc.instret, he, hctx]
  · rw [hc.regAt, he, Core.regAt_launch, hid]
  · rw [hc.c_copies, he]; exact Core.setX_copies ..
  · rw [hc.c_copySeq, he]; exact Core.setX_copySeq ..
  · rw [hc.c_tagBusy, he, ← getLsbD_or_bit64 _ htag]; exact congrArg (BitVec.getLsbD · i) (Core.setX_tagBusy ..)
  · rw [hc.ctx_tags, he, hctx, ← getLsbD_and_not_bit64 _ htag]

end Launch

/-- A copy of the running activation removed and its tag ended. -/
theorem State.tagEnded_dropped {s : State} {x : Copy} (ho : s.c.Owns x) (status : BitVec 16) :
    ((s.modC fun c => c.dropCopy x.id).endTag s.cur x status).cur = s.cur
      ∧ (s.c.dropCopy x.id).TagEnded ((s.modC fun c => c.dropCopy x.id).endTag s.cur x status).c x.tag status := by
  have hdrop : (s.modC fun c => c.dropCopy x.id).core s.cur = s.c.dropCopy x.id := State.c_modC ..
  obtain ⟨hend, -, -, hcur⟩ := State.endTag_tagEnded (s := s.modC fun c => c.dropCopy x.id) (k := s.cur) (x := x) (hdrop ▸ ⟨ho.1, ho.2, ho.3, ho.4⟩) status
  have hcur : ((s.modC fun c => c.dropCopy x.id).endTag s.cur x status).cur = s.cur := hcur
  have hc : ((s.modC fun c => c.dropCopy x.id).endTag s.cur x status).c = ((s.modC fun c => c.dropCopy x.id).endTag s.cur x status).core s.cur := by
    rw [State.c, hcur]
  rw [hdrop, ← hc] at hend
  exact ⟨hcur, hend⟩

section Cancel

variable {s : State} {sa : Src} {rd : BitVec 5} {x : Copy} (h : s.Ready (src1 sa) rd) (hout : s.c.out = [])
  (hx : s.c.copyOf (s.c.x sa.n).toNat = some x)
include h hout hx

/-- `cpcancel` of a copy that is found completes, with the effect for the copy's stage (R193). -/
theorem perform_cpcancel {e : State} (hcur : e.cur = s.cur)
    (he : (if x.st = .queued then (s.modC fun c => c.dropCopy (s.c.x sa.n)).endTag s.cur x 8
      else if x.st = .running then s.modCopy s.cur (s.c.x sa.n) fun x => { x with st := .cancelling }
      else if x.ended && x.held then s.cancelPush s.cur x
      else s) = e) : ∃ t, exec (.cpcancel sa) s = .next t ∧ Completed e t (s.c.pc + 4) := by
  obtain ⟨t, ht, hc⟩ := perform_done (s := s) (e := e) h.room hcur
  refine ⟨t, Eq.trans ?_ ht, hc⟩
  change execCpcancel sa s = _
  rw [execCpcancel, checked_go (by rw [firstStop_append (srcGates_ready h.srcs), goodGate_go hout]; rfl), hx]
  exact congrArg (fun u => perform s (.done u)) he

/-- A queued copy is removed, and its tag has the status of a cancelled one (R193). -/
theorem cpcancel_queued (hst : x.st = .queued) (ho : s.c.Owns x) :
    ∃ t, exec (.cpcancel sa) s = .next t ∧ t.c.pc = s.c.pc + 4 ∧ t.c.ctx.instret = s.c.ctx.instret + 1 ∧ (∀ y ∈ t.c.copies, y.id ≠ x.id)
      ∧ Map.get 0 t.c.tagStat x.tag = 8 ∧ (x.tag < 64 → t.c.busy x.tag = false ∧ t.c.ctx.tags.getLsbD x.tag = true) := by
  have hid : s.c.x sa.n = x.id := BitVec.eq_of_toNat_eq (Core.id_of_copyOf hx).symm
  obtain ⟨hcur, hend⟩ := State.tagEnded_dropped ho 8
  obtain ⟨t, ht, hc⟩ := perform_cpcancel h hout hx hcur (by rw [if_pos hst, hid])
  refine ⟨t, ht, hc.pc, ?_, fun y hy => ?_, ?_, fun htag => ⟨?_, ?_⟩⟩
  · rw [hc.instret]; exact congrArg (· + 1) hend.instret
  · rw [hc.c_copies] at hy
    exact Core.ne_of_mem_dropCopy (hend.copies ▸ hy)
  · rw [hc.c_tagStat]; exact hend.stat
  · rw [Core.busy, hc.c_tagBusy]; exact hend.busy htag
  · rw [hc.ctx_tags]; exact hend.tags htag

/-- A push that is cancelled is made no more (spec/11_tasks.md R251): its tag, unless another copy has it, has the status of a cancelled copy. -/
theorem cpcancel_acting {st : BitVec 16} (hst : x.st = .acting st) (hact : x.ctl.extractLsb' 4 2 = 2) (ho : s.c.Owns x) :
    ∃ t, exec (.cpcancel sa) s = .next t ∧ t.c.pc = s.c.pc + 4 ∧ t.c.ctx.instret = s.c.ctx.instret + 1 ∧ (∀ y ∈ t.c.copies, y.id ≠ x.id)
      ∧ t.c.deque = s.c.deque ∧ (s.c.busy x.tag = true → t.c.tagStat = s.c.tagStat) ∧ (s.c.busy x.tag = false → Map.get 0 t.c.tagStat x.tag = 8) := by
  have hheld : (x.ended && x.held) = true := by rw [Copy.ended, Copy.held, hst]; exact decide_eq_true hact
  have hcancel : s.cancelPush s.cur x
      = if s.c.busy x.tag then s.modC fun c => c.dropCopy x.id else (s.modC fun c => c.dropCopy x.id).endTag s.cur x 8 := rfl
  obtain ⟨hcur, hend⟩ := State.tagEnded_dropped ho 8
  obtain ⟨t, ht, hc⟩ := perform_cpcancel h hout hx (e := s.cancelPush s.cur x) (by rw [hcancel]; split; exacts [rfl, hcur])
    (by rw [if_neg (by rw [hst]; nofun), if_neg (by rw [hst]; nofun), if_pos hheld])
  rw [hcancel] at hc
  cases hb : s.c.busy x.tag with
  | true =>
    rw [hb, if_pos rfl] at hc
    refine ⟨t, ht, hc.pc, ?_, fun y hy => ?_, ?_, fun _ => ?_, nofun⟩
    · rw [hc.instret, State.c_modC]; rfl
    · rw [hc.c_copies, State.c_modC] at hy
      exact Core.ne_of_mem_dropCopy hy
    · rw [hc.c_deque, State.c_modC]; rfl
    · rw [hc.c_tagStat, State.c_modC]; rfl
  | false =>
    rw [hb, if_neg Bool.false_ne_true] at hc
    refine ⟨t, ht, hc.pc, ?_, fun y hy => ?_, ?_, nofun, fun _ => ?_⟩
    · rw [hc.instret]; exact congrArg (· + 1) hend.instret
    · rw [hc.c_copies] at hy
      exact Core.ne_of_mem_dropCopy (hend.copies ▸ hy)
    · rw [hc.c_deque]; exact hend.deque
    · rw [hc.c_tagStat]; exact hend.stat

/-- A running copy stops issuing (R193). -/
theorem cpcancel_running (hst : x.st = .running) :
    ∃ t y, exec (.cpcancel sa) s = .next t ∧ t.c.pc = s.c.pc + 4 ∧ t.c.copyOf (s.c.x sa.n).toNat = some y ∧ y.st = .cancelling := by
  obtain ⟨t, ht, hc⟩ := perform_cpcancel h hout hx (e := s.modCopy s.cur (s.c.x sa.n) fun x => { x with st := .cancelling }) rfl
    (by rw [if_neg (by rw [hst]; nofun), if_pos hst])
  refine ⟨t, _, ht, hc.pc, Core.copyOf_map (f := fun x => { x with st := .cancelling }) ?_ (fun _ => rfl) hx, rfl⟩
  rw [hc.c_copies]
  exact congrArg Core.copies (State.c_modC ..)

end Cancel

end Sys2Proof.Machine
end

section
/-! The tag instructions (spec/08_copy.md R194 to R196). -/

namespace Sys2Proof.Machine

/-- The first tag of a set from ROT on. -/
theorem firstTag_eq_some {rot : BitVec 6} {set : XWord} {j : Nat} (hj : j < 64) (hset : set.getLsbD ((rot.toNat + j) % 64) = true)
    (hfirst : ∀ i, i < j → set.getLsbD ((rot.toNat + i) % 64) = false) : firstTag rot set = some ((rot.toNat + j) % 64) := by
  have h : (List.range 64).find? ((fun t => set.getLsbD t) ∘ fun j => (rot.toNat + j) % 64) = some j :=
    List.find?_range_eq_some.2 ⟨hset, List.mem_range.2 hj, fun i hi => by simp [hfirst i hi]⟩
  rw [firstTag, List.find?_map, h]; rfl

/-- The empty set has no first tag. -/
theorem firstTag_zero (rot : BitVec 6) : firstTag rot 0 = none := List.find?_eq_none.2 fun t _ => by simp

/-- ROT after a tag is found, or none is. -/
def rotPast (rot : BitVec 6) (o : Option Nat) : BitVec 6 := (o.map fun u => BitVec.ofNat 6 (u + 1)).getD rot

/-- A found tag written, or 64, and ROT moved past it. -/
theorem Core.foundTag_eq (c : Core) (rd : BitVec 5) (o : Option Nat) :
    c.foundTag rd o = (c.modCtx fun x => { x with rot := rotPast x.rot o }).setX rd (BitVec.ofNat 64 (o.getD 64)) := by
  cases o <;> rfl

/-- `t` is `s` with an instruction completed that has found tag `u`, or 64 for none: nothing but its register and ROT differs of registers, tags and
memory. -/
structure State.Found (s t : State) (rd : BitVec 5) (u : Nat) (rot : BitVec 6) : Prop where
  pc : t.c.pc = s.c.pc + 4
  instret : t.c.ctx.instret = s.c.ctx.instret + 1
  rot : t.c.ctx.rot = rot
  tags : t.c.ctx.tags = s.c.ctx.tags
  reg : ∀ key, t.c.regAt key = (s.c.setX rd (BitVec.ofNat 64 u)).regAt key
  memory : s.BytesSame t

/-- What a found tag leaves, logged as a result of the activation (R196). -/
theorem perform_foundTag {s : State} {rd : BitVec 5} {gs : List Gate} (hgo : firstStop gs = .go) (hroom : s.c.LogRoom) (o : Option Nat) :
    ∃ t, perform s (checked s gs ((s.modC fun c => c.foundTag rd o).logResult s.cur (foundWord o))) = .next t
      ∧ s.Found t rd (o.getD 64) (rotPast s.c.ctx.rot o) := by
  have hlog : (s.modC fun c => c.foundTag rd o).Aside s.cur ((s.modC fun c => c.foundTag rd o).logResult s.cur (foundWord o)) := State.aside_logAt ..
  obtain ⟨t, ht, hc⟩ := perform_done (s := s) hroom hlog.cur
  obtain ⟨hinstret, hctx, hreg, hbytes⟩ := hc.of_aside hlog
  rw [Core.foundTag_eq, Core.setX_ctx] at hinstret hctx
  refine ⟨t, by rw [checked_go hgo]; exact ht, hc.pc, hinstret, (congrArg Ctx.rot hctx :), (congrArg Ctx.tags hctx :), fun key => ?_, hbytes⟩
  rw [hreg, Core.foundTag_eq]
  exact Core.regAt_setX_congr (by rfl) (by rfl) ..

/-- The effect of a `tag.wany` that finds no tag set and one busy: it is pending, and its destination empty (R196). -/
def Core.pendWany (c : Core) (rd : BitVec 5) (mask : XWord) : Core :=
  (c.modCtx fun x => { x with wany := x.wany ++ [⟨c.destKey rd, mask⟩] }).setEmptyKey (c.destKey rd)

section Tags

variable {s : State} {sa : Src} {rd : BitVec 5} (h : s.Ready (src1 sa) rd)
include h

/-- `tag.ffr` finds the first set tag of its mask, or none (R196). -/
theorem found_tagFfr {o : Option Nat} (ho : firstTag s.c.ctx.rot (s.c.x sa.n &&& s.c.ctx.tags) = o) :
    ∃ t, exec (.tagFfr rd sa) s = .next t ∧ s.Found t rd (o.getD 64) (rotPast s.c.ctx.rot o) := by
  subst ho
  exact perform_foundTag h.gates_go h.room _

/-- `tag.wany` finds the first set tag of its mask, or none where no tag of it is busy (R196). -/
theorem found_tagWany {o : Option Nat} (ho : firstTag s.c.ctx.rot (s.c.x sa.n &&& s.c.ctx.tags) = o)
    (hnow : (o.isSome || !s.c.maskBusy (s.c.x sa.n)) = true) :
    ∃ t, exec (.tagWany rd sa) s = .next t ∧ s.Found t rd (o.getD 64) (rotPast s.c.ctx.rot o) := by
  subst ho
  obtain ⟨t, ht, hfound⟩ := perform_foundTag (rd := rd) h.gates_go h.room (firstTag s.c.ctx.rot (s.c.x sa.n &&& s.c.ctx.tags))
  refine ⟨t, Eq.trans ?_ ht, hfound⟩
  change execTagWany rd sa s = _
  rw [execTagWany, if_pos hnow]

/-- `tag.wany` with no tag set and one busy leaves its destination empty, to be filled (R196). -/
theorem tagWany_pends (hnone : s.c.x sa.n &&& s.c.ctx.tags = 0) (hbusy : s.c.tagBusy &&& s.c.x sa.n ≠ 0) (hrd : rd ≠ 0) :
    ∃ t, exec (.tagWany rd sa) s = .next t ∧ t.c.pc = s.c.pc + 4 ∧ (t.c.reg rd.toNat).full = false
      ∧ t.c.ctx.wany = s.c.ctx.wany ++ [⟨s.c.key rd.toNat, s.c.x sa.n⟩] := by
  have hmask : s.c.maskBusy (s.c.x sa.n) = true := decide_eq_true hbusy
  obtain ⟨hkey, -⟩ := Core.destKey_of_ne_zero (c := s.c) hrd
  obtain ⟨t, ht, hc⟩ := perform_done (s := s) (e := s.modC fun c => c.pendWany rd (s.c.x sa.n)) h.room rfl
  refine ⟨t, Eq.trans ?_ ht, hc.pc, ?_, ?_⟩
  · change execTagWany rd sa s = _
    rw [execTagWany, checked_go h.gates_go, hnone, firstTag_zero, hmask]
    rfl
  · rw [hc.reg, State.c_modC]
    exact (Core.setEmptyKey_of_same (d := s.c.modCtx fun x => { x with wany := x.wany ++ [⟨s.c.destKey rd, s.c.x sa.n⟩] }) rfl rfl).1 hrd
  · rw [hc.ctx_wany, State.c_modC, Core.pendWany, Core.setEmptyKey_ctx, ← hkey]; rfl

/-- `tag.wall` goes on with no tag of its mask busy, and waits with one (R196). -/
theorem tagWall_waits_for_busy :
    (s.c.tagBusy &&& s.c.x sa.n = 0 → Completes (.tagWall sa) s s) ∧ (s.c.tagBusy &&& s.c.x sa.n ≠ 0 → Waits (.tagWall sa) s) := by
  have hexec : exec (.tagWall sa) s = perform s (checked s (srcGates s.c (src1 sa) ++ [waitUntil (!s.c.maskBusy (s.c.x sa.n))]) s) := rfl
  refine ⟨fun hfree => ?_, fun hbusy => ?_⟩
  · obtain ⟨t, ht, hc⟩ := perform_done (s := s) (e := s) h.room rfl
    have hmask : s.c.maskBusy (s.c.x sa.n) = false := decide_eq_false (not_not.2 hfree)
    refine ⟨t, ?_, hc⟩
    rw [hexec, checked_go (by rw [firstStop_append (srcGates_ready h.srcs), hmask]; rfl), ht]
  · have hmask : s.c.maskBusy (s.c.x sa.n) = true := decide_eq_true hbusy
    rw [Waits, hexec, checked, firstStop_append (srcGates_ready h.srcs), hmask]
    rfl

/-- `tag.clr` clears the tags of its mask that are not busy (R196). -/
theorem tagClr_clears :
    ∃ tags, Completes (.tagClr sa) s (s.modC fun c => { c with ctx := { c.ctx with tags := tags } })
      ∧ ∀ i, i < 64 → tags.getLsbD i = (s.c.ctx.tags.getLsbD i && (!(s.c.x sa.n).getLsbD i || s.c.tagBusy.getLsbD i)) := by
  obtain ⟨t, ht, hc⟩ := perform_done (s := s)
    (e := s.modC fun c => c.modCtx fun x => { x with tags := x.tags &&& ~~~(s.c.x sa.n &&& ~~~c.tagBusy) }) h.room rfl
  refine ⟨s.c.ctx.tags &&& ~~~(s.c.x sa.n &&& ~~~s.c.tagBusy), ⟨t, Eq.trans ?_ ht, hc⟩, fun i hi => ?_⟩
  · exact congrArg (perform s) (checked_go (srcGates_ready h.srcs))
  · simp [hi]

/-- `tag.test` writes a tag's status word (R194, R196). -/
theorem tagTest_reads :
    ∃ t, exec (.tagTest rd sa) s = .next t ∧ s.BytesSame t
      ∧ RegWritten s t rd ((Map.get 0 s.c.tagStat ((s.c.x sa.n).toNat % 64)).setWidth 64 ||| if s.c.tagBusy.getLsbD ((s.c.x sa.n).toNat % 64) then 2 else 0) := by
  have hfield : fieldOf (s.c.x sa.n) 0 6 = (s.c.x sa.n).toNat % 64 := by rw [fieldOf, Nat.pow_zero, Nat.div_one]; rfl
  have hword : s.c.tagWord (fieldOf (s.c.x sa.n) 0 6)
      = (Map.get 0 s.c.tagStat ((s.c.x sa.n).toNat % 64)).setWidth 64 ||| if s.c.tagBusy.getLsbD ((s.c.x sa.n).toNat % 64) then 2 else 0 := by
    rw [hfield]; rfl
  rw [← hword]
  generalize hv : s.c.tagWord (fieldOf (s.c.x sa.n) 0 6) = v
  have hlog : (s.modC fun c => c.setX rd v).Aside s.cur ((s.modC fun c => c.setX rd v).logResult s.cur v) := State.aside_logAt ..
  obtain ⟨t, ht, hc⟩ := perform_done (s := s) h.room hlog.cur
  refine ⟨t, Eq.trans ?_ ht, fun p => (hc.byte p).trans (hlog.byte p), .of_completed hc hlog⟩
  subst hv
  exact congrArg (perform s) (checked_go h.gates_go)

end Tags

/-- Settles O43: the engine's registers, the launch, its geometry fault, `cpcancel` of a copy by its stage, and the tag instructions. -/
theorem copyLaunchAndTags : Obligations.CopyLaunchAndTags := by
  unfold Obligations.CopyLaunchAndTags
  intro rd sa sb s hready a c first finds
  have h1 := hready.first
  have hfinds {i : Instr} {u : Nat} {rot : BitVec 6} (hf : ∃ t, exec i s = .next t ∧ s.Found t rd u rot) : finds i u rot := by
    obtain ⟨t, ht, f⟩ := hf
    exact ⟨t, ht, f.pc, f.instret, f.rot, f.tags, f.reg, f.memory⟩
  refine ⟨fun n hn => ⟨cpw_writes h1 n, completes_cpr h1 hn⟩, regWritten_cpr_cstat h1,
    fun hgo hbusy hout hheld hq => cpgo_launches hready rfl hgo hbusy hout hheld hq,
    fun hsv hdv hzero => traps_cpgo hready.srcs (State.launchGates_zero_extent hsv hdv hzero), fun x hx hout => ⟨?_, ?_, ?_⟩,
    (tagWall_waits_for_busy h1).1, (tagWall_waits_for_busy h1).2, ?_, fun hnone => ?_, tagWany_pends h1, tagClr_clears h1, tagTest_reads h1⟩
  · exact fun hst hd ha hu hw => cpcancel_queued h1 hout hx hst ⟨hd, ha, hu, hw⟩
  · exact fun st hst hact hd ha hu hw => cpcancel_acting h1 hout hx hst hact ⟨hd, ha, hu, hw⟩
  · exact fun hst => cpcancel_running h1 hout hx hst
  · rintro u ⟨j, hj, rfl, hset, hfirst⟩
    have hfound := firstTag_eq_some hj hset hfirst
    exact ⟨hfinds (found_tagWany h1 hfound rfl), hfinds (found_tagFfr h1 hfound)⟩
  · have hfound : firstTag s.c.ctx.rot (s.c.x sa.n &&& s.c.ctx.tags) = none := by rw [show s.c.x sa.n &&& s.c.ctx.tags = 0 from hnone, firstTag_zero]
    refine ⟨hfinds (found_tagFfr h1 hfound), fun hfree => ?_⟩
    have hmask : s.c.maskBusy (s.c.x sa.n) = false := decide_eq_false (not_not.2 hfree)
    exact hfinds (found_tagWany h1 hfound (by rw [hmask]; rfl))

end Sys2Proof.Machine
end

section
/-! The start of a copy (spec/08_copy.md R185). -/

namespace Sys2Proof.Machine

/-- A copy that starts and marks no line. -/
def Copy.started (x : Copy) : Copy := { x with st := .running, todo := List.range x.units, left := [], marked := [] }

section Start

variable {s : State} {k : Nat} {x : Copy} (hfirst : (s.core k).copies.find? (fun y => decide (y.st = .queued)) = some x) (hmark : x.nomark = true)
  (hfew : ((s.core k).copies.filter fun y => decide (y.st ≠ .queued) && !y.ended).length < 4) (hback : s.heldBack k x = false)
  (hclean : (s.core k).l1Dirty = false) (hposted : ∀ p ∈ (s.core k).posted, p.kind ≠ 3)
include hfirst hmark hfew hback hclean hposted

/-- A copy that marks no line starts once nothing holds it back and no dirty byte of its core is to leave before it. -/
theorem State.copyStartStep_eq : s.copyStartStep k = s.modCore k fun c =>
    { c with cmdq := c.cmdq.filter fun i => decide (i ≠ x.id), copies := c.copies.map fun y => if y.id = x.id then y.started else y } := by
  have hroom : ¬ (decide (4 ≤ ((s.core k).copies.filter fun y => decide (y.st ≠ .queued) && !y.ended).length) || s.heldBack k x) = true := by
    rw [hback, decide_eq_false (Nat.not_le.2 hfew)]; nofun
  have hdirty : ¬ ((s.core k).l1.any fun l => s.firstOut k x l && decide (l.dirty ≠ 0)) = true := by
    rw [Core.l1Dirty, List.any_eq_false] at hclean
    rw [Bool.not_eq_true, List.any_eq_false]
    exact fun l hl => by rw [Bool.eq_false_iff.2 (hclean l hl), Bool.and_false]; exact Bool.false_ne_true
  have hwrites : ¬ ((s.core k).posted.any fun p => decide (p.kind = 3) && s.inCopy x { line := p.line, data := 0 }) = true := by
    rw [Bool.not_eq_true, List.any_eq_false]
    exact fun p hp => by rw [decide_eq_false (hposted p hp), Bool.false_and]; exact Bool.false_ne_true
  unfold State.copyStartStep
  extract_lets c
  rw [show c.copies.find? (fun y => decide (y.st = .queued)) = some x from hfirst]
  dsimp only
  rw [if_neg hroom, if_neg hdirty, if_neg hwrites, hmark]
  rfl

/-- The first queued copy starts (R185). -/
theorem copyStart_runs (hx : (s.core k).copyOf x.id.toNat = some x) :
    ∃ t y, exec (.copyStart k) s = .next t ∧ (t.core k).copyOf x.id.toNat = some y ∧ y.st = .running ∧ s.BytesSame t := by
  refine ⟨_, x.started, congrArg Host.Outcome.next (State.copyStartStep_eq hfirst hmark hfew hback hclean hposted), ?_, rfl, State.bytesSame_of_mem rfl⟩
  exact Core.copyOf_map (f := Copy.started) (congrArg Core.copies (State.core_modCore_same ..)) (fun _ => rfl) hx

end Start

end Sys2Proof.Machine
end

section
/-! The reply to a read of a copy (spec/08_copy.md R185, R187; spec/06_memory.md R114, R130). -/

namespace Sys2Proof.Machine

/-- Translated addresses have no place in the own scratchpad (spec/06_memory.md R120). -/
theorem State.leafTgt_region_ne_own (s : State) (e : Leaf) (va : Nat) : (s.leafTgt e va).region ≠ .own := by
  unfold State.leafTgt
  dsimp only
  split <;> nofun

/-- What a check of an access of `n` bytes to the own scratchpad asks (R114, R116): a multiple of the size, within the array. -/
def Core.OwnAccess (c : Core) (a : XWord) (n : Nat) : Prop := a.toNat % n = 0 ∧ a.toNat + n ≤ c.spsize

/-- Where it lies. -/
def ownAt (k : Nat) (a : XWord) : Tgt := ⟨.own, placePad k a.toNat, k, 0, 0⟩

/-- Only such an access has its place in the own scratchpad. -/
theorem State.ownAccess_of_checkAs {s : State} {k job n : Nat} {a : XWord} {kind : AKind} {amoHost : Bool} {t : Tgt}
    (h : s.checkAs k job a n kind amoHost = .ok t) (ht : t.region = .own) : (s.core k).OwnAccess a n ∧ t = ownAt k a := by
  unfold State.checkAs at h
  dsimp only at h
  split at h
  · cases h
  next hal =>
  split at h
  · cases h
  split at h
  · -- the region of the own scratchpad
    split at h
    · next hin => cases h; exact ⟨⟨not_not.1 hal, hin⟩, rfl⟩
    · cases h
  split at h
  · cases h
  split at h
  · -- the apertures, whose targets are of other regions
    split at h
    · cases h
    split at h
    · cases h
    split at h
    · cases h
    split at h <;> (cases h; cases ht)
  split at h
  · cases h
  split at h
  · cases h
  · -- a translated address
    split at h
    · cases h
    · cases h; exact absurd ht (s.leafTgt_region_ne_own _ _)

/-- The target of a copy's access that lies in the own scratchpad. -/
theorem State.ownAccess_of_copyTarget {s : State} {k : Nat} {x : Copy} {a : XWord} {kind : AKind} {t : Tgt} (h : s.copyTarget k x a kind true = .ok t)
    (ht : t.region = .own) : (s.core k).OwnAccess a x.unit ∧ t = ownAt k a := by
  unfold State.copyTarget at h
  split at h
  · rw [if_pos rfl] at h
    split at h
    · cases h
    · dsimp only at h
      split at h
      · cases h
      · cases h; exact absurd ht (s.leafTgt_region_ne_own _ _)
  · exact State.ownAccess_of_checkAs h ht

/-- An access to the own scratchpad has its place there, whatever else the state holds. -/
theorem State.copyTarget_own {s : State} {k : Nat} {x : Copy} {a : XWord} (h : (s.core k).OwnAccess a x.unit) (hn : 0 < x.unit) (kind : AKind) (deep : Bool) :
    s.copyTarget k x a kind deep = .ok (ownAt k a) := by
  obtain ⟨hal, hin⟩ := h
  have hle : (s.core k).spsize ≤ 0x60000 := Carve.spsize_le _
  have hck : s.checkAs k x.job a x.unit kind = .ok (ownAt k a) := by
    unfold State.checkAs
    dsimp only
    rw [if_neg (not_not.2 hal), if_neg (by omega), if_pos (by omega), if_pos hin]; rfl
  rw [State.copyTarget, hck]

/-- `t` is `s` with some cores and packets changed, but no byte of memory and no receiving stream. -/
structure State.SameBytesAndStreams (s t : State) : Prop where
  mem : t.mem = s.mem
  streams : s.SameStreams t

namespace State.SameBytesAndStreams

variable {s t u : State}

theorem trans (h : s.SameBytesAndStreams t) (g : t.SameBytesAndStreams u) : s.SameBytesAndStreams u := ⟨g.mem.trans h.mem, h.streams.trans g.streams⟩
theorem modCore (s : State) (k : Nat) (f : Core → Core) : s.SameBytesAndStreams (s.modCore k f) := ⟨rfl, .refl s⟩
theorem of_aside {k : Nat} (h : s.Aside k t) : s.SameBytesAndStreams t := ⟨h.mem, h.streams⟩

end State.SameBytesAndStreams

/-- A copy's write logged. -/
theorem State.aside_logCopyWrite (s : State) (k uid l : Nat) (d : BitVec 1024) : s.Aside k (s.logCopyWrite k uid l d) := by
  unfold State.logCopyWrite
  split
  · split
    · exact .refl k s
    · exact s.aside_logAt ..
  · split
    · exact .refl k s
    · split
      · exact .refl k s
      · exact s.aside_logOf ..

/-- Bytes of a copy in the own scratchpad are written at once, into their line (R187). -/
theorem State.copyWrite_own {s : State} {k : Nat} {x : Copy} {u n v : Nat} {t : Tgt} (ht : s.copyTarget k x (x.dstAt u) .write true = .ok t)
    (hown : t.region = .own) :
    (s.writeLine (lineOf t.place) (byteMask (t.place % 128) (n * x.unit)) (storeData v (t.place % 128) (n * x.unit))).SameBytesAndStreams
      (s.copyWrite k x u n v) := by
  have hlog (w : State) (l uid : Nat) (d : BitVec 1024) : w.SameBytesAndStreams ((w.unlogBut k l uid).logCopyWrite k uid l d) :=
    (State.SameBytesAndStreams.modCore w k _).trans (.of_aside (State.aside_logCopyWrite ..))
  have hline (f : Copy → Copy) (l : Nat) (mask : BitVec 128) (d : BitVec 1024) :
      (s.writeLine l mask d).SameBytesAndStreams ((s.modCopy k x.id f).writeLine l mask d) := ⟨rfl, fun _ => rfl⟩
  unfold State.copyWrite
  extract_lets va
  rw [show s.copyTarget k x va .write true = .ok t from ht]
  dsimp only
  rw [if_pos hown]
  split
  · exact ((hline _ _ _ _).trans (hlog _ _ _ _)).trans ((State.SameBytesAndStreams.modCore _ k _).trans (.modCore _ k _))
  · exact (hline _ _ _ _).trans (hlog _ _ _ _)

/-- A number in its bytes. -/
theorem State.load_of_bytes {s : State} (hm : s.MemOk) {t : State} {p n v : Nat}
    (h : ∀ q, p ≤ q → q < p + n → t.byte q = BitVec.ofNat 8 (v / 2 ^ (8 * (q - p)))) : t.load p n = v % 2 ^ (8 * n) := by
  have hsame : t.load p n = (s.store p n v).load p n := State.load_congr fun q h1 h2 => by
    have hi := s.byte_store_inside p n v (q - p) hm (by omega)
    rw [Nat.add_sub_cancel' h1] at hi
    rw [h q h1 h2, hi]
  rw [hsame, State.load_store _ _ _ _ hm, pow_256_eq_two_pow]

/-- A good reply to a copy that runs: its bytes are written on (R185). -/
theorem State.copyReply_good {s : State} {k : Nat} {x : Copy} {r : ReadReq} {q : CopyRead} (hx : (s.core k).copyOf r.owner = some x)
    (hq : x.asked.find? (fun q => decide (q.part = r.part)) = some q) (hst : x.st = .running) (d : BitVec 1024) (moment : Nat) :
    s.copyReply k r 0 d moment
      = ((s.modCopy k x.id fun y => { y with asked := y.asked.filter fun q => decide (q.part ≠ r.part) }).seenAt k r.line moment).copyWrite k x r.part q.n
        (lineBytes d ((x.srcAt r.part).toNat % 128) (q.n * x.unit)) := by
  unfold State.copyReply
  rw [hx]
  dsimp only
  rw [hq]
  dsimp only
  rw [if_neg (not_not.2 hst), if_neg (not_not.2 rfl)]

/-- Some bytes of a line written, and no others: they hold their number, and memory is as it was elsewhere. -/
theorem State.load_of_writeLine {s t : State} (hm : s.MemOk) {p n v : Nat} (hn : p % 128 + n ≤ 128) (hv : v < 2 ^ (8 * n))
    (ht : t.mem = (s.writeLine (lineOf p) (byteMask (p % 128) n) (storeData v (p % 128) n)).mem) :
    t.MemOk ∧ t.load p n = v ∧ ∀ b, b < p ∨ p + n ≤ b → t.byte b = s.byte b := by
  have hbyte (b : Nat) : t.byte b = if p ≤ b ∧ b < p + n then BitVec.ofNat 8 (v / 2 ^ (8 * (b - p))) else s.byte b := by
    have hb := State.byte_writeLine_storeData hm (lineOf p) v hn b
    rw [lineOf_add_mod] at hb
    rw [State.byte, ht]
    exact hb
  refine ⟨?_, ?_, fun b hb => ?_⟩
  · rw [State.MemOk, ht]; exact Memory.writeMasked_wf _ _ _ _ _ hm
  · rw [State.load_of_bytes hm fun b h1 h2 => (hbyte b).trans (if_pos ⟨h1, h2⟩), Nat.mod_eq_of_lt hv]
  · rw [hbyte, if_neg (by omega)]

/-- What a good reply leaves of a copy whose bytes go to the own scratchpad: they stand there, and no other byte differs. -/
theorem State.copyReply_stores {s : State} (hm : s.MemOk) {k : Nat} {x : Copy} {r : ReadReq} {q : CopyRead} (hx : (s.core k).copyOf r.owner = some x)
    (hq : x.asked.find? (fun q => decide (q.part = r.part)) = some q) (hst : x.st = .running) (hto : (s.core k).OwnAccess (x.dstAt r.part) x.unit)
    (hunit : 0 < x.unit) {tgt : Tgt} (htgt : tgt = ownAt k (x.dstAt r.part)) (hn : tgt.place % 128 + q.n * x.unit ≤ 128) (d : BitVec 1024) (moment : Nat) :
    let t := s.copyReply k r 0 d moment
    s.SameStreams t ∧ t.MemOk ∧ t.load tgt.place (q.n * x.unit) = lineBytes d ((x.srcAt r.part).toNat % 128) (q.n * x.unit)
      ∧ ∀ b, b < tgt.place ∨ tgt.place + q.n * x.unit ≤ b → t.byte b = s.byte b := by
  intro t
  have hseen := (s.modCopy k x.id fun y => { y with asked := y.asked.filter fun q => decide (q.part ≠ r.part) }).aside_seenAt k r.line moment
  have ht : t = _ := State.copyReply_good hx hq hst d moment
  generalize (s.modCopy k x.id fun y => { y with asked := y.asked.filter fun q => decide (q.part ≠ r.part) }).seenAt k r.line moment = w at hseen ht
  have hwm : w.mem = s.mem := hseen.mem
  have hsp : (w.core k).spsize = (s.core k).spsize := by
    have hcarve : (w.core k).carve = _ := (congrArg Core.carve hseen.core :)
    rw [State.modCopy, State.core_modCore_same] at hcarve
    exact congrArg Carve.spsize hcarve
  have hgo : w.copyTarget k x (x.dstAt r.part) .write true = .ok tgt := by
    rw [htgt]; exact State.copyTarget_own ⟨hto.1, by rw [hsp]; exact hto.2⟩ hunit .write true
  have hwrite := State.copyWrite_own (n := q.n) (v := lineBytes d ((x.srcAt r.part).toNat % 128) (q.n * x.unit)) hgo (by rw [htgt]; rfl)
  rw [← ht] at hwrite
  have hwok : w.MemOk := by rw [State.MemOk, hwm]; exact hm
  obtain ⟨hok, hload, hrest⟩ := State.load_of_writeLine hwok hn (Nat.mod_lt _ (Nat.two_pow_pos _)) hwrite.mem
  have hws : s.SameStreams w := hseen.streams
  exact ⟨hws.trans hwrite.streams, hok, hload, fun b hb => (hrest b hb).trans (by rw [State.byte, hwm, State.byte])⟩

/-- A read reply to a copy at its core's engine. -/
theorem State.acceptOne_copyReply {s : State} {p : Packet} {k : Nat} (hcore : isCore k = true) {r : ReadReq} {f : Nat} {d : BitVec 1024}
    (hb : p.body = .readRep r f d) (hr : r.core = k) (hcopy : r.copy = true) : s.acceptOne p = s.copyReply k r f d p.id := by
  obtain ⟨hruns, hhome⟩ := epRuns_of_isCore hcore
  simp only [State.acceptOne, hb, State.delayed, State.readDone, hr, hcopy, hruns, hhome, Bool.not_true, Bool.and_false, Bool.false_eq_true, if_false, if_true]

/-- A good reply that arrives at a copy to its own scratchpad stores its bytes (R185, R187). -/
theorem copyReadReply_stores {s : State} (hm : s.MemOk) {pid k : Nat} {p : Packet} (ha : s.Arrives pid p) (hcore : isCore k = true) {r : ReadReq} {d : BitVec 1024}
    (hb : p.body = .readRep r 0 d) (hcopy : r.copy = true) (hr : r.core = k) {x : Copy} {q : CopyRead} (hx : (s.core k).copyOf r.owner = some x)
    (hst : x.st = .running) (hq : x.asked.find? (fun q => decide (q.part = r.part)) = some q) {tgt : Tgt}
    (htgt : s.copyTarget k x (x.dstAt r.part) .write true = .ok tgt) (hown : tgt.region = .own) (hunit : 0 < x.unit)
    (hn : tgt.place % 128 + q.n * x.unit ≤ 128) :
    ∃ t, exec (.copyReadReply pid) s = .next t ∧ t.MemOk
      ∧ t.load tgt.place (q.n * x.unit) = lineBytes d ((x.srcAt r.part).toNat % 128) (q.n * x.unit)
      ∧ ∀ b, b < tgt.place ∨ tgt.place + q.n * x.unit ≤ b → t.byte b = s.byte b := by
  obtain ⟨hto, htgt⟩ := State.ownAccess_of_copyTarget htgt hown
  have hreply {u : State} (hu : s.Taken pid u) := State.copyReply_stores (hu.memOk hm) (hu.core k ▸ hx) hq hst (hu.core k ▸ hto) hunit htgt hn d p.id
  have haccept (u : State) : u.acceptOne p = u.copyReply k r 0 d p.id := State.acceptOne_copyReply hcore hb hr hcopy
  obtain ⟨u, hu, ht⟩ := ha.arrive (kind := fun b => match b with | .readRep r _ _ => r.copy | _ => false) (by rw [hb]; exact hcopy)
    fun u hu => by rw [haccept]; exact (hreply hu).1
  obtain ⟨-, hok, hload, hrest⟩ := hreply hu
  rw [haccept] at ht
  exact ⟨_, congrArg Host.Outcome.next ht, hok, hload, fun b hb => (hrest b hb).trans (hu.byte b)⟩

end Sys2Proof.Machine
end

section
/-! The end of a copy (spec/08_copy.md R189, R191). -/

namespace Sys2Proof.Machine

/-- A copy without a completion action ends: it has left the engine, its tag has ended, and memory and jobs are as they were. -/
structure State.CopyEnded (s t : State) (k : Nat) (x : Copy) (status : BitVec 16) : Prop where
  gone : (t.core k).copyOf x.id.toNat = none
  stat : Map.get 0 (t.core k).tagStat x.tag = status
  busy : (t.core k).busy x.tag = false
  tags : (t.core k).ctx.tags.getLsbD x.tag = true
  mem : t.mem = s.mem
  jobs : t.jobs = s.jobs

/-- A copy with no action leaves the engine as its tag ends (R189). -/
theorem State.endCopy_of_no_action {x : Copy} (ha : x.action = 0) (s : State) (k : Nat) (status : BitVec 16) :
    s.endCopy k x status true = ((s.endTag k x status).modCopy k x.id fun y => { y with st := .acting status }).modCore k fun c => c.dropCopy x.id := by
  rw [State.endCopy, if_pos rfl, State.tryAction, if_pos (.inl ha), State.copyAction, if_pos ha]

/-- The end of a copy of the running activation that has no action. -/
theorem State.endCopy_ended {s : State} {k : Nat} {x : Copy} (ho : (s.core k).Owns x) (htag : x.tag < 64) (ha : x.action = 0) (status : BitVec 16) :
    s.CopyEnded (s.endCopy k x status true) k x status := by
  obtain ⟨hend, hmem, hjobs, -⟩ := State.endTag_tagEnded ho status
  rw [State.endCopy_of_no_action ha]
  generalize s.endTag k x status = u at hend hmem hjobs
  have hcore : (((u.modCopy k x.id fun y => { y with st := .acting status }).modCore k fun c => c.dropCopy x.id).core k)
      = Core.dropCopy { u.core k with copies := (u.core k).copies.map fun y => if y.id = x.id then { y with st := .acting status } else y } x.id := by
    rw [State.core_modCore_same, State.modCopy, State.core_modCore_same]
  constructor
  case gone => rw [hcore]; exact Core.copyOf_eq_none fun y hy => Core.ne_of_mem_dropCopy hy
  case stat => rw [hcore]; exact hend.stat
  case busy => rw [hcore]; exact hend.busy htag
  case tags => rw [hcore]; exact hend.tags htag
  case mem => exact hmem
  case jobs => exact hjobs

/-- A copy that has made every access, is quiet and has no action ends with status DONE; no byte of memory changes (R189). -/
theorem State.copyDone_ended {s : State} {k id : Nat} {x : Copy} (hx : (s.core k).copyOf id = some x) (ho : (s.core k).Owns x) (htag : x.tag < 64)
    (hst : x.st = .running) (hquiet : x.quiet = true) (htodo : x.todo = []) (hmarked : x.marked = []) (ha : x.action = 0) :
    s.CopyEnded (s.copyDone k id) k x 1 := by
  have heq : s.copyDone k id = (s.dropLines k fun l => x.dstHulls.any fun h => s.inRangeOf x.job h l).endCopy k x 1 true := by
    unfold State.copyDone
    rw [hx]
    dsimp only
    rw [hquiet, hst, htodo, hmarked]
    rfl
  have hdrop := s.aside_dropLines k fun l => x.dstHulls.any fun h => s.inRangeOf x.job h l
  rw [heq]
  obtain ⟨hgone, hstat, hbusy, htags, hmem, hjobs⟩ := State.endCopy_ended (hdrop.owns ho) htag ha 1
  exact ⟨hgone, hstat, hbusy, htags, hmem.trans hdrop.mem, hjobs.trans hdrop.jobs⟩

/-- An appended record is in its job's queue: a full queue loses its oldest (spec/18_frontend.md R439). -/
theorem State.mem_errs_appendErr (s : State) (job : Nat) (e : ErrRec) : e ∈ ((s.appendErr job e).job job).errs := by
  rw [State.appendErr_eq, State.job, State.store_jobs, ← State.job, State.errQueued, State.job_modJob_same]
  split <;> exact List.mem_append_right _ (List.mem_singleton_self e)

/-- A record appended to a job leaves every core as it was. -/
theorem State.core_appendErr (s : State) (job : Nat) (e : ErrRec) (k : Nat) : (s.appendErr job e).core k = s.core k := by
  rw [State.core, (s.appendErr_rest job e).1, State.core]

/-- The record of a failed copy (R191). -/
def State.copyErr (s : State) (k : Nat) (x : Copy) (cause : Nat) (va : XWord) (wr : Bool) (n : Nat) : ErrRec :=
  let peer := match s.copyTarget k x va (if wr then .write else .read) true with
    | .ok t => peerOf t.ep t.place
    | _ => 0xFFFFFFFF
  { addr := va, time := BitVec.ofNat 64 (s.coreTime k), peer := BitVec.ofNat 32 peer, cause := BitVec.ofNat 16 cause
    kind := if wr then 5 else 4, size := BitVec.ofNat 8 n, src := BitVec.ofNat 16 k, cls := BitVec.ofNat 16 x.cls.toNat
    incarn := BitVec.ofNat 32 x.incarn.toNat }

/-- A copy that fails, is quiet and has no action ends with status FAIL and its cause, behind its record (R191). -/
theorem State.copyFailed_ended {s : State} {k id : Nat} {x : Copy} {cause : Nat} {va : XWord} {wr : Bool} {n : Nat} (hx : (s.core k).copyOf id = some x)
    (ho : (s.core k).Owns x) (htag : x.tag < 64) (hst : x.st = .failing cause va wr n) (hquiet : x.quiet = true) (hmarked : x.marked = []) (ha : x.action = 0) :
    (s.appendErr x.job (s.copyErr k x cause va wr n)).CopyEnded (s.copyFailed k id) k x (BitVec.ofNat 16 (4 + cause * 256)) := by
  have heq : s.copyFailed k id = (s.appendErr x.job (s.copyErr k x cause va wr n)).endCopy k x (BitVec.ofNat 16 (4 + cause * 256)) true := by
    unfold State.copyFailed
    rw [hx]
    dsimp only
    rw [hst]
    dsimp only
    rw [hquiet, hmarked]
    rfl
  rw [heq]
  exact State.endCopy_ended (by rw [State.core_appendErr]; exact ho) htag ha _

/-- Settles O44: the start of the first queued copy, the bytes of a good reply, and the two ends of a copy. -/
theorem copyRunsAndEnds : Obligations.CopyRunsAndEnds := by
  unfold Obligations.CopyRunsAndEnds
  intro k id pid x s hm hcore c ended mine
  refine ⟨fun hfirst hmark hfew hback hclean hposted hx => copyStart_runs hfirst hmark hfew hback hclean hposted hx, ?_, ?_, ?_⟩
  · intro p r d ha _ hb hcopy hr howner hx hst q hq tgt htgt hown hunit n hn
    exact copyReadReply_stores hm ha hcore hb hcopy hr (howner ▸ hx) hst hq htgt hown hunit hn
  · rintro hx ⟨hd, hact, hu, hw, htag⟩ hst hquiet htodo hmarked haction
    have hend := State.copyDone_ended hx ⟨hd, hact, hu, hw⟩ htag hst hquiet htodo hmarked haction
    exact ⟨_, rfl, ⟨Core.id_of_copyOf hx ▸ hend.gone, hend.stat, hend.busy, hend.tags⟩, State.bytesSame_of_mem hend.mem⟩
  · rintro cause va wr n hx ⟨hd, hact, hu, hw, htag⟩ hst hquiet hmarked haction hcause
    have hend := State.copyFailed_ended hx ⟨hd, hact, hu, hw⟩ htag hst hquiet hmarked haction
    refine ⟨_, s.copyErr k x cause va wr n, rfl, ⟨Core.id_of_copyOf hx ▸ hend.gone, hend.stat, hend.busy, hend.tags⟩, ?_, rfl, ?_, ?_, rfl⟩
    · rw [State.job, hend.jobs, ← State.job]; exact s.mem_errs_appendErr ..
    · exact (BitVec.toNat_ofNat ..).trans (Nat.mod_eq_of_lt (by omega))
    · cases wr <;> rfl

end Sys2Proof.Machine
end
